-- ==== Sys2Proof/Word.lean ====
section
/-! DEFINITION. The word types of the Umkirek module and the generic containers its state is built of. -/

namespace Sys2Proof

/-- One byte. -/
abbrev Byte := BitVec 8
/-- A 16-bit register value. -/
abbrev W16 := BitVec 16
/-- A 32-bit register value. -/
abbrev W32 := BitVec 32
/-- A 64-bit register value. -/
abbrev W64 := BitVec 64
/-- A function of the endpoint: 0 is PF0, n is VFn (R1). -/
abbrev Fn := Fin 17
/-- A table of like things, keyed by their number.
A key that is not listed holds the default that its reader names. -/
abbrev Tab (α : Type) := List (Nat × α)

end Sys2Proof
end

