-- ==== Sys2Proof/Types.lean ====
section
/-! DEFINITION. The kinds of data that commands carry as operands. -/

namespace Sys2Proof

/-- A request entry of a request ring, as Hazel copies it from host memory (R202). -/
structure Req where
  cls : Nat
  verb : Nat
  /-- FLAGS [0]. -/
  fence : Bool
  /-- Every reserved header byte and reserved flag bit is zero (R205). -/
  reservedZero : Bool
  partition : Nat
  tag : W32
  payloadLen : Nat
  jobId : W32
  payload : List Byte
deriving DecidableEq, Repr

/-- What the companion's converters measure at a telemetry refresh (R70): VIN in 10 mV, signed currents in 10 mA,
input power in 10 mW, temperatures in 0.125 °C, energies in µJ. -/
structure Telemetry where
  vinA : Nat
  vinB : Nat
  iinA : Int
  iinB : Int
  pin : Nat
  board : Int
  inlet : Int
  einA : W64
  einB : W64
deriving DecidableEq, Repr

/-- A transaction of the rack manager at the PMBus target port: a read, or a write of a value with a good or bad PEC. -/
inductive PmAccess where
  | read
  | write (value : Nat) (pecGood : Bool)
deriving DecidableEq, Repr

/-- The fields of a vector instruction beside its operation code (R311). -/
structure VInstr where
  ty : Nat
  sat : Bool
  pred : Nat
  pinv : Bool
  dst : Nat
  a : Nat
  b : Nat
  c : Nat
  imm : Nat
deriving DecidableEq, Repr

/-- A memory request of the host to a BAR: a read, or a write of `value`. -/
structure BarReq where
  fn : Nat
  off : Nat
  bytes : Nat
  write : Bool
  value : W64
deriving DecidableEq, Repr

/-- A configuration request of the host, as far as the manual gives its data or its effect (R15, R107, R123, R195, R600, R881). -/
inductive CfgReq where
  /-- Reads of the ID registers, of class code and revision, and of anything else. -/
  | readIds
  | readClass
  | readOther
  /-- A write of Command: Memory Space Enable and Bus Master Enable. -/
  | command (mse bme : Bool)
  /-- MSI-X Message Control: MSI-X Enable and Function Mask. -/
  | msix (enable mask : Bool)
  /-- A write of ones to the AER status registers. -/
  | aerClear
  /-- SR-IOV of PF0: VF Enable, NumVFs and ARI Capable Hierarchy. -/
  | sriov (enable : Bool) (numVfs : Fin 17) (ari : Bool)
deriving DecidableEq, Repr

/-- The fields of a flit that its receiver acts on (R551), whether its CRC is good, and its payload. -/
structure Flit where
  seq : Nat
  ackSeq : Nat
  ackValid : Bool
  nak : Bool
  vc : Nat
  cls : Nat
  /-- 0 IDLE, 1 DATA, 2 CONTROL. -/
  kind : Nat
  sot : Bool
  eot : Bool
  crVcc : Nat
  crCount : Nat
  payload : List Byte
deriving DecidableEq, Repr

/-- The fields of a marker block (R549). -/
structure Marker where
  epoch : Nat
  epochMark : Bool
  superframe : Bool
  txLanes : Byte
  rxOk : Byte
  rxReq : Byte
  txTime : Nat
  echoTime : Nat
  echoDelay : Nat
deriving DecidableEq, Repr

/-- A BULK transaction as it arrives (R561, R562): routing header, header fields, content and poisoned content words. -/
structure Bulk where
  src : Nat
  srcPart : Nat
  dstPart : Nat
  xfer : Nat
  offset : Nat
  engine : Nat
  key : Nat
  content : List Byte
  poison : List Nat
deriving DecidableEq, Repr

/-- An ARRIVE or RELEASE record (R567) with its routing header's source and partitions. -/
structure SyncRec where
  src : Nat
  srcPart : Nat
  dstPart : Nat
  barrier : W64
  members : BitVec 128
  v0 : W32
  v1 : W32
  result : Nat
deriving DecidableEq, Repr

/-- A TIME record (R567). -/
structure TimeRec where
  time : W64
  master : Nat
  hops : Nat
deriving DecidableEq, Repr

/-- A MSG record (R564) with its routing header's source and partitions. -/
structure MsgRec where
  src : Nat
  srcPart : Nat
  dstPart : Nat
  /-- Bytes 0x08 and 0x09: the receiving half's channel and the sending half's. -/
  chan : Nat
  peer : Nat
  tag : W16
  /-- WORDS, credits, own port, cause: byte 0x0C, or 0x0A of a CLOSE. -/
  a : Nat
  b : Nat
  c : Nat
  seq : W16
  words : List W64
deriving DecidableEq, Repr

/-- The body of a DEMAND (R788) with its sender. -/
structure Demand where
  src : Nat
  domain : Nat
  eligible : Bool
  leaving : Bool
  hold : Bool
  floorMode : Bool
  demand : Nat
  floor : Nat
  power : Nat
  budget : Nat
  budgetLink : Nat
  budgetStamp : Nat
  round : Nat
deriving DecidableEq, Repr

/-- The body of a GRANT (R788). -/
structure Grant where
  domain : Nat
  short : Bool
  watts : Nat
  round : Nat
  budget : Nat
  heard : Nat
deriving DecidableEq, Repr

/-- What the valid superblock of a namespace says (R707). -/
structure Superblock where
  /-- GUEST, and not HUSK. -/
  guest : Bool
  gen : Nat
  volumeId : Nat
  module : List Byte
  source : List Byte
  sourceLink : Nat
  index : Nat
  members : Nat
  retain : Nat
  segments : Nat
  lbaSize : Nat
  epochHigh : Nat
  sourceVolume : Nat
  serials : List (List Byte)
  nsids : List Nat
deriving DecidableEq, Repr

/-- A namespace as Identify reports it (R632): its number, size in LBAs, LBA data size, whether it has metadata, and its
superblock where one is valid. -/
structure Namespace where
  nsid : Nat
  size : Nat
  lba : Nat
  metadata : Bool
  superblock : Option Superblock
deriving DecidableEq, Repr

/-- A drive as its registers and Identify data show it (R631, R632). -/
structure DriveInfo where
  serial : List Byte
  suitable : Bool
  /-- L1 PM Substates and LTR are supported (R626). -/
  l1ss : Bool
  nss : List Namespace
deriving DecidableEq, Repr

/-- A transaction layer packet at an ingress of the hub: posted 0, non-posted 1, completion 2, and its data length. -/
structure Tlp where
  kind : Nat
  length : Nat
  poisoned : Bool
deriving DecidableEq, Repr

/-- A memory request of a captive drive (R637). -/
inductive DriveReq where
  | read (addr bytes : Nat)
  | write (addr : Nat) (data : List Byte) (poisoned : Bool)
deriving DecidableEq, Repr

/-- What the die measures and estimates over an interval (R777, R801): energy estimates in µJ by region, and by engine segment
(engine, member, job, µJ). -/
structure EnergySlice where
  regions : List (Nat × Nat)
  segments : List (Nat × Nat × W32 × Nat)
deriving DecidableEq, Repr

end Sys2Proof
end

