-- ==== Sys2Proof/Machine/StFabric.lean ====
section
/-! DEFINITION. State of the fabric: regions and repair maps, pods with their switch nodes and cells, sequencing, Sprout cores. -/

namespace Sys2Proof.Machine

/-- A 64-byte word of the fabric, and an operand-cache entry or accumulator row of 128 bytes. -/
abbrev Line := BitVec 512
abbrev Row := BitVec 1024

/-- Pod states, in the order of their codes (R257). -/
inductive PodState where
  | active
  | spareAvailable
  | quarantined
  | failed
deriving DecidableEq, Repr

/-- One region: its active map, its physical pods and its supply (R253–R259). -/
structure Region where
  /-- Binding fields of S1 and S3 in the active map (R254). -/
  s1 : Nat
  s3 : Nat
  sequence : W32
  /-- The map store holds the state shown (R272). -/
  stored : Bool
  /-- State of each physical pod, by slot (R240). -/
  pods : Tab PodState
  /-- Bindings loaded into the repair paths (R267, R268). -/
  loadedS1 : Nat
  loadedS3 : Nat
  /-- FCLK gate of the region is open (R91, R755). -/
  clocked : Bool
deriving DecidableEq, Repr

/-- A region with the factory map of no substitution (R254, R255). -/
def Region.init : Region :=
  { s1 := 0, s3 := 0, sequence := 0, stored := true, pods := [], loadedS1 := 0, loadedS3 := 0
    clocked := false }

/-- One region's record in a bank of the map store (R255). -/
structure MapRec where
  sequence : W32
  s1 : Nat
  s3 : Nat
  pods : Tab PodState
deriving DecidableEq, Repr

/-- A valid bank of the map store (R143); each record is whole, so its CRC holds. -/
structure MapBank where
  sequence : W32
  recs : Tab MapRec
deriving DecidableEq, Repr

/-- Where a word in flight arrives. -/
inductive Dest where
  /-- At an input port of the switch node: 1 N, 2 E, 3 S, 4 W (R243). -/
  | port (p : Nat)
  /-- On the local input, driven by a cell: 0 M0, 1 M1, 2 MX, 3 VX. -/
  | localIn (cell : Nat)
  /-- At a cell, through LOCAL_OUT. -/
  | cell (c : Nat)
deriving DecidableEq, Repr

/-- A valid word in the fabric, due on an advanced fc of its partition (R246, R247). -/
structure Flight where
  due : Nat
  dest : Dest
  word : Line
  poison : Bool
deriving DecidableEq, Repr

/-- A fabric write to a memory cell, complete at the end of fc `due` (R285). -/
structure CellWrite where
  due : Nat
  /-- Device word number: byte address div 64. -/
  wordNo : Nat
  word : Line
  poison : Bool
deriving DecidableEq, Repr

/-- A row travelling through the matrix array (R297, R298). -/
structure Wave where
  entry : Nat
  mode : Nat
  bank : Nat
  row : Nat
  /-- Accumulator row the results are added to; none for MAC_NEW. -/
  old : Option Row
  /-- Elements that entered, and the tile they meet. -/
  input : Line
  half : Nat
  tile : Nat
  /-- Weight rows met so far, row 0 first. -/
  met : List Line
  poison : Bool
deriving DecidableEq, Repr

/-- A line or row with its poison bit. -/
structure PLine where
  data : Line
  poison : Bool
deriving DecidableEq, Repr

structure PRow where
  data : Row
  poison : Bool
deriving DecidableEq, Repr

/-- An operand-cache entry with the poison bits of its halves (R306). -/
structure OcEntry where
  data : Row
  lo : Bool
  hi : Bool
deriving DecidableEq, Repr

/-- A vector result on its way to the operand cache or to a lane mask (R310). -/
inductive VxWrite where
  /-- Destination entry, value, the bytes it writes, poison of the value. -/
  | entry (dst : Nat) (value : Row) (bytes : BitVec 128) (poison : Bool)
  /-- Received half of an entry (R309). -/
  | half (dst : Nat) (h : Nat) (word : Line) (poison : Bool)
  /-- Lane mask Q, new bits, lanes it changes. -/
  | mask (q : Nat) (bits : W64) (lanes : W64)
deriving DecidableEq, Repr

structure VxPending where
  /-- Written at the end of this advanced fc. -/
  due : Nat
  /-- Issue fc: the later of two wins a bank (R308). -/
  issued : Nat
  write : VxWrite
deriving DecidableEq, Repr

/-- What a committed context slot configures in one pod: the blocks of R245, R332, R293 and the vector program. -/
structure PodCfg where
  switch : List Byte
  seq : Tab (List Byte)
  mode : List Byte
  program : List W64
deriving DecidableEq, Repr

/-- One cell's sequencer (R325). -/
structure Seq where
  counters : Tab Nat
  /-- Bounds read at the start of each counter's run (R326). -/
  bounds : Tab Nat
  step : Nat
  /-- Schedule fc on which the current step is due. -/
  next : Nat
  exhausted : Bool
deriving DecidableEq, Repr

def Seq.init : Seq := { counters := [], bounds := [], step := 0, next := 0, exhausted := false }

/-- A logical pod. -/
structure Pod where
  slots : Tab PodCfg
  flights : List Flight
  writes : List CellWrite
  /-- Arrival flags that are set: cell × 8 + bank × 2 + flag set (R289). -/
  flags : List Nat
  /-- Arrival flags awaited and cleared on the current fc (R335). -/
  consumed : List Nat
  latch : PLine
  /-- Accumulator rows by bank × 32 + row. -/
  acc : Tab PRow
  /-- Weight rows by tile × 32 + row, and the tile that is active. -/
  weights : Tab PLine
  active : Nat
  waves : List Wave
  cache : Tab OcEntry
  q : Tab W64
  results : List VxPending
  seq : Tab Seq
deriving DecidableEq, Repr

def Pod.init : Pod :=
  { slots := [], flights := [], writes := [], flags := [], consumed := [], latch := ⟨0, false⟩, acc := []
    weights := [], active := 0, waves := [], cache := [], q := [], results := [], seq := [] }

/-- An ECC error that a stored word carries: one bit or several, arisen or injected (R291, R860). -/
structure EccMark where
  multi : Bool
  injected : Bool
deriving DecidableEq, Repr

/-- What a Sprout core does (R354, R357, R363). -/
inductive SproutRun where
  | halted
  | forward
  | running
  | waiting
  /-- Blocked writing SP_STEER, by an instruction whose destination register is `rd`. -/
  | blockedSteer (word : W32) (rd : Nat)
  /-- Blocked reading SP_INBOX_LO into an integer register. -/
  | blockedInbox (rd : Nat)
  /-- Blocked writing SP_CH_SEND. -/
  | blockedSend (value : W32) (rd : Nat)
deriving DecidableEq, Repr

/-- A Sprout core (R357–R363). -/
structure Sprout where
  run : SproutRun
  pc : W32
  x : Tab W32
  f : Tab W32
  fcsr : W32
  mcycle : W64
  minstret : W64
  mstatus : W32
  mtvec : W32
  mscratch : W32
  mepc : W32
  mcause : W32
  mtval : W32
  mie : W32
  mip : W32
  mcountinhibit : W32
  /-- Local memory; an unlisted byte is zero. -/
  mem : List Host.Cell
  /-- Words of local memory with an ECC error, by address div 4 (R361). -/
  ecc : Tab EccMark
  inboxHi : W32
  schedHi : W32
  /-- Message-channel CSRs (R488). -/
  chPort : Nat
  chTxd : Tab W64
  chWake : W32
  chRxd : Tab W64
  chDiscards : Tab Nat
deriving DecidableEq, Repr

def Sprout.init : Sprout :=
  { run := .halted, pc := 0, x := [], f := [], fcsr := 0, mcycle := 0, minstret := 0, mstatus := 0, mtvec := 0
    mscratch := 0, mepc := 0, mcause := 0, mtval := 0, mie := 0, mip := 0, mcountinhibit := 0, mem := [], ecc := []
    inboxHi := 0, schedHi := 0, chPort := 0, chTxd := [], chWake := 0, chRxd := [], chDiscards := [] }

/-- The fabric. -/
structure Fabric where
  regions : Tab Region
  /-- Banks of the map store that hold a valid header (R142, R143). -/
  banks : Tab MapBank
  /-- Logical pods by index y × 32 + x. -/
  pods : Tab Pod
  sprouts : Tab Sprout
  /-- Memory-cell window: bytes by offset from its base, an unlisted byte is zero. -/
  cells : List Host.Cell
  /-- Poisoned words, words with an ECC error, and words whose corrected value waits to be written back, by word number. -/
  cellPoison : List Nat
  cellEcc : Tab EccMark
  writeBack : List Nat
deriving DecidableEq, Repr

end Sys2Proof.Machine
end

