-- ==== Sys2Proof/Machine/StPart.lean ====
section
/-! DEFINITION. State of the partitions: images, slots, runs, audit counters, fences, shares, saves; and of the message channels. -/

namespace Sys2Proof.Machine

/-- A mover-schedule entry of an image (R380). -/
structure MoverEntry where
  ctx : Nat
  trigger : Nat
  first : Nat
  every : Nat
  count : Nat
  srcAdvance : Int
  dstAdvance : Int
  desc : List Byte
deriving DecidableEq, Repr

/-- A context of an image: its entry (R375), its records by rectangle-relative pod (R376) and its digest (R383). -/
structure Ctx where
  slot : Nat
  next : Nat
  paceCell : Nat
  pacePod : Nat
  passFc : Nat
  reportFc : Nat
  /-- Offset in the image and length of the record of each rectangle-relative pod that has one. -/
  records : Tab (Nat × Nat)
deriving DecidableEq, Repr

/-- A program image that has passed the checks of R385. -/
structure Image where
  length : Nat
  w : Nat
  h : Nat
  initial : Nat
  sproutEntry : W32
  bounds : List Nat
  reportId : W64
  ctxs : List Ctx
  sprout : List Byte
  movers : List MoverEntry
  fingerprints : List Nat
  /-- Offset and length of the SPROUT section, and of what Hazel reads at a load: header and table, contexts, mover schedule, fingerprints. -/
  sproutAt : Nat × Nat
  reads : List (Nat × Nat)
deriving DecidableEq, Repr

/-- An image handle of a partition (R386–R390). -/
structure Handle where
  offset : Nat
  length : Nat
  image : Image
  /-- Check 2 is to be repeated before the next load (R390). -/
  recheck : Bool
deriving DecidableEq, Repr

/-- Slot states, in the order of their codes. -/
inductive SlotState where
  | empty
  | queued
  | shifting
  | committed
deriving DecidableEq, Repr

/-- A context slot of a partition: its state and the handle and image context it holds. -/
structure Slot where
  state : SlotState
  handle : Nat
  ctx : Nat
deriving DecidableEq, Repr

def Slot.init : Slot := { state := .empty, handle := 0, ctx := 0 }

/-- An accepted load (R393): what it loads, and the PART.LOAD it answers. -/
structure Load where
  handle : Nat
  ctx : Nat
  slot : Nat
  fn : Nat
  id : Nat
  /-- Records shifted and shifted again so far. -/
  shifted : Nat
  reshifted : Nat
deriving DecidableEq, Repr

/-- Causes of a partition-wide stall, in the order of their codes (R337). -/
inductive StallCause where
  | await
  | decide
  | foldWait
  | husk
deriving DecidableEq, Repr

/-- A steer on its way to the sequencers, available after `due` elapsed fc (R356). -/
structure SteerFlight where
  word : W32
  due : Nat
deriving DecidableEq, Repr

/-- A summary on its way to the leader's inbox (R355). -/
structure SummaryFlight where
  word : W64
  due : Nat
deriving DecidableEq, Repr

/-- Progress of one mover-schedule entry in the active context (R381). -/
structure MoverProgress where
  entry : MoverEntry
  /-- Index of the entry in the image's schedule. -/
  index : Nat
  issued : Nat
deriving DecidableEq, Repr

/-- A partition's sequencing (R336–R356). -/
structure Run where
  /-- Active slot; none between runs. -/
  active : Option Nat
  /-- Slot the next boundary enters, while it waits in FOLD_WAIT or for a pause to end. -/
  target : Option Nat
  /-- Schedule fc of the active context; fc advanced and fc elapsed since PART.START. -/
  sched : Nat
  advanced : Nat
  elapsed : Nat
  stall : Option StallCause
  foldCount : W32
  bounds : Tab Nat
  flags : Byte
  /-- Pending SET_NEXT: slot 0–3, or 4 END (R350). -/
  pendingNext : Option Nat
  /-- Steers consumed on this fc, which act from the next one (R350). -/
  acting : List W32
  /-- A FOLD consumed on the last fc sets the boundary on this one (R350). -/
  foldNow : Option Nat
  /-- Steers available, oldest first, and steers on their way. -/
  steers : List W32
  steerFlights : List SteerFlight
  inbox : List W64
  overrun : Bool
  summaryFlights : List SummaryFlight
  /-- Stall fc of the fold in progress, pace passes counted by the audit unit. -/
  foldStall : Nat
  passes : Nat
  /-- fc of the stall in progress; of an AWAIT stall, rectangle-relative pod × 16 + AWAIT_SEL of the flag awaited. -/
  stallLen : Nat
  stallAt : Nat
  movers : List MoverProgress
  /-- JOB_ID of the PART.START or PART.RESUME (R440). -/
  jobId : W32
  /-- A snapshot or save pause is pending at the next boundary; the pause is in force (R367). -/
  pausePending : Bool
  paused : Bool
deriving DecidableEq, Repr

def Run.init : Run :=
  { active := none, target := none, sched := 0, advanced := 0, elapsed := 0, stall := none, foldCount := 0, bounds := []
    flags := 0, pendingNext := none, acting := [], foldNow := none, steers := [], steerFlights := [], inbox := [], overrun := false
    summaryFlights := [], foldStall := 0, passes := 0, stallLen := 0, stallAt := 0, movers := [], jobId := 0, pausePending := false, paused := false }

/-- Audit counters (R412). -/
structure Audit where
  schedFc : W64
  stallFc : W64
  stallAwait : W64
  stallDecide : W64
  stallFoldWait : W64
  stallHusk : W64
  folds : W32
  lastFoldFc : W64
  lastFoldStall : W32
  lastFoldInfo : W32
  mismatch : W16
deriving DecidableEq, Repr

def Audit.init : Audit :=
  { schedFc := 0, stallFc := 0, stallAwait := 0, stallDecide := 0, stallFoldWait := 0, stallHusk := 0, folds := 0
    lastFoldFc := 0, lastFoldStall := 0, lastFoldInfo := 0, mismatch := 0 }

/-- Fence states, in the order of their codes (R433–R437). -/
inductive FenceState where
  | open
  | draining
  | terminating
  | closed
deriving DecidableEq, Repr

/-- A fence with its last cause (FN_PART_STATUS). -/
structure Fence where
  state : FenceState
  reason : Nat
deriving DecidableEq, Repr

def Fence.init : Fence := { state := .open, reason := 0 }

/-- Partition states, in the order of their codes (R430). -/
inductive PartState where
  | free
  | assigned
  | loaded
  | running
  | stalled
  | saved
  | draining
  | faulted
deriving DecidableEq, Repr

/-- A token-bucket regulator: RATE in MB/s, BURST in KiB, level in bytes (R447). -/
structure Regulator where
  rate : Nat
  burst : Nat
  level : Int
deriving DecidableEq, Repr

def Regulator.init : Regulator := { rate := 0, burst := 64, level := 65536 }

/-- What a save area or a restored epoch holds of a partition (R450): the device's own format, kept as data. -/
structure Saved where
  /-- The save area of PART.SAVE; none for a restored epoch. -/
  addr : Option Nat
  /-- State recorded at the save. -/
  state : PartState
  /-- Memory-cell bytes by rectangle-relative window offset, and poisoned words. -/
  cells : List Host.Cell
  poison : List Nat
  sprout : Sprout
  run : Run
  audit : Audit
  slots : Tab Slot
  loads : List Load
  /-- Image handles with their pins, the number of the next one, and the handle that the partition is bound to (R743). -/
  images : Tab Handle
  nextHandle : Nat
  bound : Option Nat
  origin : Nat
  w : Nat
  h : Nat
deriving DecidableEq, Repr

/-- How a drain ends, and the command that waits for it (R430, R455, R457). -/
inductive DrainEnd where
  /-- PART.RESET, an FLR or PART.DESTROY: the partition becomes ASSIGNED, or FREE. -/
  | reset (destroy : Bool)
  /-- PART.POWER OFF: the state to return to. -/
  | power (back : PartState)
deriving DecidableEq, Repr

/-- A drain in progress. -/
structure Drain where
  finish : DrainEnd
  fn : Nat
  id : Nat
  /-- Cause code of the state change that ends it. -/
  cause : Nat
  /-- When it began; engine commands retired and channels closed so far. -/
  start : W64
  retired : Nat
  closed : Nat
deriving DecidableEq, Repr

/-- An abort in progress (R402): its command, with the fold count, slot and schedule fc that it reports. -/
structure AbortJob where
  fn : Nat
  id : Nat
  folds : W32
  slot : Nat
  fc : W64
deriving DecidableEq, Repr

/-- A save in progress: the command and its operands. -/
structure SaveJob where
  fn : Nat
  id : Nat
  addr : Nat
  release : Bool
deriving DecidableEq, Repr

/-- A partition. -/
structure Part where
  state : PartState
  origin : Nat
  w : Nat
  h : Nat
  tenant : Bool
  powered : Bool
  /-- Code of the fault that made it FAULTED. -/
  fault : Nat
  drainUs : Nat
  /-- Windows in grant order: first unit, units (R424). -/
  windows : List (Nat × Nat)
  handles : Tab Handle
  nextHandle : Nat
  bound : Option Nat
  slots : Tab Slot
  loads : List Load
  /-- The head load is being shifted (R394). -/
  shifting : Bool
  run : Run
  audit : Audit
  fence : Fence
  drain : Option Drain
  saved : Option Saved
  saveJob : Option SaveJob
  abortJob : Option AbortJob
  /-- A resume that waits until its regions are zeroed: its command. -/
  resumeJob : Option (Nat × Nat)
  weight : Tab Nat
  quota : Tab Nat
  regs : Tab Regulator
deriving DecidableEq, Repr

/-- The partition's schedule may advance: it runs or is stalled, or it drains for a PART.POWER OFF, at the end of whose window the schedule
stops (R430, R457). -/
def Part.inRun (x : Part) : Bool :=
  x.state = .running || x.state = .stalled
    || (x.state = .draining && x.drain.any (fun d => d.finish = .power .assigned) && (x.run.active.isSome || x.run.target.isSome))

/-- A FREE partition, with the default shares of R442. -/
def Part.init : Part :=
  { state := .free, origin := 0, w := 0, h := 0, tenant := false, powered := false, fault := 0, drainUs := 100
    windows := [], handles := [], nextHandle := 1, bound := none, slots := [], loads := [], shifting := false
    run := Run.init, audit := Audit.init, fence := Fence.init, drain := none, saved := none, saveJob := none, abortJob := none, resumeJob := none
    weight := [], quota := [], regs := [] }

/-- Endpoint kinds, in the order of their codes (R462). -/
inductive EpKind where
  | sprout
  | host
  | hazel
  | remote
deriving DecidableEq, Repr

/-- An endpoint of a channel (R462). -/
structure Endpoint where
  kind : EpKind
  owner : Nat
  port : Nat
  linkId : Nat
deriving DecidableEq, Repr

/-- A message (R465). -/
structure Message where
  words : List W64
  tag : W16
deriving DecidableEq, Repr

/-- Channel states, in the order of their codes (R471). -/
inductive ChanState where
  | free
  | pending
  | open
  | closed
deriving DecidableEq, Repr

/-- One channel, or the local half of a cross-device channel (R462–R483). -/
structure Chan where
  state : ChanState
  nack : Bool
  depth : Nat
  sender : Endpoint
  receiver : Endpoint
  /-- Messages readable, oldest first, and messages on their way. -/
  queue : List Message
  transit : List Message
  /-- Credits held by a local sender, and credits on their way back to it. -/
  credits : Nat
  creditTransit : Nat
  closeCause : Nat
  /-- The end has gone. -/
  senderGone : Bool
  receiverGone : Bool
  sent : W32
  delivered : W32
  nacked : W32
  discarded : W32
  /-- Cross-device: the peer's channel number, next CH_SEQ sent and expected, early records, pops not yet credited. -/
  peerChan : Nat
  txSeq : W16
  rxSeq : W16
  early : List (W16 × Message)
  uncredited : Nat
deriving DecidableEq, Repr

/-- An entry of a NACK status queue (R470). -/
structure Nack where
  tag : W16
  port : Nat
  lost : Bool
deriving DecidableEq, Repr

/-- A NACK status queue of 16 entries, and whether the next entry popped reports a loss. -/
structure NackQueue where
  entries : List Nack
  lost : Bool
deriving DecidableEq, Repr

def NackQueue.init : NackQueue := { entries := [], lost := false }

/-- A host port page (R484). -/
structure PortPage where
  tx : Tab W64
  ctrl : Nat
  rxTag : W16
  rxWords : Tab W64
  discards : Nat
deriving DecidableEq, Repr

def PortPage.init : PortPage := { tx := [], ctrl := 0, rxTag := 0, rxWords := [], discards := 0 }

/-- The message channels. -/
structure Channels where
  chan : Tab Chan
  /-- Port pages by function × 16 + port. -/
  pages : Tab PortPage
  /-- NACK status queues of functions, and of partitions' Sprout cores. -/
  fnNack : Tab NackQueue
  partNack : Tab NackQueue
deriving DecidableEq, Repr

def Channels.init : Channels := { chan := [], pages := [], fnNack := [], partNack := [] }

end Sys2Proof.Machine
end

