-- ==== Sys2Proof/Machine/StHusk.lean ====
section
/-! DEFINITION. State of the Husk engine: epochs, dirty marks, reserve, volumes with their log, drain, mirror, restore. -/

namespace Sys2Proof.Machine

/-- HUSK.CONFIG in force (R668). -/
structure HuskCfg where
  reserveFirst : Nat
  reserveUnits : Nat
  areaFirst : Nat
  parity : Bool
  buddy : Option Nat
  rateMax : Nat
deriving DecidableEq, Repr

/-- Epoch states, in the order of their codes (R661). -/
inductive EpochState where
  | open
  | frozen
  | draining
  | committed
  | incomplete
  | superseded
deriving DecidableEq, Repr

/-- A record of the log as its descriptor describes it (R712), with the member that holds it. -/
structure LogRec where
  epoch : Nat
  /-- 1 HBM, 2 CELL, 3 STATE, 4 PARITY, 5 INDEX, 6 COMMIT, 7 SYSTEM. -/
  kind : Nat
  whole : Bool
  poison : Nat
  partition : Nat
  seq : Nat
  address : Nat
  crc : W32
  member : Nat
deriving DecidableEq, Repr

/-- A partition of a commit record (R715). -/
structure PartEntry where
  part : Nat
  origin : Nat
  w : Nat
  h : Nat
  state : PartState
  folds : W32
  windows : List (Nat × Nat)
deriving DecidableEq, Repr

/-- An epoch on a volume: what its commit record says, and its index (R714, R715). -/
structure Epoch where
  number : Nat
  state : EpochState
  cause : Nat
  base : Bool
  /-- 0 not SYSTEM, 1 undecided, 2 committed, 3 abandoned. -/
  sys : Nat
  partMask : Nat
  scope : Nat
  snapKey : W32
  atFold : W32
  /-- Units in scope, units drained whole, deltas by unit. -/
  units : List Nat
  wholeUnits : List Nat
  deltas : Tab Nat
  live : List Nat
  written : List Nat
  parityMember : Option Nat
  d : Nat
  parity : Bool
  degraded : Bool
  localDegraded : Bool
  mirrored : Bool
  missing : Bool
  volumeId : W64
  commitTime : W64
  parts : List PartEntry
  /-- What the participants' state blocks hold. -/
  states : Tab Saved
  /-- The index: data records by SEQ, then parity rows. -/
  recs : List LogRec
  /-- A SYSTEM record of it is durable. -/
  system : Bool
deriving DecidableEq, Repr

/-- An extent: offset of its header within the segment, and its records (R712). -/
structure Extent where
  at_ : Nat
  relocated : Bool
  recs : List LogRec
deriving DecidableEq, Repr

/-- A segment in use on a member (R711). -/
structure Segment where
  index : Nat
  seq : Nat
  openEpoch : Nat
  extents : List Extent
deriving DecidableEq, Repr

/-- A member of a volume (R705): what identifies it, what its drive holds and where it is written. -/
structure Member where
  serial : List Byte
  nsid : Nat
  gen : Nat
  copy : Nat
  epochHigh : Nat
  segments : Nat
  lba : Nat
  inUse : List Segment
  /-- The segment at the write position; the extent there still takes records. -/
  current : Option Nat
  extOpen : Bool
  /-- Highest SEG_SEQ that the member has held. -/
  seqHigh : Nat
deriving DecidableEq, Repr

/-- Volume states, in the order of their codes (R710). -/
inductive VolState where
  | none
  | mounting
  | ready
  | degraded
  | failed
deriving DecidableEq, Repr

/-- A volume: the husk volume is volume 0, guest volumes are 1–4. -/
structure Volume where
  state : VolState
  id : W64
  guest : Bool
  sourceVolume : W64
  sourceSerial : List Byte
  sourceLink : Nat
  retain : Nat
  members : Tab Member
  /-- Epochs in ascending number. -/
  epochs : List Epoch
  mounted : Bool
deriving DecidableEq, Repr

def Volume.init : Volume :=
  { state := .none, id := 0, guest := false, sourceVolume := 0, sourceSerial := [], sourceLink := 0, retain := 1
    members := [], epochs := [], mounted := false }

/-- An epoch as it is written to a volume (R717–R722, R727). -/
structure Writer where
  epoch : Nat
  live : List Nat
  parity : Option Nat
  d : Nat
  /-- Next data SEQ; rows whose parity record is still to be written: exclusive or, POISON and number of the data records taken in. -/
  next : Nat
  rows : Tab (List Byte × Nat × Nat)
  recs : List LogRec
  /-- Every data record has been issued. -/
  ended : Bool
  lost : List Nat
  /-- The loss that is not covered was a failed write or Flush. -/
  byError : Bool
  /-- 0 superblocks, 1 records, 2 index, 3 Flush, 4 outcome awaited, 5 COMMIT copies. -/
  stage : Nat
  bytes : Nat
  /-- Members whose COMMIT copy is durable. -/
  copies : List Nat
  jobId : W32
  /-- A guest epoch: what the source's COMMIT content says. -/
  source : Option Epoch
deriving DecidableEq, Repr

/-- A participant of a snapshot (R677): 0 waits for its pause point, 1 paused and holding writes, 2 flipped, 3 resumed. -/
structure SnapPart where
  part : Nat
  phase : Nat
  pausedAt : W64
deriving DecidableEq, Repr

/-- The snapshot that is pending, FROZEN or DRAINING (R673). -/
structure Snap where
  fn : Nat
  cmdId : Nat
  jobId : W32
  scope : Nat
  full : Bool
  atFold : W32
  snapKey : W32
  members : List (Nat × Nat)
  /-- Partition named for this device in a system snapshot. -/
  self : Nat
  parts : List SnapPart
  /-- Units that were due whole, of the scope (R666, R748). -/
  wholeDue : List Nat
  /-- Cell images and state blocks still to be drained: partition and offset in the snapshot area (R669, R687). -/
  images : List (Nat × Nat)
  total : Nat
  drained : Nat
  /-- Millisecond of the drain rate's average, and bytes issued in it (R689). -/
  rateAt : Nat
  rateBytes : Nat
  cow : W64
  startTime : W64
  endTime : W64
  /-- When writers came to be held on a full reserve, and the time they were held so far, in ns (R673). -/
  heldSince : Option W64
  stallNs : Nat
  /-- Buddy: 0 not used, 1 BUDDY_OPEN sent, 2 streaming, 3 BUDDY_COMMIT sent, 4 acknowledged, 5 failed. -/
  buddy : Nat
  /-- Status with which it failed; records sent to it. -/
  buddyStatus : Nat
  streamed : Nat
  /-- An OUTCOME 0 has been received (R698). -/
  abandoned : Bool
  pauseMax : Nat
deriving DecidableEq, Repr

/-- A system snapshot whose local epoch has ended, and whose barrier has not released (R695–R699). -/
structure SysWait where
  fn : Nat
  cmdId : Nat
  epoch : Nat
  partMask : Nat
  snapKey : W32
  self : Nat
  n : Nat
  /-- HUSK.SNAP has had its final response; it completed undecided (R699). -/
  answered : Bool
  undecided : Bool
  payload : List Byte
deriving DecidableEq, Repr

/-- A reserve entry (R681–R683): the granule it holds, who wrote it, whether its copy has ended, and the order of the copies. -/
structure Reserve where
  entry : Nat
  granule : Nat
  part : Nat
  copied : Bool
  /-- Data SEQ under which it is being drained. -/
  seq : Option Nat
  /-- The drive write of its granule has completed. -/
  written : Bool
  order : Nat
deriving DecidableEq, Repr

/-- A tracked write held for a copy or for a full reserve (R682, R684). -/
structure HeldWrite where
  granule : Nat
  /-- Who writes: partition 0–15, or 16 for DEVICE. -/
  part : Nat
  addr : Nat
  data : List Byte
  poison : Bool
deriving DecidableEq, Repr

/-- One record that a restore reads: the epoch it belongs to, and its descriptor. -/
structure PlanItem where
  epoch : Nat
  item : LogRec
deriving DecidableEq, Repr

/-- A reader of planned records (R743, R744): of this module's restore, or of a fetch that it serves. -/
structure Reader where
  volume : Nat
  epoch : Nat
  plan : List PlanItem
  pos : Nat
  /-- Epochs in use (R730). -/
  used : List Nat
  /-- The record is being rebuilt from its row: reads awaited, exclusive or so far, a read that failed. -/
  rebuilding : Bool
  awaited : Nat
  acc : List Byte
  broken : Bool
  parityUsed : Bool
  records : Nat
  bytes : Nat
  poisoned : Nat
deriving DecidableEq, Repr

/-- A restore in progress (R743). -/
structure Restore where
  fn : Nat
  cmdId : Nat
  jobId : W32
  buddy : Option Nat
  allowPoison : Bool
  mask : Nat
  volumeId : W64
  /-- The epoch restored, once it is known. -/
  epoch : Option Epoch
  deltas : Nat
  startTime : W64
  /-- STATE records that were lost. -/
  lostState : List Nat
  /-- The command has had its response, or lost it to a reset: RESTORE_DONE alone tells (R749). -/
  silent : Bool
deriving DecidableEq, Repr

/-- A fetch served to another module (R726, R743): the guest volume's reader streams to it. -/
structure Fetch where
  dst : Nat
  sent : Nat
deriving DecidableEq, Repr

/-- A compaction in progress (R733): segments still to do, as member and SEG_SEQ; the extent under way; writes outstanding. -/
structure Compact where
  fn : Nat
  cmdId : Nat
  volume : Nat
  left : List (Nat × Nat)
  /-- Place of the extent under way among its segment's. -/
  ext : Nat
  /-- 0 between extents, 1 moving records, 2 header, 3 Flush, 4 source freed. -/
  stage : Nat
  freed : Nat
  relocated : Nat
deriving DecidableEq, Repr

/-- What Hazel reads of a volume's present members when it mounts it (R709): segments in use with their extents, by member, and the epochs
that COMMIT, SYSTEM and INDEX records describe. -/
structure MountInfo where
  members : Tab (List Segment)
  epochs : List Epoch
deriving DecidableEq, Repr

/-- A format in progress (R736). -/
structure Format where
  fn : Nat
  cmdId : Nat
  volume : Nat
  /-- A superblock write failed. -/
  failed : Bool
deriving DecidableEq, Repr

/-- The Husk engine. -/
structure Husk where
  cfg : Option HuskCfg
  /-- Granules marked in the open epoch; in the epoch being taken (R664). -/
  openMarks : List Nat
  frozenMarks : List Nat
  /-- Granules of the epoch being taken that are drained or copied. -/
  settled : List Nat
  /-- Units that must be drained whole at their next snapshot (R666, R748). -/
  needWhole : List Nat
  epoch : Nat
  lastCommitted : Nat
  lastSystem : Nat
  /-- Epochs that never reached a volume's list: number, state, cause, mask. -/
  current : Option Epoch
  snap : Option Snap
  /-- Granules of the most recent epoch whose snapshot is over: in total, and drained. -/
  lastTotal : Nat
  lastDrained : Nat
  /-- System snapshots that wait for their barriers. -/
  waiting : List SysWait
  reserve : List Reserve
  nextOrder : Nat
  heldWrites : List HeldWrite
  fullRaised : Bool
  cowTotal : W64
  lastPause : W32
  volumes : Tab Volume
  /-- Epochs being written, by volume; readers: 0 the restore's, 1–4 of fetches served from guest volumes. -/
  writers : Tab Writer
  readers : Tab Reader
  restore : Option Restore
  /-- Progress record in the HBM state record (R749). -/
  progress : Option (Restore × Reader)
  compact : Option Compact
  format : Option Format
  fetches : Tab Fetch
deriving DecidableEq, Repr

def Husk.init : Husk :=
  { cfg := none, openMarks := [], frozenMarks := [], settled := [], needWhole := [], epoch := 0, lastCommitted := 0
    lastSystem := 0, current := none, snap := none, lastTotal := 0, lastDrained := 0, waiting := [], reserve := [], nextOrder := 0, heldWrites := [], fullRaised := false
    cowTotal := 0, lastPause := 0, volumes := [], writers := [], readers := [], restore := none, progress := none
    compact := none, format := none, fetches := [] }

end Sys2Proof.Machine
end

