-- ==== Sys2Proof/Syntax.lean ====
section
/-! DEFINITION. The commands: one constructor for each row of the opcode table, with the row's operands. -/

namespace Sys2Proof

/-- The commands of the module (spec/opcode_table.json). -/
inductive Instr where
  /-- RL_LOW_HALF_READ (R8). A read of the low half of a 64-bit RL counter returns it and latches the high half into the reading function's shadow. -/
  | rlLowHalfRead (fn : Fn) (off bytes : Nat)
  /-- RC_FIELD_READ (R4). A read of an RC field returns its value and clears it to its after-reset value for the reading function. -/
  | rcFieldRead (fn : Fn) (off bytes : Nat)
  /-- REGISTER_WRITE (R4). A write to a register field with no row of its own acts according to its access code (RW, W1C, W1S or WO). -/
  | registerWrite (fn : Fn) (off bytes : Nat) (value : W64)
  /-- FEED_QUALIFY (R35). VIN of a feed in OFF rises above the UV rising threshold with OPERATION ON, and the feed enters QUALIFY. -/
  | feedQualify (f : Fin 2) (vin : Nat)
  /-- QUALIFY_WINDOW_EXPIRY (R35). VIN has stayed within the window for 50 ms and the feed enters RAMP. -/
  | qualifyWindowExpiry (f : Fin 2)
  /-- VIN_OUT_OF_WINDOW (R35). VIN of a feed in QUALIFY leaves the window and the feed returns to OFF. -/
  | vinOutOfWindow (f : Fin 2) (vin : Nat)
  /-- FEED_POWER_GOOD (R911). A ramping feed's output node comes within 1.0 V of its VIN and the feed enters ON, enabling loads if it is the first. -/
  | feedPowerGood (f : Fin 2) (node vin : Nat)
  /-- RAMP_TIMEOUT (R40). A feed has not reached power-good 200 ms after entering RAMP and trips with cause RAMP_TIMEOUT. -/
  | rampTimeout (f : Fin 2)
  /-- VIN_UV_FALL (R35). VIN of a feed in ON falls below the UV falling threshold and the feed goes OFF. -/
  | vinUvFall (f : Fin 2) (vin : Nat)
  /-- OV_TRIP (R37). VIN of a feed in ON rises above the OV threshold and the pass transistor turns off within 5 µs, entering TRIPPED. -/
  | ovTrip (f : Fin 2) (vin : Nat) (fast : Bool)
  /-- OC_TIMER_TRIP (R43). A feed's breaker timer expires with current above IIN_OC_FAULT_LIMIT and the feed trips with cause OC_TIMER. -/
  | ocTimerTrip (f : Fin 2) (iin : Int)
  /-- OC_FAST_TRIP (R44). A feed's current exceeds twice its limit and the hardware comparator turns it off within 1 µs. -/
  | ocFastTrip (f : Fin 2) (iin : Int)
  /-- OC_WARN (R45). A feed's current exceeds IIN_OC_WARN_LIMIT and WARN_OC is raised without a state change. -/
  | ocWarn (f : Fin 2) (iin : Int)
  /-- RETRY_TIMER_EXPIRY (R46). The 1 s TRIPPED timer expires and the feed retries through QUALIFY or enters LATCHED. -/
  | retryTimerExpiry (who : Fin 3)
  /-- RETRY_COUNT_RESTORE (R46). A feed has stayed in ON for 60 s and its retry count is restored to the set value. -/
  | retryCountRestore (f : Fin 2)
  /-- INRUSH_SLEW_ADJUST (R39). Every 10 µs during RAMP the companion adjusts the gate current to hold the output slew at MFR_INRUSH_SLEW. -/
  | inrushSlewAdjust (f : Fin 2) (slew : Nat)
  /-- REVERSE_CURRENT_TRIP (R48). Reverse current through a feed's ORing transistor exceeds 1.0 A and the transistor turns off. -/
  | reverseCurrentTrip (f : Fin 2) (iin : Int)
  /-- ORING_MODE_APPLY (R51). A stored MFR_ORING_MODE is applied when both feeds are next in ON. -/
  | oringModeApply
  /-- SLOT_ON_REQUEST (R53). A CP_SLOT_CTRL bit requests a bay on, and the companion queues or starts its ramp. -/
  | slotOnRequest (bay : Fin 8)
  /-- SLOT_OFF_REQUEST (R57). A CP_SLOT_CTRL bit is cleared and the companion switches the bay off, stopping any ramp. -/
  | slotOffRequest (bay : Fin 8)
  /-- BAY_RAMP_START (R55). A ramp slot frees and the companion starts the next requested bay in ascending number. -/
  | bayRampStart
  /-- BAY_POWER_GOOD (R53). Both bay outputs come within 5 % of nominal and the bay is reported ON. -/
  | bayPowerGood (bay : Fin 8)
  /-- BAY_RAMP_TIMEOUT (R54). A bay has not reached ON 20 ms after enable and is switched off with SLOT_FAULT. -/
  | bayRampTimeout (bay : Fin 8)
  /-- BAY_OVERCURRENT_TRIP (R56). A bay's 12 V current limit holds for more than 5 ms and the bay is switched off with SLOT_FAULT. -/
  | bayOvercurrentTrip (bay : Fin 8)
  /-- BAY_DISCHARGED (R57). Both outputs of a bay switched off fall below 1.0 V and the bay is reported OFF. -/
  | bayDischarged (bay : Fin 8)
  /-- AUX_LOSS (R902). 3V3AUX is lost; the companion completes any retention update from hold-up and removes the die rails and feeds. -/
  | auxLoss
  /-- COMPANION_START (R62). The companion starts from 3V3AUX, samples ADDR, completes any interrupted counter update and counts the power-on reset. -/
  | companionStart (addr : Fin 8)
  /-- DIE_RSTOUT_FALL (R64). DIE_RSTOUT_N falls; the companion samples RCAUSE, increments the reset counter and writes the cause record. -/
  | dieRstoutFall (cut : Option Nat)
  /-- DIE_RSTOUT_RISE (R64). DIE_RSTOUT_N rises; the companion resamples RCAUSE and rewrites the cause record if a merge changed it. -/
  | dieRstoutRise
  /-- WAKE_IN_RECOGNISED (R66). WAKE_IN is low for 1 ms or longer in OFF, DEEP or SLEEP, and the wake cause is written and the wake sequence started. -/
  | wakeInRecognised
  /-- ERRLOG_COMMIT (R67). A write of 1 to CP_ERRLOG_COMMIT appends the staged record to the companion's retained ring. -/
  | errlogCommit
  /-- COMPANION_SPI_READ (R68). A read frame on the companion SPI returns status, data and CRC-32C. -/
  | companionSpiRead (addr count : Nat)
  /-- COMPANION_SPI_WRITE (R69). A write frame on the companion SPI with no row of its own is checked and applied, or refused by status. -/
  | companionSpiWrite (addr : Nat) (data : List W32) (crcGood : Bool)
  /-- VREG_REQUEST (R74). A write to CP_VREG_REQ sends the new setpoint to the fabric regulator, abandoning any unsettled one. -/
  | vregRequest (mv : Nat) (seq : W16)
  /-- VREG_SETTLED (R74). READ_VOUT comes within 10 mV of the setpoint and the companion sets SETTLED and VREG_DONE. -/
  | vregSettled (vout : Nat)
  /-- REG_FAULT_DETECTED (R84). The regulator reports a fault or misses three acknowledges, and REG_FAULT is set with the last settled setpoint held. -/
  | regFaultDetected (noAck : Bool) (statusWord : W16)
  /-- TELEMETRY_REFRESH (R70). The companion refreshes its telemetry registers at least every 100 µs. -/
  | telemetryRefresh (t : Telemetry)
  /-- FASTCAP_THRESHOLD_RELOAD (R72). Firmware reloads the FASTCAP hardware thresholds every 100 µs. -/
  | fastcapThresholdReload
  /-- FASTCAP_ASSERT (R72). A FASTCAP condition arises and the companion asserts FASTCAP, and the die steps to FASTCAP_DIV. -/
  | fastcapAssert (iinA iinB : Int)
  /-- FASTCAP_RELEASE (R73). No FASTCAP condition has held for 1 ms and the minimum 50 µs has passed, so FASTCAP is released. -/
  | fastcapRelease (iinA iinB : Int)
  /-- COMPANION_IRQ (R71). CMP_IRQ0_N or CMP_IRQ1_N asserts and Hazel reads the companion status and ring. -/
  | companionIrq
  /-- PAGE (R77). PMBus PAGE selects feed A, feed B or both. -/
  | pmPage (a : PmAccess)
  /-- OPERATION (R78). PMBus OPERATION turns a feed on or off, refused when it would switch the module off. -/
  | pmOperation (a : PmAccess)
  /-- ON_OFF_CONFIG (R14). PMBus ON_OFF_CONFIG returns 0x18. -/
  | pmOnOffConfig (a : PmAccess)
  /-- CLEAR_FAULTS (R35). PMBus CLEAR_FAULTS clears status and moves a LATCHED feed to QUALIFY. -/
  | pmClearFaults (a : PmAccess)
  /-- WRITE_PROTECT (R14). PMBus WRITE_PROTECT reads or sets write protection. -/
  | pmWriteProtect (a : PmAccess)
  /-- CAPABILITY (R14). PMBus CAPABILITY returns 0xD0. -/
  | pmCapability (a : PmAccess)
  /-- VIN_OV_FAULT_LIMIT (R36). PMBus VIN_OV_FAULT_LIMIT reads or sets the OV thresholds. -/
  | pmVinOvFaultLimit (a : PmAccess)
  /-- VIN_UV_FAULT_LIMIT (R36). PMBus VIN_UV_FAULT_LIMIT reads or sets the UV thresholds. -/
  | pmVinUvFaultLimit (a : PmAccess)
  /-- IIN_OC_FAULT_LIMIT (R43). PMBus IIN_OC_FAULT_LIMIT reads or sets a feed's e-fuse limit. -/
  | pmIinOcFaultLimit (a : PmAccess)
  /-- IIN_OC_WARN_LIMIT (R45). PMBus IIN_OC_WARN_LIMIT reads or sets a feed's warning limit. -/
  | pmIinOcWarnLimit (a : PmAccess)
  /-- STATUS_BYTE (R81). PMBus STATUS_BYTE returns the summary status. -/
  | pmStatusByte (a : PmAccess)
  /-- STATUS_WORD (R81). PMBus STATUS_WORD returns the summary status word. -/
  | pmStatusWord (a : PmAccess)
  /-- STATUS_INPUT (R45). PMBus STATUS_INPUT reads or clears input fault and warning bits. -/
  | pmStatusInput (a : PmAccess)
  /-- STATUS_TEMPERATURE (R14). PMBus STATUS_TEMPERATURE reads or clears temperature status. -/
  | pmStatusTemperature (a : PmAccess)
  /-- STATUS_CML (R77). PMBus STATUS_CML reads or clears communication status. -/
  | pmStatusCml (a : PmAccess)
  /-- STATUS_MFR_SPECIFIC (R86). PMBus STATUS_MFR_SPECIFIC reads or clears manufacturer status bits. -/
  | pmStatusMfrSpecific (a : PmAccess)
  /-- READ_EIN (R70). PMBus READ_EIN returns input energy. -/
  | pmReadEin (a : PmAccess)
  /-- READ_VIN (R70). PMBus READ_VIN returns the page's input voltage. -/
  | pmReadVin (a : PmAccess)
  /-- READ_IIN (R70). PMBus READ_IIN returns the page's input current. -/
  | pmReadIin (a : PmAccess)
  /-- READ_TEMPERATURE_1 (R70). PMBus READ_TEMPERATURE_1 returns the board temperature. -/
  | pmReadTemperature1 (a : PmAccess)
  /-- READ_TEMPERATURE_2 (R70). PMBus READ_TEMPERATURE_2 returns the inlet temperature. -/
  | pmReadTemperature2 (a : PmAccess)
  /-- READ_PIN (R70). PMBus READ_PIN returns input power per page or in total. -/
  | pmReadPin (a : PmAccess)
  /-- PMBUS_REVISION (R14). PMBus PMBUS_REVISION returns 0x44. -/
  | pmPmbusRevision (a : PmAccess)
  /-- MFR_ID (R15). PMBus MFR_ID returns VRELGEN. -/
  | pmMfrId (a : PmAccess)
  /-- MFR_MODEL (R15). PMBus MFR_MODEL returns WN-200. -/
  | pmMfrModel (a : PmAccess)
  /-- MFR_REVISION (R15). PMBus MFR_REVISION returns A2. -/
  | pmMfrRevision (a : PmAccess)
  /-- MFR_SERIAL (R15). PMBus MFR_SERIAL returns the 12-character serial. -/
  | pmMfrSerial (a : PmAccess)
  /-- MFR_RACK_BUDGET (R79). PMBus MFR_RACK_BUDGET stores a rack budget in CP_RACK_BUDGET and sets BUDGET_WRITE, or is discarded during an update. -/
  | pmMfrRackBudget (a : PmAccess)
  /-- MFR_FLOOR_SHARE (R80). PMBus MFR_FLOOR_SHARE reads or sets the floor share. -/
  | pmMfrFloorShare (a : PmAccess)
  /-- MFR_MODULE_CAP (R792). PMBus MFR_MODULE_CAP returns the cap in force. -/
  | pmMfrModuleCap (a : PmAccess)
  /-- MFR_DEMAND (R790). PMBus MFR_DEMAND returns the demand reported to the steward. -/
  | pmMfrDemand (a : PmAccess)
  /-- MFR_STEWARD (R789). PMBus MFR_STEWARD returns the steward and silence flags. -/
  | pmMfrSteward (a : PmAccess)
  /-- MFR_ORING_MODE (R51). PMBus MFR_ORING_MODE reads or sets the ORing mode, applied now or when both feeds are ON. -/
  | pmMfrOringMode (a : PmAccess)
  /-- MFR_INRUSH_SLEW (R39). PMBus MFR_INRUSH_SLEW reads or sets the inrush slew. -/
  | pmMfrInrushSlew (a : PmAccess)
  /-- MFR_BREAKER_TIME (R43). PMBus MFR_BREAKER_TIME reads or sets the breaker time. -/
  | pmMfrBreakerTime (a : PmAccess)
  /-- MFR_RETRY_POLICY (R46). PMBus MFR_RETRY_POLICY reads or sets the retry count. -/
  | pmMfrRetryPolicy (a : PmAccess)
  /-- MFR_RESET_COUNT (R63). PMBus MFR_RESET_COUNT returns the reset counter, copy B during UPD_A and copy A otherwise. -/
  | pmMfrResetCount (a : PmAccess)
  /-- MFR_LAST_RESET_CAUSE (R65). PMBus MFR_LAST_RESET_CAUSE returns the cause record, with CAUSE 7 when interrupted. -/
  | pmMfrLastResetCause (a : PmAccess)
  /-- MFR_FASTCAP_LIMIT (R72). PMBus MFR_FASTCAP_LIMIT reads or sets the FASTCAP power threshold. -/
  | pmMfrFastcapLimit (a : PmAccess)
  /-- COMPANION_UPDATE_END (R88). A companion firmware update finishes, passing or failing its CRC-32C, and UPDATE_END is set. -/
  | companionUpdateEnd (pass : Bool)
  /-- PLL_LOCK_ACHIEVED (R94). The root PLL lock indicator has been set for 10 µs and ACLK and PCLK move to the root dividers. -/
  | pllLockAchieved
  /-- CLOCK_LOSS_DETECTED (R96). REFCLK_SYS is absent or the PLL loses lock; clocks move to IOSC, FCLK and LCLK gate and HBM enters self-refresh. -/
  | clockLossDetected (pll : Bool)
  /-- FCLK_DIVIDER_CHANGE (R98). A requested FCLK divider takes effect at the first frame start after the request. -/
  | fclkDividerChange
  /-- DROOP_STRETCH_START (R778). VDD_FAB droops 60 mV below setpoint and every FCLK period is stretched by one root cycle. -/
  | droopStretchStart
  /-- DROOP_STRETCH_END (R779). Stretching ends 100 ns after the droop clears. -/
  | droopStretchEnd
  /-- DROOP_HOLD (R778). Stretching has lasted 20 µs and the divider goes one step slower for 10 ms. -/
  | droopHold
  /-- DROOP_HOLD_EXPIRY (R778). The 10 ms droop hold ends and the ceiling is lifted. -/
  | droopHoldExpiry
  /-- POWER_ON_RESET (R899). The die rails come up after neither feed was ON, MODPWR_OK rises and the power-on or e-fuse-trip reset runs. -/
  | powerOnReset
  /-- COLD_RESET (R106). PERST# is held low for at least 100 ns while the die is powered and a cold reset runs. -/
  | coldReset (lowNs : Nat) (taken : Bool)
  /-- PERST_DEASSERT (R115). PERST# deasserts, ending the hold of a cold reset so phase 1 release can begin. -/
  | perstDeassert
  /-- HOT_RESET (R111). An in-band Hot Reset or Data Link Layer Down on the upstream port resets the host interface. -/
  | hotReset
  /-- WARM_RESET (R113). A warm reset puts HBM in self-refresh and resets Hazel, engines, fabric and link ports with the upstream link kept. -/
  | warmReset (srFail : List (Fin 6))
  /-- WATCHDOG_EXPIRY (R134). The Hazel watchdog expires and starts a watchdog reset or halts Hazel according to ACTION. -/
  | watchdogExpiry (srFail : List (Fin 6))
  /-- THERMAL_TRIP (R129). A die sensor reaches 115 °C and the comparator asserts a thermal reset. -/
  | thermalTrip (sensor : Fin 4) (peak : Int) (srFail : List (Fin 6))
  /-- THERMAL_HOLD_END (R131). Every sensor has read 95 °C or below for 1 s and the thermal reset is released as a warm reset. -/
  | thermalHoldEnd
  /-- FLR_PF0 (R107). A Function Level Reset of PF0 clears PF0's state and VF Enable, resetting every VF and partition if VF Enable was set. -/
  | flrPf0
  /-- FLR_VF (R456). A Function Level Reset of a VF resets its partition and mailbox. -/
  | flrVf (vf : Fin 16)
  /-- SECONDARY_BUS_RESET (R106). A Secondary Bus Reset on a passthrough virtual bridge resets that downstream port. -/
  | secondaryBusReset (dp : Fin 8)
  /-- RESET_RELEASE_PHASE1 (R115). The reset sequencer releases PD_AUX, PCLK, ACLK and PD_HUB in order, and Hazel starts the boot ROM. -/
  | resetReleasePhase1 (goldWe dpw flash : Bool)
  /-- CELL_ZEROING_DONE (R109). Memory-cell zeroing of a region ends after 16,384 fc and the region can be reported ready. -/
  | cellZeroingDone (rg : Fin 16)
  /-- CONFIG_REQUEST (R123). A host configuration request is completed normally, with CRS until the endpoint is ready, or with UR for an absent function. -/
  | configRequest (target : Fin 27) (q : CfgReq)
  /-- WDOG_STREAK_CLEAR (R154). Hazel has run 10 minutes without a watchdog reset and WDOG_STREAK is cleared. -/
  | wdogStreakClear
  /-- FLASH_READ_TIMEOUT (R153). A flash read does not complete within 10 ms and the slot is recorded READ_TIMEOUT. -/
  | flashReadTimeout
  /-- PLL_LOCK (R162). The PLL_LOCK start-up step enables the root PLL and starts phase 2 release. -/
  | pllLock
  /-- OUTPUT_RELEASE (R116). The OUTPUT_RELEASE start-up step ends pad hold. -/
  | outputRelease
  /-- SR_RELEASE (R162). The SR_RELEASE start-up step initialises the HBM stacks or takes them out of self-refresh. -/
  | srRelease (bad : List (Fin 6))
  /-- WRITE_ENABLE (R163). The WRITE_ENABLE start-up step opens the die's write paths. -/
  | writeEnable
  /-- SECTION_DEPLOYMENT (R166). After the endpoint is ready Hazel re-reads and loads each SERDES, ENGINE_UCODE and POD_BIST section. -/
  | sectionDeployment
  /-- MODULE_READY (R168). Deployment and firmware initialisation end; DEPLOYED is set, the module releases DONE and enters WAITING. -/
  | moduleReady
  /-- DONE_HIGH (R172). DONE has been high for 10 µs and a WAITING module passes, releasing link ports and partitions. -/
  | doneHigh
  /-- DONE_TIMEOUT (R174). A module has been in WAITING for DONE_TIMEOUT seconds and proceeds as TIMED_OUT. -/
  | doneTimeout
  /-- FLASH_ERASE (R180). FLASH.ERASE erases the range in blocks and sectors. -/
  | flashErase (fn : Fn) (failAt : Option Nat)
  /-- FLASH_PROGRAM (R181). FLASH.PROGRAM programs a blank range, or overlays it and verifies. -/
  | flashProgram (fn : Fn) (buf : Option (List Byte)) (failAt : Option Nat)
  /-- FLASH_READ (R184). FLASH.READ copies a flash range to a host buffer. -/
  | flashRead (fn : Fn)
  /-- FLASH_VERIFY_CRC (R185). FLASH.VERIFY in CRC mode returns the CRC-32C of a range and optionally compares it. -/
  | flashVerifyCrc (fn : Fn)
  /-- FLASH_VERIFY_COMPARE (R185). FLASH.VERIFY in COMPARE mode compares a range with a host buffer. -/
  | flashVerifyCompare (fn : Fn) (buf : Option (List Byte))
  /-- FLASH_VERIFY_IMAGE (R185). FLASH.VERIFY in IMAGE mode applies the image checks to a slot. -/
  | flashVerifyImage (fn : Fn)
  /-- FLASH_UNLOCK (R187). FLASH.UNLOCK unlocks the golden area for MINUTES when GOLD_WE was sampled high. -/
  | flashUnlock (fn : Fn)
  /-- FLASH_LOCK (R188). FLASH.LOCK locks the golden area again. -/
  | flashLock (fn : Fn)
  /-- GOLDEN_UNLOCK_EXPIRY (R188). The unlock period ends and the golden area locks again. -/
  | goldenUnlockExpiry
  /-- MAILBOX_ENABLE (R194). ENABLE written 1 makes Hazel check the ring bases and start the mailbox, incrementing GEN. -/
  | mailboxEnable (fn : Fn)
  /-- MAILBOX_DISABLE (R233). ENABLE written 0 is a mailbox reset that stops ring use and discards unconsumed requests. -/
  | mailboxDisable (fn : Fn)
  /-- MAILBOX_STOPPED (R233). Hazel has stopped using a reset mailbox's rings, clears ENABLED and serves any pending enable. -/
  | mailboxStopped (fn : Fn)
  /-- REQUEST_DOORBELL (R196). A write to HZ_REQ_PI rings the doorbell for the requests up to the new index, or stops the mailbox on an index error. -/
  | requestDoorbell (fn : Fn) (pi : W16)
  /-- REQUEST_CONSUME (R199). Hazel consumes the next request once it can reserve its response slots, and validates it. -/
  | requestConsume (fn : Fn) (r : Req)
  /-- RESPONSE_CI_WRITE (R199). A write to HZ_RSP_CI frees response slots, or stops the mailbox if it passes the producer index. -/
  | responseCiWrite (fn : Fn) (ci : W16)
  /-- EVENT_CI_WRITE (R197). A write to HZ_EVT_CI frees event slots, or stops the mailbox if it passes the producer index. -/
  | eventCiWrite (fn : Fn) (ci : W16)
  /-- PENDING_EVENT_POST (R210). Hazel posts pending events, and any EVENT_OVERFLOW, once the event ring is registered and has room. -/
  | pendingEventPost (fn : Fn)
  /-- RING_ACCESS_FAIL (R195). A ring read fails or Bus Master Enable is clear, and Hazel sets DMA_ERROR and RING_ERROR and stops the rings. -/
  | ringAccessFail (fn : Fn)
  /-- INTERRUPT_HOLDOFF_EXPIRY (R201). A response or event holdoff ends and an interrupt is raised for entries still unread. -/
  | interruptHoldoffExpiry (fn : Fn) (evt : Bool)
  /-- PROGRESS_REPORT (R211). A class L command posts a PROGRESS event within its 10–100 ms interval. -/
  | progressReport (fn : Fn) (id : Nat) (unitsDone unitsTotal : W32)
  /-- LONG_COMMAND_COMPLETE (R211). A class L command's work ends and Hazel posts its final response, or queues a LATE_COMPLETION. -/
  | longCommandComplete (fn : Fn) (id : Nat)
  /-- SYS_INFO (R222). SYS.INFO returns firmware, revision, function, partition, power state, GEN, serial and device time. -/
  | sysInfo (fn : Fn)
  /-- SYS_RESET (R223). SYS.RESET posts OK and starts a warm reset within 100 µs. -/
  | sysReset (fn : Fn)
  /-- SYS_UPDATE (R226). SYS.UPDATE reads and checks an image, raises UPDATE_PENDING and schedules the live update. -/
  | sysUpdate (fn : Fn) (buf : Option (List Byte))
  /-- SYS_EVENT_MASK (R224). SYS.EVENT_MASK sets which event classes the issuing function's rings suppress. -/
  | sysEventMask (fn : Fn)
  /-- SYS_ECHO (R222). SYS.ECHO returns the first 48 payload bytes. -/
  | sysEcho (fn : Fn)
  /-- UPDATE_SWITCH (R229). 25 ms after UPDATE_PENDING the switch begins, completing outstanding commands with RETRY_UPDATE and starting new firmware. -/
  | updateSwitch
  /-- UPDATE_SELFCHECK_PASS (R232). The new firmware passes its self-check, updates HZ_FW_VERSION, posts UPDATE_DONE and updates the companion if asked. -/
  | updateSelfcheckPass
  /-- UPDATE_SELFCHECK_TIMEOUT (R231). The new firmware misses its 20 ms self-check and the previous firmware is restarted with UPDATE_FAILED. -/
  | updateSelfcheckTimeout
  /-- REGION_QUERY (R264). REGION.QUERY returns a region's state, partition, map and pod states. -/
  | regionQuery (fn : Fn)
  /-- REGION_APPLY_MAP (R267). REGION.APPLY_MAP writes the map store, loads the bindings and sets the bound pods ACTIVE. -/
  | regionApplyMap (fn : Fn) (flashOk : Bool)
  /-- POD_QUARANTINE (R269). POD.QUARANTINE fences a pod, faulting its partition when FORCE is set. -/
  | podQuarantine (fn : Fn)
  /-- POD_RETURN (R274). POD.RETURN self-tests a fenced pod and sets it SPARE_AVAILABLE or FAILED. -/
  | podReturn (fn : Fn) (failTest : Option W32)
  /-- MAP_STORE_WRITE_COMPLETE (R272). A map-store write after a quarantine or return completes and MAP_STORED is raised. -/
  | mapStoreWriteComplete (rg : Fin 16)
  /-- CELL_READ (R284). A memory-cell read step drives a word on the local input two fc later. -/
  | cellRead (pod : Fin 640) (m : Fin 2) (addr : Fin 8192)
  /-- CELL_WRITE (R285). A memory-cell write step writes a word delivered through LOCAL_OUT over two fc. -/
  | cellWrite (pod : Fin 640) (m : Fin 2) (addr : Fin 8192)
  /-- ECC_WRITE_BACK (R291). A corrected word is written back on the first fc on which its bank's write access is free. -/
  | eccWriteBack (pod : Fin 640) (m : Fin 2) (addr : Fin 8192)
  /-- MAC_NEW (R301). MAC_NEW enters the latch row and replaces an accumulator row with the results. -/
  | macNew (pod : Fin 640) (bank : Fin 2) (row : Fin 32) (half : Bool)
  /-- MAC_ACC (R301). MAC_ACC enters the latch row and adds the results into an accumulator row. -/
  | macAcc (pod : Fin 640) (bank : Fin 2) (row : Fin 32) (half : Bool)
  /-- CLEAR (R295). CLEAR sets all rows of an accumulator bank to zero. -/
  | matClear (pod : Fin 640) (bank : Fin 2)
  /-- WLOAD (R295). WLOAD writes the latch row into a shadow weight row. -/
  | wload (pod : Fin 640) (row : Fin 32) (half : Bool)
  /-- WSWAP (R298). WSWAP exchanges the shadow and active weight tiles following the wavefront. -/
  | wswap (pod : Fin 640)
  /-- DRAIN (R304). DRAIN reads an accumulator row, scales and converts it and drives it on the local input. -/
  | matDrain (pod : Fin 640) (bank : Fin 2) (row : Fin 32)
  /-- NOP (R312). Vector NOP does nothing. -/
  | vNop (pod : Fin 640) (v : VInstr)
  /-- ADD (R312). Vector ADD computes a + b per lane. -/
  | vAdd (pod : Fin 640) (v : VInstr)
  /-- SUB (R312). Vector SUB computes a − b per lane. -/
  | vSub (pod : Fin 640) (v : VInstr)
  /-- MUL (R312). Vector MUL computes a × b per lane. -/
  | vMul (pod : Fin 640) (v : VInstr)
  /-- FMA (R312). Vector FMA computes a × b + c per lane. -/
  | vFma (pod : Fin 640) (v : VInstr)
  /-- FMS (R312). Vector FMS computes a × b − c per lane. -/
  | vFms (pod : Fin 640) (v : VInstr)
  /-- MAX (R312). Vector MAX computes maximumNumber per lane. -/
  | vMax (pod : Fin 640) (v : VInstr)
  /-- MIN (R312). Vector MIN computes minimumNumber per lane. -/
  | vMin (pod : Fin 640) (v : VInstr)
  /-- ABS (R312). Vector ABS computes |a| per lane. -/
  | vAbs (pod : Fin 640) (v : VInstr)
  /-- SCALEB (R312). Vector SCALEB computes a × 2^IMM per lane. -/
  | vScaleb (pod : Fin 640) (v : VInstr)
  /-- AND (R312). Vector AND computes a bitwise AND. -/
  | vAnd (pod : Fin 640) (v : VInstr)
  /-- OR (R312). Vector OR computes a bitwise OR. -/
  | vOr (pod : Fin 640) (v : VInstr)
  /-- XOR (R312). Vector XOR computes a bitwise XOR. -/
  | vXor (pod : Fin 640) (v : VInstr)
  /-- SHL (R312). Vector SHL shifts left by IMM. -/
  | vShl (pod : Fin 640) (v : VInstr)
  /-- SHR (R312). Vector SHR shifts right logically by IMM. -/
  | vShr (pod : Fin 640) (v : VInstr)
  /-- SRA (R312). Vector SRA shifts right arithmetically by IMM. -/
  | vSra (pod : Fin 640) (v : VInstr)
  /-- MOVI (R312). Vector MOVI writes a sign-extended immediate. -/
  | vMovi (pod : Fin 640) (v : VInstr)
  /-- SPLAT (R312). Vector SPLAT broadcasts one lane of a. -/
  | vSplat (pod : Fin 640) (v : VInstr)
  /-- CMP (R312). Vector CMP sets lane-mask bits by a comparison. -/
  | vCmp (pod : Fin 640) (v : VInstr)
  /-- SEL (R312). Vector SEL selects a or b per lane by a lane mask. -/
  | vSel (pod : Fin 640) (v : VInstr)
  /-- CVT (R312). Vector CVT converts lanes to another format and packs them. -/
  | vCvt (pod : Fin 640) (v : VInstr)
  /-- UNPACK (R312). Vector UNPACK widens lanes to FP32 or INT32. -/
  | vUnpack (pod : Fin 640) (v : VInstr)
  /-- RSUM (R313). Vector RSUM sums all lanes by the fixed tree into lane 0. -/
  | vRsum (pod : Fin 640) (v : VInstr)
  /-- RMAX (R312). Vector RMAX reduces all lanes to their maximum. -/
  | vRmax (pod : Fin 640) (v : VInstr)
  /-- RMIN (R312). Vector RMIN reduces all lanes to their minimum. -/
  | vRmin (pod : Fin 640) (v : VInstr)
  /-- RARGMAX (R312). Vector RARGMAX returns the index of the first maximum lane. -/
  | vRargmax (pod : Fin 640) (v : VInstr)
  /-- EXP2 (R314). Vector EXP2 computes 2^a. -/
  | vExp2 (pod : Fin 640) (v : VInstr)
  /-- LOG2 (R314). Vector LOG2 computes log₂ a. -/
  | vLog2 (pod : Fin 640) (v : VInstr)
  /-- RCP (R314). Vector RCP computes 1 / a. -/
  | vRcp (pod : Fin 640) (v : VInstr)
  /-- RSQRT (R314). Vector RSQRT computes 1 / √a. -/
  | vRsqrt (pod : Fin 640) (v : VInstr)
  /-- TANH (R314). Vector TANH computes tanh a. -/
  | vTanh (pod : Fin 640) (v : VInstr)
  /-- ERF (R314). Vector ERF computes erf a. -/
  | vErf (pod : Fin 640) (v : VInstr)
  /-- PERM (R312). Vector PERM permutes lanes of a by indices in b. -/
  | vPerm (pod : Fin 640) (v : VInstr)
  /-- ROT (R312). Vector ROT rotates lanes of a. -/
  | vRot (pod : Fin 640) (v : VInstr)
  /-- FUNNEL (R312). Vector FUNNEL takes lanes from a followed by b. -/
  | vFunnel (pod : Fin 640) (v : VInstr)
  /-- ZIP (R312). Vector ZIP interleaves lanes of a and b. -/
  | vZip (pod : Fin 640) (v : VInstr)
  /-- UNZIP (R312). Vector UNZIP separates even or odd lanes. -/
  | vUnzip (pod : Fin 640) (v : VInstr)
  /-- RECV (R312). Vector RECV writes the delivered word into an operand-cache half. -/
  | vRecv (pod : Fin 640) (v : VInstr)
  /-- SEND (R312). Vector SEND drives an operand-cache half on the local input. -/
  | vSend (pod : Fin 640) (v : VInstr)
  /-- EMIT (R315). Vector EMIT reduces predicated lanes and sends a 64-bit summary to the Sprout core. -/
  | vEmit (pod : Fin 640) (v : VInstr)
  /-- SEQUENCER_STEP_ISSUE (R331). On each schedule fc a sequencer issues the operation of its current step as condition and skip flags allow. -/
  | sequencerStepIssue (pod : Fin 640) (cell : Fin 4)
  /-- AWAIT_STALL_END (R334). An awaited arrival flag becomes visible and the stalled step issues and clears it on the next fc. -/
  | awaitStallEnd (p : Fin 16)
  /-- NATURAL_FOLD (R340). The pace sequencer exhausts and the fold boundary occurs to the pending or default slot. -/
  | naturalFold (p : Fin 16)
  /-- DECISION_POINT (R349). A DECIDE step issues and consumes a steer group, or stalls until the group is available. -/
  | decisionPoint (p : Fin 16)
  /-- DECIDE_STALL_END (R349). The last steer of a needed group becomes available and the partition consumes it on the next fc. -/
  | decideStallEnd (p : Fin 16)
  /-- FOLD_WAIT_END (R343). The target slot of a waiting fold commits and the new context starts on the next fc. -/
  | foldWaitEnd (p : Fin 16)
  /-- STEER_DELIVERY (R356). A steer written by the leader becomes available at every sequencer of the partition. -/
  | steerDelivery (p : Fin 16)
  /-- SUMMARY_ARRIVAL (R364). A summary reaches the leader's inbox, or is dropped with OVERRUN when the inbox is full. -/
  | summaryArrival (p : Fin 16)
  /-- SPROUT_INSTRUCTION (R359). The Sprout core executes one RV32IMFC instruction, halting and faulting the partition on an exception. -/
  | sproutInstruction (rg : Fin 16)
  /-- SP_STEER (R353). A write to SP_STEER enqueues a steer, blocking while the queue is full. -/
  | spSteer (rg : Fin 16) (w : W32)
  /-- SP_STEER_UNBLOCK (R363). A steer-queue entry frees and a blocked SP_STEER write completes. -/
  | spSteerUnblock (rg : Fin 16)
  /-- SP_INBOX_LO (R363). A read of SP_INBOX_LO pops the oldest summary and latches its high word, blocking while empty. -/
  | spInboxLo (rg : Fin 16) (rd : Fin 32)
  /-- SP_INBOX_CTRL (R363). Writing CLR_OVR clears the inbox OVERRUN indication. -/
  | spInboxCtrl (rg : Fin 16) (v : W32)
  /-- SP_SCHED_FC_LO (R363). A read of SP_SCHED_FC_LO returns the low schedule fc and latches the high half. -/
  | spSchedFcLo (rg : Fin 16) (rd : Fin 32)
  /-- WFI_WAKE (R490). A waiting Sprout WFI wakes on inbox, steer space, channel or NACK conditions. -/
  | wfiWake (rg : Fin 16)
  /-- IMAGE_STAGE (R386). IMAGE.STAGE copies and checks an image into the partition's HBM and creates a pinned handle. -/
  | imageStage (fn : Fn) (buf : Option (List Byte))
  /-- IMAGE_CHECK (R262). IMAGE.CHECK reports whether a staged image's shape and fingerprints fit the partition. -/
  | imageCheck (fn : Fn)
  /-- IMAGE_DROP (R389). IMAGE.DROP deletes an unbound handle and unpins its range. -/
  | imageDrop (fn : Fn)
  /-- PART_LOAD (R392). PART.LOAD queues a context load into its slot and binds the partition to the image. -/
  | partLoad (fn : Fn)
  /-- PART_LOAD_CANCEL (R398). PART.LOAD_CANCEL removes queued loads for an inactive slot and stops its shift. -/
  | partLoadCancel (fn : Fn)
  /-- PART_START (R400). PART.START clears audit counters, loads Sprout memory and starts the partition's first fold. -/
  | partStart (fn : Fn)
  /-- PART_ABORT (R402). PART.ABORT stops a running partition, discards fabric and Sprout state and returns it to LOADED. -/
  | partAbort (fn : Fn)
  /-- SLOT_SHIFT_START (R394). A load reaches the head of the image queue and Hazel starts shifting it into its slot. -/
  | slotShiftStart (p : Fin 16)
  /-- SLOT_SHIFT_COMPLETE (R396). Every pod's CRC matches after shifting and the slot commits, or the load fails SLOT_CRC_FAIL. -/
  | slotShiftComplete (p : Fin 16) (first second : List Nat)
  /-- MOVER_SCHEDULE_ISSUE (R381). A mover-schedule entry issues its descriptor on its scheduled fc, or stalls HUSK_RESERVE. -/
  | moverScheduleIssue (p : Fin 16) (k : Nat)
  /-- PART_CREATE (R419). PART.CREATE forms a partition on a rectangle of regions, powering and zeroing them. -/
  | partCreate (fn : Fn)
  /-- PART_DESTROY (R422). PART.DESTROY resets the partition, releases regions, revokes windows and frees it. -/
  | partDestroy (fn : Fn)
  /-- PART_ASSIGN (R420). PART.ASSIGN enables or withdraws the partition's tenant. -/
  | partAssign (fn : Fn)
  /-- PART_QUERY (R430). PART.QUERY returns the partition's state, shape, slots and counts. -/
  | partQuery (fn : Fn)
  /-- PART_SET_SHARE (R442). PART.SET_SHARE sets a member's engine weights, quotas, drain window and regulators. -/
  | partSetShare (fn : Fn)
  /-- PART_SAVE (R450). PART.SAVE pauses the partition and copies its state to a save area, optionally releasing regions. -/
  | partSave (fn : Fn)
  /-- PART_RESUME (R453). PART.RESUME restores a SAVED partition, re-sowing slots and resuming its state. -/
  | partResume (fn : Fn)
  /-- PART_RESET (R455). PART.RESET terminates the partition's traffic and clears its state back to ASSIGNED. -/
  | partReset (fn : Fn)
  /-- PART_POWER_OFF (R457). PART.POWER OFF drains the partition's fence and power-gates its regions. -/
  | partPowerOff (fn : Fn)
  /-- PART_POWER_ON (R458). PART.POWER ON powers and zeroes the partition's regions. -/
  | partPowerOn (fn : Fn)
  /-- MEM_WINDOW_GRANT (R425). MEM.WINDOW_GRANT grants HBM units to a partition as a new window. -/
  | memWindowGrant (fn : Fn)
  /-- MEM_WINDOW_REVOKE (R429). MEM.WINDOW_REVOKE removes the highest window and starts zeroing its units. -/
  | memWindowRevoke (fn : Fn)
  /-- WINDOW_ZEROING_COMPLETE (R429). A revoked unit has been zeroed and becomes grantable. -/
  | windowZeroingComplete (unit : Fin 576)
  /-- DRAIN_WINDOW_EXPIRY (R435). A fence's drain window ends, terminating unfinished transfers with ABORTED_POWER and closing the fence. -/
  | drainWindowExpiry (p : Fin 16)
  /-- FENCE_STUCK (R850). A fence has not reached CLOSED 10 ms after entering TERMINATING and a device-fatal fault is raised. -/
  | fenceStuck (fence : Fin 40)
  /-- REGULATOR_REFILL_TICK (R447). Every 1 µs each token bucket gains RATE bytes up to its burst. -/
  | regulatorRefillTick
  /-- ENGINE_SEGMENT_COMPLETE (R445). An engine segment ends and the engine arbitrates the next segment by deficit round robin. -/
  | engineSegmentComplete (e : Fin 5) (buf : Option (List Byte))
  /-- CHAN_OPEN (R473). CHAN.OPEN opens a local channel or a pending cross-device half. -/
  | chanOpen (fn : Fn)
  /-- CHAN_CLOSE (R477). CHAN.CLOSE frees a channel, discards queued messages and notifies the peer. -/
  | chanClose (fn : Fn)
  /-- CHAN_QUERY (R471). CHAN.QUERY returns a channel's state and counts. -/
  | chanQuery (fn : Fn)
  /-- PAIR_RECORD_REPEAT (R475). Every 10 ms a PENDING half resends its pairing record. -/
  | pairRecordRepeat (chan : Fin 256)
  /-- PAIR_RECORD_RECEIVE (R476). A PAIR record arrives and the halves pair into OPEN, close on mismatch, or it is discarded. -/
  | pairRecordReceive (m : MsgRec)
  /-- MESSAGE_RECORD_RECEIVE (R565). A MESSAGE record arrives and is delivered in CH_SEQ order, held early, or dropped with NACK_FULL. -/
  | messageRecordReceive (m : MsgRec)
  /-- CREDIT_RECORD_RECEIVE (R482). A CREDIT record returns credits to a cross-device sender. -/
  | creditRecordReceive (m : MsgRec)
  /-- NACK_FULL_RECEIVE (R470). A NACK_FULL record reaches the sender's status queue. -/
  | nackFullReceive (m : MsgRec)
  /-- CLOSE_RECORD_RECEIVE (R491). A CLOSE record arrives and the local half becomes CLOSED with PEER_CLOSED. -/
  | closeRecordReceive (m : MsgRec)
  /-- CH_TX_SEND (R486). A write to CH_TX_SEND sends the staged words, or discards them when the port cannot send. -/
  | chTxSend (fn : Fn) (port : Fin 16) (value : W32)
  /-- CH_RX_POP (R484). A read of CH_RX_POP pops the oldest message of a port and latches its words. -/
  | chRxPop (fn : Fn) (port : Fin 16)
  /-- CH_NACK_POP (R484). A read of CH_NACK_POP pops the oldest NACK_FULL of the function. -/
  | chNackPop (fn : Fn)
  /-- SP_CH_SEND (R488). A Sprout write to SP_CH_SEND sends from the selected port, blocking without credit or queue room. -/
  | spChSend (rg : Fin 16) (value : W32)
  /-- SP_CH_SEND_UNBLOCK (R488). A credit or MSG queue entry frees and a blocked SP_CH_SEND completes. -/
  | spChSendUnblock (rg : Fin 16)
  /-- SP_CH_RX (R488). A Sprout read of SP_CH_RX pops the selected port's oldest message. -/
  | spChRx (rg : Fin 16) (rd : Fin 32)
  /-- SP_CH_NACK (R488). A Sprout read of SP_CH_NACK pops its NACK status queue. -/
  | spChNack (rg : Fin 16) (rd : Fin 32)
  /-- MESSAGE_DELIVERY (R467). A local message becomes readable at its receiver, or is posted as CHAN_MESSAGE for a HAZEL receiver. -/
  | messageDelivery (chan : Fin 256)
  /-- CREDIT_RETURN (R468). A receiver's pop returns a credit to a local CREDIT-mode sender. -/
  | creditReturn (chan : Fin 256)
  /-- MSG_RECORD_TRANSMIT (R479). A withheld MSG record is sent once the port's MSG token bucket holds its length. -/
  | msgRecordTransmit (port : Fin 16)
  /-- CREDIT_RECORD_TIMER (R482). 1 µs after an uncredited pop, or at 8 credits, the receiver sends a credit record. -/
  | creditRecordTimer (chan : Fin 256)
  /-- CHANNEL_ROUTE_TIMEOUT (R483). No route to a channel's LINK_ID for 100 ms and the local half closes with cause 4. -/
  | channelRouteTimeout (chan : Fin 256)
  /-- MSG_GAP_TIMEOUT (R565). A MESSAGE record has been missing for 10 ms and both halves close. -/
  | msgGapTimeout (chan : Fin 256)
  /-- MEM_COPY (R516). MEM.COPY checks and runs a list of COPY and FILL descriptors. -/
  | memCopy (fn : Fn)
  /-- MEM_FILL (R517). MEM.FILL writes a pattern over a range with clear poison. -/
  | memFill (fn : Fn)
  /-- MEM_QUERY (R518). MEM.QUERY returns a partition's windows or one stack's ECC counters. -/
  | memQuery (fn : Fn)
  /-- MOVER_COPY (R506). A COPY descriptor starts moving rows from source to destination in segments. -/
  | moverCopy (job : Nat)
  /-- MOVER_FILL (R506). A FILL descriptor starts writing its pattern to destination rows. -/
  | moverFill (job : Nat)
  /-- MOVER_DESCRIPTOR_COMPLETE (R513). A descriptor's last byte is written and it sets its arrival flags. -/
  | moverDescriptorComplete (job : Nat)
  /-- MOVER_DESCRIPTOR_FAIL (R515). An admitted descriptor fails; unwritten words are poisoned, flags set and MOVER_FAIL recorded. -/
  | moverDescriptorFail (job : Nat)
  /-- PATROL_SCRUB (R502). The patrol scrubber reads and corrects HBM words, covering all in 24 hours. -/
  | patrolScrub (word : Fin 2415919104)
  /-- COPY_ON_WRITE (R681). A tracked write to an undrained frozen granule copies it into a reserve entry first, or is held when the reserve is full. -/
  | copyOnWrite (part : Fin 17) (addr : Nat) (data : List Byte) (poison : Bool)
  /-- COW_COPY_COMPLETE (R682). A granule's copy into the reserve ends and held writes are applied in arrival order. -/
  | cowCopyComplete (entry : Nat)
  /-- RESERVE_ENTRY_FREED (R683). The drive write of a reserve granule completes, freeing the entry and releasing held writers. -/
  | reserveEntryFreed (entry : Nat)
  /-- EMB_TABLE_CREATE (R521). EMB.TABLE_CREATE creates an embedding table from its descriptor. -/
  | embTableCreate (fn : Fn)
  /-- EMB_TABLE_DESTROY (R542). EMB.TABLE_DESTROY deletes a table with nothing outstanding. -/
  | embTableDestroy (fn : Fn)
  /-- EMB_COUNTERS (R539). EMB.COUNTERS returns lookup totals and optionally swaps or clears counters. -/
  | embCounters (fn : Fn)
  /-- EMB_MIGRATE (R540). EMB.MIGRATE registers block moves to take effect at a target step fence. -/
  | embMigrate (fn : Fn)
  /-- EMB_REPLICATE_ADD (R541). EMB.REPLICATE ADD adds rows to the replica list from the next fence. -/
  | embReplicateAdd (fn : Fn)
  /-- EMB_REPLICATE_REMOVE (R541). EMB.REPLICATE REMOVE removes rows from the replica list from the next fence. -/
  | embReplicateRemove (fn : Fn)
  /-- EMB_REPLICATE_CLEAR (R541). EMB.REPLICATE CLEAR empties the replica list from the next fence. -/
  | embReplicateClear (fn : Fn)
  /-- EMB_GATHER (R526). A GATHER descriptor pools rows into bag outputs, requesting remote rows in bundles. -/
  | embGather (job : Nat)
  /-- EMB_SCATTER (R529). A SCATTER descriptor reduces gradients per row and sends updates to owners. -/
  | embScatter (job : Nat)
  /-- EMB_STEP (R534). A STEP descriptor joins the group's step fence barriers and applies SGD, moves and replicas. -/
  | embStep (job : Nat) (subs : List (Nat × Nat))
  /-- BUNDLE_REQUEST_RECEIVE (R532). A REQUEST bundle arrives at an owner, which answers with a REPLY. -/
  | bundleRequestReceive (b : Bulk)
  /-- BUNDLE_REPLY_RECEIVE (R532). A REPLY bundle arrives and its rows are pooled into the requesting bags. -/
  | bundleReplyReceive (b : Bulk)
  /-- BUNDLE_UPDATE_RECEIVE (R530). An UPDATE bundle arrives and the owner adds gradients, then acknowledges. -/
  | bundleUpdateReceive (b : Bulk)
  /-- BUNDLE_UPDATE_ACK_RECEIVE (R533). An UPDATE_ACK arrives and a SCATTER completes when all are acknowledged. -/
  | bundleUpdateAckReceive (b : Bulk)
  /-- BUNDLE_ROWS_PUSH_RECEIVE (R534). A ROWS_PUSH bundle installs replica rows. -/
  | bundleRowsPushReceive (b : Bulk)
  /-- BUNDLE_BLOCK_MOVE_RECEIVE (R540). A BLOCK_MOVE bundle writes a moved block into its new slot. -/
  | bundleBlockMoveReceive (b : Bulk)
  /-- EMB_FENCE_TIMEOUT (R537). A step-fence barrier has not passed 1 s after the STEP and the fence ends with FENCE_TIMEOUT. -/
  | embFenceTimeout (p : Fin 16) (table : Fin 64)
  /-- FLIT_RECEIVE (R554). A flit arrives; a good in-sequence flit is accepted with its ACK, NAK and credits, others discarded. -/
  | flitReceive (port : Fin 16) (f : Flit) (crcGood : Bool)
  /-- MARKER_BLOCK_RECEIVE (R550). A valid marker block updates RTT, lane requests and lane sets from the peer. -/
  | markerBlockReceive (port : Fin 16) (m : Marker) (crcGood : Bool)
  /-- LANE_EPOCH_MARKER (R579). At the first superframe start after each 1 ms an epoch marker is sent and retrained lanes rejoin. -/
  | laneEpochMarker (port : Fin 16)
  /-- LANE_FAILURE (R576). A receiver counts a lane failed and removes it from its marker-block requests. -/
  | laneFailure (port : Fin 16) (lane : Fin 8)
  /-- LANE_SET_APPLY (R577). At the next superframe boundary the transmitter uses the announced lane set, or the port goes DOWN. -/
  | laneSetApply (port : Fin 16)
  /-- LANE_RETRAIN_COMPLETE (R579). A background retrain attempt of a failed lane ends in success or, after 8 attempts, disables it. -/
  | laneRetrainComplete (port : Fin 16) (lane : Fin 8) (ok : Bool)
  /-- BULK_WRITE_RECEIVE (R563). A BULK WRITE arrives and is written to the window space, answered with COMPLETE. -/
  | bulkWriteReceive (b : Bulk)
  /-- BULK_ENGINE_RECEIVE (R563). A BULK ENGINE transaction arrives for the embedding, collective or buddy engine and is answered with COMPLETE. -/
  | bulkEngineReceive (b : Bulk)
  /-- BULK_COMPLETE_RECEIVE (R563). A COMPLETE arrives and ends the sender's transfer with its status. -/
  | bulkCompleteReceive (xfer status : Nat)
  /-- BULK_COMPLETE_TIMEOUT (R564). No COMPLETE 20 ms after a transfer's first flit and the transfer ends LINK_LOST. -/
  | bulkCompleteTimeout (xfer : Nat)
  /-- HELLO_TRANSMIT (R566). Every 1 ms a HELLO goes to the neighbour on every UP port. -/
  | helloTransmit (port : Fin 16)
  /-- HELLO_RECEIVE (R595). A HELLO arrives giving the neighbour's link-ID, marking the port MISWIRED on mismatch. -/
  | helloReceive (port : Fin 16) (id : Byte) (nport : Fin 16)
  /-- TIME_RECORD_TRANSMIT (R581). Every 10 µs a TIME record goes to the neighbour on every UP port. -/
  | timeRecordTransmit (port : Fin 16)
  /-- TIME_RECORD_RECEIVE (R582). A TIME record arrives and device time adopts, steps or slews toward the master reference. -/
  | timeRecordReceive (port : Fin 16) (r : TimeRec)
  /-- TIME_MASTER_TIMEOUT (R584). No TIME record from the adopted master for 100 µs and the next best master is adopted. -/
  | timeMasterTimeout
  /-- BARRIER_ARRIVE (R585). An ARRIVE reaches the barrier root, which releases all members once every one has arrived. -/
  | barrierArrive (r : SyncRec)
  /-- BARRIER_RELEASE (R585). A RELEASE reaches a member and its barrier user proceeds on the RESULT. -/
  | barrierRelease (r : Option SyncRec)
  /-- TRANSIT_FORWARD (R571). A transit device forwards a transaction cut-through, adjusting class and TTL. -/
  | transitForward (port : Fin 16) (vc : Fin 4) (cls : Fin 2) (b : List Byte)
  /-- PORT_TRAINING_COMPLETE (R594). A port finishes training and becomes UP, or DOWN on failure. -/
  | portTrainingComplete (port : Fin 16) (tx rx : Byte)
  /-- PORT_RETRY_TIMER (R594). One second after going DOWN a port retries training. -/
  | portRetryTimer (port : Fin 16)
  /-- PORT_LOSS (R596). A port loses both directions or is reset, discarding its buffers and queues and retraining. -/
  | portLoss (port : Fin 16) (reset : Bool)
  /-- LINK_QUERY (R594). LINK.QUERY returns a port's or the device's link state and counters. -/
  | linkQuery (fn : Fn)
  /-- LINK_TRAIN (R597). LINK.TRAIN starts training of the named ports. -/
  | linkTrain (fn : Fn)
  /-- LINK_RESET (R596). LINK.RESET resets a port, optionally disabling it. -/
  | linkReset (fn : Fn)
  /-- ROUTE_SET_ROUTING_IMAGE (R568). LINK.ROUTE_SET MODE 0 loads the routing image. -/
  | routeSetRoutingImage (fn : Fn) (buf : Option (List Byte))
  /-- ROUTE_SET_PEER_TABLE (R574). LINK.ROUTE_SET MODE 1 loads a partition's peer table. -/
  | routeSetPeerTable (fn : Fn) (buf : Option (List Byte))
  /-- LINK_COLLECTIVE (R587). LINK.COLLECTIVE starts a collective, joining its barrier then running its steps. -/
  | linkCollective (fn : Fn)
  /-- COLLECTIVE_STEP_COMPLETE (R589). A collective step's transfers and reductions complete and the next step starts. -/
  | collectiveStepComplete (p : Fin 16) (key : W32)
  /-- COLLECTIVE_TIMEOUT_EXPIRY (R593). No collective step completes for TIMEOUT_MS and it ends COLLECTIVE_TIMEOUT. -/
  | collectiveTimeoutExpiry (p : Fin 16) (key : W32)
  /-- TLP_FORWARD (R614). The hub stores a TLP whole and forwards it to its egress port. -/
  | tlpForward (ingress : Fin 9) (arrive : Option (Fin 9 × Tlp)) (crcGood credit : Bool)
  /-- POWER_CONTROLLER_CONTROL_WRITE (R620). A host write of Power Controller Control on a passthrough port powers the slot on or off. -/
  | powerControllerControlWrite (dp : Fin 8) (off : Bool)
  /-- PRESENCE_CHANGE (R623). Presence on a port changes and holds for 20 ms, reported and auto-powered if set. -/
  | presenceChange (dp : Fin 8) (present : Bool)
  /-- DRIVE_SURPRISE_REMOVAL (R624). Presence of a powered captive drive is lost for 20 ms and its commands end DRIVE_REMOVED. -/
  | driveSurpriseRemoval (dp : Fin 8)
  /-- DP_PERST_RELEASE (R617). 100 ms after a slot reaches ON the hub releases DPn_PERST_N and starts training. -/
  | dpPerstRelease (dp : Fin 8)
  /-- DOWNSTREAM_LINK_UP (R632). A captive port's link comes up and the drive engine initialises the drive. -/
  | downstreamLinkUp (dp : Fin 8) (speed : Fin 7) (width : Fin 16) (flit suitable : Bool)
  /-- NVME_COMPLETION_RECEIVE (R635). A drive posts an NVMe completion and the drive engine ends the command and advances its work. -/
  | nvmeCompletionReceive (dp : Fin 8) (cid nvme dw0 dw1 : Nat) (info : DriveInfo)
  /-- CLKREQ_ASSERT (R626). A drive asserts CLKREQ# and the hub restores its reference clock within 1 µs. -/
  | clkreqAssert (dp : Fin 8)
  /-- DRIVE_IDLE_TIMEOUT (R627). A READY captive drive has been idle SUSPEND_S seconds and is shut down and suspended. -/
  | driveIdleTimeout (dp : Fin 8)
  /-- DRIVE_WAKE (R629). Work queued for a SUSPENDED drive wakes it. -/
  | driveWake (dp : Fin 8)
  /-- DRIVE_WAKE_TIMEOUT (R629). A waking drive is not READY within 65 s and becomes FAILED. -/
  | driveWakeTimeout (dp : Fin 8)
  /-- NVME_COMMAND_TIMEOUT (R639). A command has no completion after 30 s, or a recovery step fails, and the drive engine takes the next recovery step. -/
  | nvmeCommandTimeout (dp : Fin 8) (cid : Nat)
  /-- DRIVE_MEMORY_REQUEST (R637). A captive drive's memory request is admitted to HBM, queues or MSI-X, or refused as a DMA violation. -/
  | driveMemoryRequest (dp : Fin 8) (r : DriveReq) (who : Option Nat)
  /-- DPC_TRIGGER (R856). A DPC trigger on a passthrough port brings its link down and discards TLPs in flight. -/
  | dpcTrigger (dp : Fin 8)
  /-- CAPTIVE_LINK_ERROR (R855). A captive link reports an error, recorded as a corrected or uncorrected fault. -/
  | captiveLinkError (dp : Fin 8) (correctable : Bool) (status : W32)
  /-- HUB_QUERY (R650). HUB.QUERY returns port state or namespace ownership. -/
  | hubQuery (fn : Fn)
  /-- HUB_PORT_MODE (R651). HUB.PORT_MODE changes a port between captive and passthrough or sets its policy. -/
  | hubPortMode (fn : Fn)
  /-- HUB_SLOT_POWER_ON (R652). HUB.SLOT_POWER ON begins a slot power-on sequence. -/
  | hubSlotPowerOn (fn : Fn)
  /-- HUB_SLOT_POWER_OFF (R652). HUB.SLOT_POWER OFF begins a slot power-off sequence. -/
  | hubSlotPowerOff (fn : Fn)
  /-- HUB_NS_ASSIGN (R653). HUB.NS_ASSIGN sets a namespace's owner. -/
  | hubNsAssign (fn : Fn)
  /-- HUB_NVME_ADMIN (R654). HUB.NVME_ADMIN issues an admitted admin command to a drive. -/
  | hubNvmeAdmin (fn : Fn) (buf : Option (List Byte))
  /-- HUSK_CONFIG (R668). HUSK.CONFIG sets the reserve and snapshot areas, protection and drain rate. -/
  | huskConfig (fn : Fn)
  /-- HUSK_SNAP (R673). HUSK.SNAP numbers an epoch and arranges each participant's pause. -/
  | huskSnap (fn : Fn)
  /-- HUSK_QUERY (R701). HUSK.QUERY returns epoch and reserve status. -/
  | huskQuery (fn : Fn)
  /-- HUSK_FLIP (R677). No admitted segment writes a pausing participant's units and it flips to the next epoch. -/
  | huskFlip (p : Fin 16)
  /-- HUSK_PAUSE_END (R677). A participant's snapshot copy ends and it resumes, with SNAP_PAUSED raised. -/
  | huskPauseEnd (p : Fin 16)
  /-- SNAP_WAIT_TIMEOUT (R680). A participant has not reached its pause point within WAIT_MS and the epoch becomes INCOMPLETE. -/
  | snapWaitTimeout
  /-- DRAIN_SEGMENT_ISSUE (R687). The Husk engine issues the next drain segment of a frozen epoch in drain order. -/
  | drainSegmentIssue
  /-- SNAP_OUTCOME_RECEIVE (R698). A SNAP_OUTCOME record arrives and an outcome 0 abandons the local system snapshot. -/
  | snapOutcomeReceive (src : Fin 128) (key : W32) (outcome : Byte)
  /-- SYSTEM_WAIT_TIMEOUT (R699). A system barrier has not released within SYSTEM_WAIT_MS and HUSK.SNAP completes undecided. -/
  | systemWaitTimeout (epoch : Nat)
  /-- VOLUME_MOUNT (R709). Once members are initialised or 60 s after ready, Hazel mounts the husk volume. -/
  | volumeMount (k : Fin 5) (info : Machine.MountInfo)
  /-- HUSK_VOLUME_FORMAT_CREATE (R736). HUSK.VOLUME_FORMAT CREATE makes a husk volume of the named namespaces. -/
  | huskVolumeFormatCreate (fn : Fn)
  /-- HUSK_VOLUME_FORMAT_GUEST (R736). HUSK.VOLUME_FORMAT GUEST makes a guest volume for a source. -/
  | huskVolumeFormatGuest (fn : Fn)
  /-- HUSK_VOLUME_FORMAT_REPLACE (R736). HUSK.VOLUME_FORMAT REPLACE formats one namespace as an absent member. -/
  | huskVolumeFormatReplace (fn : Fn)
  /-- HUSK_VOLUME_FORMAT_RELEASE (R734). HUSK.VOLUME_FORMAT RELEASE sets a volume's namespaces UNASSIGNED. -/
  | huskVolumeFormatRelease (fn : Fn)
  /-- HUSK_COMPACT (R733). HUSK.COMPACT relocates needed records from the oldest segments and frees them. -/
  | huskCompact (fn : Fn)
  /-- HUSK_RESTORE (R743). HUSK.RESTORE plans and writes an epoch back into partitions, leaving them SAVED. -/
  | huskRestore (fn : Fn)
  /-- RESTORE_RESUME (R749). After a thermal reset Hazel remounts the volume and resumes an interrupted restore. -/
  | restoreResume
  /-- BUDDY_OPEN (R727). A BUDDY_OPEN record opens an epoch on the guest volume and is acknowledged. -/
  | buddyOpen (src : Fin 128) (volume epoch n : Nat)
  /-- BUDDY_COMMIT (R727). A BUDDY_COMMIT record makes the buddy commit the guest copy and acknowledge. -/
  | buddyCommit (src : Fin 128) (volume epoch n : Nat)
  /-- BUDDY_ACK (R728). A BUDDY_ACK record reports the buddy outcome for an epoch step. -/
  | buddyAck (src : Fin 128) (volume epoch : Nat) (step : Fin 2) (status : Nat)
  /-- BUDDY_FETCH (R743). A BUDDY_FETCH record makes the buddy plan and stream an epoch for restore. -/
  | buddyFetch (src : Fin 128) (volume epoch key mask : Nat) (sysOnly : Bool)
  /-- BUDDY_FETCH_DONE (R740). A BUDDY_FETCH_DONE record ends a buddy restore stream. -/
  | buddyFetchDone (src : Fin 128) (volume epoch sent status : Nat)
  /-- BUDDY_ACK_TIMEOUT (R728). No STEP 1 BUDDY_ACK arrives within 10 s and the buddy has failed for the epoch. -/
  | buddyAckTimeout
  /-- BUDDY_FETCH_TIMEOUT (R740). No BUDDY_FETCH_DONE within 10 s and the restore is refused BUDDY_UNAVAILABLE. -/
  | buddyFetchTimeout
  /-- POWER_QUERY (R754). POWER.QUERY returns power state, divider, reasons, caps and budget. -/
  | powerQuery (fn : Fn)
  /-- POWER_STATE_SLEEP (R758). POWER.STATE SLEEP shuts drives, idles links and puts the device in SLEEP. -/
  | powerStateSleep (fn : Fn)
  /-- POWER_STATE_DEEP (R759). POWER.STATE DEEP enters SLEEP and waits for PME_Turn_Off to enter DEEP. -/
  | powerStateDeep (fn : Fn)
  /-- POWER_STATE_OFF (R761). POWER.STATE OFF runs the sleep steps and then the companion removes every die rail. -/
  | powerStateOff (fn : Fn)
  /-- POWER_CAP (R795). POWER.CAP sets LOCAL_CAP and MAX_DIV. -/
  | powerCap (fn : Fn)
  /-- POWER_BUDGET_CONFIG (R796). POWER.BUDGET_CONFIG sets domain settings and optionally the rack budget, floor and FASTCAP limit. -/
  | powerBudgetConfig (fn : Fn)
  /-- POWER_REGION_GATE_ON (R773). POWER.REGION_GATE ON powers and zeroes regions. -/
  | powerRegionGateOn (fn : Fn)
  /-- POWER_REGION_GATE_OFF (R773). POWER.REGION_GATE off gates regions, draining partitions first. -/
  | powerRegionGateOff (fn : Fn)
  /-- POWER_ENERGY (R803). POWER.ENERGY returns energy totals or writes a partition's job table. -/
  | powerEnergy (fn : Fn)
  /-- REGION_CLOCK_UNGATE (R755). A region's cells are needed and its FCLK is ungated within 200 ns. -/
  | regionClockUngate (rg : Fin 16)
  /-- PME_TURN_OFF (R759). PME_Turn_Off arrives in SLEEP after POWER.STATE DEEP and the device enters DEEP. -/
  | pmeTurnOff
  /-- PME_WAIT_TIMEOUT (R759). No PME_Turn_Off within 10 s and the device stays in SLEEP. -/
  | pmeWaitTimeout
  /-- OFF_RAIL_REMOVAL (R761). One second after POWER.STATE OFF completes the companion removes every die rail. -/
  | offRailRemoval
  /-- HOST_ACCESS_WAKE (R766). A memory request to a BAR in SLEEP is held and wakes the device. -/
  | hostAccessWake (q : BarReq)
  /-- PERST_WAKE (R765). PERST# deasserts in DEEP and the device wakes. -/
  | perstWake
  /-- WAKE_TIMER_EXPIRY (R764). WAKE_AFTER_MS expires in SLEEP or DEEP and the device wakes. -/
  | wakeTimerExpiry
  /-- COMPANION_FAULT_WAKE (R764). A fault on CMP_IRQ0_N in SLEEP wakes the device. -/
  | companionFaultWake
  /-- FCLK_CEILING_EVALUATION (R776). Every 100 µs the power controller sets FCLK to the slowest ceiling. -/
  | fclkCeilingEvaluation (pFab mean : Nat)
  /-- THERMAL_CEILING_UPDATE (R782). Every 1 ms the die and HBM thermal ceilings step down or lift with temperature. -/
  | thermalCeilingUpdate (die hbm : Int)
  /-- RACK_BUDGET_TAKE (R784). The die takes a new rack budget from CP_RACK_BUDGET, stamps it and sends BUDGET records. -/
  | rackBudgetTake
  /-- BUDGET_RECEIVE (R785). A BUDGET record arrives and a newer stamp is adopted. -/
  | budgetReceive (src : Fin 128) (domain value stamp : Nat)
  /-- DEMAND_TRANSMIT (R788). At 5 ms past each 10 ms each module sends its DEMAND. -/
  | demandTransmit (pFab mean : Nat)
  /-- DEMAND_RECEIVE (R789). A DEMAND arrives, updating heard modules, the steward and any newer budget. -/
  | demandReceive (d : Demand)
  /-- GRANT_COMPUTE (R791). At 9 ms past each 10 ms the steward computes and sends grants. -/
  | grantCompute
  /-- GRANT_RECEIVE (R792). A GRANT arrives and a lowered grant takes effect at once. -/
  | grantReceive (src : Fin 128) (g : Grant)
  /-- GRANT_RAISE_APPLY (R792). 1 ms after a raising GRANT the higher cap takes effect. -/
  | grantRaiseApply
  /-- GRANT_SILENCE_TIMEOUT (R792). No GRANT for 50 ms and the module takes its floor share with FLOOR_MODE. -/
  | grantSilenceTimeout
  /-- ENERGY_ATTRIBUTION (R801). Every 100 µs input energy is divided among partitions, engines, jobs and DEVICE. -/
  | energyAttribution (slice : EnergySlice)
  /-- TRACE_CONFIG (R830). TRACE.CONFIG configures the function's trace session and sink. -/
  | traceConfig (fn : Fn)
  /-- TRACE_START (R831). TRACE.START resets the write position, emits a SYNC and starts capture. -/
  | traceStart (fn : Fn)
  /-- TRACE_STOP (R832). TRACE.STOP flushes captured packets to the sink and stops capture. -/
  | traceStop (fn : Fn)
  /-- TRACE_AUTHORISE (R815). TRACE.AUTHORISE grants a function sight of partitions and sources for a duration. -/
  | traceAuthorise (fn : Fn)
  /-- TRACE_REVOKE (R833). TRACE.REVOKE ends a grant. -/
  | traceRevoke (fn : Fn)
  /-- TRACE_GRANT_EXPIRY (R815). A trace grant's expiry is reached on device time and it ends. -/
  | traceGrantExpiry (id : Fin 32)
  /-- BRANCH_BUFFER_TIMEOUT (R828). 4,096 lc after the oldest held branch outcome a BR packet is emitted. -/
  | branchBufferTimeout (fn : Fn) (p : Fin 16)
  /-- TRACE_OVERFLOW_RECOVERY (R819). 4 KiB of a full capture buffer frees, an overflow GAP is emitted and a new block begins. -/
  | traceOverflowRecovery (fn : Fn)
  /-- FAULT_READ_LOG (R857). FAULT.READ_LOG writes error records from the HBM or companion ring to a host buffer. -/
  | faultReadLog (fn : Fn) (stopAt : Option Nat)
  /-- FAULT_CLEAR (R858). FAULT.CLEAR zeroes the function's fault counts and last code. -/
  | faultClear (fn : Fn)
  /-- FAULT_POLICY (R859). FAULT.POLICY sets the device-fatal action, reset limit, auto-quarantine and threshold. -/
  | faultPolicy (fn : Fn)
  /-- FAULT_INJECT_RECORD (R860). FAULT.INJECT RECORD appends a FAULT_INJECTED record and contains it by class. -/
  | faultInjectRecord (fn : Fn)
  /-- FAULT_INJECT_CELL_ECC (R860). FAULT.INJECT CELL_ECC corrupts a memory-cell word's ECC. -/
  | faultInjectCellEcc (fn : Fn)
  /-- FAULT_INJECT_HBM_ECC (R860). FAULT.INJECT HBM_ECC corrupts an HBM word's ECC. -/
  | faultInjectHbmEcc (fn : Fn)
  /-- FAULT_INJECT_LINK_CRC (R860). FAULT.INJECT LINK_CRC corrupts the CRC of a port's next DATA flit. -/
  | faultInjectLinkCrc (fn : Fn)
  /-- ERRLOG_COMMIT_DRAIN (R844). At most every 30 ms Hazel commits the next queued record to the companion ring. -/
  | errlogCommitDrain
  /-- COMPANION_LOG_POLL (R846). At least once a second Hazel reads the companion ring and appends new companion records. -/
  | companionLogPoll
  /-- ERROR_RECORDED_HOLDOFF (R847). The 10 ms ERROR_RECORDED interval ends and one event covers records since the last. -/
  | errorRecordedHoldoff (fn : Fn)
  /-- POISONED_TLP_RECEIVE (R855). A function receives a poisoned TLP, discarding a write or ending a command with DMA_ERROR. -/
  | poisonedTlpReceive (fn : Fn) (ended : Option Nat)
  /-- HOST_COMPLETION_TIMEOUT (R855). A device read of host memory has no completion within 50 ms and ends with DMA_ERROR. -/
  | hostCompletionTimeout (fn : Fn) (ended : Option Nat)
  /-- HZ_INT_ENABLE_WRITE (R874). A write to HZ_INT_ENABLE raises a vector for each newly enabled bit whose status is set. -/
  | hzIntEnableWrite (fn : Fn) (value : W32)
  /-- HZ_RESET_REQ (R879). Writing the key to HZ_RESET_REQ makes the reset sequencer start a warm reset within 10 µs. -/
  | hzResetReq (fn : Fn) (value : W32)
  /-- DIE_RAIL_GOOD (R897). A die rail becomes good and the companion enables the next, releasing MODPWR_OK after the last. -/
  | dieRailGood
  /-- DIE_RAIL_TIMEOUT (R898). A rail is not good 5 ms after enable; rails are removed, REG_FAULT appended and the sequence retried. -/
  | dieRailTimeout
  /-- FEEDS_LOST (R901). Neither feed is in ON; MODPWR_OK falls and the die rails are removed in reverse order. -/
  | feedsLost
  /-- BYPASS (R908). JTAG BYPASS passes TDI to TDO through one bit. -/
  | jtagBypass (dev : Fin 2) (pins tdi : List Bool)
  /-- SAMPLE_PRELOAD (R908). JTAG SAMPLE/PRELOAD samples or preloads the boundary register. -/
  | jtagSamplePreload (dev : Fin 2) (pins tdi : List Bool)
  /-- EXTEST (R909). JTAG EXTEST drives pins from the boundary register while PERST# is low. -/
  | jtagExtest (dev : Fin 2) (pins tdi : List Bool)
  /-- IDCODE (R908). JTAG IDCODE shifts out the device identifier. -/
  | jtagIdcode (dev : Fin 2) (pins tdi : List Bool)
  /-- CLAMP (R909). JTAG CLAMP holds pins from the boundary register while PERST# is low. -/
  | jtagClamp (dev : Fin 2) (pins tdi : List Bool)
  /-- HIGHZ (R909). JTAG HIGHZ tri-states pins while PERST# is low. -/
  | jtagHighz (dev : Fin 2) (pins tdi : List Bool)
  /-- HAZEL_SRAM_UE (R851). A multi-bit error in Hazel SRAM raises the device-fatal fault HAZEL_SRAM_UE, recorded and acted on by FAULT.POLICY. -/
  | hazelSramUe (offset : W32)
  /-- PLL_LOCK_TIMEOUT (R164). A PLL lock attempt does not set the lock indicator within 200 µs; after three attempts STEP_FAIL is set and recovery mode entered. -/
  | pllLockTimeout
  /-- CLKREQ_RELEASE (R626). A captive drive releases DPn_CLKREQ_N and the hub stops DPn_REFCLK. -/
  | clkreqRelease (dp : Fin 8)
  /-- CONTROLLER_READY (R632). The drive sets CSTS.RDY after CC.EN and initialisation continues with Identify Controller. -/
  | controllerReady (dp : Fin 8)
  /-- CONTROLLER_READY_TIMEOUT (R632). CSTS.RDY is not set within CAP.TO, at most 60 s, and the drive fails initialisation. -/
  | controllerReadyTimeout (dp : Fin 8)
  /-- SHUTDOWN_COMPLETE (R627). The drive reports CSTS.SHST = 10b after a normal shutdown and the slot is powered off. -/
  | shutdownComplete (dp : Fin 8)
  /-- SHUTDOWN_TIMEOUT (R627). CSTS.SHST does not reach 10b within the RTD3 Entry Latency, at most 10 s, and the slot is powered off anyway. -/
  | shutdownTimeout (dp : Fin 8)
  /-- NVME_ADMIN_TIMEOUT (R656). TIMEOUT_MS passes for a HUB.NVME_ADMIN command and it completes with DRIVE_ERROR. -/
  | nvmeAdminTimeout (dp : Fin 8) (cid : Nat)
  /-- TRST_N_ASSERT (R120). TRST_N is asserted and the JTAG test access port and TDO are reset. -/
  | trstNAssert
deriving DecidableEq, Repr

end Sys2Proof
end

