-- ==== Sys2Proof/Decode.lean ====
section
/-! DEFINITION. The decoder of table words: the rows of spec/opcode_table.json have no bits. -/

namespace Sys2Proof

/-- The command that a word of `nbits` bits spells by the table: none, since the table gives no row any bits. -/
def decodeTableWord (_nbits _w : Nat) : Option Instr := none

end Sys2Proof
end

