-- ==== Sys2Proof/Config.lean ====
section
/-! DEFINITION. What one module's build fixes and what the manual leaves open: constants with no body, so that nothing can be
proved of their values. -/

namespace Sys2Proof

/-- The k-th value that the manual leaves open (State.free counts them). (DESIGN CHOICE: log entry 8.) -/
opaque Config.freeValue : Nat → Nat
/-- LINEAR11 word that the companion returns for a reading in thousandths of its unit: the standard admits several. (DESIGN CHOICE: log entry 9.) -/
opaque Config.linear11 : Int → Nat
/-- Bytes of READ_EIN for an energy in µJ, in the energy format that PMBus names (R70). (DESIGN CHOICE: log entry 9.) -/
opaque Config.einFormat : Nat → List Byte
/-- What a PMBus read with PAGE 0xFF returns of a per-feed value, by command code, from the values of the two pages. (DESIGN CHOICE: log entry 9.) -/
opaque Config.pageBoth : Nat → Nat → Nat → Nat
/-- The 12 characters of MFR_SERIAL (R15). (DESIGN CHOICE: log entry 9.) -/
opaque Config.serial : Nat → Byte
/-- Milliseconds since the companion started, at the k-th record it makes (R841). (DESIGN CHOICE: log entries 9, 18.) -/
opaque Config.companionMs : Nat → W64
/-- SHA-384 of a byte sequence (FIPS 180-4), which the manual names and does not give. (DESIGN CHOICE: log entry 9.) -/
opaque Config.sha384 : List Byte → List Byte
/-- ECDSA P-384 verification: key x, key y, digest, r, s (FIPS 186-5). (DESIGN CHOICE: log entry 9.) -/
opaque Config.ecdsaP384 : List Byte → List Byte → List Byte → List Byte → List Byte → Bool
/-- Key hash fused in a key slot, and whether the slot is revoked (R149). (DESIGN CHOICE: log entry 9.) -/
opaque Config.keyHash : Nat → List Byte
opaque Config.keyRevoked : Nat → Bool
/-- Binding fields of S1 and S3 that a region's factory repair fuses hold (R143). (DESIGN CHOICE: log entry 9.) -/
opaque Config.fuseS1 : Nat → Nat
opaque Config.fuseS3 : Nat → Nat
/-- The special functions of the vector cell on a finite FP32 operand without a stated value (R314): op code, operand. (DESIGN CHOICE: log entry 9.) -/
opaque Config.special : Nat → W32 → W32
/-- DIGEST of the companion firmware as delivered (R225). (DESIGN CHOICE: log entry 9.) -/
opaque Config.companionFw : List Byte
/-- Gate-current level chosen from the target slew, the slew measured and the level in force (R39). (DESIGN CHOICE: log entry 9.) -/
opaque Config.gateLevel : Nat → Nat → Nat → Nat

end Sys2Proof
end

