-- ==== Sys2Proof/Machine/Bytes.lean ====
section
/-! DEFINITION. Little-endian byte layouts (R9), bit fields and CRC-32C (R13). -/

namespace Sys2Proof

/-- The `n` bytes of `v`, least significant first (R9). -/
def le (n v : Nat) : List Byte :=
  match n with
  | 0 => []
  | n + 1 => BitVec.ofNat 8 v :: le n (v / 256)

/-- The number that `l` spells, least significant byte first (R9). -/
def leNat (l : List Byte) : Nat :=
  match l with
  | [] => 0
  | b :: r => b.toNat + 256 * leNat r

/-- The `n` bytes of `l` from `off` on, with zeros past the end of `l`. -/
def bytesAt (l : List Byte) (off n : Nat) : List Byte :=
  match n with
  | 0 => []
  | n + 1 => l.getD off 0 :: bytesAt l (off + 1) n

/-- The `n`-byte number at offset `off` of `l`. -/
def rd (n : Nat) (l : List Byte) (off : Nat) : Nat := leNat (bytesAt l off n)

/-- `l` with the bytes `b` laid at `off`, extended by zeros where `l` is shorter. -/
def layAt (l : List Byte) (off : Nat) (b : List Byte) : List Byte :=
  bytesAt l 0 off ++ b ++ l.drop (off + b.length)

/-- A structure of `size` bytes that is zero but for the fields listed, each laid at its offset. -/
def fields (size : Nat) (fs : List (Nat × List Byte)) : List Byte :=
  bytesAt (fs.foldl (fun l f => layAt l f.1 f.2) []) 0 size

/-- Bit `i` of a number. -/
def bitOf (v i : Nat) : Bool := v / 2 ^ i % 2 == 1

/-- Bits `hi` to `lo` of a number, as a number. -/
def bitsOf (v hi lo : Nat) : Nat := v / 2 ^ lo % 2 ^ (hi + 1 - lo)

/-- 1 for true, 0 for false. -/
def b2n (b : Bool) : Nat := if b then 1 else 0

/-- The number whose set bits are the members of `l`. -/
def maskOf (l : List Nat) : Nat := l.foldl (fun m k => m ||| 2 ^ k) 0

/-- The bits below `n` that are set in `m`, rising. -/
def bitsSet (m n : Nat) : List Nat := (List.range n).filter (bitOf m)

/-- The two's-complement value of the low `n` bits of `v`. -/
def sext (n v : Nat) : Int :=
  let w := v % 2 ^ n
  if w < 2 ^ (n - 1) then (w : Int) else (w : Int) - (2 ^ n : Nat)

/-- The low `n` bits of an integer's two's complement. -/
def ofInt (n : Nat) (i : Int) : Nat := (i % (2 ^ n : Nat)).toNat

/-- `v`, held at `m` where it is greater. -/
def sat (m v : Nat) : Nat := if v ≤ m then v else m

/-- One bit of the reflected CRC-32C division (R13). -/
def crcBit (c : W32) : W32 := if c.getLsbD 0 then (c >>> 1) ^^^ 0x82F63B78#32 else c >>> 1

/-- One byte of the CRC-32C division (R13). -/
def crcByte (c : W32) (b : Byte) : W32 :=
  crcBit (crcBit (crcBit (crcBit (crcBit (crcBit (crcBit (crcBit (c ^^^ b.zeroExtend 32))))))))

/-- CRC-32C of a byte sequence, with the initial value and final exclusive or of R13. -/
def crc32c (l : List Byte) : W32 := (l.foldl crcByte 0xFFFFFFFF#32) ^^^ 0xFFFFFFFF#32

end Sys2Proof
end

