-- ==== Sys2Proof/Machine/Tab.lean ====
section
/-! DEFINITION. Reading and writing tables, sparse byte memories and ordered sets of numbers. -/

namespace Sys2Proof

/-- The entry of `k`, or `d` where the table lists none. -/
def tget {α : Type} (d : α) (t : Tab α) (k : Nat) : α :=
  match t with
  | [] => d
  | (j, v) :: r => if k = j then v else tget d r k

/-- The entry of `k`, where the table lists one. -/
def tfind {α : Type} (t : Tab α) (k : Nat) : Option α :=
  match t with
  | [] => none
  | (j, v) :: r => if k = j then some v else tfind r k

/-- The table with `v` as the entry of `k`; keys keep their rising order. -/
def tset {α : Type} (t : Tab α) (k : Nat) (v : α) : Tab α :=
  match t with
  | [] => [(k, v)]
  | (j, w) :: r => if k = j then (k, v) :: r else if k < j then (k, v) :: (j, w) :: r else (j, w) :: tset r k v

/-- The table without an entry of `k`. -/
def tdel {α : Type} (t : Tab α) (k : Nat) : Tab α := t.filter (fun e => e.1 != k)

/-- The table with `f` applied to the entry of `k`. -/
def tmod {α : Type} (d : α) (t : Tab α) (k : Nat) (f : α → α) : Tab α := tset t k (f (tget d t k))

/-- The table with `f` applied to the entries of the keys `ks`, one after another. -/
def tmodAll {α : Type} (d : α) (t : Tab α) (ks : List Nat) (f : Nat → α → α) : Tab α :=
  ks.foldl (fun t k => tset t k (f k (tget d t k))) t

/-- A rising list of numbers with `k` among them. -/
def sins (l : List Nat) (k : Nat) : List Nat :=
  match l with
  | [] => [k]
  | j :: r => if k = j then j :: r else if k < j then k :: j :: r else j :: sins r k

/-- The list without `k`. -/
def sdel (l : List Nat) (k : Nat) : List Nat := l.filter (fun j => j != k)

/-- The numbers `a`, `a+1`, … of which there are `n`. -/
def span (a n : Nat) : List Nat :=
  match n with
  | 0 => []
  | n + 1 => a :: span (a + 1) n

end Sys2Proof
end

