-- ==== Sys2Proof/Machine/Mem.lean ====
section
/-! DEFINITION. Sparse byte memories in one canonical form: rising addresses, no byte equal to what an unlisted address reads as. -/

namespace Sys2Proof.Machine

open Host (Cell)

/-- The byte at `a` of a memory whose unlisted bytes read as `d`. (DESIGN CHOICE: log entry 1.) -/
def mget (d : Byte) (m : List Cell) (a : Nat) : Byte :=
  match m with
  | [] => d
  | (b, v) :: r => if a = b then v else mget d r a

/-- The memory with `v` at `a`. (DESIGN CHOICE: log entry 1.) -/
def mset (d : Byte) (m : List Cell) (a : Nat) (v : Byte) : List Cell :=
  match m with
  | [] => if v = d then [] else [(a, v)]
  | (b, w) :: r =>
    if a = b then (if v = d then r else (a, v) :: r)
    else if a < b then (if v = d then (b, w) :: r else (a, v) :: (b, w) :: r)
    else (b, w) :: mset d r a v

/-- Every address of `m` lies above `lo`, they rise, and no byte is `d`. -/
def mwfFrom (d : Byte) (lo : Option Nat) (m : List Cell) : Bool :=
  match m with
  | [] => true
  | (a, v) :: r =>
    (match lo with
      | none => true
      | some b => decide (b < a)) && decide (v ≠ d) && mwfFrom d (some a) r

/-- The canonical form of a memory. (DESIGN CHOICE: log entry 1.) -/
def Memory.wf (d : Byte) (m : List Cell) : Bool := mwfFrom d none m

/-- The `n` bytes from `a` on. (DESIGN CHOICE: log entry 1.) -/
def mread (d : Byte) (m : List Cell) (a n : Nat) : List Byte :=
  match n with
  | 0 => []
  | n + 1 => mget d m a :: mread d m (a + 1) n

/-- The memory with the bytes `bs` from `a` on. (DESIGN CHOICE: log entry 1.) -/
def mwrite (d : Byte) (m : List Cell) (a : Nat) (bs : List Byte) : List Cell :=
  match bs with
  | [] => m
  | b :: r => mwrite d (mset d m a b) (a + 1) r

/-- The memory with `n` bytes from `a` on made unlisted. (DESIGN CHOICE: log entry 1.) -/
def mclear (m : List Cell) (a n : Nat) : List Cell := m.filter (fun c => !(decide (a ≤ c.1) && decide (c.1 < a + n)))

end Sys2Proof.Machine
end

