-- ==== Sys2Proof/Machine/MapOps.lean ====
section
/-! DEFINITION. Repair maps: bindings, pod states, the map record and the banks of the map store (R142, R143, R253–R257). -/

namespace Sys2Proof.Machine

/-- Codes of the pod states (R257). -/
def PodState.code : PodState → Nat
  | .active => 0 | .spareAvailable => 1 | .quarantined => 2 | .failed => 3

/-- State of the physical pod in a slot, from the states listed: positions are ACTIVE and spares available until told otherwise. -/
def slotState (t : Tab PodState) (slot : Nat) : PodState := tget (if slot < 40 then .active else .spareAvailable) t slot

/-- Position that a binding field names: slot r × 8 + c of the substituted pod (R254). -/
def boundPos (b : Nat) : Option Nat := if bitOf b 0 then some (bitsOf b 3 1 * 8 + bitsOf b 6 4) else none

/-- Physical slot that serves position `pos` under bindings (R240). -/
def servedBy (s1 s3 pos : Nat) : Nat :=
  if boundPos s1 = some pos then 40 else if boundPos s3 = some pos then 41 else pos

/-- A map's bindings are valid (R253, R254). -/
def mapValid (s1 s3 : Nat) : Bool :=
  let field (b : Nat) : Bool := b < 128 && (bitOf b 0 || b = 0)
  field s1 && field s3 && (!bitOf s1 0 || bitsOf s1 3 1 ≤ 2) && (!bitOf s3 0 || (2 ≤ bitsOf s3 3 1 && bitsOf s3 3 1 ≤ 4))
    && !(bitOf s1 0 && boundPos s1 = boundPos s3)

/-- The fingerprint of a map (R254). -/
def fingerprint (s1 s3 : Nat) : Nat := 1 + 256 * s1 + 2 ^ 24 * s3

/-- Pod states of a region whose bindings come from the repair fuses: a replaced pod has failed its test, a bound spare is ACTIVE (R143). (DEDUCED: log entry 19.) -/
def factoryPods (s1 s3 : Nat) : Tab PodState :=
  let one (t : Tab PodState) (b spare : Nat) : Tab PodState :=
    match boundPos b with
    | some p => tset (tset t p .failed) spare .active
    | none => t
  one (one [] s1 40) s3 41

/-- The map record built from region `rg`'s factory repair fuses, SEQUENCE 0 (R143, R255); fuses that name no valid map leave the region
without substitution. (DEDUCED: log entry 19.) -/
def factoryRec (rg : Nat) : MapRec :=
  let ok := mapValid (Config.fuseS1 rg) (Config.fuseS3 rg)
  let s1 := if ok then Config.fuseS1 rg else 0
  let s3 := if ok then Config.fuseS3 rg else 0
  { sequence := 0, s1 := s1, s3 := s3, pods := factoryPods s1 s3 }

/-- Bank 0 of the map store as delivered (R143). (DEDUCED: log entry 19.) -/
def factoryBank : MapBank := { sequence := 0, recs := (List.range 16).map (fun rg => (rg, factoryRec rg)) }

/-- POD_STATE of a map record: two bits for each of the 42 slots (R255). -/
def podStateBytes (t : Tab PodState) : List Byte :=
  le 16 (((List.range 42).map (fun n => (slotState t n).code * 4 ^ n)).foldl (· + ·) 0)

/-- The 64-byte map record of region `rg` (R255). -/
def MapRec.bytes (rg : Nat) (r : MapRec) : List Byte :=
  let b := fields 60
    [(0, le 1 rg), (1, le 1 1), (4, le 4 r.sequence.toNat), (8, le 8 (fingerprint r.s1 r.s3)), (0x10, le 2 r.s1), (0x12, le 2 r.s3),
     (0x18, podStateBytes r.pods)]
  b ++ le 4 (crc32c b).toNat

/-- The header and the sixteen records of a bank (R143). -/
def MapBank.bytes (b : MapBank) : List Byte :=
  let recs := (List.range 16).flatMap (fun rg => (tget (factoryRec rg) b.recs rg).bytes rg)
  fields 64 [(0, le 4 0x534D5256), (4, le 4 b.sequence.toNat), (8, le 4 recs.length), (12, le 4 (crc32c recs).toNat)] ++ recs

/-- The bank in use: the valid one of higher sequence number, bank 0 where they are equal (R142). -/
def bankInUse (t : Tab MapBank) : Option Nat :=
  match tfind t 0, tfind t 1 with
  | some a, some b => if a.sequence.toNat < b.sequence.toNat then some 1 else some 0
  | some _, none => some 0
  | none, some _ => some 1
  | none, none => none

end Sys2Proof.Machine
end

