-- ==== Sys2Proof/Machine/StBoot.lean ====
section
/-! DEFINITION. State of the clocks, of the resets and of the boot: start-up steps, DONE handshake and flash service. -/

namespace Sys2Proof.Machine

/-- The working clocks of the die (R90–R100). -/
structure Clocks where
  /-- ACLK and PCLK come from the root PLL; else from IOSC (R93, R94). -/
  root : Bool
  pllEnabled : Bool
  pllLocked : Bool
  /-- Lock attempts that have failed since the PLL_LOCK step began (R164). -/
  attempts : Nat
  /-- FCLK divider in force, and a change requested (R98). -/
  div : Nat
  divReq : Option Nat
  /-- A droop stretch is in progress (R99). -/
  stretch : Bool
  /-- FCLK and LCLK run; they are stopped before phase 2 and gated by a loss of clock (R93, R96). -/
  run : Bool
  /-- Root cycle within the divider frame of 240. -/
  phase : Nat
deriving DecidableEq, Repr

def Clocks.init : Clocks :=
  { root := false, pllEnabled := false, pllLocked := false, attempts := 0, div := 12, divReq := none, stretch := false
    run := false, phase := 0 }

/-- Die-level resets, from the highest rank (R117). -/
inductive ResetKind where
  | powerOn
  | efuse
  | cold
  | thermal
  | warm
  | watchdog
  | hot
deriving DecidableEq, Repr

/-- What became of a host configuration request (R123). -/
inductive CfgOutcome where
  | none
  | normal
  | crs
  | ur
deriving DecidableEq, Repr

/-- A command that ends when none of its regions is being zeroed: its final response, and the partitions whose fences then open (R104,
R109). -/
structure ZeroWait where
  fn : Nat
  id : Nat
  regions : List Nat
  parts : List Nat
  payload : List Byte
deriving DecidableEq, Repr

/-- The reset sequencer, the reset-cause record and the watchdog. -/
structure Resets where
  /-- A reset is in progress and the ACLK part of PD_SOC is not yet released (R117). -/
  active : Bool
  kind : ResetKind
  sources : List ResetKind
  /-- DIE_RSTOUT_N is low, and the companion has taken its first sample (R64, R114). -/
  rstoutLow : Bool
  sampled : Bool
  /-- PERST# is low. -/
  perst : Bool
  thermalHold : Bool
  sensor : Nat
  /-- Peak temperature of the last thermal trip, in 0.125 °C. -/
  peak : Int
  padHold : Bool
  /-- Die is powered: every rail is good (R897). -/
  powered : Bool
  /-- Domains released from reset: the host interface (PCLK and ACLK parts, PD_HUB), PD_HBM, LCLK and PD_LINK (R115). -/
  socOut : Bool
  hubOut : Bool
  hbmOut : Bool
  linkOut : Bool
  /-- Regions released from reset, and regions whose cells are being zeroed (R109, R115). -/
  fabOut : List Nat
  zeroing : List Nat
  zeroWaits : List ZeroWait
  /-- HBM contents survived the reset; the HBM state record was accepted (R135). -/
  hbmKept : Bool
  stateRestored : Bool
  /-- A hot reset waits for Hazel's start-up fill before HZ_RESET_CAUSE is rewritten (R137). -/
  hotPending : Bool
  /-- HZ_RESET_CAUSE and HZ_RESET_COUNT are still to be filled for the last reset (R135–R137). -/
  fillDue : Bool
  /-- A warm reset has been asked for: 1 by SYS.RESET, 2 by HZ_RESET_REQ, 3 by a device-fatal fault, 4 by a deployment failure. -/
  warmReq : Nat
  epReady : Bool
  /-- HZ_RESET_CAUSE and HZ_RESET_COUNT as Hazel last filled them (R135, R136). -/
  causeReg : W32
  countReg : W32
  /-- HZ_WDOG_CFG, and whether the watchdog counts (R133). -/
  wdogTimeout : W16
  wdogHalt : Bool
  wdogExpired : Bool
  wdogRunning : Bool
  /-- Outcome of the last host configuration request. -/
  cfg : CfgOutcome
deriving DecidableEq, Repr

/-- The die before its first power-on reset has run: every domain is in reset. (DESIGN CHOICE: log entries 2, 3.) -/
def Resets.init : Resets :=
  { active := true, kind := .powerOn, sources := [.powerOn], rstoutLow := true, sampled := true, perst := true
    thermalHold := false, sensor := 0, peak := 0, padHold := true, powered := false, socOut := false, hubOut := false
    hbmOut := false, linkOut := false, fabOut := [], zeroing := [], zeroWaits := [], hbmKept := false, stateRestored := false
    hotPending := false, fillDue := false, warmReq := 0, epReady := false, causeReg := 0, countReg := 0, wdogTimeout := 2000
    wdogHalt := false, wdogExpired := false, wdogRunning := false, cfg := .none }

/-- What runs on Hazel. -/
inductive Hazel where
  /-- Held in reset or unpowered. -/
  | off
  /-- The boot ROM, at the primary slot (0) or the golden slot (1) (R151). -/
  | rom (slot : Nat)
  | running
  | recovery
  | halted
deriving DecidableEq, Repr

/-- DONE_STATE, in the order of its codes (R155). -/
inductive DoneState where
  | holding
  | waiting
  | passed
  | timedOut
deriving DecidableEq, Repr

/-- A FLASH or REGION.APPLY_MAP command that waits its turn at the flash (R177); with id 0, the write of the map store that is due for
region `fn` (R143, R272). -/
structure FlashJob where
  fn : Nat
  id : Nat
deriving DecidableEq, Repr

/-- The boot flash, the boot status and the DONE handshake. -/
structure Boot where
  /-- The 64 MiB boot flash; an unlisted byte reads 0xFF. -/
  flash : List Host.Cell
  /-- The flash answers SFDP discovery (R153). -/
  flashFitted : Bool
  hazel : Hazel
  nextGolden : Bool
  wdogStreak : Nat
  primaryResult : Nat
  goldenResult : Nat
  source : Nat
  goldWe : Bool
  dpw : Bool
  unlocked : Bool
  stepsDone : Nat
  stepFail : Bool
  done : DoneState
  doneLate : Bool
  deployed : Bool
  fwVersion : W32
  startupSeq : W32
  /-- Sections still to be deployed: TYPE, offset in flash, length, DIGEST held in SRAM (R166). -/
  toDeploy : List (Nat × Nat × Nat × List Byte)
  /-- Types of the sections loaded into their destinations. -/
  sections : List Nat
  /-- Settings record in force (R144). -/
  doneTimeout : Nat
  doneIgnore : Bool
  wdogLimit : Nat
  /-- WRITE_ENABLE has completed (R163). -/
  writeEnable : Bool
  /-- The die, and the companion, drive DONE low (R170). -/
  dieDone : Bool
  compDone : Bool
  /-- BOOT_FALLBACK is to be raised (R156). -/
  fallback : Bool
  jobs : List FlashJob
deriving DecidableEq, Repr

/-- Boot state before the first reset has run. (DESIGN CHOICE: log entry 2.) -/
def Boot.init : Boot :=
  { flash := [], flashFitted := true, hazel := .off, nextGolden := false, wdogStreak := 0, primaryResult := 15
    goldenResult := 15, source := 0, goldWe := false, dpw := false, unlocked := false, stepsDone := 0
    stepFail := false, done := .holding, doneLate := false, deployed := false, fwVersion := 0
    startupSeq := 0xC2814100#32, toDeploy := [], sections := [], doneTimeout := 10, doneIgnore := false
    wdogLimit := 3, writeEnable := false, dieDone := true, compDone := false, fallback := false, jobs := [] }

end Sys2Proof.Machine
end

