-- ==== Sys2Proof/Machine/StCompanion.lean ====
section
/-! DEFINITION. State of the WN-200 companion, of the power-entry stages and of the JTAG chain. -/

namespace Sys2Proof.Machine

/-- Feed states, in the order of their codes (R35). -/
inductive FeedState where
  | off
  | qualify
  | ramp
  | on
  | tripped
  | latched
deriving DecidableEq, Repr

/-- Feed trip causes, in the order of their CP_FEED_STATE codes. -/
inductive TripCause where
  | none
  | ov
  | rampTimeout
  | ocTimer
  | ocFast
  | reverse
deriving DecidableEq, Repr

/-- One feed: its state machine, its e-fuse and ORing settings, and its telemetry. -/
structure Feed where
  state : FeedState
  cause : TripCause
  /-- OPERATION is ON. -/
  operation : Bool
  /-- Retries left before LATCHED (R46). -/
  retries : Nat
  /-- The ORing transistor may conduct forward; cleared by a reverse-current trip (R48, R50). -/
  oring : Bool
  /-- Output node in mV (R38, R911) and the level of the gate current source (R39). -/
  node : Nat
  gate : Nat
  /-- Limits in mV and mA (R36, R43, R45). -/
  ovLimit : Nat
  uvLimit : Nat
  ocLimit : Nat
  ocWarn : Nat
  /-- STATUS_INPUT as PMBus numbers its bits. -/
  statusInput : Byte
  /-- Telemetry: VIN in 10 mV, signed current in 10 mA, energy in µJ with the latched high half (R70). -/
  vin : Nat
  iin : Int
  ein : W64
  einHi : W32
deriving DecidableEq, Repr

/-- A feed before its companion has started (R35, R36, R43, R45, R46). (DESIGN CHOICE: log entry 3.) -/
def Feed.init : Feed :=
  { state := .off, cause := .none, operation := true, retries := 3, oring := false, node := 0, gate := 0
    ovLimit := 58000, uvLimit := 42000, ocLimit := 40000, ocWarn := 36000, statusInput := 0, vin := 0, iin := 0
    ein := 0, einHi := 0 }

/-- Drive-bay states as CP_SLOT_STATE reports them, with the discharge after a switch-off told apart (R57). (DEDUCED: log entry 13.) -/
inductive BayState where
  | off
  | ramping
  | on
  | slotFault
  | discharging
deriving DecidableEq, Repr

/-- One drive bay: its state and whether a request to switch it on waits for a ramp place (R55). -/
structure Bay where
  state : BayState
  queued : Bool
deriving DecidableEq, Repr

def Bay.init : Bay := { state := .off, queued := false }

/-- The retention cells of the always-on domain. -/
structure Aon where
  /-- Copies A and B of the reset counter, and the state cell: 0x00 IDLE, 0x5A UPD_A, 0xA5 UPD_B (R60–R63). -/
  cntA : W32
  cntB : W32
  rcState : Byte
  /-- The last-reset-cause record (R64). -/
  cntLow : Byte
  cause : Nat
  feedA : Nat
  feedB : Nat
  wakeCause : Byte
  /-- The ring of 64 error records, its next write index and the number held (R67). -/
  log : Tab (List Byte)
  logIdx : Nat
  logCount : Nat
deriving DecidableEq, Repr

def Aon.init : Aon :=
  { cntA := 0, cntB := 0, rcState := 0, cntLow := 0, cause := 0, feedA := 0, feedB := 0, wakeCause := 0, log := []
    logIdx := 0, logCount := 0 }

/-- PMBus settings and status of the target port. -/
structure Pmbus where
  page : Byte
  writeProtect : Byte
  statusTemp : Byte
  statusCml : Byte
  statusMfr : Byte
  /-- Words last written to the LINEAR11 settings, by command code and page, as a read returns them. -/
  written : Tab Nat
  /-- Bytes that the last read returned. -/
  response : List Byte
deriving DecidableEq, Repr

def Pmbus.init : Pmbus :=
  { page := 0, writeProtect := 0, statusTemp := 0, statusCml := 0, statusMfr := 0, written := [], response := [] }

/-- The fabric regulator as the companion drives it (R74–R76, R84), in mV. -/
structure Vreg where
  request : Nat
  requestSeq : W16
  setpoint : Nat
  settled : Bool
  lastSettled : Nat
  fault : Bool
  /-- STATUS_WORD of the regulator as last read. -/
  statusWord : W16
deriving DecidableEq, Repr

def Vreg.init : Vreg :=
  { request := 0, requestSeq := 0, setpoint := 0, settled := false, lastSettled := 0, fault := false, statusWord := 0 }

/-- The companion. -/
structure Companion where
  /-- 3V3AUX is present, and the companion has started from it (R62, R896). -/
  aux : Bool
  running : Bool
  feeds : Tab Feed
  bays : Tab Bay
  aon : Aon
  pmb : Pmbus
  vreg : Vreg
  slotCtrl : Byte
  slotIlim : W32
  status : W32
  irqMask : W32
  /-- CP_FASTCAP_LIMIT in W, and the thresholds the comparators hold: total and per feed, in 10 mA (R72). -/
  fastcapLimit : Nat
  hwTotal : Nat
  hwFeed : Tab Nat
  fastcap : Bool
  rackBudget : W16
  rackSeq : W16
  floorShare : Nat
  /-- n × 0.5 V/ms, n × 0.5 ms, retries (R39, R43, R46). -/
  inrushSlew : Nat
  breakerTime : Nat
  retryPolicy : Nat
  /-- Stored and applied ORing mode: true is sharing (R51). -/
  oringStored : Bool
  oringInForce : Bool
  tempBoard : Int
  tempInlet : Int
  /-- CP_PIN in 10 mW. -/
  pin : Nat
  stage : Tab W32
  /-- PMBus address straps as sampled at the companion's start. -/
  addr : Nat
  /-- A companion firmware update is in progress (R85–R88). -/
  updating : Bool
  /-- DIGEST of the image section that the running firmware came from, none for the firmware as delivered; and that of the section
  being written (R225). -/
  fw : Option (List Byte)
  newFw : List Byte
  /-- Frame that the companion last returned on the SPI (R68). -/
  spiOut : List Byte
  /-- Die rails: how many of steps 1–6 are good, whether the sequence runs, and retries left (R897, R898). -/
  railsGood : Nat
  railsOn : Bool
  railRetries : Nat
  railWait : Bool
  /-- MODPWR_OK is released (R899). -/
  modpwr : Bool
  /-- A trip left neither feed in ON; the next start carries EFUSE_TRIP (R47). -/
  efuse : Bool
  /-- The power-on reset that the companion's start counts has not been run yet (R62). -/
  porCounted : Bool
deriving DecidableEq, Repr

/-- The companion at the moment 3V3AUX becomes valid, before it starts. (DESIGN CHOICE: log entries 2, 3.) -/
def Companion.init : Companion :=
  { aux := true, running := false, feeds := [], bays := [], aon := Aon.init, pmb := Pmbus.init, vreg := Vreg.init
    slotCtrl := 0, slotIlim := 0x66666666#32, status := 0, irqMask := 0xFFFFFFFF#32
    fastcapLimit := 1800, hwTotal := 0, hwFeed := [], fastcap := false, rackBudget := 0, rackSeq := 0
    floorShare := 800, inrushSlew := 4, breakerTime := 24, retryPolicy := 3, oringStored := false
    oringInForce := false, tempBoard := 0, tempInlet := 0, pin := 0, stage := [], addr := 0, updating := false
    fw := none, newFw := [], spiOut := [], railsGood := 0, railsOn := false, railRetries := 3, railWait := false, modpwr := false
    efuse := false, porCounted := false }

/-- JTAG instructions (R908). -/
inductive JtagInstr where
  | bypass
  | samplePreload
  | extest
  | idcode
  | clamp
  | highz
deriving DecidableEq, Repr

/-- What drives a device's pins (R909). -/
inductive PinDrive where
  | functional
  | boundary
  | highz
deriving DecidableEq, Repr

/-- One device of the JTAG chain. -/
structure JtagDev where
  instr : JtagInstr
  bypassBit : Bool
  boundary : List Bool
  drive : PinDrive
deriving DecidableEq, Repr

def JtagDev.init : JtagDev := { instr := .idcode, bypassBit := false, boundary := [], drive := .functional }

/-- The JTAG chain: device 0 is the die, device 1 the companion; and the bits last shifted out of TDO. -/
structure Jtag where
  dev : Tab JtagDev
  tdo : List Bool
deriving DecidableEq, Repr

def Jtag.init : Jtag := { dev := [], tdo := [] }

end Sys2Proof.Machine
end

