-- ==== Sys2Proof/Machine/StEngine.lean ====
section
/-! DEFINITION. State of the shared engines: mover descriptors in progress, embedding tables and their work, arbitration. -/

namespace Sys2Proof.Machine

/-- A mover descriptor of kind COPY (fill = false) or FILL (R506). -/
structure Desc where
  fill : Bool
  setFlag : Bool
  flagSet : Nat
  waitPrev : Bool
  srcHost : Bool
  dstHost : Bool
  remote : Bool
  remoteId : Nat
  remotePart : Nat
  rows : Nat
  src : Nat
  dst : Nat
  rowBytes : Nat
  srcStride : Int
  dstStride : Int
deriving DecidableEq, Repr

/-- An embedding descriptor (R524). -/
structure EmbDesc where
  /-- 0 GATHER, 1 SCATTER, 2 STEP. -/
  op : Nat
  setFlag : Bool
  flagSet : Nat
  weighted : Bool
  mean : Bool
  sat : Bool
  table : Nat
  outFmt : Nat
  bags : Nat
  offsets : Nat
  indices : Nat
  weights : Nat
  out : Nat
  outStride : Nat
  step : Nat
deriving DecidableEq, Repr

/-- A list of descriptors that one command or one mover-schedule entry issued (R512), and what has become of it (R516). -/
structure JobList where
  id : Nat
  /-- The mailbox command that waits, or none for a mover-schedule issue. -/
  cmd : Option (Nat × Nat)
  part : Nat
  jobId : W32
  /-- For the trace unit: engine, and the request's TAG or the index of the mover-schedule entry. -/
  engine : Nat
  entry : Nat
  total : Nat
  completed : Nat
  /-- Index and status of the first failed descriptor. -/
  failed : Option (Nat × Nat)
  bytes : Nat
  poison : Bool
  /-- The list is a MEM.FILL. -/
  memFill : Bool
deriving DecidableEq, Repr

/-- A mover descriptor in a queue of the movers (R505–R515). -/
structure Job where
  id : Nat
  list : Nat
  index : Nat
  /-- Member that it counts against: partition 0–15, or 16 for DEVICE (R440). -/
  member : Nat
  /-- Partition whose address space and fence it works under. -/
  part : Nat
  /-- Function through which it reaches host buffers (R508). -/
  fn : Nat
  jobId : W32
  desc : Desc
  started : Bool
  /-- Next segment: its row, and its first byte within the row (R511). -/
  row : Nat
  off : Nat
  /-- The whole source row, read before any byte of the row is written (R507), and its poisoned bytes by 64-byte word. -/
  rowBuf : List Byte
  rowPoison : List Nat
  /-- Banks whose arrival flag the descriptor has set already (R513). -/
  flagged : List (Nat × Nat)
  /-- REMOTE transfers not yet completed (R510). -/
  xfers : List Nat
  allSent : Bool
  /-- Every segment has been moved; the descriptor's end is due. -/
  ended : Bool
  /-- Status of a failure, with its MOVER_FAIL cause (R515). -/
  fail : Option (Nat × Nat)
deriving DecidableEq, Repr

/-- An embedding descriptor in the engine's queue. -/
structure EmbJob where
  id : Nat
  list : Nat
  index : Nat
  part : Nat
  jobId : W32
  desc : EmbDesc
  started : Bool
  /-- Indices by bag, with their weights. -/
  bags : List (List (Nat × W32))
  /-- GATHER: remote rows received, by row number, with whether poisoned. SCATTER: the sum of a row's contributions, as FP32 codes. -/
  rows : Tab (List Byte × Bool)
  sums : Tab (List Nat × Bool)
  /-- Bundles awaited: SEQ, member, rows or 0 entries, and XFER_ID. -/
  waits : List (Nat × Nat × List Nat × Nat)
  /-- Bags whose outputs are poisoned by a range error or a refused request. -/
  badBags : List Nat
  /-- A SCATTER has sent its updates. -/
  sent : Bool
  /-- Next bag to be written. -/
  next : Nat
  ended : Bool
  fail : Option (Nat × Nat)
deriving DecidableEq, Repr

/-- Moves registered by EMB.MIGRATE (R540). -/
structure Migration where
  fn : Nat
  cmdId : Nat
  target : Nat
  moves : List (Nat × W32)
  moved : Nat
deriving DecidableEq, Repr

/-- A step fence in progress (R534): 1 waits for earlier work, 2 in the first barrier, 3 between, 4 in the second barrier. -/
structure StepFence where
  job : Nat
  step : Nat
  phase : Nat
  /-- Move records in force at this fence: block and new owner-map entry (R540). -/
  moves : List (Nat × W32)
  /-- Blocks that this member is still to receive, with the bytes received of each. -/
  wait : List (Nat × Nat)
  /-- Rows that other members replicate, as member index and row. -/
  subs : List (Nat × Nat)
deriving DecidableEq, Repr

/-- An embedding table (R519). -/
structure EmbTable where
  fmt : Nat
  dim : Nat
  rows : Nat
  key : W32
  sgd : Bool
  slots : Nat
  lr : W32
  shard : Nat
  grad : Nat
  owner : Nat
  counter : Nat
  replica : Nat
  replicaRows : Nat
  /-- Members by index: link-ID and partition. -/
  members : List (Nat × Nat)
  /-- This member's own index. -/
  self : Nat
  bank : Nat
  swap : Bool
  lastStep : Option Nat
  localLookups : W64
  remoteLookups : W64
  replicaHits : W64
  bundles : W64
  updates : W64
  replicas : List Nat
  /-- Replica list from the next fence on. -/
  pendReplicas : Option (List Nat)
  /-- Replica directory: row to slot of the replica area. -/
  directory : Tab Nat
  /-- Owned rows that have received updates since the last fence. -/
  touched : List Nat
  diverged : Bool
  seq : Nat
  fence : Option StepFence
  migration : Option Migration
deriving DecidableEq, Repr

/-- Deficit-round-robin state of one engine (R445). -/
structure Arb where
  /-- Member served last, and what it may still use of its turn. -/
  turn : Nat
  deficit : Tab Nat
deriving DecidableEq, Repr

def Arb.init : Arb := { turn := 16, deficit := [] }

/-- The shared engines. -/
structure Engines where
  nextId : Nat
  lists : List JobList
  jobs : List Job
  emb : List EmbJob
  /-- Embedding tables by partition × 64 + TABLE. -/
  tables : Tab EmbTable
  arb : Tab Arb
  /-- Fences of the engines: 0 movers, 1 embedding, 2 collective and link transmit, 3 drive, 4 Husk (R433). -/
  fences : Tab FenceState
deriving DecidableEq, Repr

def Engines.init : Engines :=
  { nextId := 1, lists := [], jobs := [], emb := [], tables := [], arb := [], fences := [] }

end Sys2Proof.Machine
end

