-- ==== Sys2Proof/Machine/StHbm.lean ====
section
/-! DEFINITION. State of the HBM, of its units and of the device address space's tracked memory. -/

namespace Sys2Proof.Machine

/-- HBM: its bytes, an unlisted byte is zero; its poison and ECC marks by 64-byte word number; and its 256 MiB units (R423). -/
structure Hbm where
  mem : List Host.Cell
  poison : List Nat
  /-- Words with an ECC error: true when more than one symbol is wrong (R500), with whether it was injected. -/
  ecc : Tab (Bool × Bool)
  /-- Stacks in self-refresh, and stacks initialised and running. -/
  selfRefresh : Bool
  ready : Bool
  /-- Units device-reserved for the Husk areas or a trace ring, and units being zeroed after a revoke (R423, R429). -/
  reserved : List Nat
  zeroing : List Nat
  /-- The state record in the Hazel-reserved area is whole: its CRC-32C holds (R108). -/
  recordGood : Bool
  /-- Per stack: corrected, uncorrectable, poisoned reads; scrub passes (R518). -/
  corrected : Tab W32
  uncorrectable : Tab W32
  poisonedReads : Tab W32
  scrubPasses : Tab W64
deriving DecidableEq, Repr

def Hbm.init : Hbm :=
  { mem := [], poison := [], ecc := [], selfRefresh := false, ready := false, reserved := [], zeroing := []
    recordGood := false, corrected := [], uncorrectable := [], poisonedReads := [], scrubPasses := [] }

end Sys2Proof.Machine
end

