-- ==== Sys2Proof/Machine/StHost.lean ====
section
/-! DEFINITION. State of the functions of the endpoint: mailboxes, registers, MSI-X, and the state of the fault unit. -/

namespace Sys2Proof.Machine

/-- The final response that a command has earned (R206). -/
structure Result where
  status : Nat
  detail : Nat
  payload : List Byte
deriving DecidableEq, Repr

/-- A request that Hazel has consumed and that has no final response yet (R199, R217). -/
structure Consumed where
  /-- Number of the request among all that Hazel consumed: the model's own name for it. -/
  id : Nat
  req : Req
  /-- GEN in force when the request was consumed (R206). -/
  gen : W16
  /-- Timing class: 0 I, 1 S, 2 L (R211). -/
  timing : Nat
  /-- Response slots still reserved for it (R199). -/
  slots : Nat
  started : Bool
  /-- The generic refusal found at consumption, not yet posted (R214, R217). -/
  refusal : Option Result
  /-- A class L command whose work has ended, with its final response due (R211). -/
  result : Option Result
  /-- Set by a mailbox reset, or when its engine work continues past a live update (R229, R234). -/
  orphan : Bool
deriving DecidableEq, Repr

/-- A response entry as Hazel wrote it (R206). -/
structure RspEntry where
  phase : Bool
  accepted : Bool
  cls : Nat
  verb : Nat
  tag : W32
  status : Nat
  detail : Nat
  gen : W16
  payload : List Byte
deriving DecidableEq, Repr

/-- An event as it is raised, before it is written to a ring (R207). -/
structure Event where
  partition : Nat
  code : Nat
  tag : W32
  time : W64
  payload : List Byte
deriving DecidableEq, Repr

/-- An event entry as Hazel wrote it (R207). -/
structure EvtEntry where
  phase : Bool
  deviceWide : Bool
  seq : W32
  gen : W16
  ev : Event
deriving DecidableEq, Repr

/-- One place of the pending queue: an event, or an unbroken run of discarded events (R210). -/
inductive Pend where
  | event (e : Event)
  | lost (n : Nat)
deriving DecidableEq, Repr

/-- One function's mailbox (R191). -/
structure Mailbox where
  enable : Bool
  enabled : Bool
  ringError : Bool
  gen : W16
  badBase : Bool
  indexError : Bool
  dmaError : Bool
  domainOff : Bool
  rspHoldoff : Byte
  evtHoldoff : Byte
  reqBase : W64
  rspBase : W64
  evtBase : W64
  reqPi : W16
  reqCi : W16
  rspPi : W16
  rspCi : W16
  evtPi : W16
  evtCi : W16
  evtLost : Nat
  mask : W16
  /-- SEQ of the next event posted (R912). -/
  seq : W32
  /-- REASON of the next MAILBOX_UP (R208). -/
  upReason : Nat
  /-- Consumed requests without a final response, oldest first. -/
  consumed : List Consumed
  /-- Events waiting for room, oldest first (R210). -/
  pend : List Pend
  /-- The slots of the host's response ring as Hazel last wrote them. -/
  rspRing : Tab RspEntry
  /-- The slots of the host's event ring as Hazel last wrote them. -/
  evtRing : Tab EvtEntry
  /-- A response or event holdoff is running (R201). -/
  rspHold : Bool
  evtHold : Bool
  /-- A mailbox reset is being carried out, and an enable waits behind it (R233). -/
  stopping : Bool
  enablePending : Bool
deriving DecidableEq, Repr

/-- A mailbox after reset (R191). -/
def Mailbox.init : Mailbox :=
  { enable := false, enabled := false, ringError := false, gen := 0, badBase := false, indexError := false
    dmaError := false, domainOff := false, rspHoldoff := 0, evtHoldoff := 0, reqBase := 0, rspBase := 0, evtBase := 0
    reqPi := 0, reqCi := 0, rspPi := 0, rspCi := 0, evtPi := 0, evtCi := 0, evtLost := 0, mask := 0, seq := 0
    upReason := 0, consumed := [], pend := [], rspRing := [], evtRing := [], rspHold := false, evtHold := false
    stopping := false, enablePending := false }

/-- MSI-X of one function (R881). -/
structure Msix where
  enabled : Bool
  functionMask : Bool
  /-- Mask bit of each vector. -/
  masked : W16
  /-- Message address and data words of the table, by dword number 4 × vector + k (R881). -/
  entries : Tab W32
  /-- Pending-bit array. -/
  pendingBits : W16
  /-- How many messages each vector has sent: the model's record of what left on the link. -/
  sent : Tab Nat
deriving DecidableEq, Repr

/-- MSI-X after reset: disabled, every vector masked, as the PCI Express standard resets it. (PRESUMED: log entry 28.) -/
def Msix.init : Msix := { enabled := false, functionMask := false, masked := 0xFFFF, entries := [], pendingBits := 0, sent := [] }

/-- One function of the endpoint beside its mailbox. -/
structure FnRegs where
  /-- Memory Space Enable and Bus Master Enable of the function's Command register. -/
  mse : Bool
  bme : Bool
  intStatus : Byte
  intEnable : Byte
  msix : Msix
  /-- HZ_FAULT_STATUS LAST_CODE and LAST_CLASS, HZ_FAULT_COUNT (R861). -/
  lastCode : W16
  lastClass : Nat
  counts : Tab Nat
  /-- AER status: errors reported and not yet cleared (R855). -/
  aerInternal : Bool
  aerCorrected : Bool
  aerPoisoned : Bool
  aerTimeout : Bool
  /-- ERROR_RECORDED interval running, and what the next event covers: first SEQ, records, highest class (R847). -/
  erHold : Bool
  erFirst : W32
  erCount : Nat
  erClass : Nat
  /-- RL shadows by the offset of the field that returns them, in the function's own BAR0 (R8, R413, R868). -/
  shadows : Tab W32
  /-- FN_PART_TERMINATED as this function has it, by partition (R868). -/
  terminated : Tab Nat
deriving DecidableEq, Repr

/-- A function after reset. (PRESUMED: log entry 28.) -/
def FnRegs.init : FnRegs :=
  { mse := false, bme := false, intStatus := 0, intEnable := 0, msix := Msix.init, lastCode := 0, lastClass := 0
    counts := [], aerInternal := false, aerCorrected := false, aerPoisoned := false, aerTimeout := false
    erHold := false, erFirst := 0, erCount := 0, erClass := 0, shadows := [], terminated := [] }

/-- An error record (R841); its CRC is computed when it is written out. -/
structure Rec where
  code : Nat
  cls : Nat
  source : Nat
  companionTime : Bool
  injected : Bool
  committed : Bool
  seq : W32
  time : W64
  partition : Nat
  region : Nat
  pod : Nat
  cell : Nat
  unit : Nat
  count : Nat
  jobId : W32
  resetCount : W32
  address : W64
  detail : List Byte
deriving DecidableEq, Repr

/-- The fault unit and its logs. -/
structure Faults where
  /-- The ring in the Hazel-reserved HBM unit, oldest first, at most 4,096 records (R843). -/
  ring : List Rec
  nextSeq : W32
  /-- Records waiting to be committed to the companion, head first, at most 16 (R844). -/
  queue : List Rec
  /-- Class-1 codes of which a record has been committed since the last die-level reset (R844). -/
  firsts : List Nat
  /-- Corrected records appended in the current second of device time, and that second (R841). -/
  corrected : Nat
  correctedSecond : Nat
  /-- FAULT.POLICY (R859). -/
  stop : Bool
  resetLimit : Nat
  autoQuarantine : Bool
  ceThreshold : Nat
  /-- Device times of device-fatal warm resets, kept in PD_AUX (R852). -/
  resetTimes : List Nat
  /-- Class-3 faults raised before Hazel firmware started, latched in PD_AUX, oldest first (R851). -/
  latched : List Rec
  stopped : Bool
  fatalReset : Bool
  /-- A device-fatal fault has asked for a warm reset (R851). -/
  fatalPending : Bool
  /-- Device times of the CELL_UNCORRECTED faults of each physical pod (region × 64 + slot), with their counts (R849). -/
  podFaults : Tab (List (Nat × Nat))
deriving DecidableEq, Repr

/-- The fault unit after a power-on reset (R859). -/
def Faults.init : Faults :=
  { ring := [], nextSeq := 0, queue := [], firsts := [], corrected := 0, correctedSecond := 0, stop := false
    resetLimit := 4, autoQuarantine := true, ceThreshold := 64, resetTimes := [], latched := [], stopped := false
    fatalReset := false, fatalPending := false, podFaults := [] }

/-- A Hazel live update (R226–R232). -/
structure Update where
  /-- 0 none, 1 pending (UPDATE_PENDING raised), 2 switch under way, 3 companion part under way. -/
  phase : Nat
  fn : Nat
  cmdId : Nat
  oldVersion : W32
  newVersion : W32
  /-- DIGEST of the companion section to write after the switch, if it is wanted and differs; and whether it was found the same. -/
  companion : Option (List Byte)
  companionSame : Bool
  /-- Values that the registers filled by Hazel hold during the switch (R869), by function × 2^24 + offset. -/
  held : Tab W32
deriving DecidableEq, Repr

/-- No update in progress. -/
def Update.init : Update :=
  { phase := 0, fn := 0, cmdId := 0, oldVersion := 0, newVersion := 0, companion := none
    companionSame := false, held := [] }

/-- The endpoint's functions, Hazel's service of their mailboxes, and the register interface. -/
structure HostIf where
  mb : Tab Mailbox
  fn : Tab FnRegs
  upd : Update
  /-- The ring that the rotation of R219 serves, and how many requests it has consumed from it. -/
  turn : Nat
  turnCount : Nat
  /-- Number of the next consumed request. -/
  nextId : Nat
  /-- Data of the last register read completed: what the link carried back. -/
  readData : W64
deriving DecidableEq, Repr

def HostIf.init : HostIf :=
  { mb := [], fn := [], upd := Update.init, turn := 0, turnCount := 0, nextId := 0, readData := 0 }

end Sys2Proof.Machine
end

