-- ==== Sys2Proof/Machine/StHub.lean ====
section
/-! DEFINITION. State of the PCIe hub: downstream ports, captive drives and their commands, namespace ownership. -/

namespace Sys2Proof.Machine

/-- Drive states, in the order of their codes (R643). -/
inductive DriveState where
  | absent
  | off
  | powering
  | initialising
  | ready
  | suspending
  | suspended
  | waking
  | resetting
  | failed
  | unsuitable
  | removed
  | hostOwned
deriving DecidableEq, Repr

/-- What an NVMe command of the drive engine is for. Volumes are numbered as in the Husk engine's state. -/
inductive NvmeUse where
  /-- HUB.NVME_ADMIN: the mailbox command that waits, and its host buffer. -/
  | admin (fn id host : Nat)
  /-- Step of the drive's initialisation (R632). -/
  | setup (step : Nat)
  /-- Get Log Page on an asynchronous event; Abort (R634). -/
  | log
  | abort
  /-- A superblock copy, a segment header, an extent header. -/
  | superblock (volume member : Nat)
  | segment (volume member : Nat)
  | extent (volume member : Nat)
  /-- A data or parity record, or an index record, of the epoch being written: its kind and SEQ. -/
  | record (volume member kind seq : Nat)
  /-- The member's Flush; the parts of its COMMIT copy; the SYSTEM record of an epoch. -/
  | flush (volume member : Nat)
  | commit (volume member : Nat)
  | system (volume epoch : Nat)
  /-- A record read by reader `reader`: the plan position, and the record's place in its row. -/
  | read (reader pos place : Nat)
  /-- A record that a compaction reads, with its place in the extent; what a compaction writes; its Flush. -/
  | moveRead (member place : Nat)
  | moveWrite (member : Nat)
  /-- A superblock that a format writes. -/
  | format (member : Nat)
  /-- A write of function fn's trace session, or its Flush. -/
  | trace (fn : Nat)
deriving DecidableEq, Repr

/-- A command queued for or outstanding at a drive (R634). -/
structure NvmeCmd where
  cid : Nat
  qid : Nat
  opcode : Nat
  nsid : Nat
  /-- First byte on the namespace, and length in bytes. -/
  offset : Nat
  length : Nat
  /-- Its data buffer in HBM. -/
  buffer : Nat
  fua : Bool
  use : NvmeUse
  /-- Who it works for at the drive engine: partition 0–15, or 16 for DEVICE (R440). -/
  member : Nat
  jobId : W32
  /-- The submission entry of an admin command that the model does not build itself. -/
  entry : List Byte
deriving DecidableEq, Repr

/-- A captive drive and its recovery (R627–R643). -/
structure Drive where
  state : DriveState
  serial : List Byte
  l1ss : Bool
  nss : List Namespace
  resets : W32
  /-- Recovery step of R639 under way, 0 for none; the command it began with, as identifier + 65536 × QID; device times of step 2. -/
  step : Nat
  victim : Nat
  step2 : List Nat
  queued : List NvmeCmd
  sent : List NvmeCmd
  nextCid : Nat
  bytes : W64
  /-- CC.EN is set and CSTS.RDY awaited; four Asynchronous Event Requests are outstanding (R634). -/
  enabling : Bool
  aer : Bool
  /-- What the drive becomes when its slot is off: OFF by command, and not SUSPENDED (R652). -/
  offAfter : Bool
  /-- Cause of the power-on or reset under way, as DRIVE_STATE_CHANGE gives it (R658). -/
  cause : Nat
deriving DecidableEq, Repr

def Drive.init : Drive :=
  { state := .absent, serial := [], l1ss := false, nss := [], resets := 0, step := 0, victim := 0, step2 := []
    queued := [], sent := [], nextCid := 0, bytes := 0, enabling := false, aer := false, offAfter := false, cause := 0 }

/-- One downstream port (R604–R625, R657), with what the host can change of its virtual downstream port. -/
structure DPort where
  passthrough : Bool
  autoPower : Bool
  l12Enable : Bool
  suspendS : Nat
  present : Bool
  refclk : Bool
  perst : Bool
  linkUp : Bool
  speed : Nat
  width : Nat
  flit : Bool
  l12 : Bool
  dpc : Bool
  fence : FenceState
  /-- Virtual downstream port: Memory Space Enable, Bus Master Enable, Power Controller Control, Command Completed, Power Fault
  Detected, Presence Detect Changed, Data Link Layer State Changed, indicator controls. -/
  mse : Bool
  bme : Bool
  powerOff : Bool
  commandDone : Bool
  powerFault : Bool
  presenceChanged : Bool
  dllChanged : Bool
  powerInd : Nat
  attnInd : Nat
  /-- A power sequence of R617 waits for ON, or of R618 for OFF. -/
  rising : Bool
  falling : Bool
  /-- A HUB.SLOT_POWER that waits while the port's fence drains (R618). -/
  offJob : Option (Nat × Nat)
  drive : Drive
deriving DecidableEq, Repr

/-- A port after a power-on reset (R607). -/
def DPort.init : DPort :=
  { passthrough := false, autoPower := true, l12Enable := true, suspendS := 600, present := false, refclk := false
    perst := true, linkUp := false, speed := 0, width := 0, flit := false, l12 := false, dpc := false, fence := .open
    mse := false, bme := false, powerOff := true, commandDone := false, powerFault := false, presenceChanged := false
    dllChanged := false, powerInd := 3, attnInd := 3, rising := false, falling := false, offJob := none, drive := Drive.init }

/-- An ownership record of a namespace (R644): the drive's serial number and the NSID are its key. -/
structure NsRecord where
  serial : List Byte
  nsid : Nat
  owner : Nat
  clean : Bool
deriving DecidableEq, Repr

/-- The hub. -/
structure Hub where
  dp : Tab DPort
  records : List NsRecord
  /-- Packets held whole at each ingress, oldest first, each with its egress: 0–7 downstream ports, 8 the upstream port (R614); the last one
  forwarded, with both. -/
  held : Tab (List (Nat × Tlp))
  forwarded : Option (Nat × Nat × Tlp)
  /-- Outcome of the last memory request of a drive: data returned, or refused. -/
  answer : Option (List Byte × Bool)
  /-- SR-IOV of PF0: VF Enable, NumVFs, ARI Capable Hierarchy; ARI Forwarding Enable of the internal bridge. -/
  vfEnable : Bool
  numVfs : Nat
  ari : Bool
deriving DecidableEq, Repr

def Hub.init : Hub :=
  { dp := [], records := [], held := [], forwarded := none, answer := none, vfEnable := false, numVfs := 0, ari := false }

end Sys2Proof.Machine
end

