-- ==== Sys2Proof/Machine/StLink.lean ====
section
/-! DEFINITION. State of the Eberanath link: ports, routes, peers, time, barriers, transfers and collectives. -/

namespace Sys2Proof.Machine

/-- Port states, in the order of their codes (R594). -/
inductive PortState where
  | off
  | training
  | up
  | down
  | disabled
deriving DecidableEq, Repr

/-- Payload of a flit that waits to be sent: first and last flit of a BULK transaction, and the bytes. -/
structure OutFlit where
  sot : Bool
  eot : Bool
  control : Bool
  payload : List Byte
deriving DecidableEq, Repr

/-- A MSG record that waits in a port's transmit queue (R480), with the partition that its bytes count against. -/
structure OutMsg where
  part : Nat
  bytes : List Byte
deriving DecidableEq, Repr

/-- One port of the link. -/
structure Port where
  state : PortState
  /-- Lanes in use in each direction, lanes this end receives well, and lanes it asks the peer to use. -/
  txLanes : Byte
  rxLanes : Byte
  rxOk : Byte
  rxReq : Byte
  /-- Lanes that the peer asked for, and the set announced for the next superframe (R577). -/
  peerReq : Byte
  announced : Option Byte
  /-- Lanes out of use after 8 failed attempts, failed attempts by lane (R579), lanes retrained and waiting for an epoch. -/
  disabledLanes : Byte
  attempts : Tab Nat
  epoch : W16
  neighbour : Option Nat
  neighbourPort : Nat
  miswired : Bool
  /-- The last 64 round-trip measurements, newest first (R550). -/
  rtts : List Nat
  echoTime : W64
  echoArrival : W64
  /-- Next SEQ sent and next SEQ expected, last accepted, NAK asked for (R553, R554). -/
  txSeq : Nat
  rxSeq : Nat
  acked : Option Nat
  nak : Bool
  /-- The 64-flit replay buffer, oldest first; replays in a row without a new flit accepted. -/
  replay : List Flit
  streak : Nat
  /-- Credits held and credits owed by VC × 2 + class (R558). -/
  credits : Tab Nat
  owed : Tab Nat
  /-- Flits waiting, by VC × 2 + class (R559). -/
  queue : Tab (List OutFlit)
  /-- MSG records withheld by the cap, at most 256 (R480). -/
  msgQueue : List OutMsg
  /-- The flit sent last, and whether its CRC was corrupted by FAULT.INJECT. -/
  lastTx : Option Flit
  lastBad : Bool
  replays : W32
  corrected : W64
  uncorrectable : W64
  resets : W32
  ttlDrops : W32
  degrades : W32
  fence : FenceState
  /-- MSG bytes allowed under the cap of R479. -/
  msgBucket : Nat
  /-- The next DATA flit's CRC is to be corrupted (R860). -/
  corruptNext : Bool
deriving DecidableEq, Repr

def Port.init : Port :=
  { state := .off, txLanes := 0, rxLanes := 0, rxOk := 0, rxReq := 0, peerReq := 0, announced := none
    disabledLanes := 0, attempts := [], epoch := 0, neighbour := none, neighbourPort := 0, miswired := false, rtts := []
    echoTime := 0, echoArrival := 0, txSeq := 0, rxSeq := 0, acked := none, nak := false, replay := [], streak := 0
    credits := [], owed := [], queue := [], msgQueue := [], lastTx := none, lastBad := false, replays := 0, corrected := 0, uncorrectable := 0
    resets := 0, ttlDrops := 0, degrades := 0, fence := .open, msgBucket := 0, corruptNext := false }

/-- Who issued a BULK transfer (R564). -/
inductive XferUse where
  /-- Mover job. -/
  | mover (job : Nat)
  /-- Embedding job, or 0 for a bundle that no job waits for; and the table. -/
  | emb (job table : Nat)
  /-- Collective of a partition with a KEY. -/
  | collective (part : Nat) (key : W32)
  /-- Record `seq` of the epoch streamed to the buddy (volume 0), or of a fetch served from guest volume `volume`. -/
  | buddy (volume seq : Nat)
deriving DecidableEq, Repr

/-- A BULK transfer sent and not yet completed (R563, R564). -/
structure Xfer where
  id : Nat
  use : XferUse
  dst : Nat
  dstPart : Nat
  part : Nat
  length : Nat
deriving DecidableEq, Repr

/-- An ARRIVE that the root holds (R585). -/
structure Arrival where
  src : Nat
  srcPart : Nat
  members : BitVec 128
  v0 : W32
  v1 : W32
deriving DecidableEq, Repr

/-- A barrier open at its root. -/
structure Barrier where
  id : W64
  arrivals : List Arrival
deriving DecidableEq, Repr

/-- An ENGINE transfer of a collective that awaits its reduction (R588): step, first byte in BUF, and what its COMPLETE names. -/
structure CollIn where
  step : Nat
  off : Nat
  data : List Byte
  /-- Poisoned content words. -/
  poison : List Nat
  src : Nat
  srcPart : Nat
  xfer : Nat
deriving DecidableEq, Repr

/-- A collective in progress (R587–R593). -/
structure Coll where
  part : Nat
  fn : Nat
  cmdId : Nat
  jobId : W32
  op : Nat
  halving : Bool
  dtype : Nat
  reduce : Nat
  n : Nat
  rank : Nat
  sat : Bool
  key : W32
  count : Nat
  buf : Nat
  scratch : Nat
  members : List (Nat × Nat)
  /-- The barrier has released; the step that runs. -/
  started : Bool
  step : Nat
  bytesSent : Nat
  /-- Bytes of the step's send range taken so far; those of the transfer being gathered, with its poisoned content words. -/
  sendPos : Nat
  sendBuf : List Byte
  sendPoison : List Nat
  /-- Transfers of the step sent and not completed. -/
  xfers : List Nat
  /-- Bytes received and in their place, by step; transfers to be reduced, oldest first; bytes of the oldest one reduced. -/
  received : Tab Nat
  arrivals : List CollIn
  reduced : Nat
deriving DecidableEq, Repr

/-- The link. -/
structure Link where
  linkId : Option Nat
  attrs : Tab W32
  routes : Tab W32
  /-- Peer tables: by partition, the mask of admitted partitions by link-ID (R574). -/
  peers : Tab (Tab W16)
  ports : Tab Port
  /-- Adopted master, hops from it, port of its records; TIME records last heard, by port (R582). -/
  master : Option Nat
  hops : Nat
  masterPort : Option Nat
  heard : Tab TimeRec
  /-- Device time leads the reference and advances at half rate (R583). -/
  half : Bool
  /-- What device time is still to advance at half rate, in ns. -/
  lead : Nat
  barriers : List Barrier
  /-- RELEASEs of barriers whose root is this device, for its own members. -/
  releases : List SyncRec
  xfers : List Xfer
  nextXfer : Nat
  mgmtSeq : W32
  colls : List Coll
  /-- DONE has passed: ports may train (R172, R594). -/
  started : Bool
  idle : Bool
  /-- LINK.TRAIN in progress: its command and the ports that it named. -/
  trainJob : Option (Nat × Nat × Nat)
deriving DecidableEq, Repr

def Link.init : Link :=
  { linkId := none, attrs := [], routes := [], peers := [], ports := [], master := none, hops := 0, masterPort := none
    heard := [], half := false, lead := 0, barriers := [], releases := [], xfers := [], nextXfer := 0, mgmtSeq := 0, colls := []
    started := false, idle := false, trainJob := none }

end Sys2Proof.Machine
end

