-- ==== Sys2Proof/Machine/StPower.lean ====
section
/-! DEFINITION. State of the power controller: power state, ceilings, rack budget, energy; and of the trace unit. -/

namespace Sys2Proof.Machine

/-- Power states, in the order of their codes (R754). -/
inductive PowerState where
  | run
  | idle
  | sleep
  | deep
  | off
deriving DecidableEq, Repr

/-- A rack budget with its stamp (R784). -/
structure Budget where
  value : Nat
  stamp : Nat
  link : Nat
deriving DecidableEq, Repr

/-- A module heard, and when (R789). -/
structure Heard where
  at_ : W64
  demand : Demand
deriving DecidableEq, Repr

/-- A POWER.STATE that waits for its drives to shut down (R758): its command, its target, and the state before it. -/
structure Entering where
  fn : Nat
  id : Nat
  target : PowerState
  old : PowerState
  /-- Captive drives that it shuts down. -/
  drives : Nat
deriving DecidableEq, Repr

/-- A POWER.REGION_GATE that waits for the drains of its partitions (R773): its command, and the unassigned regions that it covers. -/
structure GateJob where
  fn : Nat
  id : Nat
  regions : List Nat
  parts : List Nat
deriving DecidableEq, Repr

/-- The power controller. -/
structure Power where
  state : PowerState
  entering : Option Entering
  gateJob : Option GateJob
  /-- After the final response: DEEP waits for PME_Turn_Off; OFF waits for the rails to go. -/
  deepWait : Bool
  offWait : Bool
  deepAbandoned : Bool
  wakeAfter : Nat
  /-- The die drives WAKE# low (R765). -/
  wakeLow : Bool
  /-- A wake source arrived during the entry to SLEEP (R807). -/
  wakePending : Option Nat
  held : List BarReq
  gated : List Nat
  /-- Index of a ceiling in the list of dividers ÷4, ÷5, ÷6, ÷8, ÷12 (R775). -/
  budgetFit : Nat
  dieCeiling : Nat
  hbmCeiling : Nat
  /-- Readings since a thermal ceiling last moved, and readings in a row that rose at ÷12 (R782, R783). -/
  dieLift : Nat
  hbmLift : Nat
  dieRise : Nat
  hbmRise : Nat
  dieLast : Int
  hbmLast : Int
  fastcapDiv : Nat
  maxDiv : Nat
  droopHold : Option Nat
  localCap : Nat
  eligible : Bool
  domain : Nat
  expected : Nat
  budget : Budget
  heard : Tab Heard
  steward : Option Nat
  grant : Nat
  raise : Option (Nat × Nat)
  floorMode : Bool
  round : W32
  /-- Cap that the last CAP_CHANGE reported. -/
  capTold : Nat
  demandW : Nat
  powerW : Nat
  timers : Tab W64
  /-- When FCLK last rose, and the setpoint that a rise waits for. -/
  lastRise : W64
  dieTemp : Int
  hbmTemp : Int
  module : W64
  device : W64
  parts : Tab W64
  engines : Tab W64
  /-- By partition × 8 + engine. -/
  partEngines : Tab W64
  /-- Job tables by partition: JOB_ID and µJ, in the order in which they entered (R802). -/
  jobs : Tab (List (W32 × W64))
  overflow : Tab W64
  /-- CP_EIN_A + CP_EIN_B at the last update. -/
  lastEin : W64
deriving DecidableEq, Repr

/-- The power controller after a power-on reset (R795–R797, R799). (DESIGN CHOICE: log entry 3.) -/
def Power.init : Power :=
  { state := .run, entering := none, gateJob := none, deepWait := false, offWait := false, deepAbandoned := false
    wakeAfter := 0, wakeLow := false, wakePending := none, held := [], gated := [], budgetFit := 0, dieCeiling := 0
    hbmCeiling := 0, dieLift := 0, hbmLift := 0, dieRise := 0, hbmRise := 0, dieLast := 0, hbmLast := 0
    fastcapDiv := 6, maxDiv := 4, droopHold := none, localCap := 1600, eligible := true
    domain := 0, expected := 0, budget := ⟨0, 0, 0⟩, heard := [], steward := none, grant := 800, raise := none
    floorMode := true, round := 0, capTold := 800, demandW := 0, powerW := 0
    timers := [], lastRise := 0, dieTemp := 0, hbmTemp := 0, module := 0, device := 0, parts := []
    engines := [], partEngines := [], jobs := [], overflow := [], lastEin := 0 }

/-- Trace session states, in the order of their codes (R835). -/
inductive TraceState where
  | unconfigured
  | configured
  | running
  | full
  | sinkLost
deriving DecidableEq, Repr

/-- One function's trace session (R808–R835). -/
structure Session where
  state : TraceState
  /-- 0 UNITS, 1 WINDOW, 2 DRIVE. -/
  sink : Nat
  stop : Bool
  sources : Nat
  interval : Nat
  mask : Nat
  firstUnit : Nat
  units : Nat
  base : Nat
  size : Nat
  port : Nat
  nsid : Nat
  part : Nat
  id : W32
  block : W32
  /-- Stream bytes generated (buffered ones among them), and bytes written to the sink. -/
  made : Nat
  written : W64
  lost : W64
  overflowed : Bool
  wrapped : Bool
  /-- Capture buffer: bytes on their way to the sink. -/
  buffer : List Byte
  /-- Packets are dropped until 4 KiB frees: lc of the first and the last one dropped (R819). -/
  dropping : Option (Nat × Nat)
  /-- Withheld span: first lc, last lc, REASON, PARTITION (R829). -/
  gap : Option (Nat × Nat × Nat × Nat)
  /-- Current context, and lc position of the last packet. -/
  context : Nat
  lastLc : Nat
  /-- Branch outcomes held by partition, oldest first, with the lc of the oldest and of the last (R828). -/
  branches : Tab (List Bool × Nat × Nat)
  /-- Bytes of a DRIVE sink staged and not yet issued as 64 KiB writes. -/
  staged : List Byte
  /-- TRACE.STOP waits: its command, and whether it releases. -/
  stopping : Option (Nat × Nat × Bool)
deriving DecidableEq, Repr

def Session.init : Session :=
  { state := .unconfigured, sink := 0, stop := false, sources := 0, interval := 4096, mask := 0, firstUnit := 0, units := 0
    base := 0, size := 0, port := 0, nsid := 0, part := 255, id := 0, block := 0, made := 0, written := 0, lost := 0
    overflowed := false, wrapped := false, buffer := [], dropping := none, gap := none, context := 255, lastLc := 0
    branches := [], staged := [], stopping := none }

/-- Unit `u` belongs to the session's UNITS sink. -/
def Session.holds (x : Session) (u : Nat) : Bool :=
  x.sink = 0 && x.state ≠ .unconfigured && x.firstUnit ≤ u && u < x.firstUnit + x.units

/-- A trace grant (R815). -/
structure TraceGrant where
  requester : Nat
  scope : Nat
  sources : Nat
  expiry : W64
deriving DecidableEq, Repr

/-- The trace unit. -/
structure Trace where
  sessions : Tab Session
  grants : Tab TraceGrant
  nextSession : W32
  /-- LCLK cycles counted: the position of a packet (R825). -/
  lc : Nat
deriving DecidableEq, Repr

def Trace.init : Trace := { sessions := [], grants := [], nextSession := 0, lc := 0 }

end Sys2Proof.Machine
end

