-- ==== Sys2Proof/Machine/State.lean ====
section
/-! DEFINITION. The state of the module, and the state after reset. -/

namespace Sys2Proof.Machine

/-- Why a step stops: the machine has no way on that the manual gives. -/
inductive Fault where
  /-- A vector or matrix command whose fields the manual calls invalid (R295, R311): no image that holds it is ever loaded.
  Raised by the meanings of the vector operations. Safe: the machine stops where the manual gives no effect. -/
  | invalidEncoding
deriving DecidableEq, Repr

/-- Why a command has no meaning here. -/
inductive Refusal where
  /-- The command's meaning has not been written. Raised by exec's own arms only. Safe: nothing happens. -/
  | notModelled (mnemonic : String)
deriving DecidableEq, Repr

/-- The module. (DESIGN CHOICE: log entry 66.) -/
structure State where
  /-- Commands waiting, first in, first out. -/
  pending : List Instr
  /-- How many open values have been taken: the model's own counter. -/
  free : Nat
  /-- Device time in ns (R580), and root cycles not yet made into ns. -/
  time : W64
  rootPhase : Nat
  host : HostIf
  faults : Faults
  comp : Companion
  jtag : Jtag
  clk : Clocks
  rst : Resets
  boot : Boot
  fab : Fabric
  part : Tab Part
  chans : Channels
  hbm : Hbm
  eng : Engines
  link : Link
  hub : Hub
  husk : Husk
  pow : Power
  trace : Trace
  /-- Writes to host memory of the last command that made any: bus address, bytes and poison, as the model records them. -/
  hostOut : List (Nat × List Byte × Bool)
deriving DecidableEq, Repr

/-- The fabric before a map has been loaded; bank 0 of the map store is as delivered (R143). (DESIGN CHOICE: log entry 2.) -/
def Fabric.init : Fabric :=
  { regions := [], banks := [(0, factoryBank)], pods := [], sprouts := [], cells := [], cellPoison := [], cellEcc := [], writeBack := [] }

/-- The module at the moment 3V3AUX becomes valid: the companion has not started, no feed is on, the die is unpowered. (DESIGN CHOICE: log entries 1, 2.) -/
def State.reset : State :=
  { pending := [], free := 0, time := 0, rootPhase := 0, host := HostIf.init, faults := Faults.init, comp := Companion.init
    jtag := Jtag.init, clk := Clocks.init, rst := Resets.init, boot := Boot.init, fab := Fabric.init, part := []
    chans := Channels.init, hbm := Hbm.init
    eng := Engines.init, link := Link.init, hub := Hub.init, husk := Husk.init, pow := Power.init, trace := Trace.init
    hostOut := [] }

end Sys2Proof.Machine
end

