-- ==== Sys2Proof/Machine/Ops.lean ====
section
/-! DEFINITION. Named reads and writes of the parts of the state, and the raising of interrupts. -/

namespace Sys2Proof.Machine

/-- What a step answers. -/
abbrev Out := Host.Outcome State Fault Refusal

/-- Function `fn`'s mailbox. -/
def State.mb (s : State) (fn : Nat) : Mailbox := tget Mailbox.init s.host.mb fn
/-- Function `fn`'s registers. -/
def State.fn (s : State) (fn : Nat) : FnRegs := tget FnRegs.init s.host.fn fn
/-- Partition `p`. -/
def State.pt (s : State) (p : Nat) : Part := tget Part.init s.part p
/-- Logical pod `k`. -/
def State.pod (s : State) (k : Nat) : Pod := tget Pod.init s.fab.pods k
/-- Region `rg`'s Sprout core. -/
def State.sprout (s : State) (rg : Nat) : Sprout := tget Sprout.init s.fab.sprouts rg
/-- Feed `f`: 0 is A, 1 is B. -/
def State.feed (s : State) (f : Nat) : Feed := tget Feed.init s.comp.feeds f

def State.setMb (s : State) (fn : Nat) (m : Mailbox) : State :=
  { s with host := { s.host with mb := tset s.host.mb fn m } }
def State.setFn (s : State) (fn : Nat) (r : FnRegs) : State :=
  { s with host := { s.host with fn := tset s.host.fn fn r } }
def State.setPt (s : State) (p : Nat) (x : Part) : State := { s with part := tset s.part p x }
def State.setPod (s : State) (k : Nat) (x : Pod) : State := { s with fab := { s.fab with pods := tset s.fab.pods k x } }
def State.setSprout (s : State) (rg : Nat) (x : Sprout) : State :=
  { s with fab := { s.fab with sprouts := tset s.fab.sprouts rg x } }
def State.setFeed (s : State) (f : Nat) (x : Feed) : State :=
  { s with comp := { s.comp with feeds := tset s.comp.feeds f x } }

/-- The open value that comes next, as a number below `n`; the counter moves on. (DESIGN CHOICE: log entry 8.) -/
def State.takeFree (s : State) (n : Nat) : Nat × State := (Config.freeValue s.free % n, { s with free := s.free + 1 })

/-- An MSI-X message of vector `v`: sent, or kept pending while the vector or the function is masked (R881). -/
def Msix.raise (m : Msix) (v : Nat) : Msix :=
  if !m.enabled then m
  else if m.functionMask || m.masked.getLsbD v then { m with pendingBits := m.pendingBits ||| (1#16 <<< v) }
  else { m with sent := tset m.sent v (tget 0 m.sent v + 1) }

/-- Raises vector `v` of function `fn`. -/
def raiseVec (s : State) (fn v : Nat) : State :=
  s.setFn fn { s.fn fn with msix := (s.fn fn).msix.raise v }

/-- A condition of HZ_INT_STATUS bit `b` occurs at function `fn` (R873, R874). Bits 6 and 7 exist in PF0 only. -/
def setInt (s : State) (fn b : Nat) : State :=
  if (fn ≠ 0 ∧ 6 ≤ b) ∨ (s.fn fn).intStatus.getLsbD b then s
  else
    let s1 := s.setFn fn { s.fn fn with intStatus := (s.fn fn).intStatus ||| (1#8 <<< b) }
    if (s.fn fn).intEnable.getLsbD b then raiseVec s1 fn (b + 4) else s1

/-- A condition of HZ_INT_STATUS bit `b` occurs at every function. -/
def setIntAll (s : State) (b : Nat) : State := (List.range 17).foldl (fun s fn => setInt s fn b) s

/-- Applies `f` to the functions listed, one after another. -/
def forFns (s : State) (fns : List Nat) (f : State → Nat → State) : State := fns.foldl f s

/-- Hazel serves mailboxes: HZ_MB_STATUS.READY (R191): its start-up has set the endpoint ready (R160, R165), and it is not halted in a
sleep state (R758). -/
def State.ready (s : State) : Bool :=
  ((s.boot.hazel = .running && s.rst.epReady) || s.boot.hazel = .recovery) && (s.pow.state = .run || s.pow.state = .idle) && !s.pow.offWait

/-- Hazel consumes and starts requests: it serves mailboxes and no live-update switch is under way (R230). -/
def State.serving (s : State) : Bool := s.ready && s.host.upd.phase ≠ 2

/-- HZ_MB_STATUS of function `fn` (R191). -/
def mbStatus (s : State) (fn : Nat) : W32 :=
  let m := s.mb fn
  BitVec.ofNat 32 (b2n s.ready + 2 * b2n m.enabled + 4 * b2n (s.host.upd.phase = 2) + 8 * b2n (s.boot.hazel = .recovery)
    + 16 * b2n (s.boot.hazel = .halted) + 32 * b2n m.ringError + 65536 * m.gen.toNat)

/-- HZ_FN_ERROR of function `fn` (R191). -/
def fnError (s : State) (fn : Nat) : W32 :=
  let m := s.mb fn
  BitVec.ofNat 32 (b2n m.badBase + 2 * b2n m.indexError + 4 * b2n m.dmaError + 8 * b2n m.domainOff)

/-- Raises vector 2 of function `fn` when a bit of HZ_FN_ERROR rose or HZ_MB_STATUS changed between `s0` and `s` (R192). -/
def noteStatus (s0 s : State) (fn : Nat) : State :=
  if mbStatus s fn ≠ mbStatus s0 fn ∨ (fnError s fn &&& ~~~ fnError s0 fn) ≠ 0 then raiseVec s fn 2 else s

/-- Replaces function `fn`'s mailbox and raises vector 2 where R192 asks for it. -/
def updMb (s : State) (fn : Nat) (m : Mailbox) : State := noteStatus s (s.setMb fn m) fn

/-- Raises vector 2 of every function whose HZ_MB_STATUS changed between `s0` and `s`. -/
def noteStatusAll (s0 s : State) : State := (List.range 17).foldl (fun t fn => noteStatus s0 t fn) s

/-- Regions of a `w` × `h` rectangle with origin `o`, in row-major order (R416). -/
def rectRegions (o w h : Nat) : List Nat :=
  (List.range h).flatMap (fun i => (List.range w).map (fun j => o + 4 * i + j))

/-- Regions that partition `x` holds. -/
def Part.regions (x : Part) : List Nat := rectRegions x.origin x.w x.h

/-- Region of a logical pod (R28). -/
def regionOfPod (k : Nat) : Nat := k / 32 / 5 * 4 + k % 32 / 8

/-- The partition that carries region `rg`. -/
def State.regionPart (s : State) (rg : Nat) : Option Nat :=
  (List.range 16).find? (fun p => (s.pt p).state ≠ .free && (s.pt p).regions.contains rg)

/-- The region whose Sprout core leads partition `x` (R354): the lowest-numbered. -/
def Part.leader (x : Part) : Nat := x.origin

end Sys2Proof.Machine
end

