-- ==== Sys2Proof/Machine/CommandIndex.lean ====
section
/-! DEFINITION. The command index (R221), with the payload size that each command's chapter defines (R204). -/

namespace Sys2Proof.Machine

/-- One row of the command index. -/
structure CmdRow where
  cls : Nat
  verb : Nat
  /-- 0 I, 1 S, 2 L. -/
  timing : Nat
  /-- Only PF0 may issue it. -/
  pf0 : Bool
  /-- It acts on one partition, which PF0 must name. -/
  part : Bool
  size : Nat

/-- The command index of R221. -/
def cmdIndex : List CmdRow :=
  [⟨1, 1, 0, false, false, 0⟩, ⟨1, 2, 0, true, false, 4⟩, ⟨1, 3, 2, true, false, 24⟩, ⟨1, 4, 0, false, false, 2⟩,
   ⟨1, 5, 0, false, false, 48⟩, ⟨2, 1, 2, false, true, 24⟩, ⟨2, 2, 1, false, true, 2⟩, ⟨2, 3, 0, false, true, 2⟩] ++
  [⟨3, 1, 1, true, false, 4⟩, ⟨3, 2, 1, true, true, 1⟩, ⟨3, 3, 0, true, true, 1⟩, ⟨3, 4, 0, false, true, 0⟩,
   ⟨3, 5, 2, false, true, 3⟩, ⟨3, 6, 0, false, true, 1⟩, ⟨3, 7, 0, false, true, 0⟩, ⟨3, 8, 1, false, true, 0⟩,
   ⟨3, 9, 2, false, true, 9⟩, ⟨3, 10, 2, false, true, 1⟩, ⟨3, 11, 1, false, true, 0⟩, ⟨3, 12, 1, true, true, 8⟩,
   ⟨3, 13, 0, true, false, 104⟩] ++
  [⟨4, 1, 0, false, false, 1⟩, ⟨4, 2, 2, true, false, 12⟩, ⟨4, 3, 1, true, false, 3⟩, ⟨4, 4, 2, true, false, 2⟩,
   ⟨5, 1, 0, false, false, 24⟩, ⟨5, 2, 0, false, false, 1⟩, ⟨5, 3, 0, false, false, 1⟩] ++
  [⟨6, 1, 0, true, true, 4⟩, ⟨6, 2, 1, true, true, 1⟩, ⟨6, 3, 2, false, false, 80⟩, ⟨6, 4, 2, false, false, 24⟩,
   ⟨6, 5, 0, false, false, 2⟩, ⟨7, 1, 1, false, true, 80⟩, ⟨7, 2, 1, false, true, 1⟩, ⟨7, 3, 0, false, true, 2⟩,
   ⟨7, 4, 2, false, true, 20⟩, ⟨7, 5, 1, false, true, 16⟩] ++
  [⟨8, 1, 0, false, false, 1⟩, ⟨8, 2, 2, true, false, 3⟩, ⟨8, 3, 1, true, false, 2⟩, ⟨8, 4, 1, true, false, 16⟩,
   ⟨8, 5, 2, false, true, 48⟩, ⟨9, 1, 0, false, false, 8⟩, ⟨9, 2, 1, true, false, 8⟩, ⟨9, 3, 1, true, false, 8⟩,
   ⟨9, 4, 1, true, false, 8⟩, ⟨9, 5, 2, true, false, 96⟩] ++
  [⟨10, 1, 1, true, false, 16⟩, ⟨10, 2, 2, false, false, 32⟩, ⟨10, 3, 0, false, false, 0⟩, ⟨10, 4, 2, true, false, 61⟩,
   ⟨10, 5, 2, false, false, 32⟩, ⟨10, 6, 2, true, false, 20⟩, ⟨11, 1, 0, false, false, 0⟩, ⟨11, 2, 2, true, false, 8⟩,
   ⟨11, 3, 0, true, false, 3⟩, ⟨11, 4, 0, true, false, 10⟩, ⟨11, 5, 1, true, false, 8⟩, ⟨11, 6, 0, false, false, 16⟩] ++
  [⟨12, 1, 0, false, false, 40⟩, ⟨12, 2, 0, false, false, 0⟩, ⟨12, 3, 1, false, false, 1⟩, ⟨12, 4, 0, true, false, 12⟩,
   ⟨12, 5, 0, true, false, 1⟩, ⟨13, 1, 2, true, false, 12⟩, ⟨13, 2, 2, true, false, 24⟩, ⟨13, 3, 2, true, false, 24⟩,
   ⟨13, 4, 2, true, false, 24⟩, ⟨13, 5, 0, true, false, 4⟩, ⟨13, 6, 0, true, false, 0⟩, ⟨14, 1, 1, false, false, 24⟩,
   ⟨14, 2, 0, false, false, 0⟩, ⟨14, 3, 0, true, false, 6⟩, ⟨14, 4, 0, true, false, 16⟩]

/-- The row of a class and verb. -/
def cmdRow (cls verb : Nat) : Option CmdRow := cmdIndex.find? (fun r => r.cls = cls && r.verb = verb)

/-- The class is known. -/
def classKnown (cls : Nat) : Bool := 1 ≤ cls && cls ≤ 14

end Sys2Proof.Machine
end

