-- ==== Sys2Proof/Machine/Mailbox.lean ====
section
/-! DEFINITION. The mailbox transport: rings, events, responses, the start and the end of commands. -/

namespace Sys2Proof.Machine

/-- Hazel may read and write function `fn`'s rings now (R195). -/
def ringUsable (s : State) (fn : Nat) : Bool :=
  let m := s.mb fn
  m.enabled && !m.ringError && !m.stopping && (s.fn fn).bme

/-- A ring access of function `fn` fails: DMA_ERROR and RING_ERROR, and the rings are no longer used (R195). -/
def ringFail (s : State) (fn : Nat) : State :=
  updMb s fn { s.mb fn with dmaError := true, ringError := true }

/-- An entry written at producer index `i` of a ring of `n` entries carries this PHASE (R200). -/
def phaseOf (i : W16) (n : Nat) : Bool := (i.toNat / n + 1) % 2 == 1

/-- The interrupt of a posted response (evt = false) or event (evt = true): at once, or when the holdoff ends (R201). -/
def postIrq (s : State) (fn : Nat) (evt : Bool) : State :=
  let m := s.mb fn
  if (if evt then m.evtHold else m.rspHold) then s
  else
    let s1 := raiseVec s fn (b2n evt)
    if evt then s1.setMb fn { s1.mb fn with evtHold := m.evtHoldoff ≠ 0 }
    else s1.setMb fn { s1.mb fn with rspHold := m.rspHoldoff ≠ 0 }

/-- Writes a response entry (R200, R206). -/
def postRsp (s : State) (fn : Nat) (accepted : Bool) (c : Consumed) (r : Result) : State :=
  let m := s.mb fn
  if !ringUsable s fn then (if m.enabled && !(s.fn fn).bme then ringFail s fn else s)
  else
    let e : RspEntry :=
      { phase := phaseOf m.rspPi 64, accepted := accepted, cls := c.req.cls, verb := c.req.verb, tag := c.req.tag
        status := r.status, detail := r.detail, gen := c.gen, payload := bytesAt r.payload 0 48 }
    postIrq (s.setMb fn { m with rspRing := tset m.rspRing (m.rspPi.toNat % 64) e, rspPi := m.rspPi + 1 }) fn false

/-- Partition that function `fn` serves: 0xFF for PF0 (R871). -/
def ownPart (fn : Nat) : Nat := if fn = 0 then 255 else fn - 1

/-- Events waiting in a pending queue, runs of discarded ones not counted (R210). -/
def pendCount (l : List Pend) : Nat := (l.filter (fun p => match p with | .event _ => true | .lost _ => false)).length

/-- The event ring has room for one more entry. -/
def evtRoom (m : Mailbox) : Bool := (m.evtPi - m.evtCi).toNat < 256

/-- The entry that reports a discarded run, raised by no one (R210). -/
def overflowEvent (s : State) (fn n : Nat) : Event :=
  { partition := ownPart fn, code := 0x0003, tag := 0, time := s.time, payload := fields 40 [(0, le 4 n)] }

/-- Writes an event entry with SEQ `q` (R200, R207). (DEDUCED: log entry 24.) -/
def writeEvent (s : State) (fn : Nat) (q : W32) (e : Event) : State :=
  let m := s.mb fn
  let x : EvtEntry :=
    { phase := phaseOf m.evtPi 256, deviceWide := e.partition = 255, seq := q, gen := m.gen, ev := e }
  postIrq (s.setMb fn { m with evtRing := tset m.evtRing (m.evtPi.toNat % 256) x, evtPi := m.evtPi + 1 }) fn true

/-- Posts waiting events in order while the ring is in use and has room, at most `n` of them (R210, R912). (DEDUCED: log entry 24.) -/
def flushEvents (n : Nat) (s : State) (fn : Nat) : State :=
  match n with
  | 0 => s
  | n + 1 =>
    let m := s.mb fn
    if !(ringUsable s fn && evtRoom m) || s.host.upd.phase = 2 then s
    else
      match m.pend with
      | [] => s
      | .event e :: r =>
        flushEvents n (writeEvent (s.setMb fn { m with pend := r, seq := m.seq + 1 }) fn m.seq e) fn
      | .lost k :: r =>
        flushEvents n
          (writeEvent (s.setMb fn { m with pend := r, seq := m.seq + BitVec.ofNat 32 k }) fn m.seq (overflowEvent s fn k)) fn

/-- Appends an event to a pending queue of at most 128 events, or counts it as discarded (R210). (DEDUCED: log entry 24.) -/
def enqueueEvent (m : Mailbox) (e : Event) : Mailbox :=
  if pendCount m.pend < 128 then { m with pend := m.pend ++ [.event e] }
  else
    { m with
      evtLost := sat 0xFFFF (m.evtLost + 1)
      pend := match m.pend.getLast? with
        | some (.lost k) => m.pend.dropLast ++ [.lost (k + 1)]
        | _ => m.pend ++ [.lost 1] }

/-- The function suppresses events of this code's class (R224); mailbox events are never suppressed. -/
def masked (m : Mailbox) (code : Nat) : Bool := code / 256 ≠ 0 && m.mask.getLsbD (code / 256)

/-- Raises an event at one function: it goes to the ring in its place, or waits (R210, R912). (DEDUCED: log entry 24.) -/
def raiseAt (s : State) (fn : Nat) (e : Event) : State :=
  if masked (s.mb fn) e.code then s
  else
    let s1 := s.setMb fn (enqueueEvent (s.mb fn) e)
    flushEvents (s1.mb fn).pend.length s1 fn

/-- Raises an event of partition `p`: PF0 and the partition's VF receive it (R209). (DEDUCED: log entry 24.) -/
def eventPart (s : State) (p code : Nat) (payload : List Byte) : State :=
  let e : Event := { partition := p, code := code, tag := 0, time := s.time, payload := bytesAt payload 0 40 }
  raiseAt (raiseAt s 0 e) (p + 1) e

/-- Raises a device-wide event that only PF0 receives (R209). (DEDUCED: log entry 24.) -/
def eventDev (s : State) (code : Nat) (payload : List Byte) : State :=
  raiseAt s 0 { partition := 255, code := code, tag := 0, time := s.time, payload := bytesAt payload 0 40 }

/-- Raises a device-wide event at every function (R209). (DEDUCED: log entry 24.) -/
def eventAll (s : State) (code : Nat) (payload : List Byte) : State :=
  forFns s (List.range 17) (fun t fn =>
    raiseAt t fn { partition := 255, code := code, tag := 0, time := s.time, payload := bytesAt payload 0 40 })

/-- The partition that a request concerns, as its events carry it (R203, R207). -/
def reqPart (fn : Nat) (r : Req) : Nat := if fn = 0 then r.partition else fn - 1

/-- The consumed request numbered `id` of function `fn`. -/
def cmdOf (s : State) (fn id : Nat) : Option Consumed := (s.mb fn).consumed.find? (fun c => c.id = id)

/-- Applies `f` to the consumed request numbered `id`. -/
def modCmd (s : State) (fn id : Nat) (f : Consumed → Consumed) : State :=
  let m := s.mb fn
  s.setMb fn { m with consumed := m.consumed.map (fun c => if c.id = id then f c else c) }

/-- Ends a command without looking at refusals behind it: its final response, or a LATE_COMPLETION where a mailbox reset or a
stopped ring stands between (R229, R234). -/
def endCmd (s : State) (fn : Nat) (c : Consumed) (r : Result) : State :=
  let m := s.mb fn
  let s1 := s.setMb fn { m with consumed := m.consumed.filter (fun x => x.id ≠ c.id) }
  if c.orphan || !m.enabled || m.ringError || m.stopping then
    raiseAt s1 fn
      { partition := reqPart fn c.req, code := 0x0006, tag := c.req.tag, time := s.time
        payload := fields 40 [(0, le 1 c.req.cls), (1, le 1 c.req.verb), (2, le 2 c.gen.toNat), (4, le 2 r.status), (6, le 2 r.detail)] }
  else postRsp s1 fn false c r

/-- Requests of class I or S that come before `c` on its ring and have no final response yet (R217). -/
def earlierShort (m : Mailbox) (c : Consumed) : Bool :=
  (m.consumed.takeWhile (fun x => x.id ≠ c.id)).any (fun x => x.timing ≤ 1)

/-- Posts the refusals found at consumption that ring order lets go, at most `n` (R217). -/
def drainRefusals (n : Nat) (s : State) (fn : Nat) : State :=
  match n with
  | 0 => s
  | n + 1 =>
    let m := s.mb fn
    match m.consumed.find? (fun c => c.refusal.isSome && (c.timing = 2 || !earlierShort m c)) with
    | none => s
    | some c => drainRefusals n (endCmd s fn c (c.refusal.getD ⟨0, 0, []⟩)) fn

/-- The final response of a command (R206, R211). (DESIGN CHOICE: log entry 22.) -/
def finish (s : State) (fn id : Nat) (r : Result) : State :=
  match cmdOf s fn id with
  | none => s
  | some c => let s1 := endCmd s fn c r; drainRefusals (s1.mb fn).consumed.length s1 fn

/-- A final response with a status and no payload. -/
def finishSt (s : State) (fn id status : Nat) : State := finish s fn id ⟨status, 0, []⟩

/-- The final response OK with a payload. -/
def finishOk (s : State) (fn id : Nat) (payload : List Byte) : State := finish s fn id ⟨0, 0, payload⟩

/-- A class L command starts: ACCEPTED is posted and one slot stays reserved (R211). (DESIGN CHOICE: log entry 22.) -/
def accept (s : State) (fn id : Nat) : State :=
  match cmdOf s fn id with
  | none => s
  | some c =>
    let s1 := modCmd s fn id (fun c => { c with started := true, slots := 1 })
    if c.orphan || !(s.mb fn).enabled || (s.mb fn).ringError || (s.mb fn).stopping then s1
    else postRsp s1 fn true c ⟨0x0001, 0, []⟩

/-- A class S command starts and waits for its end. -/
def begun (s : State) (fn id : Nat) : State := modCmd s fn id (fun c => { c with started := true })

/-- A class L command's work has ended; its final response is due (R211). (DESIGN CHOICE: log entry 22.) -/
def workDone (s : State) (fn id : Nat) (r : Result) : State := modCmd s fn id (fun c => { c with result := some r })

/-- The request that Hazel starts next on function `fn`'s ring, if it is of this class and verb and may start (R217, R218). -/
def startable (s : State) (fn cls verb : Nat) : Option Consumed :=
  let m := s.mb fn
  if !s.serving then none
  else
    match m.consumed.find? (fun c => !c.started && c.refusal.isNone) with
    | none => none
    | some c =>
      let before := m.consumed.takeWhile (fun x => x.id ≠ c.id)
      if c.req.cls = cls && c.req.verb = verb && (c.timing = 2 || !earlierShort m c) && (!c.req.fence || before.isEmpty)
      then some c else none

/-- The effect `k` of the next request of function `fn`, when it is of this class and verb; nothing happens otherwise. (DESIGN CHOICE: log entry 22.) -/
def withCmd (s : State) (fn cls verb : Nat) (k : Consumed → State → State) : Out :=
  match startable s fn cls verb with
  | none => .next s
  | some c => .next (k c s)

/-- Payload fields of a request. -/
def Consumed.u8 (c : Consumed) (o : Nat) : Nat := rd 1 c.req.payload o
def Consumed.u16 (c : Consumed) (o : Nat) : Nat := rd 2 c.req.payload o
def Consumed.u32 (c : Consumed) (o : Nat) : Nat := rd 4 c.req.payload o
def Consumed.u64 (c : Consumed) (o : Nat) : Nat := rd 8 c.req.payload o

/-- The partition that a validated partition command acts on (R203). (DEDUCED: log entry 23.) -/
def target (fn : Nat) (c : Consumed) : Nat := if fn = 0 then c.req.partition else fn - 1

/-- The generic checks of R214, steps 1 to 7, and the refusal of R228 after them. (DEDUCED: log entry 23.) -/
def genericCheck (s : State) (fn : Nat) (r : Req) : Option Result :=
  let st (v : Nat) : Option Result := some ⟨v, 0, []⟩
  if !classKnown r.cls then st 0x0002
  else
    match cmdRow r.cls r.verb with
    | none => st 0x0003
    | some row =>
      if s.boot.hazel = .recovery && !(fn = 0 && (r.cls = 13 || (r.cls = 1 && r.verb = 2))) then st 0x0101
      else if s.faults.stopped && !(fn = 0 && [(1, 1), (1, 2), (14, 1), (14, 3), (10, 3), (11, 1), (13, 3)].contains (r.cls, r.verb))
      then st 0x0E01
      else if !r.reservedZero || 224 < r.payloadLen then st 0x0005
      else if row.pf0 && fn ≠ 0 then st 0x0006
      else if fn = 0 && 15 < r.partition && (r.partition ≠ 255 || row.part) then st 0x0007
      else if fn ≠ 0 && ((r.partition ≠ 255 && r.partition ≠ fn - 1) || !(s.pt (fn - 1)).tenant) then st 0x0007
      else if r.payloadLen < row.size then st 0x0004
      else if (s.host.upd.phase = 1 || s.host.upd.phase = 2) && row.timing ≠ 0 && !(r.cls = 1 && r.verb = 3) then st 0x000D
      else none

/-- Response slots of function `fn` that are neither unread nor reserved (R199). -/
def freeSlots (m : Mailbox) : Nat :=
  64 - (m.rspPi - m.rspCi).toNat - (m.consumed.map (fun c => c.slots)).foldl (· + ·) 0

/-- Function `fn`'s ring holds a request that Hazel could consume, given at least `n` free response slots. (DEDUCED: log entry 23.) -/
def consumable (s : State) (fn n : Nat) : Bool :=
  let m := s.mb fn
  ringUsable s fn && m.reqPi ≠ m.reqCi && n ≤ freeSlots m

/-- The rotation of R219 lets function `fn`'s ring be served now. (DEDUCED: log entry 23.) -/
def turnAllows (s : State) (fn : Nat) : Bool :=
  s.host.turn ≠ fn || s.host.turnCount < 4 || !((List.range 17).any (fun g => g ≠ fn && consumable s g 1))

/-- Marks a mailbox reset in the mailbox itself: requests not consumed are discarded, consumed ones run on unanswered (R233, R234). -/
def orphanAll (m : Mailbox) : Mailbox :=
  { m with reqCi := m.reqPi, consumed := m.consumed.map (fun c => { c with orphan := true }), rspHold := false, evtHold := false }

/-- Serves ENABLE = 1: the bases are checked, and the mailbox starts with MAILBOX_UP (R194). (DEDUCED: log entry 24.) -/
def serveEnable (s : State) (fn : Nat) : State :=
  let m := s.mb fn
  let bad (b : W64) : Bool := b = 0 || (b &&& 0xFFF) ≠ 0
  if bad m.reqBase || bad m.rspBase || bad m.evtBase then
    updMb s fn { m with badBase := true, ringError := true, enablePending := false }
  else
    let g := m.gen + 1
    let s1 := updMb s fn
      { m with reqPi := 0, reqCi := 0, rspPi := 0, rspCi := 0, evtPi := 0, evtCi := 0, gen := g, enabled := true, mask := 0
               seq := 1, enablePending := false, upReason := 1 }
    let up : Event :=
      { partition := ownPart fn, code := 0x0001, tag := 0, time := s.time
        payload := fields 40 [(0, le 2 g.toNat), (2, le 1 m.upReason)] }
    if (s1.fn fn).bme then writeEvent s1 fn 0 up else ringFail s1 fn

end Sys2Proof.Machine
end

