-- ==== Sys2Proof/Machine/ResetOps.lean ====
section
/-! DEFINITION. What each die-level reset clears (R108): one operation by kind of reset, and what the loss of the die's power leaves. -/

namespace Sys2Proof.Machine

/-- Power-on, e-fuse-trip and cold resets: the columns POR and COLD of R108. -/
def ResetKind.full (k : ResetKind) : Bool := k = .powerOn || k = .efuse || k = .cold

/-- Power-on and e-fuse-trip resets: the column POR of R108. -/
def ResetKind.por (k : ResetKind) : Bool := k = .powerOn || k = .efuse

/-- A mailbox after a reset: registration as R108's row says, GEN as R191 says, indices and requests cleared. (DEDUCED: log entry 10.) -/
def resetMb (k : ResetKind) (m : Mailbox) : Mailbox :=
  let i := Mailbox.init
  if k.full then i
  else if k = .hot then { i with gen := m.gen, pend := m.pend, evtLost := m.evtLost, mask := m.mask, upReason := 0, consumed := m.consumed.map (fun c => { c with orphan := true }) }
  else
    { i with
      gen := m.gen, reqBase := m.reqBase, rspBase := m.rspBase, evtBase := m.evtBase
      rspHoldoff := m.rspHoldoff, evtHoldoff := m.evtHoldoff, rspRing := m.rspRing, evtRing := m.evtRing, upReason := 2 }

/-- A function's registers after a reset (R108, R880). (DEDUCED: log entry 10.) -/
def resetFn (k : ResetKind) (r : FnRegs) : FnRegs :=
  let r1 := { r with intStatus := 0, intEnable := 0, shadows := [] }
  if k.full then FnRegs.init
  else if k = .hot then
    { r1 with mse := false, bme := false, msix := { Msix.init with sent := r.msix.sent }, aerInternal := false
              aerCorrected := false, aerPoisoned := false, aerTimeout := false }
  else { r1 with erHold := false }

/-- A partition after a warm, watchdog or thermal reset: formation kept, state ASSIGNED, work and slots cleared (R108, R390). (DEDUCED: log entry 10.) -/
def resetPart (x : Part) : Part :=
  if x.state = .free then x
  else
    { x with
      state := .assigned, fault := 0, slots := [], loads := [], shifting := false, run := Run.init, audit := Audit.init
      fence := Fence.init, drain := none, saved := none, saveJob := none, abortJob := none, resumeJob := none, bound := none
      handles := x.handles.map (fun h => (h.1, { h.2 with recheck := true })) }

/-- A captive drive after a die-level reset other than a hot one: its queues are gone, and it is initialised again where its slot
kept power (R108, R659). -/
def resetDrive (on : Bool) (d : Drive) : Drive :=
  { d with
    queued := [], sent := [], step := 0, enabling := false, aer := false, offAfter := false, cause := 6
    state :=
      if d.state = .absent || d.state = .hostOwned || (d.state = .suspended && !on) then d.state
      else if on then .initialising else .off }

/-- Bay `n` has its power on. -/
def bayOn (s : State) (n : Nat) : Bool := (tget Bay.init s.comp.bays n).state = .on

/-- A downstream port after a die-level reset other than a hot one (R607, R108). -/
def resetDp (k : ResetKind) (on : Bool) (p : DPort) : DPort :=
  let i := DPort.init
  if k.por then { i with present := p.present, drive := { Drive.init with state := if p.present then .off else .absent } }
  else if k = .cold then
    { i with
      passthrough := p.passthrough, autoPower := p.autoPower, l12Enable := p.l12Enable, suspendS := p.suspendS
      present := p.present, drive := resetDrive on p.drive, powerOff := !(on && p.passthrough), rising := on, refclk := on }
  else if p.passthrough then p
  else { p with linkUp := false, speed := 0, width := 0, l12 := false, fence := .open, rising := false, falling := false, offJob := none
                drive := resetDrive on p.drive }

/-- The HBM state record is whole: HBM contents are kept and no word of it is poisoned (R108, R840). -/
def stateRecordGood (s : State) : Bool := !(s.hbm.poison.any (fun w => 0x8FFF0000 ≤ w && w < 0x90000000))

/-- An embedding table after a warm, watchdog or thermal reset (R543). (DEDUCED: log entries 10, 47.) -/
def resetTable (t : EmbTable) : EmbTable :=
  { t with directory := [], fence := none, migration := none, touched := [] }

/-- The Husk engine after a die-level reset that is not a hot one: epochs still open await their end at start-up, every unit is due whole,
and volumes are known again once they are mounted (R108, R110, R668, R709, R749). -/
def resetHusk (k : ResetKind) (lost : Bool) (h : Husk) : Husk :=
  if k.full || lost then { Husk.init with needWhole := List.range 576 }
  else
    { Husk.init with
      cfg := h.cfg, needWhole := List.range 576, epoch := h.epoch, lastCommitted := h.lastCommitted, lastSystem := h.lastSystem
      current := h.current, nextOrder := h.nextOrder, cowTotal := h.cowTotal, lastPause := h.lastPause, lastTotal := h.lastTotal, lastDrained := h.lastDrained
      progress :=
        if k = .thermal then (match h.restore, tfind h.readers 0 with | some r, some d => some ({ r with silent := true }, d) | _, _ => h.progress)
        else none }

/-- The power controller after a die-level reset (R108, R792, R797). -/
def resetPower (k : ResetKind) (floor : Nat) (ein : W64) (p : Power) : Power :=
  let i := { Power.init with gated := p.gated, grant := floor, capTold := p.capTold, dieTemp := p.dieTemp, hbmTemp := p.hbmTemp, lastEin := ein }
  if k.full then { i with gated := [] }
  else
    { i with
      fastcapDiv := p.fastcapDiv, maxDiv := p.maxDiv, localCap := p.localCap, eligible := p.eligible, domain := p.domain
      expected := p.expected, budget := p.budget, timers := p.timers, module := p.module, device := p.device, parts := p.parts
      engines := p.engines, partEngines := p.partEngines, jobs := p.jobs, overflow := p.overflow, lastEin := p.lastEin }

/-- The link after a die-level reset that is not a hot one (R108, R570, R575). -/
def resetLink (k : ResetKind) (l : Link) : Link :=
  if k.full then Link.init
  else { Link.init with linkId := l.linkId, attrs := l.attrs, routes := l.routes, peers := l.peers, nextXfer := l.nextXfer }

/-- The fabric after a die-level reset that is not a hot one: cells, Sprout cores and configuration zeroed (R108, R109). -/
def resetFabric (f : Fabric) : Fabric :=
  { f with
    pods := [], sprouts := [], cells := [], cellPoison := [], cellEcc := [], writeBack := []
    regions := f.regions.map (fun r => (r.1, { r.2 with clocked := false })) }

/-- The fault unit after a die-level reset that is not a hot one (R842, R843, R844, R852, R859). -/
def resetFaults (k : ResetKind) (lost : Bool) (f : Faults) : Faults :=
  if k.full then Faults.init
  else
    { f with
      ring := if lost then [] else f.ring
      queue := [], firsts := [], stopped := false, fatalReset := f.fatalPending, fatalPending := false }

/-- The die's part of the state after a die-level reset other than a hot one (R108); `lost` says that HBM contents were lost. (DEDUCED: log entry 10.) -/
def dieReset (k : ResetKind) (lost : Bool) (s : State) : State :=
  let gone := k.full || lost || !stateRecordGood s
  { s with
    host := { HostIf.init with
              mb := s.host.mb.map (fun m => (m.1, resetMb k m.2)), fn := s.host.fn.map (fun r => (r.1, resetFn k r.2))
              nextId := s.host.nextId }
    faults := resetFaults k lost s.faults
    clk := if k.full then Clocks.init
           else { s.clk with div := 12, divReq := none, stretch := false, run := false, phase := 0, attempts := 0 }
    boot := { s.boot with
              hazel := .off, stepsDone := 0, stepFail := false, deployed := false, doneLate := false, toDeploy := [], sections := []
              writeEnable := false, fallback := false, jobs := [], unlocked := false
              wdogStreak := if k.full then 0 else s.boot.wdogStreak
              done := if k.full then .holding else s.boot.done
              dieDone := k.full || s.boot.dieDone, nextGolden := !k.full && s.boot.nextGolden
              primaryResult := 15, goldenResult := 15 }
    fab := resetFabric s.fab
    part := if gone then [] else s.part.map (fun x => (x.1, resetPart x.2))
    chans := Channels.init
    hbm := if k.full || lost then Hbm.init
           else { s.hbm with
             ready := false, selfRefresh := true, zeroing := (if gone then [] else s.hbm.zeroing),
             reserved := if gone then [] else s.hbm.reserved.filter (fun u => !(s.trace.sessions.any (fun e => e.2.holds u))) }
    eng := { Engines.init with nextId := s.eng.nextId
                               tables := if gone then [] else s.eng.tables.map (fun t => (t.1, resetTable t.2)) }
    link := if gone then { resetLink k s.link with peers := [] } else resetLink k s.link
    hub := { s.hub with
             dp := s.hub.dp.map (fun p => (p.1, resetDp k (bayOn s p.1 && !k.por) p.2))
             records := if gone then [] else s.hub.records
             held := if k.full then [] else s.hub.held
             vfEnable := if k.full then false else s.hub.vfEnable, numVfs := if k.full then 0 else s.hub.numVfs
             ari := if k.full then false else s.hub.ari }
    husk := resetHusk k gone s.husk
    pow := resetPower k s.comp.floorShare ((s.feed 0).ein + (s.feed 1).ein) s.pow
    trace := { Trace.init with lc := s.trace.lc, nextSession := s.trace.nextSession }
    time := if k.full then 0 else s.time
    rootPhase := if k.full then 0 else s.rootPhase }

/-- The die loses its rails: everything in it is as at a power-on reset that has not been released, and its memories are lost
(R41, R47, R901). -/
def dieUnpowered (s : State) : State :=
  let t := dieReset .powerOn true s
  { t with rst := { Resets.init with sensor := t.rst.sensor, perst := t.rst.perst } }

end Sys2Proof.Machine
end

