-- ==== Sys2Proof/Machine/Records.lean ====
section
/-! DEFINITION. Error records as bytes (R841), and the companion's retained ring, counter and cause record. -/

namespace Sys2Proof.Machine

/-- The 64 bytes of an error record (R841). -/
def Rec.bytes (r : Rec) : List Byte :=
  let b := fields 60
    [(0, le 2 r.code), (2, le 1 r.cls),
     (3, le 1 (r.source + 4 * b2n r.companionTime + 8 * b2n r.injected + 16 * b2n r.committed)), (4, le 4 r.seq.toNat),
     (8, le 8 r.time.toNat), (16, le 1 r.partition), (17, le 1 r.region), (18, le 2 r.pod), (20, le 1 r.cell), (21, le 1 r.unit),
     (22, le 2 r.count), (24, le 4 r.jobId.toNat), (28, le 4 r.resetCount.toNat), (32, le 8 r.address.toNat),
     (40, bytesAt r.detail 0 20)]
  b ++ le 4 (crc32c b).toNat

/-- The record that 64 bytes spell (R841). -/
def recOf (b : List Byte) : Rec :=
  let f := rd 1 b 3
  { code := rd 2 b 0, cls := rd 1 b 2, source := f % 4, companionTime := bitOf f 2, injected := bitOf f 3, committed := bitOf f 4
    seq := BitVec.ofNat 32 (rd 4 b 4), time := BitVec.ofNat 64 (rd 8 b 8), partition := rd 1 b 16, region := rd 1 b 17
    pod := rd 2 b 18, cell := rd 1 b 20, unit := rd 1 b 21, count := rd 2 b 22, jobId := BitVec.ofNat 32 (rd 4 b 24)
    resetCount := BitVec.ofNat 32 (rd 4 b 28), address := BitVec.ofNat 64 (rd 8 b 32), detail := bytesAt b 40 20 }

/-- The reset counter as a read returns it (R63). -/
def Aon.count (a : Aon) : W32 := if a.rcState = 0x5A#8 then a.cntB else a.cntA

/-- The value after `v` of the reset counter (R61). -/
def cntNext (v : W32) : W32 := if v = 0xFFFFFFFF#32 then v else v + 1

/-- Low `k` bytes of `new` over `old`: a copy of which `k` cells have been written. -/
def partCopy (old new : W32) (k : Nat) : W32 :=
  let m : W32 := BitVec.ofNat 32 (256 ^ k - 1)
  (old &&& ~~~m) ||| (new &&& m)

/-- The increment of R61 to value `new`, after `k` of its eleven cell writes. -/
def cntWrite (a : Aon) (new : W32) (k : Nat) : Aon :=
  { a with
    rcState := if k = 0 then a.rcState else if k < 6 then 0x5A else if k < 11 then 0xA5 else 0
    cntA := partCopy a.cntA new (min 4 (k - 1))
    cntB := partCopy a.cntB new (min 4 (k - 6)) }

/-- A whole increment (R61). (DEDUCED: log entry 14.) -/
def Aon.increment (a : Aon) : Aon := cntWrite a (cntNext a.cntA) 11

/-- Appends 64 bytes to the retained ring (R67). -/
def Aon.append (a : Aon) (b : List Byte) : Aon :=
  { a with log := tset a.log a.logIdx b, logIdx := (a.logIdx + 1) % 64, logCount := min 64 (a.logCount + 1) }

/-- Code of a feed state in CP_FEED_STATE and the cause record (R35). -/
def FeedState.code : FeedState → Nat
  | .off => 0 | .qualify => 1 | .ramp => 2 | .on => 3 | .tripped => 4 | .latched => 5

/-- Code of a trip cause in CP_FEED_STATE. -/
def TripCause.code : TripCause → Nat
  | .none => 0 | .ov => 1 | .rampTimeout => 2 | .ocTimer => 3 | .ocFast => 4 | .reverse => 5

/-- RCAUSE of a reset (R106). -/
def ResetKind.code : ResetKind → Nat
  | .powerOn => 0 | .cold => 1 | .hot => 2 | .warm => 3 | .watchdog => 4 | .thermal => 5 | .efuse => 6

/-- Writes the cause record after an increment (R64). -/
def writeCause (s : State) (cause : Nat) : State :=
  let a := s.comp.aon
  { s with comp := { s.comp with aon := { a with
      cntLow := BitVec.ofNat 8 a.cntA.toNat, cause := cause, feedA := (s.feed 0).state.code, feedB := (s.feed 1).state.code } } }

/-- The cause record as the companion reports it (R64, R65). -/
def causeWord (s : State) : W32 :=
  let a := s.comp.aon
  let c := if a.cntLow.toNat = a.count.toNat % 256 then a.cause else 7
  BitVec.ofNat 32 (a.cntLow.toNat + 256 * c + 65536 * a.feedA + 1048576 * a.feedB)

/-- A record that the companion makes of its own: SOURCE 2, its own time, SEQ all ones (R841, R913). (DESIGN CHOICE: log entry 18.) -/
def companionRec (s : State) (code cls unit : Nat) (detail : List Byte) : Rec :=
  { code := code, cls := cls, source := 2, companionTime := true, injected := false, committed := false, seq := 0xFFFFFFFF#32
    time := Config.companionMs s.free, partition := 255, region := 255, pod := 65535, cell := 255, unit := unit, count := 1
    jobId := 0, resetCount := s.comp.aon.count, address := 0, detail := detail }

/-- The companion appends a record of its own to its ring (R67). -/
def companionAppend (s : State) (code cls unit : Nat) (detail : List Byte) : State :=
  let r := companionRec s code cls unit detail
  { s with free := s.free + 1, comp := { s.comp with aon := s.comp.aon.append r.bytes } }

/-- Sets bits of CP_STATUS. -/
def cpRaise (s : State) (bits : W32) : State := { s with comp := { s.comp with status := s.comp.status ||| bits } }

/-- CMP_IRQ0_N and CMP_IRQ1_N are low (R71). -/
def irq0Low (s : State) : Bool := (s.comp.status &&& s.comp.irqMask &&& 0x3F) ≠ 0
def irq1Low (s : State) : Bool := (s.comp.status &&& s.comp.irqMask &&& 0x3F00) ≠ 0

end Sys2Proof.Machine
end

