-- ==== Sys2Proof/Machine/Status.lean ====
section
/-! DEFINITION. The status registers that HZ_INT_STATUS summarises, as views of the state (R873), and the interrupts that their changes raise. -/

namespace Sys2Proof.Machine

/-- A partition, drive port or link port fence's code (R433). -/
def FenceState.code : FenceState → Nat
  | .open => 0 | .draining => 1 | .terminating => 2 | .closed => 3

/-- Codes of the partition states (R430). -/
def PartState.code : PartState → Nat
  | .free => 0 | .assigned => 1 | .loaded => 2 | .running => 3 | .stalled => 4 | .saved => 5 | .draining => 6 | .faulted => 7

/-- Codes of the slot states. -/
def SlotState.code : SlotState → Nat
  | .empty => 0 | .queued => 1 | .shifting => 2 | .committed => 3

/-- Codes of the power states (R754). -/
def PowerState.code : PowerState → Nat
  | .run => 0 | .idle => 1 | .sleep => 2 | .deep => 3 | .off => 4

/-- Codes of the drive states (R643). -/
def DriveState.code : DriveState → Nat
  | .absent => 0 | .off => 1 | .powering => 2 | .initialising => 3 | .ready => 4 | .suspending => 5 | .suspended => 6
  | .waking => 7 | .resetting => 8 | .failed => 9 | .unsuitable => 10 | .removed => 11 | .hostOwned => 12

/-- Codes of the link port states (R594). -/
def PortState.code : PortState → Nat
  | .off => 0 | .training => 1 | .up => 2 | .down => 3 | .disabled => 4

/-- Codes of the epoch states (R661). -/
def EpochState.code : EpochState → Nat
  | .open => 0 | .frozen => 1 | .draining => 2 | .committed => 3 | .incomplete => 4 | .superseded => 5

/-- Codes of the volume states (R710). -/
def VolState.code : VolState → Nat
  | .none => 0 | .mounting => 1 | .ready => 2 | .degraded => 3 | .failed => 4

/-- Codes of the trace session states (R835). -/
def TraceState.code : TraceState → Nat
  | .unconfigured => 0 | .configured => 1 | .running => 2 | .full => 3 | .sinkLost => 4

/-- The dividers, from the fastest (R775). -/
def divOf (i : Nat) : Nat := [4, 5, 6, 8, 12].getD i 12
/-- Place of a divider in that list. -/
def divIdx (d : Nat) : Nat := if d ≤ 4 then 0 else if d ≤ 5 then 1 else if d ≤ 6 then 2 else if d ≤ 8 then 3 else 4
/-- VDD_FAB setpoint of a divider's place, in mV (R775). -/
def setpointOf (i : Nat) : Nat := [850, 800, 760, 720, 650].getD i 650
/-- The fastest divider's place whose setpoint a rail of `mv` reaches (R75). -/
def fastestAt (mv : Nat) : Nat := ((List.range 5).find? (fun i => setpointOf i ≤ mv)).getD 4

/-- Ceiling of the input limits: FASTCAP_DIV while FASTCAP is asserted, and the settled setpoint under REG_FAULT (R776, R84). -/
def inputCeiling (s : State) : Nat :=
  max (if s.comp.fastcap then divIdx s.pow.fastcapDiv else 0) (if s.comp.vreg.fault then fastestAt s.comp.vreg.lastSettled else 0)

/-- The slowest ceiling (R776). -/
def slowestCeiling (s : State) : Nat :=
  max s.pow.budgetFit (max s.pow.dieCeiling (max s.pow.hbmCeiling (max (inputCeiling s) (max (divIdx s.pow.maxDiv)
    (s.pow.droopHold.getD 0)))))

/-- The grant, or the floor share while it is in force (R792). -/
def grantInForce (s : State) : Nat := if s.pow.floorMode then s.comp.floorShare else s.pow.grant

/-- The cap in force: the lower of LOCAL_CAP and the grant (R792). -/
def capInForce (s : State) : Nat := min s.pow.localCap (grantInForce s)

/-- Some writer is held on a full reserve area (R684, R685). -/
def reserveHeld (s : State) : Bool :=
  !s.husk.heldWrites.isEmpty && s.husk.fullRaised || s.part.any (fun p => p.2.run.stall = some .husk)

/-- Throttle reasons that are active (R798). -/
def activeReasons (s : State) : Nat :=
  let top := slowestCeiling s
  let is (c : Nat) : Bool := 0 < c && c = top
  let g := grantInForce s
  b2n (is s.pow.budgetFit && g ≤ s.pow.localCap) + 2 * b2n (is s.pow.budgetFit && s.pow.localCap ≤ g)
    + 4 * b2n (is s.pow.dieCeiling) + 8 * b2n (is s.pow.hbmCeiling) + 16 * b2n (s.clk.stretch || s.pow.droopHold.isSome)
    + 32 * b2n (is (inputCeiling s)) + 64 * b2n (is (divIdx s.pow.maxDiv)) + 128 * b2n (reserveHeld s)

/-- This module is the steward of its domain (R789); without a LINK_ID it is known to itself as 255. -/
def isStewardNow (s : State) : Bool := s.pow.steward = some (s.link.linkId.getD 255)

/-- PW_STATUS (R799). -/
def pwStatus (s : State) : W32 :=
  BitVec.ofNat 32 (s.pow.state.code + 256 * s.clk.div + 65536 * activeReasons s + 2 ^ 24 * b2n s.comp.fastcap
    + 2 ^ 25 * b2n s.pow.floorMode + 2 ^ 26 * b2n (isStewardNow s) + 2 ^ 27 * b2n s.comp.vreg.fault)

/-- Partition `p` is being restored (R742). -/
def restoring (s : State) (p : Nat) : Bool := s.husk.restore.any (fun r => bitOf r.mask p)

/-- The most recent epoch takes part of function `fn`'s view (R701). -/
def epochSeen (fn : Nat) (e : Epoch) : Bool := fn = 0 || bitOf e.partMask (fn - 1)

/-- A participant is waiting for, or in, its pause (R702). -/
def pausing (s : State) : Bool := s.husk.snap.any (fun x => x.parts.any (fun p => p.phase ≤ 2))

/-- A register that Hazel fills holds its value during the switch of a live update (R869). (DEDUCED: log entry 25.) -/
def heldOr (s : State) (fn off : Nat) (now : W32) : W32 :=
  if s.host.upd.phase = 2 then tget now s.host.upd.held (fn * 2 ^ 24 + off) else now

/-- HK_STATUS of function `fn` as the Husk engine stands (R702, R701). -/
def hkNow (s : State) (fn : Nat) : W32 :=
  let common := 256 * b2n s.husk.cfg.isSome + 512 * b2n (pausing s) + 1024 * b2n (s.husk.cfg.any (fun c => c.reserveUnits * 4096 ≤ s.husk.reserve.length))
  match s.husk.current with
  | none => BitVec.ofNat 32 (15 + common)
  | some e =>
    if epochSeen fn e then
      BitVec.ofNat 32 (e.state.code + 16 * e.cause + common + 2048 * b2n e.base + 4096 * e.sys
        + 65536 * (if fn = 0 then e.partMask else 2 ^ (fn - 1)))
    else BitVec.ofNat 32 common

/-- HK_STATUS of function `fn` as it reads. -/
def hkStatus (s : State) (fn : Nat) : W32 := heldOr s fn 0x180 (hkNow s fn)

/-- TR_STATUS of function `fn` (R835). -/
def trStatus (s : State) (fn : Nat) : W32 :=
  let x := tget Session.init s.trace.sessions fn
  BitVec.ofNat 32 (x.state.code + 8 * b2n x.overflowed + 16 * b2n x.wrapped + 32 * x.sink
    + 65536 * (s.trace.grants.filter (fun g => g.2.requester = fn)).length)

/-- Admitted transfers of partition `p` outstanding: its queued engine work, its link transfers and its collectives (R433). (DEDUCED: log entry 39.) -/
def inflight (s : State) (p : Nat) : Nat :=
  (s.eng.jobs.filter (fun j => j.part = p)).length + (s.eng.emb.filter (fun j => j.part = p)).length
    + (s.link.xfers.filter (fun x => x.part = p)).length + (s.link.colls.filter (fun c => c.part = p)).length

/-- FN_PART_STATUS of partition `p` (R433): zero while it is FREE (R876). -/
def fnPartStatus (s : State) (p : Nat) : W32 :=
  let x := s.pt p
  if x.state = .free then 0
  else BitVec.ofNat 32 (x.fence.state.code + 256 * x.fence.reason + 65536 * sat 0xFFFF (inflight s p))

/-- FN_BLOCK_STATUS. -/
def fnBlockStatus (s : State) : W32 :=
  BitVec.ofNat 32 (((List.range 5).map (fun e => 4 ^ e * (tget FenceState.open s.eng.fences e).code)).foldl (· + ·) 0
    + 65536 * ((List.range 8).map (fun n => 4 ^ n * (tget DPort.init s.hub.dp n).fence.code)).foldl (· + ·) 0)

/-- The median round trip exceeds what 64 flits cover at full rate (R556). -/
def throttledRtt (p : Port) : Bool := p.rtts.head?.any (fun r => 163 < r)

/-- LK_PORT_STATUS of port `p` (R596). -/
def lkPortStatus (s : State) (p : Nat) : W32 :=
  let x := tget Port.init s.link.ports p
  BitVec.ofNat 32 (x.state.code + 8 * b2n x.miswired + 16 * x.txLanes.toNat + 4096 * x.rxLanes.toNat
    + 2 ^ 20 * x.neighbour.getD 0 + 2 ^ 27 * x.fence.code + 2 ^ 29 * b2n (throttledRtt x))

/-- SLOT code of bay `n`, as CP_SLOT_STATE (R53). -/
def slotCode (s : State) (n : Nat) : Nat :=
  match (tget Bay.init s.comp.bays n).state with
  | .off => 0 | .discharging => 1 | .ramping => 1 | .on => 2 | .slotFault => 3

/-- A downstream port exists: all eight with DPW low, the even ones with DPW high (R606). -/
def dpExists (s : State) (n : Nat) : Bool := n < 8 && (!s.boot.dpw || n % 2 = 0)

/-- HB_PORT_STATUS of port `n` (R657). -/
def hbPortStatus (s : State) (n : Nat) : W32 :=
  if !dpExists s n then 0
  else
    let p := tget DPort.init s.hub.dp n
    BitVec.ofNat 32 (b2n p.passthrough + 2 * b2n p.present + 4 * slotCode s n + 16 * p.drive.state.code + 256 * p.speed
      + 2048 * p.width + 2 ^ 15 * b2n p.flit + 2 ^ 16 * b2n p.l12 + 2 ^ 17 * b2n p.dpc + 2 ^ 24 * sat 255 p.drive.sent.length)

/-- Free segments of a member. -/
def Member.free (m : Member) : Nat := m.segments - m.inUse.length

/-- The drive of volume member `m` is present: some port's drive carries its serial number. -/
def memberPresent (s : State) (m : Member) : Bool :=
  s.hub.dp.any (fun p => p.2.present && p.2.drive.serial = m.serial && p.2.drive.state ≠ .removed && p.2.drive.state ≠ .absent)

/-- HK_VOLUME_STATUS as the volume stands (R752). -/
def hkVolumeNow (s : State) : W32 :=
  let v := tget Volume.init s.husk.volumes 0
  let present := v.members.filter (fun m => memberPresent s m.2)
  let free := (v.members.map (fun m => m.2.free)).foldl min 0xFFFF
  BitVec.ofNat 32 (v.state.code + 8 * maskOf (present.map (fun m => m.1)) + 2048 * b2n s.husk.compact.isSome
    + 4096 * b2n s.husk.restore.isSome + 65536 * (if v.members.isEmpty then 0 else sat 0xFFFF free))

/-- HK_VOLUME_STATUS as it reads. -/
def hkVolumeStatus (s : State) : W32 := heldOr s 0 0x20318 (hkVolumeNow s)

/-- HZ_FAULT_STATUS of function `fn` as the records stand (R861). -/
def faultStatusNow (s : State) (fn : Nat) : W32 :=
  let r := s.fn fn
  BitVec.ofNat 32 (r.lastCode.toNat + 65536 * r.lastClass
    + if fn = 0 then
        2 ^ 18 * b2n s.faults.fatalReset + 2 ^ 19 * b2n s.faults.stopped
          + 2 ^ 20 * (s.faults.resetTimes.filter (fun t => s.time.toNat < t + 3600000000000)).length
      else 0)

/-- HZ_FAULT_COUNT of function `fn` as the records stand (R861). -/
def faultCountNow (s : State) (fn : Nat) : W32 :=
  BitVec.ofNat 32 (((List.range 4).map (fun c => 256 ^ c * tget 0 (s.fn fn).counts c)).foldl (· + ·) 0)

/-- DONE_STATE's code (R155). -/
def DoneState.code : DoneState → Nat
  | .holding => 0 | .waiting => 1 | .passed => 2 | .timedOut => 3

/-- HZ_BOOT_STATUS as the boot stands (R155). -/
def bootStatusNow (s : State) : W32 :=
  let b := s.boot
  BitVec.ofNat 32 (b.primaryResult + 16 * b.goldenResult + 256 * b.source + 2 ^ 10 * b2n b.goldWe + 2 ^ 11 * b2n b.unlocked
    + 2 ^ 12 * b.wdogStreak + 2 ^ 16 * b.stepsDone + 2 ^ 19 * b2n b.stepFail + 2 ^ 20 * b.done.code + 2 ^ 22 * b2n b.doneLate
    + 2 ^ 23 * b2n b.deployed)

/-- The registers that Hazel fills, as they stand: place (function × 2^24 + offset) and value (R869). -/
def filledNow (s : State) : Tab W32 :=
  [(0x20000, s.rst.causeReg), (0x20004, s.rst.countReg), (0x20008, bootStatusNow s), (0x2000C, s.boot.fwVersion),
   (0x20018, s.faults.nextSeq), (0x20318, hkVolumeNow s)]
    ++ (List.range 17).flatMap (fun fn =>
      [(fn * 2 ^ 24 + 0x108, faultStatusNow s fn), (fn * 2 ^ 24 + 0x10C, faultCountNow s fn), (fn * 2 ^ 24 + 0x180, hkNow s fn)])

/-- AU_MISMATCH rose between two audit states. -/
def auditRose (s0 s : State) (p : Nat) : Bool := (s0.pt p).audit.mismatch < (s.pt p).audit.mismatch

/-- Raises bit `b` at the functions of `fns` for which `c` holds. -/
def setIntIf (s : State) (b : Nat) (fns : List Nat) (c : Nat → Bool) : State :=
  fns.foldl (fun s fn => if c fn then setInt s fn b else s) s

/-- Sets the HZ_INT_STATUS bits of every summarised register that differs between `s0` and `s` (R873); FAULT is set where a record is
written. -/
def note (s0 s : State) : State :=
  let all := List.range 17
  let parts := List.range 16
  let hk := 0x40F#32
  let s1 := if (pwStatus s &&& 0xFF1F07#32) ≠ (pwStatus s0 &&& 0xFF1F07#32) then setIntAll s 1 else s
  let s2 := setIntIf s1 2 all (fun fn => (hkStatus s fn &&& hk) ≠ (hkStatus s0 fn &&& hk))
  let s3 := setIntIf s2 3 all (fun fn =>
    (trStatus s fn &&& 7) ≠ (trStatus s0 fn &&& 7) || ((trStatus s fn &&& ~~~ trStatus s0 fn) &&& 8) ≠ 0)
  let moved := parts.filter (fun p => (fnPartStatus s p &&& 3) ≠ (fnPartStatus s0 p &&& 3))
  let s4 := setIntIf s3 4 (0 :: moved.map (· + 1)) (fun fn => fn ≠ 0 || !moved.isEmpty || fnBlockStatus s ≠ fnBlockStatus s0)
  let rose := parts.filter (auditRose s0 s)
  let s5 := setIntIf s4 5 (0 :: rose.map (· + 1)) (fun fn => fn ≠ 0 || !rose.isEmpty)
  let s6 := if parts.any (fun p => lkPortStatus s p ≠ lkPortStatus s0 p) then setInt s5 0 6 else s5
  if (List.range 8).any (fun n => hbPortStatus s n ≠ hbPortStatus s0 n) then setInt s6 0 7 else s6

/-- A meaning's answer with the interrupts of R873 for what it changed. -/
def nextN (s0 s : State) : Out := .next (note s0 s)

end Sys2Proof.Machine
end

