-- ==== Sys2Proof/Machine/LinkOps.lean ====
section
/-! DEFINITION. Sending on the link: routes, the layouts of records and transactions, transmit queues, credits and replay (R551–R573). -/

namespace Sys2Proof.Machine

/-- Port `p` of the link. -/
def State.port (s : State) (p : Nat) : Port := tget Port.init s.link.ports p
def State.setPort (s : State) (p : Nat) (x : Port) : State := { s with link := { s.link with ports := tset s.link.ports p x } }

/-- Port `p` is UP. -/
def portUp (s : State) (p : Nat) : Bool := (s.port p).state = .up

/-- Port `p` carries other traffic than HELLO (R595). (DEDUCED: log entry 29.) -/
def routable (s : State) (p : Nat) : Bool := portUp s p && !(s.port p).miswired

/-- The port that leads to link-ID `dst`: PORT_A for an even selector and PORT_B for an odd one, then the other, then FAIL_PORT (R569,
R570). -/
def routePort (s : State) (dst sel : Nat) : Option Nat :=
  if s.link.linkId.isNone then none
  else
    match tfind s.link.routes dst with
    | none => none
    | some e =>
      let v := e.toNat
      let a := (bitsOf v 3 0, bitOf v 8)
      let b := (bitsOf v 7 4, bitOf v 9)
      let c := (bitsOf v 13 10, bitOf v 14)
      let l := if sel % 2 = 0 then [a, b, c] else [b, a, c]
      (l.find? (fun x => x.2 && routable s x.1)).map (fun x => x.1)

/-- A link-ID has a route entry: the routing image enables some port for it. -/
def hasEntry (s : State) (dst : Nat) : Bool :=
  (tfind s.link.routes dst).any (fun e => bitOf e.toNat 8 || bitOf e.toNat 9 || bitOf e.toNat 14)

/-- Link-IDs that have a route entry, other than the device's own. -/
def routedIds (s : State) : List Nat := (List.range 128).filter (fun d => hasEntry s d && s.link.linkId ≠ some d)

/-- The routing header (R561). -/
def routing (s : State) (dst kind dstPart srcPart rlen : Nat) : List Byte :=
  le 1 dst ++ le 1 (s.link.linkId.getD 255) ++ le 1 kind ++ le 1 15 ++ le 1 dstPart ++ le 1 srcPart ++ le 2 rlen

/-- Buffer class of a transaction that starts here and leaves by port `p` (R571). -/
def outClass (s : State) (p : Nat) : Nat := b2n (bitOf (tget 0 s.link.attrs p).toNat 2)

/-- Credits owed to the peer that the next flit returns, lowest buffer first: its number and how many (R551). (DEDUCED: log entry 49.) -/
def creditsDue (p : Port) : Nat × Nat :=
  match p.owed.find? (fun e => 0 < e.2) with
  | none => (0, 0)
  | some e => (e.1, min 15 e.2)

/-- A flit of kind `kind` as the port sends it next (R551, R553, R554). (DEDUCED: log entry 49.) -/
def nextFlit (p : Port) (kind : Nat) (vcc : Nat) (f : OutFlit) : Flit :=
  let c := creditsDue p
  { seq := p.txSeq, ackSeq := p.acked.getD 0, ackValid := p.acked.isSome, nak := p.nak, vc := vcc / 2, cls := vcc % 2, kind := kind
    sot := f.sot, eot := f.eot, crVcc := c.1, crCount := c.2, payload := f.payload }

/-- Puts a flit on the wire: a DATA or CONTROL flit takes the next SEQ and stays in the replay buffer (R553). -/
def emitFlit (p : Port) (kind : Nat) (vcc : Nat) (f : OutFlit) : Port :=
  let x := nextFlit p kind vcc f
  { p with
    txSeq := (p.txSeq + 1) % 256, replay := p.replay ++ [x], lastTx := some x
    lastBad := p.corruptNext && kind = 1, corruptNext := p.corruptNext && kind ≠ 1
    owed := if x.crCount = 0 then p.owed else tset p.owed x.crVcc (tget 0 p.owed x.crVcc - x.crCount) }

/-- The queue that is served next: SYNC, MGMT, MSG, then BULK, with a credit for its class (R558, R559). In the stopped state no MSG is
carried (R854); a MISWIRED port carries only HELLO (R595). -/
def nextQueue (stopped : Bool) (p : Port) : Option Nat :=
  [6, 7, 4, 5, 2, 3, 0, 1].find? (fun v =>
    !(tget [] p.queue v).isEmpty && 0 < tget 0 p.credits v && !(stopped && (v = 2 || v = 3)) && (!p.miswired || v = 4 || v = 5))

/-- Sends what the port's queues hold, while credits and the replay buffer allow, at most `n` flits (R553, R558, R559). -/
def pump (n : Nat) (stopped : Bool) (p : Port) : Port :=
  match n with
  | 0 => p
  | n + 1 =>
    if p.state ≠ .up || 64 ≤ p.replay.length then p
    else
      match nextQueue stopped p with
      | none => p
      | some v =>
        match tget [] p.queue v with
        | [] => p
        | f :: r =>
          pump n stopped (emitFlit { p with queue := tset p.queue v r, credits := tset p.credits v (tget 0 p.credits v - 1) }
            (if f.control then 2 else 1) v f)

/-- Lets port `p` send. (DEDUCED: log entry 49.) -/
def portPump (s : State) (p : Nat) : State := s.setPort p (pump 64 s.faults.stopped (s.port p))

/-- Queues flits at port `p` for virtual channel `vc` and sends what can go. -/
def enqueueFlits (s : State) (p vc : Nat) (l : List OutFlit) : State :=
  let x := s.port p
  let v := vc * 2 + outClass s p
  portPump (s.setPort p { x with queue := tset x.queue v (tget [] x.queue v ++ l) }) p

/-- A flit that holds one whole record. -/
def recordFlit (b : List Byte) : OutFlit := { sot := false, eot := false, control := false, payload := b }

/-- A MGMT record (R566) with the next SEQ. -/
def mgmtBytes (s : State) (dst dstPart srcPart mtype : Nat) (body : List Byte) : List Byte :=
  routing s dst 0 dstPart srcPart (16 + body.length) ++ le 2 mtype ++ le 2 0 ++ le 4 s.link.mgmtSeq.toNat ++ body

/-- Sends a MGMT record by port `p` (R566). -/
def sendMgmtAt (s : State) (p dst dstPart srcPart mtype : Nat) (body : List Byte) : State :=
  let b := mgmtBytes s dst dstPart srcPart mtype body
  enqueueFlits { s with link := { s.link with mgmtSeq := s.link.mgmtSeq + 1 } } p 2 [recordFlit b]

/-- Sends a MGMT record to a link-ID; without a route nothing is sent. -/
def sendMgmt (s : State) (dst dstPart srcPart mtype : Nat) (body : List Byte) : State :=
  match routePort s dst 0 with
  | none => s
  | some p => sendMgmtAt s p dst dstPart srcPart mtype body

/-- Sends a SYNC record of 48 bytes to a link-ID (R567). -/
def sendSync (s : State) (dst kind dstPart srcPart : Nat) (body : List Byte) : State :=
  match routePort s dst 0 with
  | none => s
  | some p => enqueueFlits s p 3 [recordFlit (bytesAt (routing s dst kind dstPart srcPart 48 ++ body) 0 48)]

/-- A MSG record enters the transmit queue of the port that its channel's number selects (R478, R480, R569). -/
def sendMsg (s : State) (dst part chan : Nat) (b : List Byte) : State :=
  match routePort s dst chan with
  | none => s
  | some p =>
    let x := s.port p
    if 256 ≤ x.msgQueue.length then s else s.setPort p { x with msgQueue := x.msgQueue ++ [{ part := part, bytes := b }] }

/-- Cuts a byte sequence into flit payloads of 244 bytes, zeros filling the last one (R560, R562). -/
def cutFlits (n : Nat) (b : List Byte) : List (List Byte) :=
  match n with
  | 0 => []
  | n + 1 => if b.length ≤ 244 then [bytesAt b 0 244] else b.take 244 :: cutFlits n (b.drop 244)

/-- The flits of a BULK transaction (R551, R560). -/
def bulkFlits (b : List Byte) : List OutFlit :=
  let l := cutFlits (b.length / 244 + 1) b
  (List.range l.length).map (fun i =>
    { sot := i = 0, eot := i + 1 = l.length, control := false, payload := l.getD i [] })

/-- The poison map of a BULK transaction: a bit per content word, padded to 8 bytes (R562). -/
def poisonMap (words : Nat) (poison : List Nat) : List Byte := le (8 * ((words + 63) / 64)) (maskOf poison)

/-- A BULK transaction as bytes: header, content, poison map (R561, R562). (UNVERIFIED: log entry 43.) -/
def bulkBytes (s : State) (dst kind dstPart srcPart xfer off engine status key : Nat) (content : List Byte) (poison : List Nat) : List Byte :=
  routing s dst kind dstPart srcPart 32 ++ le 4 xfer ++ le 4 content.length ++ le 8 off ++ le 1 engine
    ++ le 1 (b2n (!poison.isEmpty)) ++ le 2 status ++ le 4 key ++ content
    ++ (if poison.isEmpty then [] else poisonMap (content.length / 64) poison)

/-- Sends a BULK transaction by the port that its XFER_ID selects; without a route nothing is sent (R569). -/
def sendBulk (s : State) (dst kind dstPart srcPart xfer off engine status key : Nat) (content : List Byte) (poison : List Nat) : State :=
  match routePort s dst xfer with
  | none => s
  | some p => enqueueFlits s p 0 (bulkFlits (bulkBytes s dst kind dstPart srcPart xfer off engine status key content poison))

/-- COMPLETE for a transfer received (R563). -/
def sendComplete (s : State) (b : Bulk) (status : Nat) : State :=
  sendBulk s b.src 3 b.srcPart b.dstPart b.xfer 0 0 status 0 [] []

/-- A transfer that this device sends, with a new XFER_ID (R562): the number and the state, or none without a route (R564). -/
def sendXfer (s : State) (use : XferUse) (dst dstPart part kind off engine key : Nat) (content : List Byte) (poison : List Nat) :
    Option (Nat × State) :=
  let id := s.link.nextXfer
  match routePort s dst id with
  | none => none
  | some _ =>
    let s1 := sendBulk s dst kind dstPart part id off engine 0 key content poison
    some (id, { s1 with link := { s1.link with
                  nextXfer := (id + 1) % 2 ^ 32
                  xfers := s1.link.xfers ++ [{ id := id, use := use, dst := dst, dstPart := dstPart, part := part, length := content.length }] } })

/-- Port `p` may train: its attribute says so, or no routing image is loaded (R568, R570, R594). (DEDUCED: log entry 29.) -/
def mayTrain (s : State) (p : Nat) : Bool := s.link.linkId.isNone || bitOf (tget 0 s.link.attrs p).toNat 3

/-- DONE passage releases the link ports to begin training (R172, R594). (DEDUCED: log entry 29.) -/
def releaseLinks (s : State) : State :=
  let t := { s with link := { s.link with started := true } }
  (List.range 16).foldl
    (fun t p => let x := t.port p; if x.state = .off then t.setPort p { x with state := if mayTrain t p then .training else .disabled } else t) t

end Sys2Proof.Machine
end

