-- ==== Sys2Proof/Machine/ChanOps.lean ====
section
/-! DEFINITION. What message channels do: binding, sending, delivery, credits, NACK queues, and the closing of ends (R462–R495). -/

namespace Sys2Proof.Machine

def Endpoint.none : Endpoint := { kind := .sprout, owner := 0, port := 0, linkId := 0 }

/-- A FREE channel. -/
def Chan.free : Chan :=
  { state := .free, nack := false, depth := 0, sender := Endpoint.none, receiver := Endpoint.none, queue := [], transit := [], credits := 0
    creditTransit := 0, closeCause := 0, senderGone := false, receiverGone := false, sent := 0, delivered := 0, nacked := 0
    discarded := 0, peerChan := 255, txSeq := 0, rxSeq := 0, early := [], uncredited := 0 }

/-- Channel number `k`. -/
def State.chan (s : State) (k : Nat) : Chan := tget Chan.free s.chans.chan k
def State.setChan (s : State) (k : Nat) (c : Chan) : State := { s with chans := { s.chans with chan := tset s.chans.chan k c } }
/-- The number becomes FREE (R471). -/
def State.freeChan (s : State) (k : Nat) : State := { s with chans := { s.chans with chan := tdel s.chans.chan k } }

/-- Port page of port `p` of function `fn` (R484). -/
def State.page (s : State) (fn p : Nat) : PortPage := tget PortPage.init s.chans.pages (fn * 16 + p)
def State.setPage (s : State) (fn p : Nat) (x : PortPage) : State :=
  { s with chans := { s.chans with pages := tset s.chans.pages (fn * 16 + p) x } }

/-- Codes of endpoint kinds and channel states (R462, R471). -/
def EpKind.code : EpKind → Nat
  | .sprout => 0 | .host => 1 | .hazel => 2 | .remote => 3
def ChanState.code : ChanState → Nat
  | .free => 0 | .pending => 1 | .open => 2 | .closed => 3

/-- The 8-byte endpoint descriptor (R462). -/
def Endpoint.bytes (e : Endpoint) : List Byte := fields 8 [(0, le 1 e.kind.code), (1, le 1 e.owner), (2, le 1 e.port), (3, le 1 e.linkId)]

/-- The endpoint lies on this device. -/
def Endpoint.isLocal (e : Endpoint) : Bool := e.kind ≠ .remote

/-- Function `fn` could have opened the channel (R472). -/
def entitled (c : Chan) (fn : Nat) : Bool :=
  let own (e : Endpoint) : Bool :=
    match e.kind with
    | .remote => true
    | .sprout => e.owner + 1 = fn
    | _ => e.owner = fn
  fn = 0 || (own c.sender && own c.receiver)

/-- An event of channel `k`: at PF0 and at every VF entitled to the channel (R497). (DEDUCED: log entry 48.) -/
def chanEvent (s : State) (k code : Nat) (c : Chan) (payload : List Byte) : State :=
  let fns := (List.range 17).filter (entitled c)
  let part := ((fns.filter (· ≠ 0)).head?.map (· - 1)).getD 255
  forFns s fns (fun t fn =>
    raiseAt t fn { partition := part, code := code, tag := 0, time := s.time, payload := bytesAt ([BitVec.ofNat 8 k] ++ payload) 0 40 })

/-- CHAN_CLOSED (R497). -/
def closedEvent (s : State) (k : Nat) (c : Chan) (cause status : Nat) : State :=
  chanEvent s k 0x0502 c (le 1 cause ++ le 2 status ++ le 1 c.queue.length)

/-- Raises vector 3 where the port's page enables condition `b` (R487). -/
def portIrq (s : State) (e : Endpoint) (b : Nat) : State :=
  if e.kind = .host && bitOf (s.page e.owner e.port).ctrl b then raiseVec s e.owner 3 else s

/-- A record of the MSG channel for channel `c`'s remote end (R565): its bytes 0x08 to 0x0F and the words after them. -/
def msgRecord (s : State) (c : Chan) (k kind : Nat) (tail : List Byte) (words : List W64) : State :=
  let r := if c.sender.kind = .remote then c.sender else c.receiver
  let l := if c.sender.kind = .remote then c.receiver else c.sender
  let part := if l.kind = .sprout then l.owner else 255
  let b := routing s r.linkId kind r.owner part (16 + 8 * words.length) ++ bytesAt tail 0 8 ++ words.flatMap (fun w => le 8 w.toNat)
  sendMsg s r.linkId part k b

/-- The channel has an end on another device. -/
def Chan.cross (c : Chan) : Bool := c.sender.kind = .remote || c.receiver.kind = .remote

/-- CLOSE to the remote end (R565). (DEDUCED: log entry 48.) -/
def sendClose (s : State) (k : Nat) (c : Chan) (cause : Nat) : State :=
  msgRecord s c k 5 (le 1 c.peerChan ++ le 1 k ++ le 1 cause) []

/-- Ends of channel `k` go (R491): the channel closes with the cause, or becomes FREE when neither end survives. (DEDUCED: log entry 48.) -/
def loseEnds (s : State) (k : Nat) (gs gr : Bool) (cause : Nat) : State :=
  let c := s.chan k
  let gs := gs && !c.senderGone
  let gr := gr && !c.receiverGone
  if c.state = .free || !(gs || gr) then s
  else
    let tell := c.cross && c.state ≠ .closed && !((gs && c.sender.kind = .remote) || (gr && c.receiver.kind = .remote))
    let s1 := if tell then sendClose s k c cause else s
    let c1 : Chan :=
      { c with
        state := .closed, closeCause := if c.state = .closed then c.closeCause else cause
        senderGone := c.senderGone || gs, receiverGone := c.receiverGone || gr
        queue := if gr then [] else c.queue, transit := if gr then [] else c.transit, early := if gr then [] else c.early
        credits := 0, creditTransit := 0 }
    if c1.senderGone && c1.receiverGone then s1.freeChan k
    else
      let s2 := s1.setChan k c1
      let alive := if c1.senderGone then c1.receiver else c1.sender
      if !alive.isLocal then s2
      else closedEvent (portIrq s2 alive 2) k c1 c1.closeCause 0x0501

/-- Closes every channel with an endpoint for which `p` holds (R437, R491); the number of channels closed. -/
def loseWhere (s : State) (p : Endpoint → Bool) (cause : Nat) : State :=
  s.chans.chan.foldl (fun t e => loseEnds t e.1 (p e.2.sender) (p e.2.receiver) cause) s

/-- How many channels have a live endpoint for which `p` holds. -/
def endsWhere (s : State) (p : Endpoint → Bool) : Nat :=
  (s.chans.chan.filter (fun e => e.2.state ≠ .free && ((p e.2.sender && !e.2.senderGone) || (p e.2.receiver && !e.2.receiverGone)))).length

/-- Endpoints of partition `p`'s leader Sprout core, and of function `fn`. -/
def Endpoint.ofPart (p : Nat) (e : Endpoint) : Bool := e.kind = .sprout && e.owner = p
def Endpoint.ofFn (fn : Nat) (e : Endpoint) : Bool := (e.kind = .host || e.kind = .hazel) && e.owner = fn

/-- The channel that a local port is bound to, and whether it is the receiving end (R463). -/
def boundTo (s : State) (kind : EpKind) (owner port : Nat) : Option (Nat × Bool) :=
  let is (e : Endpoint) : Bool := e.kind = kind && e.owner = owner && e.port = port
  match s.chans.chan.find? (fun e => e.2.state ≠ .free && ((is e.2.sender && !e.2.senderGone) || (is e.2.receiver && !e.2.receiverGone))) with
  | none => none
  | some e => some (e.1, is e.2.receiver && !e.2.receiverGone)

/-- Entries of the pool of 4,096 that channels hold (R464). -/
def poolUsed (s : State) : Nat :=
  ((s.chans.chan.filter (fun e => e.2.state ≠ .free && e.2.receiver.isLocal && !e.2.receiverGone)).map (fun e => e.2.depth)).foldl (· + ·) 0

/-- An entry enters a NACK status queue of 16 (R470). -/
def NackQueue.push (q : NackQueue) (tag : W16) (port : Nat) : NackQueue :=
  if q.entries.length < 16 then { q with entries := q.entries ++ [{ tag := tag, port := port, lost := false }] } else { q with lost := true }

/-- The oldest entry, as CH_NACK_POP and SP_CH_NACK read it (R484, R488). -/
def NackQueue.pop (q : NackQueue) : W32 × NackQueue :=
  match q.entries with
  | [] => (0, q)
  | e :: r =>
    (BitVec.ofNat 32 (e.tag.toNat + 65536 * e.port + 2 ^ 30 * b2n q.lost + 2 ^ 31), { entries := r, lost := false })

/-- NACK_FULL reaches the sending endpoint's status queue (R469, R470, R487). -/
def nackTo (s : State) (e : Endpoint) (tag : W16) : State :=
  match e.kind with
  | .sprout =>
    { s with chans := { s.chans with partNack := tset s.chans.partNack e.owner ((tget NackQueue.init s.chans.partNack e.owner).push tag e.port) } }
  | .host =>
    let q := tget NackQueue.init s.chans.fnNack e.owner
    let s1 := { s with chans := { s.chans with fnNack := tset s.chans.fnNack e.owner (q.push tag e.port) } }
    if q.entries.isEmpty then raiseVec s1 e.owner 3 else s1
  | _ => s

/-- A message enters channel `k`'s receive queue (R467, R487). -/
def enterQueue (s : State) (k : Nat) (m : Message) : State :=
  let c := s.chan k
  let s1 := s.setChan k { c with queue := c.queue ++ [m], delivered := c.delivered + 1 }
  if c.queue.isEmpty then portIrq s1 c.receiver 0 else s1

/-- A credit goes back to the sender after a pop (R468, R482). -/
def giveCredit (s : State) (k : Nat) : State :=
  let c := s.chan k
  if c.nack || c.state ≠ .open then s
  else if c.sender.kind = .remote then s.setChan k { c with uncredited := c.uncredited + 1 }
  else s.setChan k { c with creditTransit := c.creditTransit + 1 }

/-- The receiver of channel `k` pops its oldest message. -/
def popMessage (s : State) (k : Nat) : Option (Message × State) :=
  let c := s.chan k
  match c.queue with
  | [] => none
  | m :: r => some (m, giveCredit (s.setChan k { c with queue := r }) k)

/-- Posts CHAN_MESSAGE events of a HAZEL receiver while its function's ring takes them, at most `n` (R464, R497, R498). -/
def relay (n : Nat) (s : State) (k : Nat) : State :=
  match n with
  | 0 => s
  | n + 1 =>
    let c := s.chan k
    let fn := c.receiver.owner
    let m := s.mb fn
    let ready := ringUsable s fn && evtRoom m && m.pend.isEmpty && s.host.upd.phase ≠ 2 && s.ready
    if !(ready || masked m 0x0503) then s
    else
      match popMessage s k with
      | none => s
      | some (msg, s1) =>
        let body := fields 40 [(0, le 1 k), (1, le 1 msg.words.length), (2, le 2 msg.tag.toNat), (8, msg.words.flatMap (fun w => le 8 w.toNat))]
        relay n (raiseAt s1 fn { partition := ownPart fn, code := 0x0503, tag := 0, time := s.time, payload := body }) k

/-- Posts the waiting messages of every HAZEL receiver of function `fn`. -/
def relayAll (s : State) (fn : Nat) : State :=
  s.chans.chan.foldl (fun t e => if e.2.receiver.kind = .hazel && e.2.receiver.owner = fn then relay 64 t e.1 else t) s

/-- A local sender of OPEN channel `k` sends a message (R466–R469, R565). -/
def chanSend (s : State) (k : Nat) (m : Message) : State :=
  let c := s.chan k
  let c1 := { c with sent := c.sent + 1, credits := if c.nack then c.credits else c.credits - 1 }
  if c.receiver.kind = .remote then
    msgRecord (s.setChan k { c1 with txSeq := c.txSeq + 1 }) c k 1
      (le 1 c.peerChan ++ le 1 k ++ le 2 m.tag.toNat ++ le 1 m.words.length ++ le 1 0 ++ le 2 c.txSeq.toNat) m.words
  else s.setChan k { c1 with transit := c.transit ++ [m] }

/-- The send end of an OPEN channel may send now: it holds a credit, and its route's MSG queue has room (R468, R480, R488). -/
def canSend (s : State) (k : Nat) : Bool :=
  let c := s.chan k
  (c.nack || 0 < c.credits) &&
    (c.receiver.kind ≠ .remote ||
      match routePort s c.receiver.linkId k with
      | none => true
      | some p => (s.port p).msgQueue.length < 256)

/-- CH_PORT_STATUS of a local port (R484). -/
def portStatus (s : State) (kind : EpKind) (owner port discards : Nat) : W32 :=
  match boundTo s kind owner port with
  | none => BitVec.ofNat 32 (2 ^ 24 * sat 255 discards)
  | some (k, rx) =>
    let c := s.chan k
    let count := if rx then c.queue.length else if c.nack then 0 else c.credits
    BitVec.ofNat 32 (count + 256 + 512 * b2n rx + 1024 * b2n c.nack + 2048 * b2n (c.state = .open) + 4096 * b2n (c.state = .closed)
      + 8192 * c.closeCause + 65536 * k + 2 ^ 24 * sat 255 discards)

/-- The staged words of a send: `n` of them. -/
def staged (t : Tab W64) (n : Nat) : List W64 := (List.range n).map (fun i => tget 0 t i)

end Sys2Proof.Machine
end

