-- ==== Sys2Proof/Machine/BarrierOps.lean ====
section
/-! DEFINITION. Barriers: arriving, and what the root answers (R574, R585). -/

namespace Sys2Proof.Machine

/-- Bytes 0x08 on of an ARRIVE or RELEASE (R567). -/
def syncBody (barrier : W64) (members : BitVec 128) (v0 v1 : W32) (result : Nat) : List Byte :=
  le 8 barrier.toNat ++ le 16 members.toNat ++ le 8 0 ++ le 4 v0.toNat ++ le 4 v1.toNat ++ le 1 result

/-- Partition `p`'s peer table admits partition `srcPart` of device `src`; device traffic is admitted from every link-ID with a route entry
(R574). (DEDUCED: log entry 51.) -/
def admits (s : State) (p src srcPart : Nat) : Bool :=
  if srcPart = 255 then hasEntry s src else (tget 0#16 (tget [] s.link.peers p) src).getLsbD srcPart

/-- A RELEASE goes to a member: on the link, or to this device's own member. (DEDUCED: log entry 51.) -/
def releaseTo (s : State) (dst dstPart srcPart : Nat) (b : W64) (m : BitVec 128) (v0 v1 : W32) (result : Nat) : State :=
  if s.link.linkId = some dst then
    { s with link := { s.link with releases := s.link.releases ++
        [{ src := dst, srcPart := srcPart, dstPart := dstPart, barrier := b, members := m, v0 := v0, v1 := v1, result := result }] } }
  else sendSync s dst 2 dstPart srcPart (syncBody b m v0 v1 result)

/-- Values of a RELEASE that comes before the root's own arrival: the manual does not give them. -/
def ownValues (s : State) (b : Option Barrier) : (W32 × W32) × State :=
  match b.bind (fun b => b.arrivals.find? (fun a => s.link.linkId = some a.src)) with
  | some a => ((a.v0, a.v1), s)
  | none =>
    let x := s.takeFree (2 ^ 32)
    let y := x.2.takeFree (2 ^ 32)
    ((BitVec.ofNat 32 x.1, BitVec.ofNat 32 y.1), y.2)

/-- RESULT, V0 and V1 of a full barrier (R585). (DEDUCED: log entry 51.) -/
def barrierResult (s : State) (b : Barrier) : Nat × W32 × W32 :=
  match b.arrivals with
  | [] => (0, 0, 0)
  | a :: r =>
    let own := (b.arrivals.find? (fun x => s.link.linkId = some x.src)).getD a
    let d0 := r.any (fun x => x.v0 ≠ a.v0)
    let d1 := r.any (fun x => x.v1 ≠ a.v1)
    if r.any (fun x => x.members ≠ a.members) then (2, own.v0, own.v1)
    else if d0 || d1 then (1, BitVec.ofNat 32 (b2n d0), BitVec.ofNat 32 (b2n d1))
    else (0, own.v0, own.v1)

/-- Every link-ID of the first arrival's MEMBERS has arrived. (DEDUCED: log entry 51.) -/
def barrierFull (b : Barrier) : Bool :=
  match b.arrivals with
  | [] => false
  | a :: _ => (List.range 128).all (fun i => !a.members.getLsbD i || b.arrivals.any (fun x => x.src = i))

/-- An ARRIVE reaches this device as root (R574, R585). (DEDUCED: log entry 51.) -/
def arriveAtRoot (s : State) (r : SyncRec) : State :=
  let held := s.link.barriers.find? (fun b => b.id = r.barrier)
  let a : Arrival := { src := r.src, srcPart := r.srcPart, members := r.members, v0 := r.v0, v1 := r.v1 }
  let alone (res : Nat) : State :=
    let v := ownValues s held
    releaseTo v.2 r.src r.srcPart r.dstPart r.barrier r.members v.1.1 v.1.2 res
  if s.link.linkId ≠ some r.src && r.dstPart ≠ 255 && !admits s r.dstPart r.src r.srcPart then alone 4
  else
    match held with
    | none =>
      if 256 ≤ s.link.barriers.length then alone 3
      else
        let b : Barrier := { id := r.barrier, arrivals := [a] }
        finishOrHold s b r.dstPart false
    | some b =>
      if b.arrivals.any (fun x => x.src = r.src) then s
      else finishOrHold s { b with arrivals := b.arrivals ++ [a] } r.dstPart true
where
  /-- Releases every member of a full barrier; otherwise the barrier stays open. -/
  finishOrHold (s : State) (b : Barrier) (rootPart : Nat) (_old : Bool) : State :=
    let rest := s.link.barriers.filter (fun x => x.id ≠ b.id)
    if barrierFull b then
      let v := barrierResult s b
      b.arrivals.foldl (fun t x => releaseTo t x.src x.srcPart rootPart b.id x.members v.2.1 v.2.2 v.1)
        { s with link := { s.link with barriers := rest } }
    else { s with link := { s.link with barriers := rest ++ [b] } }

/-- The bitmap of the members' link-IDs (R567). -/
def memberBits (l : List (Nat × Nat)) : BitVec 128 := l.foldl (fun m x => m ||| (1#128 <<< x.1)) 0

/-- The root of a member list: the lowest link-ID, with its partition (R585). -/
def rootOf (l : List (Nat × Nat)) : Nat × Nat :=
  match l with
  | [] => (0, 255)
  | x :: r => r.foldl (fun a b => if b.1 < a.1 then b else a) x

/-- Partition `part` of this device arrives at a barrier of the members listed (R585). -/
def arrive (s : State) (part : Nat) (barrier : W64) (members : List (Nat × Nat)) (v0 v1 : W32) : State :=
  let root := rootOf members
  let m := memberBits members
  if s.link.linkId = some root.1 then
    arriveAtRoot s { src := root.1, srcPart := part, dstPart := root.2, barrier := barrier, members := m, v0 := v0, v1 := v1, result := 0 }
  else sendSync s root.1 1 root.2 part (syncBody barrier m v0 v1 0)

end Sys2Proof.Machine
end

