-- ==== Sys2Proof/Machine/DevMem.lean ====
section
/-! DEFINITION. The device address space: HBM and memory cells as bytes with poison, and the tracked writes of the engines (R284–R292,
R499–R504, R664, R681–R684). -/

namespace Sys2Proof.Machine

/-- Bytes of HBM (R499), first byte of the memory-cell window and its size. (DEDUCED: log entry 45.) -/
def hbmSize : Nat := 0x2400000000
def cellBase : Nat := 0x800000000000
def cellSize : Nat := 640 * 0x100000

/-- `n` bytes from `a` lie in HBM; in the memory-cell window. -/
def inHbm (a n : Nat) : Bool := a + n ≤ hbmSize
def inCells (a n : Nat) : Bool := cellBase ≤ a && a + n ≤ cellBase + cellSize

/-- Logical pod of an address of the memory-cell window. (DEDUCED: log entry 45.) -/
def podOfAddr (a : Nat) : Nat := (a - cellBase) / 0x100000
/-- Memory cell of such an address (0 M0, 1 M1), its bank, and its word within the cell. (DEDUCED: log entry 45.) -/
def cellOfAddr (a : Nat) : Nat := (a - cellBase) % 0x100000 / 0x80000
def bankOfAddr (a : Nat) : Nat := (a - cellBase) % 0x80000 / 0x20000
def cellWordOf (a : Nat) : Nat := (a - cellBase) % 0x80000 / 64
/-- Word number within the window of word `w` of cell `m` of pod `k`. -/
def cellWord (k m w : Nat) : Nat := k * 16384 + m * 8192 + w

/-- Region of an address of the memory-cell window. -/
def regionOfAddr (a : Nat) : Nat := regionOfPod (podOfAddr a)

/-- HBM unit and 64 KiB granule of an address (R423, R504). -/
def unitOf (a : Nat) : Nat := a / 0x10000000
def granuleOf (a : Nat) : Nat := a / 0x10000

/-- HBM stack of an address, and its pseudo-channel (R499). -/
def stackOf (a : Nat) : Nat := a / 256 % 192 % 6
def pseudoOf (a : Nat) : Nat := a / 256 % 192 / 6

/-- The bytes stored at a device address. -/
def devBytes (s : State) (a n : Nat) : List Byte :=
  if cellBase ≤ a then mread 0 s.fab.cells (a - cellBase) n else mread 0 s.hbm.mem a n

/-- The word of 64 bytes that holds address `a` is poisoned. -/
def wordPoisoned (s : State) (a : Nat) : Bool :=
  if cellBase ≤ a then s.fab.cellPoison.contains ((a - cellBase) / 64) else s.hbm.poison.contains (a / 64)

/-- Addresses of the 64-byte words that `n` bytes from `a` touch. -/
def wordsTouched (a n : Nat) : List Nat := if n = 0 then [] else (span (a / 64) ((a + n - 1) / 64 + 1 - a / 64)).map (· * 64)

/-- Addresses of the poisoned words that `n` bytes from `a` touch. -/
def poisonedWords (s : State) (a n : Nat) : List Nat := (wordsTouched a n).filter (wordPoisoned s)

/-- Poison of a stored word after `len` of its 64 bytes are written with data of poison `p` (R292, R501). -/
def markAfter (l : List Nat) (w len : Nat) (p : Bool) : List Nat := if p then sins l w else if len = 64 then sdel l w else l

/-- HBM with `data` written at `a`; `pois off n` says whether the bytes `off` to `off + n - 1` of the data carry poison (R501). A whole
new word carries no ECC error. -/
def hbmPut (h : Hbm) (a : Nat) (data : List Byte) (pois : Nat → Nat → Bool) : Hbm :=
  (wordsTouched a data.length).foldl
    (fun h w =>
      let lo := max a w
      let n := min (a + data.length) (w + 64) - lo
      { h with poison := markAfter h.poison (w / 64) n (pois (lo - a) n), ecc := if n = 64 then tdel h.ecc (w / 64) else h.ecc })
    { h with mem := mwrite 0 h.mem a data }

/-- Memory cells with `data` written at `a` (R291, R292). A write drops a write-back that has not taken place. -/
def cellPut (f : Fabric) (a : Nat) (data : List Byte) (pois : Nat → Nat → Bool) : Fabric :=
  (wordsTouched a data.length).foldl
    (fun f w =>
      let lo := max a w
      let n := min (a + data.length) (w + 64) - lo
      let k := (w - cellBase) / 64
      { f with cellPoison := markAfter f.cellPoison k n (pois (lo - a) n), cellEcc := if n = 64 then tdel f.cellEcc k else f.cellEcc
               writeBack := sdel f.writeBack k })
    { f with cells := mwrite 0 f.cells (a - cellBase) data }

/-- Poisons whole the words that `n` bytes from device address `a` touch (R435, R515). -/
def poisonRange (s : State) (a n : Nat) : State :=
  let ws := wordsTouched a n
  if cellBase ≤ a then { s with fab := { s.fab with cellPoison := ws.foldl (fun l w => sins l ((w - cellBase) / 64)) s.fab.cellPoison } }
  else { s with hbm := { s.hbm with poison := ws.foldl (fun l w => sins l (w / 64)) s.hbm.poison } }

/-- Granules that `n` bytes from `a` touch. -/
def granules (a n : Nat) : List Nat := if n = 0 then [] else span (a / 0x10000) ((a + n - 1) / 0x10000 + 1 - a / 0x10000)

/-- The granule belongs to the epoch being taken: marked in it, or of a unit drained whole, and not yet drained or copied (R666, R681). -/
def frozenLeft (s : State) (g : Nat) : Bool :=
  (s.husk.frozenMarks.contains g || s.husk.current.any (fun e => e.wholeUnits.contains (g / 4096) && (e.state = .open || e.state = .frozen || e.state = .draining)))
    && !s.husk.settled.contains g

/-- Entries of the reserve area (R681). -/
def reserveSize (s : State) : Nat := (s.husk.cfg.map (fun c => c.reserveUnits * 4096)).getD 0

/-- The lowest free reserve entry. -/
def reserveFree (s : State) : Option Nat :=
  let used := s.husk.reserve.map (fun r => r.entry)
  if used.length < reserveSize s then (List.range (used.length + 1)).find? (fun e => !used.contains e) else none

/-- Functions that see the epoch: PF0 and the VFs of its participants. -/
def epochFns (mask : Nat) : List Nat := 0 :: (bitsSet mask 16).map (· + 1)

/-- An event of the epoch being taken, at PF0 and its participants' VFs. (DEDUCED: log entry 55.) -/
def epochEvent (s : State) (mask code : Nat) (payload : List Byte) : State :=
  forFns s (epochFns mask) (fun t fn =>
    raiseAt t fn { partition := ownPart fn, code := code, tag := 0, time := s.time, payload := bytesAt payload 0 40 })

/-- RESERVE_FULL, once for the epoch (R684). (DEDUCED: log entry 55.) -/
def reserveFull (s : State) : State :=
  if s.husk.fullRaised then s
  else
    let mask := (s.husk.current.map (fun e => e.partMask)).getD 0
    epochEvent { s with husk := { s.husk with fullRaised := true } } mask 0x0A03
      (le 8 ((s.husk.current.map (fun e => e.number)).getD 0) ++ le 4 (reserveSize s))

/-- A granule that needs a copy claims a reserve entry, or finds the reserve full (R681, R682, R684). -/
def cowClaim (s : State) (part g : Nat) : State :=
  if s.husk.reserve.any (fun r => r.granule = g) then s
  else
    match reserveFree s with
    | none => reserveFull s
    | some e =>
      { s with husk := { s.husk with
          reserve := s.husk.reserve ++ [{ entry := e, granule := g, part := part, copied := false, seq := none, written := false, order := s.husk.nextOrder }]
          nextOrder := s.husk.nextOrder + 1, cowTotal := s.husk.cowTotal + 1
          snap := s.husk.snap.map (fun x => { x with cow := x.cow + 1 }) } }

/-- A partition holds unit `u` in its windows. -/
def unitGranted (s : State) (u : Nat) : Bool := s.part.any (fun p => p.2.windows.any (fun w => w.1 ≤ u && u < w.1 + w.2))

/-- A tracked write within one granule is applied, and marks the granule in the open epoch when its unit is granted (R504, R660, R664). -/
def applyTracked (s : State) (a : Nat) (data : List Byte) (pois : Nat → Nat → Bool) : State :=
  { s with hbm := hbmPut s.hbm a data pois
           husk := if unitGranted s (unitOf a) then { s.husk with openMarks := sins s.husk.openMarks (granuleOf a) } else s.husk }

/-- A tracked write within one granule by a writer of partition `part` (16 for DEVICE): applied, or held for a copy (R681, R682, R684). -/
def trackedPiece (s : State) (part a : Nat) (data : List Byte) (pois : Nat → Nat → Bool) : State :=
  let g := granuleOf a
  if frozenLeft s g then
    let t := { s with husk := { s.husk with
      heldWrites := s.husk.heldWrites ++ [{ granule := g, part := part, addr := a, data := data, poison := pois 0 data.length }] } }
    cowClaim t part g
  else applyTracked s a data pois

/-- Cuts `n` bytes from `a` at multiples of `z`: address and length of each piece, at most `fuel` of them. -/
def cutAt (fuel z a n : Nat) : List (Nat × Nat) :=
  match fuel with
  | 0 => []
  | fuel + 1 => if n = 0 then [] else
    let k := min n (z - a % z)
    (a, k) :: cutAt fuel z (a + k) (n - k)

/-- The pieces of `n` bytes from `a` that lie in one granule each, held pieces in 64-byte words so that each keeps its own poison. -/
def trackedPieces (s : State) (a n : Nat) : List (Nat × Nat) :=
  (cutAt (n + 1) 0x10000 a n).flatMap (fun p => if frozenLeft s (granuleOf p.1) then cutAt (p.2 + 1) 64 p.1 p.2 else [p])

/-- A write to HBM by a tracked writer (R504). (DEDUCED: log entry 55.) -/
def trackedWrite (s : State) (part a : Nat) (data : List Byte) (pois : Nat → Nat → Bool) : State :=
  (trackedPieces s a data.length).foldl
    (fun t p => trackedPiece t part p.1 (bytesAt (data.drop (p.1 - a)) 0 p.2) (fun o n => pois (p.1 - a + o) n)) s

/-- A write of an engine to a device address: tracked in HBM, direct in a memory cell. -/
def engineWrite (s : State) (part a : Nat) (data : List Byte) (pois : Nat → Nat → Bool) : State :=
  if cellBase ≤ a then { s with fab := cellPut s.fab a data pois } else trackedWrite s part a data pois

/-- Data without poison. -/
def clean : Nat → Nat → Bool := fun _ _ => false

/-- Some write to these bytes is still held (R681). (DESIGN CHOICE: log entry 41.) -/
def writeHeld (s : State) (a n : Nat) : Bool := s.husk.heldWrites.any (fun h => h.addr < a + n && a < h.addr + h.data.length)

/-- HBM units that a partition's windows hold. -/
def Part.units (x : Part) : List Nat := x.windows.flatMap (fun w => span w.1 w.2)
/-- Units of window space. -/
def Part.unitCount (x : Part) : Nat := (x.windows.map (fun w => w.2)).foldl (· + ·) 0

/-- `n` bytes from `a` lie in the HBM windows of a partition. -/
def Part.ownsHbm (x : Part) (a n : Nat) : Bool := inHbm a n && (if n = 0 then true else (span (unitOf a) (unitOf (a + n - 1) + 1 - unitOf a)).all x.units.contains)

/-- `n` bytes from `a` lie in the memory-cell window of the partition's regions. -/
def Part.ownsCells (x : Part) (a n : Nat) : Bool :=
  inCells a n && (if n = 0 then true else (span (podOfAddr a) (podOfAddr (a + n - 1) + 1 - podOfAddr a)).all (fun k => x.regions.contains (regionOfPod k)))

/-- A function may name these bytes: mapped memory for PF0 (R29), its partition's own for a VF (R30). -/
def mayName (s : State) (fn a n : Nat) : Bool :=
  if fn = 0 then inHbm a n || inCells a n else (s.pt (fn - 1)).ownsHbm a n || (s.pt (fn - 1)).ownsCells a n

/-- Window-space offset `o` of partition `x` as a device address (R424). -/
def windowAddr (ws : List (Nat × Nat)) (o : Nat) : Option Nat :=
  match ws with
  | [] => none
  | w :: r => if o < w.2 * 0x10000000 then some (w.1 * 0x10000000 + o) else windowAddr r (o - w.2 * 0x10000000)

/-- The pieces, as device addresses, of `n` bytes of window space from `o` on; none where they run past its end. -/
def windowPieces (ws : List (Nat × Nat)) (o n : Nat) : Option (List (Nat × Nat)) :=
  (cutAt (n / 0x10000000 + 2) 0x10000000 o n).foldr
    (fun p r => match windowAddr ws p.1, r with | some a, some l => some ((a, p.2) :: l) | _, _ => none) (some [])

/-- `n` bytes of window space as device addresses, when they all lie in the windows. -/
def Part.spaceSize (x : Part) : Nat := x.unitCount * 0x10000000

/-- Applies a write of window-space bytes (R509, R561). -/
def windowWrite (s : State) (part o : Nat) (data : List Byte) (pois : Nat → Nat → Bool) : State :=
  match windowPieces (s.pt part).windows o data.length with
  | none => s
  | some ps => (ps.foldl (fun (acc : State × Nat) p =>
      (trackedWrite acc.1 part p.1 (bytesAt (data.drop acc.2) 0 p.2) (fun i n => pois (acc.2 + i) n), acc.2 + p.2)) (s, 0)).1

end Sys2Proof.Machine
end

