-- ==== Sys2Proof/Machine/TraceOps.lean ====
section
/-! DEFINITION. Trace sessions and grants: their ends, and the packets that sessions take in (R809–R835). -/

namespace Sys2Proof.Machine

/-- Function `fn`'s trace session. -/
def State.ses (s : State) (fn : Nat) : Session := tget Session.init s.trace.sessions fn
def State.setSes (s : State) (fn : Nat) (x : Session) : State :=
  { s with trace := { s.trace with sessions := tset s.trace.sessions fn x } }

/-- A session changes its state, with TRACE_STATE (R835). -/
def sesState (s : State) (fn : Nat) (x : Session) (new : TraceState) (cause : Nat) : State :=
  let t := s.setSes fn { x with state := new }
  if x.state = new then t
  else
    raiseAt t fn { partition := ownPart fn, code := 0x0C01, tag := 0, time := s.time
                   payload := fields 40 [(0, le 1 x.state.code), (1, le 1 new.code), (2, le 1 cause)] }

/-- The HBM units of a session's UNITS sink are released. -/
def releaseSink (s : State) (x : Session) : State :=
  { s with hbm := { s.hbm with reserved := s.hbm.reserved.filter (fun u => !x.holds u) } }

/-- A session is stopped and its configuration cleared (R834); a TRACE.STOP that waits ends with a status. -/
def clearSession (s : State) (fn cause status : Nat) : State :=
  let x := s.ses fn
  let s1 := match x.stopping with | some (f, id, _) => finishSt s f id status | none => s
  let s2 := sesState (releaseSink s1 x) fn x .unconfigured cause
  s2.setSes fn Session.init

/-- A DRIVE or WINDOW session loses its sink (R821); a TRACE.STOP that waits for it ends BAD_STATE. -/
def loseSink (s : State) (fn : Nat) : State :=
  let x := s.ses fn
  if x.state = .unconfigured || x.state = .sinkLost then s
  else
    let t := match x.stopping with | some (f, id, _) => finishSt s f id 0x0008 | none => s
    sesState t fn { t.ses fn with stopping := none, buffer := [], staged := [] } .sinkLost 2

/-- TRACE_GRANT at PF0, the requester and the VFs of the partitions in scope (R833): 0 begun, 1 revoked, 2 expired. -/
def grantEvent (s : State) (id what : Nat) (g : TraceGrant) : State :=
  let fns := (List.range 17).filter (fun fn => fn = 0 || fn = g.requester || bitOf g.scope (fn - 1))
  forFns s fns (fun t fn =>
    raiseAt t fn { partition := ownPart fn, code := 0x0C02, tag := 0, time := s.time
                   payload := fields 40 [(0, le 1 id), (1, le 1 what), (2, le 1 g.requester), (4, le 2 g.scope), (6, le 2 g.sources), (8, le 8 g.expiry.toNat)] })

/-- A grant ends (R815). -/
def endGrant (s : State) (id what : Nat) : State :=
  match tfind s.trace.grants id with
  | none => s
  | some g => grantEvent { s with trace := { s.trace with grants := tdel s.trace.grants id } } id what g

/-- Ends every grant for which `p` holds. -/
def endGrants (s : State) (p : TraceGrant → Bool) : State :=
  s.trace.grants.foldl (fun t g => if p g.2 then endGrant t g.1 1 else t) s

/-- What a partition reset or FLR of partition `p` does to the trace unit (R108, R815, R834). -/
def traceReset (s : State) (p : Nat) : State :=
  endGrants (clearSession s (p + 1) 3 0x000E) (fun g => bitOf g.scope p || g.requester = p + 1)

/-- Unsigned LEB128 (R823). -/
def varint (fuel n : Nat) : List Byte :=
  match fuel with
  | 0 => [BitVec.ofNat 8 n]
  | fuel + 1 => if n < 128 then [BitVec.ofNat 8 n] else BitVec.ofNat 8 (n % 128 + 128) :: varint fuel (n / 128)
def leb (n : Nat) : List Byte := varint 9 n

/-- PARTITION, SLOT, FOLDS and SPROUT_PC of a SYNC or PART packet (R824). -/
def ctxFields (s : State) (x : Session) (p : Nat) : List Byte :=
  let y := s.pt p
  let c := s.sprout y.leader
  let live := p < 16 && y.w ≠ 0
  let pc := if live && bitOf x.sources 0 && c.run ≠ .halted then c.pc.toNat else 0xFFFFFFFF
  le 1 p ++ le 1 (if live then y.run.active.getD 255 else 255) ++ le 4 (if live then y.audit.folds.toNat else 0) ++ le 4 pc

/-- A SYNC packet at lc position `at_` (R822, R824). (DEDUCED: log entry 64.) -/
def syncBytes (s : State) (x : Session) (at_ : Nat) : List Byte :=
  0x01 :: (le 8 (s.time.toNat - (s.trace.lc - at_) * 5 / 6) ++ ctxFields s x x.context ++ le 4 x.id.toNat ++ le 4 x.block.toNat)

/-- A packet enters the capture buffer, or is dropped while the buffer is full (R819). -/
def Session.take (x : Session) (at_ : Nat) (b : List Byte) : Session :=
  match x.dropping with
  | some (a, _) => { x with dropping := some (a, at_) }
  | none =>
    if 65536 < x.buffer.length + b.length then { x with dropping := some (at_, at_) }
    else { x with buffer := x.buffer ++ b, made := x.made + b.length }

/-- A block begins with a SYNC at lc position `at_` when the last one is full (R822). (DEDUCED: log entry 64.) -/
def openBlock (s : State) (x : Session) (at_ : Nat) : Session :=
  if x.made % x.interval ≠ 0 || x.dropping.isSome then x
  else
    let y := x.take at_ (syncBytes s x at_)
    if y.dropping.isSome then y else { y with block := y.block + 1, lastLc := at_ }

/-- PAD bytes up to the end of the block. -/
def padBlock (x : Session) : Session :=
  let r := x.made % x.interval
  if r = 0 then x else x.take x.lastLc (List.replicate (x.interval - r) 0)

/-- Places a packet whose bytes depend on the position before it; its own position becomes `dest` (R822, R825). -/
def place (s : State) (x : Session) (at_ dest : Nat) (mk : Nat → List Byte) : Session :=
  let y := openBlock s x at_
  let b := mk y.lastLc
  let z := if y.interval < y.made % y.interval + b.length then openBlock s (padBlock y) at_ else y
  let u := z.take at_ (mk z.lastLc)
  if u.dropping.isSome then u else { u with lastLc := dest }

/-- A packet with a DELTA. (DEDUCED: log entry 64.) -/
def stamped (hdr : Byte) (at_ : Nat) (rest : List Byte) (last : Nat) : List Byte := hdr :: (leb (at_ - last) ++ rest)

/-- The GAP that is due before the next packet (R829). (DEDUCED: log entry 64.) -/
def placeGap (s : State) (x : Session) : Session :=
  match x.gap with
  | none => x
  | some (a, b, reason, p) =>
    place s { x with gap := none } a b (stamped 0x60 a (leb (b - a) ++ le 1 reason ++ le 1 p))

/-- The context becomes `p`, with a PART packet (R827). (DEDUCED: log entry 64.) -/
def placePart (s : State) (x : Session) (p at_ : Nat) : Session :=
  if x.context = p then x else place s { x with context := p } at_ x.lastLc (fun _ => 0x02 :: ctxFields s x p)

/-- A packet of context `p`, or of no context, at position `at_`. -/
def putPacket (s : State) (x : Session) (p : Option Nat) (at_ : Nat) (hdr : Byte) (rest : List Byte) : Session :=
  let y := placeGap s x
  let z := match p with | some q => placePart s y q at_ | none => y
  let a := if at_ < z.lastLc then z.lastLc else at_
  place s z a a (stamped hdr a rest)

/-- Branch outcomes of partition `p` that are held become a BR packet (R828). (DEDUCED: log entry 64.) -/
def flushBr (s : State) (x : Session) (p : Nat) : Session :=
  match tfind x.branches p with
  | none => x
  | some (l, _, last) =>
    putPacket s { x with branches := tdel x.branches p } (some p) last 0x10
      (le 1 l.length ++ le ((l.length + 7) / 8) (maskOf ((List.range l.length).filter (fun i => l.getD i false))))

/-- A withheld packet joins the span of the GAP to come (R814, R829). (DEDUCED: log entry 64.) -/
def withhold (x : Session) (at_ reason p : Nat) : Session :=
  { x with gap := match x.gap with
      | none => some (at_, at_, reason, p)
      | some (a, _, r, q) => some (a, at_, r, if q = p then q else 255) }

/-- Session of function `fn` may show source `src` of partition `p` (R811). -/
def traceAllowed (s : State) (fn p src : Nat) : Bool :=
  fn = p + 1 || s.trace.grants.any (fun g => g.2.requester = fn && bitOf g.2.scope p && bitOf g.2.sources src && s.time < g.2.expiry)

/-- The session takes packets of source `src` and partition `p` in (R809, R814). -/
def selects (x : Session) (p src : Nat) : Bool := x.state = .running && x.stopping.isNone && bitOf x.sources src && bitOf x.mask p

/-- Functions that have a session. -/
def sesFns (s : State) : List Nat := s.trace.sessions.map (fun e => e.1)

/-- A packet of partition context (R811, R814, R826–R828). -/
def tracePart (s : State) (p src : Nat) (hdr : Byte) (rest : List Byte) : State :=
  forFns s (sesFns s) (fun t fn =>
    let x := t.ses fn
    if !selects x p src then t
    else if traceAllowed t fn p src then t.setSes fn (putPacket t (flushBr t x p) (some p) t.trace.lc hdr rest)
    else t.setSes fn (withhold x t.trace.lc 1 p))

/-- A packet of device context, for PF0 (R812); privileged work is withheld (R813). -/
def traceDev (s : State) (src : Nat) (hdr : Byte) (rest : List Byte) (privileged : Bool) : State :=
  let x := s.ses 0
  if !(x.state = .running && x.stopping.isNone && bitOf x.sources src) then s
  else if privileged then s.setSes 0 (withhold x s.trace.lc 0 255)
  else s.setSes 0 (putPacket s x (some 255) s.trace.lc hdr rest)

/-- THROTTLE in every session that selects it (R812, R826). -/
def traceThrottle (s : State) : State :=
  let rest := le 1 s.clk.div ++ le 1 (activeReasons s) ++ le 1 (b2n s.comp.fastcap)
  forFns s (sesFns s) (fun t fn =>
    let x := t.ses fn
    if x.state = .running && x.stopping.isNone && bitOf x.sources 7 then t.setSes fn (putPacket t x none t.trace.lc 0x50 rest) else t)

/-- A branch outcome of partition `p`'s leader core (R828). -/
def traceBranch (s : State) (p : Nat) (taken : Bool) : State :=
  forFns s (sesFns s) (fun t fn =>
    let x := t.ses fn
    if !selects x p 0 then t
    else if !traceAllowed t fn p 0 then t.setSes fn (withhold x t.trace.lc 1 p)
    else
      let (l, first, _) := tget ([], t.trace.lc, 0) x.branches p
      let y := { x with branches := tset x.branches p (l ++ [taken], first, t.trace.lc) }
      t.setSes fn (if 32 ≤ l.length + 1 then flushBr t y p else y))

/-- The target of an indirect jump (R828), and start 0, halt 1, resume 2 and trap 3 of the leader core (R824). -/
def traceTarget (s : State) (p : Nat) (pc : W32) : State := tracePart s p 0 0x11 (le 4 pc.toNat)
def traceSprout (s : State) (p what : Nat) (pc : W32) : State := tracePart s p 0 0x12 (le 1 what ++ le 4 pc.toNat)

/-- Code of a stall cause in a STALL packet (R824). -/
def StallCause.code : StallCause → Nat
  | .await => 1 | .decide => 2 | .foldWait => 3 | .husk => 4

/-- STALL, on the fc on which partition `p`'s stall ends (R826). -/
def traceStall (s : State) (p : Nat) : State :=
  let r := (s.pt p).run
  match r.stall with
  | none => s
  | some c =>
    tracePart s p 3 0x22 (le 1 c.code ++ leb r.stallLen ++ (if c = .await then le 2 (r.stallAt / 16) ++ le 1 (r.stallAt % 16) else []))

/-- Start or end of an engine command: partition or DEVICE (16), engine, job ID, TAG or entry index; a status at its end (R824, R826). -/
def traceEng (s : State) (p engine : Nat) (sched : Bool) (job tag : W32) (status : Option Nat) : State :=
  let rest := le 1 engine ++ le 1 (b2n sched) ++ le 4 job.toNat ++ le 4 tag.toNat ++ (status.map (le 2)).getD []
  let hdr : Byte := if status.isSome then 0x31 else 0x30
  let src := if sched then 5 else 4
  if p < 16 then tracePart s p src hdr rest else traceDev s src hdr rest false

/-- HUSK: 0 PAUSE_BEGIN, 1 FLIP, 2 PAUSE_END, 3 STATE (R824). -/
def traceHusk (s : State) (p what state epoch : Nat) : State := tracePart s p 6 0x40 (le 1 what ++ le 1 state ++ leb epoch)

end Sys2Proof.Machine
end

