-- ==== Sys2Proof/Machine/EngOps.lean ====
section
/-! DEFINITION. The shared engines' queues: what of a descriptor is unfinished, how lists end, how work is retired (R435–R441, R512–R516). -/

namespace Sys2Proof.Machine

/-- Start address of destination row `r`, and of source row `r` (R506). -/
def Desc.dstRow (d : Desc) (r : Nat) : Nat := ((d.dst : Int) + r * d.dstStride).toNat
def Desc.srcRow (d : Desc) (r : Nat) : Nat := ((d.src : Int) + r * d.srcStride).toNat

/-- The destination lies in this device's memory. -/
def Desc.localDst (d : Desc) : Bool := !d.dstHost && !d.remote

/-- Destination ranges that a job has not written yet. -/
def Job.rest (j : Job) : List (Nat × Nat) :=
  if !j.desc.localDst then []
  else (span j.row (j.desc.rows - j.row)).map (fun r =>
    let o := if r = j.row then j.off else 0
    (j.desc.dstRow r + o, j.desc.rowBytes - o))

/-- Poisons every destination word that the job has not completely written (R435, R515). -/
def poisonRest (s : State) (j : Job) : State := j.rest.foldl (fun t r => poisonRange t r.1 r.2) s

/-- Every destination range of a descriptor on this device. (UNVERIFIED: log entry 43.) -/
def Desc.dstRanges (d : Desc) : List (Nat × Nat) :=
  if d.localDst then (List.range d.rows).map (fun r => (d.dstRow r, d.rowBytes)) else []

/-- Every source range of a descriptor on this device. -/
def Desc.srcRanges (d : Desc) : List (Nat × Nat) :=
  if d.fill || d.srcHost then [] else (List.range d.rows).map (fun r => (d.srcRow r, d.rowBytes))

/-- Banks of memory cells that ranges reach, as a pod and a flag place cell × 8 + bank × 2 (R289, R513). -/
def banksIn (rs : List (Nat × Nat)) : List (Nat × Nat) :=
  (rs.flatMap (fun r =>
    if cellBase ≤ r.1 then (cutAt (r.2 / 0x20000 + 2) 0x20000 r.1 r.2).map (fun p => (podOfAddr p.1, cellOfAddr p.1 * 8 + bankOfAddr p.1 * 2))
    else [])).eraseDups

/-- A job uses memory cells of partition `p`'s regions. -/
def jobTouches (s : State) (p : Nat) (j : Job) : Bool :=
  (j.desc.srcRanges ++ j.desc.dstRanges).any (fun r => cellBase ≤ r.1 && (s.pt p).regions.contains (regionOfAddr r.1))

/-- The response of a list that has ended (R516, R517). -/
def listResult (l : JobList) : Result :=
  let status := (l.failed.map (fun f => f.2)).getD 0
  let detail := if status = 0 && l.poison && !l.memFill then 1 else 0
  if l.memFill then ⟨status, detail, le 8 l.bytes⟩
  else ⟨status, detail, le 4 l.completed ++ le 4 ((l.failed.map (fun f => f.1)).getD 0xFFFFFFFF) ++ le 8 l.bytes⟩

/-- A list has work left in a queue. -/
def listBusy (e : Engines) (l : Nat) : Bool := e.jobs.any (fun j => j.list = l) || e.emb.any (fun j => j.list = l)

/-- Ends the lists that have no work left: their commands' final responses are due. -/
def endLists (s : State) : State :=
  let done := s.eng.lists.filter (fun l => !listBusy s.eng l.id)
  done.foldl
    (fun t l =>
      let u := traceEng t l.part l.engine l.cmd.isNone l.jobId (BitVec.ofNat 32 l.entry) (some (listResult l).status)
      match l.cmd with | some (fn, id) => workDone u fn id (listResult l) | none => u)
    { s with eng := { s.eng with lists := s.eng.lists.filter (fun l => listBusy s.eng l.id) } }

/-- The list with a descriptor that failed, the first one recorded. -/
def JobList.fail (l : JobList) (index status : Nat) : JobList :=
  { l with failed := match l.failed with
      | none => some (index, status)
      | some f => if index < f.1 then some (index, status) else some f }

/-- Applies `f` to the list numbered `id`. -/
def modList (s : State) (id : Nat) (f : JobList → JobList) : State :=
  { s with eng := { s.eng with lists := s.eng.lists.map (fun l => if l.id = id then f l else l) } }

/-- Applies `f` to the mover job numbered `id`. -/
def modJob (s : State) (id : Nat) (f : Job → Job) : State :=
  { s with eng := { s.eng with jobs := s.eng.jobs.map (fun j => if j.id = id then f j else j) } }

/-- The mover job numbered `id`. -/
def jobOf (s : State) (id : Nat) : Option Job := s.eng.jobs.find? (fun j => j.id = id)

/-- Takes mover jobs out of the queue with a status, their lists noting it; `power` poisons what they left unwritten (R435, R438). -/
def retireJobs (s : State) (which : Job → Bool) (status : Nat) (power : Bool) : State :=
  let gone := s.eng.jobs.filter which
  let s1 := if power then gone.foldl poisonRest s else s
  let s2 := gone.foldl (fun t j => modList t j.list (fun l => l.fail j.index status)) s1
  { s2 with
    eng := { s2.eng with jobs := s2.eng.jobs.filter (fun j => !which j) }
    link := { s2.link with xfers := s2.link.xfers.filter (fun x => match x.use with | .mover i => !(gone.any (fun j => j.id = i)) | _ => true) } }

/-- Outputs of an embedding job not yet written: those of the bags from the next one on. -/
def embRest (s : State) (j : EmbJob) : List (Nat × Nat) :=
  let dim := ((tfind s.eng.tables (j.part * 64 + j.desc.table)).map (fun t => t.dim)).getD 0
  let n := if dim = 0 then j.desc.outStride else dim * (if j.desc.outFmt = 0 then 4 else 2)
  if j.desc.op ≠ 0 then [] else (span j.next (j.desc.bags - j.next)).map (fun k => (j.desc.out + k * j.desc.outStride, n))

/-- Takes embedding jobs out of the queue with a status (R438, R543). A fence that one of them was in lapses. -/
def retireEmb (s : State) (which : EmbJob → Bool) (status : Nat) (power : Bool) : State :=
  let gone := s.eng.emb.filter which
  let s1 := if power then gone.foldl (fun t j => (embRest t j).foldl (fun t r => poisonRange t r.1 r.2) t) s else s
  let s2 := gone.foldl (fun t j => modList t j.list (fun l => l.fail j.index status)) s1
  { s2 with
    eng := { s2.eng with
      emb := s2.eng.emb.filter (fun j => !which j)
      tables := s2.eng.tables.map (fun t =>
        (t.1, if t.2.fence.any (fun f => gone.any (fun j => j.id = f.job)) then { t.2 with fence := none } else t.2)) }
    link := { s2.link with xfers := s2.link.xfers.filter (fun x => match x.use with | .emb i _ => !(gone.any (fun j => j.id = i)) | _ => true) } }

/-- Ends the pending moves of a partition's EMB.MIGRATE commands with a status. -/
def retireMigrations (s : State) (p status : Nat) : State :=
  let hit := s.eng.tables.filter (fun t => t.1 / 64 = p && t.2.migration.isSome)
  hit.foldl
    (fun t e => match e.2.migration with
      | none => t
      | some m => workDone { t with eng := { t.eng with tables := tset t.eng.tables e.1 { e.2 with migration := none } } } m.fn m.cmdId
          ⟨status, 0, le 4 m.moved⟩) s

/-- The LINK.COLLECTIVE response (R587): steps completed and bytes sent. -/
def collPayload (c : Coll) : List Byte := fields 16 [(0, le 4 c.step), (8, le 8 c.bytesSent)]

/-- Ends a partition's collectives with a status (R438, R592). -/
def retireColls (s : State) (p status : Nat) : State :=
  let gone := s.link.colls.filter (fun c => c.part = p)
  gone.foldl (fun t c => workDone t c.fn c.cmdId ⟨status, 0, collPayload c⟩)
    { s with link := { s.link with
        colls := s.link.colls.filter (fun c => c.part ≠ p)
        xfers := s.link.xfers.filter (fun x => match x.use with | .collective q _ => q ≠ p | _ => true) } }

/-- A drive command belongs to partition `p`'s own queue and is not Husk work (R634, R641). -/
def NvmeCmd.ownOf (p : Nat) (c : NvmeCmd) : Bool :=
  c.qid = 2 + p && (match c.use with | .trace _ => true | .admin _ _ _ => true | _ => false)

/-- The drive I/O queues of partition `p` are deleted: its own commands go, Husk work moves to queue 1 (R455, R641). -/
def dropDriveQueue (s : State) (p : Nat) : State :=
  let keep (l : List NvmeCmd) : List NvmeCmd :=
    (l.filter (fun c => !c.ownOf p)).map (fun c => if c.qid = 2 + p then { c with qid := 1 } else c)
  { s with hub := { s.hub with dp := s.hub.dp.map (fun d =>
      (d.1, { d.2 with drive := { d.2.drive with queued := keep d.2.drive.queued, sent := keep d.2.drive.sent } })) } }

/-- NVMe commands on partition `p`'s own queues. -/
def driveOwn (s : State) (p : Nat) : Nat :=
  ((s.hub.dp.map (fun d => ((d.2.drive.queued ++ d.2.drive.sent).filter (NvmeCmd.ownOf p)).length))).foldl (· + ·) 0

/-- Engine commands of partition `p` in the engines' queues. -/
def engineWork (s : State) (p : Nat) : Nat :=
  (s.eng.jobs.filter (fun j => j.part = p)).length + (s.eng.emb.filter (fun j => j.part = p)).length
    + (s.link.colls.filter (fun c => c.part = p)).length + (s.eng.tables.filter (fun t => t.1 / 64 = p && t.2.migration.isSome)).length

/-- Partition `p`'s engine commands retire with a status; other members' commands on its memory cells end with `outer` (R435, R437, R438).
The answer: transfers terminated. -/
def retirePart (s : State) (p status outer : Nat) (power : Bool) : State :=
  let mine (j : Job) : Bool := j.part = p && j.member = p
  let s1 := retireJobs s mine status power
  let s2 := retireJobs s1 (fun j => jobTouches s p j) outer power
  let s3 := retireEmb s2 (fun j => j.part = p) status power
  endLists (retireColls (retireMigrations s3 p status) p status)

/-- Transfers that a fence of partition `p` terminates now (R439). -/
def cutCount (s : State) (p : Nat) : Nat :=
  engineWork s p + (s.eng.jobs.filter (fun j => j.part ≠ p && jobTouches s p j)).length

end Sys2Proof.Machine
end

