-- ==== Sys2Proof/Machine/HuskOps.lean ====
section
/-! DEFINITION. The epoch being taken: its end by loss, and what becomes of its command (R661–R665, R692–R698). -/

namespace Sys2Proof.Machine

/-- An epoch is OPEN with a snapshot pending, FROZEN or DRAINING (R663). -/
def epochActive (s : State) : Bool :=
  s.husk.current.any (fun e => e.state = .open || e.state = .frozen || e.state = .draining)

/-- Partition `p` takes part in the epoch being taken. -/
def participant (s : State) (p : Nat) : Bool := epochActive s && s.husk.current.any (fun e => bitOf e.partMask p)

/-- A pending pause or a copy of the snapshot involves partition `p`: it has not resumed yet (R692, R693). -/
def beforeResume (s : State) (p : Nat) : Bool :=
  epochActive s && s.husk.snap.any (fun x => x.parts.any (fun q => q.part = p && q.phase < 3))

/-- The epoch changes its state, with EPOCH_STATE_CHANGE (R661, R703). -/
def setEpochState (s : State) (new : EpochState) (cause : Nat) : State :=
  match s.husk.current with
  | none => s
  | some e =>
    let t := (bitsSet e.partMask 16).foldl (fun t p => traceHusk t p 3 new.code e.number) s
    epochEvent { t with husk := { t.husk with current := some { e with state := new, cause := cause } } } e.partMask 0x0A01
      (fields 40 [(0, le 8 e.number), (8, le 1 e.state.code), (9, le 1 new.code), (10, le 1 cause), (12, le 2 e.partMask)])

/-- The final response of HUSK.SNAP for the epoch as it stands (R673). -/
def snapPayload (s : State) (x : Snap) (e : Epoch) (sys : Nat) : List Byte :=
  let held := x.stallNs + (x.heldSince.map (fun t => (s.time - t).toNat)).getD 0
  fields 48
    [(0, le 8 e.number), (8, le 1 e.state.code), (9, le 1 e.cause), (10, le 1 (b2n e.base)), (11, le 1 sys), (12, le 4 x.pauseMax),
     (16, le 8 x.drained), (24, le 8 x.cow.toNat), (32, le 8 (((tfind s.husk.writers 0).map (fun w => w.bytes)).getD 0)),
     (40, le 4 (if x.startTime = 0 then 0 else sat 0xFFFFFFFF ((x.endTime - x.startTime).toNat / 1000))), (44, le 4 (sat 0xFFFFFFFF (held / 1000)))]

/-- SNAP_OUTCOME to every other member (R698). -/
def sendOutcome (s : State) (key : W32) (members : List (Nat × Nat)) (self outcome cause epoch : Nat) : State :=
  members.foldl
    (fun t m => if t.link.linkId = some m.1 then t
      else sendMgmt t m.1 m.2 self 0x0080 (le 4 key.toNat ++ le 1 outcome ++ le 1 cause ++ le 2 0 ++ le 8 epoch)) s

/-- BARRIER_ID of a system snapshot (R695). -/
def snapBarrier (key : W32) : W64 := BitVec.ofNat 64 (key.toNat * 2 ^ 32 + 0x4B53)

/-- A response payload of HUSK.SNAP with another SYS. -/
def withSys (b : List Byte) (sys : Nat) : List Byte := layAt b 11 (le 1 sys)

/-- A system snapshot that waits has an outcome: HUSK.SNAP's final response, or nothing where it has had one. -/
def answerSys (s : State) (w : SysWait) (status sys : Nat) : State :=
  let t := { s with husk := { s.husk with
    waiting := s.husk.waiting.map (fun x => if x.epoch = w.epoch then { x with answered := true, undecided := sys = 1 } else x)
    current := s.husk.current.map (fun e => if e.number = w.epoch then { e with sys := sys } else e) } }
  if w.answered then t else workDone t w.fn w.cmdId ⟨status, 0, withSys w.payload sys⟩

/-- The epoch has ended COMMITTED or INCOMPLETE: HUSK.SNAP completes, or a system member arrives at the barrier (R673, R695, R698). -/
def snapEnded (s : State) (ok : Bool) : State :=
  match s.husk.snap, s.husk.current with
  | some x, some e =>
    let b := snapPayload s x e (if x.scope = 2 then 1 else 0)
    let t := { s with husk := { s.husk with snap := none, lastTotal := x.total, lastDrained := x.drained } }
    if x.scope ≠ 2 then workDone t x.fn x.cmdId ⟨if ok then 0 else 0x0A05, if ok then 0 else e.cause, b⟩
    else
      let w : SysWait := { fn := x.fn, cmdId := x.cmdId, epoch := e.number, partMask := e.partMask, snapKey := x.snapKey, self := x.self
                           n := x.members.length, answered := false, undecided := false, payload := b }
      let s1 := { t with husk := { t.husk with waiting := t.husk.waiting ++ [w], current := some { e with sys := 1 } } }
      let s2 := if ok then s1 else sendOutcome s1 x.snapKey x.members x.self 0 e.cause e.number
      let s3 := arrive s2 x.self (snapBarrier x.snapKey) x.members (BitVec.ofNat 32 (b2n ok)) x.atFold
      if x.abandoned then answerSys s3 w 0x0A06 3 else s3
  | _, _ => s

/-- Held writes are applied in the order in which they arrived (R682). -/
def applyHeld (s : State) (which : HeldWrite → Bool) : State :=
  let ws := s.husk.heldWrites.filter which
  ws.foldl (fun t h => applyTracked t h.addr h.data (fun _ _ => h.poison))
    { s with husk := { s.husk with heldWrites := s.husk.heldWrites.filter (fun h => !which h) } }

/-- Partition `p`'s pause ends, unless a save waits for the same one; its leader core goes on (R368, R461, R680). -/
def endPause (s : State) (p : Nat) : State :=
  let y := s.pt p
  let hold := y.run.paused && y.saveJob.isSome
  let t := s.setPt p { y with run := { y.run with pausePending := y.saveJob.isSome && !y.run.paused, paused := hold } }
  let c := s.sprout y.leader
  if y.run.paused && !hold && c.run ≠ .halted then traceSprout t p 2 c.pc else t

/-- The participants that the snapshot pauses go on (R680). -/
def unpause (s : State) : State :=
  match s.husk.snap with
  | none => s
  | some x => x.parts.foldl (fun t q => if q.phase = 3 then t else endPause t q.part) s

/-- The volume whose epoch a drive command writes, and the member. -/
def NvmeUse.writes (u : NvmeUse) : Option (Nat × Nat) :=
  match u with
  | .superblock v m => some (v, m)
  | .segment v m => some (v, m)
  | .extent v m => some (v, m)
  | .record v m _ _ => some (v, m)
  | .flush v m => some (v, m)
  | .commit v m => some (v, m)
  | _ => none

/-- Drive commands queued for the epoch on a volume go unissued (R692). -/
def dropEpochWrites (s : State) (v : Nat) : State :=
  let keep (c : NvmeCmd) : Bool := match c.use.writes with | some (w, _) => w ≠ v | none => true
  { s with hub := { s.hub with dp := s.hub.dp.map (fun d =>
      (d.1, { d.2 with drive := { d.2.drive with queued := d.2.drive.queued.filter keep } })) } }

/-- The epoch becomes INCOMPLETE with a cause, and its snapshot's command follows (R665, R692, R698). (DEDUCED: log entry 55.) -/
def epochIncomplete (s : State) (cause : Nat) : State :=
  if !epochActive s then s
  else
    let s1 := dropEpochWrites (unpause (setEpochState s .incomplete cause)) 0
    let s2 := { s1 with husk := { s1.husk with
      reserve := [], openMarks := (s1.husk.frozenMarks.filter (fun g => unitGranted s1 (g / 4096))).foldl sins s1.husk.openMarks, frozenMarks := [], settled := [], fullRaised := false
      needWhole := ((s1.husk.snap.map (fun x => x.wholeDue)).getD []).foldl sins s1.husk.needWhole
      snap := s1.husk.snap.map (fun x => { x with endTime := s1.time }) } }
    let s3 := snapEnded (applyHeld s2 (fun _ => true)) false
    { s3 with husk := { s3.husk with writers := tdel s3.husk.writers 0 } }

/-- Drive commands queued for reader `i` go unissued. -/
def dropReads (s : State) (i : Nat) : State :=
  let keep (c : NvmeCmd) : Bool := match c.use with | .read j _ _ => j ≠ i | _ => true
  { s with hub := { s.hub with dp := s.hub.dp.map (fun d =>
      (d.1, { d.2 with drive := { d.2.drive with queued := d.2.drive.queued.filter keep } })) } }

/-- The final response of HUSK.RESTORE (R743). -/
def restorePayload (s : State) (r : Restore) : List Byte :=
  let d := tfind s.husk.readers 0
  let num (f : Reader → Nat) : Nat := (d.map f).getD 0
  fields 40
    [(0, le 8 ((r.epoch.map (fun e => e.number)).getD 0)), (8, le 4 ((r.epoch.map (fun e => e.snapKey.toNat)).getD 0)), (12, le 2 r.mask), (14, le 1 r.deltas),
     (15, le 1 (b2n (d.any (fun d => d.parityUsed)) + 2 * b2n r.buddy.isSome)), (16, le 8 (num (fun d => d.records))), (24, le 4 (num (fun d => d.poisoned))),
     (28, le 4 (sat 0xFFFFFFFF ((s.time - r.startTime).toNat / 1000))), (32, le 8 (num (fun d => d.bytes)))]

/-- An accepted restore ends with a status, and RESTORE_DONE (R743, R746, R749, R753). (DEDUCED: log entry 57.) -/
def endRestore (s : State) (status : Nat) : State :=
  match s.husk.restore with
  | none => s
  | some r =>
    let bad := ((tfind s.husk.readers 0).map (fun d => d.poisoned)).getD 0
    let t := dropReads { s with husk := { s.husk with restore := none, readers := tdel s.husk.readers 0, progress := none } } 0
    let u := if r.silent then t else workDone t r.fn r.cmdId ⟨status, 0, restorePayload s r⟩
    forFns u (0 :: (bitsSet r.mask 16).map (· + 1)) (fun t fn =>
      raiseAt t fn { partition := ownPart fn, code := 0x0A06, tag := 0, time := s.time
                     payload := fields 40 [(0, le 8 ((r.epoch.map (fun e => e.number)).getD 0)), (8, le 2 r.mask), (10, le 2 status), (12, le 4 bad)] })

/-- A partition is reset or faults: an epoch from whose pause it has not resumed is lost (R692, R693). -/
def snapshotLoses (s : State) (p cause : Nat) : State := if beforeResume s p then epochIncomplete s cause else s

end Sys2Proof.Machine
end

