-- ==== Sys2Proof/Machine/PartOps.lean ====
section
/-! DEFINITION. What happens to a whole partition: state changes, fences, resets, power-down, faults (R430–R461, R848). -/

namespace Sys2Proof.Machine

/-- A partition changes its state, with PART_STATE_CHANGE except between RUNNING and STALLED (R432). Causes: 0 command, 1 reset, 2 FLR,
3 fault, 4 power, 5 run ended. -/
def partState (s : State) (p : Nat) (new : PartState) (cause : Nat) : State :=
  let x := s.pt p
  let t := s.setPt p { x with state := new }
  let stall := (x.state = .running || x.state = .stalled) && (new = .running || new = .stalled)
  if x.state = new || stall then t else eventPart t p 0x0311 (le 1 x.state.code ++ le 1 new.code ++ le 1 cause)

/-- The fence of partition `p` enters a state; causes: 1 POWER, 2 RESET, 3 FLR, 4 FAULT, 5 DESTROY, 6 RELEASE. (DEDUCED: log entry 39.) -/
def fenceTo (s : State) (p : Nat) (st : FenceState) (reason : Nat) : State :=
  s.setPt p { s.pt p with fence := { state := st, reason := reason } }

/-- The fence of partition `p` opens; its last cause stays (R439). -/
def fenceOpen (s : State) (p : Nat) : State := fenceTo s p .open (s.pt p).fence.reason

/-- Logical pods of region `rg` (R28). -/
def regionPods (rg : Nat) : List Nat :=
  (List.range 5).flatMap (fun i => span ((rg / 4 * 5 + i) * 32 + rg % 4 * 8) 8)

/-- Region `rg` has power and is out of reset: its cells work (R102, R115). -/
def regionLive (s : State) (rg : Nat) : Bool :=
  !s.pow.gated.contains rg && s.rst.fabOut.contains rg && (s.pow.state = .run || s.pow.state = .idle)

/-- A word of the memory-cell window lies in region `rg`. -/
def wordIn (rg w : Nat) : Bool := regionOfPod (w / 16384) = rg

/-- Memory cells of region `rg` hold zeros with clear poison (R109). -/
def zeroCells (s : State) (rg : Nat) : State :=
  { s with fab := { s.fab with
      cells := s.fab.cells.filter (fun c => !wordIn rg (c.1 / 64)), cellPoison := s.fab.cellPoison.filter (fun w => !wordIn rg w)
      cellEcc := s.fab.cellEcc.filter (fun e => !wordIn rg e.1), writeBack := s.fab.writeBack.filter (fun w => !wordIn rg w) } }

/-- Region `rg` holds nothing but zeroed cells: pods and Sprout core as after a reset (R108, R109). -/
def clearRegion (s : State) (rg : Nat) : State :=
  let t := zeroCells s rg
  { t with fab := { t.fab with
      pods := t.fab.pods.filter (fun p => regionOfPod p.1 ≠ rg), sprouts := tdel t.fab.sprouts rg } }

/-- Zeroing of regions begins (R109): those with power are zeroed by CELL_ZEROING_DONE. -/
def beginZeroing (s : State) (rgs : List Nat) : State :=
  { s with rst := { s.rst with zeroing := (rgs.filter (regionLive s)).foldl sins s.rst.zeroing } }

/-- The leader core of partition `p` halts. -/
def haltLeader (s : State) (p : Nat) : State :=
  let x := s.pt p
  let c := s.sprout x.leader
  if x.w = 0 then s
  else let t := s.setSprout x.leader { c with run := .halted }; if c.run = .halted then t else traceSprout t p 1 c.pc

/-- FN_PART_TERMINATED at PF0 and the partition's VF grows by `n`. -/
def addTerminated (s : State) (p n : Nat) : State :=
  forFns s [0, p + 1] (fun t fn =>
    let r := t.fn fn
    t.setFn fn { r with terminated := tset r.terminated p ((tget 0 r.terminated p + n) % 2 ^ 32) })

/-- Ends the partition's loads with a status (R455). -/
def endLoads (s : State) (p status : Nat) : State :=
  let x := s.pt p
  let ls := x.loads ++ (x.saved.map (fun v => v.loads)).getD []
  ls.foldl (fun t l => workDone t l.fn l.id ⟨status, 0, fields 12 [(0, le 1 l.slot), (4, le 4 l.shifted), (8, le 4 l.reshifted)]⟩)
    (s.setPt p { x with loads := [], shifting := false, saved := x.saved.map (fun v => { v with loads := [] }) })

/-- Ends a PART.SAVE, a PART.RESUME or a restore in progress (R753), and a PART.ABORT that waits, with a status. -/
def endSave (s0 : State) (p status : Nat) : State :=
  let s := if restoring s0 p then endRestore s0 status else s0
  let x := s.pt p
  let s1 := match x.saveJob with
    | none => s
    | some j => workDone (s.setPt p { x with saveJob := none, run := { x.run with pausePending := false } }) j.fn j.id ⟨status, 0, []⟩
  let s2 := match x.resumeJob with
    | none => s1
    | some (fn, id) => workDone (s1.setPt p { s1.pt p with resumeJob := none }) fn id ⟨status, 0, []⟩
  match x.abortJob with
  | none => s2
  | some j => finishSt (s2.setPt p { s2.pt p with abortJob := none }) j.fn j.id status

/-- The fence of partition `p` terminates what is under way (R435, R437–R439): engine commands retire, channels close, counters and
FENCE_TERMINATED tell. (DEDUCED: log entry 39.) -/
def contain (s : State) (p status outer cause : Nat) (power : Bool) : State :=
  let n := cutCount s p
  let nv := driveOwn s p
  let s1 := retirePart s p status outer power
  let s2 := dropDriveQueue s1 p
  let s3 := addTerminated (loseWhere s2 (Endpoint.ofPart p) cause) p (n + nv)
  if n + nv = 0 then s3
  else eventPart s3 p 0x0312 (fields 12 [(0, le 1 (s.pt p).fence.reason), (4, le 4 (n + nv)), (8, le 4 nv)])

/-- Revokes window units: they are zeroed before they can be granted again (R429). -/
def revokeUnits (s : State) (us : List Nat) : State :=
  { s with hbm := { s.hbm with zeroing := us.foldl sins s.hbm.zeroing }
           husk := { s.husk with openMarks := s.husk.openMarks.filter (fun g => !us.contains (g / 4096)) } }

/-- A partition's namespaces become UNASSIGNED (R648). -/
def releaseNamespaces (s : State) (p : Nat) : State :=
  { s with hub := { s.hub with records := s.hub.records.map (fun r => if r.owner = p + 1 then { r with owner := 0 } else r) } }

/-- PART.DESTROY's last part: everything the partition held is given back and it is FREE (R422, R543, R575, R648). -/
def freePart (s : State) (p : Nat) : State :=
  let x := s.pt p
  let s1 := releaseNamespaces (revokeUnits s x.units) p
  let s2 := { s1 with
    eng := { s1.eng with tables := s1.eng.tables.filter (fun t => t.1 / 64 ≠ p) }, link := { s1.link with peers := tdel s1.link.peers p } }
  let s3 := partState s2 p .free ((x.drain.map (fun d => d.cause)).getD 0)
  { s3 with part := tdel s3.part p
            host := { s3.host with fn := s3.host.fn.map (fun f => (f.1, { f.2 with terminated := tdel f.2.terminated p })) } }

/-- A reset, FLR or destroy of partition `p` ends when none of its regions is still being zeroed (R422, R455, R456); the fence of one whose
regions have no power stays CLOSED (R439). -/
def finishReset (s : State) (p : Nat) : State :=
  let x := s.pt p
  match x.drain with
  | some d =>
    match d.finish with
    | .reset destroy =>
      if x.regions.any s.rst.zeroing.contains then s
      else
        let done := le 4 d.retired ++ le 2 d.closed
        if destroy then finishOk (freePart s p) d.fn d.id (le 4 d.retired)
        else
          let s1 := if x.powered then fenceOpen s p else fenceTo s p .closed x.fence.reason
          let s2 := partState (s1.setPt p { s1.pt p with drain := none }) p .assigned d.cause
          finishOk s2 d.fn d.id done
    | .power _ => s
  | none => s

/-- PART.RESET, an FLR or PART.DESTROY of partition `p` begins (R422, R455, R456). (DEDUCED: log entry 39.) -/
def beginReset (s : State) (p fn id : Nat) (destroy : Bool) (reason cause : Nat) : State :=
  let s1 := endSave (endLoads s p 0x000E) p 0x000E
  let s2 := fenceTo (partState s1 p .draining cause) p .terminating reason
  let s3 := haltLeader (if destroy then (if participant s2 p then epochIncomplete s2 3 else s2) else snapshotLoses s2 p 2) p
  let retired := engineWork s3 p
  let closed := endsWhere s3 (Endpoint.ofPart p)
  let s4 := traceReset (contain s3 p 0x000E 0x0010 2 false) p
  let x := s4.pt p
  let d : Drain := { finish := .reset destroy, fn := fn, id := id, cause := cause, start := s.time, retired := retired, closed := closed }
  let s5 := s4.setPt p
    { x with
      fault := 0, slots := [], loads := [], shifting := false, bound := none, run := Run.init, audit := Audit.init, saved := none
      drain := some d
      handles := if destroy then [] else x.handles }
  let s6 := (s5.pt p).regions.foldl (fun t rg => if regionLive t rg then t else clearRegion t rg) s5
  finishReset (beginZeroing s6 x.regions) p

/-- A reset of partition `p` from outside its own command (R107, R456): one already under way goes on; a power-down ends
ABORTED_RESET. -/
def resetFrom (s : State) (p reason cause : Nat) : State :=
  let x := s.pt p
  if x.state = .free then s
  else
    match x.drain with
    | none => beginReset s p 0 0 false reason cause
    | some d =>
      match d.finish with
      | .reset _ => s
      | .power _ => beginReset (finishSt (s.setPt p { x with drain := none }) d.fn d.id 0x000E) p 0 0 false reason cause

/-- A partition-fatal fault makes partition `p` FAULTED (R430, R459, R461, R848): false when it is recorded only. (DEDUCED: log entry 63.) -/
def canFault (s : State) (p : Nat) : Bool :=
  let x := s.pt p
  p < 16 && x.state ≠ .free && x.state ≠ .faulted &&
    !(x.state = .draining && x.drain.any (fun d => match d.finish with | .reset _ => true | .power _ => false))

/-- The partition becomes FAULTED with a fault's code; its fence terminates, its schedule and leader core stop (R459). (DEDUCED: log entries 37, 39.) -/
def makeFaulted (s : State) (p code : Nat) : State :=
  if !canFault s p then s
  else
    let x := s.pt p
    let s1 := match x.drain with | some d => finishSt (s.setPt p { x with drain := none }) d.fn d.id 0x0309 | none => s
    let s2 := endSave (s1.setPt p { s1.pt p with fault := code }) p 0x0309
    let s3 := fenceTo (partState s2 p .faulted 3) p .terminating 4
    contain (haltLeader (snapshotLoses (traceStall s3 p) p 4) p) p 0x0309 0x0010 2 false

/-- A faulted partition's fence is CLOSED once nothing that it admitted is left (R437). (DEDUCED: log entry 39.) -/
def settleFence (s : State) (p : Nat) : State :=
  let x := s.pt p
  if x.state = .faulted && x.fence.state = .terminating && inflight s p = 0 then fenceTo s p .closed x.fence.reason else s

/-- The schedule of partition `p` stops and its fabric state goes (R321, R402): pods keep their slots, operand caches and lane masks. -/
def discardFabric (s : State) (p : Nat) : State :=
  let ps := (s.pt p).regions.flatMap regionPods
  { s with fab := { s.fab with pods := s.fab.pods.map (fun e =>
      (e.1, if ps.contains e.1 then { Pod.init with slots := e.2.slots, cache := e.2.cache, q := e.2.q } else e.2)) } }

/-- Regions lose their power (R103, R457, R773). -/
def gateRegions (s : State) (rgs : List Nat) : State :=
  rgs.foldl clearRegion { s with pow := { s.pow with gated := rgs.foldl sins s.pow.gated } }

/-- Regions get their power back; the bindings stored for them are loaded into the repair paths, and their cells are zeroed (R104, R109,
R268). -/
def ungateRegions (s : State) (rgs : List Nat) : State :=
  let t := { s with
    pow := { s.pow with gated := s.pow.gated.filter (fun g => !rgs.contains g) }
    rst := { s.rst with fabOut := rgs.foldl sins s.rst.fabOut }
    fab := { s.fab with regions := s.fab.regions.map (fun r =>
      (r.1, if rgs.contains r.1 then { r.2 with loadedS1 := r.2.s1, loadedS3 := r.2.s3 } else r.2)) } }
  rgs.foldl clearRegion t

/-- The drain window of a PART.POWER OFF ends (R435–R437, R457, R492). (DEDUCED: log entry 37.) -/
def endPowerDrain (s : State) (p : Nat) : State :=
  let x := s.pt p
  match x.drain with
  | some d =>
    match d.finish with
    | .power back =>
      let n := cutCount s p + driveOwn s p
      let s1 := contain (fenceTo s p .terminating 1) p 0x000F 0x000F 5 true
      let s2 := if back = .assigned then endLoads (haltLeader s1 p) p 0x000F else s1
      let y := s2.pt p
      let s3 := s2.setPt p { y with
        powered := false, drain := none, fence := { state := .closed, reason := 1 }
        slots := if back = .assigned then [] else y.slots, bound := if back = .assigned then none else y.bound
        run := if back = .assigned then Run.init else y.run }
      let s4 := partState (gateRegions s3 y.regions) p back 4
      finishOk s4 d.fn d.id (le 4 n ++ le 4 ((s.time - d.start).toNat / 1000))
    | .reset _ => s
  | none => s

end Sys2Proof.Machine
end

