-- ==== Sys2Proof/Machine/RegionOps.lean ====
section
/-! DEFINITION. Regions, repair maps and physical pods (R240, R253–R272). -/

namespace Sys2Proof.Machine

/-- Region `rg`. -/
def State.rgn (s : State) (rg : Nat) : Region := tget Region.init s.fab.regions rg
def State.setRgn (s : State) (rg : Nat) (x : Region) : State :=
  { s with fab := { s.fab with regions := tset s.fab.regions rg x } }

/-- A pod state allows service under some map. -/
def usable (p : PodState) : Bool := p = .active || p = .spareAvailable

/-- Serviceability of a region (R259): 0 SERVICEABLE, 1 UNSERVED, 2 DEGRADED. -/
def serviceability (r : Region) : Nat :=
  if (List.range 40).all (fun pos => slotState r.pods (servedBy r.s1 r.s3 pos) = .active) then 0
  else
    let bad := (List.range 40).filter (fun pos => !usable (slotState r.pods pos))
    let s1 := usable (slotState r.pods 40)
    let s3 := usable (slotState r.pods 41)
    match bad with
    | [] => 1
    | [a] => if (s1 && a / 8 ≤ 2) || (s3 && 2 ≤ a / 8) then 1 else 2
    | [a, b] => if s1 && s3 && ((a / 8 ≤ 2 && 2 ≤ b / 8) || (b / 8 ≤ 2 && 2 ≤ a / 8)) then 1 else 2
    | _ => 2

/-- Position of a logical pod within its region (R28). -/
def posOfPod (k : Nat) : Nat := k / 32 % 5 * 8 + k % 8

/-- Logical pod at a position of a region. -/
def podAt (rg pos : Nat) : Nat := (rg / 4 * 5 + pos / 8) * 32 + rg % 4 * 8 + pos % 8

/-- Physical slot that serves a logical pod. -/
def slotOfPod (s : State) (k : Nat) : Nat :=
  let r := s.rgn (regionOfPod k)
  servedBy r.s1 r.s3 (posOfPod k)

/-- The pod serving logical pod `k` is in service (R258). -/
def podInService (s : State) (k : Nat) : Bool := slotState (s.rgn (regionOfPod k)).pods (slotOfPod s k) = .active

/-- A memory-cell address is reachable: its region is live and its pod in service (R258, R458). -/
def cellReachable (s : State) (a : Nat) : Bool := regionLive s (regionOfAddr a) && podInService s (podOfAddr a)

/-- A physical pod changes its state, with POD_STATE_CHANGE: 0 command, 1 fault, 2 map applied. -/
def podState (s : State) (rg slot : Nat) (new : PodState) (cause : Nat) : State :=
  let r := s.rgn rg
  let old := slotState r.pods slot
  let t := s.setRgn rg { r with pods := tset r.pods slot new }
  let b := fields 40 [(0, le 1 rg), (1, le 1 slot), (2, le 1 old.code), (3, le 1 new.code), (4, le 1 cause)]
  if old = new then t
  else match s.regionPart rg with
    | some p => eventPart t p 0x0402 b
    | none => eventDev t 0x0402 b

/-- The map store no longer holds region `rg`'s state; its write takes its place in the flash order (R143, R177, R272). -/
def dueStore (s : State) (rg : Nat) : State :=
  let t := s.setRgn rg { s.rgn rg with stored := false }
  if s.boot.jobs.any (fun j => j.id = 0 && j.fn = rg) then t
  else { t with boot := { t.boot with jobs := t.boot.jobs ++ [{ fn := rg, id := 0 }] } }

/-- A physical pod is fenced and QUARANTINED; the map store is to be written (R269, R272). -/
def quarantine (s : State) (rg slot cause : Nat) : State :=
  let t := podState s rg slot .quarantined cause
  let r := t.rgn rg
  let u := dueStore t rg
  let hit := (List.range 40).filter (fun pos => servedBy r.s1 r.s3 pos = slot)
  { u with fab := { u.fab with pods := u.fab.pods.filter (fun p => !(hit.map (podAt rg)).contains p.1) } }

end Sys2Proof.Machine
end

