-- ==== Sys2Proof/Machine/Faults.lean ====
section
/-! DEFINITION. Raising a fault: its record, the commit queue, events, AER, and what its class brings about (R837–R856). -/

namespace Sys2Proof.Machine

/-- A fault as it is raised. -/
structure Flaw where
  code : Nat
  cls : Nat
  partition : Nat := 255
  region : Nat := 255
  pod : Nat := 65535
  cell : Nat := 255
  unit : Nat := 255
  jobId : W32 := 0
  address : Nat := 0
  detail : List Byte := []
  injected : Bool := false
deriving DecidableEq, Repr

/-- SOURCE of a code (R913). -/
def sourceOf (code : Nat) : Nat :=
  if 0x0B01 ≤ code && code ≤ 0x0B04 then 2
  else if [0x0109, 0x010A, 0x0105, 0x0106, 0x0107, 0x0108, 0x0401, 0x0E01].contains code then 1 else 0

/-- The record of a fault with SEQ `q` (R841). -/
def Flaw.record (f : Flaw) (s : State) : Rec :=
  { code := f.code, cls := f.cls, source := sourceOf f.code, companionTime := false, injected := f.injected, committed := false
    seq := s.faults.nextSeq, time := s.time, partition := f.partition, region := f.region, pod := f.pod, cell := f.cell, unit := f.unit
    count := 1, jobId := f.jobId, resetCount := s.comp.aon.count, address := BitVec.ofNat 64 f.address, detail := f.detail }

/-- Drops the oldest record of a ring that holds more than 4,096 (R843). -/
def capRing (l : List Rec) : List Rec := if 4096 < l.length then l.drop 1 else l

/-- A record is one of device-fatal class. -/
def fatal (r : Rec) : Bool := r.cls = 3

/-- The commit queue with a new record: class 3 behind class 3 at the head, others at the tail; a full queue drops the earliest of the
lowest class (R844). (DEDUCED: log entry 63.) -/
def queueCommit (q : List Rec) (r : Rec) : List Rec :=
  let all := if r.cls = 3 then q.takeWhile fatal ++ [r] ++ q.dropWhile fatal else q ++ [r]
  if all.length ≤ 16 then all
  else
    let low := (all.map (fun x => x.cls)).foldl min 3
    match all.findIdx? (fun x => x.cls = low) with
    | some i => all.eraseIdx i
    | none => all

/-- A record is due for the companion's ring (R844). -/
def commitDue (s : State) (r : Rec) : Bool := 2 ≤ r.cls || (r.cls = 1 && !s.faults.firsts.contains r.code)

/-- Queues a record for commit when it is due (R844). -/
def commitRecord (s : State) (r : Rec) : State :=
  if commitDue s r then
    { s with faults := { s.faults with
        queue := queueCommit s.faults.queue r, firsts := if r.cls = 1 then sins s.faults.firsts r.code else s.faults.firsts } }
  else s

/-- The functions that see a record's fault: PF0, and the VF of its partition (R847, R861). -/
def recFns (p : Nat) : List Nat := if p < 16 then [0, p + 1] else [0]

/-- ERROR_RECORDED, at most once per interval of 10 ms on a function (R847). -/
def tellRecorded (s : State) (fn : Nat) (seq : W32) (cls : Nat) : State :=
  let r := s.fn fn
  if r.erHold then
    s.setFn fn { r with erFirst := if r.erCount = 0 then seq else r.erFirst, erCount := r.erCount + 1, erClass := max r.erClass cls }
  else
    raiseAt (s.setFn fn { r with erHold := true, erCount := 0, erClass := 0 }) fn
      { partition := ownPart fn, code := 0x0E02, tag := 0, time := s.time, payload := fields 40 [(0, le 4 seq.toNat), (4, le 4 1), (8, le 1 cls)] }

/-- HZ_FAULT_STATUS, HZ_FAULT_COUNT and HZ_INT_STATUS of a function take a record (R861, R873). -/
def countFault (s : State) (fn code cls : Nat) : State :=
  let r := s.fn fn
  let c := tset r.counts cls (sat 255 (tget 0 r.counts cls + 1))
  if cls = 0 then s.setFn fn { r with counts := c }
  else setInt (s.setFn fn { r with counts := c, lastCode := BitVec.ofNat 16 code, lastClass := cls }) fn 0

/-- Reports a fault through AER (R855). -/
def reportAer (s : State) (p cls : Nat) : State :=
  if cls = 0 then s
  else
    let fn := if cls = 3 || 16 ≤ p then 0 else p + 1
    let r := s.fn fn
    s.setFn fn (if cls = 1 then { r with aerCorrected := true } else { r with aerInternal := true })

/-- Appends a record to the HBM ring, with what every appended record brings: counts, commit, ERROR_RECORDED (R842–R847, R861). -/
def appendRec (s : State) (r : Rec) : State :=
  let s1 := { s with faults := { s.faults with ring := capRing (s.faults.ring ++ [r]), nextSeq := s.faults.nextSeq + 1 } }
  let s2 := forFns s1 (recFns r.partition) (fun t fn => countFault t fn r.code r.cls)
  let s3 := if r.source = 2 then s2 else commitRecord s2 r
  if r.cls = 0 then s3 else forFns s3 (recFns r.partition) (fun t fn => tellRecorded t fn r.seq r.cls)

/-- Two corrected records are of one fault (R841). -/
def sameFault (a b : Rec) : Bool :=
  a.cls = 0 && a.code = b.code && a.pod = b.pod && a.cell = b.cell && a.unit = b.unit && a.address = b.address

/-- Place of the record that a corrected fault is merged into (R841). -/
def mergeInto (s : State) (r : Rec) : Option Nat :=
  let l := s.faults.ring
  let recent := (List.range l.length).reverse.find? (fun i =>
    match l[i]? with | some x => sameFault x r && (r.time - x.time).toNat ≤ 1000000000 | none => false)
  match recent with
  | some i => some i
  | none =>
    if s.faults.correctedSecond = r.time.toNat / 1000000000 && 256 ≤ s.faults.corrected then
      (List.range l.length).reverse.find? (fun i => match l[i]? with | some x => x.cls = 0 | none => false)
    else none

/-- A corrected fault is merged, or its record appended (R841, R847). (DEDUCED: log entry 63.) -/
def corrected (s : State) (r : Rec) : State :=
  match mergeInto s r with
  | some i =>
    match s.faults.ring[i]? with
    | none => s
    | some x =>
      let n := sat 0xFFFF (x.count + 1)
      let t := { s with faults := { s.faults with ring := s.faults.ring.set i { x with count := n } } }
      if s.faults.ceThreshold ≠ 0 && n = s.faults.ceThreshold && x.count < n then
        forFns t (recFns x.partition) (fun t fn => tellRecorded t fn x.seq 0)
      else t
  | none =>
    let sec := r.time.toNat / 1000000000
    let n := if s.faults.correctedSecond = sec then s.faults.corrected + 1 else 1
    let t := appendRec { s with faults := { s.faults with corrected := n, correctedSecond := sec } } r
    if s.faults.ceThreshold = 1 then forFns t (recFns r.partition) (fun t fn => tellRecorded t fn r.seq 0) else t

/-- The first flit of a BULK transaction that the stopped state carries: a Husk buddy transfer, or a COMPLETE (R854). (DEDUCED: log entry 63.) -/
def buddyHead (b : List Byte) : Bool := rd 1 b 2 = 3 || (rd 1 b 2 = 2 && rd 1 b 24 = 3)

/-- The flits of a BULK queue that the stopped state still carries (R854); `go` says whether the transaction under way is one of them. -/
def buddyFlits (go : Bool) (l : List OutFlit) : List OutFlit :=
  match l with
  | [] => []
  | f :: r => let k := if f.sot then buddyHead f.payload else go; if k then f :: buddyFlits k r else buddyFlits k r

/-- The stopped state (R854). (DEDUCED: log entry 63.) -/
def enterStopped (s : State) (code : Nat) : State :=
  let t := { s with
    faults := { s.faults with stopped := true }
    link := { s.link with ports := s.link.ports.map (fun p =>
      (p.1, { p.2 with queue := p.2.queue.map (fun q => (q.1, if q.1 < 2 then buddyFlits true q.2 else q.2)) })) } }
  (List.range 16).foldl (fun t p => makeFaulted t p code) t

/-- ACTION does not apply to these codes of class 3 (R851). -/
def noAction (code : Nat) : Bool := [0x0102, 0x0105, 0x0106, 0x0107, 0x0108, 0x0B01].contains code

/-- Device-fatal warm resets within the last 60 minutes (R852). -/
def recentResets (s : State) : Nat := (s.faults.resetTimes.filter (fun t => s.time.toNat < t + 3600000000000)).length

/-- What a class-3 fault brings about while Hazel runs (R851, R852). -/
def fatalAction (s : State) (code : Nat) : State :=
  if noAction code then s
  else if s.faults.stop || s.faults.resetLimit ≤ recentResets s then enterStopped s code
  else { s with faults := { s.faults with fatalPending := true }, rst := { s.rst with warmReq := 3 } }

/-- PARTITION_FAULT, and the partition FAULTED, on a class-2 fault (R848). (DEDUCED: log entry 63.) -/
def partitionFault (s : State) (r : Rec) : State :=
  if canFault s r.partition then
    eventPart (makeFaulted s r.partition r.code) r.partition 0x0E01
      (fields 12 [(0, le 2 r.code), (4, le 4 r.seq.toNat), (8, le 4 r.jobId.toNat)])
  else s

/-- Raises a fault, but for the automatic quarantine (R837, R841–R855). A class-3 fault before Hazel runs is latched (R851). (DEDUCED: log entry 63.) -/
def raiseFault (s : State) (f : Flaw) : State :=
  let r := f.record s
  if f.cls = 0 then corrected s r
  else if f.cls = 3 && s.boot.hazel ≠ .running then { s with faults := { s.faults with latched := s.faults.latched ++ [r] } }
  else
    let t := if f.cls = 2 && !canFault s f.partition then appendRec s r else reportAer (appendRec s r) f.partition f.cls
    if f.cls = 2 then partitionFault t r else if f.cls = 3 then fatalAction t f.code else t

/-- The fault of an automatic quarantine of a pod (R849): POD_FAILING, then containment as with FORCE. -/
def quarantineOnFault (s : State) (k n : Nat) : State :=
  let rg := regionOfPod k
  let slot := slotOfPod s k
  let p := s.regionPart rg
  let t := raiseFault s
    { code := 0x0401, cls := if p.isSome then 2 else 1, partition := p.getD 255, region := rg, pod := k
      detail := le 1 slot ++ le 1 (sat 255 n) }
  quarantine t rg slot 1

/-- Counts a CELL_UNCORRECTED at a pod within 24 hours (R849). -/
def podFaultCount (s : State) (k : Nat) : Nat × State :=
  let day := 86400000000000
  let k := regionOfPod k * 64 + slotOfPod s k
  let old := (tget [] s.faults.podFaults k).filter (fun e => s.time.toNat < e.1 + day)
  let l := old ++ [(s.time.toNat, 1)]
  ((l.map (fun e => e.2)).foldl (· + ·) 0, { s with faults := { s.faults with podFaults := tset s.faults.podFaults k l } })

/-- Raises a fault (R837–R855), with the automatic quarantine of R849. -/
def fault (s : State) (f : Flaw) : State :=
  let t := raiseFault s f
  if f.code = 0x030A then
    let c := podFaultCount t f.pod
    if s.faults.autoQuarantine && c.1 = 3 then quarantineOnFault c.2 f.pod c.1 else c.2
  else t

/-- Place of a device address in a fault: partition, region, pod, cell. -/
def cellFlaw (s : State) (a : Nat) (code cls : Nat) (injected : Bool) (detail : List Byte) : Flaw :=
  { code := code, cls := cls, partition := (s.regionPart (regionOfAddr a)).getD 255, region := regionOfAddr a, pod := podOfAddr a
    cell := cellOfAddr a, address := a, injected := injected, detail := detail }

/-- A memory-cell word is read at device address `a` (a multiple of 64): its ECC error is corrected or it is poisoned (R291). -/
def readCellWord (s : State) (a : Nat) : State :=
  let w := (a - cellBase) / 64
  match tfind s.fab.cellEcc w with
  | none => s
  | some m =>
    let d := le 2 (cellWordOf a)
    if m.multi then
      fault { s with fab := { s.fab with cellEcc := tdel s.fab.cellEcc w, cellPoison := sins s.fab.cellPoison w } }
        (cellFlaw s a 0x030A 1 m.injected d)
    else fault { s with fab := { s.fab with writeBack := sins s.fab.writeBack w } } (cellFlaw s a 0x0309 0 m.injected d)

/-- An HBM word is read at device address `a` (a multiple of 64): its ECC error is corrected, or the word is poisoned (R500, R518). -/
def readHbmWord (s : State) (a : Nat) : State :=
  let w := a / 64
  let bump (t : Tab W32) : Tab W32 := tset t (stackOf a) (tget 0 t (stackOf a) + 1)
  let base (code cls : Nat) (inj : Bool) : Flaw :=
    { code := code, cls := cls, unit := stackOf a, address := a, injected := inj, detail := le 1 (pseudoOf a) }
  let s1 := match tfind s.hbm.ecc w with
    | none => s
    | some (multi, inj) =>
      let h := { s.hbm with ecc := tdel s.hbm.ecc w }
      if multi then fault { s with hbm := { h with poison := sins h.poison w, uncorrectable := bump h.uncorrectable } } (base 0x0602 1 inj)
      else fault { s with hbm := { h with corrected := bump h.corrected } } (base 0x0601 0 inj)
  if s1.hbm.poison.contains w then { s1 with hbm := { s1.hbm with poisonedReads := bump s1.hbm.poisonedReads } } else s1

/-- An engine reads `n` bytes at a device address: every word read is checked (R291, R500). -/
def engineRead (s : State) (a n : Nat) : List Byte × List Nat × State :=
  let t := (wordsTouched a n).foldl (fun t w => if cellBase ≤ w then readCellWord t w else readHbmWord t w) s
  (devBytes t a n, poisonedWords t a n, t)

end Sys2Proof.Machine
end

