-- ==== Sys2Proof/Machine/FaultCmds.lean ====
section
/-! DEFINITION. The FAULT commands, the drain to the companion's log, and the faults of the host link, of fences and of Hazel's memory
(R844–R860). -/

namespace Sys2Proof.Machine

/-- Writes records to consecutive 64-byte places of a host buffer; what was written is the model's record of the DMA. -/
def recordWrites (addr : Nat) (l : List (List Byte)) : List (Nat × List Byte × Bool) :=
  (List.range l.length).map (fun i => (addr + 64 * i, l.getD i [], false))

/-- Records of the HBM ring that a function sees, from SEQ `from_` and of class `min` on (R857). -/
def ringView (s : State) (fn : Nat) (start : W32) (min : Nat) : List Rec :=
  s.faults.ring.filter (fun r => start.toNat ≤ r.seq.toNat && min ≤ r.cls && (fn = 0 || r.partition = fn - 1))

/-- Lowest SEQ held (R857); the next SEQ where the ring is empty. -/
def oldestSeq (s : State) : W32 := (s.faults.ring.head?.map (fun r => r.seq)).getD s.faults.nextSeq

/-- FAULT_READ_LOG (R857): `stopAt` is the write at which Bus Master Enable is found clear, if there is one. -/
def execFaultReadLog (fn : Fn) (stopAt : Option Nat) (s : State) : Out :=
  withCmd s fn 14 1 fun c s =>
    let log := c.u8 0
    let min := c.u8 1
    let start : W32 := BitVec.ofNat 32 (c.u32 4)
    let max := c.u32 8
    if 1 < log || 3 < min || max = 0 || 4096 < max || rd 2 c.req.payload 2 ≠ 0 || rd 4 c.req.payload 12 ≠ 0 then finishSt s fn c.id 0x0005
    else if log = 1 && fn.val ≠ 0 then finishSt s fn c.id 0x0006
    else
      let stop := if (s.fn fn).bme then stopAt else some 0
      if log = 1 then
        let a := s.comp.aon
        let all := (List.range 64).filterMap (fun i => (tfind a.log i).filter (fun b => min ≤ (recOf b).cls))
        let l := all.take max
        let w := match stop with | some k => l.take k | none => l
        let t := { s with hostOut := recordWrites (c.u64 16) w }
        finish t fn c.id ⟨if stop.any (fun k => k < l.length) then 0x000C else 0, 0, le 4 w.length⟩
      else
        let all := ringView s fn start min
        let l := all.take max
        let w := match stop with | some k => l.take k | none => l
        let cut := stop.any (fun k => k < l.length)
        let lastSeq := (l.getLast?.map (fun r => r.seq)).getD start
        let next : W32 :=
          if cut then ((l.drop w.length).head?.map (fun r => r.seq)).getD start
          else if l.length = max then
            ((s.faults.ring.find? (fun r => lastSeq.toNat < r.seq.toNat)).map (fun r => r.seq)).getD s.faults.nextSeq
          else s.faults.nextSeq
        let old := oldestSeq s
        let t := { s with hostOut := recordWrites (c.u64 16) (w.map Rec.bytes) }
        finish t fn c.id
          ⟨if cut then 0x000C else 0, 0, le 4 w.length ++ le 4 next.toNat ++ le 4 old.toNat ++ le 4 (old.toNat - start.toNat)⟩

/-- FAULT_CLEAR (R858). -/
def execFaultClear (fn : Fn) (s : State) : Out :=
  withCmd s fn 14 2 fun c s =>
    let r := s.fn fn
    finishOk (s.setFn fn { r with counts := [], lastCode := 0, lastClass := 0 }) fn c.id
      ((List.range 4).flatMap (fun k => le 1 (tget 0 r.counts k)))

/-- FAULT_POLICY (R859). -/
def execFaultPolicy (fn : Fn) (s : State) : Out :=
  withCmd s fn 14 3 fun c s =>
    let f := s.faults
    let old := le 1 (b2n f.stop) ++ le 1 f.resetLimit ++ le 1 (b2n f.autoQuarantine) ++ le 1 0 ++ le 2 f.ceThreshold
    if 1 < c.u8 0 || c.u8 1 = 0 || 15 < c.u8 1 || 1 < c.u8 2 || c.u8 3 ≠ 0 then finishSt s fn c.id 0x0005
    else
      finishOk { s with faults := { f with
          stop := c.u8 0 = 1, resetLimit := c.u8 1, autoQuarantine := c.u8 2 = 1, ceThreshold := c.u16 4 } } fn c.id old

/-- A FAULT.INJECT request is one of TYPE `ty`; a TYPE that does not exist is refused by whichever row meets it. -/
def withInject (fn : Fn) (ty : Nat) (s : State) (k : Consumed → State → State) : Out :=
  match startable s fn 14 4 with
  | none => .next s
  | some c =>
    if 3 < c.u8 0 || 1 < c.u8 1 then nextN s (finishSt s fn c.id 0x0005)
    else if c.u8 0 = ty then nextN s (k c s) else .next s

/-- The response of FAULT.INJECT: the SEQ of the record made, or all ones. -/
def injected (s : State) (fn : Fn) (c : Consumed) (seq : W32) : State := finishOk s fn c.id (le 4 seq.toNat)

/-- FAULT_INJECT_RECORD (R860). -/
def execFaultInjectRecord (fn : Fn) (s : State) : Out :=
  withInject fn 0 s fun c s =>
    let cls := c.u8 4
    let p := c.req.partition
    if 3 < cls || rd 3 c.req.payload 5 ≠ 0 then finishSt s fn c.id 0x0005
    else if cls = 2 && p = 255 then finishSt s fn c.id 0x0005
    else if cls = 2 && (s.pt p).state = .free then finishSt s fn c.id 0x0008
    else
      let q := s.faults.nextSeq
      let t := fault s { code := 0x0E01, cls := cls, partition := p, jobId := c.req.jobId, detail := le 2 (c.u16 2), injected := true }
      injected t fn c (if t.faults.nextSeq = q then 0xFFFFFFFF#32 else q)

/-- FAULT_INJECT_CELL_ECC (R860). -/
def execFaultInjectCellEcc (fn : Fn) (s : State) : Out :=
  withInject fn 1 s fun c s =>
    let a := c.u64 8
    if !inCells a 1 then finishSt s fn c.id 0x000B
    else if !cellReachable s a then finishSt s fn c.id 0x0008
    else
      let w := (a - cellBase) / 64
      let m := bitOf (c.u8 1) 0 || (tfind s.fab.cellEcc w).any (fun e => e.multi)
      injected { s with fab := { s.fab with cellEcc := tset s.fab.cellEcc w ⟨m, true⟩ } } fn c 0xFFFFFFFF#32

/-- FAULT_INJECT_HBM_ECC (R860). -/
def execFaultInjectHbmEcc (fn : Fn) (s : State) : Out :=
  withInject fn 2 s fun c s =>
    let a := c.u64 8
    if !inHbm a 1 then finishSt s fn c.id 0x000B
    else if !s.hbm.ready then finishSt s fn c.id 0x0008
    else
      let m := bitOf (c.u8 1) 0 || (tfind s.hbm.ecc (a / 64)).any (fun e => e.1)
      injected { s with hbm := { s.hbm with ecc := tset s.hbm.ecc (a / 64) (m, true) } } fn c 0xFFFFFFFF#32

/-- FAULT_INJECT_LINK_CRC (R860). (DEDUCED: log entry 63.) -/
def execFaultInjectLinkCrc (fn : Fn) (s : State) : Out :=
  withInject fn 3 s fun c s =>
    let p := c.u64 8
    if 16 ≤ p then finishSt s fn c.id 0x000B
    else if !portUp s p then finishSt s fn c.id 0x0008
    else injected (s.setPort p { s.port p with corruptNext := true }) fn c 0xFFFFFFFF#32

/-- ERRLOG_COMMIT_DRAIN (R844, R845): the queue's head goes to the companion, unless that answers BUSY_UPDATE. (DEDUCED: log entry 63.) -/
def execErrlogCommitDrain (s : State) : Out :=
  match s.faults.queue with
  | [] => .next s
  | r :: q =>
    if !s.ready || !s.comp.running || s.comp.updating then .next s
    else
      let x := { r with committed := true }
      .next { s with
        faults := { s.faults with
          queue := q, ring := s.faults.ring.map (fun y => if y.seq = r.seq then { y with committed := true } else y) }
        comp := { s.comp with aon := s.comp.aon.append x.bytes } }

/-- A companion record is already in the HBM ring, judged by CODE, TIME, RESET_COUNT and CRC (R846): what the CRC covers but for the SEQ
that the copy has of its own. -/
def heldAlready (s : State) (r : Rec) : Bool :=
  s.faults.ring.any (fun x => x.code = r.code && x.time = r.time && x.resetCount = r.resetCount && { x with seq := r.seq } = r)

/-- Companion records that the HBM ring lacks, in the order in which the companion's ring holds them. -/
def companionNew (s : State) : List Rec :=
  let a := s.comp.aon
  let order := (List.range 64).map (fun i => (a.logIdx + i) % 64)
  ((order.filterMap (fun i => tfind a.log i)).map recOf).filter (fun r => r.source = 2 && !heldAlready s r)

/-- Appends the new companion records; `live` reports each as a fault of the running device (R846). -/
def takeCompanionLog (s : State) (live : Bool) : State :=
  (companionNew s).foldl (fun t r =>
    let u := appendRec t { r with seq := t.faults.nextSeq }
    if live then (let v := reportAer u r.partition r.cls; if r.cls = 3 then fatalAction v r.code else v) else u) s

/-- COMPANION_LOG_POLL (R846). -/
def execCompanionLogPoll (s : State) : Out :=
  if s.ready && s.comp.running then nextN s (takeCompanionLog s true) else .next s

/-- COMPANION_IRQ (R71, R846): a line is low, and Hazel reads the companion's status and ring. The status bits stay: a COMPANION_SPI_WRITE clears
them. (DEDUCED: log entry 16.) -/
def execCompanionIrq (s : State) : Out :=
  if (irq0Low s || irq1Low s) && s.ready && s.comp.running then nextN s (takeCompanionLog s true) else .next s

/-- ERROR_RECORDED_HOLDOFF (R847): the interval ends, with an event for what came in it. (DEDUCED: log entry 63.) -/
def execErrorRecordedHoldoff (fn : Fn) (s : State) : Out :=
  let r := s.fn fn
  if !r.erHold then .next s
  else if r.erCount = 0 then .next (s.setFn fn { r with erHold := false })
  else
    .next (raiseAt (s.setFn fn { r with erCount := 0, erClass := 0 }) fn
      { partition := ownPart fn, code := 0x0E02, tag := 0, time := s.time
        payload := fields 40 [(0, le 4 r.erFirst.toNat), (4, le 4 r.erCount), (8, le 1 r.erClass)] })

/-- A command's read of host memory has failed (R855): its descriptor with a host source fails, or the command ends with DMA_ERROR. -/
def hostReadFails (s : State) (fn : Nat) (id : Nat) : State :=
  match cmdOf s fn id with
  | none => s
  | some c =>
    if !c.started then s
    else
      match s.eng.lists.find? (fun l => l.cmd = some (fn, id)) with
      | some l =>
        match s.eng.jobs.find? (fun j => j.list = l.id && j.started && j.desc.srcHost && j.fail.isNone) with
        | some j => modJob s j.id (fun j => { j with fail := some (0x000C, 0) })
        | none => s
      | none => if c.timing = 2 then workDone s fn id ⟨0x000C, 0, []⟩ else finishSt s fn id 0x000C

/-- POISONED_TLP_RECEIVE (R855): a poisoned write is discarded, a poisoned completion ends its command. -/
def execPoisonedTlpReceive (fn : Fn) (ended : Option Nat) (s : State) : Out :=
  let t := s.setFn fn { s.fn fn with aerPoisoned := true }
  match ended with
  | none => .next t
  | some id => .next (hostReadFails t fn id)

/-- HOST_COMPLETION_TIMEOUT (R855). -/
def execHostCompletionTimeout (fn : Fn) (ended : Option Nat) (s : State) : Out :=
  let t := s.setFn fn { s.fn fn with aerTimeout := true }
  match ended with
  | none => .next t
  | some id => .next (hostReadFails t fn id)

/-- A fence that FENCE_STUCK names is TERMINATING: 0–15 partition, 16 + n engine, 32 + n port (R850). -/
def fenceTerminating (s : State) (f : Nat) : Bool :=
  if f < 16 then (s.pt f).fence.state = .terminating
  else if f < 32 then tget FenceState.open s.eng.fences (f - 16) = .terminating
  else (tget DPort.init s.hub.dp (f - 32)).fence = .terminating

/-- FENCE_STUCK (R850). -/
def execFenceStuck (fence : Fin 40) (s : State) : Out :=
  if fenceTerminating s fence then
    nextN s (fault s { code := 0x0104, cls := 3, partition := if fence.val < 16 then fence.val else 255, detail := le 1 fence })
  else .next s

/-- HAZEL_SRAM_UE (R841, R851). -/
def execHazelSramUe (offset : W32) (s : State) : Out :=
  if s.boot.hazel = .off then .next s else nextN s (fault s { code := 0x0103, cls := 3, detail := le 4 offset.toNat })

end Sys2Proof.Machine
end

