-- ==== Sys2Proof/Machine/ImageOps.lean ====
section
/-! DEFINITION. The boot flash as it reads, the settings record, and the checks of a boot image (R140–R150, R161). -/

namespace Sys2Proof.Machine

/-- Bytes of the flash, and the map store within it (R140). -/
def flashSize : Nat := 0x4000000
def storeBase : Nat := 0x1E00000
def storeEnd : Nat := 0x1F00000
/-- First byte of the golden area, and of an image slot: 0 primary, 1 golden (R140). -/
def goldenBase : Nat := 0x2000000
def slotBase (slot : Nat) : Nat := if slot = 0 then 0 else goldenBase

/-- A byte of the map store: a bank's header and records where the bank is valid, erased flash elsewhere (R143). -/
def storeByte (banks : Tab MapBank) (o : Nat) : Byte :=
  match tfind banks (o / 0x80000) with
  | none => 0xFF
  | some b => b.bytes.getD (o % 0x80000) 0xFF

/-- The `n` bytes of flash from `a` on. -/
def flashRead (s : State) (a n : Nat) : List Byte :=
  if a + n ≤ storeBase || storeEnd ≤ a then mread 0xFF s.boot.flash a n
  else (span a n).map (fun x => if storeBase ≤ x && x < storeEnd then storeByte s.fab.banks (x - storeBase) else mget 0xFF s.boot.flash x)

/-- A settings record's 64 bytes are valid (R144). -/
def settingsValid (b : List Byte) : Bool := rd 4 b 0 = 0x54535256 && rd 4 b 60 = (crc32c (bytesAt b 0 60)).toNat

/-- The settings record in use (R142, R144). -/
def settingsRecord (s : State) : Option (List Byte) :=
  let a := flashRead s 0x1F00000 64
  let b := flashRead s 0x1F80000 64
  if settingsValid a then (if settingsValid b && rd 4 a 4 < rd 4 b 4 then some b else some a)
  else if settingsValid b then some b else none

/-- The settings come into force; values out of their range act as the default (R144). -/
def readSettings (s : State) : State :=
  let b := (settingsRecord s).getD []
  let t := rd 2 b 8
  let w := rd 1 b 11
  { s with boot := { s.boot with
      doneTimeout := if 1 ≤ t && t ≤ 600 then t else 10, doneIgnore := rd 1 b 10 = 1, wdogLimit := if 1 ≤ w && w ≤ 7 then w else 3 } }

/-- A section entry of a boot image header (R147). -/
structure Sect where
  type : Nat
  flags : Nat
  off : Nat
  len : Nat
  rest : Nat
  digest : List Byte
deriving DecidableEq, Repr

/-- The sixteen section entries of a header. -/
def sectEntries (h : List Byte) : List (List Byte) := (List.range 16).map (fun i => bytesAt h (0x80 + 64 * i) 64)
def sectOf (e : List Byte) : Sect :=
  { type := rd 2 e 0, flags := rd 2 e 2, off := rd 4 e 4, len := rd 4 e 8, rest := rd 4 e 12, digest := bytesAt e 16 48 }
/-- Entries in use. -/
def sects (h : List Byte) : List Sect := ((sectEntries h).map sectOf).filter (fun x => x.type ≠ 0)

/-- Largest length of a section type; types the manual does not list are not limited (R147, R150). -/
def sectLimit (type : Nat) : Option Nat :=
  if type = 1 then some 0xC0000 else if type = 2 then some 0x40000 else if type = 3 then some 0x400000
  else if type = 4 || type = 5 then some 0x800000 else none

/-- Check 1: the fixed fields, and every reserved header byte zero (R149). (DEDUCED: log entry 21.) -/
def check1 (h : List Byte) : Nat :=
  if rd 4 h 0 ≠ 0x49425256 then 2
  else if rd 2 h 4 ≠ 1 || rd 2 h 6 ≠ 0x500 || rd 1 h 0x17 ≠ 0 || (bytesAt h 0x4E0 32).any (· ≠ 0)
      || (sects h).any (fun x => x.flags ≠ 0 || x.rest ≠ 0) then 3
  else 0

/-- Check 2: IMAGE_LENGTH (R141, R146, R149). (DEDUCED: log entry 21.) -/
def check2 (h : List Byte) : Nat :=
  let n := rd 4 h 8
  if 31457280 < n then 4 else if n < 8192 || n % 16 ≠ 0 then 3 else 0

/-- Checks 3 to 5: the sections (R149). (DEDUCED: log entry 21.) -/
def check345 (h : List Byte) : Nat :=
  let n := rd 4 h 8
  let l := sects h
  let count := rd 2 h 0x14
  let blank := (sectEntries h).all (fun e => rd 2 e 0 ≠ 0 || e.all (· = 0))
  let inside := l.all (fun x => x.off % 4096 = 0 && 4096 ≤ x.off && 0 < x.len && x.off + x.len ≤ n - 16)
  let apart := (List.range l.length).all (fun i => (List.range i).all (fun j =>
    match l[i]?, l[j]? with | some x, some y => x.off + x.len ≤ y.off || y.off + y.len ≤ x.off | _, _ => true))
  let one (t : Nat) : Nat := (l.filter (fun x => x.type = t)).length
  if !(l.length = count && 2 ≤ count && blank) then 13
  else if !(inside && apart) then 13
  else if !(one 1 = 1 && l.all (fun x => one x.type = 1) && l.all (fun x => match sectLimit x.type with | some m => x.len ≤ m | none => true)) then 13
  else 0

/-- The step codes of a start-up sequence word, first step first (R161). -/
def stepCodes (w : Nat) : List Nat := [bitsOf w 7 6, bitsOf w 15 14, bitsOf w 23 22, bitsOf w 31 30]

/-- STARTUP_SEQ is valid (R161). (DEDUCED: log entry 21.) -/
def startupSeqValid (w : Nat) : Bool :=
  let l := stepCodes w
  (List.range 4).all (fun c => l.contains c) && l.findIdx (· = 0) < l.findIdx (· = 2)

/-- Checks 6 to 8: sequence word, key, signature (R147, R149). (DEDUCED: log entry 21.) -/
def check678 (h : List Byte) : Nat :=
  let x := bytesAt h 0x20 48
  let y := bytesAt h 0x50 48
  let key := rd 1 h 0x16
  if !startupSeqValid (rd 4 h 0x10) then 5
  else if 3 < key || Config.keyRevoked key || Config.sha384 (x ++ y) ≠ Config.keyHash key then 6
  else if !Config.ecdsaP384 x y (Config.sha384 (bytesAt h 0 0x480)) (bytesAt h 0x480 48) (bytesAt h 0x4B0 48) then 7
  else 0

/-- Checks 1 to 8 on a header: 0, or the boot result code of the first that fails (R149, R151). -/
def headerCheck (h : List Byte) : Nat :=
  match (([check1, check2, check345, check678] : List (List Byte → Nat)).map (fun f => f h)).find? (· ≠ 0) with
  | some c => c
  | none => 0

/-- Checks 9 and 10 on a whole image whose header has passed (R148, R149). -/
def bodyCheck (img : List Byte) : Nat :=
  let n := rd 4 img 8
  if (sects img).any (fun x => Config.sha384 (bytesAt img x.off x.len) ≠ x.digest) then 8
  else if rd 4 img (n - 16) ≠ 0x4C545256 || rd 4 img (n - 12) ≠ n || rd 4 img (n - 8) ≠ rd 4 img 12
      || rd 4 img (n - 4) ≠ (crc32c (bytesAt img 0 (n - 4))).toNat then 9
  else 0

/-- The boot result code of the image that `get off len` reads (R149). (DEDUCED: log entry 21.) -/
def imageCheck (get : Nat → Nat → List Byte) : Nat :=
  let h := get 0 0x500
  let c := headerCheck h
  if c ≠ 0 then c else bodyCheck (get 0 (rd 4 h 8))

/-- The boot result code of a flash slot's image. -/
def slotCheck (s : State) (slot : Nat) : Nat := imageCheck (fun o n => flashRead s (slotBase slot + o) n)

/-- The section of a type in a header. -/
def sectNamed (h : List Byte) (type : Nat) : Option Sect := (sects h).find? (fun x => x.type = type)

end Sys2Proof.Machine
end

