-- ==== Sys2Proof/Machine/BootOps.lean ====
section
/-! DEFINITION. The boot ROM, the start of Hazel firmware, the end of its start-up, and recovery mode (R133–R137, R151–R172). -/

namespace Sys2Proof.Machine

/-- HZ_RESET_CAUSE and HZ_RESET_COUNT from the companion and from what took part in the reset (R135, R136). -/
def fillCause (s : State) : State :=
  let r := s.rst
  let has (k : ResetKind) : Nat := b2n (r.sources.contains k)
  let v := bitsOf (causeWord s).toNat 10 8 + 2 ^ 8 * b2n (r.sources.contains .powerOn || r.sources.contains .efuse)
    + 2 ^ 9 * has .cold + 2 ^ 10 * has .hot + 2 ^ 11 * has .warm + 2 ^ 12 * has .watchdog + 2 ^ 13 * has .thermal
    + 2 ^ 14 * b2n r.hbmKept + 2 ^ 15 * b2n r.stateRestored + (if r.sources.contains .thermal then 2 ^ 16 * r.sensor else 0)
  { s with rst := { r with causeReg := BitVec.ofNat 32 v, countReg := s.comp.aon.count, fillDue := false } }

/-- A hot reset's own record of sources (R135, R137). -/
def hotSources (s : State) : State :=
  { s with rst := { s.rst with sources := [.hot], hbmKept := true, stateRestored := false, hotPending := false, fillDue := true } }

/-- Hazel fills the registers once its start-up is over and the companion has counted the reset; a halted Hazel fills nothing (R134–R137). -/
def tryFill (s : State) : State :=
  if s.rst.fillDue && s.rst.sampled && (s.rst.epReady || s.boot.hazel = .recovery) && s.boot.hazel ≠ .halted then fillCause s else s

/-- Hazel loads each region's active map from the map store, or from the repair fuses where no bank is valid (R108, R142, R143). -/
def loadMaps (s : State) : State :=
  let recs := match bankInUse s.fab.banks with
    | some b => (tget factoryBank s.fab.banks b).recs
    | none => factoryBank.recs
  (List.range 16).foldl
    (fun t rg =>
      let m := tget (factoryRec rg) recs rg
      t.setRgn rg { t.rgn rg with s1 := m.s1, s3 := m.s3, sequence := m.sequence, pods := m.pods, stored := true }) s

/-- Recovery mode: no start-up step runs, the endpoint is ready, DONE is not driven (R157–R160). -/
def enterRecovery (s : State) : State :=
  let t := { s with
    boot := { s.boot with hazel := .recovery, source := 2, fwVersion := 0, toDeploy := [], dieDone := false }
    clk := { s.clk with root := false, run := false, pllEnabled := false, pllLocked := false }
    rst := { s.rst with hbmOut := false, linkOut := false, fabOut := [], zeroing := [], epReady := true, wdogRunning := false }
    hbm := { s.hbm with ready := false } }
  noteStatusAll s (tryFill t)

/-- Sections that are deployed: SERDES, ENGINE_UCODE, POD_BIST (R166). -/
def deployable (h : List Byte) (base : Nat) : List (Nat × Nat × Nat × List Byte) :=
  ((sects h).filter (fun x => x.type = 3 || x.type = 4 || x.type = 5)).map (fun x => (x.type, base + x.off, x.len, x.digest))

/-- The boot ROM starts the image of a slot: firmware, sequence word and watchdog; latched faults are appended (R133, R151, R156, R851). -/
def startHazel (s : State) (slot : Nat) : State :=
  let h := flashRead s (slotBase slot) 0x500
  let s1 := loadMaps { s with
    boot := { s.boot with
      hazel := .running, source := slot, fwVersion := BitVec.ofNat 32 (rd 4 h 12), startupSeq := BitVec.ofNat 32 (rd 4 h 16)
      toDeploy := deployable h (slotBase slot), sections := [], fallback := slot = 1 }
    rst := { s.rst with wdogRunning := true } }
  let late := s1.faults.latched
  late.foldl (fun t r => reportAer (appendRec t { r with seq := t.faults.nextSeq }) 255 3) { s1 with faults := { s1.faults with latched := [] } }

/-- What the ROM finds for a slot before it reads the image: the result to record, if it does not try it (R151, R153). -/
def romSkips (s : State) (slot : Nat) : Option Nat :=
  if slot = 0 && s.boot.nextGolden then some 11
  else if (if slot = 0 then s.boot.wdogLimit else 2 * s.boot.wdogLimit) ≤ s.boot.wdogStreak then some 12
  else if !s.boot.flashFitted then some 1
  else none

/-- A slot's result is recorded, and the ROM goes on: to the golden slot, or to recovery mode (R151). -/
def romFails (s : State) (slot code : Nat) : State :=
  let b := s.boot
  if slot = 0 then
    { s with boot := { b with primaryResult := code, nextGolden := b.nextGolden && code ≠ 11, hazel := .rom 1 } }
  else enterRecovery { s with boot := { b with goldenResult := code } }

/-- The boot ROM tries the slot that it has reached (R151). -/
def romStep (s : State) : State :=
  match s.boot.hazel with
  | .rom slot =>
    match romSkips s slot with
    | some c => romFails s slot c
    | none =>
      let c := slotCheck s slot
      if c ≠ 0 then romFails s slot c
      else
        let b := s.boot
        startHazel { s with boot := if slot = 0 then { b with primaryResult := 0 } else { b with goldenResult := 0 } } slot
  | _ => s

/-- The start-up step that comes next: its code (R161, R162). -/
def nextStep (s : State) : Option Nat :=
  if s.boot.hazel = .running && s.boot.stepsDone < 4 && !s.boot.stepFail then (stepCodes s.boot.startupSeq.toNat)[s.boot.stepsDone]? else none

/-- Phase 2: HBM, link and every powered region leave reset; the regions take their bindings and are zeroed (R109, R115, R268). (DEDUCED: log entry 11.) -/
def phase2 (s : State) : State :=
  let on := (List.range 16).filter (fun rg => !s.pow.gated.contains rg)
  let t := { s with
    clk := { s.clk with run := true }
    rst := { s.rst with hbmOut := true, linkOut := true, fabOut := on }
    fab := { s.fab with regions := (List.range 16).map (fun rg =>
      let r := s.rgn rg
      (rg, if on.contains rg then { r with loadedS1 := r.s1, loadedS3 := r.s3 } else r)) } }
  beginZeroing t on

/-- Records of class 2 or 3 that the HBM ring holds without COMMITTED are queued for commit (R844, R846). -/
def requeue (s : State) : State :=
  let due := s.faults.ring.filter (fun r => 2 ≤ r.cls && !r.committed && r.source ≠ 2 && !(s.faults.queue.any (fun q => q.seq = r.seq)))
  { s with faults := { s.faults with queue := due.foldl queueCommit s.faults.queue } }

/-- Records that a start-up appends: watchdog and thermal trip, and the companion's own (R846). -/
def startupRecords (s : State) : State :=
  let s1 := if s.rst.sources.contains .watchdog then
      fault s { code := 0x0105, cls := 3, detail := le 4 (max 100 (min 60000 s.rst.wdogTimeout.toNat)) } else s
  let s2 := if s1.rst.sources.contains .thermal then
      fault s1 { code := 0x0106, cls := 3, detail := le 1 s1.rst.sensor ++ le 2 (ofInt 16 (max (-32768) (min 32767 s1.rst.peak))) } else s1
  let s3 := if s2.comp.running then takeCompanionLog s2 false else s2
  if s3.rst.hbmKept then requeue s3 else s3

/-- An epoch that the reset found OPEN, FROZEN or DRAINING is INCOMPLETE (R110). -/
def startupEpoch (s : State) : State :=
  match s.husk.current with
  | some e =>
    if e.state = .open || e.state = .frozen || e.state = .draining then
      let t := setEpochState s .incomplete 1
      { t with husk := { t.husk with snap := none } }
    else s
  | none => s

/-- The last start-up step is over: Hazel's start-up fill and records, then the endpoint is ready (R110, R135–R137, R143, R165, R846). -/
def startupDone (s : State) : State :=
  let s1 := startupRecords { s with rst := { s.rst with fillDue := true } }
  let s2 := startupEpoch s1
  let s3 := if (bankInUse s2.fab.banks).isNone then
      (List.range 16).foldl dueStore (fault s2 { code := 0x010A, cls := 0, detail := le 2 0xFFFF }) else s2
  let s4 := tryFill { s3 with rst := { s3.rst with epReady := true } }
  noteStatusAll s (if s4.rst.hotPending then tryFill (hotSources s4) else s4)

/-- A start-up step has completed (R155, R165). -/
def stepDone (s : State) : State :=
  let t := { s with boot := { s.boot with stepsDone := s.boot.stepsDone + 1 } }
  if t.boot.stepsDone = 4 then startupDone t else t

/-- A start-up step fails: recorded, and recovery mode follows (R164). -/
def stepFails (s : State) (code : Nat) : State :=
  enterRecovery (fault { s with boot := { s.boot with stepFail := true } } { code := 0x0107, cls := 3, detail := le 1 code })

/-- Partitions may run: DONE has passed or timed out (R172–R174). -/
def mayRun (s : State) : Bool := s.boot.done = .passed || s.boot.done = .timedOut

end Sys2Proof.Machine
end

