-- ==== Sys2Proof/Machine/DriveOps.lean ====
section
/-! DEFINITION. Captive drives: their states, slots and queues, and the states of the volumes that they carry (R617–R645, R710). -/

namespace Sys2Proof.Machine

/-- Downstream port `n`. -/
def State.dp (s : State) (n : Nat) : DPort := tget DPort.init s.hub.dp n
def State.setDp (s : State) (n : Nat) (p : DPort) : State := { s with hub := { s.hub with dp := tset s.hub.dp n p } }
def modDp (s : State) (n : Nat) (f : DPort → DPort) : State := s.setDp n (f (s.dp n))
def modDrive (s : State) (n : Nat) (f : Drive → Drive) : State := modDp s n (fun p => { p with drive := f p.drive })

/-- A captive port that exists (R606). -/
def captive (s : State) (n : Nat) : Bool := dpExists s n && !(s.dp n).passthrough

/-- Ownership record of a namespace (R644). -/
def nsRecord (s : State) (serial : List Byte) (nsid : Nat) : Option NsRecord :=
  s.hub.records.find? (fun r => r.serial = serial && r.nsid = nsid)
/-- Owner code of a namespace. (DEDUCED: log entry 58.) -/
def nsOwner (s : State) (serial : List Byte) (nsid : Nat) : Nat := ((nsRecord s serial nsid).map (fun r => r.owner)).getD 0
/-- The record of a namespace, made or replaced. -/
def setNs (s : State) (x : NsRecord) : State :=
  { s with hub := { s.hub with records := s.hub.records.filter (fun r => !(r.serial = x.serial && r.nsid = x.nsid)) ++ [x] } }
/-- An owner is given or taken away (R644, R647). -/
def ownNs (s : State) (serial : List Byte) (nsid owner : Nat) : State :=
  let clean := (nsRecord s serial nsid).any (fun r => r.clean)
  setNs s { serial := serial, nsid := nsid, owner := owner, clean := clean && owner = 0 }

/-- PF0, and the VFs of partitions that own a namespace on a drive (R658). -/
def driveFns (s : State) (serial : List Byte) : List Nat :=
  0 :: (List.range 16).filterMap (fun p => if s.hub.records.any (fun r => r.serial = serial && r.owner = p + 1) then some (p + 1) else none)

/-- The drive of a state still holds its member of a volume (R710): SUSPENDED counts as present. -/
def DriveState.holds (d : DriveState) : Bool := d ≠ .absent && d ≠ .removed && d ≠ .failed && d ≠ .unsuitable && d ≠ .hostOwned

/-- Port of the captive drive with a serial number. -/
def portOf (s : State) (serial : List Byte) : Option Nat :=
  (List.range 8).find? (fun n => captive s n && (s.dp n).drive.serial = serial && (s.dp n).drive.state ≠ .absent)

/-- A member of a volume is present (R710). -/
def memberHere (s : State) (m : Member) : Bool := (portOf s m.serial).any (fun n => (s.dp n).drive.state.holds)

/-- The state that a mounted volume has (R710). -/
def volStateNow (s : State) (v : Volume) : VolState :=
  if v.members.isEmpty then .none
  else if !v.mounted then .mounting
  else
    match (v.members.filter (fun m => !memberHere s m.2)).length with
    | 0 => .ready
    | 1 => .degraded
    | _ => .failed

/-- Volume `k` takes the state that it has now, with VOLUME_STATE_CHANGE (R710, R751). -/
def noteVolume (s : State) (k : Nat) : State :=
  match tfind s.husk.volumes k with
  | none => s
  | some v =>
    let new := volStateNow s v
    if new = v.state then s
    else
      eventDev { s with husk := { s.husk with volumes := tset s.husk.volumes k { v with state := new } } } 0x0A05
        (fields 16 [(0, le 1 (b2n v.guest)), (1, le 1 v.state.code), (2, le 1 new.code), (8, le 8 v.id.toNat)])
def noteVolumes (s : State) : State := (s.husk.volumes.map (fun v => v.1)).foldl noteVolume s

/-- Trace sinks on a drive, or on one of its namespaces, are lost (R821). -/
def loseDriveSinks (s : State) (n : Nat) (nsid : Option Nat) : State :=
  forFns s (sesFns s) (fun t fn =>
    let x := t.ses fn
    if x.sink = 2 && x.port = n && nsid.all (fun i => i = x.nsid) then loseSink t fn else t)

/-- A drive changes its state, with DRIVE_STATE_CHANGE (R643, R658). Causes: 0 command, 1 presence, 2 timeout, 3 idle policy, 4 first access,
5 slot fault, 6 reset, 7 link loss. -/
def driveState (s : State) (n : Nat) (new : DriveState) (cause : Nat) : State :=
  let d := (s.dp n).drive
  let t := modDrive s n (fun d => { d with state := new })
  if d.state = new then t
  else
    let u := forFns t (driveFns t d.serial) (fun t fn =>
      raiseAt t fn { partition := ownPart fn, code := 0x0901, tag := 0, time := s.time
                     payload := fields 40 [(0, le 1 n), (1, le 1 d.state.code), (2, le 1 new.code), (3, le 1 cause)] })
    noteVolumes (if new = .removed || new = .failed || new = .off then loseDriveSinks u n none else u)

/-- R617, steps 1 and 2: the reference clock starts and the companion is asked for power. -/
def slotOn (s : State) (n : Nat) : State :=
  let t := modDp s n (fun p => { p with refclk := true, rising := true, falling := false })
  { t with comp := { t.comp with slotCtrl := t.comp.slotCtrl ||| (1#8 <<< n) } }

/-- R618, steps 2 and 3: the slot's reset is asserted, its link is down, and the companion is asked to switch it off. -/
def slotOff (s : State) (n : Nat) : State :=
  let t := modDp s n (fun p => { p with
    perst := true, refclk := false, linkUp := false, speed := 0, width := 0, flit := false, l12 := false, rising := false, falling := true
    drive := { p.drive with enabling := false, aer := false } })
  { t with comp := { t.comp with slotCtrl := t.comp.slotCtrl &&& ~~~(1#8 <<< n) } }

/-- A drive in this state takes no work (R640). -/
def DriveState.refuses (d : DriveState) : Bool :=
  d = .off || d = .failed || d = .unsuitable || d = .absent || d = .removed || d = .hostOwned

/-- Data buffers that drive commands use: 64 KiB places in Hazel's reserved unit. (DESIGN CHOICE: log entry 53.) -/
def stagingBase : Nat := 575 * 0x10000000
def commandsOf (s : State) : List NvmeCmd := s.hub.dp.flatMap (fun p => p.2.drive.queued ++ p.2.drive.sent)
/-- The lowest run of `k` free places. -/
def freeBuffer (s : State) (k : Nat) : Nat :=
  let used := (commandsOf s).map (fun c => (c.buffer, c.length))
  let n := (used.map (fun u => u.2 / 0x10000 + 1)).foldl (· + ·) 0 + k
  let at_ (i : Nat) : Nat := stagingBase + i * 0x10000
  at_ (((List.range (n + 1)).find? (fun i => !used.any (fun u => u.1 < at_ (i + k) && at_ i < u.1 + max 1 u.2))).getD n)

/-- Data placed in a buffer (R686: no write of the Husk engine or of Hazel is tracked). -/
def stageData (s : State) (a : Nat) (data : List Byte) : State := { s with hbm := hbmPut s.hbm a data clean }

/-- A command with the next identifier of the drive. -/
def numbered (d : Drive) (c : NvmeCmd) : NvmeCmd × Drive := ({ c with cid := d.nextCid }, { d with nextCid := (d.nextCid + 1) % 65280 })

/-- A command enters the drive engine's queue for the drive at port `n`; none where the drive takes no work (R640). -/
def submit (s : State) (n : Nat) (c : NvmeCmd) : Option State :=
  let d := (s.dp n).drive
  if d.state.refuses then none
  else
    let x := numbered d c
    some (modDrive s n (fun _ => { x.2 with queued := d.queued ++ [x.1] }))

/-- An admin command goes to the drive at once. -/
def sendAdmin (s : State) (n : Nat) (c : NvmeCmd) : State :=
  let d := (s.dp n).drive
  let x := numbered d c
  modDrive s n (fun _ => { x.2 with sent := d.sent ++ [x.1] })

/-- An admin command of the drive engine's own. -/
def adminCmd (opcode nsid : Nat) (use : NvmeUse) (buffer length : Nat) : NvmeCmd :=
  { cid := 0, qid := 0, opcode := opcode, nsid := nsid, offset := 0, length := length, buffer := buffer, fua := false, use := use, member := 16
    jobId := 0, entry := [] }

/-- A command of the Husk engine on QID 1 (R633, R688). -/
def huskCmd (opcode nsid offset length buffer : Nat) (fua : Bool) (use : NvmeUse) (member : Nat) (job : W32) : NvmeCmd :=
  { cid := 0, qid := 1, opcode := opcode, nsid := nsid, offset := offset, length := length, buffer := buffer, fua := fua, use := use
    member := member, jobId := job, entry := [] }

/-- Opcodes of the NVM command set (R634). -/
def nvmFlush : Nat := 0
def nvmWrite : Nat := 1
def nvmRead : Nat := 2

/-- The queue's owner reaches the namespace (R645). -/
def mayReach (s : State) (n : Nat) (c : NvmeCmd) : Bool :=
  let o := nsOwner s (s.dp n).drive.serial c.nsid
  if c.qid = 1 then o ≠ 0 else o = c.qid - 1

/-- A drive command leaves its queues. -/
def dropCmd (s : State) (n cid : Nat) : State :=
  modDrive s n (fun d => { d with queued := d.queued.filter (fun c => c.cid ≠ cid), sent := d.sent.filter (fun c => c.cid ≠ cid) })

/-- HBM destinations of reads that have not completed are poisoned (R435, R624). -/
def poisonReads (s : State) (l : List NvmeCmd) : State :=
  (l.filter (fun c => c.opcode = nvmRead && c.qid ≠ 0)).foldl (fun t c => poisonRange t c.buffer c.length) s

/-- No command is outstanding or queued on any queue of the drive (R627). -/
def Drive.idle (d : Drive) : Bool := d.queued.isEmpty && d.sent.isEmpty

end Sys2Proof.Machine
end

