-- ==== Sys2Proof/Machine/HuskLog.lean ====
section
/-! DEFINITION. The husk volume's structures as bytes (R707–R716), and which of its epochs and segments are needed (R729–R731). -/

namespace Sys2Proof.Machine

/-- Volume `k`. -/
def State.vol (s : State) (k : Nat) : Volume := tget Volume.init s.husk.volumes k
def setVol (s : State) (k : Nat) (v : Volume) : State := { s with husk := { s.husk with volumes := tset s.husk.volumes k v } }
def member0 : Member :=
  { serial := [], nsid := 0, gen := 0, copy := 0, epochHigh := 0, segments := 0, lba := 512, inUse := [], current := none, extOpen := false, seqHigh := 0 }
def Volume.member (v : Volume) (m : Nat) : Member := tget member0 v.members m
def modMember (s : State) (k m : Nat) (f : Member → Member) : State :=
  setVol s k { s.vol k with members := tset (s.vol k).members m (f ((s.vol k).member m)) }

/-- `n` bytes: `b` with zeros after it but for the CRC of everything before the last four bytes. -/
def sealed (n : Nat) (b : List Byte) : List Byte := let x := bytesAt b 0 (n - 4); x ++ le 4 (crc32c x).toNat

/-- Serial number of the module, and text padded to 20 bytes. -/
def ownSerial : List Byte := (List.range 12).map Config.serial

/-- A member's superblock (R707). -/
def superblockBytes (v : Volume) (m : Nat) : List Byte :=
  let x := v.member m
  sealed 4096 (fields 4092
    [(0, le 4 0x56485256), (4, le 2 1), (6, le 1 (b2n v.guest)), (8, le 8 x.gen), (0x10, le 8 v.id.toNat), (0x18, bytesAt ownSerial 0 12),
     (0x28, bytesAt v.sourceSerial 0 12), (0x34, le 1 v.sourceLink), (0x35, le 1 m), (0x36, le 1 v.members.length), (0x37, le 1 v.retain),
     (0x38, le 4 x.segments), (0x3C, le 4 x.lba), (0x40, le 8 x.epochHigh), (0x48, le 8 v.sourceVolume.toNat),
     (0x50, (List.range 8).flatMap (fun i => bytesAt (v.member i).serial 0 20)), (0xF0, (List.range 8).flatMap (fun i => le 4 (v.member i).nsid))])

/-- A segment header (R711): `free` writes KIND FREE. -/
def segmentBytes (v : Volume) (m : Nat) (x : Segment) (free : Bool) : List Byte :=
  sealed 4096 (fields 4092
    [(0, le 4 0x53485256), (4, le 2 1), (6, le 1 (b2n free)), (7, le 1 m), (8, le 8 v.id.toNat), (0x10, le 8 x.seq), (0x18, le 4 x.index),
     (0x20, le 8 x.openEpoch)])

/-- A record descriptor (R712). -/
def LogRec.bytes (r : LogRec) : List Byte :=
  fields 64
    [(0, le 8 r.epoch), (8, le 1 r.kind), (9, le 1 (b2n r.whole)), (10, le 2 r.poison), (12, le 1 r.partition), (16, le 4 r.seq), (24, le 8 r.address),
     (32, le 4 r.crc.toNat)]

/-- The descriptor that 64 bytes spell. -/
def logRecOf (b : List Byte) : LogRec :=
  { epoch := rd 8 b 0, kind := rd 1 b 8, whole := bitOf (rd 1 b 9) 0, poison := rd 2 b 10, partition := rd 1 b 12, seq := rd 4 b 16, address := rd 8 b 24
    crc := BitVec.ofNat 32 (rd 4 b 32), member := 0 }

/-- An extent header (R712). -/
def extentBytes (v : Volume) (m segSeq : Nat) (x : Extent) : List Byte :=
  let head := fields 0x3C
    [(0, le 4 0x45485256), (4, le 1 x.recs.length), (5, le 1 (b2n x.relocated)), (6, le 1 m), (8, le 8 v.id.toNat), (0x10, le 8 segSeq)]
  let tail := bytesAt (x.recs.flatMap LogRec.bytes) 0 4032
  head ++ le 4 (crc32c (head ++ tail)).toNat ++ tail

/-- An index entry (R714). -/
def indexEntry (r : LogRec) : List Byte :=
  fields 32 [(0, le 8 r.address), (8, le 4 r.crc.toNat), (12, le 2 r.poison), (14, le 1 r.kind), (15, le 1 r.partition), (16, le 1 r.member), (17, le 1 (b2n r.whole))]

/-- Data records of an epoch, and its rows (R714, R719). -/
def dataRecs (l : List LogRec) : List LogRec := l.filter (fun r => r.kind ≤ 3)
def rowRecs (l : List LogRec) : List LogRec := l.filter (fun r => r.kind = 4)
def rowCount (n d : Nat) : Nat := if d = 0 then 0 else (n + d - 1) / d

/-- Block `b` of an epoch's index. -/
def indexBlock (recs : List LogRec) (b : Nat) : List Byte :=
  let n := (dataRecs recs).length
  let entry (i : Nat) : List Byte :=
    let r := if i < n then (dataRecs recs).find? (fun r => r.seq = i) else (rowRecs recs).find? (fun r => r.seq = i - n)
    (r.map indexEntry).getD (le 32 0)
  (List.range 2048).flatMap (fun k => entry (2048 * b + k))
def indexBlocks (recs : List LogRec) : Nat := (recs.length + 2047) / 2048

/-- 72 bytes with a bit for each HBM unit. -/
def unitBits (l : List Nat) : List Byte := le 72 (maskOf l)

/-- A partition entry of a commit record (R715). -/
def PartEntry.bytes (x : PartEntry) : List Byte :=
  fields 96
    [(0, le 1 1), (1, le 1 x.origin), (2, le 1 x.w), (3, le 1 x.h), (4, le 1 x.state.code), (5, le 1 x.windows.length), (8, le 4 x.folds.toNat),
     (16, (x.windows.take 16).flatMap (fun w => le 2 w.1 ++ le 2 w.2))]

/-- A COMMIT record (R715). -/
def commitBytes (guest : Bool) (e : Epoch) : List Byte :=
  let n := (dataRecs e.recs).length
  let flags := b2n e.parity + 2 * b2n e.base + 4 * b2n e.degraded + 8 * b2n e.mirrored + 16 * b2n e.missing + 32 * b2n e.localDegraded + 64 * b2n guest
  sealed 65536 (fields 65532
    [(0, le 4 0x43485256), (4, le 2 1), (6, le 2 flags), (8, le 8 e.number), (0x10, le 8 e.volumeId.toNat), (0x18, le 1 (maskOf e.live)),
     (0x19, le 1 (maskOf e.written)), (0x1A, le 1 (e.parityMember.getD 255)), (0x1B, le 1 e.d), (0x1C, le 2 e.partMask), (0x1E, le 1 e.scope),
     (0x20, le 4 n), (0x24, le 4 (rowRecs e.recs).length), (0x28, le 4 (indexBlocks e.recs)), (0x30, le 4 e.snapKey.toNat), (0x34, le 4 e.atFold.toNat),
     (0x38, le 8 e.commitTime.toNat), (0x40, unitBits e.units), (0x88, unitBits e.wholeUnits),
     (0xD0, (List.range 576).flatMap (fun u => le 1 (tget 0 e.deltas u))),
     (0x310, (List.range 16).flatMap (fun p => ((e.parts.find? (fun x => x.part = p)).map PartEntry.bytes).getD (le 96 0)))])

/-- A state that a commit record names (R430). -/
def partStateOf (c : Nat) : PartState := [PartState.free, .assigned, .loaded, .running, .stalled, .saved, .draining, .faulted].getD c .assigned

/-- The epoch that the 65,536 bytes of a COMMIT record describe (R715), without its index. -/
def epochOf (b : List Byte) : Epoch :=
  let f := rd 2 b 6
  let units (o : Nat) : List Nat := bitsSet (rd 72 b o) 576
  { number := rd 8 b 8, state := .committed, cause := 0, base := bitOf f 1, sys := 0, partMask := rd 2 b 0x1C, scope := rd 1 b 0x1E
    snapKey := BitVec.ofNat 32 (rd 4 b 0x30), atFold := BitVec.ofNat 32 (rd 4 b 0x34), units := units 0x40, wholeUnits := units 0x88
    deltas := (List.range 576).filterMap (fun u => if rd 1 b (0xD0 + u) = 0 then none else some (u, rd 1 b (0xD0 + u)))
    live := bitsSet (rd 1 b 0x18) 8, written := bitsSet (rd 1 b 0x19) 8, parityMember := if rd 1 b 0x1A = 255 then none else some (rd 1 b 0x1A)
    d := rd 1 b 0x1B, parity := bitOf f 0, degraded := bitOf f 2, localDegraded := bitOf f 5, mirrored := bitOf f 3, missing := bitOf f 4
    volumeId := BitVec.ofNat 64 (rd 8 b 0x10), commitTime := BitVec.ofNat 64 (rd 8 b 0x38)
    parts := (List.range 16).filterMap (fun p =>
      let o := 0x310 + 96 * p
      if rd 1 b o = 0 then none
      else some { part := p, origin := rd 1 b (o + 1), w := rd 1 b (o + 2), h := rd 1 b (o + 3), state := partStateOf (rd 1 b (o + 4))
                  folds := BitVec.ofNat 32 (rd 4 b (o + 8)), windows := (List.range (min 16 (rd 1 b (o + 5)))).map (fun i => (rd 2 b (o + 16 + 4 * i), rd 2 b (o + 18 + 4 * i))) })
    states := [], recs := [], system := false }

/-- A SYSTEM record (R716). -/
def systemBytes (epoch : Nat) (key : W32) (n : Nat) (time : W64) : List Byte :=
  sealed 65536 (fields 65532
    [(0, le 4 0x59485256), (4, le 2 1), (8, le 8 epoch), (0x10, le 4 key.toNat), (0x14, le 2 n), (0x16, le 1 2), (0x18, le 8 time.toNat)])

/-- First byte of segment `i` on a member (R706). -/
def segmentAt (i : Nat) : Nat := 0x100000 + i * 0x10000000

/-- Bytes of a segment that its extents take. -/
def Segment.used (g : Segment) : Nat := (g.extents.map (fun x => 0x1000 + x.recs.length * 0x10000)).foldl (· + ·) 0x1000

/-- COMMITTED epochs of a volume at or before number `p` that hold unit `u`, newest first, up to the base (R729). -/
def chainOf (v : Volume) (u p : Nat) : List Epoch :=
  let l := (v.epochs.filter (fun e => e.state = .committed && e.number ≤ p && e.units.contains u)).reverse
  l.take ((l.findIdx (fun e => e.wholeUnits.contains u)) + 1)

/-- Epochs that a running restore, or a fetch served, uses of volume `k` (R730). -/
def usedEpochs (s : State) (k : Nat) : List Nat := (s.husk.readers.filter (fun r => r.2.volume = k)).flatMap (fun r => r.2.used)

/-- The restore points of volume `k` (R730). -/
def restorePoints (s : State) (k : Nat) : List Epoch :=
  let v := s.vol k
  let c := (v.epochs.filter (fun e => e.state = .committed)).reverse
  c.take v.retain ++ (c.find? (fun e => e.system)).toList ++ c.filter (fun e => (usedEpochs s k).contains e.number)

/-- Epochs of volume `k` that are needed (R730). -/
def neededEpochs (s : State) (k : Nat) : List Nat :=
  let v := s.vol k
  ((restorePoints s k).flatMap (fun p => p.number :: p.units.flatMap (fun u => (chainOf v u p.number).map (fun e => e.number)))).eraseDups

/-- COMMITTED epochs that are not needed become SUPERSEDED (R730). (DEDUCED: log entry 55.) -/
def supersede (s : State) (k : Nat) : State :=
  let need := neededEpochs s k
  (s.vol k).epochs.foldl
    (fun t e =>
      if e.state ≠ .committed || need.contains e.number then t
      else
        let u := setVol t k { t.vol k with epochs := (t.vol k).epochs.map (fun x => if x.number = e.number then { x with state := .superseded } else x) }
        if k ≠ 0 then u
        else
          let w := if u.husk.current.any (fun c => c.number = e.number) then { u with husk := { u.husk with current := u.husk.current.map (fun c => { c with state := .superseded }) } } else u
          epochEvent w e.partMask 0x0A01
            (fields 40 [(0, le 8 e.number), (8, le 1 3), (9, le 1 5), (12, le 2 e.partMask)])) s

/-- Every extent of the segment belongs to epochs that are SUPERSEDED or were never committed, and none is being written (R731). -/
def reclaimable (s : State) (k : Nat) (m : Member) (g : Segment) : Bool :=
  let v := s.vol k
  let writing := (tfind s.husk.writers k).map (fun w => w.epoch)
  m.current ≠ some g.index && g.extents.all (fun x => x.recs.all (fun r =>
    writing ≠ some r.epoch && !(v.epochs.any (fun e => e.number = r.epoch && e.state = .committed))))

/-- A write of the Husk engine to member `m` of volume `k`: staged, and queued at the member's drive; nothing where the drive takes none. -/
def writeMember (s : State) (k m off : Nat) (data : List Byte) (fua : Bool) (use : NvmeUse) (owner : Nat) (job : W32) : Option State :=
  let x := (s.vol k).member m
  match portOf s x.serial with
  | none => none
  | some n =>
    let a := freeBuffer s ((data.length + 65535) / 65536)
    (submit s n (huskCmd nvmWrite x.nsid off data.length a fua use owner job)).map (fun t => stageData t a data)

/-- A write whose failure to be queued is left to the drive's own report. -/
def tryWrite (s : State) (k m off : Nat) (data : List Byte) (use : NvmeUse) (job : W32) : State :=
  (writeMember s k m off data true use 16 job).getD s

/-- Segments of a member that are no longer needed are freed (R731). -/
def freeSegments (s : State) (k m : Nat) : State :=
  let x := (s.vol k).member m
  (x.inUse.filter (reclaimable s k x)).foldl
    (fun t g =>
      let u := modMember t k m (fun y => { y with inUse := y.inUse.filter (fun h => h.index ≠ g.index) })
      tryWrite u k m (segmentAt g.index) (segmentBytes (s.vol k) m g true) (.segment k m) 0) s

/-- R731 at a commit and at a mount: epochs no longer needed are SUPERSEDED, and their segments freed. -/
def reclaim (s : State) (k : Nat) : State :=
  let t := supersede s k
  ((t.vol k).members.map (fun m => m.1)).foldl (fun t m => freeSegments t k m) t

/-- The free segment of a member with the lowest number. -/
def freeSegment (x : Member) : Option Nat := (List.range x.segments).find? (fun i => !x.inUse.any (fun g => g.index = i))

end Sys2Proof.Machine
end

