-- ==== Sys2Proof/Machine/HuskWrite.lean ====
section
/-! DEFINITION. Writing an epoch to a volume and its mirror: extents, parity, index, Flush, commit (R717–R728). -/

namespace Sys2Proof.Machine

/-- The epoch being written to volume `k`. -/
def modWriter (s : State) (k : Nat) (f : Writer → Writer) : State :=
  match tfind s.husk.writers k with
  | none => s
  | some w => { s with husk := { s.husk with writers := tset s.husk.writers k (f w) } }
def dropWriter (s : State) (k : Nat) : State := dropEpochWrites { s with husk := { s.husk with writers := tdel s.husk.writers k } } k

/-- A command of the epoch on volume `k` for which `f` holds is queued or outstanding. -/
def writing (s : State) (k : Nat) (f : NvmeUse → Bool) : Bool :=
  (commandsOf s).any (fun c => (c.use.writes.any (fun x => x.1 = k)) && f c.use)

/-- Reserve entries whose granule's write has completed, or will never be made: SEQ `q` of the epoch drained (R683). -/
def entryWritten (s : State) (q : Nat) : State :=
  { s with husk := { s.husk with reserve := s.husk.reserve.map (fun r => if r.seq = some q then { r with written := true } else r) } }

/-- Member `m` takes no further part in the epoch on volume `k` (R721): its commands go. -/
def markLost (s : State) (k m : Nat) (byError : Bool) : State :=
  match tfind s.husk.writers k with
  | none => s
  | some w =>
    if !w.live.contains m || w.lost.contains m then s
    else
      let mine (c : NvmeCmd) : Bool := c.use.writes = some (k, m)
      let seqs := (commandsOf s).filterMap (fun c => match c.use with | .record 0 j 1 q => if k = 0 && j = m then some q else none | _ => none)
      let t := { s with hub := { s.hub with dp := s.hub.dp.map (fun d =>
        (d.1, { d.2 with drive := { d.2.drive with queued := d.2.drive.queued.filter (fun c => !mine c) } })) } }
      seqs.foldl entryWritten (modWriter t k (fun w => { w with lost := w.lost ++ [m], byError := w.byError || byError }))

/-- A write of the epoch to a member that is not lost; a drive that takes no work is lost. -/
def epochWrite (s : State) (k m off : Nat) (data : List Byte) (fua : Bool) (use : NvmeUse) (owner : Nat) : State :=
  match tfind s.husk.writers k with
  | none => s
  | some w =>
    if w.lost.contains m then s
    else
      match writeMember s k m off data fua use owner w.jobId with
      | none => markLost s k m false
      | some t => modWriter t k (fun w => { w with bytes := w.bytes + data.length })

/-- The segment at a member's write position. -/
def Member.segment (x : Member) : Option Segment := x.inUse.find? (fun g => x.current = some g.index)
def Member.setSegment (x : Member) (g : Segment) : Member := { x with inUse := x.inUse.map (fun h => if h.index = g.index then g else h) }

/-- The open extent of a member ends: its header is written (R712). `use` says on whose account. -/
def closeExtent (s : State) (k m : Nat) (put : State → Nat → List Byte → State) : State :=
  let x := (s.vol k).member m
  match x.segment with
  | none => s
  | some g =>
    match x.extOpen, g.extents.getLast? with
    | true, some e => put (modMember s k m (fun x => { x with extOpen := false })) (segmentAt g.index + e.at_) (extentBytes (s.vol k) m g.seq e)
    | _, _ => s

/-- A new segment is opened on a member: the free one with the lowest number, its header written with FUA (R720); none when it is full (R732). -/
def openSegment (s : State) (k m epoch : Nat) (put : State → Nat → List Byte → State) : Option State :=
  let t := if (freeSegment ((s.vol k).member m)).isSome then s else freeSegments s k m
  let x := (t.vol k).member m
  (freeSegment x).map (fun i =>
    let g : Segment := { index := i, seq := x.seqHigh + 1, openEpoch := epoch, extents := [] }
    let u := modMember t k m (fun x => { x with inUse := x.inUse ++ [g], current := some i, seqHigh := x.seqHigh + 1 })
    put u (segmentAt i) (segmentBytes (t.vol k) m g false))

/-- A member has an open extent with room for one more record (R712, R720): where the record goes, and the state. -/
def placeRecord (s : State) (k m epoch : Nat) (moved : Bool) (putExt putSeg : State → Nat → List Byte → State) : Option (Nat × State) :=
  let fresh (t : State) (g : Segment) : Option (Nat × State) :=
    some (segmentAt g.index + g.used + 0x1000,
      modMember t k m (fun x => { x.setSegment { g with extents := g.extents ++ [{ at_ := g.used, relocated := moved, recs := [] }] } with extOpen := true }))
  let x := (s.vol k).member m
  let roomFor (n : Nat) : Option Segment := x.segment.filter (fun g => g.used + n ≤ 0x10000000)
  let same := x.extOpen && (x.segment.bind (fun g => g.extents.getLast?)).any (fun e => e.recs.length < 63 && e.relocated = moved && e.recs.all (fun r => r.epoch = epoch))
  match same, roomFor 0x10000 with
  | true, some g => some (segmentAt g.index + g.used, s)
  | _, _ =>
    let t := closeExtent s k m putExt
    match roomFor 0x11000 with
    | some _ => ((t.vol k).member m).segment.bind (fresh t)
    | none => (openSegment t k m epoch putSeg).bind (fun u => ((u.vol k).member m).segment.bind (fresh u))

/-- A record joins the open extent of a member. -/
def addRecord (s : State) (k m : Nat) (r : LogRec) : State :=
  modMember s k m (fun x =>
    match x.segment with
    | none => x
    | some g => x.setSegment { g with extents := g.extents.dropLast ++ (g.extents.getLast?.map (fun e => { e with recs := e.recs ++ [r] })).toList })

/-- A record is written to a member in its place (R720); none when the member has no room (R732). -/
def putRecord (s : State) (k m : Nat) (r : LogRec) (data : List Byte) (fua : Bool) (use : NvmeUse) (owner : Nat) : Option State :=
  (placeRecord s k m r.epoch false (fun t o b => epochWrite t k m o b fua (.extent k m) 16) (fun t o b => epochWrite t k m o b true (.segment k m) 16)).map
    (fun p => epochWrite (addRecord p.2 k m r) k m p.1 data fua use owner)

/-- Exclusive or of two byte sequences of the same length. -/
def xorBytes (a b : List Byte) : List Byte := if a.isEmpty then b else (a.zip b).map (fun p => p.1 ^^^ p.2)

/-- The data members of an epoch, in ascending index (R718). -/
def Writer.dataMembers (w : Writer) : List Nat := w.live.filter (fun m => w.parity ≠ some m)

/-- A data record is written under its SEQ, and taken into its row (R718, R719); none when its member is full. -/
def writeData (s : State) (k : Nat) (r : LogRec) (data : List Byte) (owner : Nat) : Option State :=
  match tfind s.husk.writers k with
  | none => some s
  | some w =>
    let m := w.dataMembers.getD (r.seq % w.d) 0
    let row := r.seq / w.d
    let x := { r with epoch := w.epoch, member := m, crc := crc32c data }
    let t := modWriter s k (fun w =>
      let old := tget ([], 0, 0) w.rows row
      { w with recs := w.recs ++ [x], next := w.next + 1
               rows := if w.parity.isSome then tset w.rows row (xorBytes old.1 data, old.2.1 ||| r.poison, old.2.2 + 1) else w.rows })
    if w.lost.contains m then some t else putRecord t k m x data false (.record k m r.kind r.seq) owner

/-- Rows whose parity record can be written: all their data records are taken in, and none of their writes is outstanding (R719). -/
def rowsReady (s : State) (k : Nat) (w : Writer) : List (Nat × List Byte × Nat × Nat) :=
  w.rows.filter (fun r => (w.ended || r.2.2.2 = w.d)
    && !writing s k (fun u => match u with | .record _ _ kind q => kind ≤ 3 && q / w.d = r.1 | _ => false))

/-- The parity record of a row (R719). -/
def writeParity (s : State) (k : Nat) (row : Nat × List Byte × Nat × Nat) : Option State :=
  match tfind s.husk.writers k with
  | none => some s
  | some w =>
    match w.parity with
    | none => some s
    | some m =>
      let x : LogRec := { epoch := w.epoch, kind := 4, whole := false, poison := row.2.2.1, partition := 255, seq := row.1, address := 0
                          crc := crc32c row.2.1, member := m }
      let t := modWriter s k (fun w => { w with recs := w.recs ++ [x], rows := tdel w.rows row.1 })
      if w.lost.contains m then some t else putRecord t k m x row.2.1 false (.record k m 4 row.1) 16

/-- Applies `f` to the elements of a list until one fails. -/
def eachOpt {α : Type} (l : List α) (f : State → α → Option State) (s : State) : Option State :=
  l.foldl (fun o x => o.bind (fun t => f t x)) (some s)

/-- Members of the epoch on volume `k` that still take part. -/
def Writer.here (w : Writer) : List Nat := w.live.filter (fun m => !w.lost.contains m)

/-- What the volume lost is covered (R721). -/
def Writer.covered (w : Writer) : Bool := w.lost.isEmpty || (w.lost.length = 1 && w.parity.isSome)

/-- The index goes to every member (R714, R720). -/
def writeIndex (s : State) (k : Nat) : Option State :=
  match tfind s.husk.writers k with
  | none => some s
  | some w =>
    let blocks := (List.range (indexBlocks w.recs)).map (fun b => (b, indexBlock w.recs b))
    (eachOpt w.here (fun t m => eachOpt blocks (fun u b =>
      putRecord u k m { epoch := w.epoch, kind := 5, whole := false, poison := 0, partition := 255, seq := b.1, address := 0, crc := crc32c b.2, member := m }
        b.2 false (.record k m 5 b.1) 16) t) s).map (fun t => w.here.foldl (fun t m => closeExtent t k m (fun t o b => epochWrite t k m o b false (.extent k m) 16)) t)

/-- A Flush of a member (R720). -/
def epochFlush (s : State) (k m : Nat) : State :=
  match tfind s.husk.writers k with
  | none => s
  | some w =>
    if w.lost.contains m then s
    else
      let x := (s.vol k).member m
      match (portOf s x.serial).bind (fun n => submit s n (huskCmd nvmFlush x.nsid 0 0 0 false (.flush k m) 16 w.jobId)) with
      | none => markLost s k m false
      | some t => t

/-- Every member's superblock gets the epoch as its EPOCH_HIGH (R707, R717). -/
def writeSuperblocks (s : State) (k : Nat) : State :=
  match tfind s.husk.writers k with
  | none => s
  | some w =>
    w.live.foldl
      (fun t m =>
        let u := modMember t k m (fun x => { x with epochHigh := w.epoch, gen := x.gen + 1, copy := 1 - x.copy })
        epochWrite u k m (((u.vol k).member m).copy * 0x1000) (superblockBytes (u.vol k) m) true (.superblock k m) 16) s

/-- An epoch begins to be written to volume `k` (R717, R718). -/
def beginWriter (s : State) (k epoch : Nat) (parity : Bool) (job : W32) : State :=
  let v := s.vol k
  let live := (v.members.filter (fun m => memberHere s m.2)).map (fun m => m.1)
  let par := if parity && 3 ≤ live.length then live.getLast? else none
  let w : Writer :=
    { epoch := epoch, live := live, parity := par, d := if par.isSome then live.length - 1 else live.length, next := 0, rows := [], recs := []
      ended := false, lost := [], byError := false, stage := 0, bytes := 0, copies := [], jobId := job, source := none }
  writeSuperblocks { s with husk := { s.husk with writers := tset s.husk.writers k w } } k

/-- Deltas of a unit at the newest COMMITTED epoch of a volume that holds it (R729); none where no such epoch exists. -/
def deltasOf (v : Volume) (u : Nat) : Option Nat :=
  ((v.epochs.filter (fun e => e.state = .committed && e.units.contains u)).getLast?).map (fun e => tget 0 e.deltas u)

/-- The commit record's fields for the epoch as it was written to a volume (R715, R722, R728). (DEDUCED: log entry 56.) -/
def commitOf (s : State) (k : Nat) (w : Writer) (e : Epoch) (mirrored missing : Bool) : Epoch :=
  { e with
    state := .committed, live := w.live, written := w.here, parityMember := w.parity, d := w.d, parity := w.parity.isSome
    degraded := !w.lost.isEmpty, localDegraded := !w.covered, mirrored := mirrored, missing := missing, recs := w.recs, commitTime := s.time
    deltas := (e.units.filter (fun u => !e.wholeUnits.contains u)).map (fun u => (u, (deltasOf (s.vol k) u).getD 0 + 1)) }

/-- COMMIT copies go to every member that still takes part (R722). -/
def writeCommit (s : State) (k : Nat) (guest : Bool) (e : Epoch) : Option State :=
  let b := commitBytes guest e
  e.written.foldl
    (fun o m => o.bind (fun t =>
      (putRecord t k m { epoch := e.number, kind := 6, whole := false, poison := 0, partition := 255, seq := 0, address := 0, crc := crc32c b, member := m }
        b true (.commit k m) 16).map (fun u => closeExtent u k m (fun u o b => epochWrite u k m o b true (.commit k m) 16)))) (some s)

/-- A BUDDY_ACK goes to the source of a guest volume (R726, R727). -/
def buddyAck (s : State) (k epoch step status : Nat) : State :=
  let v := s.vol k
  sendMgmt s v.sourceLink 255 255 0x0083 (le 8 v.sourceVolume.toNat ++ le 8 epoch ++ le 1 step ++ le 1 0 ++ le 2 status)

/-- The epoch that volume `k` holds under a number, put in its place. -/
def putEpoch (v : Volume) (e : Epoch) : Volume :=
  { v with epochs := (v.epochs.filter (fun x => x.number < e.number)) ++ [e] ++ v.epochs.filter (fun x => e.number < x.number) }

/-- The first COMMIT copy is durable: the epoch is COMMITTED (R691, R722). -/
def committed (s : State) (k : Nat) (e : Epoch) : State :=
  let t := setVol s k (putEpoch (s.vol k) e)
  if k ≠ 0 then reclaim t k
  else
    let u := setEpochState { t with husk := { t.husk with
      current := t.husk.current.map (fun c => { e with state := c.state, sys := c.sys }), lastCommitted := e.number
      frozenMarks := [], settled := [], fullRaised := false, reserve := t.husk.reserve.map (fun r => { r with written := true })
      snap := t.husk.snap.map (fun x => { x with endTime := t.time }) } } .committed 0
    reclaim (applyHeld u (fun _ => true)) 0

/-- The loss of a volume's writer that nothing covers (R722, R727, R728). (DEDUCED: log entry 56.) -/
def writerFails (s : State) (k cause status : Nat) : State :=
  match tfind s.husk.writers k with
  | none => s
  | some w => if k = 0 then epochIncomplete s cause else buddyAck (dropWriter s k) k w.epoch (if w.stage = 0 then 0 else 1) status

/-- What becomes of the epoch on volume `k` after a loss (R721, R722, R728). (DEDUCED: log entry 56.) -/
def judge (s : State) (k : Nat) : State :=
  match tfind s.husk.writers k with
  | none => s
  | some w =>
    if w.covered || w.stage = 5 then s
    else if k ≠ 0 then writerFails s k 0 0x0907
    else if w.here.isEmpty then epochIncomplete s (if w.byError then 8 else 6)
    else
      let b := (s.husk.snap.map (fun x => x.buddy)).getD 0
      if b = 0 then epochIncomplete s (if w.byError then 8 else 6) else if b = 5 then epochIncomplete s 9 else s

/-- A volume that has no room (R732). -/
def volumeFull (s : State) (k : Nat) : State := writerFails s k 7 0x0A0F

/-- The stream to the buddy is at its end or was never asked for: the buddy's outcome is known (R728). -/
def buddyKnown (s : State) : Bool := s.husk.snap.all (fun x => x.buddy = 0 || x.buddy = 4 || x.buddy = 5)

/-- The commit of the epoch on volume `k` begins (R722, R727, R728). -/
def beginCommit (s : State) (k : Nat) (w : Writer) : Option State :=
  if k = 0 then
    match s.husk.current, s.husk.snap with
    | some e, some x =>
      let c := commitOf s 0 w e (x.buddy = 4) (x.buddy = 5)
      let t := if x.buddy = 5 then eventDev s 0x0A07 (le 8 e.number ++ le 2 x.buddyStatus) else s
      writeCommit { t with husk := { t.husk with current := some { c with state := e.state } } } 0 false c
    | _, _ => some s
  else
    match w.source with
    | none => some s
    | some e => writeCommit s k true { commitOf s k w e e.mirrored e.missing with
        state := .committed, deltas := e.deltas, volumeId := e.volumeId, degraded := e.degraded, localDegraded := false, commitTime := e.commitTime }

/-- The epoch as its commit record describes it. -/
def commitNow (s : State) (k : Nat) (w : Writer) : Option Epoch :=
  if k = 0 then s.husk.current.map (fun e => { e with state := .committed })
  else w.source.map (fun e => { commitOf s k w e e.mirrored e.missing with deltas := e.deltas, commitTime := e.commitTime, localDegraded := false, sys := 0 })

/-- One move of the epoch on volume `k` to its next stage, where it is due (R720–R722). -/
def writerMove (s : State) (k : Nat) : Option State :=
  match tfind s.husk.writers k with
  | none => some s
  | some w =>
    let dest (t : State) (n : Nat) : State := modWriter t k (fun w => { w with stage := n })
    match w.stage with
    | 0 =>
      if writing s k (fun u => match u with | .superblock _ _ => true | _ => false) then some s
      else some (if k = 0 then dest s 1 else buddyAck (dest s 1) k w.epoch 0 0)
    | 1 =>
      (eachOpt (rowsReady s k w) (fun t r => writeParity t k r) s).bind (fun t =>
        match tfind t.husk.writers k with
        | none => some t
        | some y =>
          if !y.ended || !y.rows.isEmpty || writing t k (fun u => match u with | .record _ _ _ _ => true | _ => false) then some t
          else (writeIndex t k).map (fun u => dest u 2))
    | 2 =>
      if writing s k (fun _ => true) then some s else some (w.here.foldl (fun t m => epochFlush t k m) (dest s 3))
    | 3 => if writing s k (fun u => match u with | .flush _ _ => true | _ => false) then some s else some (dest s 4)
    | 4 => if k = 0 && !buddyKnown s then some s else (beginCommit (dest s 5) k w)
    | _ => some s

/-- The epoch on volume `k` goes on as far as it can. -/
def writerOn (n : Nat) (s : State) (k : Nat) : State :=
  match n with
  | 0 => s
  | n + 1 =>
    let before := (tfind s.husk.writers k).map (fun w => w.stage)
    match writerMove s k with
    | none => volumeFull s k
    | some t =>
      let u := judge t k
      if (tfind u.husk.writers k).map (fun w => w.stage) = before then u else writerOn n u k

/-- A SYSTEM record goes to every live member of the husk volume that is present (R696, R716). (DEDUCED: log entry 56.) -/
def writeSystem (s : State) (e : Epoch) (key : W32) (n : Nat) : State :=
  let b := systemBytes e.number key n s.time
  let x (m : Nat) : LogRec := { epoch := e.number, kind := 7, whole := false, poison := 0, partition := 255, seq := 0, address := 0, crc := crc32c b, member := m }
  let put (m : Nat) (t : State) (o : Nat) (d : List Byte) : State := tryWrite t 0 m o d (.system 0 e.number) 0
  (e.live.filter (fun m => memberHere s ((s.vol 0).member m))).foldl
    (fun t m => ((placeRecord t 0 m e.number false (put m) (put m)).map (fun p => closeExtent (put m (addRecord p.2 0 m (x m)) p.1 b) 0 m (put m))).getD t) s

/-- COMMIT writes of member `m` of volume `k` have all completed: its copy is durable (R722, R727). The last one ends the epoch's writing. -/
def commitCopy (s : State) (k m : Nat) (ok : Bool) : State :=
  match tfind s.husk.writers k with
  | none => s
  | some w =>
    if writing s k (fun u => u = .commit k m) && ok then s
    else
      let t := if ok then modWriter s k (fun w => { w with copies := w.copies ++ [m] }) else markLost s k m true
      let first := ok && w.copies.isEmpty
      let u := match first, commitNow s k w with | true, some e => committed t k e | _, _ => t
      if writing u k (fun x => match x with | .commit _ _ => true | _ => false) then u
      else if w.copies.isEmpty && !ok then writerFails u k (if w.byError then 8 else 6) 0x0907
      else if k = 0 then
        let v := snapEnded u true
        { v with husk := { v.husk with writers := tdel v.husk.writers 0 } }
      else buddyAck (dropWriter u k) k w.epoch 1 0

/-- Member `m` of volume `k` is lost while the epoch is written (R721): the epoch goes on, or ends. -/
def memberLost (s : State) (k m : Nat) (byError : Bool) : State :=
  match tfind s.husk.writers k with
  | none => s
  | some w =>
    if w.stage = 5 && w.live.contains m && !w.copies.contains m then commitCopy (dropEpochMember s k m) k m false
    else writerOn 6 (judge (markLost s k m byError) k) k
where
  /-- Drive commands of the epoch for one member go unissued. -/
  dropEpochMember (s : State) (k m : Nat) : State :=
    let mine (c : NvmeCmd) : Bool := c.use.writes = some (k, m)
    { s with hub := { s.hub with dp := s.hub.dp.map (fun d =>
      (d.1, { d.2 with drive := { d.2.drive with queued := d.2.drive.queued.filter (fun c => !mine c), sent := d.2.drive.sent.filter (fun c => !mine c) } })) } }

end Sys2Proof.Machine
end

