-- ==== Sys2Proof/Machine/Flash.lean ====
section
/-! DEFINITION. The flash service (R177–R189) and the writes of the map store in its order (R143, R272). -/

namespace Sys2Proof.Machine

/-- A host buffer as a command reads it: none where the access fails or Bus Master Enable is clear (R195). -/
def hostBuf (s : State) (fn : Nat) (buf : Option (List Byte)) : Option (List Byte) := if (s.fn fn).bme then buf else none

/-- A range touches the map store; the golden area (R140). -/
def touchesStore (a n : Nat) : Bool := 0 < n && a < storeEnd && storeBase < a + n
def touchesGolden (a n : Nat) : Bool := 0 < n && goldenBase < a + n

/-- FLASH commands run once section deployment is over (R166), or in recovery mode. -/
def flashFree (s : State) : Bool := s.boot.deployed || s.boot.hazel = .recovery

/-- The erase units of a range: whole aligned 64 KiB blocks, 4 KiB sectors elsewhere (R180). -/
def eraseUnits (fuel a n : Nat) : List (Nat × Nat) :=
  match fuel with
  | 0 => []
  | fuel + 1 =>
    if n = 0 then []
    else if a % 0x10000 = 0 && 0x10000 ≤ n then (a, 0x10000) :: eraseUnits fuel (a + 0x10000) (n - 0x10000)
    else (a, 0x1000) :: eraseUnits fuel (a + 0x1000) (n - 0x1000)

/-- The flash with bytes `b` at `a`. -/
def flashPut (s : State) (a : Nat) (b : List Byte) : State := { s with boot := { s.boot with flash := mwrite 0xFF s.boot.flash a b } }

/-- `n` bytes whose value the manual leaves open: the content of a sector or page whose erase or program failed (R183). (DEDUCED: log entry 20.) -/
def openBytes (s : State) (n : Nat) : List Byte × State :=
  ((List.range n).map (fun i => BitVec.ofNat 8 (Config.freeValue (s.free + i))), { s with free := s.free + n })

/-- Takes units in order until the failing one, whose bytes are left open: the bytes done and whether it failed (R183). (DEDUCED: log entry 20.) -/
def runUnits (us : List (Nat × Nat)) (failAt : Option Nat) (act : State → Nat × Nat → State) (s : State) : State × Nat × Bool :=
  let k := match failAt with | some i => min i us.length | none => us.length
  let t := (us.take k).foldl act s
  let n := ((us.take k).map (fun u => u.2)).foldl (· + ·) 0
  match us[k]? with
  | none => (t, n, false)
  | some u => let x := openBytes t u.2; (flashPut x.2 u.1 x.1, n, true)

/-- The command at the head of the flash order, when it is function `fn`'s, of this class and verb, and may run (R166, R177). (DEDUCED: log entry 20.) -/
def flashTurn (s : State) (fn cls verb : Nat) (want : Consumed → Bool) : Option Consumed :=
  match s.boot.jobs with
  | j :: _ =>
    if j.id = 0 || j.fn ≠ fn || !flashFree s || !s.serving then none
    else (cmdOf s fn j.id).filter (fun c => c.req.cls = cls && c.req.verb = verb && want c)
  | [] => none

/-- A command of class L in the flash order: `refuses` at the start, `late` a refusal that reading the flash finds, `run` its work. It runs in its turn:
at once where nothing is before it, else when the row meets it at the head of the order (R166, R177, R213). (DEDUCED: log entry 20.) -/
def flashRow (fn cls verb : Nat) (want : Consumed → Bool) (refuses late : Consumed → State → Option Result)
    (run : Consumed → State → Result × State) (s : State) : Out :=
  match flashTurn s fn cls verb want with
  | some c =>
    let t := { s with boot := { s.boot with jobs := s.boot.jobs.drop 1 } }
    match late c t with
    | some r => .next (workDone t fn c.id r)
    | none => let x := run c t; .next (workDone x.2 fn c.id x.1)
  | none =>
    match (startable s fn cls verb).filter want with
    | none => .next s
    | some c =>
      match refuses c s with
      | some r => .next (finish s fn c.id r)
      | none =>
        if flashFree s && s.boot.jobs.isEmpty then
          match late c s with
          | some r => .next (finish s fn c.id r)
          | none => let x := run c (accept s fn c.id); .next (workDone x.2 fn c.id x.1)
        else
          let t := accept s fn c.id
          .next { t with boot := { t.boot with jobs := t.boot.jobs ++ [{ fn := fn, id := c.id }] } }

/-- A refusal by status. -/
def refusal (v : Nat) : Option Result := some ⟨v, 0, []⟩

/-- Refusals of ERASE and PROGRAM for the areas that a range touches (R179, R186). -/
def areaRefusal (s : State) (a n : Nat) : Option Result :=
  if touchesStore a n then refusal 0x0D05 else if touchesGolden a n && !s.boot.unlocked then refusal 0x0D03 else none

/-- FLASH_ERASE (R178–R180, R183): `failAt` is the erase unit at which the flash reports a failure. -/
def execFlashErase (fn : Fn) (failAt : Option Nat) (s : State) : Out :=
  flashRow fn 13 1 (fun _ => true)
    (fun c s =>
      let a := c.u32 0
      let n := c.u32 4
      if c.u32 8 ≠ 0 then refusal 0x0005
      else if flashSize < a + n then refusal 0x0D06
      else if a % 4096 ≠ 0 || n % 4096 ≠ 0 then refusal 0x0D07
      else areaRefusal s a n)
    (fun _ _ => none)
    (fun c s =>
      let us := eraseUnits (c.u32 4 / 4096 + 1) (c.u32 0) (c.u32 4)
      let x := runUnits us failAt (fun t u => { t with boot := { t.boot with flash := mclear t.boot.flash u.1 u.2 } }) s
      (⟨if x.2.2 then 0x0D08 else 0, 0, le 4 0 ++ le 4 x.2.1⟩, x.1)) s

/-- FLASH_PROGRAM (R178, R179, R181–R183): the buffer is read first; `failAt` is the page at which the flash reports a failure. (DEDUCED: log entry 20.) -/
def execFlashProgram (fn : Fn) (buf : Option (List Byte)) (failAt : Option Nat) (s : State) : Out :=
  flashRow fn 13 2 (fun _ => true)
    (fun c s =>
      let a := c.u32 0
      let n := c.u32 4
      if 1 < c.u32 8 then refusal 0x0005
      else if n = 0 || 0x1000000 < n || flashSize < a + n then refusal 0x0D06
      else areaRefusal s a n)
    (fun c s => if c.u32 8 = 0 && (flashRead s (c.u32 0) (c.u32 4)).any (· ≠ 0xFF) then refusal 0x0D01 else none)
    (fun c s =>
      let a := c.u32 0
      let n := c.u32 4
      match hostBuf s fn buf with
      | none => (⟨0x000C, 0, le 4 0 ++ le 4 0⟩, s)
      | some b =>
        let d := bytesAt b 0 n
        let page (t : State) (u : Nat × Nat) : State :=
          flashPut t u.1 (((flashRead t u.1 u.2).zip (bytesAt (d.drop (u.1 - a)) 0 u.2)).map (fun x => x.1 &&& x.2))
        let x := runUnits (cutAt (n / 256 + 2) 256 a n) failAt page s
        let back := flashRead x.1 a n
        let diff := (List.range n).find? (fun i => back.getD i 0 ≠ d.getD i 0)
        if x.2.2 then (⟨0x0D08, 0, le 4 0 ++ le 4 x.2.1⟩, x.1)
        else match diff with
          | some i => (⟨0x0D02, 0, le 4 i ++ le 4 n⟩, x.1)
          | none => (⟨0, 0, le 4 0 ++ le 4 n⟩, x.1)) s

/-- FLASH_READ (R178, R184). -/
def execFlashRead (fn : Fn) (s : State) : Out :=
  flashRow fn 13 3 (fun _ => true)
    (fun c _ =>
      let n := c.u32 4
      if n = 0 || 0x4000000 < n || flashSize < c.u32 0 + n then refusal 0x0D06 else none)
    (fun _ _ => none)
    (fun c s =>
      let n := c.u32 4
      if (s.fn fn).bme then (⟨0, 0, le 4 0 ++ le 4 n⟩, { s with hostOut := [(c.u64 16, flashRead s (c.u32 0) n, false)] })
      else (⟨0x000C, 0, le 4 0 ++ le 4 0⟩, s)) s

/-- FLASH.VERIFY's MODE is `m`, or a value that every mode's row refuses. -/
def verifyMode (m : Nat) (c : Consumed) : Bool := c.u32 8 % 4 = m || c.u32 8 % 4 = 3 || 16 ≤ c.u32 8

/-- FLASH.VERIFY's refusals (R178). -/
def verifyRefusal (c : Consumed) : Option Result :=
  if c.u32 8 % 4 = 3 || 16 ≤ c.u32 8 then refusal 0x0005
  else if c.u32 8 % 4 ≠ 2 && flashSize < c.u32 0 + c.u32 4 then refusal 0x0D06 else none

/-- FLASH_VERIFY_CRC (R185). -/
def execFlashVerifyCrc (fn : Fn) (s : State) : Out :=
  flashRow fn 13 4 (verifyMode 0) (fun c _ => verifyRefusal c) (fun _ _ => none)
    (fun c s =>
      let v := (crc32c (flashRead s (c.u32 0) (c.u32 4))).toNat
      (⟨if bitOf (c.u32 8) 2 && v ≠ c.u32 12 then 0x0D09 else 0, 0, le 4 v ++ le 4 (c.u32 4)⟩, s)) s

/-- FLASH_VERIFY_COMPARE (R185). -/
def execFlashVerifyCompare (fn : Fn) (buf : Option (List Byte)) (s : State) : Out :=
  flashRow fn 13 4 (verifyMode 1) (fun c _ => verifyRefusal c) (fun _ _ => none)
    (fun c s =>
      let n := c.u32 4
      match hostBuf s fn buf with
      | none => (⟨0x000C, 0, le 4 0 ++ le 4 0⟩, s)
      | some b =>
        let f := flashRead s (c.u32 0) n
        match (List.range n).find? (fun i => f.getD i 0 ≠ b.getD i 0) with
        | some i => (⟨0x0D09, 0, le 4 i ++ le 4 n⟩, s)
        | none => (⟨0, 0, le 4 0 ++ le 4 n⟩, s)) s

/-- FLASH_VERIFY_IMAGE (R149, R185); what BYTES_DONE reports in this mode the manual leaves open. (DEDUCED: log entry 20.) -/
def execFlashVerifyImage (fn : Fn) (s : State) : Out :=
  flashRow fn 13 4 (verifyMode 2) (fun c _ => verifyRefusal c) (fun _ _ => none)
    (fun c s =>
      let n := s.takeFree (2 ^ 32)
      (⟨0, 0, le 4 (slotCheck s (b2n (bitOf (c.u32 8) 3))) ++ le 4 n.1⟩, n.2)) s

/-- FLASH_UNLOCK (R187). -/
def execFlashUnlock (fn : Fn) (s : State) : Out :=
  withCmd s fn 13 5 fun c s =>
    if c.u32 0 = 0 || 60 < c.u32 0 then finishSt s fn c.id 0x0005
    else if !s.boot.goldWe then finishSt s fn c.id 0x0D04
    else finishOk { s with boot := { s.boot with unlocked := true } } fn c.id []

/-- FLASH_LOCK (R188). -/
def execFlashLock (fn : Fn) (s : State) : Out :=
  withCmd s fn 13 6 fun c s => finishOk { s with boot := { s.boot with unlocked := false } } fn c.id []

/-- GOLDEN_UNLOCK_EXPIRY (R188). -/
def execGoldenUnlockExpiry (s : State) : Out := .next { s with boot := { s.boot with unlocked := false } }

/-- The map store as the regions stand now, in the bank not in use, with the next sequence number (R142, R143, R255). -/
def writeStore (s : State) : State :=
  let used := bankInUse s.fab.banks
  let q := match used with | some b => (tget factoryBank s.fab.banks b).sequence + 1 | none => 0
  let b : MapBank :=
    { sequence := q
      recs := (List.range 16).map (fun rg => let r := s.rgn rg; (rg, { sequence := r.sequence, s1 := r.s1, s3 := r.s3, pods := r.pods })) }
  { s with fab := { s.fab with banks := tset s.fab.banks (if used = some 0 then 1 else 0) b } }

/-- MAP_STORE_WRITE_COMPLETE (R143, R177, R272): the write that is due for a region, in its turn. -/
def execMapStoreWriteComplete (rg : Fin 16) (s : State) : Out :=
  match s.boot.jobs with
  | j :: r =>
    if j.id = 0 && j.fn = rg.val && flashFree s && s.serving then
      let t := writeStore { s with boot := { s.boot with jobs := r } }
      let u := t.setRgn rg { t.rgn rg with stored := true }
      .next (eventDev u 0x0401 (le 1 rg ++ le 1 0 ++ le 2 0 ++ le 4 (u.rgn rg).sequence.toNat))
    else .next s
  | [] => .next s

end Sys2Proof.Machine
end

