-- ==== Sys2Proof/Machine/DescForm.lean ====
section
/-! DEFINITION. Mover and embedding descriptors: their fields and their form (R506–R508, R524). -/

namespace Sys2Proof.Machine

/-- A descriptor of kind COPY or FILL, from its 64 bytes (R506). -/
def descOf (b : List Byte) : Desc :=
  let f := rd 1 b 1
  { fill := rd 1 b 0 = 2, setFlag := bitOf f 0, flagSet := b2n (bitOf f 1), waitPrev := bitOf f 2, srcHost := bitOf f 3, dstHost := bitOf f 4
    remote := bitOf f 5, remoteId := rd 1 b 2, remotePart := rd 1 b 3, rows := rd 4 b 4, src := rd 8 b 8, dst := rd 8 b 0x10
    rowBytes := rd 4 b 0x18, srcStride := sext 64 (rd 8 b 0x20), dstStride := sext 64 (rd 8 b 0x28) }

/-- The range of the device address space that address `a` starts in: its first and its end (R25). -/
def spaceOf (a : Nat) : Nat × Nat :=
  if a < hbmSize then (0, hbmSize)
  else if a < cellBase then (hbmSize, cellBase)
  else if a < cellBase + cellSize then (cellBase, cellBase + cellSize)
  else if a < 0xF00000000000 then (cellBase + cellSize, 0xF00000000000)
  else (0xF00000000000, 2 ^ 48)

/-- Address `a` lies in the memory-cell window. -/
def isCell (a : Nat) : Bool := cellBase ≤ a && a < cellBase + cellSize

/-- Every row of one side of a descriptor lies in the range it starts in, and follows R507 where it names memory cells. -/
def sideForm (rows base : Nat) (stride : Int) (n : Nat) (lim : Nat → Nat × Nat) (cells : Bool) : Bool :=
  (List.range rows).all (fun r =>
    let a : Int := (base : Int) + r * stride
    0 ≤ a && a.toNat + n ≤ (lim a.toNat).2 &&
      (!(cells && isCell a.toNat) || (a.toNat % 64 = 0 && n % 64 = 0 && (rows = 1 || stride % 64 = 0))))

/-- The bus address space, and the window space of another device, whose size is not known here. -/
def busSpace (_ : Nat) : Nat × Nat := (0, 2 ^ 64)

/-- A descriptor of kind COPY or FILL follows R506 and R507. -/
def descForm (b : List Byte) : Bool :=
  let d := descOf b
  let op := rd 1 b 0
  let zeroBytes (o n : Nat) : Bool := rd n b o = 0
  (op = 1 || op = 2) && rd 1 b 1 < 64 && zeroBytes 0x1C 4 && zeroBytes 0x30 16
    && (if d.remote then d.remoteId < 128 && d.remotePart < 16 && !d.srcHost && !d.dstHost && !d.setFlag && d.dst < cellBase
        else d.remoteId = 0 && d.remotePart = 0)
    && 1 ≤ d.rows && d.rows ≤ 65536 && 1 ≤ d.rowBytes && d.rowBytes ≤ 16777216 && d.rows * d.rowBytes ≤ 0x100000000
    && !(d.fill && d.srcHost)
    && (if d.dstHost || d.remote then sideForm d.rows d.dst d.dstStride d.rowBytes busSpace false
        else sideForm d.rows d.dst d.dstStride d.rowBytes spaceOf true)
    && (if d.fill then true
        else if d.srcHost then sideForm d.rows d.src d.srcStride d.rowBytes busSpace false
        else sideForm d.rows d.src d.srcStride d.rowBytes spaceOf true)
    && (d.rows = 1 || d.rowBytes ≤ d.dstStride.natAbs)

/-- An embedding descriptor, from its 64 bytes (R524). -/
def embOf (b : List Byte) : EmbDesc :=
  let f := rd 1 b 1
  { op := rd 1 b 0 - 0x10, setFlag := bitOf f 0, flagSet := b2n (bitOf f 1), weighted := bitOf f 2, mean := bitOf f 3, sat := bitOf f 4
    table := rd 1 b 2, outFmt := rd 1 b 3, bags := rd 4 b 4, offsets := rd 8 b 8, indices := rd 8 b 0x10, weights := rd 8 b 0x18
    out := rd 8 b 0x20, outStride := rd 4 b 0x28, step := rd 4 b 0x30 }

/-- Operation codes of the embedding kinds. -/
def isEmbOp (op : Nat) : Bool := 0x10 ≤ op && op ≤ 0x12

/-- An embedding descriptor is valid in form (R524). -/
def embForm (b : List Byte) : Bool :=
  let e := embOf b
  isEmbOp (rd 1 b 0) && rd 1 b 1 < 32 && e.table < 64 && e.outFmt ≤ 2 && e.outStride % 64 = 0 && rd 4 b 0x2C = 0 && rd 12 b 0x34 = 0
    && (if e.op = 2 then e.bags = 0 else 1 ≤ e.bags && e.bags ≤ 65536 && e.step = 0)

end Sys2Proof.Machine
end

