-- ==== Sys2Proof/Machine/Float.lean ====
section
/-! DEFINITION. Number formats, exact arithmetic on their values and one rounding (R279–R282, R301–R304; IEEE 754 as R357 names it). -/

namespace Sys2Proof.Machine

/-- A floating-point format: exponent and fraction bits, bias, code of the largest finite value, of infinity where it has one, and the
canonical NaN (R279). -/
structure Fmt where
  ebits : Nat
  fbits : Nat
  bias : Nat
  maxCode : Nat
  infCode : Option Nat
  nan : Nat
deriving DecidableEq, Repr

def fp32 : Fmt := ⟨8, 23, 127, 0x7F7FFFFF, some 0x7F800000, 0x7FC00000⟩
def fp16 : Fmt := ⟨5, 10, 15, 0x7BFF, some 0x7C00, 0x7E00⟩
def bf16 : Fmt := ⟨8, 7, 127, 0x7F7F, some 0x7F80, 0x7FC0⟩
def e4m3 : Fmt := ⟨4, 3, 7, 0x7E, none, 0x7F⟩
def e5m2 : Fmt := ⟨5, 2, 15, 0x7B, some 0x7C, 0x7E⟩

/-- A value: NaN, an infinity, or a finite number (-1)^neg × m × 2^e; a zero keeps its sign. -/
inductive Fl where
  | nan
  | inf (neg : Bool)
  | fin (neg : Bool) (m : Nat) (e : Int)
deriving DecidableEq, Repr

/-- Rounding directions: nearest even, toward zero, down, up, nearest with ties away. -/
inductive Rm where
  | rne
  | rtz
  | rdn
  | rup
  | rmm
deriving DecidableEq, Repr

/-- Sign bit of a code, and its magnitude. -/
def Fmt.sign (f : Fmt) (c : Nat) : Bool := bitOf c (f.ebits + f.fbits)
def Fmt.mag (f : Fmt) (c : Nat) : Nat := c % 2 ^ (f.ebits + f.fbits)

/-- The value of a code (R279): subnormals are honoured. -/
def Fmt.value (f : Fmt) (c : Nat) : Fl :=
  let k := f.mag c
  let x := k / 2 ^ f.fbits
  let m := k % 2 ^ f.fbits
  if f.maxCode < k then (if f.infCode = some k then .inf (f.sign c) else .nan)
  else if x = 0 then .fin (f.sign c) m (1 - (f.bias + f.fbits : Nat))
  else .fin (f.sign c) (2 ^ f.fbits + m) ((x : Int) - (f.bias + f.fbits : Nat))

/-- Whole part `n` with a remainder of `r` in `d`, rounded to an integer. -/
def roundUp (rm : Rm) (neg : Bool) (n r d : Nat) : Nat :=
  let up := match rm with
    | .rne => decide (d < 2 * r) || (decide (2 * r = d) && n % 2 == 1)
    | .rtz => false
    | .rdn => neg && r != 0
    | .rup => !neg && r != 0
    | .rmm => decide (d ≤ 2 * r)
  if up then n + 1 else n

/-- m × 2^e as a multiple of 2^q, rounded, and whether that was exact. -/
def roundAt (rm : Rm) (neg : Bool) (m : Nat) (e q : Int) : Nat × Bool :=
  if q ≤ e then (m * 2 ^ (e - q).toNat, true)
  else
    let d := 2 ^ (q - e).toNat
    (roundUp rm neg (m / d) (m % d) d, m % d == 0)

/-- A rounding: the code without its sign, and whether it overflowed, was inexact, was tiny. -/
structure Rounded where
  code : Nat
  tooBig : Bool
  inexact : Bool
  tiny : Bool
deriving DecidableEq, Repr

/-- m × 2^e rounded once to a format (R280): the code of the magnitude, beyond the largest finite code on overflow. -/
def Fmt.round (f : Fmt) (rm : Rm) (neg : Bool) (m : Nat) (e : Int) : Rounded :=
  if m = 0 then ⟨0, false, false, false⟩
  else
    let top : Int := (Nat.log2 m : Int) + e
    let emin : Int := 1 - (f.bias : Int)
    let lo := max top emin
    let x := roundAt rm neg m e (lo - f.fbits)
    let code := if top < emin then x.1 else ((top + f.bias).toNat * 2 ^ f.fbits + x.1) - 2 ^ f.fbits
    let free := roundAt rm neg m e (top - f.fbits)
    let tiny := decide (top < emin) && decide (!(free.1 = 2 ^ (f.fbits + 1) ∧ top + 1 = emin))
    ⟨code, decide (f.maxCode < code), !x.2, tiny⟩

/-- The code with its sign. -/
def Fmt.signed (f : Fmt) (neg : Bool) (k : Nat) : Nat := k + b2n neg * 2 ^ (f.ebits + f.fbits)

/-- A value in a format, rounded once (R280–R282). -/
def Fmt.code (f : Fmt) (rm : Rm) (sat : Bool) (v : Fl) : Nat :=
  let big (neg : Bool) : Nat :=
    if sat then f.signed neg f.maxCode
    else match f.infCode with | some k => f.signed neg k | none => f.nan
  match v with
  | .nan => f.nan
  | .inf neg => big neg
  | .fin neg m e =>
    let r := f.round rm neg m e
    if r.tooBig then big neg else f.signed neg r.code

/-- Signed magnitude as an integer. -/
def signedInt (neg : Bool) (m : Nat) : Int := if neg then -(m : Int) else (m : Int)

/-- The exact sum; an exact zero is +0 unless both terms are −0 (R301, R302). -/
def Fl.add (x y : Fl) : Fl :=
  match x, y with
  | .nan, _ => .nan
  | _, .nan => .nan
  | .inf a, .inf b => if a = b then .inf a else .nan
  | .inf a, _ => .inf a
  | _, .inf b => .inf b
  | .fin a m e, .fin b n g =>
    let lo := min e g
    let s := signedInt a (m * 2 ^ (e - lo).toNat) + signedInt b (n * 2 ^ (g - lo).toNat)
    if s = 0 then .fin (a && b) 0 0 else .fin (s < 0) s.natAbs lo

def Fl.neg (x : Fl) : Fl :=
  match x with
  | .nan => .nan
  | .inf a => .inf (!a)
  | .fin a m e => .fin (!a) m e

/-- The exact product; ∞ × 0 is a NaN (R302). -/
def Fl.mul (x y : Fl) : Fl :=
  match x, y with
  | .nan, _ => .nan
  | _, .nan => .nan
  | .inf a, .inf b => .inf (xor a b)
  | .inf a, .fin b n _ => if n = 0 then .nan else .inf (xor a b)
  | .fin a m _, .inf b => if m = 0 then .nan else .inf (xor a b)
  | .fin a m e, .fin b n g => .fin (xor a b) (m * n) (e + g)

def Fl.isNan (x : Fl) : Bool := match x with | .nan => true | _ => false
def Fl.isZero (x : Fl) : Bool := match x with | .fin _ m _ => m == 0 | _ => false
def Fl.isInf (x : Fl) : Bool := match x with | .inf _ => true | _ => false
def Fl.isNeg (x : Fl) : Bool := match x with | .nan => false | .inf a => a | .fin a _ _ => a

/-- A quotient to more places than any format here holds, with the rest told by the last bit. -/
def Fl.quot (m n : Nat) (e : Int) : Nat × Int :=
  let k := 64 + Nat.log2 (n + 1)
  let a := m * 2 ^ k
  (2 * (a / n) + (if a % n = 0 then 0 else 1), e - k - 1)

/-- x / y to enough places; 0/0 and ∞/∞ are NaN. -/
def Fl.div (x y : Fl) : Fl :=
  match x, y with
  | .nan, _ => .nan
  | _, .nan => .nan
  | .inf _, .inf _ => .nan
  | .inf a, .fin b _ _ => .inf (xor a b)
  | .fin a _ _, .inf b => .fin (xor a b) 0 0
  | .fin a m e, .fin b n g =>
    if n = 0 then (if m = 0 then .nan else .inf (xor a b))
    else if m = 0 then .fin (xor a b) 0 0
    else let q := Fl.quot m n (e - g); .fin (xor a b) q.1 q.2

/-- Integer square root by bits, from bit `k` down. -/
def isqrt (k n acc : Nat) : Nat :=
  match k with
  | 0 => if (acc + 1) * (acc + 1) ≤ n then acc + 1 else acc
  | k + 1 => let t := acc + 2 ^ (k + 1); isqrt k n (if t * t ≤ n then t else acc)

/-- The square root to enough places; of a negative number NaN. -/
def Fl.sqrt (x : Fl) : Fl :=
  match x with
  | .nan => .nan
  | .inf a => if a then .nan else .inf false
  | .fin a m e =>
    if m = 0 then .fin a 0 0
    else if a then .nan
    else
      let e2 := if e % 2 = 0 then e else e - 1
      let m2 := (if e % 2 = 0 then m else 2 * m) * 2 ^ 128
      let r := isqrt (Nat.log2 m2 / 2 + 1) m2 0
      .fin false (2 * r + (if r * r = m2 then 0 else 1)) (e2 / 2 - 64 - 1)

/-- x < y for values that are no NaN. -/
def Fl.lt (x y : Fl) : Bool :=
  match x, y with
  | .nan, _ => false
  | _, .nan => false
  | .inf a, .inf b => a && !b
  | .inf a, _ => a
  | _, .inf b => !b
  | .fin a m e, .fin b n g =>
    let lo := min e g
    signedInt a (m * 2 ^ (e - lo).toNat) < signedInt b (n * 2 ^ (g - lo).toNat)

def Fl.eq (x y : Fl) : Bool := !x.isNan && !y.isNan && !x.lt y && !y.lt x

/-- x is the greater for maximumNumber, with −0 < +0 (R312). -/
def Fl.above (x y : Fl) : Bool := y.lt x || (x.eq y && (!x.isNeg || y.isNeg))

/-- IEEE 754 maximumNumber and minimumNumber (R312). -/
def Fl.max (x y : Fl) : Fl := if x.isNan then y else if y.isNan then x else if x.above y then x else y
def Fl.min (x y : Fl) : Fl := if x.isNan then y else if y.isNan then x else if y.above x then x else y

/-- An integer as a value. -/
def Fl.ofInt (i : Int) : Fl := .fin (i < 0) i.natAbs 0

/-- The value rounded to an integer; infinities and NaN have none. -/
def Fl.toInt (rm : Rm) (x : Fl) : Option Int :=
  match x with
  | .fin a m e => some (signedInt a (roundAt rm a m e 0).1)
  | _ => none

/-- Limits of an n-bit two's-complement integer, and an integer held within them. -/
def intMax (n : Nat) : Int := 2 ^ (n - 1) - 1
def intMin (n : Nat) : Int := -(2 ^ (n - 1))
def satInt (n : Nat) (i : Int) : Int := max (intMin n) (min (intMax n) i)

/-- A value converted to an n-bit integer: saturated, a NaN to 0 (R282). -/
def Fl.satTo (rm : Rm) (n : Nat) (x : Fl) : Int :=
  match x with
  | .nan => 0
  | .inf a => if a then intMin n else intMax n
  | .fin a m e => satInt n (signedInt a (roundAt rm a m e 0).1)

end Sys2Proof.Machine
end

