-- ==== Sys2Proof/Machine/CellOps.lean ====
section
/-! DEFINITION. What the cells and the switch node of a pod do on one fc (R241–R252, R283–R305). -/

namespace Sys2Proof.Machine

/-- The idle configuration (R377): bytes past the end of a block are zero. -/
def idleCfg : PodCfg :=
  { switch := [1, 1, 1, 1, 1, 1], seq := (List.range 4).map (fun c => (c, [1, 1])), mode := [], program := [] }

/-- Configuration that slot `slot` of pod `k` holds. -/
def State.cfgOf (s : State) (k slot : Nat) : PodCfg := tget idleCfg (s.pod k).slots slot

/-- The partition whose schedule advances pod `k` on the coming fc (R242, R336). -/
def podOn (s : State) (k : Nat) : Option Nat :=
  match s.regionPart (regionOfPod k) with
  | none => none
  | some p =>
    let x := s.pt p
    if x.inRun && x.run.active.isSome && x.run.stall.isNone && !x.run.paused
        && x.regions.all (fun rg => regionLive s rg && (s.rgn rg).clocked) && s.clk.run
    then some p else none

/-- The active slot of partition `p`. -/
def activeSlot (s : State) (p : Nat) : Nat := (s.pt p).run.active.getD 0

/-- Entry in force of table `t` (0 N, 1 E, 2 S, 3 W, 4 LOCAL_OUT, 5 INJECT) on schedule fc `fc` (R242, R245). -/
def PodCfg.entry (c : PodCfg) (t fc : Nat) : Nat := rd 1 c.switch (8 + 64 * t + fc % rd 1 c.switch t)

/-- Logical pod next to `k` on port `p` (1 N, 2 E, 3 S, 4 W), and the port of it that faces `k`. -/
def neighbour (k p : Nat) : Option (Nat × Nat) :=
  if p = 1 then (if 32 ≤ k then some (k - 32, 3) else none)
  else if p = 2 then (if k % 32 < 31 then some (k + 1, 4) else none)
  else if p = 3 then (if k < 608 then some (k + 32, 1) else none)
  else if k % 32 = 0 then none else some (k - 1, 2)

/-- A switch node serves a substituted position (R251). -/
def substituted (s : State) (k : Nat) : Bool :=
  let r := s.rgn (regionOfPod k)
  40 ≤ servedBy r.loadedS1 r.loadedS3 (posOfPod k)

/-- fc that a word takes through the switch node of pod `k` (R247, R251). -/
def hopFc (s : State) (k : Nat) : Nat := if substituted s k then 4 else 2

/-- The word delivered to cell `c` of a pod on advanced fc `a`. -/
def Pod.arriving (x : Pod) (a c : Nat) : Option PLine :=
  (x.flights.find? (fun f => f.due = a && f.dest = .cell c)).map (fun f => ⟨f.word, f.poison⟩)

/-- The input latch of the matrix cell on advanced fc `a` (R294). -/
def Pod.latchAt (x : Pod) (a : Nat) : PLine := (x.arriving a 2).getD x.latch

/-- The word on input `src` (1 N, 2 E, 3 S, 4 W, 5 LOCAL) of pod `k` on advanced fc `a` (R243, R246). -/
def Pod.input (x : Pod) (cfg : PodCfg) (a fc src : Nat) : Option PLine :=
  let at_ (d : Dest) : Option PLine := (x.flights.find? (fun f => f.due = a && f.dest = d)).map (fun f => ⟨f.word, f.poison⟩)
  if src = 0 || 5 < src then none
  else if src ≤ 4 then at_ (.port src)
  else let e := cfg.entry 5 fc; if e % 8 = 5 then at_ (.localIn (e / 8 % 4)) else none

/-- Adds a word in flight to pod `k`. -/
def fly (s : State) (k due : Nat) (d : Dest) (w : PLine) : State :=
  let x := s.pod k
  s.setPod k { x with flights := x.flights ++ [{ due := due, dest := d, word := w.data, poison := w.poison }] }

/-- Output `o` (0 N, 1 E, 2 S, 3 W, 4 LOCAL_OUT) of pod `k` passes on what its entry selects (R246–R251). -/
def moveOutput (s : State) (p k a fc o : Nat) : State :=
  let cfg := s.cfgOf k (activeSlot s p)
  let e := cfg.entry o fc
  match (s.pod k).input cfg a fc (e % 8) with
  | none => s
  | some w =>
    if o = 4 then fly s k (a + hopFc s k) (.cell (e / 8 % 4)) w
    else
      match neighbour k (o + 1) with
      | none => s
      | some (n, port) => if (s.pt p).regions.contains (regionOfPod n) then fly s n (a + hopFc s k) (.port port) w else s

/-- The switch node of pod `k` on advanced fc `a`, schedule fc `fc`. -/
def moveSwitch (s : State) (p k a fc : Nat) : State := (List.range 5).foldl (fun t o => moveOutput t p k a fc o) s

/-- 64 bytes as a word of the fabric. -/
def lineOf (b : List Byte) : Line := BitVec.ofNat 512 (leNat b)

/-- Device address of word `w` of memory cell `m` of pod `k` (R26, R283). -/
def cellAddr (k m w : Nat) : Nat := cellBase + 64 * cellWord k m w

/-- A read of a memory cell on advanced fc `a` (R284, R291). -/
def cellReadAt (s : State) (k m w a : Nat) : State :=
  let ad := cellAddr k m w
  let t := readCellWord s ad
  fly t k (a + 2) (.localIn m) ⟨lineOf (devBytes t ad 64), wordPoisoned t ad⟩

/-- A fabric write of a memory cell on advanced fc `a`: the word delivered then, if one is (R246, R285). -/
def cellWriteAt (s : State) (k m w a : Nat) : State :=
  let x := s.pod k
  match x.arriving a m with
  | none => s
  | some l => s.setPod k { x with writes := x.writes ++ [{ due := a + 1, wordNo := cellWord k m w, word := l.data, poison := l.poison }] }

/-- Fields of a matrix mode block (R293). -/
def PodCfg.mode' (c : PodCfg) : Nat := rd 1 c.mode 0
def PodCfg.drainFmt (c : PodCfg) : Nat := rd 1 c.mode 1
def PodCfg.drainSat (c : PodCfg) : Bool := bitOf (rd 1 c.mode 2) 0
def PodCfg.scale (c : PodCfg) : Nat := rd 4 c.mode 4

/-- The mode's rows are 64 bytes (R293). -/
def wideMode (mode : Nat) : Bool := mode = 6 || mode = 7

/-- The latch row that HALF selects (R294), in the low bytes. -/
def latchRow (mode : Nat) (l : Line) (half : Bool) : Line :=
  if wideMode mode || mode = 0 then l else BitVec.ofNat 512 (l.toNat / 2 ^ (256 * b2n half) % 2 ^ 256)

/-- A row enters the array on advanced fc `a` (R295, R297, R298, R305). In mode 0x00 no row enters. (DEDUCED: log entry 30.) -/
def macAt (s : State) (k mode bank row : Nat) (half acc : Bool) (a : Nat) : State :=
  let x := s.pod k
  let l := x.latchAt a
  let o := tget (⟨0, false⟩ : PRow) x.acc (bank * 32 + row)
  if mode = 0 then s
  else
    s.setPod k { x with waves := x.waves ++
      [{ entry := a, mode := mode, bank := bank, row := row, old := if acc then some o.data else none, input := latchRow mode l.data half
         half := b2n half, tile := x.active, met := [], poison := l.poison || (acc && o.poison) }] }

/-- CLEAR of an accumulator bank. -/
def clearAt (s : State) (k bank : Nat) : State :=
  let x := s.pod k
  s.setPod k { x with acc := x.acc.filter (fun e => e.1 / 32 ≠ bank) }

/-- WLOAD into the shadow tile (R294, R295). -/
def wloadAt (s : State) (k mode row : Nat) (half : Bool) (a : Nat) : State :=
  let x := s.pod k
  let l := x.latchAt a
  s.setPod k { x with weights := tset x.weights ((1 - x.active) * 32 + row) ⟨latchRow mode l.data half, l.poison⟩ }

/-- WSWAP: rows that enter from now on use the other tile (R298). -/
def wswapAt (s : State) (k : Nat) : State := let x := s.pod k; s.setPod k { x with active := 1 - x.active }

/-- Lane `i` of width `w` bits of a number. -/
def laneOf (w n i : Nat) : Nat := n / 2 ^ (w * i) % 2 ^ w

/-- Lanes of width `w` bits, lane 0 lowest. -/
def packLanes (w : Nat) (l : List Nat) : Nat :=
  match l with
  | [] => 0
  | v :: r => v % 2 ^ w + 2 ^ w * packLanes w r

/-- Format that a drain delivers (R293). -/
def drainFormat (f : Nat) : Fmt := if f = 1 then bf16 else if f = 2 then fp16 else fp32

/-- The words that a DRAIN of an accumulator row drives, first one first (R300, R304). -/
def drainWords (c : PodCfg) (r : Row) : List Line :=
  let vals := (List.range 32).map (laneOf 32 r.toNat)
  let f := c.drainFmt
  let conv (v : Nat) : Nat := (drainFormat f).code .rne c.drainSat ((fp32.value v).mul (fp32.value c.scale))
  if f = 3 then [BitVec.ofNat 512 (packLanes 32 (vals.take 16)), BitVec.ofNat 512 (packLanes 32 (vals.drop 16))]
  else if f = 0 then
    [BitVec.ofNat 512 (packLanes 32 ((vals.map conv).take 16)), BitVec.ofNat 512 (packLanes 32 ((vals.map conv).drop 16))]
  else [BitVec.ofNat 512 (packLanes 16 (vals.map conv))]

/-- DRAIN on advanced fc `a` (R300, R305). -/
def drainAt (s : State) (k : Nat) (c : PodCfg) (bank row a : Nat) : State :=
  let r := tget (⟨0, false⟩ : PRow) (s.pod k).acc (bank * 32 + row)
  let ws := drainWords c r.data
  (List.range ws.length).foldl (fun t i => fly t k (a + 2 + i) (.localIn 2) ⟨ws.getD i 0, r.poison⟩) s

/-- Input and weight formats of a mode (R293). -/
def inFmt (mode : Nat) : Fmt := if mode = 6 then bf16 else if mode = 7 then fp16 else if mode ≤ 2 then e4m3 else e5m2
def weightFmt (mode : Nat) : Fmt := if mode = 6 then bf16 else if mode = 7 then fp16 else if mode % 2 = 1 then e4m3 else e5m2

/-- Column `n`'s result (R301–R303): the old accumulator and 32 products, rounded once. -/
def macColumn (mode : Nat) (old : Option Nat) (input : Nat) (ws : List Nat) (n : Nat) : Nat :=
  if mode = 5 then
    let terms := (List.range 32).map (fun k => sext 8 (laneOf 8 input k) * sext 8 (laneOf 8 (ws.getD k 0) n))
    ofInt 32 (satInt 32 (terms.foldl (· + ·) (match old with | some v => sext 32 v | none => 0)))
  else
    let w := if wideMode mode then 16 else 8
    let terms := (List.range 32).map (fun k =>
      ((inFmt mode).value (laneOf w input k)).mul ((weightFmt mode).value (laneOf w (ws.getD k 0) n)))
    fp32.code .rne false (terms.foldl Fl.add (match old with | some v => fp32.value v | none => .fin false 0 0))

/-- The 32 results of a row that has passed the array (R297). -/
def Wave.result (w : Wave) : Row :=
  let ws := w.met.map (fun l => l.toNat)
  let cols := (List.range 32).map (fun n => macColumn w.mode (w.old.map (fun r => laneOf 32 r.toNat n)) w.input.toNat ws n)
  BitVec.ofNat 1024 (packLanes 32 cols)

/-- A row passes its next weight row on advanced fc `a` (R298, R305). -/
def Wave.pass (w : Wave) (ws : Tab PLine) (a : Nat) : Wave :=
  if w.entry ≤ a && w.met.length < 32 then
    let l := tget (⟨0, false⟩ : PLine) ws (w.tile * 32 + w.met.length)
    { w with met := w.met ++ [l.data], poison := w.poison || l.poison }
  else w

/-- The array at the end of advanced fc `a`: rows pass on, and those that entered 32 fc ago are written (R297). -/
def endArray (x : Pod) (a : Nat) : Pod :=
  let done := x.waves.filter (fun w => w.entry + 32 ≤ a)
  { x with
    acc := done.foldl (fun t w => tset t (w.bank * 32 + w.row) ⟨w.result, w.poison⟩) x.acc
    waves := (x.waves.filter (fun w => !(w.entry + 32 ≤ a))).map (fun w => w.pass x.weights a) }

/-- Memory-cell writes that are complete at the end of advanced fc `a` (R285, R292). (DEDUCED: log entry 30.) -/
def endWrites (s : State) (k a : Nat) : State :=
  let x := s.pod k
  let due := x.writes.filter (fun w => w.due ≤ a)
  if due.isEmpty then s else
  let f := due.foldl (fun f w => cellPut f (cellBase + 64 * w.wordNo) (le 64 w.word.toNat) (fun _ _ => w.poison)) s.fab
  { s with fab := { f with pods := tset f.pods k { x with writes := x.writes.filter (fun w => !(w.due ≤ a)) } } }

end Sys2Proof.Machine
end

