-- ==== Sys2Proof/Machine/VecOps.lean ====
section
/-! DEFINITION. The vector cell: valid encodings, what each operation computes, its writes and its summaries (R306–R317). -/

namespace Sys2Proof.Machine

/-- What an operation code allows (R311, R312): TYPEs, sources used (1 a, 2 b, 4 c), DST used, bits of IMM used, SAT used, predicate
used, latency. -/
structure VecRow where
  op : Nat
  types : List Nat
  srcs : Nat
  dst : Bool
  imm : Nat
  sat : Bool
  pred : Bool
  latency : Nat
deriving DecidableEq, Repr

/-- Types of the table's columns F, I, F and I. -/
def tyF : List Nat := [0, 1, 2]
def tyI : List Nat := [3]
def tyFI : List Nat := [0, 1, 2, 3]

/-- The operations of R312, from NOP to SPLAT. -/
def vecRows1 : List VecRow :=
  [⟨0x00, [0], 0, false, 0, false, false, 0⟩, ⟨0x01, tyFI, 3, true, 0, true, true, 4⟩, ⟨0x02, tyFI, 3, true, 0, true, true, 4⟩,
   ⟨0x03, tyFI, 3, true, 0, true, true, 4⟩, ⟨0x04, tyFI, 7, true, 0, true, true, 4⟩, ⟨0x05, tyFI, 7, true, 0, true, true, 4⟩,
   ⟨0x06, tyFI, 3, true, 0, false, true, 2⟩, ⟨0x07, tyFI, 3, true, 0, false, true, 2⟩, ⟨0x08, tyFI, 1, true, 0, true, true, 2⟩,
   ⟨0x09, tyF, 1, true, 0x1FF, true, true, 3⟩, ⟨0x0A, tyFI, 3, true, 0, false, true, 2⟩, ⟨0x0B, tyFI, 3, true, 0, false, true, 2⟩,
   ⟨0x0C, tyFI, 3, true, 0, false, true, 2⟩, ⟨0x0D, tyI, 1, true, 0x1F, false, true, 2⟩, ⟨0x0E, tyI, 1, true, 0x1F, false, true, 2⟩,
   ⟨0x0F, tyI, 1, true, 0x1F, false, true, 2⟩, ⟨0x10, tyI, 0, true, 0x1FFF, false, true, 2⟩, ⟨0x11, tyFI, 1, true, 0x3F, false, true, 2⟩]

/-- The operations of R312, from CMP to EMIT. -/
def vecRows2 : List VecRow :=
  [⟨0x20, tyFI, 3, false, 0x3F, false, true, 2⟩, ⟨0x21, tyFI, 3, true, 3, false, true, 2⟩,
   ⟨0x30, [0, 1, 2, 3, 4, 5, 6], 1, true, 0x3F, true, true, 3⟩, ⟨0x31, [1, 2, 4, 5, 6], 1, true, 3, false, true, 3⟩,
   ⟨0x40, tyFI, 1, true, 0, true, true, 8⟩, ⟨0x41, tyFI, 1, true, 0, false, true, 8⟩, ⟨0x42, tyFI, 1, true, 0, false, true, 8⟩,
   ⟨0x43, tyFI, 1, true, 0, false, true, 8⟩, ⟨0x50, tyF, 1, true, 0, true, true, 12⟩, ⟨0x51, tyF, 1, true, 0, true, true, 12⟩,
   ⟨0x52, tyF, 1, true, 0, true, true, 8⟩, ⟨0x53, tyF, 1, true, 0, true, true, 8⟩, ⟨0x54, tyF, 1, true, 0, true, true, 12⟩,
   ⟨0x55, tyF, 1, true, 0, true, true, 12⟩, ⟨0x60, tyFI, 3, true, 0, false, true, 3⟩, ⟨0x61, tyFI, 1, true, 0x3F, false, true, 3⟩,
   ⟨0x62, tyFI, 3, true, 0x3F, false, true, 3⟩, ⟨0x63, tyFI, 3, true, 1, false, true, 3⟩, ⟨0x64, tyFI, 3, true, 1, false, true, 3⟩,
   ⟨0x70, [0], 0, true, 1, false, false, 1⟩, ⟨0x71, [0], 1, false, 1, false, false, 2⟩, ⟨0x7F, tyFI, 1, false, 0x7FF, true, true, 12⟩]

/-- The row of an operation code. (DESIGN CHOICE: log entry 31.) -/
def vecRow (op : Nat) : Option VecRow := (vecRows1 ++ vecRows2).find? (fun r => r.op = op)

/-- Lanes of a TYPE, and their width in bits (R306). -/
def lanesOf (ty : Nat) : Nat := if ty = 1 || ty = 2 then 64 else if 4 ≤ ty then 128 else 32
def widthOf (ty : Nat) : Nat := if ty = 1 || ty = 2 then 16 else if 4 ≤ ty then 8 else 32

/-- Format of a floating-point TYPE. -/
def fmtOf (ty : Nat) : Fmt := if ty = 1 then bf16 else if ty = 2 then fp16 else if ty = 4 then e4m3 else if ty = 5 then e5m2 else fp32

/-- TYPE is an integer type. -/
def isInt (ty : Nat) : Bool := ty = 3 || ty = 6

/-- What an operation asks of its immediate beyond its unused bits (R312, R315). -/
def immOk (op ty imm : Nat) : Bool :=
  if op = 0x11 then imm < lanesOf ty
  else if op = 0x20 then imm % 4 ≠ 0 && imm / 4 ≤ 7
  else if op = 0x21 then imm ≠ 0
  else if op = 0x30 then imm % 8 ≠ 7 && (imm / 16 + 1) * lanesOf ty * (widthOf (imm % 8) / 8) ≤ 128
  else if op = 0x31 then 4 ≤ ty || imm ≤ 1
  else if op = 0x7F then imm % 8 ≠ 7
  else true

/-- A vector instruction is valid (R307, R311, R312). (DEDUCED: log entry 32.) -/
def vecValid (op : Nat) (v : VInstr) : Bool :=
  match vecRow op with
  | none => false
  | some r =>
    r.types.contains v.ty && (r.sat || !v.sat) && (r.pred || (v.pred = 0 && !v.pinv)) && v.pred ≤ 3
      && (if r.dst then v.dst < 512 else v.dst = 0)
      && (if bitOf r.srcs 0 then v.a < 512 else v.a = 0) && (if bitOf r.srcs 1 then v.b < 512 else v.b = 0)
      && (if bitOf r.srcs 2 then v.c < 512 else v.c = 0)
      && v.imm &&& r.imm = v.imm && immOk op v.ty v.imm
      && !(r.srcs = 7 && v.a % 16 = v.b % 16 && v.b % 16 = v.c % 16)

/-- The instruction that 64 bits spell (R311): its operation code and fields. -/
def vecOf (w : W64) : Nat × VInstr :=
  let n := w.toNat
  (bitsOf n 63 56, { ty := bitsOf n 55 53, sat := bitOf n 52, pred := bitsOf n 51 50, pinv := bitOf n 49, dst := bitsOf n 48 40
                     a := bitsOf n 39 31, b := bitsOf n 30 22, c := bitsOf n 21 13, imm := bitsOf n 12 0 })

/-- A signed 32-bit result: saturated, or modulo 2^32 (R312). -/
def intLane (sat : Bool) (i : Int) : Nat := ofInt 32 (if sat then satInt 32 i else i)

/-- A floating-point lane result (R280–R282). -/
def fltLane (ty : Nat) (sat : Bool) (v : Fl) : Nat := (fmtOf ty).code .rne sat v

/-- Result of a lane of the arithmetic operations ADD to SCALEB. -/
def arithLane (op ty : Nat) (sat : Bool) (imm a b c : Nat) : Nat :=
  if isInt ty then
    let x := sext 32 a
    let y := sext 32 b
    let z := sext 32 c
    if op = 1 then intLane sat (x + y) else if op = 2 then intLane sat (x - y) else if op = 3 then intLane sat (x * y)
    else if op = 4 then intLane sat (x * y + z) else if op = 5 then intLane sat (x * y - z)
    else if op = 6 then intLane false (max x y) else if op = 7 then intLane false (min x y) else intLane sat (x.natAbs : Int)
  else
    let f := fmtOf ty
    let x := f.value a
    let y := f.value b
    let z := f.value c
    let r : Fl :=
      if op = 1 then x.add y else if op = 2 then x.add y.neg else if op = 3 then x.mul y
      else if op = 4 then (x.mul y).add z else if op = 5 then (x.mul y).add z.neg
      else if op = 6 then x.max y else if op = 7 then x.min y
      else if op = 8 then (if x.isNeg then x.neg else x)
      else match x with | .fin n m e => .fin n m (e + sext 9 imm) | r => r
    fltLane ty sat r

/-- Result of a lane of the logic operations AND to SRA. -/
def logicLane (op imm a b : Nat) : Nat :=
  if op = 0x0A then a &&& b else if op = 0x0B then a ||| b else if op = 0x0C then a ^^^ b
  else if op = 0x0D then a * 2 ^ (imm % 32) % 2 ^ 32
  else if op = 0x0E then a / 2 ^ (imm % 32)
  else ofInt 32 (sext 32 a / (2 ^ (imm % 32) : Nat))

/-- a cond b, with the conditions of CMP: with a NaN only NE and UNORD hold (R312). -/
def cmpLane (ty cond a b : Nat) : Bool :=
  let x := if isInt ty then Fl.ofInt (sext 32 a) else (fmtOf ty).value a
  let y := if isInt ty then Fl.ofInt (sext 32 b) else (fmtOf ty).value b
  let un := x.isNan || y.isNan
  if cond = 0 then x.eq y else if cond = 1 then !x.eq y else if cond = 2 then x.lt y else if cond = 3 then x.lt y || x.eq y
  else if cond = 4 then y.lt x else if cond = 5 then y.lt x || x.eq y else if cond = 6 then un else !un

/-- A lane converted to another format (R282, R312). -/
def cvtLane (src dst : Nat) (sat rtz : Bool) (a : Nat) : Nat :=
  let rm : Rm := if rtz then .rtz else .rne
  let v := if isInt src then Fl.ofInt (sext (widthOf src) a) else (fmtOf src).value a
  if isInt dst then ofInt (widthOf dst) (v.satTo rm (widthOf dst)) else (fmtOf dst).code rm sat v

/-- A lane widened to FP32, or INT8 to INT32, exactly (R312). -/
def widenLane (src a : Nat) : Nat := if isInt src then ofInt 32 (sext (widthOf src) a) else fp32.code .rne false ((fmtOf src).value a)

/-- The special functions of R314 in FP32. What the table of special values does not give is open. (DESIGN CHOICE: log entry 31.) -/
def special32 (op a : Nat) : Nat :=
  let x := fp32.value a
  let open_ (b : Nat) : Nat := fp32.code .rne false (fp32.value (Config.special op (BitVec.ofNat 32 b)).toNat)
  let inf (n : Bool) : Nat := fp32.code .rne false (.inf n)
  let one (n : Bool) : Nat := fp32.code .rne false (.fin n 1 0)
  let odd (lim : Fl) : Nat :=
    let m := a % 2 ^ 31
    if !(fp32.value m).lt lim then one x.isNeg else if x.isNeg then (open_ m + 2 ^ 31) % 2 ^ 32 else open_ m
  if x.isNan then fp32.nan
  else if op = 0x50 then
    if !x.lt (.fin false 128 0) then inf false else if x.lt (.fin true 150 0) then 0 else open_ a
  else if op = 0x51 then
    if x.isZero then inf true else if x.isNeg then fp32.nan else if x.isInf then inf false else if x.eq (.fin false 1 0) then 0 else open_ a
  else if op = 0x52 then
    if x.isZero then inf x.isNeg else if x.isInf then fp32.signed x.isNeg 0 else open_ a
  else if op = 0x53 then
    if x.isZero then inf x.isNeg else if x.isNeg then fp32.nan else if x.isInf then 0 else open_ a
  else if op = 0x54 then odd (Fl.div (.fin false 91 0) (.fin false 10 0))
  else odd (.fin false 4 0)

/-- A special function of a lane: FP32 rounded once to the lane's format (R314). (DESIGN CHOICE: log entry 31.) -/
def specialLane (op ty : Nat) (sat : Bool) (a : Nat) : Nat :=
  fltLane ty sat (fp32.value (special32 op (fp32.code .rne false ((fmtOf ty).value a))))

/-- Sum of two lanes of the tree of R313. (DESIGN CHOICE: log entry 31.) -/
def sumLane (ty : Nat) (sat : Bool) (a b : Nat) : Nat := arithLane 1 ty sat 0 a b 0

/-- The fixed tree of R313, from stride `s` down. -/
def sumTree (fuel ty : Nat) (sat : Bool) (s : Nat) (l : List Nat) : Nat :=
  match fuel with
  | 0 => l.getD 0 0
  | fuel + 1 =>
    if s = 0 then l.getD 0 0
    else sumTree fuel ty sat (s / 2) ((List.range s).map (fun i => sumLane ty sat (l.getD i 0) (l.getD (i + s) 0)))

/-- The maximum (6) or minimum (7) of lanes; of no lane the identity given (R312, R315). (DESIGN CHOICE: log entry 31.) -/
def extremum (op ty : Nat) (l : List Nat) (none_ : Nat) : Nat :=
  match l with
  | [] => none_
  | v :: r => r.foldl (fun m x => arithLane op ty false 0 m x 0) (if isInt ty then v else (fmtOf ty).code .rne false ((fmtOf ty).value v))

/-- RARGMAX: the first lane that holds the maximum, all ones when every lane is a NaN (R312). (DESIGN CHOICE: log entry 31.) -/
def argMax (ty : Nat) (l : List Nat) : Nat :=
  let m := extremum 6 ty l 0
  ((List.range l.length).find? (fun i => cmpLane ty 0 (l.getD i 0) m && (isInt ty || arithLane 6 ty false 0 (l.getD i 0) m 0 = l.getD i 0))).getD 0xFFFFFFFF

/-- Where an instruction's result goes: lanes of `w` bits from byte `base` of DST, or bits of a lane mask. -/
inductive VecOut where
  | lanes (w base : Nat) (vals : List Nat)
  | mask (q : Nat) (bits : List Bool)
  | nothing
deriving DecidableEq, Repr

/-- What an instruction computes from its three source entries and the masks; `free i` is an open value for lane i. (DESIGN CHOICE: log entry 31.) -/
def vecResult (op : Nat) (v : VInstr) (ra rb rc : Nat) (q : Nat → Nat) (free : Nat → Nat) : VecOut :=
  let ty := v.ty
  let w := widthOf ty
  let n := lanesOf ty
  let a (i : Nat) : Nat := laneOf w ra i
  let b (i : Nat) : Nat := laneOf w rb i
  let c (i : Nat) : Nat := laneOf w rc i
  let each (f : Nat → Nat) : VecOut := .lanes w 0 ((List.range n).map f)
  let first (x : Nat) : VecOut := .lanes w 0 (x :: (List.range (n - 1)).map free)
  if op ≤ 0x09 then (if op = 0 then .nothing else each (fun i => arithLane op ty v.sat v.imm (a i) (b i) (c i)))
  else if op ≤ 0x0F then each (fun i => logicLane op v.imm (a i) (b i))
  else if op = 0x10 then each (fun _ => ofInt 32 (sext 13 v.imm))
  else if op = 0x11 then each (fun _ => a v.imm)
  else if op = 0x20 then .mask (v.imm % 4) ((List.range n).map (fun i => cmpLane ty (v.imm / 4) (a i) (b i)))
  else if op = 0x21 then each (fun i => if bitOf (q (v.imm % 4)) i then a i else b i)
  else if op = 0x30 then
    let d := v.imm % 8
    .lanes (widthOf d) (v.imm / 16 * n * (widthOf d / 8)) ((List.range n).map (fun i => cvtLane ty d v.sat (bitOf v.imm 3) (a i)))
  else if op = 0x31 then .lanes 32 0 ((List.range 32).map (fun i => widenLane ty (a (v.imm * 32 + i))))
  else if op = 0x40 then
    .lanes w 0 (sumTree 7 ty v.sat (n / 2) ((List.range n).map a) :: List.replicate (n - 1) 0)
  else if op = 0x41 then first (extremum 6 ty ((List.range n).map a) 0)
  else if op = 0x42 then first (extremum 7 ty ((List.range n).map a) 0)
  else if op = 0x43 then
    .lanes 32 0 (argMax ty ((List.range n).map a) :: (List.range 31).map free)
  else if op ≤ 0x55 then each (fun i => specialLane op ty v.sat (a i))
  else if op = 0x60 then each (fun i => a (b i % n))
  else if op = 0x61 then each (fun i => a ((i + v.imm) % n))
  else if op = 0x62 then each (fun i => let j := i + v.imm; if j < n then a j else if j < 2 * n then b (j - n) else free i)
  else if op = 0x63 then each (fun i => let j := i / 2 + v.imm * (n / 2); if i % 2 = 0 then a j else b j)
  else each (fun i => let j := 2 * (i % (n / 2)) + v.imm; if i < n / 2 then a j else b j)

/-- Lanes on under the predicate (R310, R311): a lane mask has 64 bits, and the lanes of an 8-bit type from 64 on have none. -/
def laneOn (v : VInstr) (q : Nat → Nat) (i : Nat) : Bool := if v.pred = 0 then !v.pinv else xor v.pinv (bitOf (q v.pred) i)

/-- An entry of the operand cache. -/
def Pod.oc (x : Pod) (e : Nat) : OcEntry := tget ⟨0, false, false⟩ x.cache e
/-- Lane mask `i`. -/
def Pod.qMask (x : Pod) (i : Nat) : Nat := (tget (0 : W64) x.q i).toNat

/-- Halves of a source that an instruction reads: low, high. -/
def halvesRead (op : Nat) (v : VInstr) : Bool × Bool :=
  if op = 0x11 then (v.imm * widthOf v.ty < 512, 512 ≤ v.imm * widthOf v.ty)
  else if op = 0x31 then (v.imm * 32 * widthOf v.ty < 512, 512 ≤ v.imm * 32 * widthOf v.ty)
  else if op = 0x63 then (v.imm = 0, v.imm ≠ 0)
  else (true, true)

/-- Some source half that the instruction reads is poisoned (R317). -/
def vecPoison (x : Pod) (op : Nat) (v : VInstr) : Bool :=
  let h := halvesRead op v
  let bad (e : Nat) : Bool := let o := x.oc e; (h.1 && o.lo) || (h.2 && o.hi)
  match vecRow op with
  | none => false
  | some r => (bitOf r.srcs 0 && bad v.a) || (bitOf r.srcs 1 && bad v.b) || (bitOf r.srcs 2 && bad v.c)

/-- The bytes that lanes of `w` bits from byte `base` take where they are on. -/
def laneBytes (w base : Nat) (on : List Bool) : BitVec 128 :=
  BitVec.ofNat 128 (((List.range on.length).map (fun i =>
    if on.getD i false then (2 ^ (w / 8) - 1) * 2 ^ (base + i * (w / 8)) else 0)).foldl (· ||| ·) 0)

/-- Adds a result that is written at the end of advanced fc `due`. -/
def addResult (s : State) (k issued due : Nat) (w : VxWrite) : State :=
  let x := s.pod k
  s.setPod k { x with results := x.results ++ [{ due := due, issued := issued, write := w }] }

/-- The VALUE of a summary (R315). -/
def emitValue (v : VInstr) (ra : Nat) (q : Nat → Nat) : Nat :=
  let ty := v.ty
  let n := lanesOf ty
  let sel := (List.range n).filter (laneOn v q)
  let raw (i : Nat) : Nat := laneOf (widthOf ty) ra i
  let wide (i : Nat) : Nat := if isInt ty then raw i else widenLane ty (raw i)
  let wt := if isInt ty then 3 else 0
  let hit := sel.filter (fun i => raw i ≠ 0)
  let kind := v.imm % 8
  if kind = 0 then extremum 6 wt (sel.map wide) (if isInt ty then 0x80000000 else 0xFF800000)
  else if kind = 1 then extremum 7 wt (sel.map wide) (if isInt ty then 0x7FFFFFFF else 0x7F800000)
  else if kind = 2 then
    (if sel.isEmpty then 0
     else sumTree 7 wt v.sat (n / 2) ((List.range n).map (fun i => if laneOn v q i then wide i else 0)))
  else if kind = 3 then hit.length
  else if kind = 4 then b2n (!hit.isEmpty)
  else if kind = 5 then b2n (hit.length = sel.length)
  else (hit.head?).getD 0xFFFFFFFF

/-- The summary word of EMIT (R315). -/
def summaryWord (k : Nat) (v : VInstr) (x : Pod) : W64 :=
  let o := x.oc v.a
  BitVec.ofNat 64 (emitValue v o.data.toNat x.qMask + 2 ^ 32 * (v.imm / 8 % 256) + 2 ^ 40 * k + 2 ^ 50 * (v.imm % 8) + 2 ^ 63 * b2n (o.lo || o.hi))

/-- Manhattan distance in regions (R355). -/
def regionDist (a b : Nat) : Nat :=
  let d (x y : Nat) : Nat := if x ≤ y then y - x else x - y
  d (a / 4) (b / 4) + d (a % 4) (b % 4)

/-- A summary leaves pod `k` for its partition's leader (R316, R355). -/
def emitAt (s : State) (p k : Nat) (v : VInstr) : State :=
  let x := s.pt p
  let f : SummaryFlight := { word := summaryWord k v (s.pod k), due := x.run.elapsed + 12 + 4 * regionDist (regionOfPod k) x.leader }
  s.setPt p { x with run := { x.run with summaryFlights := x.run.summaryFlights ++ [f] } }

/-- A vector instruction issues in pod `k` of partition `p` on advanced fc `a` (R310–R317). (DESIGN CHOICE: log entry 31.) -/
def vecIssue (s : State) (p k op : Nat) (v : VInstr) (a : Nat) : State :=
  let x := s.pod k
  let lat := ((vecRow op).map (fun r => r.latency)).getD 0
  if op = 0x70 then
    match x.arriving a 3 with
    | none => s
    | some l => addResult s k a (a + 1) (.half v.dst v.imm l.data l.poison)
  else if op = 0x71 then
    let o := x.oc v.a
    fly s k (a + 2) (.localIn 3) ⟨BitVec.ofNat 512 (o.data.toNat / 2 ^ (512 * v.imm) % 2 ^ 512), if v.imm = 0 then o.lo else o.hi⟩
  else if op = 0x7F then emitAt s p k v
  else
    let n0 := s.free
    let out := vecResult op v (x.oc v.a).data.toNat (x.oc v.b).data.toNat (x.oc v.c).data.toNat x.qMask (fun i => Config.freeValue (n0 + i))
    let t := { s with free := n0 + 128 }
    match out with
    | .nothing => s
    | .mask q bits =>
      let on := (List.range bits.length).filter (laneOn v x.qMask)
      addResult t k a (a + lat) (.mask q (BitVec.ofNat 64 (maskOf ((List.range bits.length).filter (fun i => bits.getD i false)))) (BitVec.ofNat 64 (maskOf on)))
    | .lanes w base vals =>
      let odd := v.pred ≠ 0 && 64 < vals.length
      let vs := if odd then (List.range vals.length).map (fun i => if 64 ≤ i then Config.freeValue (n0 + i) else vals.getD i 0) else vals
      let on := (List.range vals.length).map (fun i => (odd && 64 ≤ i) || laneOn v x.qMask i)
      addResult t k a (a + lat)
        (.entry v.dst (BitVec.ofNat 1024 (packLanes w vs * 2 ^ (8 * base))) (laneBytes w base on) (vecPoison x op v))

/-- The bytes `m` of `new` over `old`. -/
def mixBytes (old new : Row) (m : BitVec 128) : Row :=
  let mask : Row := BitVec.ofNat 1024 (((List.range 128).map (fun i => if m.getLsbD i then 255 * 256 ^ i else 0)).foldl (· + ·) 0)
  (old &&& ~~~mask) ||| (new &&& mask)

/-- Poison of a half after a result writes the bytes `m` of it (R317). (DEDUCED: log entry 30.) -/
def halfPoison (old p : Bool) (m : Nat) : Bool := p || (old && m ≠ 2 ^ 64 - 1)

/-- A result is written (R306–R310). (DEDUCED: log entry 30.) -/
def applyWrite (x : Pod) (w : VxWrite) : Pod :=
  match w with
  | .entry d v m p =>
    let o := x.oc d
    let n : OcEntry := ⟨mixBytes o.data v m, halfPoison o.lo p (m.toNat % 2 ^ 64), halfPoison o.hi p (m.toNat / 2 ^ 64)⟩
    { x with cache := tset x.cache d n }
  | .half d h l p =>
    let o := x.oc d
    let m : BitVec 128 := BitVec.ofNat 128 ((2 ^ 64 - 1) * 2 ^ (64 * h))
    let v : Row := BitVec.ofNat 1024 (l.toNat * 2 ^ (512 * h))
    let n : OcEntry := ⟨mixBytes o.data v m, if h = 0 then p else o.lo, if h = 0 then o.hi else p⟩
    { x with cache := tset x.cache d n }
  | .mask q b m => { x with q := tset x.q q ((tget 0 x.q q &&& ~~~m) ||| (b &&& m)) }

/-- An instruction result of bank `b`. (DEDUCED: log entry 30.) -/
def inBank (b : Nat) (r : VxPending) : Bool := match r.write with | .entry d _ _ _ => d % 16 = b | _ => false

/-- A later-issued result reaches the same bank on the same fc (R308). -/
def outIssued (l : List VxPending) (r : VxPending) : Bool :=
  match r.write with
  | .entry d _ _ _ => l.any (fun y => inBank (d % 16) y && y.due = r.due && r.issued < y.issued)
  | _ => false

/-- A received word: it is written last (R309). -/
def isRecv (r : VxPending) : Bool := match r.write with | .half _ _ _ _ => true | _ => false

/-- The operand cache and the masks at the end of advanced fc `a` (R308–R310). -/
def endResults (x : Pod) (a : Nat) : Pod :=
  let due := x.results.filter (fun r => r.due ≤ a)
  let kept := due.filter (fun r => !outIssued due r)
  let y := { x with results := x.results.filter (fun r => !(r.due ≤ a)) }
  (kept.filter (fun r => !isRecv r) ++ kept.filter isRecv).foldl (fun z r => applyWrite z r.write) y

end Sys2Proof.Machine
end

