-- ==== Sys2Proof/Machine/SeqOps.lean ====
section
/-! DEFINITION. Sequencers, decision points, stalls and fold boundaries of one partition (R324–R356, R364, R405–R412). -/

namespace Sys2Proof.Machine

/-- Sequencer block of cell `c` (R332). -/
def PodCfg.block (cfg : PodCfg) (c : Nat) : List Byte := tget [1, 1] cfg.seq c

/-- NCOUNT, NSTEPS, counter words and address generators of a block (R326, R329, R332). -/
def ncount (b : List Byte) : Nat := rd 1 b 0
def nsteps (b : List Byte) : Nat := rd 1 b 1
def counterWord (b : List Byte) (i : Nat) : Nat := rd 4 b (4 + 4 * i)
def agWord (b : List Byte) (j k : Nat) : Nat := rd 4 b (0x14 + 20 * j + 4 * k)

/-- A step record (R331). -/
structure StepRec where
  wait : Nat
  await : Bool
  decide : Bool
  skippable : Bool
  cond : Nat
  level : Nat
  /-- The flag awaited, as cell × 8 + bank × 2 + flag set. -/
  flag : Nat
  skipFlag : Nat
  skipInv : Bool
  op : Nat
deriving DecidableEq, Repr

/-- Step `i` of a block. -/
def stepOf (b : List Byte) (i : Nat) : StepRec :=
  let o := 0x60 + 16 * i
  let fl := rd 1 b (o + 2)
  let co := rd 1 b (o + 3)
  let aw := rd 1 b (o + 4)
  let sk := rd 1 b (o + 5)
  { wait := rd 2 b o % 4096, await := bitOf fl 0, decide := bitOf fl 1, skippable := bitOf fl 2, cond := co % 4, level := co / 4 % 4 + 1
    flag := aw % 2 * 8 + aw / 2 % 4 * 2 + aw / 8 % 2, skipFlag := sk % 8, skipInv := bitOf sk 3, op := rd 8 b (o + 8) }

/-- Length of a pass in fc (R324). -/
def passLength (b : List Byte) : Nat := ((List.range (nsteps b)).map (fun i => 1 + (stepOf b i).wait)).foldl (· + ·) 0

/-- Bound that counter `i` reads now (R326). -/
def readBound (b : List Byte) (regs : Tab Nat) (i : Nat) : Nat :=
  let w := counterWord b i
  let src := w / 2 ^ 20 % 8
  (if src = 0 then w % 2 ^ 20 else tget 0 regs (src - 1)) + 1

/-- A sequencer at schedule fc 0 of a context: counters at 0, bounds read (R325, R326, R342). -/
def startSeq (b : List Byte) (regs : Tab Nat) : Seq :=
  { Seq.init with bounds := (List.range (ncount b)).map (fun i => (i, readBound b regs i)) }

/-- The end of a pass: the counters move on from C`i` (R325). -/
def bump (fuel : Nat) (b : List Byte) (regs : Tab Nat) (i : Nat) (q : Seq) : Seq :=
  match fuel with
  | 0 => q
  | fuel + 1 =>
    if ncount b ≤ i then { q with exhausted := true }
    else
      let v := tget 0 q.counters i + 1
      if v < tget 1 q.bounds i then { q with counters := tset q.counters i v }
      else bump fuel b regs (i + 1) { q with counters := tset q.counters i 0, bounds := tset q.bounds i (readBound b regs i) }

/-- The pass of a sequencer ends. -/
def endPass (b : List Byte) (regs : Tab Nat) (q : Seq) : Seq := bump 5 b regs 0 { q with step := 0 }

/-- COND holds on this pass (R327). -/
def condHolds (b : List Byte) (q : Seq) (st : StepRec) : Bool :=
  let low := List.range (min st.level (ncount b))
  if st.cond = 1 then low.all (fun i => tget 0 q.counters i = 0)
  else if st.cond = 2 then low.all (fun i => tget 0 q.counters i + 1 = tget 1 q.bounds i)
  else st.cond = 0

/-- The step issues on this pass under the skip flags `k` (R327, R328). -/
def stepIssues (b : List Byte) (q : Seq) (k : Byte) (st : StepRec) : Bool :=
  condHolds b q st && !(st.skippable && xor st.skipInv (k.getLsbD st.skipFlag))

/-- Value of address generator `j` (R329). -/
def agValue (b : List Byte) (q : Seq) (j : Nat) : Nat :=
  let sum := (List.range (ncount b)).foldl (fun a k => a + sext 24 (agWord b j (k + 1)) * ((tget 0 q.counters k : Nat) : Int)) (sext 24 (agWord b j 0))
  ofInt 24 sum

/-- The image context that a slot of partition `p` holds. -/
def ctxOf (s : State) (p slot : Nat) : Option Ctx :=
  let x := s.pt p
  let sl := tget Slot.init x.slots slot
  (tfind x.handles sl.handle).bind (fun h => h.image.ctxs[sl.ctx]?)

/-- Logical pod at rectangle-relative index `r` of a partition (R376, R378). -/
def Part.podAbs (x : Part) (r : Nat) : Nat :=
  let cols := 8 * x.w
  (x.origin / 4 * 5 + r / cols) * 32 + x.origin % 4 * 8 + r % cols

/-- Rectangle-relative index of a logical pod. -/
def Part.podRel (x : Part) (k : Nat) : Nat := (k / 32 - x.origin / 4 * 5) * (8 * x.w) + (k % 32 - x.origin % 4 * 8)

/-- Logical pods of a partition, in rectangle-relative order. -/
def Part.podList (x : Part) : List Nat := (List.range (40 * x.w * x.h)).map x.podAbs

/-- The pace sequencer of the active context: pod and cell (R339). -/
def paceOf (s : State) (p : Nat) : Option (Nat × Nat) :=
  (ctxOf s p (activeSlot s p)).map (fun c => ((s.pt p).podAbs c.pacePod, c.paceCell))

/-- Sequencer of cell `c` of pod `k`, and its block in the active slot. -/
def seqOf (s : State) (k c : Nat) : Seq := tget Seq.init (s.pod k).seq c
def blockOf (s : State) (p k c : Nat) : List Byte := (s.cfgOf k (activeSlot s p)).block c

/-- The sequencer's current step is due on the coming schedule fc. -/
def seqDue (s : State) (p k c : Nat) : Bool :=
  let q := seqOf s k c
  !q.exhausted && q.step < nsteps (blockOf s p k c) && q.next = (s.pt p).run.sched

/-- The step that is due, when it issues under its condition and skip flags. -/
def dueStep (s : State) (p k c : Nat) : Option StepRec :=
  if seqDue s p k c then
    let b := blockOf s p k c
    let st := stepOf b (seqOf s k c).step
    if stepIssues b (seqOf s k c) (s.pt p).run.flags st then some st else none
  else none

/-- The awaited flag of a step is visible, or was consumed on this very fc (R334, R335). -/
def flagReady (x : Pod) (st : StepRec) : Bool := !st.await || x.flags.contains st.flag || x.consumed.contains st.flag

/-- The queued steers up to and including the first with LAST set, and the rest (R349). -/
def steerGroup (l : List W32) : Option (List W32 × List W32) :=
  match l with
  | [] => none
  | w :: r => if w.getLsbD 31 then some ([w], r) else (steerGroup r).map (fun g => (w :: g.1, g.2))

/-- The partition stalls on the coming fc, with its cause: an awaited flag not set, or a steer group not available (R334, R337, R349). (DEDUCED: log entry 33.) -/
def stallNow (s : State) (p : Nat) : Option StallCause :=
  let all := (s.pt p).podList.flatMap (fun k => (List.range 4).filterMap (fun c => (dueStep s p k c).map (fun st => (k, st))))
  if all.any (fun e => !flagReady (s.pod e.1) e.2) then some .await
  else if all.any (fun e => e.2.decide) && (steerGroup (s.pt p).run.steers).isNone then some .decide
  else none

/-- The first flag, in rectangle-relative pod order, that holds partition `p`: pod × 16 + AWAIT_SEL (R331). -/
def awaitAt (s : State) (p : Nat) : Nat :=
  let hit := (s.pt p).podList.findSome? (fun k => (List.range 4).findSome? (fun c => match dueStep s p k c with
    | some st => if flagReady (s.pod k) st then none else some ((s.pt p).podRel k * 16 + (st.flag / 8 + 2 * (st.flag / 2 % 4) + 8 * (st.flag % 2)))
    | none => none))
  hit.getD 0

/-- A state change that its run gives a partition; one that drains stays DRAINING (R430, R457). -/
def runState (s : State) (p : Nat) (new : PartState) (cause : Nat) : State :=
  if (s.pt p).state = .draining then s else partState s p new cause

/-- Partition `p` stalls (R337, R338); a stall whose cause changes goes on as one (R371). -/
def setStall (s : State) (p : Nat) (c : StallCause) : State :=
  let x := s.pt p
  let t := s.setPt p { x with run := { x.run with
    stall := some c, stallLen := if x.run.stall.isSome then x.run.stallLen else 0, stallAt := if c = .await then awaitAt s p else 0 } }
  runState t p .stalled 0

/-- Partition `p` goes on. -/
def endStall (s : State) (p : Nat) : State :=
  let u := traceStall s p
  let t := u.setPt p { u.pt p with run := { (u.pt p).run with stall := none } }
  runState t p .running 0

/-- A steer word follows R348. -/
def steerValid (w : W32) : Bool :=
  let n := w.toNat
  let act := n % 8
  let zero (hi lo : Nat) : Bool := bitsOf n hi lo = 0
  zero 30 25 &&
    (if act = 0 then zero 24 3
     else if act = 1 || act = 2 then bitsOf n 5 3 ≤ 4 && zero 24 6
     else if act = 3 then true
     else if act = 4 then zero 24 19
     else false)

/-- The steer that makes a group invalid: one that breaks R348, or a second FOLD (R351). -/
def badSteer (g : List W32) (fold : Bool) : Option W32 :=
  match g with
  | [] => none
  | w :: r =>
    let f := w.toNat % 8 = 1
    if !steerValid w || (f && fold) then some w else badSteer r (fold || f)

/-- A decision point consumes its group (R349–R351). (DEDUCED: log entry 33.) -/
def consumeSteers (s : State) (p : Nat) : State :=
  let x := s.pt p
  match steerGroup x.run.steers with
  | none => setStall s p .decide
  | some (g, rest) =>
    match badSteer g false with
    | some w => fault s { code := 0x0302, cls := 2, partition := p, jobId := x.run.jobId, detail := le 4 w.toNat }
    | none =>
      g.foldl (fun t w => tracePart t p 2 0x21 (le 1 1 ++ le 4 w.toNat)) (s.setPt p { x with run := { x.run with steers := rest, acting := g } })

/-- A steer acts (R350). (DEDUCED: log entry 33.) -/
def actSteer (r : Run) (w : W32) : Run :=
  let n := w.toNat
  let act := n % 8
  if act = 1 then { r with foldNow := some (bitsOf n 5 3) }
  else if act = 2 then { r with pendingNext := some (bitsOf n 5 3) }
  else if act = 3 then { r with bounds := tset r.bounds (bitsOf n 4 3) (bitsOf n 24 5) }
  else if act = 4 then
    let m : Byte := BitVec.ofNat 8 (bitsOf n 18 11)
    { r with flags := (r.flags &&& ~~~m) ||| (BitVec.ofNat 8 (bitsOf n 10 3) &&& m) }
  else r

/-- A memory-cell step (R330). -/
def memoryStep (s : State) (k c : Nat) (b : List Byte) (q : Seq) (op a : Nat) : State :=
  let word (sel : Nat) : Nat := agValue b q (op / 2 ^ sel % 4) % 8192
  let t := if bitOf op 0 then cellReadAt s k c (word 2) a else s
  if bitOf op 1 then cellWriteAt t k c (word 4) a else t

/-- A matrix operation word with the offsets of R330: DRAIN first, then the weight field, then the compute field (R296). -/
def matrixStep (s : State) (p k : Nat) (b : List Byte) (q : Seq) (op a : Nat) : State :=
  let cfg := s.cfgOf k (activeSlot s p)
  let g (j : Nat) : Nat := agValue b q j
  let rel := bitOf op 32
  let row := if rel then (bitsOf op 8 4 + g 0) % 32 else bitsOf op 8 4
  let bank := if rel then (bitsOf op 3 3 + g 1) % 2 else bitsOf op 3 3
  let wrow := if bitOf op 33 then (bitsOf op 16 12 + g 2) % 32 else bitsOf op 16 12
  let drow := if bitOf op 34 then (bitsOf op 24 20 + g 2 / 32) % 32 else bitsOf op 24 20
  let dbank := if bitOf op 34 then (bitsOf op 19 19 + g 2 / 1024) % 2 else bitsOf op 19 19
  let t := if bitOf op 18 then drainAt s k cfg dbank drow a else s
  let wop := bitsOf op 11 10
  let u := if wop = 1 then wloadAt t k cfg.mode' wrow (bitOf op 17) a else if wop = 2 then wswapAt t k else t
  let cop := bitsOf op 2 0
  if cop = 1 then macAt u k cfg.mode' bank row (bitOf op 9) false a
  else if cop = 2 then macAt u k cfg.mode' bank row (bitOf op 9) true a
  else if cop = 3 then clearAt u k bank
  else u

/-- A vector step (R330, R331). -/
def vectorStep (s : State) (p k : Nat) (b : List Byte) (q : Seq) (op a : Nat) : State :=
  if !bitOf op 11 then s
  else
    let (code, v) := vecOf ((s.cfgOf k (activeSlot s p)).program.getD (op % 256) 0)
    let rel (bit j x : Nat) : Nat := if bitOf op bit then (x + agValue b q j) % 512 else x
    vecIssue s p k code { v with dst := rel 8 0 v.dst, a := rel 9 1 v.a, b := rel 10 2 v.b } a

/-- The operation of a step in cell `c` of pod `k`. -/
def stepEffect (s : State) (p k c : Nat) (b : List Byte) (q : Seq) (op : Nat) : State :=
  let a := (s.pt p).run.advanced
  if c < 2 then memoryStep s k c b q op a else if c = 2 then matrixStep s p k b q op a else vectorStep s p k b q op a

/-- The sequencer moves to its next step (R324). -/
def advanceSeq (s : State) (k c : Nat) (wait fc : Nat) : State :=
  let x := s.pod k
  let q := seqOf s k c
  s.setPod k { x with seq := tset x.seq c { q with step := q.step + 1, next := fc + 1 + wait } }

/-- A due step issues: its flag is consumed, a decision is taken, its operation acts (R324, R334, R335, R349). -/
def issueStep (s : State) (p k c : Nat) : State :=
  if !seqDue s p k c then s
  else
    let b := blockOf s p k c
    let q := seqOf s k c
    let st := stepOf b q.step
    let fc := (s.pt p).run.sched
    if !stepIssues b q (s.pt p).run.flags st then advanceSeq s k c st.wait fc
    else
      let x := s.pod k
      let s1 := if st.await then s.setPod k { x with flags := x.flags.filter (· ≠ st.flag), consumed := st.flag :: x.consumed } else s
      let s2 := if st.decide && paceOf s p = some (k, c) then consumeSteers s1 p else s1
      if !(s2.pt p).inRun || (s2.pt p).run.stall.isSome then s2 else advanceSeq (stepEffect s2 p k c b q st.op) k c st.wait fc

/-- Sequencers whose pass ends with schedule fc `fc` move their counters on (R325). -/
def endPasses (s : State) (p k fc : Nat) : State :=
  let x := s.pod k
  let regs := (s.pt p).run.bounds
  let due (c : Nat) : Bool :=
    let q := tget Seq.init x.seq c
    !q.exhausted && q.step = nsteps (blockOf s p k c) && q.next = fc + 1
  let cs := (List.range 4).filter due
  if cs.isEmpty then s
  else
    let t := s.setPod k { x with seq := cs.foldl (fun t c => tset t c (endPass (blockOf s p k c) regs (tget Seq.init t c))) x.seq }
    if cs.any (fun c => paceOf s p = some (k, c)) then
      t.setPt p { t.pt p with run := { (t.pt p).run with passes := (t.pt p).run.passes + 1 } }
    else t

/-- The cells of pod `k` at the end of advanced fc `a` (R285, R289, R294, R297, R308). -/
def endCells (s : State) (k a : Nat) : State :=
  match tfind s.fab.pods k with
  | none => s
  | some _ =>
    let t := endWrites s k a
    let x := t.pod k
    let y := endResults (endArray { x with latch := x.latchAt a, consumed := [] } a) a
    t.setPod k { y with flights := y.flights.filter (fun f => a < f.due) }

/-- Every fc of a run is counted (R406, R412). -/
def countFc (s : State) (p : Nat) : State :=
  let x := s.pt p
  let u := x.audit
  let r := { x.run with elapsed := x.run.elapsed + 1 }
  match x.run.stall with
  | none => s.setPt p { x with run := { r with sched := r.sched + 1, advanced := r.advanced + 1 }, audit := { u with schedFc := u.schedFc + 1 } }
  | some c =>
    let v := { u with stallFc := u.stallFc + 1 }
    let w := match c with
      | .await => { v with stallAwait := v.stallAwait + 1 }
      | .decide => { v with stallDecide := v.stallDecide + 1 }
      | .foldWait => { v with stallFoldWait := v.stallFoldWait + 1 }
      | .husk => { v with stallHusk := v.stallHusk + 1 }
    s.setPt p { x with run := { r with foldStall := r.foldStall + 1, stallLen := r.stallLen + 1 }, audit := w }

/-- An advanced fc ends: words move, cells write, steers act, passes end (R242–R247, R325, R350). -/
def endFc (s : State) (p : Nat) : State :=
  let r := (s.pt p).run
  let pods := (s.pt p).podList
  let s1 := pods.foldl (fun t k => moveSwitch t p k r.advanced r.sched) s
  let s2 := pods.foldl (fun t k => endCells t k r.advanced) s1
  let x := s2.pt p
  let s3 := s2.setPt p { x with run := { x.run.acting.foldl actSteer x.run with acting := [] } }
  countFc (pods.foldl (fun t k => endPasses t p k r.sched) s3) p

/-- A fold boundary is due on the coming fc: a FOLD was consumed, or the pace sequencer is exhausted (R340, R350). -/
def foldDue (s : State) (p : Nat) : Bool :=
  let r := (s.pt p).run
  r.active.isSome && (r.foldNow.isSome || (paceOf s p).any (fun e => (seqOf s e.1 e.2).exhausted))

/-- Every pod of the partition starts the context in slot `slot` at schedule fc 0 (R325, R342). (DEDUCED: log entry 33.) -/
def enterContext (s : State) (p slot : Nat) : State :=
  let x := s.pt p
  let regs := x.run.bounds
  let t := x.podList.foldl (fun t k =>
    let y := t.pod k
    let cfg := t.cfgOf k slot
    t.setPod k { y with seq := (List.range 4).map (fun c => (c, startSeq (cfg.block c) regs)) }) s
  let img := (tfind x.handles (tget Slot.init x.slots slot).handle).map (fun h => h.image.movers)
  let ctx := (tget Slot.init x.slots slot).ctx
  let es := img.getD []
  let ms := ((List.range es.length).filterMap (fun i => (es[i]?).map (fun e => ({ entry := e, index := i, issued := 0 } : MoverProgress)))).filter
    (fun m => m.entry.ctx = ctx)
  let u := (traceStall t p).setPt p { x with run := { x.run with
    active := some slot, target := none, sched := 0, passes := 0, foldNow := none, acting := [], movers := ms, stall := none } }
  runState u p .running 0

/-- What the cells of partition `p` have begun by the end of its run comes to its end (R285, R308). -/
def settleCells (s : State) (p : Nat) : State :=
  (s.pt p).podList.foldl (fun t k =>
    match tfind t.fab.pods k with
    | none => t
    | some _ =>
      let a := (t.pt p).run.advanced + 16
      let u := endWrites t k a
      u.setPod k { endResults (u.pod k) a with flights := [], seq := [] }) s

/-- A snapshot waits for partition `p` to pause, and this boundary is its pause point (R367, R674). -/
def snapPauseDue (s : State) (p : Nat) : Bool :=
  s.husk.current.any (fun e => e.state = .open)
    && s.husk.snap.any (fun x => x.parts.any (fun q => q.part = p && q.phase = 0) && (x.atFold = 0 || x.atFold ≤ (s.pt p).audit.folds))

/-- Partition `p` has reached its pause point (R677, step 1). -/
def snapReach (s : State) (p : Nat) : State :=
  let t := { s with husk := { s.husk with snap := s.husk.snap.map (fun x =>
    { x with parts := x.parts.map (fun q => if q.part = p && q.phase = 0 then { q with phase := 1, pausedAt := s.time } else q) }) } }
  traceHusk t p 0 255 ((s.husk.current.map (fun e => e.number)).getD 0)

/-- The run ends (R344, R405); a participant that has not paused yet pauses as it does (R675). (DEDUCED: log entries 30, 33.) -/
def endRun (s0 : State) (p last : Nat) : State :=
  let s := settleCells s0 p
  let x := s.pt p
  let t := haltLeader (s.setPt p { x with run := { x.run with
    active := none, target := none, stall := none, foldNow := none, acting := [], movers := [] } }) p
  let u := eventPart (runState t p .loaded 5) p 0x0310 (le 4 x.run.foldCount.toNat ++ le 1 last)
  let v := if (List.range 4).all (fun i => (tget Slot.init x.slots i).state = .empty) then runState (u.setPt p { u.pt p with bound := none }) p .assigned 0
    else u
  if s.husk.current.any (fun e => e.state = .open) && s.husk.snap.any (fun x => x.parts.any (fun q => q.part = p && q.phase = 0)) then snapReach v p else v

/-- The partition goes to the target slot: into its context, into FOLD_WAIT, or to CONTEXT_EMPTY (R342, R343). (DEDUCED: log entry 33.) -/
def goTo (s : State) (p slot : Nat) : State :=
  let x := s.pt p
  match (tget Slot.init x.slots slot).state with
  | .committed => enterContext s p slot
  | .empty => fault s { code := 0x0301, cls := 2, partition := p, jobId := x.run.jobId, detail := le 1 slot }
  | _ => setStall (s.setPt p { x with run := { x.run with active := none, target := some slot, sched := 0, foldNow := none, movers := [] } }) p .foldWait

/-- Summaries due enter the leader's inbox, in ascending POD order where they arrive together (R355, R364). (DEDUCED: log entry 33.) -/
def deliverSummaries (s : State) (p : Nat) (all : Bool) : State :=
  let x := s.pt p
  let due := x.run.summaryFlights.filter (fun f => all || f.due ≤ x.run.elapsed)
  let key (f : SummaryFlight) : Nat := f.due * 1024 + bitsOf f.word.toNat 49 40
  let l := (due.mergeSort (fun a b => key a ≤ key b)).map (fun f => f.word)
  let room := 256 - x.run.inbox.length
  let lost := l.length - room
  let t := s.setPt p { x with run := { x.run with
    inbox := x.run.inbox ++ l.take room, overrun := x.run.overrun || 0 < lost
    summaryFlights := x.run.summaryFlights.filter (fun f => !(all || f.due ≤ x.run.elapsed)) } }
  if lost = 0 then t
  else fault t { code := 0x0306, cls := 1, partition := p, region := x.leader, jobId := x.run.jobId, detail := le 4 lost }

/-- Steers due become available at the sequencers (R356). (DEDUCED: log entry 33.) -/
def deliverSteers (s : State) (p : Nat) : State :=
  let x := s.pt p
  s.setPt p { x with run := { x.run with
    steers := x.run.steers ++ (x.run.steerFlights.filter (fun f => f.due ≤ x.run.elapsed)).map (fun f => f.word)
    steerFlights := x.run.steerFlights.filter (fun f => !(f.due ≤ x.run.elapsed)) } }

/-- A word of the network that a fold boundary on advanced fc `a` discards: one that has not reached a cell by then (R345, R346). (DEDUCED: log entry 30.) -/
def inPipeline (a : Nat) (f : Flight) : Bool := match f.dest with | .cell _ => a < f.due | _ => a ≤ f.due

/-- The boundary discards what is still in switch pipelines and arrays, with FOLD_NOT_EMPTY (R346). (DEDUCED: log entry 30.) -/
def discardWords (s : State) (p slot : Nat) : State :=
  let x := s.pt p
  let a := x.run.advanced
  x.podList.foldl (fun t k =>
    let y := t.pod k
    if y.waves.isEmpty && !y.flights.any (inPipeline a) then t
    else
      fault (t.setPod k { y with waves := [], flights := y.flights.filter (fun f => !inPipeline a f) })
        { code := 0x0305, cls := 1, partition := p, region := regionOfPod k, pod := k, jobId := x.run.jobId
          detail := le 1 slot ++ le 4 x.run.foldCount.toNat }) s

/-- The audit unit at the end of a fold (R408, R410, R412, R413). -/
def auditFold (s : State) (p slot : Nat) (steered : Bool) : State :=
  let x := s.pt p
  let want := ((ctxOf s p slot).map (fun c => c.passFc)).getD 0 * x.run.passes
  let bad := !steered && x.run.sched ≠ want
  let u := x.audit
  let info := slot + 4 * b2n steered + 8 * b2n bad + 256 * sat 0xFFFFFF x.run.passes
  let t := s.setPt p { x with
    audit := { u with
      folds := u.folds + 1, lastFoldFc := BitVec.ofNat 64 x.run.sched, lastFoldStall := BitVec.ofNat 32 (sat 0xFFFFFFFF x.run.foldStall)
      lastFoldInfo := BitVec.ofNat 32 info, mismatch := if bad then BitVec.ofNat 16 (sat 0xFFFF (u.mismatch.toNat + 1)) else u.mismatch }
    run := { x.run with foldCount := x.run.foldCount + 1, foldStall := 0 } }
  if bad then
    fault t { code := 0x0308, cls := 1, partition := p, jobId := x.run.jobId, detail := le 8 x.run.sched ++ le 8 want }
  else t

/-- The pause of a snapshot or save takes hold at a boundary (R367): summaries on their way arrive first, blocked accesses are abandoned. -/
def pauseAt (s : State) (p slot : Nat) : State :=
  let t := deliverSummaries s p true
  let x := t.pt p
  let u := t.setPt p { x with run := { x.run with
    active := none, target := some slot, sched := 0, foldNow := none, movers := [], stall := none, paused := true } }
  let c := u.sprout x.leader
  let u := if c.run = .halted then u else traceSprout u p 1 c.pc
  let v := match c.run with
    | .blockedSteer _ _ => u.setSprout x.leader { c with run := .running }
    | .blockedInbox _ => u.setSprout x.leader { c with run := .running }
    | .blockedSend _ _ => u.setSprout x.leader { c with run := .running }
    | _ => u
  runState v p .running 0

/-- The fold boundary of partition `p` (R340–R347, R350, R352, R367). (DEDUCED: log entry 30.) -/
def foldBoundary (s : State) (p : Nat) : State :=
  let x := s.pt p
  match x.run.active with
  | none => s
  | some slot =>
    let steered := x.run.foldNow.isSome
    let natural := (paceOf s p).any (fun e => (seqOf s e.1 e.2).exhausted)
    let next := ((ctxOf s p slot).map (fun c => c.next)).getD 4
    let target := match x.run.foldNow with | some t => t | none => x.run.pendingNext.getD next
    let dest := if target < 4 then (tget Slot.init x.slots target).state else .committed
    let s1 := tracePart s p 1 0x20 (le 1 slot ++ le 1 target ++ le 1 (b2n steered + 2 * b2n (dest = .queued || dest = .shifting))
      ++ leb x.run.sched ++ leb x.run.foldStall)
    let t := discardWords (auditFold s1 p slot steered) p slot
    let u := t.setPt p { t.pt p with run := { (t.pt p).run with pendingNext := if natural then none else x.run.pendingNext } }
    if target = 4 then endRun u p slot
    else if snapPauseDue u p then snapReach (pauseAt u p target) p
    else if x.run.pausePending then pauseAt u p target
    else goTo u p target

end Sys2Proof.Machine
end

