-- ==== Sys2Proof/Machine/ImageForm.lean ====
section
/-! DEFINITION. Program images: the container and the checks of R385 (R372–R384), with the validity of the blocks they carry (R243–R245, R250,
R293–R295, R326–R333). -/

namespace Sys2Proof.Machine

/-- The `n` bytes of `b` from `o` on are zero. -/
def zeroAt (b : List Byte) (o n : Nat) : Bool := rd n b o = 0

/-- Reading fixed parts of an image by offset. -/
structure ImgHead where
  length : Nat
  w : Nat
  h : Nat
  nctx : Nat
  initial : Nat
  sections : Nat
  entry : Nat
  bounds : List Nat
  report : Nat

/-- The header of R372. -/
def imgHead (b : List Byte) : ImgHead :=
  { length := rd 4 b 8, w := rd 1 b 0xC, h := rd 1 b 0xD, nctx := rd 1 b 0xE, initial := rd 1 b 0xF, sections := rd 2 b 0x10
    entry := rd 4 b 0x14, bounds := (List.range 4).map (fun i => rd 4 b (0x18 + 4 * i)), report := rd 8 b 0x28 }

/-- Check 1: header fields (R372). (DEDUCED: log entry 35.) -/
def imgCheck1 (b : List Byte) : Bool :=
  let h := imgHead b
  rd 4 b 0 = 0x49505256 && rd 2 b 4 = 1 && rd 2 b 6 = 0x40 && h.length % 8 = 0 && 4096 ≤ h.length && h.length ≤ 134217728
    && h.length ≤ b.length && 1 ≤ h.w && h.w ≤ 4 && 1 ≤ h.h && h.h ≤ 4 && 1 ≤ h.nctx && h.nctx ≤ 16 && h.initial < h.nctx
    && 5 ≤ h.sections && h.sections ≤ 21 + h.nctx && zeroAt b 0x12 2 && zeroAt b 0x38 8 && h.bounds.all (· < 0x100000)

/-- Check 2: the trailer (R374). -/
def imgCheck2 (b : List Byte) : Bool :=
  let n := rd 4 b 8
  16 ≤ n && rd 4 b (n - 8) = 0x54505256 && rd 4 b (n - 4) = (crc32c (bytesAt b 0 (n - 4))).toNat

/-- A section-table entry (R373). -/
structure ImgSect where
  type : Nat
  ctx : Nat
  res : Nat
  off : Nat
  len : Nat
  crc : Nat

/-- The section table. -/
def imgSects (b : List Byte) : List ImgSect :=
  (List.range (imgHead b).sections).map (fun i =>
    let o := 0x40 + 16 * i
    { type := rd 2 b o, ctx := rd 1 b (o + 2), res := rd 1 b (o + 3), off := rd 4 b (o + 4), len := rd 4 b (o + 8), crc := rd 4 b (o + 12) })

/-- Two sections share a byte. -/
def sectOverlap (x y : ImgSect) : Bool := 0 < x.len && 0 < y.len && x.off < y.off + y.len && y.off < x.off + x.len

/-- No two sections of the table overlap. -/
def noOverlap (l : List ImgSect) : Bool :=
  match l with
  | [] => true
  | x :: r => !r.any (sectOverlap x) && noOverlap r

/-- Check 3: the section table (R373). -/
def imgCheck3 (b : List Byte) : Bool :=
  let h := imgHead b
  let ss := imgSects b
  let tend := 0x40 + 16 * h.sections
  let count (t : Nat) : Nat := (ss.filter (fun x => x.type = t)).length
  tend ≤ h.length - 8
    && ss.all (fun x => x.res = 0 && ((1 ≤ x.type && x.type ≤ 6) || 0x8000 ≤ x.type) && (if x.type = 2 then x.ctx < h.nctx else x.ctx = 0xFF)
        && x.off % 8 = 0 && tend ≤ x.off && x.off + x.len ≤ h.length - 8 && x.crc = (crc32c (bytesAt b x.off x.len)).toNat)
    && noOverlap ss
    && count 1 = 1 && count 3 = 1 && count 4 ≤ 1 && count 5 = 1 && count 6 = 1 && (ss.filter (fun x => 0x8000 ≤ x.type)).length ≤ 16
    && (List.range h.nctx).all (fun c => (ss.filter (fun x => x.type = 2 && x.ctx = c)).length = 1)

/-- Offset and length of the section of a type; of context `c`'s records. -/
def sectSpan (b : List Byte) (t : Nat) : Nat × Nat := ((imgSects b).find? (fun x => x.type = t)).elim (0, 0) (fun x => (x.off, x.len))
def recSpan (b : List Byte) (c : Nat) : Nat × Nat :=
  ((imgSects b).find? (fun x => x.type = 2 && x.ctx = c)).elim (0, 0) (fun x => (x.off, x.len))

/-- Records of a section, by RECORD_LENGTH: offset, POD and length of each, and whether they fill the section exactly (R376). (DEDUCED: log entry 35.) -/
def walkRecs (fuel : Nat) (b : List Byte) (o n : Nat) : List (Nat × Nat × Nat) × Bool :=
  match fuel with
  | 0 => ([], n = 0)
  | fuel + 1 =>
    if n = 0 then ([], true)
    else
      let v := rd 2 b (o + 2)
      let l := rd 4 b (o + 4)
      if n < 4912 || 256 < v || l ≠ 4912 + 8 * v || n < l then ([], false)
      else let r := walkRecs fuel b (o + l) (n - l); ((o, rd 2 b o, l) :: r.1, r.2)

/-- The records of context `c`. -/
def ctxRecs (b : List Byte) (c : Nat) : List (Nat × Nat × Nat) × Bool := walkRecs 641 b (recSpan b c).1 (recSpan b c).2

/-- Offset of context entry `c` (R375). -/
def ctxEntry (b : List Byte) (c : Nat) : Nat := (sectSpan b 1).1 + 16 * c

/-- Check 4: context entries (R375). Records that cannot be told apart are left to check 5. -/
def imgCheck4 (b : List Byte) : Bool :=
  let h := imgHead b
  (sectSpan b 1).2 = 16 * h.nctx &&
    (List.range h.nctx).all (fun c =>
      let o := ctxEntry b c
      let rs := ctxRecs b c
      let pace := rd 2 b (o + 4)
      rd 1 b o ≤ 3 && rd 1 b (o + 1) ≤ 4 && rd 1 b (o + 2) ≤ 3 && zeroAt b (o + 3) 1 && zeroAt b (o + 6) 2 && zeroAt b (o + 12) 4
        && 1 ≤ rd 4 b (o + 8) && rd 4 b (o + 8) ≤ 40 * h.w * h.h && pace < 40 * h.w * h.h
        && (!rs.2 || rs.1.any (fun r => r.2.1 = pace)))

/-- The numbers rise strictly. -/
def rising (l : List Nat) : Bool :=
  match l with
  | a :: b :: r => a < b && rising (b :: r)
  | _ => true

/-- SLOT_CRC of the record at `o` of length `l` matches (R376, R395). -/
def slotCrcOk (b : List Byte) (o l : Nat) : Bool := rd 4 b (o + 8) = (crc32c (bytesAt (b.drop (o + 16)) 0 (l - 16))).toNat

/-- Check 5: records (R376). (DEDUCED: log entry 35.) -/
def imgCheck5 (b : List Byte) : Bool :=
  let h := imgHead b
  (List.range h.nctx).all (fun c =>
    let rs := ctxRecs b c
    rs.2 && rs.1.length = rd 4 b (ctxEntry b c + 8) && rising (rs.1.map (fun r => r.2.1))
      && rs.1.all (fun r => r.2.1 < 40 * h.w * h.h && zeroAt b (r.1 + 12) 4 && zeroAt b (r.1 + 0x1A8) 8 && slotCrcOk b r.1 r.2.2))

/-- Port `t` (1 N, 2 E, 3 S, 4 W) of the pod at rectangle-relative index `r` faces outside a `w` × `h` rectangle (R250). -/
def facesOut (w h r t : Nat) : Bool :=
  let y := r / (8 * w)
  let x := r % (8 * w)
  (t = 1 && y = 0) || (t = 2 && x + 1 = 8 * w) || (t = 3 && y + 1 = 5 * h) || (t = 4 && x = 0)

/-- An entry of slot table `t` (0–3 N to W, 4 LOCAL_OUT, 5 INJECT) is valid (R243, R244, R250). -/
def entryValid (w h r t e : Nat) : Bool :=
  let src := e % 8
  let cell := e / 8 % 4
  e < 32 &&
    (if t = 5 then src = 5 || e = 0
     else src ≤ 5 && (t ≥ 4 || src ≠ t + 1) && (t ≠ 4 || src ≠ 5) && (cell = 0 || (t = 4 && src ≠ 0))
       && !(src ≠ 0 && t < 4 && facesOut w h r (t + 1)) && !(1 ≤ src && src ≤ 4 && facesOut w h r src))

/-- A switch configuration block is valid (R244, R245, R250). -/
def switchValid (w h r : Nat) (b : List Byte) : Bool :=
  zeroAt b 6 2 &&
    (List.range 6).all (fun t =>
      let per := rd 1 b t
      1 ≤ per && per ≤ 64 &&
        (List.range 64).all (fun i => let e := rd 1 b (8 + 64 * t + i); if per ≤ i then e = 0 else entryValid w h r t e))

/-- A matrix mode block is valid (R293). (DEDUCED: log entry 32.) -/
def matrixValid (b : List Byte) : Bool :=
  let m := rd 1 b 0
  let f := rd 1 b 1
  m ≤ 7 && f ≤ 3 && (m = 0 || (if m = 5 then f = 3 else f ≤ 2)) && rd 1 b 2 < 2 && zeroAt b 3 1 && zeroAt b 8 8
    && (m ≠ 5 || rd 4 b 4 = 0x3F800000)

/-- A matrix operation word is valid (R294, R295). (DEDUCED: log entry 32.) -/
def opWordValid (mode w : Nat) : Bool :=
  let cop := bitsOf w 2 0
  let wop := bitsOf w 11 10
  w < 2 ^ 25 && cop ≤ 3 && wop ≤ 2 && (cop ≠ 0 || bitsOf w 9 3 = 0) && (wop ≠ 0 || bitsOf w 17 12 = 0) && (bitOf w 18 || bitsOf w 24 19 = 0)
    && !(wideMode mode && (bitOf w 9 || bitOf w 17))

/-- A step record is valid in cell `c`'s sequencer (R331, R333). -/
def stepValid (b : List Byte) (c mode prog : Nat) (pace : Bool) : Bool :=
  let op := rd 8 b 8
  rd 2 b 0 < 0x1000 && rd 1 b 2 < 8 && rd 1 b 3 < 16 && rd 1 b 3 % 4 ≠ 3 && rd 1 b 4 < 16 && rd 1 b 5 < 16 && zeroAt b 6 2
    && (!bitOf (rd 1 b 2) 1 || pace)
    && (if c < 2 then op < 64 && bitsOf op 3 2 ≠ 3 && bitsOf op 5 4 ≠ 3
        else if c = 2 then op < 2 ^ 35 && opWordValid mode (op % 2 ^ 32)
        else op < 4096 && (!bitOf op 11 || op % 256 < prog))

/-- A sequencer block is valid (R326–R333). -/
def seqValid (b : List Byte) (c mode prog : Nat) (pace : Bool) : Bool :=
  let nc := rd 1 b 0
  let ns := rd 1 b 1
  1 ≤ nc && nc ≤ 4 && 1 ≤ ns && ns ≤ 64 && zeroAt b 2 2 && zeroAt b 0x50 16
    && (List.range 4).all (fun i => let w := counterWord b i; if nc ≤ i then w = 0 else w < 2 ^ 23 && bitsOf w 22 20 ≤ 4)
    && (List.range 15).all (fun i => rd 1 b (0x17 + 4 * i) = 0)
    && (List.range 64).all (fun i =>
      let r := bytesAt (b.drop (0x60 + 16 * i)) 0 16
      if ns ≤ i then r.all (· = 0) else stepValid r c mode prog pace)

/-- Vector instruction word is valid. -/
def vecWordValid (n : Nat) : Bool := let x := vecOf (BitVec.ofNat 64 n); vecValid x.1 x.2

/-- Offsets of the sequencer blocks in a record. -/
def seqOff (c : Nat) : Nat := 0x1B0 + 0x460 * c

/-- Every record of every context passes a check: context, its record's POD, the record's bytes. -/
def allRecs (b : List Byte) (f : Nat → Nat → List Byte → Bool) : Bool :=
  (List.range (imgHead b).nctx).all (fun c => (ctxRecs b c).1.all (fun r => f c r.2.1 (bytesAt (b.drop r.1) 0 r.2.2)))

/-- Check 6: switch blocks. -/
def imgCheck6 (b : List Byte) : Bool :=
  let h := imgHead b
  allRecs b (fun _ r x => switchValid h.w h.h r (bytesAt (x.drop 0x10) 0 392))

/-- Check 7: matrix mode blocks. -/
def imgCheck7 (b : List Byte) : Bool := allRecs b (fun _ _ x => matrixValid (bytesAt (x.drop 0x198) 0 16))

/-- Check 8: sequencer blocks and vector instructions. -/
def imgCheck8 (b : List Byte) : Bool :=
  allRecs b (fun c r x =>
    let o := ctxEntry b c
    let n := rd 2 x 2
    (List.range 4).all (fun k =>
      seqValid (bytesAt (x.drop (seqOff k)) 0 1120) k (rd 1 x 0x198) n (r = rd 2 b (o + 4) && k = rd 1 b (o + 2)))
      && (List.range n).all (fun i => vecWordValid (rd 8 x (0x1330 + 8 * i))))

/-- Check 9: the Sprout section (R373). (DEDUCED: log entry 35.) -/
def imgCheck9 (b : List Byte) : Bool :=
  let n := (sectSpan b 3).2
  let e := (imgHead b).entry
  1 ≤ n && n ≤ 131068 && e % 2 = 0 && e < n

/-- The pace sequencer's block of context `c`. -/
def paceBlock (b : List Byte) (c : Nat) : List Byte :=
  let o := ctxEntry b c
  match (ctxRecs b c).1.find? (fun r => r.2.1 = rd 2 b (o + 4)) with
  | some r => bytesAt (b.drop (r.1 + seqOff (rd 1 b (o + 2)))) 0 1120
  | none => []

/-- PASS_FC of context `c` (R384). -/
def passFcOf (b : List Byte) (c : Nat) : Nat := passLength (paceBlock b c)

/-- REPORT_FOLD_FC of context `c` (R384). -/
def foldFcOf (b : List Byte) (c : Nat) : Nat :=
  let x := paceBlock b c
  let bound (i : Nat) : Nat :=
    let w := counterWord x i
    let src := bitsOf w 22 20
    if src = 0 then bitsOf w 19 0 + 1 else bitsOf (rd 4 b (0x18 + 4 * (src - 1))) 19 0 + 1
  let n := passFcOf b c * ((List.range (ncount x)).map bound).foldl (· * ·) 1
  sat (2 ^ 64 - 1) n

/-- DECIDE_COUNT of context `c` (R384). -/
def decidesOf (b : List Byte) (c : Nat) : Nat :=
  let x := paceBlock b c
  ((List.range (nsteps x)).filter (fun i => (stepOf x i).decide)).length

/-- Mover-schedule entry `i` in the section at `o`. -/
def moverAt (b : List Byte) (o i : Nat) : List Byte := bytesAt (b.drop (o + 96 * i)) 0 96

/-- The entries are sorted by CONTEXT and then by TRIGGER_OFFSET (R380). -/
def sortedKeys (l : List (Nat × Nat)) : Bool :=
  match l with
  | a :: b :: r => (a.1 < b.1 || (a.1 = b.1 && a.2 ≤ b.2)) && sortedKeys (b :: r)
  | _ => true

/-- The mover-schedule entries as bytes. -/
def moverEntries (b : List Byte) : List (List Byte) := let x := sectSpan b 4; (List.range (x.2 / 96)).map (moverAt b x.1)

/-- Check 10: mover-schedule entries (R380, R507, R508, R524). -/
def imgCheck10 (b : List Byte) : Bool :=
  let n := (sectSpan b 4).2
  let es := moverEntries b
  n % 96 = 0 && n / 96 ≤ 65536
    && es.all (fun e =>
      let d := bytesAt (e.drop 0x20) 0 64
      rd 1 e 0 < (imgHead b).nctx && zeroAt e 1 3 && zeroAt e 0x1C 4 && 1 ≤ rd 4 e 0xC && rd 4 e 4 < passFcOf b (rd 1 e 0)
        && (embForm d || (descForm d && !(descOf d).srcHost && !(descOf d).dstHost)))
    && sortedKeys (es.map (fun e => (rd 1 e 0, rd 4 e 4)))

/-- Check 11: fingerprints (R254, R262). -/
def imgCheck11 (b : List Byte) : Bool :=
  let h := imgHead b
  let x := sectSpan b 6
  x.2 = 8 * h.w * h.h && (List.range (h.w * h.h)).all (fun i => let f := rd 8 b (x.1 + 8 * i); f % 256 = 1 && f < 2 ^ 40)

/-- Check 12: the report digest (R383, R384). -/
def imgCheck12 (b : List Byte) : Bool :=
  let h := imgHead b
  let x := sectSpan b 5
  x.2 = 32 * h.nctx && (List.range h.nctx).all (fun c =>
    let o := x.1 + 32 * c
    rd 1 b o = c && rd 4 b (o + 4) = passFcOf b c && rd 8 b (o + 8) = foldFcOf b c && rd 4 b (o + 16) = decidesOf b c)

/-- Number of the first check that fails, 0 for a valid image (R385). (DEDUCED: log entry 35.) -/
def imgCheck (b : List Byte) : Nat :=
  if !imgCheck1 b then 1 else if !imgCheck2 b then 2 else if !imgCheck3 b then 3 else if !imgCheck4 b then 4 else if !imgCheck5 b then 5
  else if !imgCheck6 b then 6 else if !imgCheck7 b then 7 else if !imgCheck8 b then 8 else if !imgCheck9 b then 9
  else if !imgCheck10 b then 10 else if !imgCheck11 b then 11 else if !imgCheck12 b then 12 else 0

/-- What a record configures in its pod. -/
def recCfg (x : List Byte) : PodCfg :=
  { switch := bytesAt (x.drop 0x10) 0 392, seq := (List.range 4).map (fun c => (c, bytesAt (x.drop (seqOff c)) 0 1120))
    mode := bytesAt (x.drop 0x198) 0 16, program := (List.range (rd 2 x 2)).map (fun i => BitVec.ofNat 64 (rd 8 x (0x1330 + 8 * i))) }

/-- A mover-schedule entry. -/
def moverOf (e : List Byte) : MoverEntry :=
  { ctx := rd 1 e 0, trigger := rd 4 e 4, first := rd 4 e 8, every := rd 4 e 12, count := rd 4 e 16, srcAdvance := sext 32 (rd 4 e 20)
    dstAdvance := sext 32 (rd 4 e 24), desc := bytesAt (e.drop 0x20) 0 64 }

/-- Context `c` of a valid image. -/
def imgCtx (b : List Byte) (c : Nat) : Ctx :=
  let o := ctxEntry b c
  let rs := (ctxRecs b c).1
  { slot := rd 1 b o, next := rd 1 b (o + 1), paceCell := rd 1 b (o + 2), pacePod := rd 2 b (o + 4), passFc := passFcOf b c
    reportFc := foldFcOf b c, records := rs.map (fun r => (r.2.1, r.1, r.2.2)) }

/-- A valid image. -/
def imgOf (b : List Byte) : Image :=
  let h := imgHead b
  let sp := sectSpan b 3
  { length := h.length, w := h.w, h := h.h, initial := h.initial, sproutEntry := BitVec.ofNat 32 h.entry, bounds := h.bounds
    reportId := BitVec.ofNat 64 h.report, ctxs := (List.range h.nctx).map (imgCtx b), sprout := bytesAt (b.drop sp.1) 0 sp.2
    movers := (moverEntries b).map moverOf, sproutAt := sp
    reads := [(0, 0x40 + 16 * h.sections), sectSpan b 1, sectSpan b 4, sectSpan b 6]
    fingerprints := (List.range (h.w * h.h)).map (fun i => rd 8 b ((sectSpan b 6).1 + 8 * i)) }

end Sys2Proof.Machine
end

