-- ==== Sys2Proof/Machine/MoverOps.lean ====
section
/-! DEFINITION. What engine commands may name and write, the lists they make, and mover-schedule issues (R381, R382, R388, R431, R444,
R449, R452, R458, R459, R512, R516). -/

namespace Sys2Proof.Machine

/-- Two ranges of addresses share a byte. -/
def overlap (a n b m : Nat) : Bool := 0 < n && 0 < m && a < b + m && b < a + n

/-- Bytes of a save area for a `w` × `h` partition (R449). -/
def saveSize (w h : Nat) : Nat := w * h * 0x2800000 + 0x100000

/-- Device ranges of partition `x` that are pinned: staged images, and the save area (R388, R449). -/
def Part.pins (x : Part) : List (Nat × Nat) :=
  x.handles.flatMap (fun h => (windowPieces x.windows h.2.offset h.2.length).getD [])
    ++ (match x.saved with
        | some v => (v.addr.map (fun a => (a, saveSize v.w v.h))).toList
        | none => (x.saveJob.map (fun j => (j.addr, saveSize x.w x.h))).toList)

/-- A range touches a pinned range of the partition. -/
def Part.pinned (x : Part) (a n : Nat) : Bool := x.pins.any (fun r => overlap a n r.1 r.2)

/-- Regions whose memory cells `n` bytes from `a` reach. -/
def regionsOf (a n : Nat) : List Nat :=
  if n = 0 || a < cellBase then [] else ((span (podOfAddr a) (podOfAddr (a + n - 1) + 1 - podOfAddr a)).map regionOfPod).eraseDups

/-- An engine command of a partition is refused whatever it names: the partition is DRAINING or FAULTED (R431, R459). (DEDUCED: log entries 37, 39, 42.) -/
def partRefusal (s : State) (p : Nat) : Option Nat :=
  if p < 16 then
    (if (s.pt p).state = .draining then some 0x0008 else if (s.pt p).state = .faulted then some 0x0309 else none)
  else none

/-- Why an engine command may not use a range of the device address space: BAD_ADDRESS (R29, R30), BAD_STATE (R452, R458), TARGET_RESET
where the range lies behind another partition's closed fence (R437), for a write IMAGE_PINNED (R388) or RESTORE_IN_PROGRESS (R742). (DEDUCED: log entry 42.) -/
def rangeRefusal (s : State) (fn p a n : Nat) (write : Bool) : Option Nat :=
  if !mayName s fn a n then some 0x000B
  else
  let rgs := regionsOf a n
  if rgs.any (fun g => s.pow.gated.contains g) || (p < 16 && (s.pt p).state = .saved && rgs.any (fun g => (s.pt p).regions.contains g)) then some 0x0008
  else if rgs.any (fun g => (s.regionPart g).any (fun q => q ≠ p && (s.pt q).fence.state ≠ .open)) then some 0x0010
  else if write && p < 16 && (s.pt p).pinned a n then some 0x0601
  else if write && (List.range 16).any (fun q => restoring s q && (rgs.any (s.pt q).regions.contains || (s.pt q).windows.any (fun w => overlap a n (w.1 * 0x10000000) (w.2 * 0x10000000))))
  then some 0x0A0D
  else none

/-- The refusal of a descriptor: the first that applies over its ranges (R516). (DEDUCED: log entry 42.) -/
def descRefusal (s : State) (fn p : Nat) (d : Desc) : Option Nat :=
  let rs := d.srcRanges.map (fun r => rangeRefusal s fn p r.1 r.2 false) ++ d.dstRanges.map (fun r => rangeRefusal s fn p r.1 r.2 true)
  [0x000B, 0x0008, 0x0010, 0x0601, 0x0A0D].find? (fun v => rs.any (fun r => r = some v))

/-- The member that a command's work counts against: its partition, or DEVICE (R440). -/
def memberOf (fn : Nat) (c : Consumed) : Nat := let p := reqPart fn c.req; if p < 16 then p else 16

/-- A mover job before it starts. -/
def newJob (id list index member fn : Nat) (jobId : W32) (d : Desc) : Job :=
  { id := id, list := list, index := index, member := member, part := member, fn := fn, jobId := jobId, desc := d, started := false, row := 0, off := 0
    rowBuf := [], rowPoison := [], flagged := [], xfers := [], allSent := false, ended := false, fail := none }

/-- Puts a list of descriptors into the movers' queue in their order (R512). -/
def pushList (s : State) (cmd : Option (Nat × Nat)) (p : Nat) (jobId : W32) (entry : Nat) (memFill : Bool) (fn : Nat) (ds : List Desc) : State :=
  let n := s.eng.nextId
  let l : JobList :=
    { id := n, cmd := cmd, part := p, jobId := jobId, engine := 0, entry := entry, total := ds.length, completed := 0, failed := none, bytes := 0
      poison := false, memFill := memFill }
  let js := (List.range ds.length).filterMap (fun i => (ds[i]?).map (newJob (n + 1 + i) n i p fn jobId))
  let t := { s with eng := { s.eng with nextId := n + 1 + ds.length, lists := s.eng.lists ++ [l], jobs := s.eng.jobs ++ js } }
  traceEng t p 0 cmd.isNone jobId (BitVec.ofNat 32 entry) none

/-- Puts an embedding descriptor into the embedding engine's queue (R524). -/
def pushEmb (s : State) (p : Nat) (jobId : W32) (entry : Nat) (d : EmbDesc) : State :=
  let n := s.eng.nextId
  let l : JobList :=
    { id := n, cmd := none, part := p, jobId := jobId, engine := 1, entry := entry, total := 1, completed := 0, failed := none, bytes := 0
      poison := false, memFill := false }
  let j : EmbJob :=
    { id := n + 1, list := n, index := 0, part := p, jobId := jobId, desc := d, started := false, bags := [], rows := [], sums := [], waits := [], badBags := []
      sent := false, next := 0, ended := false, fail := none }
  let t := { s with eng := { s.eng with nextId := n + 2, lists := s.eng.lists ++ [l], emb := s.eng.emb ++ [j] } }
  traceEng t p 1 true jobId (BitVec.ofNat 32 entry) none

/-- A relative memory-cell address or window-space offset of an image as a device address of partition `x` (R382). -/
def Part.place (x : Part) (a : Nat) : Option Nat :=
  if a < cellBase then windowAddr x.windows a
  else
    let r := podOfAddr a
    if isCell a && r < 40 * x.w * x.h then some (cellBase + x.podAbs r * 0x100000 + (a - cellBase) % 0x100000) else none

/-- The addresses of a descriptor of kind COPY or FILL, translated; `k` is its number among the issues of its entry (R381, R382, R509). -/
def placeDesc (x : Part) (e : MoverEntry) (k : Nat) : Option Desc :=
  let d := descOf e.desc
  let src : Option Nat := if d.fill then some d.src else (x.place d.src).map (fun a => ((a : Int) + k * e.srcAdvance).toNat)
  let dst : Option Nat :=
    if d.remote then some ((d.dst : Int) + k * e.dstAdvance).toNat else (x.place d.dst).map (fun a => ((a : Int) + k * e.dstAdvance).toNat)
  match src, dst with
  | some a, some b => some { d with src := a, dst := b }
  | _, _ => none

/-- The addresses of an embedding descriptor, translated. An advance moves INDICES as source and OUT as destination. -/
def placeEmb (x : Part) (e : MoverEntry) (k : Nat) : Option EmbDesc :=
  let d := embOf e.desc
  let src (a : Nat) : Option Nat := (x.place a).map (fun b => ((b : Int) + k * e.srcAdvance).toNat)
  if d.op = 2 then (if isCell d.out then x.place d.out else some d.out).map (fun u => { d with out := u })
  else
    match x.place d.offsets, src d.indices, (if d.weighted then x.place d.weights else some 0), x.place d.out with
    | some o, some i, some w, some u => some { d with offsets := o, indices := i, weights := w, out := ((u : Int) + k * e.dstAdvance).toNat }
    | _, _, _, _ => none

/-- Addresses that an embedding descriptor starts at. -/
def EmbDesc.bases (d : EmbDesc) : List Nat := if d.op = 2 then [] else [d.offsets, d.indices, d.out] ++ (if d.weighted then [d.weights] else [])

/-- Why an entry's `k`-th issue may not run in partition `p` (R30, R388): none when it may. (DEDUCED: log entry 36.) -/
def entryRefusal (s : State) (p : Nat) (e : MoverEntry) (k : Nat) : Option Nat :=
  let x := s.pt p
  if isEmbOp (rd 1 e.desc 0) then
    match placeEmb x e k with
    | none => some 0x000B
    | some d => if d.bases.all (fun a => x.ownsHbm a 1 || x.ownsCells a 1) then none else some 0x000B
  else
    match placeDesc x e k with
    | none => some 0x000B
    | some d =>
      if !(d.srcRanges ++ d.dstRanges).all (fun r => x.ownsHbm r.1 r.2 || x.ownsCells r.1 r.2) then some 0x000B
      else if d.dstRanges.any (fun r => x.pinned r.1 r.2) then some 0x0601 else none

/-- Schedule fc of an entry's next issue in the active context, while it has one (R381). (DEDUCED: log entry 36.) -/
def nextIssue (passFc : Nat) (m : MoverProgress) : Option Nat :=
  if m.entry.count ≠ 0 && m.entry.count ≤ m.issued then none
  else some ((m.entry.first + m.issued * m.entry.every) * passFc + m.entry.trigger)

/-- PASS_FC of the active context. -/
def activePass (s : State) (p : Nat) : Nat := ((ctxOf s p (activeSlot s p)).map (fun c => c.passFc)).getD 0

/-- Entry number `i` of the active context is due on the coming fc. -/
def entryDue (s : State) (p i : Nat) : Bool :=
  match (s.pt p).run.movers[i]? with
  | none => false
  | some m => (s.pt p).run.active.isSome && nextIssue (activePass s p) m = some (s.pt p).run.sched

/-- Granules of HBM that a descriptor writes. -/
def Desc.dstGranules (d : Desc) : List Nat := (d.dstRanges.flatMap (fun r => if cellBase ≤ r.1 then [] else granules r.1 r.2)).eraseDups

/-- The destination of entry `i` includes a granule that needs a copy, and no reserve entry is free (R685). -/
def entryHeld (s : State) (p i : Nat) : Bool :=
  match (s.pt p).run.movers[i]? with
  | none => false
  | some m =>
    !isEmbOp (rd 1 m.entry.desc 0) && (reserveFree s).isNone &&
      ((placeDesc (s.pt p) m.entry m.issued).elim false (fun d =>
        d.dstGranules.any (fun g => frozenLeft s g && !(s.husk.reserve.any (fun r => r.granule = g)))))

/-- Entry number `i` issues its descriptor (R381, R440); a descriptor whose addresses no longer pass R30 or R388 is not moved. -/
def issueEntry (s : State) (p i : Nat) : State :=
  match (s.pt p).run.movers[i]? with
  | none => s
  | some m =>
    let x := s.pt p
    let t := s.setPt p { x with run := { x.run with movers := x.run.movers.set i { m with issued := m.issued + 1 } } }
    if (entryRefusal s p m.entry m.issued).isSome then t
    else if isEmbOp (rd 1 m.entry.desc 0) then (placeEmb x m.entry m.issued).elim t (fun d => pushEmb t p x.run.jobId m.index d)
    else (placeDesc x m.entry m.issued).elim t (fun d => pushList t none p x.run.jobId m.index false (p + 1) [d])

/-- An entry that is due issues, or stalls its partition with cause HUSK_RESERVE (R381, R685). -/
def entryStep (s : State) (p i : Nat) : State :=
  if !entryDue s p i then s else if entryHeld s p i then setStall s p .husk else issueEntry s p i

end Sys2Proof.Machine
end

