-- ==== Sys2Proof/Machine/LoadOps.lean ====
section
/-! DEFINITION. Staged images, slots, loads, the start and the end of runs (R366–R369, R379, R386–R402). -/

namespace Sys2Proof.Machine

/-- A partition command on a partition that is neither FREE nor DRAINING (R430, R431), nor being restored where R742 refuses it. (DESIGN CHOICE: log entry 22.) -/
def withPart (s : State) (fn cls verb : Nat) (k : Nat → Consumed → State → State) : Out :=
  match startable s fn cls verb with
  | none => .next s
  | some c =>
    let p := target fn c
    if (s.pt p).state = .free || (s.pt p).state = .draining then nextN s (finishSt s fn c.id 0x0008)
    else if restoring s p && (cls = 2 || (cls = 3 && (verb = 5 || verb = 7 || verb = 10))) then nextN s (finishSt s fn c.id 0x0A0D)
    else nextN s (k p c s)

/-- Hazel reads `n` bytes of partition `p`'s window space: the bytes, and whether a word of them is poisoned (R840). -/
def windowRead (s : State) (p o n : Nat) : List Byte × Bool × State :=
  ((windowPieces (s.pt p).windows o n).getD []).foldl
    (fun (acc : List Byte × Bool × State) r => let x := engineRead acc.2.2 r.1 r.2; (acc.1 ++ x.1, acc.2.1 || !x.2.1.isEmpty, x.2.2)) ([], false, s)

/-- The slot that cannot be loaded or cancelled: the active one, or the one that a pause goes back to (R392, R398). -/
def Part.activeSlot (x : Part) : Option Nat := if x.run.paused then x.run.target else x.run.active

/-- Fingerprints of the active maps of a list of regions (R254). -/
def activePrints (s : State) (rgs : List Nat) : List Nat := rgs.map (fun rg => fingerprint (s.rgn rg).s1 (s.rgn rg).s3)

/-- Loads of partition `x` for a slot that have not begun to shift. -/
def Part.waiting (x : Part) (slot : Nat) : Nat := ((if x.shifting then x.loads.drop 1 else x.loads).filter (fun l => l.slot = slot)).length

/-- A slot gets a state. -/
def setSlot (s : State) (p slot : Nat) (v : Slot) : State := s.setPt p { s.pt p with slots := tset (s.pt p).slots slot v }

/-- Every slot of the partition is EMPTY. -/
def Part.slotsEmpty (x : Part) : Bool := (List.range 4).all (fun i => (tget Slot.init x.slots i).state = .empty)

/-- A LOADED partition whose slots are all EMPTY returns to ASSIGNED, and its binding ends (R391). -/
def settleBinding (s : State) (p : Nat) : State :=
  let x := s.pt p
  if x.state = .loaded && x.slotsEmpty then partState (s.setPt p { x with bound := none }) p .assigned 0 else s

/-- A slot becomes EMPTY, or stays QUEUED while a load waits for it; a partition that waits to fold into it faults (R395, R398, R415). -/
def emptySlot (s : State) (p slot : Nat) : State :=
  let x := s.pt p
  if 0 < x.waiting slot then setSlot s p slot { Slot.init with state := .queued }
  else
    let t := setSlot s p slot Slot.init
    if x.run.stall = some .foldWait && x.run.target = some slot then
      fault t { code := 0x0301, cls := 2, partition := p, jobId := x.run.jobId, detail := le 1 slot }
    else settleBinding t p

/-- The result of a load (R392). -/
def Load.result (l : Load) (status : Nat) : Result := ⟨status, 0, fields 12 [(0, le 1 l.slot), (4, le 4 l.shifted), (8, le 4 l.reshifted)]⟩

/-- What shifting a context's records brings: each pod's configuration, how many records were shifted and shifted again, and the first
pod whose second attempt failed. -/
structure Shift where
  cfgs : Tab PodCfg
  shifted : Nat
  reshifted : Nat
  bad : Option Nat
  state : State

/-- Shifts the records of an image context from the staged bytes, in ascending order; `first` and `second` are the pods whose CRC does not
match at the first and at the second attempt (R394, R395, R840). -/
def shiftRecords (s : State) (p : Nat) (h : Handle) (recs : Tab (Nat × Nat)) (first second : List Nat) : Shift :=
  recs.foldl (fun (a : Shift) r =>
    if a.bad.isSome then a
    else
      let x := windowRead a.state p (h.offset + r.2.1) r.2.2
      let good := slotCrcOk x.1 0 r.2.2 && !x.2.1
      let again := !good || first.contains r.1
      if again && (!good || second.contains r.1) then
        { a with shifted := a.shifted + 1, reshifted := a.reshifted + 1, bad := some r.1, state := x.2.2 }
      else
        { a with cfgs := tset a.cfgs r.1 (recCfg x.1), shifted := a.shifted + 1, reshifted := a.reshifted + b2n again, state := x.2.2 })
    { cfgs := [], shifted := 0, reshifted := 0, bad := none, state := s }

/-- Writes a slot of every pod of the partition: its configuration, or the idle one (R377, R396). -/
def sowSlot (s : State) (p slot : Nat) (cfgs : Tab PodCfg) : State :=
  (List.range (40 * (s.pt p).w * (s.pt p).h)).foldl
    (fun t r => let k := (s.pt p).podAbs r; t.setPod k { t.pod k with slots := tset (t.pod k).slots slot (tget idleCfg cfgs r) }) s

/-- CONFIG_CRC for the pod at rectangle-relative index `r` (R395). -/
def configCrc (s : State) (p slot handle r : Nat) : State :=
  let k := (s.pt p).podAbs r
  fault s { code := 0x0307, cls := 1, partition := p, region := regionOfPod k, pod := k, detail := le 1 slot ++ le 2 handle }

/-- The load at the head of the queue ends its shift (R395, R396). -/
def shiftDone (s : State) (p : Nat) (first second : List Nat) : State :=
  let x := s.pt p
  match x.loads with
  | [] => s
  | l :: rest =>
    match tfind x.handles l.handle with
    | none => s
    | some h =>
      let recs := ((h.image.ctxs[l.ctx]?).map (fun c => c.records)).getD []
      let r := shiftRecords s p h recs first second
      let l1 := { l with shifted := l.shifted + r.shifted, reshifted := l.reshifted + r.reshifted }
      let t := r.state.setPt p { r.state.pt p with loads := rest, shifting := false }
      match r.bad with
      | some pod =>
        let u := configCrc t p l.slot l.handle pod
        emptySlot (workDone u l.fn l.id (l1.result 0x0306)) p l.slot
      | none =>
        let u := workDone (sowSlot t p l.slot r.cfgs) l.fn l.id (l1.result 0)
        if 0 < (u.pt p).waiting l.slot then setSlot u p l.slot { Slot.init with state := .queued }
        else
          eventPart (setSlot u p l.slot { state := .committed, handle := l.handle, ctx := l.ctx }) p 0x0301
            (le 1 l.slot ++ le 1 l.ctx ++ le 2 l.handle)

/-- The staged words that Hazel reads for a check are poisoned (R840). (DEDUCED: log entry 35.) -/
def stagedPoison (s : State) (p : Nat) (h : Handle) (l : List (Nat × Nat)) : Bool :=
  l.any (fun r => ((windowPieces (s.pt p).windows (h.offset + r.1) r.2).getD []).any (fun q => !(poisonedWords s q.1 q.2).isEmpty))

/-- Check 2 of R385 on the staged bytes (R390). (DEDUCED: log entry 35.) -/
def restageOk (s : State) (p : Nat) (h : Handle) : Bool :=
  let x := windowRead s p h.offset h.image.length
  !x.2.1 && imgCheck2 x.1

/-- Why a PART.LOAD is refused (R390, R392, R458, R840). (DEDUCED: log entry 36.) -/
def loadRefusal (s : State) (p : Nat) (handle ctx : Nat) : Option Result :=
  let x := s.pt p
  let st (v : Nat) : Option Result := some ⟨v, 0, []⟩
  if x.state = .saved || x.state = .faulted || !x.powered then st 0x0008
  else
    match tfind x.handles handle with
    | none => st 0x0005
    | some h =>
      match h.image.ctxs[ctx]? with
      | none => st 0x0005
      | some c =>
        if (if h.recheck then !restageOk s p h else stagedPoison s p h h.image.reads) then some ⟨0x0201, 2, []⟩
        else if x.bound.any (· ≠ handle) then st 0x0305
        else if h.image.w ≠ x.w || h.image.h ≠ x.h then st 0x0304
        else if h.image.fingerprints ≠ activePrints s x.regions then st 0x0302
        else if x.activeSlot = some c.slot then st 0x0303
        else
          match (h.image.movers.filter (fun e => e.ctx = ctx)).findSome? (fun e => entryRefusal s p e 0) with
          | some v => st v
          | none => if 8 ≤ x.loads.length then st 0x000A else none

/-- The Sprout core of region `rg` with an image loaded: local memory, origin word, pc at the entry (R366, R379). (DEDUCED: log entry 36.) -/
def loadedCore (img : List Byte) (entry : W32) (origin : Nat) : Sprout :=
  { Sprout.init with run := .running, pc := entry, mem := mwrite 0 (mwrite 0 [] 0 img) 0x1FFFC (le 4 origin) }

/-- Logical pod index of partition `x`'s north-west pod. -/
def Part.northWest (x : Part) : Nat := x.podAbs 0

/-- Partition `p` starts to run the image `h` from slot `slot` (R366, R400). (DEDUCED: log entry 36.) -/
def startRun (s : State) (p : Nat) (h : Handle) (slot : Nat) (job : W32) : State :=
  let x := s.pt p
  let bounds := (List.range 4).map (fun i => (i, h.image.bounds.getD i 0))
  let t := s.setPt p { x with audit := Audit.init, run := { Run.init with bounds := bounds, jobId := job } }
  let u := x.regions.foldl (fun t rg => t.setSprout rg { t.sprout rg with run := .forward }) t
  let v := u.setSprout x.leader (loadedCore (windowRead s p (h.offset + h.image.sproutAt.1) h.image.sproutAt.2).1 h.image.sproutEntry x.northWest)
  goTo (traceSprout v p 0 h.image.sproutEntry) p slot

/-- A snapshot copy of partition `p` is in progress (R402). -/
def copying (s : State) (p : Nat) : Bool := s.husk.snap.any (fun x => x.parts.any (fun q => q.part = p && (q.phase = 1 || q.phase = 2)))

/-- Mover-schedule issues of partition `p` that have not completed (R402). -/
def scheduleBusy (s : State) (p : Nat) : Bool := s.eng.lists.any (fun l => l.part = p && l.cmd.isNone)

/-- The schedule of partition `p` stops for PART.ABORT, with its fabric and Sprout state (R321, R369, R402). -/
def stopRun (s : State) (p fn id : Nat) : State :=
  let t := discardFabric (haltLeader (traceStall s p) p) p
  let x := t.pt p
  let bounds := (x.bound.bind (tfind x.handles)).elim x.run.bounds (fun h => (List.range 4).map (fun i => (i, h.image.bounds.getD i 0)))
  t.setPt p { x with
    run := { Run.init with foldCount := x.run.foldCount, bounds := bounds, jobId := x.run.jobId, pausePending := x.run.pausePending }
    abortJob := some { fn := fn, id := id, folds := x.run.foldCount, slot := x.activeSlot.getD 255, fc := x.audit.schedFc } }

/-- An abort ends when no mover-schedule issue is left: flags are cleared and the partition is LOADED (R402). (DEDUCED: log entry 36.) -/
def settleAbort (s : State) (p : Nat) : State :=
  let x := s.pt p
  match x.abortJob with
  | none => s
  | some j =>
    if scheduleBusy s p then s
    else
      let t := x.podList.foldl (fun t k => match tfind t.fab.pods k with
        | some y => t.setPod k { y with flags := [] }
        | none => t) (s.setPt p { x with abortJob := none })
      finishOk (partState t p .loaded 0) j.fn j.id (fields 16 [(0, le 4 j.folds.toNat), (4, le 1 j.slot), (8, le 8 j.fc.toNat)])

end Sys2Proof.Machine
end

