-- ==== Sys2Proof/Machine/SaveOps.lean ====
section
/-! DEFINITION. Saving and resuming a partition (R368, R449–R453). -/

namespace Sys2Proof.Machine

/-- Window offset, relative to a partition's rectangle, of byte `o` of the memory-cell window. -/
def Part.relOff (x : Part) (o : Nat) : Nat := x.podRel (o / 0x100000) * 0x100000 + o % 0x100000
/-- The other way round. -/
def Part.absOff (x : Part) (o : Nat) : Nat := x.podAbs (o / 0x100000) * 0x100000 + o % 0x100000

/-- Byte `o` of the memory-cell window is the partition's. -/
def Part.holdsOff (x : Part) (o : Nat) : Bool := x.regions.contains (regionOfPod (o / 0x100000))

/-- Every word of the partition's memory cells that carries an ECC error is read (R291). -/
def readAllCells (s : State) (p : Nat) : State :=
  (s.fab.cellEcc.filter (fun e => (s.pt p).holdsOff (e.1 * 64))).foldl (fun t e => readCellWord t (cellBase + 64 * e.1)) s

/-- The partition as a copy of it records it (R368, R450): no run for one that is only LOADED. (DESIGN CHOICE: log entry 38.) -/
def savedOf (s : State) (p : Nat) (addr : Option Nat) : Saved :=
  let x := s.pt p
  { addr := addr, state := x.state
    cells := (s.fab.cells.filter (fun c => x.holdsOff c.1)).map (fun c => (x.relOff c.1, c.2))
    poison := (s.fab.cellPoison.filter (fun w => x.holdsOff (w * 64))).map (fun w => x.relOff (w * 64) / 64)
    sprout := if x.state = .loaded then Sprout.init else s.sprout x.leader
    run := if x.state = .loaded then { Run.init with foldCount := x.run.foldCount } else x.run
    audit := x.audit, slots := x.slots, loads := x.loads, images := x.handles, nextHandle := x.nextHandle, bound := x.bound, origin := x.origin, w := x.w, h := x.h }

/-- An engine command of partition `p` that addresses its memory cells is outstanding (R450). -/
def cellWork (s : State) (p : Nat) : Bool :=
  s.eng.jobs.any (fun j => j.member = p && jobTouches s p j) || s.eng.emb.any (fun j => j.part = p)

/-- A save may copy now: the partition is LOADED or paused, no snapshot copy of it comes first, its cells are at rest (R450, R461). -/
def saveReady (s : State) (p : Nat) : Bool :=
  let x := s.pt p
  x.saveJob.isSome && (x.state = .loaded || x.state = .assigned || x.run.paused) && !beforeResume s p && !cellWork s p && !scheduleBusy s p

/-- The Husk engine writes the save area, whose format the manual leaves open (R449, R450). (DESIGN CHOICE: log entry 38.) -/
def writeArea (s : State) (addr n : Nat) : State :=
  let x := openBytes s n
  { x.2 with hbm := hbmPut x.2.hbm addr x.1 clean }

/-- The copy of a save, and what follows it (R450). (DESIGN CHOICE: log entry 38.) -/
def doSave (s0 : State) (p : Nat) : State :=
  let s := readAllCells s0 p
  let x := s.pt p
  match x.saveJob with
  | none => s
  | some j =>
    let v := savedOf s p (some j.addr)
    let bytes := s.takeFree (2 ^ 64)
    let pause := if x.run.paused then bytes.2.takeFree (3001 + 6000 * (x.w * x.h)) else (0, bytes.2)
    let s1 := writeArea pause.2 j.addr (saveSize x.w x.h)
    let y := { s1.pt p with saved := some v, saveJob := none, slots := [], loads := [], shifting := false }
    let s2 := s1.setPt p y
    let s3 :=
      if j.release then
        let t := fenceTo s2 p .closed 6
        beginZeroing (x.regions.foldl (fun t rg => if regionLive t rg then t else clearRegion t rg) (t.setPt p { t.pt p with w := 0, h := 0 })) x.regions
      else s2
    workDone (partState s3 p .saved 0) j.fn j.id ⟨0, 0, fields 16 [(0, le 8 bytes.1), (8, le 4 pause.1), (12, le 4 x.run.foldCount.toNat)]⟩

/-- Image contexts that the slots of a saved partition hold: handles. -/
def Saved.handles (v : Saved) : List Nat := ((v.slots.filter (fun e => e.2.state ≠ .empty)).map (fun e => e.2.handle)).eraseDups

/-- The saved memory cells, in place again (R453). (DESIGN CHOICE: log entry 38.) -/
def restoreCells (s : State) (p : Nat) (v : Saved) : State :=
  let x := s.pt p
  let t := x.regions.foldl zeroCells s
  { t with fab := { t.fab with
      cells := v.cells.foldl (fun m c => mset 0 m (x.absOff c.1) c.2) t.fab.cells
      cellPoison := v.poison.foldl (fun l w => sins l (x.absOff (w * 64) / 64)) t.fab.cellPoison } }

/-- Every slot that was COMMITTED is sown again: the records sown, and the state (R453). (DESIGN CHOICE: log entry 38.) -/
def resow (s : State) (p : Nat) (v : Saved) : Nat × State :=
  (v.slots.filter (fun e => e.2.state = .committed)).foldl
    (fun (acc : Nat × State) e =>
      match tfind (acc.2.pt p).handles e.2.handle with
      | none => acc
      | some h =>
        let recs := ((h.image.ctxs[e.2.ctx]?).map (fun c => c.records)).getD []
        let r := shiftRecords acc.2 p h recs [] []
        match r.bad with
        | some k => (acc.1 + r.shifted, configCrc r.state p e.1 e.2.handle k)
        | none => (acc.1 + r.shifted, setSlot (sowSlot r.state p e.1 r.cfgs) p e.1 e.2))
    (0, s)

/-- A resume on the regions that the partition holds now (R453); one that a restore left SAVED has its memory cells and slots already (R747). (DESIGN CHOICE: log entry 38.) -/
def doResume (s : State) (p fn id : Nat) (job : W32) : State :=
  let x := s.pt p
  match x.saved with
  | none => s
  | some v =>
    let s1 := fenceOpen (s.setPt p { x with saved := none, resumeJob := none, audit := v.audit }) p
    let r := if v.addr.isNone then (0, s1) else resow (restoreCells s1 p v) p v
    let y := r.2.pt p
    let queued := v.loads.foldl (fun t l => tset t l.slot { Slot.init with state := .queued }) y.slots
    let ran := v.state = .running || v.state = .stalled
    let s2 := r.2.setPt p { y with slots := queued, loads := v.loads, run := { v.run with paused := false, pausePending := false, jobId := job } }
    let core := { v.sprout with mem := mwrite 0 v.sprout.mem 0x1FFFC (le 4 y.northWest) }
    let s3 := if ran then y.regions.foldl (fun t rg => t.setSprout rg { t.sprout rg with run := .forward }) s2 else s2
    let s4 := if ran then traceSprout (s3.setSprout y.leader core) p 2 core.pc else s3
    let s5 := if ran then goTo s4 p (v.run.target.getD 0) else partState s4 p v.state 0
    workDone s5 fn id ⟨0, 0, fields 8 [(0, le 1 x.origin), (4, le 4 r.1)]⟩

end Sys2Proof.Machine
end

