-- ==== Sys2Proof/Machine/HuskDrain.lean ====
section
/-! DEFINITION. A snapshot from its flips to its last drain segment (R664–R690, R725). -/

namespace Sys2Proof.Machine

/-- First byte of the snapshot area (R669). -/
def areaBase (s : State) : Nat := (s.husk.cfg.map (fun c => c.areaFirst * 0x10000000)).getD 0
/-- Offset in it of partition `p`'s state block. -/
def stateOffset (p : Nat) : Nat := 0x28000000 + p * 0x40000

/-- A unit is drained whole (R666). -/
def drainsWhole (s : State) (full : Bool) (u : Nat) : Bool :=
  full || s.husk.needWhole.contains u || (deltasOf (s.vol 0) u).all (fun n => 16 ≤ n)

/-- The partition whose windows held unit `u` at the flip. -/
def scopeOwner (e : Epoch) (u : Nat) : Nat :=
  ((e.parts.find? (fun x => x.windows.any (fun w => w.1 ≤ u && u < w.1 + w.2))).map (fun x => x.part)).getD 16

/-- Applies `f` to the snapshot. -/
def modSnap (s : State) (f : Snap → Snap) : State := { s with husk := { s.husk with snap := s.husk.snap.map f } }
def setPhase (s : State) (p n : Nat) : State :=
  modSnap s (fun x => { x with parts := x.parts.map (fun q => if q.part = p then { q with phase := n } else q) })

/-- Granules that the epoch drains, cell images included (R701), and what is drained from the snapshot area in the order of R687. -/
def granuleTotal (s : State) (e : Epoch) : Nat :=
  (s.husk.frozenMarks.filter (fun g => !e.wholeUnits.contains (g / 4096))).length + 4096 * e.wholeUnits.length
    + 640 * ((e.parts.map (fun x => x.w * x.h)).foldl (· + ·) 0)
def areaQueue (e : Epoch) : List (Nat × Nat) :=
  let pods := (List.range 640).filterMap (fun k => (e.parts.find? (fun x => (rectRegions x.origin x.w x.h).contains (regionOfPod k))).map (fun x => (x.part, k)))
  let ps := (List.range 16).filter (fun p => e.parts.any (fun x => x.part = p))
  pods.flatMap (fun x => (List.range 16).map (fun i => (x.1, x.2 * 0x100000 + i * 0x10000)))
    ++ ps.flatMap (fun p => (List.range 4).map (fun i => (p, stateOffset p + i * 0x10000)))

/-- The buddy has failed for the epoch (R728). -/
def buddyFails (s : State) (status : Nat) : State :=
  match s.husk.snap with
  | none => s
  | some x =>
    if x.buddy = 0 || 4 ≤ x.buddy then s
    else
      let t := modSnap s (fun x => { x with buddy := 5, buddyStatus := status })
      let u := { t with link := { t.link with xfers := t.link.xfers.filter (fun x => match x.use with | .buddy 0 _ => false | _ => true) } }
      writerOn 6 (judge u 0) 0

/-- BUDDY_OPEN (R726). -/
def buddyOpen (s : State) (e : Epoch) (n : Nat) : State :=
  match s.husk.cfg.bind (fun c => c.buddy) with
  | none => s
  | some b =>
    let t := modSnap s (fun x => { x with buddy := 1 })
    if (routePort s b 0).isNone then buddyFails t 0x0A0E
    else sendMgmt t b 255 255 0x0081 (le 8 (s.vol 0).id.toNat ++ le 8 e.number ++ le 4 n)

/-- Every participant has flipped: the epoch is FROZEN, and its writing begins (R680, R717). -/
def freeze (s : State) : State :=
  match s.husk.current, s.husk.snap with
  | some e, some x =>
    if e.state ≠ .open || x.parts.any (fun q => q.phase < 2) then s
    else
      let n := granuleTotal s e
      let t := setEpochState (modSnap s (fun x => { x with total := n, images := areaQueue e })) .frozen 0
      let u := beginWriter t 0 e.number (s.husk.cfg.any (fun c => c.parity)) x.jobId
      writerOn 6 (judge (buddyOpen u e (n + 4 * e.parts.length)) 0) 0
  | _, _ => s

/-- Participant `p` flips (R664, R666, R677). (DEDUCED: log entry 55.) -/
def flip (s : State) (p : Nat) : State :=
  match s.husk.current, s.husk.snap with
  | some e, some x =>
    let y := s.pt p
    let us := y.units
    let whole := us.filter (drainsWhole s x.full)
    let mine (g : Nat) : Bool := us.contains (g / 4096)
    let entry : PartEntry := { part := p, origin := y.origin, w := y.w, h := y.h, state := y.state, folds := y.audit.folds, windows := y.windows }
    let t := { s with husk := { s.husk with
      current := some { e with units := us.foldl sins e.units, wholeUnits := whole.foldl sins e.wholeUnits, base := e.base || !whole.isEmpty
                               parts := e.parts ++ [entry] }
      frozenMarks := (s.husk.openMarks.filter mine).foldl sins s.husk.frozenMarks, openMarks := s.husk.openMarks.filter (fun g => !mine g)
      snap := some { x with wholeDue := x.wholeDue ++ us.filter s.husk.needWhole.contains }
      needWhole := s.husk.needWhole.filter (fun u => !us.contains u) } }
    freeze (traceHusk (setPhase t p 2) p 1 255 e.number)
  | _, _ => s

/-- The copy of participant `p` into the snapshot area: its memory cells with their poison, and its state block (R669, R677). -/
def snapCopy (s0 : State) (p : Nat) : State :=
  let s := readAllCells s0 p
  let x := s.pt p
  let a := areaBase s
  let m := x.podList.foldl (fun m k => mclear m (a + k * 0x100000) 0x100000) s.hbm.mem
  let inPods (w : Nat) : Bool := a ≤ w * 64 && w * 64 < a + 0x28000000 && x.holdsOff (w * 64 - a)
  let h := { s.hbm with
    mem := (s.fab.cells.filter (fun c => x.holdsOff c.1)).foldl (fun m c => mset 0 m (a + c.1) c.2) m
    poison := (s.fab.cellPoison.filter (fun w => x.holdsOff (w * 64))).foldl (fun l w => sins l (a / 64 + w)) (s.hbm.poison.filter (fun w => !inPods w))
    ecc := s.hbm.ecc.filter (fun e => !inPods e.1) }
  let b := openBytes { s with hbm := h } 0x40000
  { b.2 with
    hbm := hbmPut b.2.hbm (a + stateOffset p) b.1 clean
    husk := { b.2.husk with current := b.2.husk.current.map (fun e => { e with states := tset e.states p (savedOf s p none) }) } }

/-- A participant's pause ends (R677, R703). -/
def pauseEnd (s : State) (p : Nat) : State :=
  match s.husk.current, s.husk.snap.bind (fun x => x.parts.find? (fun q => q.part = p)) with
  | some e, some q =>
    let ns := sat 0xFFFFFFFF (s.time - q.pausedAt).toNat
    let t := endPause (traceHusk (setPhase (snapCopy s p) p 3) p 2 255 e.number) p
    let u := { modSnap t (fun x => { x with pauseMax := max x.pauseMax ns }) with
               husk := { (modSnap t (fun x => { x with pauseMax := max x.pauseMax ns })).husk with
                         lastPause := BitVec.ofNat 32 (max ((s.husk.snap.map (fun x => x.pauseMax)).getD 0) ns) } }
    eventPart u p 0x0A02 (fields 20 [(0, le 8 e.number), (8, le 1 p), (12, le 4 ns), (16, le 4 (s.pt p).audit.folds.toNat)])
  | _, _ => s

/-- What the drain takes next (R687): kind, partition, address in the descriptor, source address, and the reserve entry it comes from. -/
structure DrainItem where
  kind : Nat
  part : Nat
  address : Nat
  src : Nat
  entry : Option Nat
deriving DecidableEq, Repr

/-- The oldest copy that is not drained yet. -/
def oldestCopy (s : State) : Option Reserve :=
  (s.husk.reserve.filter (fun r => r.copied && r.seq.isNone)).foldl
    (fun o r => match o with | some q => if r.order < q.order then some r else o | none => some r) none

/-- The lowest granule of the epoch that is neither drained nor copied, nor being copied. (DEDUCED: log entry 56.) -/
def nextGranule (s : State) (e : Epoch) : Option Nat :=
  let left (g : Nat) : Bool := !s.husk.settled.contains g && !s.husk.reserve.any (fun r => r.granule = g)
  let a := s.husk.frozenMarks.find? (fun g => !e.wholeUnits.contains (g / 4096) && left g)
  let b := e.wholeUnits.findSome? (fun u => (span (u * 4096) 4096).find? left)
  match a, b with
  | some x, some y => some (min x y)
  | some x, none => some x
  | none, y => y

def drainItem (s : State) (e : Epoch) (x : Snap) : Option DrainItem :=
  match oldestCopy s with
  | some r =>
    some { kind := 1, part := scopeOwner e (r.granule / 4096), address := r.granule * 0x10000
           src := (s.husk.cfg.map (fun c => c.reserveFirst)).getD 0 * 0x10000000 + r.entry * 0x10000, entry := some r.entry }
  | none =>
    match nextGranule s e with
    | some g => some { kind := 1, part := scopeOwner e (g / 4096), address := g * 0x10000, src := g * 0x10000, entry := none }
    | none =>
      if s.husk.reserve.any (fun r => r.seq.isNone) || x.parts.any (fun q => q.phase < 3) then none
      else x.images.head?.map (fun i => { kind := if i.2 < 0x28000000 then 2 else 3, part := i.1, address := i.2, src := areaBase s + i.2, entry := none })

/-- POISON of a record (R712): a bit for each 4 KiB that holds a poisoned word. -/
def poisonBits (src : Nat) (bad : List Nat) : Nat := maskOf ((bad.map (fun w => (w - src) / 4096)).eraseDups)

/-- The most bytes of a millisecond under a rate in MB/s (R689): 0 is the 224 GB/s of the ports. -/
def rateLimit (mbps : Nat) : Nat := (if mbps = 0 then 224000 else mbps) * 1000

/-- A data record of the epoch goes to the buddy (R725). (DEDUCED: log entry 56.) -/
def streamRecord (s : State) (r : LogRec) (off : Nat) (data : List Byte) : State :=
  match s.husk.snap, s.husk.cfg.bind (fun c => c.buddy) with
  | some x, some b =>
    if x.buddy ≠ 2 then s
    else
      match sendXfer s (.buddy 0 off) b 255 255 2 off 3 ((s.vol 0).id.toNat % 2 ^ 32) (r.bytes ++ data) [] with
      | none => buddyFails s 0x0A0E
      | some t => modSnap t.2 (fun x => { x with streamed := x.streamed + 1 })
  | _, _ => s

/-- Streaming is over: the COMMIT content follows the data records, and BUDDY_COMMIT once every transaction has been answered (R725, R726). -/
def streamEnd (s : State) : State :=
  match s.husk.current, tfind s.husk.writers 0 with
  | some e, some w =>
    let b := commitBytes false (commitOf s 0 w e false false)
    streamRecord s { epoch := e.number, kind := 6, whole := false, poison := 0, partition := 255, seq := 0, address := 0, crc := crc32c b, member := 0 } 0 b
  | _, _ => s

/-- BUDDY_COMMIT, when every record has been sent and answered (R726, R728). -/
def buddyCommit (s : State) : State :=
  match s.husk.snap, s.husk.current, s.husk.cfg.bind (fun c => c.buddy), tfind s.husk.writers 0 with
  | some x, some e, some b, some w =>
    if x.buddy = 2 && w.ended && !(s.link.xfers.any (fun x => match x.use with | .buddy 0 _ => true | _ => false)) then
      sendMgmt (modSnap s (fun x => { x with buddy := 3 })) b 255 255 0x0082 (le 8 (s.vol 0).id.toNat ++ le 8 e.number ++ le 4 x.streamed)
    else s
  | _, _, _, _ => s

/-- The drain may issue a segment now: the superblocks are written, the buddy listens, the rate allows it (R689, R690, R717). (DEDUCED: log entry 56.) -/
def drainReady (s : State) (x : Snap) (w : Writer) : Bool :=
  let ms := s.time.toNat / 1000000
  let spent := if x.rateAt = ms then x.rateBytes else 0
  w.stage = 1 && !w.ended && x.buddy ≠ 1 && (commandsOf s).length < 2048
    && spent + 65536 ≤ rateLimit ((s.husk.cfg.map (fun c => c.rateMax)).getD 0)

/-- The next drain segment (R687, R688). (DEDUCED: log entry 56.) -/
def drainSegment (s : State) : State :=
  match s.husk.current, s.husk.snap, tfind s.husk.writers 0 with
  | some e, some x, some w =>
    if !(e.state = .frozen || e.state = .draining) || !drainReady s x w then s
    else
      match drainItem s e x with
      | none => s
      | some i =>
        let ms := s.time.toNat / 1000000
        let s1 := if e.state = .frozen then modSnap (setEpochState s .draining 0) (fun x => { x with startTime := s.time }) else s
        let r := engineRead s1 i.src 0x10000
        let rec_ : LogRec := { epoch := e.number, kind := i.kind, whole := i.kind = 1 && e.wholeUnits.contains (i.address / 0x10000000), poison := poisonBits i.src r.2.1
                               partition := i.part, seq := w.next, address := i.address, crc := crc32c r.1, member := 0 }
        let g := i.address / 0x10000
        let s2 := modSnap r.2.2 (fun x => { x with
          rateAt := ms, rateBytes := (if x.rateAt = ms then x.rateBytes else 0) + 65536, drained := x.drained + b2n (i.kind ≠ 3)
          images := if i.kind = 1 then x.images else x.images.drop 1 })
        let s3 := { s2 with husk := { s2.husk with
          settled := if i.kind = 1 then sins s2.husk.settled g else s2.husk.settled
          reserve := s2.husk.reserve.map (fun y => if i.entry = some y.entry then { y with seq := some w.next } else y) } }
        let s4 := if i.kind = 1 && i.entry.isNone then applyHeld s3 (fun h => h.granule = g) else s3
        match writeData s4 0 rec_ r.1 i.part with
        | none => volumeFull s4 0
        | some t =>
          let lost := (tfind t.husk.writers 0).any (fun y => y.lost.contains (w.dataMembers.getD (w.next % w.d) 0))
          let u := streamRecord (if lost then entryWritten t w.next else t) rec_ w.next r.1
          let last := (u.husk.snap.any (fun x => x.images.isEmpty)) && i.kind ≠ 1
          let v := if last then streamEnd (modWriter u 0 (fun w => { w with ended := true })) else u
          writerOn 6 (judge v 0) 0
  | _, _, _ => s

end Sys2Proof.Machine
end

