-- ==== Sys2Proof/Machine/HuskRead.lean ====
section
/-! DEFINITION. Reading epochs back: the plan, rebuilding from parity, a restore and the fetches served to other modules (R729, R738–R750). -/

namespace Sys2Proof

/-- What the 262,144 bytes of a state block say, whose contents belong to the device (R669): used where the model does not hold the state that
they came from. (DESIGN CHOICE: log entry 9; DEDUCED: log entry 57.) -/
opaque Config.stateBlock : List Byte → Option Machine.Saved

end Sys2Proof

namespace Sys2Proof.Machine

/-- Units that an epoch's partitions of a mask held (R715). -/
def maskUnits (e : Epoch) (mask : Nat) : List Nat :=
  (e.parts.filter (fun x => bitOf mask x.part)).flatMap (fun x => x.windows.flatMap (fun w => span w.1 w.2))

/-- Epochs that restoring partitions of a mask to epoch `e` needs: those of the units' chains, and itself (R729, R739). -/
def chainEpochs (v : Volume) (e : Epoch) (mask : Nat) : List Epoch :=
  let ns := (e.number :: (maskUnits e mask).flatMap (fun u => (chainOf v u e.number).map (fun x => x.number))).eraseDups
  v.epochs.filter (fun x => ns.contains x.number)

/-- An epoch's own records can be read or rebuilt (R739). -/
def readable (s : State) (v : Volume) (e : Epoch) : Bool :=
  let gone := (e.live.filter (fun m => !memberHere s (v.member m))).length
  !e.localDegraded && (gone = 0 || (gone = 1 && e.parity))

/-- What a restore or a fetch asks for. -/
structure EpochWish where
  mask : Nat
  epoch : Nat
  key : Nat
  system : Bool
deriving DecidableEq, Repr

/-- An epoch qualifies (R739). -/
def qualifies (s : State) (k : Nat) (q : EpochWish) (e : Epoch) : Bool :=
  e.state = .committed && e.partMask &&& q.mask = q.mask && (q.epoch = 0 || e.number = q.epoch) && (q.key = 0 || e.snapKey.toNat = q.key)
    && (!q.system || q.key ≠ 0 || e.system) && (chainEpochs (s.vol k) e q.mask).all (readable s (s.vol k))

/-- The newest epoch of volume `k` that qualifies. -/
def chosenEpoch (s : State) (k : Nat) (q : EpochWish) : Option Epoch := ((s.vol k).epochs.filter (qualifies s k q)).getLast?

/-- The plan (R743): for each granule the record of the newest epoch of its unit's chain that holds it, in ascending address, then the epoch's
cell and state records of the partitions. -/
def planOf (v : Volume) (e : Epoch) (mask : Nat) : List PlanItem :=
  let hbm := (maskUnits e mask).flatMap (fun u =>
    ((chainOf v u e.number).reverse.foldl
      (fun (t : Tab PlanItem) x => (x.recs.filter (fun r => r.kind = 1 && r.address / 0x10000000 = u)).foldl
        (fun t r => tset t (r.address / 0x10000) { epoch := x.number, item := r }) t) []).map (fun i => i.2))
  hbm ++ (e.recs.filter (fun r => (r.kind = 2 || r.kind = 3) && bitOf mask r.partition)).map (fun r => { epoch := e.number, item := r })

/-- Where a member holds a record: the copy in the segment with the highest SEG_SEQ (R734). -/
def recordPlace (x : Member) (r : LogRec) : Option Nat :=
  let same (y : LogRec) : Bool := y.epoch = r.epoch && y.kind = r.kind && y.seq = r.seq
  let l := x.inUse.flatMap (fun g => g.extents.filterMap (fun e =>
    (e.recs.findIdx? same).map (fun i => (g.seq, segmentAt g.index + e.at_ + 0x1000 + i * 0x10000))))
  (l.foldl (fun (o : Option (Nat × Nat)) a => match o with | some b => if b.1 < a.1 then some a else o | none => some a) none).map (fun a => a.2)

/-- A new reader of volume `k`. -/
def reader0 (k : Nat) (e : Epoch) (plan : List PlanItem) (used : List Nat) : Reader :=
  { volume := k, epoch := e.number, plan := plan, pos := 0, used := used, rebuilding := false, awaited := 0, acc := [], broken := false, parityUsed := false
    records := 0, bytes := 0, poisoned := 0 }
def modReader (s : State) (i : Nat) (f : Reader → Reader) : State :=
  match tfind s.husk.readers i with
  | none => s
  | some d => { s with husk := { s.husk with readers := tset s.husk.readers i (f d) } }

/-- A Read of one record for reader `i` is queued; none where its member cannot be read. (DEDUCED: log entry 57.) -/
def readRecord (s : State) (i : Nat) (d : Reader) (r : LogRec) (place : Nat) : Option State :=
  let x := (s.vol d.volume).member r.member
  match recordPlace x r, portOf s x.serial with
  | some off, some n =>
    if !memberHere s x then none
    else submit s n (huskCmd nvmRead x.nsid off 0x10000 (freeBuffer s 1) false (.read i d.pos place) 16 ((s.husk.restore.map (fun r => r.jobId)).getD 0))
  | _, _ => none

/-- The other records of a data record's row, its parity record among them (R719, R744). -/
def rowOthers (e : Epoch) (r : LogRec) : List LogRec :=
  if e.d = 0 then [] else
  e.recs.filter (fun x => (x.kind ≤ 3 && x.seq / e.d = r.seq / e.d && x.seq ≠ r.seq) || (x.kind = 4 && x.seq = r.seq / e.d))

/-- The planned record is to be rebuilt from its row: the reads are queued (R744); none where it cannot be. (DEDUCED: log entry 57.) -/
def beginRebuild (s : State) (i : Nat) (d : Reader) (p : PlanItem) : Option State :=
  match (s.vol d.volume).epochs.find? (fun e => e.number = p.epoch) with
  | none => none
  | some e =>
    let l := rowOthers e p.item
    if !e.parity || !l.any (fun r => r.kind = 4) then none
    else
      let t := modReader s i (fun d => { d with rebuilding := true, awaited := l.length, acc := [], broken := false })
      (List.range l.length).foldl
        (fun o j => o.bind (fun u => (l[j]?).bind (fun r => readRecord u i d r (j + 1)))) (some t)

/-- The poison that a record's POISON marks, over an address range of 64 KiB (R745). -/
def poisonOf (bits : Nat) (o n : Nat) : Bool := (span (o / 4096) ((o + n - 1) / 4096 + 1 - o / 4096)).any (bitOf bits)

/-- A record is written in its place: its granule in HBM, or its place in the snapshot area (R743, R745, R686). -/
def placeRead (s : State) (r : LogRec) (data : List Byte) (poison : Nat) : State :=
  let a := if r.kind = 1 then r.address else areaBase s + r.address
  let t := { s with hbm := hbmPut s.hbm a data (poisonOf poison) }
  if r.kind = 1 then { t with husk := { t.husk with needWhole := sins t.husk.needWhole (unitOf r.address) } } else t

/-- A record of the restore is lost (R745): with ALLOW_POISON its granule is written poisoned, else the restore ends. (DEDUCED: log entry 57.) -/
def restoreLost (s : State) (r : LogRec) : State :=
  match s.husk.restore with
  | none => s
  | some x =>
    if !x.allowPoison then endRestore s 0x0A0C
    else
      let t := placeRead s r (devBytes s (if r.kind = 1 then r.address else areaBase s + r.address) 0x10000) 0xFFFF
      let u := modReader t 0 (fun d => { d with poisoned := d.poisoned + 1, records := d.records + 1 })
      if r.kind = 3 then { u with husk := { u.husk with restore := u.husk.restore.map (fun x => { x with lostState := sins x.lostState r.partition }) } } else u

/-- BUDDY_FETCH_DONE ends the fetch served from guest volume `k` (R726). (DEDUCED: log entry 57.) -/
def fetchDone (s : State) (k dst : Nat) (volume epoch sent status : Nat) : State :=
  let t := dropReads { s with husk := { s.husk with readers := tdel s.husk.readers k, fetches := tdel s.husk.fetches k } } k
  sendMgmt t dst 255 255 0x0085 (le 8 volume ++ le 8 epoch ++ le 4 sent ++ le 2 status)

/-- A record streams to the module that fetches from guest volume `k` (R725, R743). -/
def fetchSend (s : State) (k : Nat) (r : LogRec) (off : Nat) (data : List Byte) : State :=
  match tfind s.husk.fetches k, tfind s.husk.readers k with
  | some f, some d =>
    let v := s.vol k
    match sendXfer s (.buddy k off) f.dst 255 255 2 off 3 (v.sourceVolume.toNat % 2 ^ 32) (r.bytes ++ data) [] with
    | none => fetchDone s k f.dst v.sourceVolume.toNat d.epoch f.sent 0x0803
    | some t => { t.2 with husk := { t.2.husk with fetches := tset t.2.husk.fetches k { f with sent := f.sent + 1 } } }
  | _, _ => s

/-- The planned record of reader `i` is in hand, or lost. (DEDUCED: log entry 57.) -/
def itemDone (s : State) (i : Nat) (p : PlanItem) (data : Option (List Byte)) (rebuilt : Bool) : State :=
  let t := modReader s i (fun d => { d with pos := d.pos + 1, rebuilding := false, acc := [], parityUsed := d.parityUsed || rebuilt
                                            bytes := d.bytes + b2n data.isSome * 0x10000 })
  match data with
  | some b =>
    if i = 0 then placeRead (modReader t 0 (fun d => { d with records := d.records + 1 })) p.item b p.item.poison
    else fetchSend t i p.item p.item.seq b
  | none =>
    if i = 0 then restoreLost t p.item
    else match tfind t.husk.fetches i, tfind t.husk.readers i with
      | some f, some d => fetchDone t i f.dst (t.vol i).sourceVolume.toNat d.epoch f.sent 0x0A0C
      | _, _ => t

/-- The partition's cell images go from the snapshot area into the memory cells of its present regions, by rectangle-relative position (R743). -/
def cellsBack (s : State) (e : Epoch) (p : Nat) : State :=
  match e.parts.find? (fun x => x.part = p) with
  | none => s
  | some x =>
    let old := { Part.init with origin := x.origin, w := x.w, h := x.h }
    let y := s.pt p
    let a := areaBase s
    let dest (o : Nat) : Nat := y.absOff (old.relOff o)
    let t := y.regions.foldl zeroCells s
    { t with fab := { t.fab with
        cells := (s.hbm.mem.filter (fun c => a ≤ c.1 && c.1 < a + 0x28000000 && old.holdsOff (c.1 - a))).foldl (fun m c => mset 0 m (dest (c.1 - a)) c.2) t.fab.cells
        cellPoison := (s.hbm.poison.filter (fun w => a ≤ w * 64 && w * 64 < a + 0x28000000 && old.holdsOff (w * 64 - a))).foldl
          (fun l w => sins l (dest (w * 64 - a) / 64)) t.fab.cellPoison } }

/-- What partition `p`'s state records say: as the epoch holds it, or as the device's own format spells it (R669, R743). (DEDUCED: log entry 57.) -/
def restoredState (s : State) (r : Restore) (e : Epoch) (p : Nat) : Option Saved :=
  match r.lostState.contains p, tfind e.states p with
  | false, some v => some v
  | _, _ => Config.stateBlock (devBytes s (areaBase s + stateOffset p) 0x40000)

/-- Images, slots, Sprout and sequencing state and audit counters of partition `p` (R743, R746): false when the fingerprint check fails. -/
def installState (s : State) (p : Nat) (v0 : Saved) (state : PartState) : Bool × State :=
  let x := s.pt p
  let v := { v0 with addr := none, state := state, cells := [], poison := [] }
  let s1 := s.setPt p { x with handles := v.images, nextHandle := v.nextHandle, bound := none }
  let hs := v.images.map (fun h => (h.1, { h.2 with recheck := !restageOk s1 p h.2 }))
  let s2 := s1.setPt p { s1.pt p with handles := hs }
  let act := activePrints s2 x.regions
  if v.handles.any (fun h => (tfind hs h).any (fun y => y.image.fingerprints ≠ act)) then (false, s2)
  else
    let r := resow s2 p v
    (true, partState (r.2.setPt p { r.2.pt p with saved := some v, bound := v.bound, audit := v.audit }) p .saved 0)

/-- The last steps of a restore (R743, R746). (DEDUCED: log entry 57.) -/
def restoreFinish (s : State) : State :=
  match s.husk.restore with
  | none => s
  | some r =>
    match r.epoch with
    | none => s
    | some e =>
      let ps := bitsSet r.mask 16
      let t := ps.foldl (fun t p => cellsBack t e p) s
      let out := ps.foldl
        (fun (acc : Bool × State) p =>
          let st := ((e.parts.find? (fun x => x.part = p)).map (fun x => x.state)).getD .assigned
          match restoredState acc.2 r e p with
          | none => (false, acc.2)
          | some v => let u := installState acc.2 p v st; (acc.1 && u.1, u.2)) (true, t)
      endRestore out.2 (if out.1 then 0 else 0x0302)

/-- A fetch served from guest volume `k` is over once every record has been sent and answered (R726). -/
def fetchEnd (s : State) (k : Nat) : State :=
  match tfind s.husk.fetches k, tfind s.husk.readers k with
  | some f, some d =>
    if d.pos < d.plan.length || s.link.xfers.any (fun x => match x.use with | .buddy v _ => v = k | _ => false) then s
    else fetchDone s k f.dst (s.vol k).sourceVolume.toNat d.epoch f.sent 0
  | _, _ => s

/-- Reader `i` takes the next planned record, or is at its end. At most `n` records that cannot be read are passed. -/
def readerOn (n : Nat) (s : State) (i : Nat) : State :=
  match n with
  | 0 => s
  | n + 1 =>
    match tfind s.husk.readers i with
    | none => s
    | some d =>
      match d.plan[d.pos]? with
      | none =>
        if i = 0 then restoreFinish s
        else fetchEnd s i
      | some p =>
        match readRecord s i d p.item 0 with
        | some t => t
        | none =>
          match beginRebuild s i d p with
          | some t => t
          | none => readerOn n (itemDone s i p none false) i

/-- Reads of the reader's plan that may still have to be passed over. -/
def readerFuel (s : State) (i : Nat) : Nat := ((tfind s.husk.readers i).map (fun d => d.plan.length + 1)).getD 0

/-- A Read of reader `i` has ended: `data` is what it brought, none where it failed (R744). -/
def readDone (s : State) (i pos place : Nat) (data : Option (List Byte)) : State :=
  match tfind s.husk.readers i with
  | none => s
  | some d =>
    match (if d.pos = pos then d.plan[pos]? else none) with
    | none => s
    | some p =>
      let on (t : State) : State := readerOn (readerFuel t i) t i
      if place = 0 && !d.rebuilding then
        match data.filter (fun b => crc32c b = p.item.crc) with
        | some b => on (itemDone s i p (some b) false)
        | none =>
          match beginRebuild s i d p with
          | some t => t
          | none => on (itemDone s i p none false)
      else
        let e := (s.vol d.volume).epochs.find? (fun e => e.number = p.epoch)
        let own := e.bind (fun e => (rowOthers e p.item)[place - 1]?)
        let good := data.filter (fun b => own.any (fun r => r.crc = crc32c b))
        let t := modReader s i (fun d => { d with
          awaited := d.awaited - 1, broken := d.broken || good.isNone, bytes := d.bytes + b2n good.isSome * 0x10000
          acc := match good with | some b => xorBytes d.acc b | none => d.acc })
        match tfind t.husk.readers i with
        | none => t
        | some y =>
          if y.awaited ≠ 0 then t
          else on (itemDone t i p (if y.broken || crc32c y.acc ≠ p.item.crc then none else some y.acc) true)

/-- A restore and a commit-record entry differ in shape or windows (R740). -/
def layoutDiffers (s : State) (e : Epoch) (mask : Nat) : Bool :=
  (bitsSet mask 16).any (fun p =>
    let y := s.pt p
    !(e.parts.any (fun x => x.part = p && x.w = y.w && x.h = y.h && x.windows = y.windows)))

/-- Longest chain walked, in deltas (R743). -/
def deltaDepth (e : Epoch) (mask : Nat) : Nat := ((maskUnits e mask).map (fun u => tget 0 e.deltas u)).foldl max 0

/-- A restore that has its epoch begins: channels of its partitions close (R495, R743). -/
def restoreBegin (s : State) (e : Epoch) (d : Reader) : State :=
  match s.husk.restore with
  | none => s
  | some r =>
    let t := (bitsSet r.mask 16).foldl (fun t p => loseWhere t (Endpoint.ofPart p) 2) s
    { t with husk := { t.husk with restore := some { r with epoch := some e, deltas := deltaDepth e r.mask }, readers := tset t.husk.readers 0 d } }

end Sys2Proof.Machine
end

