-- ==== Sys2Proof/Machine/HuskJobs.lean ====
section
/-! DEFINITION. Compaction, formats and mounts of volumes (R709, R733–R737). -/

namespace Sys2Proof.Machine

/-- Applies `f` to the compaction. -/
def modCompact (s : State) (f : Compact → Compact) : State := { s with husk := { s.husk with compact := s.husk.compact.map f } }

/-- The compaction has commands queued or outstanding. -/
def compacting (s : State) : Bool := (commandsOf s).any (fun c => match c.use with | .moveRead _ _ => true | .moveWrite _ => true | _ => false)

/-- HUSK.COMPACT ends with a status. (DEDUCED: log entry 58.) -/
def compactEnd (s : State) (status : Nat) : State :=
  match s.husk.compact with
  | none => s
  | some c => workDone { s with husk := { s.husk with compact := none } } c.fn c.cmdId ⟨status, 0, le 4 c.freed ++ le 4 c.relocated⟩

/-- A write of the compaction to a member; without a drive that takes it the compaction ends. -/
def moveWrite (k : Nat) (m : Nat) (s : State) (off : Nat) (data : List Byte) : State :=
  (writeMember s k m off data true (.moveWrite m) 16 0).getD (compactEnd s 0x0905)

/-- The extent under way, with its segment (R733). -/
def moveExtent (s : State) (c : Compact) : Option (Nat × Segment × Option Extent) :=
  match c.left with
  | [] => none
  | (m, q) :: _ => (((s.vol c.volume).member m).inUse.find? (fun g => g.seq = q)).map (fun g => (m, g, g.extents[c.ext]?))

/-- A Read of one record of the extent is queued. -/
def moveReads (s : State) (k m : Nat) (g : Segment) (x : Extent) : Option State :=
  let y := (s.vol k).member m
  match portOf s y.serial with
  | none => none
  | some n =>
    (List.range x.recs.length).foldl
      (fun o i => o.bind (fun t => submit t n
        (huskCmd nvmRead y.nsid (segmentAt g.index + x.at_ + 0x1000 + i * 0x10000) 0x10000 (freeBuffer t 1) false (.moveRead m i) 16 0))) (some s)

/-- Extents may move now: no epoch is FROZEN or DRAINING, and no fetch is served from the volume (R733, R753). -/
def mayMove (s : State) (c : Compact) : Bool :=
  !(s.husk.current.any (fun e => e.state = .frozen || e.state = .draining)) && (tfind s.husk.readers c.volume).isNone

/-- The compaction goes on as far as it can (R733). (DEDUCED: log entry 58.) -/
def compactOn (n : Nat) (s : State) : State :=
  match n with
  | 0 => s
  | n + 1 =>
    match s.husk.compact with
    | none => s
    | some c =>
      let k := c.volume
      if compacting s then s
      else if c.stage = 1 then
        match c.left with
        | [] => s
        | (m, _) :: _ => compactOn n (closeExtent (modCompact s (fun c => { c with stage := 2 })) k m (fun t o b => moveWrite k m t o b))
      else if c.stage = 2 then compactOn n (modCompact s (fun c => { c with stage := 0, ext := c.ext + 1 }))
      else if c.stage = 3 then
        match moveExtent s c with
        | none => s
        | some (m, g, _) =>
          let t := modMember s k m (fun y => { y with inUse := y.inUse.filter (fun h => h.index ≠ g.index) })
          compactOn n (moveWrite k m (modCompact t (fun c => { c with stage := 0, ext := 0, left := c.left.drop 1, freed := c.freed + 1 }))
            (segmentAt g.index) (segmentBytes (s.vol k) m g true))
      else if c.left.isEmpty then compactEnd s 0
      else if !mayMove s c then s
      else
        match moveExtent s c with
        | none => compactOn n (modCompact s (fun c => { c with left := c.left.drop 1, ext := 0 }))
        | some (m, g, none) =>
          let y := (s.vol k).member m
          match (portOf s y.serial).bind (fun p => submit s p (huskCmd nvmFlush y.nsid 0 0 0 false (.moveWrite m) 16 0)) with
          | none => compactEnd s 0x0905
          | some t => modCompact t (fun c => { c with stage := 3 })
        | some (m, g, some x) =>
          if !x.recs.any (fun r => (neededEpochs s k).contains r.epoch) then compactOn n (modCompact s (fun c => { c with ext := c.ext + 1 }))
          else
            match moveReads s k m g x with
            | none => compactEnd s 0x0905
            | some t => modCompact t (fun c => { c with stage := 1 })

/-- A record that the compaction read is in its buffer: it is written at the write position (R733). -/
def moveRecord (s : State) (m place buffer : Nat) : State :=
  match s.husk.compact.bind (fun c => (moveExtent s c).map (fun e => (c, e))) with
  | some (c, _, _, some x) =>
    match x.recs[place]? with
    | none => s
    | some r =>
      let k := c.volume
      match placeRecord s k m r.epoch true (fun t o b => moveWrite k m t o b) (fun t o b => moveWrite k m t o b) with
      | none => compactEnd s 0x0A0F
      | some (off, t) =>
        let y := (t.vol k).member m
        let u := addRecord (modCompact t (fun c => { c with relocated := c.relocated + 1 })) k m r
        ((portOf u y.serial).bind (fun n => submit u n (huskCmd nvmWrite y.nsid off 0x10000 buffer false (.moveWrite m) 16 0))).getD (compactEnd u 0x0905)
  | _ => s

/-- Steps of a compaction that may follow one another without a drive. -/
def compactFuel (s : State) : Nat :=
  match s.husk.compact with
  | none => 0
  | some c => 8 + ((s.vol c.volume).members.map (fun m => (m.2.inUse.map (fun g => g.extents.length + 2)).foldl (· + ·) 2)).foldl (· + ·) 0

/-- The namespace `nsid` of the drive at port `n`, as it was identified. -/
def nsOf (s : State) (n nsid : Nat) : Option Namespace := (s.dp n).drive.nss.find? (fun x => x.nsid = nsid)
/-- SEGMENT_COUNT of a namespace (R706). -/
def segmentsOf (x : Namespace) : Nat := (x.size * x.lba - 0x100000) / 0x10000000

/-- Why a command that names the namespace `nsid` of port `n` is refused by its first checks (R653). -/
def nsRefusal (s : State) (n nsid : Nat) : Option Nat :=
  let d := (s.dp n).drive
  if !captive s n || !(d.state = .ready || d.state = .suspended) then some 0x0905
  else match nsOf s n nsid with
    | none => some 0x0909
    | some x => if (x.lba ≠ 512 && x.lba ≠ 4096) || x.metadata then some 0x090A else none

/-- A format has no superblock write left: HUSK.VOLUME_FORMAT completes (R736). -/
def formatOn (s : State) : State :=
  match s.husk.format with
  | none => s
  | some f =>
    if (commandsOf s).any (fun c => match c.use with | .format _ => true | _ => false) then s
    else
      let v := s.vol f.volume
      let t := noteVolume { s with husk := { s.husk with format := none } } f.volume
      workDone t f.fn f.cmdId
        ⟨if f.failed then 0x0907 else 0, 0, fields 16 [(0, le 8 v.id.toNat), (8, le 1 v.members.length), (12, le 4 ((v.members.map (fun m => m.2.segments)).foldl min 0xFFFFFFFF))]⟩

/-- Both superblock copies of a new member are written (R707, R736). -/
def formatMember (s : State) (k m : Nat) : State :=
  [0, 1].foldl
    (fun t copy =>
      let u := modMember t k m (fun x => { x with gen := x.gen + 1, copy := copy })
      match writeMember u k m (copy * 0x1000) (superblockBytes (u.vol k) m) true (.format m) 16 0 with
      | some v => v
      | none => { u with husk := { u.husk with format := u.husk.format.map (fun f => { f with failed := true }) } }) s

/-- A member as a format makes it of a namespace. -/
def newMember (s : State) (n : Nat) (x : Namespace) (epochHigh : Nat) : Member :=
  { member0 with serial := (s.dp n).drive.serial, nsid := x.nsid, epochHigh := epochHigh, segments := segmentsOf x, lba := x.lba }

/-- Superblocks of this module that the drives of captive ports carry, of the husk volume or of guest volumes, with the serial number of
their drive and their NSID (R707, R708). -/
def superblocks (s : State) (guest : Bool) : List (List Byte × Nat × Superblock) :=
  ((List.range 8).filter (captive s)).flatMap (fun n =>
    (s.dp n).drive.nss.filterMap (fun x => (x.superblock.filter (fun b => b.guest = guest && bytesAt b.module 0 12 = bytesAt ownSerial 0 12)).map
      (fun b => ((s.dp n).drive.serial, x.nsid, b))))

/-- The superblock that names volume `k` (R707): of those of one volume, the one with the highest GEN. -/
def namingBlock (s : State) (k : Nat) : Option Superblock :=
  let l := (superblocks s (k ≠ 0)).map (fun b => b.2.2)
  let ids := (l.map (fun b => b.volumeId)).eraseDups
  let taken := (s.husk.volumes.filter (fun v => v.1 ≠ k)).map (fun v => v.2.id.toNat)
  let best (l : List Superblock) : Option Superblock := l.foldl (fun o b => match o with | some a => if a.gen < b.gen then some b else o | none => some b) none
  if k = 0 then best l
  else best (l.filter (fun b => (ids.filter (fun i => !taken.contains i)).head? = some b.volumeId))

/-- The volume that a superblock names, with what its members' logs hold (R709). -/
def mountedVolume (s : State) (k : Nat) (b : Superblock) (info : MountInfo) : Volume :=
  let all := superblocks s (k ≠ 0)
  let mem (i : Nat) : Member :=
    let serial := b.serials.getD i []
    let nsid := b.nsids.getD i 0
    let own := (all.find? (fun x => x.1 = serial && x.2.1 = nsid && x.2.2.volumeId = b.volumeId)).map (fun x => x.2.2)
    let segs := tget [] info.members i
    { serial := serial, nsid := nsid, gen := (own.map (fun x => x.gen)).getD 0, copy := 1, epochHigh := (own.map (fun x => x.epochHigh)).getD 0
      segments := (own.map (fun x => x.segments)).getD 0, lba := (own.map (fun x => x.lbaSize)).getD 512, inUse := segs
      current := (segs.find? (fun g => segs.all (fun h => h.seq ≤ g.seq))).map (fun g => g.index), extOpen := false
      seqHigh := (segs.map (fun g => g.seq)).foldl max 0 }
  { state := .none, id := BitVec.ofNat 64 b.volumeId, guest := b.guest, sourceVolume := BitVec.ofNat 64 b.sourceVolume, sourceSerial := b.source
    sourceLink := b.sourceLink, retain := b.retain, members := (List.range b.members).map (fun i => (i, mem i)), epochs := info.epochs, mounted := false }

/-- Missing copies of COMMIT records are written (R723). -/
def completeCommits (s : State) (k : Nat) : State :=
  let v := s.vol k
  (v.epochs.filter (fun e => e.state = .committed)).foldl
    (fun t e => e.written.foldl
      (fun t m =>
        let x := (t.vol k).member m
        if !memberHere t x || x.inUse.any (fun g => g.extents.any (fun y => y.recs.any (fun r => r.epoch = e.number && r.kind = 6))) then t
        else
          let b := commitBytes v.guest e
          let put (t : State) (o : Nat) (d : List Byte) : State := tryWrite t k m o d (.segment k m) 0
          let r : LogRec := { epoch := e.number, kind := 6, whole := false, poison := 0, partition := 255, seq := 0, address := 0, crc := crc32c b, member := m }
          ((placeRecord t k m e.number false put put).map (fun p => closeExtent (put (addRecord p.2 k m r) p.1 b) k m put)).getD t) t) s

/-- A volume is mounted (R709). (DEDUCED: log entry 58.) -/
def mountVolume (s : State) (k : Nat) (b : Superblock) (info : MountInfo) : State :=
  let t := noteVolume { s with husk := { s.husk with volumes := tset s.husk.volumes k (mountedVolume s k b info) } } k
  let u := reclaim (completeCommits t k) k
  let high := ((u.vol k).members.filter (fun m => memberHere u m.2)).map (fun m => m.2.epochHigh)
  let w := if k = 0 then { u with husk := { u.husk with epoch := high.foldl max u.husk.epoch } } else u
  noteVolume (setVol w k { w.vol k with mounted := true }) k

end Sys2Proof.Machine
end

