-- ==== Sys2Proof/Machine/MoverRun.lean ====
section
/-! DEFINITION. The data movers at work: which descriptor may start, the segments of a descriptor, its flags and its end (R441–R448,
R506–R515, R677). -/

namespace Sys2Proof.Machine

/-- A pause of a snapshot holds new segments that write partition `p`'s units, or that reach its memory cells (R677). (DEDUCED: log entry 40.) -/
def snapHolds (s : State) (p : Nat) (cells : Bool) : Bool :=
  s.husk.snap.any (fun x => x.parts.any (fun q => q.part = p && (q.phase = 1 || (q.phase = 2 && cells))))

/-- A segment on `n` bytes from `a` is held by the pause of a snapshot (R677). -/
def rangeHeld (s : State) (a n : Nat) (write : Bool) : Bool :=
  if cellBase ≤ a then (regionsOf a n).any (fun g => (s.regionPart g).any (fun p => snapHolds s p true))
  else write && 0 < n && (List.range 16).any (fun p => snapHolds s p false &&
    (span (unitOf a) (unitOf (a + n - 1) + 1 - unitOf a)).any (s.pt p).units.contains)

/-- Entries of a member's mover quota (R442). (DEDUCED: log entry 40.) -/
def moverQuota (s : State) (m : Nat) : Nat := tget (if m < 16 then 60 else 64) (s.pt m).quota 0

/-- The jobs that hold an entry of the movers' queue, in order; `n` counts by member and kind what is held so far (R444). (DEDUCED: log entry 40.) -/
def admitted (s : State) (l : List Job) (mail total : Tab Nat) : List Nat :=
  match l with
  | [] => []
  | j :: r =>
    let byMail := s.eng.lists.any (fun x => x.id = j.list && x.cmd.isSome)
    let held := tget 0 total j.member
    let ok := held < moverQuota s j.member && (!byMail || 16 ≤ j.member || tget 0 mail j.member < moverQuota s j.member - 16)
    if ok then j.id :: admitted s r (if byMail then tset mail j.member (tget 0 mail j.member + 1) else mail) (tset total j.member (held + 1))
    else admitted s r mail total

/-- Every fence on a job's way is open: its own partition's, and those of partitions whose memory cells it uses (R433, R434). -/
def fencesOpen (s : State) (j : Job) : Bool :=
  (16 ≤ j.member || (s.pt j.member).fence.state = .open)
    && (List.range 16).all (fun p => (s.pt p).fence.state = .open || !jobTouches s p j)

/-- A descriptor may start: it holds an entry, every earlier one of its list has started, and with WAIT_PREV has ended (R444, R512); in the
stopped state none starts (R854). -/
def jobStartable (s : State) (j : Job) : Bool :=
  let before := s.eng.jobs.filter (fun x => x.list = j.list && x.index < j.index)
  !j.started && !s.faults.stopped && (admitted s s.eng.jobs [] []).contains j.id && fencesOpen s j && s.hbm.ready
    && before.all (fun x => x.started) && (!j.desc.waitPrev || before.isEmpty)

/-- End of the BULK transfer that holds offset `o` of a run of `l` bytes (R510). -/
def xferEnd (l o : Nat) : Nat :=
  let m := 0x100000
  let b := l / m * m - (if 0 < l % m ∧ l % m < 0x1000 ∧ m ≤ l then 0x1000 else 0)
  if o < b then min b ((o / m + 1) * m) else l

/-- Bytes of a run that is contiguous at a REMOTE destination: all of them, or one row. -/
def Desc.run (d : Desc) : Nat := if d.rows = 1 || d.dstStride = d.rowBytes then d.rows * d.rowBytes else d.rowBytes

/-- Offset within its run of byte `off` of row `row`. -/
def Desc.runOff (d : Desc) (row off : Nat) : Nat := (row * d.rowBytes + off) % d.run

/-- Bytes of the job's next segment (R441, R511). -/
def Job.nextLen (j : Job) : Nat :=
  let d := j.desc
  let n := min (d.rowBytes - j.off) (0x10000 - (d.dstRow j.row + j.off) % 0x10000)
  if d.remote then min n (xferEnd d.run (d.runOff j.row j.off) - d.runOff j.row j.off) else n

/-- Source and destination of the job's next segment. -/
def Job.srcAt (j : Job) : Nat := j.desc.srcRow j.row + j.off
def Job.dstAt (j : Job) : Nat := j.desc.dstRow j.row + j.off

/-- A job has a segment that waits for its turn. -/
def Job.waiting (j : Job) : Bool := j.started && !j.ended && !j.allSent && j.fail.isNone

/-- The next segment may be taken now: HBM runs, and no pause of a snapshot holds it (R503, R677). -/
def segmentFree (s : State) (j : Job) : Bool :=
  s.hbm.ready && !(j.desc.localDst && rangeHeld s j.dstAt j.nextLen true)
    && !(!j.desc.fill && !j.desc.srcHost && rangeHeld s j.srcAt j.nextLen false)

/-- Bytes of the next segment that count against each regulator: HBM read, HBM write, link, upstream PCIe, drive (R447). -/
def Job.charges (j : Job) : List Nat :=
  let n := j.nextLen
  let d := j.desc
  [if !d.fill && !d.srcHost && j.srcAt < cellBase then n else 0, if d.localDst && j.dstAt < cellBase then n else 0, if d.remote then n else 0
   , n * (b2n d.srcHost + b2n d.dstHost), 0]

/-- Bytes `o` to `o + n - 1` of the pattern, which is repeated from the start of each row (R506). -/
def patternBytes (pat o n : Nat) : List Byte := (span o n).map (fun i => (le 8 pat).getD (i % 8) 0)

/-- Words of `bad` (device addresses) that `n` bytes from `a` touch. -/
def touchesAny (bad : List Nat) (a n : Nat) : Bool := bad.any (fun w => overlap w 64 a n)

/-- The data of the next segment with the poisoned source words, and the state after the reads; none when the host buffer fails. The whole
source row is read at its first segment (R507), but for a host buffer or a REMOTE destination, which never overlap it. (DESIGN CHOICE: log entry 41.) -/
def segmentData (s : State) (j : Job) (n : Nat) (buf : Option (List Byte)) : Option (List Byte × List Nat × State) :=
  let d := j.desc
  if d.fill then some (patternBytes d.src j.off n, [], s)
  else if d.srcHost then (hostBuf s j.fn buf).map (fun b => (bytesAt b 0 n, [], s))
  else if d.remote then some (engineRead s j.srcAt n)
  else if j.off = 0 then
    let x := engineRead s j.srcAt d.rowBytes
    some (bytesAt x.1 0 n, x.2.1, modJob x.2.2 j.id (fun y => { y with rowBuf := x.1, rowPoison := x.2.1 }))
  else some (bytesAt (j.rowBuf.drop j.off) 0 n, j.rowPoison, s)

/-- What goes to host memory: one write, or one for each source word where some are poisoned, whose packets carry EP (R839). -/
def hostWrites (dst src : Nat) (data : List Byte) (bad : List Nat) : List (Nat × List Byte × Bool) :=
  if !touchesAny bad src data.length then [(dst, data, false)]
  else (cutAt (data.length + 1) 64 src data.length).map (fun p => (dst + (p.1 - src), bytesAt (data.drop (p.1 - src)) 0 p.2, touchesAny bad p.1 p.2))

/-- A mover sets an arrival flag; one already set is an overrun (R289, R290). -/
def setFlag (s : State) (k place : Nat) : State :=
  let x := s.pod k
  if x.flags.contains place then
    fault s { code := 0x030B, cls := 1, partition := (s.regionPart (regionOfPod k)).getD 255, region := regionOfPod k, pod := k, cell := place / 8
              detail := [BitVec.ofNat 8 (place % 8 / 2), BitVec.ofNat 8 (place % 2)] }
  else s.setPod k { x with flags := sins x.flags place }

/-- The descriptor's flag of each bank listed is set (R513). (DESIGN CHOICE: log entry 41.) -/
def setFlags (s : State) (d : Desc) (banks : List (Nat × Nat)) : State := banks.foldl (fun t b => setFlag t b.1 (b.2 + d.flagSet)) s

/-- Banks whose last byte the job has written and whose flag is not set yet (R513). -/
def Job.dueFlags (j : Job) : List (Nat × Nat) :=
  if !j.desc.setFlag then [] else
    let left := banksIn j.rest
    (banksIn j.desc.dstRanges).filter (fun b => !left.contains b && !j.flagged.contains b)

/-- The job after `n` bytes: the next row begins at a row's end. -/
def Job.advance (j : Job) (n : Nat) : Job :=
  let full := j.desc.rowBytes ≤ j.off + n
  let last := full && j.row + 1 = j.desc.rows
  { j with
    row := if full then j.row + 1 else j.row, off := if full then 0 else j.off + n
    rowBuf := if full && !j.desc.remote then [] else j.rowBuf, rowPoison := if full && !j.desc.remote then [] else j.rowPoison
    ended := last && !j.desc.remote, allSent := last && j.desc.remote }

/-- A segment joins the transfer being gathered; a whole transfer is sent (R510), or the descriptor fails without a route (R564). (DEDUCED: log entry 42; UNVERIFIED: log entry 43.) -/
def remoteSegment (s : State) (j : Job) (data : List Byte) (bad : List Nat) : State :=
  let d := j.desc
  let at_ := j.rowBuf.length
  let words := (bad.flatMap (fun w => let lo := max w j.srcAt - j.srcAt; let hi := min (w + 64) (j.srcAt + data.length) - j.srcAt
    span ((at_ + lo) / 64) ((at_ + hi - 1) / 64 + 1 - (at_ + lo) / 64))).foldl sins j.rowPoison
  let content := j.rowBuf ++ data
  let o := d.runOff j.row j.off
  if xferEnd d.run o = o + data.length then
    let dst := j.dstAt + data.length - content.length
    match sendXfer s (.mover j.id) d.remoteId d.remotePart (if j.member < 16 then j.member else 255) 1 dst 0 0 content words with
    | none => modJob s j.id (fun y => { y with fail := some (0x0803, 2) })
    | some (x, t) => modJob t j.id (fun y => { y.advance data.length with rowBuf := [], rowPoison := [], xfers := y.xfers ++ [x] })
  else modJob s j.id (fun y => { y.advance data.length with rowBuf := content, rowPoison := words })

/-- The movers move the next segment of a job (R441, R506–R514). (DESIGN CHOICE: log entry 41.) -/
def moverSegment (s : State) (j : Job) (buf : Option (List Byte)) : State :=
  let n := j.nextLen
  let d := j.desc
  if d.dstHost && !(s.fn j.fn).bme then modJob s j.id (fun y => { y with fail := some (0x000C, 0) })
  else
    match segmentData s j n buf with
    | none => modJob s j.id (fun y => { y with fail := some (0x000C, 0) })
    | some (data, bad, t) =>
      let t := modList t j.list (fun l => { l with bytes := l.bytes + n, poison := l.poison || touchesAny bad j.srcAt n })
      if d.remote then remoteSegment t j data bad
      else
        let u := if d.dstHost then { t with hostOut := hostWrites j.dstAt j.srcAt data bad }
                 else engineWrite t j.member j.dstAt data (fun o k => touchesAny bad (j.srcAt + o) k)
        let v := modJob u j.id (fun y => y.advance n)
        match jobOf v j.id with
        | none => v
        | some y =>
          if y.ended then v
          else modJob (setFlags v d y.dueFlags) j.id (fun z => { z with flagged := z.flagged ++ y.dueFlags })

/-- A job leaves the queue; its list may end, and an abort that waited for it (R402). -/
def dropJob (s : State) (j : Job) : State :=
  settleAbort (endLists { s with eng := { s.eng with jobs := s.eng.jobs.filter (fun x => x.id ≠ j.id) } }) j.member

/-- A fault of an engine command: partition, job, status and cause (R515, R844). -/
def engineFault (s : State) (member : Nat) (jobId : W32) (code : Nat) (detail : List Byte) : State :=
  fault s { code := code, cls := 1, partition := if member < 16 then member else 255, jobId := jobId, detail := detail }

end Sys2Proof.Machine
end

