-- ==== Sys2Proof/Machine/TraceSink.lean ====
section
/-! DEFINITION. Trace sinks: where a session's bytes go, and the end of a TRACE.STOP (R816–R821, R832). -/

namespace Sys2Proof.Machine

/-- A write to a trace ring, which dirties no granule and moves no poison mark but the words it fills (R817). (DEDUCED: log entry 64.) -/
def ringWrite (s : State) (x : Session) (o : Nat) (data : List Byte) : State :=
  let put (t : State) (a : Nat) (b : List Byte) : State := { t with hbm := hbmPut t.hbm a b clean }
  if x.sink = 0 then put s (x.firstUnit * 0x10000000 + o) data
  else
    match windowPieces (s.pt x.part).windows (x.base + o) data.length with
    | none => s
    | some ps => (ps.foldl (fun (acc : State × Nat) p => (put acc.1 p.1 (bytesAt (data.drop acc.2) 0 p.2), acc.2 + p.2)) (s, 0)).1

/-- Stream bytes on their way to a DRIVE sink in writes that have not completed. (DEDUCED: log entry 64.) -/
def traceOut (s : State) (fn : Nat) : Nat :=
  (((commandsOf s).filter (fun c => c.use = .trace fn)).map (fun c => c.length)).foldl (· + ·) 0

/-- Bytes that the sink takes now, at most `n`: a DRIVE session stages 32 MiB (R818); a STOP ring takes what does not overwrite (R820). -/
def sinkRoom (s : State) (fn : Nat) (x : Session) (n : Nat) : Nat :=
  let a := if x.sink = 2 then min n (0x2000000 - min 0x2000000 (x.staged.length + traceOut s fn)) else n
  let used := x.written.toNat + (if x.sink = 2 then x.staged.length + traceOut s fn else 0)
  if x.stop then min a (x.size - min x.size used) else a

/-- A drive write of 64 KiB of a session's stream, at its place in the ring, through the partition's queue (R818). -/
def traceIssue (s : State) (fn : Nat) : State :=
  let x := s.ses fn
  let o := (x.written.toNat + traceOut s fn) % x.size
  let a := freeBuffer s 1
  let c : NvmeCmd :=
    { cid := 0, qid := 2 + x.part, opcode := nvmWrite, nsid := x.nsid, offset := o, length := 0x10000, buffer := a, fua := false, use := .trace fn
      member := x.part, jobId := 0, entry := [] }
  match submit (stageData s a (bytesAt x.staged 0 0x10000)) x.port c with
  | none => s
  | some t => t.setSes fn { x with staged := x.staged.drop 0x10000 }

/-- TRACE.STOP ends: its final response; with RELEASE the configuration goes too (R832). (DEDUCED: log entry 64.) -/
def stopEnd (s : State) (fn : Nat) : State :=
  let x := s.ses fn
  match x.stopping with
  | none => s
  | some (f, id, release) =>
    let t := s.setSes fn { x with stopping := none }
    let u := finishOk t f id (le 8 x.written.toNat ++ le 8 x.lost.toNat)
    if release then clearSession u fn 0 0 else sesState u fn (u.ses fn) .configured 0

/-- A TRACE.STOP goes on once the capture buffer is empty: the rest of a DRIVE session's stream, then a Flush (R832). -/
def stopOn (s : State) (fn : Nat) : State :=
  let x := s.ses fn
  if x.stopping.isNone || !x.buffer.isEmpty then s
  else if x.sink ≠ 2 then stopEnd s fn
  else if !x.staged.isEmpty then traceIssue s fn
  else if (commandsOf s).any (fun c => c.use = .trace fn) then s
  else
    (submit s x.port
      { cid := 0, qid := 2 + x.part, opcode := nvmFlush, nsid := x.nsid, offset := 0, length := 0, buffer := 0, fua := false, use := .trace fn, member := x.part
        jobId := 0, entry := [] }).getD (loseSink s fn)

/-- A command of a session's stream has ended (R818, R832): bytes count as written when their write completes. -/
def traceDone (s : State) (fn : Nat) (c : NvmeCmd) (ok : Bool) : State :=
  let x := s.ses fn
  if c.opcode = nvmFlush then stopEnd s fn
  else
    let n := if ok then min x.made (x.written.toNat + c.length) else x.written.toNat
    stopOn (s.setSes fn { x with written := BitVec.ofNat 64 n, wrapped := x.wrapped || x.size < n }) fn

/-- The session is FULL when the next byte would overwrite one that it has written (R820). (DEDUCED: log entry 64.) -/
def checkFull (s : State) (fn : Nat) : State :=
  let x := s.ses fn
  if x.state = .running && x.stop && !x.buffer.isEmpty && sinkRoom s fn x 1 = 0
      && (x.sink ≠ 2 || x.size ≤ x.written.toNat + x.staged.length + traceOut s fn) then
    let t := match x.stopping with | some _ => stopEnd (s.setSes fn { x with buffer := [] }) fn | none => s
    if x.stopping.isSome then t else sesState t fn { t.ses fn with buffer := [] } .full 1
  else s

/-- A session's sink takes up to `n` bytes of its capture buffer (R819, R820). The answer: bytes taken. (DEDUCED: log entry 64.) -/
def sinkDrain (s : State) (fn n : Nat) : Nat × State :=
  let x := s.ses fn
  if !(x.state = .running) then (0, s)
  else
    let k := sinkRoom s fn x (min n x.buffer.length)
    let b := x.buffer.take k
    if x.sink = 2 then
      let t := s.setSes fn { x with buffer := x.buffer.drop k, staged := x.staged ++ b }
      (k, stopOn (checkFull (if 0x10000 ≤ (t.ses fn).staged.length then traceIssue t fn else t) fn) fn)
    else
      let o := x.written.toNat % x.size
      let head := b.take (x.size - o)
      let t := ringWrite (ringWrite s x o head) x 0 (b.drop (x.size - o))
      let n := x.written.toNat + k
      (k, stopOn (checkFull (t.setSes fn { x with buffer := x.buffer.drop k, written := BitVec.ofNat 64 n, wrapped := x.wrapped || x.size < n }) fn) fn)

/-- Recovery from an overflow once 4 KiB of the capture buffer is free: a GAP over the dropped span, and a new block (R819, R822, R829). -/
def overflowEnd (s : State) (fn : Nat) : State :=
  let x := s.ses fn
  match x.dropping with
  | none => s
  | some (a, b) =>
    if 61440 < x.buffer.length || x.state ≠ .running then s
    else
      let y := place s { x with dropping := none } a b (stamped 0x60 a (leb (b - a) ++ [2, 255]))
      s.setSes fn { padBlock y with overflowed := true, lost := x.lost + BitVec.ofNat 64 (b - a) }

end Sys2Proof.Machine
end

