-- ==== Sys2Proof/Machine/DriveEnd.lean ====
section
/-! DEFINITION. Initialisation of a drive, and what the end of each of its commands brings about (R632–R640, R656, R707, R708). -/

namespace Sys2Proof.Machine

/-- How a drive command ends: with the drive's completion, or cut off by the drive engine with a status and DETAIL. -/
inductive NvmeEnd where
  | done (nvme dw0 dw1 : Nat)
  | cut (status detail : Nat)
deriving DecidableEq, Repr

/-- The command succeeded. -/
def NvmeEnd.ok (e : NvmeEnd) : Bool := match e with | .done 0 _ _ => true | _ => false
/-- The status that its issuer sees: an error at the drive is DRIVE_ERROR (R658). -/
def NvmeEnd.status (e : NvmeEnd) : Nat := match e with | .done 0 _ _ => 0 | .done _ _ _ => 0x0907 | .cut st _ => st

/-- One copy of a superblock, when its MAGIC and CRC are valid (R707). -/
def superblockCopy (b : List Byte) : Option Superblock :=
  if rd 4 b 0 ≠ 0x56485256 || rd 4 b 0xFFC ≠ (crc32c (bytesAt b 0 0xFFC)).toNat then none
  else some
    { guest := rd 1 b 6 = 1, gen := rd 8 b 8, volumeId := rd 8 b 0x10, module := bytesAt b 0x18 12, source := bytesAt b 0x28 12, sourceLink := rd 1 b 0x34
      index := rd 1 b 0x35, members := rd 1 b 0x36, retain := rd 1 b 0x37, segments := rd 4 b 0x38, lbaSize := rd 4 b 0x3C, epochHigh := rd 8 b 0x40
      sourceVolume := rd 8 b 0x48, serials := (List.range 8).map (fun i => bytesAt b (0x50 + 20 * i) 20), nsids := (List.range 8).map (fun i => rd 4 b (0xF0 + 4 * i)) }

/-- The superblock that the two copies hold: the valid one with the higher GEN, copy 0 where they are equal (R707). (DEDUCED: log entry 58.) -/
def superblockOf (b : List Byte) : Option Superblock :=
  match superblockCopy (bytesAt b 0 0x1000), superblockCopy (bytesAt b 0x1000 0x1000) with
  | some x, some y => some (if x.gen < y.gen then y else x)
  | some x, none => some x
  | none, y => y

/-- The owner that a namespace's superblock gives it (R708). -/
def superOwner (x : Namespace) : Nat :=
  match x.superblock with
  | some b => if bytesAt b.module 0 12 ≠ bytesAt ownSerial 0 12 then 0 else if b.guest then 0x21 else 0x20
  | none => 0

/-- The drive serves commands (R632, R643, R644): its namespaces have records, four event requests are outstanding, its fence is open. -/
def driveReady (s : State) (n : Nat) : State :=
  let d := (s.dp n).drive
  let t := d.nss.foldl
    (fun t x => if (nsRecord t d.serial x.nsid).isSome then t
      else setNs t { serial := d.serial, nsid := x.nsid, owner := superOwner x, clean := false }) s
  driveState (modDp t n (fun p => { p with fence := .open, drive := { p.drive with aer := true, step := 0 } })) n .ready d.cause

/-- Step `k` of the initialisation after CSTS.RDY (R632): Identify Controller; Set Features twice; 17 completion and 17 submission queues; the
active namespace list; Identify of each namespace; the superblock of each; then READY. (DESIGN CHOICE: log entry 53.) -/
def setupStep (s : State) (n k : Nat) : State :=
  let d := (s.dp n).drive
  let m := d.nss.length
  let a := freeBuffer s 1
  let admin (op nsid : Nat) : State := sendAdmin s n (adminCmd op nsid (.setup k) a 0x1000)
  if k = 0 then admin 0x06 0
  else if k ≤ 2 then admin 0x09 0
  else if k ≤ 19 then admin 0x05 0
  else if k ≤ 36 then admin 0x01 0
  else if k = 37 then admin 0x06 0
  else if k < 38 + m then admin 0x06 (((d.nss[k - 38]?).map (fun x => x.nsid)).getD 0)
  else if k < 38 + 2 * m then
    sendAdmin s n (huskCmd nvmRead (((d.nss[k - 38 - m]?).map (fun x => x.nsid)).getD 0) 0 0x2000 a false (.setup k) 16 0)
  else driveReady s n

/-- The initialisation has failed a check (R632). -/
def unsuitable (s : State) (n : Nat) : State :=
  driveState (modDrive s n (fun d => { d with enabling := false, step := 0 })) n .unsuitable (s.dp n).drive.cause

/-- A command of the initialisation has ended (R631, R632). -/
def setupDone (s : State) (n k : Nat) (c : NvmeCmd) (e : NvmeEnd) (info : DriveInfo) : State :=
  let d := (s.dp n).drive
  let m := d.nss.length
  if !(d.state = .initialising || d.state = .waking || d.state = .resetting || d.state = .ready) then s
  else if 38 + m ≤ k then
    let b := if e.ok && (poisonedWords s c.buffer 0x2000).isEmpty then superblockOf (devBytes s c.buffer 0x2000) else none
    setupStep (modDrive s n (fun d => { d with nss := (List.range m).zipWith (fun i x => if i = k - 38 - m then { x with superblock := b } else x) d.nss })) n (k + 1)
  else if !e.ok then (match e with | .done _ _ _ => unsuitable s n | .cut _ _ => s)
  else if k = 0 then
    if !info.suitable then unsuitable (modDrive s n (fun d => { d with serial := bytesAt info.serial 0 20 })) n
    else setupStep (modDrive s n (fun d => { d with serial := bytesAt info.serial 0 20, l1ss := info.l1ss })) n 1
  else if k = 37 then setupStep (modDrive s n (fun d => { d with nss := info.nss.map (fun x => { x with superblock := none }) })) n 38
  else setupStep s n (k + 1)

/-- Marks a namespace CLEAN (R647). -/
def markClean (s : State) (serial : List Byte) (nsid : Nat) : State :=
  setNs s { serial := serial, nsid := nsid, owner := nsOwner s serial nsid, clean := nsOwner s serial nsid = 0 }

/-- CLEAN marks that a successful admin command sets (R647): Namespace Management create, Format NVM with Secure Erase Settings, Sanitize. -/
def cleanMarks (s : State) (n : Nat) (c : NvmeCmd) (dw0 : Nat) : State :=
  let d := (s.dp n).drive
  let cdw10 := rd 4 c.entry 40
  if c.opcode = 0x0D && cdw10 % 16 = 0 then markClean s d.serial dw0
  else if c.opcode = 0x80 && bitsOf cdw10 11 9 ≠ 0 then markClean s d.serial c.nsid
  else if c.opcode = 0x84 then (s.hub.records.filter (fun r => r.serial = d.serial)).foldl (fun t r => markClean t r.serial r.nsid) s
  else s

/-- HUB.NVME_ADMIN's command has ended (R656): its data goes to the host buffer, and the Identify steps are repeated where namespaces may have
changed. (DEDUCED: log entry 54.) -/
def adminDone (s : State) (n fn id host : Nat) (c : NvmeCmd) (e : NvmeEnd) : State :=
  match e with
  | .cut st detail => workDone s fn id ⟨st, detail, []⟩
  | .done nvme dw0 dw1 =>
    let toHost := 2 ≤ c.opcode % 4
    let moved := if nvme = 0 && c.opcode % 4 ≠ 0 then c.length else 0
    let pay (k : Nat) : List Byte := fields 16 [(0, le 4 dw0), (4, le 4 dw1), (8, le 2 nvme), (12, le 4 k)]
    let t := if nvme = 0 then cleanMarks s n c dw0 else s
    let u :=
      if !(toHost && 0 < moved) then workDone t fn id ⟨0, 0, pay moved⟩
      else if !(s.fn fn).bme then workDone t fn id ⟨0x000C, 0, []⟩
      else
        let r := engineRead t c.buffer moved
        workDone { r.2.2 with hostOut := hostWrites host c.buffer r.1 r.2.1 } fn id ⟨0, 0, pay moved⟩
    if nvme = 0 && [0x0D, 0x15, 0x80, 0x84].contains c.opcode && (u.dp n).drive.state = .ready then setupStep u n 37 else u

/-- A SYSTEM record copy is durable (R696, R716). -/
def systemDurable (s : State) (k epoch : Nat) : State :=
  setVol s k { s.vol k with epochs := (s.vol k).epochs.map (fun e => if e.number = epoch then { e with system := true } else e) }

/-- What the end of a drive command brings about for the work that it served. -/
def endDriveCmd (s : State) (n : Nat) (c : NvmeCmd) (e : NvmeEnd) (info : DriveInfo) : State :=
  let ok := e.ok
  let byError := e.status = 0x0907
  let member (v m : Nat) : State := if ok then writerOn 6 s v else memberLost s v m byError
  match c.use with
  | .admin fn id host => adminDone s n fn id host c e
  | .setup k => setupDone s n k c e info
  | .log => s
  | .abort => s
  | .superblock v m => member v m
  | .segment v m => member v m
  | .extent v m => member v m
  | .flush v m => member v m
  | .record v m kind q =>
    let t := if v = 0 && kind = 1 then entryWritten s q else s
    if ok then writerOn 6 t v else memberLost t v m byError
  | .commit v m => commitCopy s v m ok
  | .system v epoch => if ok then systemDurable s v epoch else s
  | .read i pos place =>
    readDone s i pos place (if ok && (poisonedWords s c.buffer c.length).isEmpty then some (devBytes s c.buffer c.length) else none)
  | .moveRead m place => let t := if ok then moveRecord s m place c.buffer else compactEnd s e.status; compactOn (compactFuel t) t
  | .moveWrite _ => let t := if ok then s else compactEnd s e.status; compactOn (compactFuel t) t
  | .format _ =>
    formatOn (if ok then s else { s with husk := { s.husk with format := s.husk.format.map (fun f => { f with failed := true }) } })
  | .trace fn => traceDone s fn c ok

/-- A drive of no information. -/
def noInfo : DriveInfo := { serial := [], suitable := false, l1ss := false, nss := [] }

/-- Members of the epochs being written whose drive is the one at port `n`. -/
def writersOn (s : State) (n : Nat) : List (Nat × Nat) :=
  s.husk.writers.flatMap (fun w =>
    ((s.vol w.1).members.filter (fun m => m.2.serial = (s.dp n).drive.serial)).map (fun m => (w.1, m.1)))

/-- Commands of the drive at port `n` end with a status: HBM that unfinished reads were to fill is poisoned (R435, R624), and epochs that it was
being written to lose the member (R721). -/
def endCommands (s : State) (n : Nat) (l : List NvmeCmd) (status : Nat) : State :=
  let ids := l.map (fun c => c.cid)
  let sent := (s.dp n).drive.sent.filter (fun c => ids.contains c.cid)
  let t := modDrive s n (fun d => { d with queued := d.queued.filter (fun c => !ids.contains c.cid), sent := d.sent.filter (fun c => !ids.contains c.cid) })
  l.foldl (fun t c => endDriveCmd t n c (.cut status 0) noInfo) (poisonReads t sent)

/-- Every command of the drive ends with a status, and its members are lost to the epochs being written. -/
def endAll (s : State) (n status : Nat) : State :=
  let d := (s.dp n).drive
  let t := endCommands s n (d.queued ++ d.sent) status
  (writersOn t n).foldl (fun t w => memberLost t w.1 w.2 (status = 0x0907)) t

/-- The drive becomes FAILED: nothing waits for it any longer (R640). -/
def driveFails (s : State) (n cause : Nat) : State :=
  let t := driveState (modDrive s n (fun d => { d with enabling := false, step := 0, aer := false })) n .failed cause
  endAll t n 0x0905

/-- A fault of class 0 or 1 at downstream port `n`. (DEDUCED: log entry 54.) -/
def driveFault (s : State) (n code cls : Nat) (detail : List Byte) : State :=
  fault s { code := code, cls := cls, unit := n, detail := detail }

/-- Step 2 of the recovery: a controller reset ends every outstanding command with DRIVE_ERROR (R639). Reaching it three times within ten minutes
fails the drive. -/
def recover2 (s : State) (n : Nat) : State :=
  let now := s.time.toNat
  let times := ((s.dp n).drive.step2.filter (fun t => now < t + 600000000000)) ++ [now]
  let t := modDrive s n (fun d => { d with step := 2, step2 := times, resets := d.resets + 1, cause := 2, enabling := true, aer := false })
  if 3 ≤ times.length then driveFails t n 2
  else
    let u := driveState t n .resetting 2
    endCommands u n (u.dp n).drive.sent 0x0907

/-- Step 3: a reset of the downstream port (R106, R639). -/
def recover3 (s : State) (n cause : Nat) : State :=
  let t := modDp s n (fun p => { p with
    linkUp := false, speed := 0, width := 0, flit := false, l12 := false
    drive := { p.drive with step := 3, cause := cause, enabling := false, aer := false } })
  let u := driveState t n .resetting cause
  endCommands u n (u.dp n).drive.sent 0x0907

/-- Step 4: the slot is switched off and on again (R618, R617, R639). -/
def recover4 (s : State) (n : Nat) : State :=
  let t := slotOff (modDrive s n (fun d => { d with step := 4 })) n
  let u := driveState t n .resetting (s.dp n).drive.cause
  endCommands u n (u.dp n).drive.sent 0x0907

/-- The recovery step under way has failed: DRIVE_TIMEOUT, and the next step (R639). -/
def driveStepFails (s : State) (n qid : Nat) : State :=
  let d := (s.dp n).drive
  let t := driveFault s n 0x0902 1 (le 1 d.step ++ le 1 0 ++ le 2 qid)
  if d.step = 1 then recover2 t n else if d.step = 2 then recover3 t n 2 else if d.step = 3 then recover4 t n else driveFails t n 2

end Sys2Proof.Machine
end

