-- ==== Sys2Proof/Machine/SlotOps.lean ====
section
/-! DEFINITION. Slots of the downstream ports: power sequences, presence, removal (R53–R57, R617–R629). -/

namespace Sys2Proof.Machine

/-- Downstream port `n` exists and the hub is out of reset. -/
def hubLive (s : State) (n : Nat) : Bool := s.rst.hubOut && dpExists s n
/-- So, and the port is captive. -/
def engineLive (s : State) (n : Nat) : Bool := hubLive s n && !(s.dp n).passthrough

/-- Bay `n`. -/
def State.bay (s : State) (n : Nat) : Bay := tget Bay.init s.comp.bays n
def State.setBay (s : State) (n : Nat) (b : BayState) : State :=
  { s with comp := { s.comp with bays := tset s.comp.bays n { state := b, queued := false } } }

/-- A captive slot is powered on for a present drive (R617). -/
def powerOn (s : State) (n cause : Nat) : State :=
  driveState (modDrive (slotOn s n) n (fun d => { d with cause := cause, offAfter := false })) n .powering cause

/-- A SUSPENDED drive wakes (R629). -/
def wakeDrive (s : State) (n cause : Nat) : State :=
  driveState (modDrive (slotOn s n) n (fun d => { d with cause := cause, offAfter := false })) n .waking cause

/-- Captive ports with a drive present are powered at module ready, where AUTO_POWER says so (R623). (DEDUCED: log entry 54.) -/
def autoPowerAll (s : State) : State :=
  (List.range 8).foldl
    (fun t n => let p := t.dp n
      if captive t n && p.present && p.autoPower && p.drive.state = .off && (t.bay n).state ≠ .on then powerOn t n 1 else t) s

/-- The slot of a captive drive is off for good: what becomes of the drive (R618, R624, R627, R639, R652). -/
def slotIsOff (s : State) (n : Nat) : State :=
  let p := s.dp n
  match p.drive.state with
  | .suspending =>
    if p.drive.offAfter then endAll (driveState s n .off 0) n 0x0905 else driveState s n .suspended p.drive.cause
  | .removed => driveState s n (if p.present then .off else .absent) 1
  | .resetting => if p.drive.step = 4 then slotOn s n else s
  | _ => s

/-- A bay is switched off for a fault (R54, R56, R620, R643, R659). (DEDUCED: log entry 13.) -/
def bayFault (s : State) (n : Nat) : State :=
  let t := cpRaise (s.setBay n .slotFault) 8
  let u := companionAppend { t with comp := { t.comp with pmb := { t.comp.pmb with statusMfr := t.comp.pmb.statusMfr ||| 4 } } } 0x0B02 1 n (le 1 n)
  if !hubLive u n then u
  else if (u.dp n).passthrough then
    modDp u n (fun p => { p with
      rising := false, commandDone := true, powerFault := true, linkUp := false, speed := 0, width := 0, flit := false, l12 := false
      dllChanged := p.dllChanged || p.linkUp })
  else
    let was := (u.dp n).drive.state
    let v := modDp (slotOff u n) n (fun p => { p with falling := false })
    if was = .powering || was = .waking || was = .resetting then driveFails v n 5
    else if was = .ready || was = .initialising || was = .suspending || was = .unsuitable then endAll (driveState v n .off 5) n 0x0905
    else v

/-- BAY_POWER_GOOD (R53, R620). -/
def execBayPowerGood (bay : Fin 8) (s : State) : Out :=
  if s.comp.running && (s.bay bay).state = .ramping then
    let t := cpRaise (s.setBay bay .on) 0x400
    nextN s (modDp t bay (fun p => { p with commandDone := p.commandDone || (p.passthrough && p.rising) }))
  else .next s

/-- BAY_RAMP_TIMEOUT (R54, R620). -/
def execBayRampTimeout (bay : Fin 8) (s : State) : Out :=
  if s.comp.running && (s.bay bay).state = .ramping then nextN s (bayFault s bay) else .next s

/-- BAY_OVERCURRENT_TRIP (R56). -/
def execBayOvercurrentTrip (bay : Fin 8) (s : State) : Out :=
  if s.comp.running && ((s.bay bay).state = .ramping || (s.bay bay).state = .on) then nextN s (bayFault s bay) else .next s

/-- BAY_DISCHARGED (R57, R618, R620). -/
def execBayDischarged (bay : Fin 8) (s : State) : Out :=
  if s.comp.running && (s.bay bay).state = .discharging then
    let t := cpRaise (s.setBay bay .off) 0x400
    let done := (t.dp bay).falling
    let u := modDp t bay (fun p => { p with falling := false, commandDone := p.commandDone || (p.passthrough && p.falling) })
    nextN s (if engineLive u bay && done then slotIsOff u bay else u)
  else .next s

/-- Presence on a captive port is lost (R623, R624, R659): a powered drive is surprise-removed. -/
def presenceLost (s : State) (n : Nat) : State :=
  let on := s.comp.slotCtrl.getLsbD n
  let t := eventDev (modDp s n (fun p => { p with present := false })) 0x0903 (le 1 n ++ le 1 0)
  if on then
    let u := slotOff (driveState t n .removed 1) n
    let v := endAll u n 0x0906
    if (v.bay n).state = .off then driveState (modDp v n (fun p => { p with falling := false })) n .absent 1 else v
  else
    let u := endAll t n 0x0906
    driveState u n (if (s.bay n).state = .discharging then .removed else .absent) 1

/-- PRESENCE_CHANGE (R621, R623, R625): the new presence has held for 20 ms. -/
def execPresenceChange (dp : Fin 8) (present : Bool) (s : State) : Out :=
  let p := s.dp dp
  if !hubLive s dp || p.present = present then .next s
  else if p.passthrough then nextN s (modDp s dp (fun p => { p with present := present, presenceChanged := true }))
  else if !present then nextN s (presenceLost s dp)
  else
    let t := eventDev (modDp s dp (fun p => { p with present := true })) 0x0903 (le 1 dp ++ le 1 1)
    if p.drive.state ≠ .absent then nextN s t
    else
      let u := driveState t dp .off 1
      nextN s (if p.autoPower && s.boot.deployed then powerOn u dp 1 else u)

/-- DRIVE_SURPRISE_REMOVAL (R624). -/
def execDriveSurpriseRemoval (dp : Fin 8) (s : State) : Out :=
  if engineLive s dp && (s.dp dp).present && s.comp.slotCtrl.getLsbD dp then nextN s (presenceLost s dp) else .next s

/-- POWER_CONTROLLER_CONTROL_WRITE (R620). (DEDUCED: log entry 54.) -/
def execPowerControllerControlWrite (dp : Fin 8) (off : Bool) (s : State) : Out :=
  let p := s.dp dp
  if !(hubLive s dp && p.passthrough) then .next s
  else if p.powerOff = off then nextN s (modDp s dp (fun p => { p with commandDone := true }))
  else
    let t := modDp s dp (fun p => { p with powerOff := off })
    nextN s (if off then modDp (slotOff t dp) dp (fun q => { q with dllChanged := q.dllChanged || p.linkUp }) else slotOn t dp)

/-- DP_PERST_RELEASE (R617): 100 ms after ON. (DEDUCED: log entry 54.) -/
def execDpPerstRelease (dp : Fin 8) (s : State) : Out :=
  let p := s.dp dp
  if hubLive s dp && p.rising && p.refclk && (s.bay dp).state = .on then
    let t := modDp s dp (fun p => { p with perst := false, rising := false })
    nextN s (if !p.passthrough && p.drive.state = .powering then driveState t dp .initialising p.drive.cause else t)
  else .next s

/-- DOWNSTREAM_LINK_UP (R632, R621, R856): a captive drive whose CAP does not meet R631 is UNSUITABLE; else CC.EN is set. (DEDUCED: log entry 54.) -/
def execDownstreamLinkUp (dp : Fin 8) (speed : Fin 7) (width : Fin 16) (flit suitable : Bool) (s : State) : Out :=
  let p := s.dp dp
  if !(hubLive s dp && !p.perst && !p.linkUp && (s.bay dp).state = .on) || speed.val = 0 then .next s
  else
    let t := modDp s dp (fun p => { p with linkUp := true, speed := speed, width := width, flit := flit, l12 := false, dpc := false, dllChanged := p.dllChanged || p.passthrough })
    let d := p.drive.state
    if p.passthrough || !(d = .initialising || d = .waking || d = .resetting) then nextN s t
    else if !suitable then nextN s (unsuitable t dp)
    else nextN s (modDrive t dp (fun d => { d with enabling := true }))

/-- CONTROLLER_READY (R632). -/
def execControllerReady (dp : Fin 8) (s : State) : Out :=
  let p := s.dp dp
  if engineLive s dp && p.linkUp && p.drive.enabling then nextN s (setupStep (modDrive s dp (fun d => { d with enabling := false })) dp 0) else .next s

/-- CONTROLLER_READY_TIMEOUT (R632, R639). (DEDUCED: log entry 54.) -/
def execControllerReadyTimeout (dp : Fin 8) (s : State) : Out :=
  let d := (s.dp dp).drive
  if engineLive s dp && d.enabling then
    let t := modDrive s dp (fun d => { d with enabling := false })
    nextN s (if d.state = .resetting then driveStepFails t dp (d.victim / 65536) else driveFails t dp 2)
  else .next s

/-- CLKREQ_ASSERT (R626): L1.2 ends and the reference clock is back. -/
def execClkreqAssert (dp : Fin 8) (s : State) : Out :=
  if hubLive s dp && (s.dp dp).l12 then nextN s (modDp s dp (fun p => { p with l12 := false, refclk := true })) else .next s

/-- CLKREQ_RELEASE (R626): the drive of a captive port supports the substates and the policy enables them. -/
def execClkreqRelease (dp : Fin 8) (s : State) : Out :=
  let p := s.dp dp
  if hubLive s dp && p.linkUp && !p.l12 && (p.passthrough || (p.l12Enable && p.drive.l1ss && p.drive.state = .ready)) then
    nextN s (modDp s dp (fun p => { p with l12 := true, refclk := false }))
  else .next s

/-- DRIVE_IDLE_TIMEOUT (R627). -/
def execDriveIdleTimeout (dp : Fin 8) (s : State) : Out :=
  let p := s.dp dp
  if engineLive s dp && p.drive.state = .ready && p.suspendS ≠ 0 && p.drive.idle then
    nextN s (driveState (modDrive s dp (fun d => { d with offAfter := false, cause := 3 })) dp .suspending 3)
  else .next s

/-- A SUSPENDING drive has shut down, or its time is over: the slot goes off (R627, R618). -/
def shutdownOver (s : State) (n : Nat) : State :=
  if engineLive s n && (s.dp n).drive.state = .suspending && !(s.dp n).perst then slotOff s n else s

/-- SHUTDOWN_COMPLETE (R627). -/
def execShutdownComplete (dp : Fin 8) (s : State) : Out := nextN s (shutdownOver s dp)
/-- SHUTDOWN_TIMEOUT (R627). -/
def execShutdownTimeout (dp : Fin 8) (s : State) : Out := nextN s (shutdownOver s dp)

/-- DRIVE_WAKE (R629). -/
def execDriveWake (dp : Fin 8) (s : State) : Out :=
  let d := (s.dp dp).drive
  if engineLive s dp && d.state = .suspended && !d.queued.isEmpty && (s.pow.state = .run || s.pow.state = .idle) then nextN s (wakeDrive s dp 4) else .next s

/-- DRIVE_WAKE_TIMEOUT (R629). -/
def execDriveWakeTimeout (dp : Fin 8) (s : State) : Out :=
  if engineLive s dp && (s.dp dp).drive.state = .waking then nextN s (driveFails s dp 2) else .next s

end Sys2Proof.Machine
end

