-- ==== Sys2Proof/Machine/Boot.lean ====
section
/-! DEFINITION. The boot commands: clock start and loss, start-up steps, deployment, module ready and the DONE handshake (R93–R97,
R151–R176). -/

namespace Sys2Proof.Machine

/-- FLASH_READ_TIMEOUT (R153): a read of the boot ROM for the slot it has reached. -/
def execFlashReadTimeout (s : State) : Out :=
  match s.boot.hazel with
  | .rom slot => .next (romFails s slot 10)
  | _ => .next s

/-- WDOG_STREAK_CLEAR (R154). -/
def execWdogStreakClear (s : State) : Out :=
  if s.boot.hazel = .running then .next { s with boot := { s.boot with wdogStreak := 0 } } else .next s

/-- PLL_LOCK (R115, R162): a PLL kept locked starts phase 2 at once. (DEDUCED: log entry 11.) -/
def execPllLock (s : State) : Out :=
  if nextStep s ≠ some 0 then .next s
  else if s.clk.pllLocked then .next (stepDone (phase2 { s with clk := { s.clk with root := true } }))
  else if s.clk.pllEnabled then .next s
  else .next { s with clk := { s.clk with pllEnabled := true, attempts := 0 } }

/-- PLL_LOCK_ACHIEVED (R94, R115): ACLK and PCLK move to the root dividers, and phase 2 begins. -/
def execPllLockAchieved (s : State) : Out :=
  if nextStep s = some 0 && s.clk.pllEnabled && !s.clk.pllLocked then
    .next (stepDone (phase2 { s with clk := { s.clk with pllLocked := true, root := true } }))
  else .next s

/-- PLL_LOCK_TIMEOUT (R94, R164): the third attempt that fails ends the start-up. -/
def execPllLockTimeout (s : State) : Out :=
  if nextStep s = some 0 && s.clk.pllEnabled && !s.clk.pllLocked then
    let n := s.clk.attempts + 1
    let t := { s with clk := { s.clk with attempts := n } }
    .next (if n = 3 then stepFails t 0 else t)
  else .next s

/-- CLOCK_LOSS_DETECTED (R96, R97, R138, R503): REFCLK_SYS is absent, or the PLL has lost lock. -/
def execClockLossDetected (pll : Bool) (s : State) : Out :=
  if !s.clk.root then .next s
  else
    let t := { s with
      clk := { s.clk with root := false, pllLocked := false, pllEnabled := false, run := false, divReq := none }
      hbm := { s.hbm with ready := false, selfRefresh := true } }
    nextN s (fault t { code := 0x0101, cls := 3, detail := le 1 (b2n pll) })

/-- OUTPUT_RELEASE (R116, R162). -/
def execOutputRelease (s : State) : Out :=
  if nextStep s = some 1 then .next (stepDone { s with rst := { s.rst with padHold := false } }) else .next s

/-- SR_RELEASE (R162, R164): `bad` names the stacks that fail initialisation or self-refresh exit. -/
def execSrRelease (bad : List (Fin 6)) (s : State) : Out :=
  if nextStep s ≠ some 2 || !s.rst.hbmOut then .next s
  else if !bad.isEmpty then .next (stepFails s 2)
  else .next (stepDone { s with hbm := { s.hbm with ready := true, selfRefresh := false } })

/-- WRITE_ENABLE (R162, R163). -/
def execWriteEnable (s : State) : Out :=
  if nextStep s = some 3 then .next (stepDone { s with boot := { s.boot with writeEnable := true } }) else .next s

/-- SECTION_DEPLOYMENT (R166, R167): the next section is read again and checked against the DIGEST kept in SRAM. (DEDUCED: log entry 21.) -/
def execSectionDeployment (s : State) : Out :=
  if !(s.boot.hazel = .running && s.rst.epReady) then .next s
  else
    match s.boot.toDeploy with
    | [] => .next s
    | (type, off, len, digest) :: r =>
      if Config.sha384 (flashRead s off len) = digest then
        .next { s with boot := { s.boot with toDeploy := r, sections := sins s.boot.sections type } }
      else
        let t := fault s { code := 0x0108, cls := 3, detail := le 2 type }
        if s.boot.source = 0 then .next { t with boot := { t.boot with nextGolden := true }, rst := { t.rst with warmReq := 4 } }
        else .next (enterRecovery t)

/-- What DONE passage brings (R172–R174). -/
def proceed (s : State) (d : DoneState) : State := releaseLinks { s with boot := { s.boot with done := d } }

/-- MODULE_READY (R168, R170, R171, R176, R623). -/
def execModuleReady (s : State) : Out :=
  if !(s.boot.hazel = .running && s.rst.epReady && s.boot.toDeploy.isEmpty && !s.boot.deployed && s.rst.warmReq = 0) then .next s
  else
    let t := autoPowerAll { s with boot := { s.boot with deployed := true, dieDone := false } }
    nextN s (match s.boot.done with
      | .passed => releaseLinks t
      | .timedOut => releaseLinks t
      | _ => if s.boot.doneIgnore then proceed t .passed else { t with boot := { t.boot with done := .waiting } })

/-- DONE_HIGH (R172, R175): this module drives the line no longer, and it has been high for 10 µs. (DEDUCED: log entries 21, 29.) -/
def execDoneHigh (s : State) : Out :=
  if s.boot.dieDone || s.boot.compDone || !s.boot.deployed then .next s
  else
    match s.boot.done with
    | .waiting => nextN s (proceed s .passed)
    | .timedOut => if s.boot.doneLate then .next s else .next (eventDev { s with boot := { s.boot with doneLate := true } } 0x0103 [])
    | _ => .next s

/-- DONE_TIMEOUT (R174). (DEDUCED: log entry 21.) -/
def execDoneTimeout (s : State) : Out :=
  if s.boot.done = .waiting && s.boot.deployed then nextN s (eventDev (proceed s .timedOut) 0x0102 []) else .next s

end Sys2Proof.Machine
end

