-- ==== Sys2Proof/Machine/Companion.lean ====
section
/-! DEFINITION. Power entry: the feed state machines, e-fuse and ORing, the die rails, and the companion's start (R35–R67, R896–R902). -/

namespace Sys2Proof.Machine

/-- A feed is in ON. -/
def anyOn (s : State) : Bool := (s.feed 0).state = .on || (s.feed 1).state = .on

/-- The other feed. -/
def otherFeed (f : Nat) : Nat := 1 - f

/-- The companion's side of removing the die rails: MODPWR_OK low, rails off, bays and regulator disabled (R41, R901). -/
def railsOff (c : Companion) : Companion :=
  { c with
    railsGood := 0, railsOn := false, railWait := false, modpwr := false, fastcap := false, slotCtrl := 0
    bays := c.bays.map (fun b => (b.1, { b.2 with state := .off, queued := false }))
    vreg := { c.vreg with setpoint := 0, settled := false, lastSettled := 0 } }

/-- Neither feed is in ON: the die loses its power (R41, R47, R901). -/
def removePower (s : State) : State :=
  if anyOn s then s
  else
    let t := dieUnpowered s
    { t with comp := railsOff s.comp, boot := { t.boot with compDone := false, dieDone := false } }

/-- STATUS_INPUT bit that a trip cause sets: OV fault 7, OC fault 2 (PRESUMED, PMBus 1.4). -/
def tripStatus : TripCause → Byte
  | .ov => 0x80
  | .ocTimer => 0x04
  | .ocFast => 0x04
  | _ => 0

/-- Feed `f` trips (R37, R40, R43, R44, R47): the pass transistor turns off, status is set, a FEED_TRIP record appended; when no feed
stays in ON the die loses its power and the next start carries EFUSE_TRIP. (DEDUCED: log entry 12.) -/
def tripFeed (s : State) (f : Nat) (cause : TripCause) : State :=
  let x := s.feed f
  let wasOn := x.state = .on
  let s1 := s.setFeed f
    { x with state := .tripped, cause := cause, node := 0, gate := 0, oring := false
             statusInput := x.statusInput ||| tripStatus cause }
  let s2 := cpRaise s1 (BitVec.ofNat 32 (2 ^ f + 4 * b2n wasOn + 32 * b2n (cause = .ov)))
  let s3 := if cause = .rampTimeout then { s2 with comp := { s2.comp with pmb := { s2.comp.pmb with statusMfr := s2.comp.pmb.statusMfr ||| 2 } } } else s2
  let stays := (s3.feed (otherFeed f)).state = .on
  let s4 := companionAppend s3 0x0B01 (if stays then 0 else 3) f (fields 20 [(0, le 1 4), (1, le 1 cause.code)])
  if stays then s4 else removePower { s4 with comp := { s4.comp with efuse := true } }

/-- FEED_QUALIFY (R35, R36, R896): VIN, in mV, above the UV rising threshold takes a feed in OFF to QUALIFY. (DEDUCED: log entry 12.) -/
def execFeedQualify (f : Fin 2) (vin : Nat) (s : State) : Out :=
  let x := s.feed f
  if s.comp.running && x.state = .off && x.operation && x.uvLimit + 2000 < vin then
    .next (s.setFeed f { x with state := .qualify, cause := .none })
  else .next s

/-- QUALIFY_WINDOW_EXPIRY (R35, R911): the ramp starts from 0 V. -/
def execQualifyWindowExpiry (f : Fin 2) (s : State) : Out :=
  let x := s.feed f
  if x.state = .qualify then .next (s.setFeed f { x with state := .ramp, node := 0, oring := true }) else .next s

/-- VIN_OUT_OF_WINDOW (R35). (DEDUCED: log entry 12.) -/
def execVinOutOfWindow (f : Fin 2) (vin : Nat) (s : State) : Out :=
  let x := s.feed f
  if x.state = .qualify && (vin < x.uvLimit || x.ovLimit < vin) then .next (s.setFeed f { x with state := .off }) else .next s

/-- FEED_POWER_GOOD (R38, R41, R170, R897, R911): the output node is within 1.0 V of VIN; the first feed in ON enables the loads. (DEDUCED: log entry 12.) -/
def execFeedPowerGood (f : Fin 2) (node vin : Nat) (s : State) : Out :=
  let x := s.feed f
  if x.state = .ramp && vin ≤ node + 1000 && node ≤ vin + 1000 then
    let first := !anyOn s
    let s1 := s.setFeed f { x with state := .on, node := node, oring := true }
    if first then
      .next { s1 with comp := { s1.comp with railsOn := true, railsGood := 0, railWait := false, railRetries := s1.comp.retryPolicy }
                      boot := { s1.boot with compDone := true } }
    else .next s1
  else .next s

/-- RAMP_TIMEOUT (R40). (DEDUCED: log entry 12.) -/
def execRampTimeout (f : Fin 2) (s : State) : Out :=
  if (s.feed f).state = .ramp then .next (tripFeed s f .rampTimeout) else .next s

/-- VIN_UV_FALL (R35, R36): the feed leaves ON; bit 4 of STATUS_INPUT is the UV fault. -/
def execVinUvFall (f : Fin 2) (vin : Nat) (s : State) : Out :=
  let x := s.feed f
  if x.state = .on && vin < x.uvLimit then
    .next (cpRaise (s.setFeed f { x with state := .off, node := 0, oring := false, statusInput := x.statusInput ||| 0x10 }) 4)
  else .next s

/-- OV_TRIP (R37); with a fast trip in the same µs the cause recorded is OC_FAST (R89). -/
def execOvTrip (f : Fin 2) (vin : Nat) (fast : Bool) (s : State) : Out :=
  let x := s.feed f
  if x.state = .on && x.ovLimit < vin then
    .next (if fast then tripFeed (cpRaise s 32) f .ocFast else tripFeed s f .ov)
  else .next s

/-- The e-fuse acts on a feed that its pass transistor feeds: ON, or RAMP (R35). -/
def feedLive (x : Feed) : Bool := x.state = .on || x.state = .ramp

/-- OC_TIMER_TRIP (R43): current in mA. -/
def execOcTimerTrip (f : Fin 2) (iin : Int) (s : State) : Out :=
  let x := s.feed f
  if feedLive x && (x.ocLimit : Int) < iin then .next (tripFeed s f .ocTimer) else .next s

/-- OC_FAST_TRIP (R44). -/
def execOcFastTrip (f : Fin 2) (iin : Int) (s : State) : Out :=
  let x := s.feed f
  if feedLive x && ((2 * x.ocLimit : Nat) : Int) < iin then .next (tripFeed s f .ocFast) else .next s

/-- OC_WARN (R45): the IIN warning is bit 1 of STATUS_INPUT. -/
def execOcWarn (f : Fin 2) (iin : Int) (s : State) : Out :=
  let x := s.feed f
  if feedLive x && (x.ocWarn : Int) < iin then
    .next (cpRaise (s.setFeed f { x with statusInput := x.statusInput ||| 2 }) 0x100)
  else .next s

/-- RETRY_TIMER_EXPIRY (R46, R898): of feed A, of feed B, or of the die-rail sequence. (DEDUCED: log entry 12.) -/
def execRetryTimerExpiry (who : Fin 3) (s : State) : Out :=
  if who.val = 2 then
    if s.comp.railWait && anyOn s then
      if s.comp.railRetries = 0 then .next { s with comp := { s.comp with railWait := false } }
      else .next { s with comp := { s.comp with railWait := false, railsOn := true, railsGood := 0, railRetries := s.comp.railRetries - 1 } }
    else .next s
  else
    let x := s.feed who
    if x.state = .tripped then
      if x.retries = 0 then .next (s.setFeed who { x with state := .latched })
      else .next (s.setFeed who { x with state := .qualify, cause := .none, retries := x.retries - 1 })
    else .next s

/-- RETRY_COUNT_RESTORE (R46). -/
def execRetryCountRestore (f : Fin 2) (s : State) : Out :=
  let x := s.feed f
  if x.state = .on then .next (s.setFeed f { x with retries := s.comp.retryPolicy }) else .next s

/-- INRUSH_SLEW_ADJUST (R39, R911): every 10 µs of RAMP, from the slew measured in mV/ms, the gate current is adjusted. -/
def execInrushSlewAdjust (f : Fin 2) (slew : Nat) (s : State) : Out :=
  let x := s.feed f
  if x.state = .ramp then
    .next (s.setFeed f { x with node := x.node + slew / 100, gate := Config.gateLevel (500 * s.comp.inrushSlew) slew x.gate })
  else .next s

/-- REVERSE_CURRENT_TRIP (R48, R50): the ORing transistor turns off; the feed's state stays. (DEDUCED: log entry 12.) -/
def execReverseCurrentTrip (f : Fin 2) (iin : Int) (s : State) : Out :=
  let x := s.feed f
  if x.oring && iin < -1000 then
    let s1 := s.setFeed f { x with oring := false, cause := .reverse }
    .next { s1 with comp := { s1.comp with pmb := { s1.comp.pmb with statusMfr := s1.comp.pmb.statusMfr ||| 1 } } }
  else .next s

/-- ORING_MODE_APPLY (R51): the stored mode comes into force once both feeds are in ON. -/
def execOringModeApply (s : State) : Out :=
  let a := s.feed 0
  let b := s.feed 1
  if a.state = .on && b.state = .on && s.comp.oringStored ≠ s.comp.oringInForce then
    let s1 := (s.setFeed 0 { a with oring := true }).setFeed 1 { b with oring := true }
    .next { s1 with comp := { s1.comp with oringInForce := s.comp.oringStored } }
  else .next s

/-- Bays that ramp now (R55). -/
def ramping (s : State) : Nat := ((List.range 8).filter (fun n => (tget Bay.init s.comp.bays n).state = .ramping)).length

def setBay (s : State) (n : Nat) (b : Bay) : State := { s with comp := { s.comp with bays := tset s.comp.bays n b } }

/-- The lowest bay that waits for a ramp place. (DEDUCED: log entry 13.) -/
def queuedBay (s : State) : Option Nat := (List.range 8).find? (fun n => (tget Bay.init s.comp.bays n).queued)

/-- SLOT_ON_REQUEST (R53, R55, R41): the bay starts to ramp, or waits for a place. -/
def execSlotOnRequest (bay : Fin 8) (s : State) : Out :=
  let b := tget Bay.init s.comp.bays bay
  if s.comp.running && !s.comp.updating && anyOn s && s.comp.slotCtrl.getLsbD bay && (b.state = .off || b.state = .slotFault) && !b.queued then
    if ramping s < 2 && (queuedBay s).isNone then .next (setBay s bay { state := .ramping, queued := false })
    else .next (setBay s bay { b with queued := true })
  else .next s

/-- SLOT_OFF_REQUEST (R57, R89): the bay's switches open, a ramp stops, a request in waiting is withdrawn. -/
def execSlotOffRequest (bay : Fin 8) (s : State) : Out :=
  let b := tget Bay.init s.comp.bays bay
  if s.comp.running && !s.comp.updating && !s.comp.slotCtrl.getLsbD bay && (b.state ≠ .off || b.queued) then
    .next (setBay s bay { state := if b.state = .off then .off else .discharging, queued := false })
  else .next s

/-- BAY_RAMP_START (R55): the next requested bay in ascending number. (DEDUCED: log entry 13.) -/
def execBayRampStart (s : State) : Out :=
  match queuedBay s with
  | some n => if ramping s < 2 then .next (setBay s n { state := .ramping, queued := false }) else .next s
  | none => .next s

/-- 3V3AUX is gone: rails and feeds are off, what the companion does not retain is lost (R902). (DEDUCED: log entry 14.) -/
def auxGone (s : State) : State :=
  let t := dieUnpowered s
  { t with
    comp := { Companion.init with aon := s.comp.aon, aux := false }
    boot := { t.boot with compDone := false, dieDone := false } }

/-- AUX_LOSS (R59, R902). (DEDUCED: log entry 14.) -/
def execAuxLoss (s : State) : Out := if s.comp.aux then .next (auxGone s) else .next s

/-- Completes an interrupted update of the reset counter (R62). (DEDUCED: log entry 14.) -/
def recoverCounter (s : State) : State :=
  let a := s.comp.aon
  if a.rcState = 0x5A#8 then { s with comp := { s.comp with aon := cntWrite a (cntNext a.cntB) 11 } }
  else if a.rcState = 0xA5#8 then { s with comp := { s.comp with aon := { a with cntB := a.cntA, rcState := 0 } } }
  else if a.cntA ≠ a.cntB then
    companionAppend { s with comp := { s.comp with aon := { a with cntB := a.cntA } } } 0x0B04 0 255
      (fields 20 [(0, le 4 a.cntA.toNat), (4, le 4 a.cntB.toNat)])
  else s

/-- Counts a die-level reset and writes its cause record (R60, R61, R64). (DEDUCED: log entry 14.) -/
def countReset (s : State) (cause : Nat) : State :=
  writeCause { s with comp := { s.comp with aon := s.comp.aon.increment } } cause

/-- COMPANION_START (R60, R62, R895): ADDR is sampled, an interrupted update completed, the power-on reset counted. (DEDUCED: log entry 14.) -/
def execCompanionStart (addr : Fin 8) (s : State) : Out :=
  if s.comp.running then .next s
  else
    let s1 := { s with comp := { s.comp with aux := true, running := true, addr := addr.val } }
    let s2 := countReset (recoverCounter s1) 0
    .next { s2 with comp := { s2.comp with porCounted := true } }

/-- DIE_RSTOUT_FALL (R60, R61, R64, R130): the companion counts the reset and records its cause. `cut` is the number of cell writes
done when both 3V3AUX and the hold-up fail (R62). -/
def execDieRstoutFall (cut : Option Nat) (s : State) : Out :=
  if s.comp.running && s.rst.powered && s.rst.rstoutLow && !s.rst.sampled then
    match cut with
    | some k =>
      let a := s.comp.aon
      .next (auxGone { s with comp := { s.comp with aon := cntWrite a (cntNext a.cntA) (min k 10) } })
    | none =>
      let s1 := countReset { s with rst := { s.rst with sampled := true } } s.rst.kind.code
      if s.rst.kind = .thermal then
        .next { s1 with comp := { s1.comp with vreg := { s1.comp.vreg with setpoint := 0, settled := false, lastSettled := 0 } } }
      else .next s1
  else .next s

/-- DIE_RSTOUT_RISE (R64, R114, R170): the second sample; a cause that a merge changed is written again with the same CNT_LOW. -/
def execDieRstoutRise (s : State) : Out :=
  if s.comp.running && s.rst.powered && s.rst.rstoutLow && s.rst.sampled && s.rst.socOut then
    let a := s.comp.aon
    .next { s with
      rst := { s.rst with rstoutLow := false }
      comp := { s.comp with aon := if a.cause = s.rst.kind.code then a else { a with cause := s.rst.kind.code } }
      boot := { s.boot with compDone := false } }
  else .next s

/-- DIE_RAIL_GOOD (R897, R899): the next rail is enabled; after the last, MODPWR_OK is released. -/
def execDieRailGood (s : State) : Out :=
  if s.comp.railsOn && anyOn s && s.comp.railsGood < 6 then
    let n := s.comp.railsGood + 1
    let v := s.comp.vreg
    .next { s with comp := { s.comp with
      railsGood := n, modpwr := n = 6
      vreg := if n = 6 then { v with setpoint := 650, settled := true, lastSettled := 650 } else v } }
  else .next s

/-- DIE_RAIL_TIMEOUT (R898): the rails go in reverse order, REG_FAULT is appended, and the sequence waits to be tried again. -/
def execDieRailTimeout (s : State) : Out :=
  if s.comp.railsOn && anyOn s && s.comp.railsGood < 6 then
    let s1 := companionAppend s 0x0B03 1 255
      (fields 20 [(0, le 2 s.comp.vreg.statusWord.toNat), (2, le 1 2), (3, le 1 (s.comp.railsGood + 1))])
    .next { s1 with comp := { s1.comp with railsGood := 0, railsOn := false, railWait := true } }
  else .next s

/-- FEEDS_LOST (R41, R885, R901). -/
def execFeedsLost (s : State) : Out :=
  if s.comp.running && !anyOn s && (s.comp.railsOn || s.comp.railWait || s.comp.modpwr || s.rst.powered) then .next (removePower s)
  else .next s

/-- A setpoint is requested of the fabric regulator (R74, R76, R84): the latest one is driven; under a regulator fault the last settled one is
held. -/
def vregWrite (s : State) (mv : Nat) (seq : W16) : State :=
  if s.comp.running && s.comp.modpwr && !s.comp.updating then
    let v := s.comp.vreg
    { s with comp := { s.comp with vreg :=
      { v with request := mv % 4096, requestSeq := seq
               setpoint := if v.fault then v.setpoint else mv % 4096, settled := if v.fault then v.settled else false } } }
  else s

/-- VREG_REQUEST (R74, R76, R84). -/
def execVregRequest (mv : Nat) (seq : W16) (s : State) : Out := .next (vregWrite s mv seq)

/-- VREG_SETTLED (R74): READ_VOUT is within 10 mV of the setpoint. -/
def execVregSettled (vout : Nat) (s : State) : Out :=
  let v := s.comp.vreg
  if s.comp.running && !v.fault && !v.settled && v.setpoint ≠ 0 && vout ≤ v.setpoint + 10 && v.setpoint ≤ vout + 10 then
    .next (cpRaise { s with comp := { s.comp with vreg := { v with settled := true, lastSettled := v.setpoint } } } 0x800)
  else .next s

/-- REG_FAULT_DETECTED (R84): the last settled setpoint is held. -/
def execRegFaultDetected (noAck : Bool) (statusWord : W16) (s : State) : Out :=
  let v := s.comp.vreg
  if s.comp.running && !v.fault then
    let w := if noAck then v.statusWord else statusWord
    let s1 := { s with comp := { s.comp with vreg :=
      { v with fault := true, setpoint := v.lastSettled, settled := true, statusWord := w } } }
    .next (companionAppend (cpRaise s1 0x10) 0x0B03 1 255
      (fields 20 [(0, le 2 w.toNat), (2, le 1 (b2n noAck)), (3, le 1 255)]))
  else .next s

/-- TELEMETRY_REFRESH (R70, R87): nothing changes during a companion firmware update. -/
def execTelemetryRefresh (t : Telemetry) (s : State) : Out :=
  if s.comp.running && !s.comp.updating then
    let s1 := (s.setFeed 0 { s.feed 0 with vin := t.vinA % 65536, iin := t.iinA, ein := t.einA }).setFeed 1
      { s.feed 1 with vin := t.vinB % 65536, iin := t.iinB, ein := t.einB }
    .next { s1 with comp := { s1.comp with tempBoard := t.board, tempInlet := t.inlet, pin := t.pin % 16777216 } }
  else .next s

/-- The VIN at which the bus sits: the higher feed in ON, or the lower one in sharing mode (R51, R72). (DEDUCED: log entry 17.) -/
def presentVin (s : State) : Nat :=
  let a := s.feed 0
  let b := s.feed 1
  if a.state = .on && b.state = .on then (if s.comp.oringInForce then min a.vin b.vin else max a.vin b.vin)
  else if a.state = .on then a.vin
  else if b.state = .on then b.vin
  else 0

/-- FASTCAP_THRESHOLD_RELOAD (R72, R85), in 10 mA. (DEDUCED: log entry 17.) -/
def execFastcapThresholdReload (s : State) : Out :=
  let v := presentVin s
  if s.comp.running && !s.comp.updating && v ≠ 0 then
    .next { s with comp := { s.comp with
      hwTotal := s.comp.fastcapLimit * 10000 / v
      hwFeed := [(0, (s.feed 0).ocLimit * 9 / 100), (1, (s.feed 1).ocLimit * 9 / 100)] } }
  else .next s

/-- ERRLOG_COMMIT (R67): the staged record is appended. -/
def execErrlogCommit (s : State) : Out :=
  if s.comp.running && !s.comp.updating then
    let b := (List.range 16).flatMap (fun i => le 4 (tget 0 s.comp.stage i).toNat)
    .next { s with comp := { s.comp with aon := s.comp.aon.append b } }
  else .next s

end Sys2Proof.Machine
end

