-- ==== Sys2Proof/Machine/PowerOps.lean ====
section
/-! DEFINITION. The power controller: predicted power, ceilings, heard modules, the steward, grants (R754, R775–R794). -/

namespace Sys2Proof.Machine

/-- The power controller works: the die is out of reset and not asleep (R754, R793). -/
def pcLive (s : State) : Bool := s.rst.powered && s.rst.socOut && (s.pow.state = .run || s.pow.state = .idle) && !s.pow.offWait

/-- THROTTLE packets and interrupts for a change of the divider, of the reasons or of FASTCAP (R826, R873). -/
def noteThrottle (s0 s : State) : State :=
  if ((pwStatus s ^^^ pwStatus s0) &&& 0x01FF1F00#32) = 0 then s else traceThrottle s

/-- The answer of a step that may have changed what throttles the fabric. -/
def nextPow (s0 s : State) : Out := nextN s0 (noteThrottle s0 s)

/-- CAP_CHANGE when the cap in force has moved by 25 W or more from the one last reported (R806). (DESIGN CHOICE: log entry 59.) -/
def tellCap (s : State) : State :=
  let cap := capInForce s
  if cap < s.pow.capTold + 25 && s.pow.capTold < cap + 25 then s
  else
    eventAll { s with pow := { s.pow with capTold := cap } } 0x0B03
      (le 2 cap ++ le 2 (grantInForce s) ++ le 1 (activeReasons s))

/-- Power predicted at a divider's place, in mW, from the fabric estimate and the rest (R777). -/
def predict (s : State) (k pFab pBase : Nat) : Nat :=
  let v := setpointOf k
  let now := s.comp.vreg.lastSettled
  pBase + pFab * s.clk.div * (v * v) / (divOf k * (now * now))

/-- Place of the fastest divider whose predicted power fits the cap in force; ÷12 when none does (R776, R777). -/
def fitOf (s : State) (pFab pBase : Nat) : Nat :=
  ((List.range 5).find? (fun k => predict s k pFab pBase ≤ capInForce s * 1000)).getD 4

/-- FCLK goes to the slowest of the ceilings (R75, R776, R778): a fall at once; a rise by one step a millisecond, once its setpoint has
settled; a setpoint that is no longer needed is lowered; a regulator that a thermal trip turned off is asked for its setpoint (R130). (DEDUCED: log entries 11, 62.) -/
def evaluateCeiling (s : State) : State :=
  if !(s.clk.run && pcLive s) then s
  else
    let top := slowestCeiling s
    let now := divIdx s.clk.div
    let v := s.comp.vreg
    let ask (d : Option Nat) (t : State) : State := { t with clk := { t.clk with divReq := d } }
    if now < top then ask (some (divOf top)) s
    else if v.setpoint < setpointOf now then ask none (vregWrite s (setpointOf now) (v.requestSeq + 1))
    else if top < now then
      let mv := setpointOf (now - 1)
      if v.setpoint < mv then ask none (vregWrite s mv (v.requestSeq + 1))
      else if v.settled && (s.pow.lastRise = 0 || s.pow.lastRise + 1000000 ≤ s.time) then ask (some (divOf (now - 1))) s
      else ask none s
    else if setpointOf now < v.setpoint then ask none (vregWrite s (setpointOf now) (v.requestSeq + 1))
    else ask none s

/-- The name by which this module stands in its own records: its LINK_ID, or 255. (DESIGN CHOICE: log entry 59.) -/
def selfId (s : State) : Nat := s.link.linkId.getD 255

/-- Modules of the domain whose last DEMAND is at most 30 ms old (R789). -/
def heardNow (s : State) : Tab Heard :=
  s.pow.heard.filter (fun h => h.2.demand.domain = s.pow.domain && (s.time - h.2.at_).toNat ≤ 30000000)

/-- The steward that this module sees: the heard, eligible module with the lowest link-ID that is not leaving (R789, R807). (DEDUCED: log entry 60.) -/
def stewardOf (s : State) : Option Nat :=
  ((heardNow s).filter (fun h => h.2.demand.eligible && !h.2.demand.leaving)).foldl
    (fun best h => match best with | some b => if h.1 < b then some h.1 else best | none => some h.1) none

/-- The steward is determined anew, with STEWARD_CHANGE (R789, R806). (DEDUCED: log entry 60.) -/
def noteSteward (s : State) : State :=
  let x := stewardOf s
  if x = s.pow.steward then s
  else eventDev { s with pow := { s.pow with steward := x } } 0x0B02 (le 1 (x.getD 255) ++ le 1 (b2n s.pow.floorMode))

/-- A later stamp is newer; of equal stamps the lower link-ID's (R784). (DEDUCED: log entry 60.) -/
def newer (a b : Budget) : Bool := b.stamp < a.stamp || (a.stamp = b.stamp && a.link < b.link)

/-- A rack budget is adopted when its stamp is newer (R785), except during a companion firmware update (R794). -/
def adoptBudget (s : State) (b : Budget) : State :=
  if newer b s.pow.budget && !s.comp.updating then { s with pow := { s.pow with budget := b } } else s

/-- The die takes a rack budget written here: it is stamped, held, and sent to every link-ID with a route entry (R784, R785). SOURCE is 0
for PMBus and 1 for the mailbox. (DEDUCED: log entry 60.) -/
def takeBudget (s : State) (value source : Nat) : State :=
  let b : Budget := { value := value, stamp := s.time.toNat, link := selfId s }
  let body := le 1 s.pow.domain ++ le 1 source ++ le 2 value ++ le 4 0 ++ le 8 b.stamp
  (routedIds s).foldl (fun t d => sendMgmt t d 255 255 0x0003 body) (adoptBudget s b)

/-- The body of a DEMAND (R788). -/
def demandBody (d : Demand) : List Byte :=
  le 1 d.domain ++ le 1 (b2n d.eligible + 2 * b2n d.leaving + 4 * b2n d.hold + 8 * b2n d.floorMode) ++ le 2 d.demand ++ le 2 d.floor
    ++ le 2 d.power ++ le 2 d.budget ++ le 1 d.budgetLink ++ List.replicate 5 0 ++ le 8 d.budgetStamp ++ le 4 d.round ++ le 4 0

/-- A DEMAND with DEMAND_W `w`. (DESIGN CHOICE: log entry 59.) -/
def demandOf (s : State) (w : Nat) (leaving : Bool) : Demand :=
  { src := selfId s, domain := s.pow.domain, eligible := s.pow.eligible, leaving := leaving, hold := s.comp.updating
    floorMode := s.pow.floorMode, demand := w, floor := s.comp.floorShare, power := s.pow.powerW, budget := s.pow.budget.value
    budgetLink := s.pow.budget.link, budgetStamp := s.pow.budget.stamp, round := s.pow.round.toNat }

/-- A DEMAND is taken as received (R785, R789). -/
def hearDemand (s : State) (d : Demand) : State :=
  if d.domain ≠ s.pow.domain then s
  else
    let t := { s with pow := { s.pow with heard := tset s.pow.heard d.src { at_ := s.time, demand := d } } }
    noteSteward (adoptBudget t { value := d.budget, stamp := d.budgetStamp, link := d.budgetLink })

/-- A DEMAND goes to every link-ID with a route entry, and is taken as received here (R788). -/
def sendDemand (s : State) (w : Nat) (leaving : Bool) : State :=
  let d := demandOf s w leaving
  hearDemand ((routedIds s).foldl (fun t i => sendMgmt t i 255 255 0x0001 (demandBody d)) s) d

/-- The greatest number below 2^`n` for which the monotone test holds, with `lo` added. -/
def largest (n lo : Nat) (ok : Nat → Bool) : Nat :=
  match n with
  | 0 => lo
  | n + 1 => largest n (if ok (lo + 2 ^ n) then lo + 2 ^ n else lo) ok

/-- Sum of the second components. -/
def total (l : List (Nat × Nat)) : Nat := (l.map (fun x => x.2)).foldl (· + ·) 0

/-- Every share is raised by one common whole amount, each stopping at its limit, as far as the sum allows (R791). -/
def raiseTo (l : List (Nat × Nat)) (limit : Nat → Nat) (a : Nat) : List (Nat × Nat) :=
  let at_ (e : Nat) : List (Nat × Nat) := l.map (fun x => (x.1, max x.2 (min (x.2 + e) (limit x.1))))
  at_ (largest 17 0 (fun e => total (at_ e) ≤ a))

/-- Whole watts that remain go one each to modules in ascending link-ID, while below 1,600 W (R791). (DEDUCED: log entry 60.) -/
def handOut : List (Nat × Nat) → Nat → List (Nat × Nat)
  | [], _ => []
  | x :: r, n => if 0 < n && x.2 < 1600 then (x.1, x.2 + 1) :: handOut r (n - 1) else x :: handOut r n

/-- Shares of the modules of S, in ascending link-ID, from a sum of `a` watts that reaches 400 W each (R791). -/
def shares (ms : List (Nat × Demand)) (a : Nat) : List (Nat × Nat) :=
  let n := ms.length
  let limit (i : Nat) : Nat := ((ms.find? (fun m => m.1 = i)).map (fun m => m.2.demand)).getD 0
  let b := ms.map (fun m => (m.1, max 400 (min m.2.demand m.2.floor)))
  let g :=
    if a < total b then b.map (fun x => (x.1, 400 + (x.2 - 400) * (a - 400 * n) / (total b - 400 * n)))
    else raiseTo (raiseTo b limit a) (fun _ => 1600) a
  handOut g (a - total g)

/-- The grants that a steward gives: whether they are SHORT, and the watts of each module (R791). `far` counts unheard modules whose last
DEMAND carried LEAVING. (DEDUCED: log entry 60.) -/
def grantsOf (budget expected far : Nat) (ms : List (Nat × Demand)) : Bool × List (Nat × Nat) :=
  if budget = 0 then (false, ms.map (fun m => (m.1, 1600)))
  else
    let out := ms.filter (fun m => m.2.leaving)
    let held := ms.filter (fun m => m.2.hold && !m.2.leaving)
    let rest := ms.filter (fun m => !m.2.hold && !m.2.leaving)
    let fixed := 70 * out.length + total (held.map (fun m => (m.1, m.2.demand)))
    let reserve := 70 * far + 1600 * (expected - ms.length - far)
    let a := budget - fixed - reserve
    if budget < fixed + reserve + 400 * rest.length then (true, rest.map (fun m => (m.1, 400)))
    else (false, shares rest a)

/-- The body of a GRANT (R788). -/
def grantBody (g : Grant) : List Byte :=
  le 1 g.domain ++ le 1 (b2n g.short) ++ le 2 g.watts ++ le 4 g.round ++ le 2 g.budget ++ le 1 g.heard ++ List.replicate 5 0

/-- A GRANT arrives (R792, R794): a lower grant takes effect, a higher one waits, and the floor share is no longer in force by default. (DEDUCED: log entry 60.) -/
def takeGrant (s : State) (g : Grant) : State :=
  if g.domain ≠ s.pow.domain || s.comp.updating then s
  else
    let now := grantInForce s
    let r := BitVec.ofNat 32 g.round
    let p := { s.pow with floorMode := false }
    if g.watts ≤ now then tellCap { s with pow := { p with grant := g.watts, raise := none, round := r } }
    else tellCap { s with pow := { p with grant := now, raise := some (g.watts, g.round) } }

/-- Energy that the companion has counted on both feeds, in µJ (R800). -/
def einNow (s : State) : W64 := (s.feed 0).ein + (s.feed 1).ein

end Sys2Proof.Machine
end

