-- ==== Sys2Proof/Machine/Budget.lean ====
section
/-! DEFINITION. The rack budget and the steward protocol, POWER.QUERY, POWER.CAP, POWER.BUDGET_CONFIG (R784–R797). -/

namespace Sys2Proof.Machine

/-- RACK_BUDGET_TAKE (R79, R784, R785, R794). (DEDUCED: log entry 16.) -/
def execRackBudgetTake (s : State) : Out :=
  if pcLive s && s.comp.running && s.comp.status.getLsbD 9 && !s.comp.updating then
    nextN s (takeBudget { s with comp := { s.comp with status := s.comp.status &&& ~~~0x200#32 } } s.comp.rackBudget.toNat 0)
  else .next s

/-- BUDGET_RECEIVE (R785, R807): a BUDGET record of module `src`. -/
def execBudgetReceive (src : Fin 128) (domain value stamp : Nat) (s : State) : Out :=
  if pcLive s && domain = s.pow.domain then .next (adoptBudget s { value := value % 65536, stamp := stamp, link := src.val }) else .next s

/-- DEMAND_TRANSMIT (R788, R790, R794): with the fabric's power estimate and the mean input power over the last 10 ms, in mW. (DESIGN CHOICE: log entry 59.) -/
def execDemandTransmit (pFab mean : Nat) (s : State) : Out :=
  if pcLive s then
    let other := slowestCeiling { s with pow := { s.pow with budgetFit := 0 } }
    let w := if s.comp.updating then capInForce s else min s.pow.localCap (predict s other pFab (mean - pFab) / 1000)
    nextN s (sendDemand { s with pow := { s.pow with demandW := w, powerW := sat 65535 (mean / 1000) } } w false)
  else .next s

/-- DEMAND_RECEIVE (R785, R789): a module without a LINK_ID forms a domain on its own. -/
def execDemandReceive (d : Demand) (s : State) : Out :=
  if pcLive s && s.link.linkId.isSome && d.src < 128 then nextN s (hearDemand s d) else .next s

/-- GRANT_COMPUTE (R788, R791, R794): the steward numbers the round and sends every module its grant; its own takes effect as received. (DEDUCED: log entry 60.) -/
def execGrantCompute (s : State) : Out :=
  let t := noteSteward s
  if !pcLive s then .next s
  else if !isStewardNow t then nextN s t
  else
    let ms := heardNow t
    let far := (t.pow.heard.filter (fun h => h.2.demand.leaving && h.2.demand.domain = t.pow.domain && !ms.any (fun m => m.1 = h.1))).length
    let g := grantsOf (10 * t.pow.budget.value) t.pow.expected far (ms.map (fun m => (m.1, m.2.demand)))
    let round := (t.pow.round.toNat + 1) % 2 ^ 32
    let body (w : Nat) : Grant :=
      { domain := t.pow.domain, short := g.1, watts := w, round := round, budget := t.pow.budget.value, heard := ms.length }
    let u := if g.1 then eventDev t 0x0B05 (le 2 t.pow.budget.value ++ le 1 ms.length) else t
    nextPow s (g.2.foldl
      (fun v m => if m.1 = selfId v then takeGrant v (body m.2) else sendMgmt v m.1 255 255 0x0002 (grantBody (body m.2))) u)

/-- GRANT_RECEIVE (R778, R792, R794). (DEDUCED: log entry 60.) -/
def execGrantReceive (src : Fin 128) (g : Grant) (s : State) : Out :=
  if pcLive s && s.link.linkId.isSome && s.link.linkId ≠ some src.val then nextPow s (takeGrant s g) else .next s

/-- GRANT_RAISE_APPLY (R792, R794, R807): while FASTCAP is asserted the raise waits. -/
def execGrantRaiseApply (s : State) : Out :=
  match s.pow.raise with
  | some (w, r) =>
    if pcLive s && !s.comp.fastcap && !s.comp.updating then
      nextPow s (tellCap { s with pow := { s.pow with grant := w, raise := none, round := BitVec.ofNat 32 r } })
    else .next s
  | none => .next s

/-- GRANT_SILENCE_TIMEOUT (R792, R794). -/
def execGrantSilenceTimeout (s : State) : Out :=
  if pcLive s && !s.comp.updating && !s.pow.floorMode then
    nextPow s (tellCap { s with pow := { s.pow with floorMode := true, grant := s.comp.floorShare, raise := none } })
  else .next s

/-- Regions without power as a mask (R774). -/
def gatedMask (s : State) : Nat := maskOf s.pow.gated

/-- POWER_QUERY (R754, R799, and the table of POWER.QUERY). (DESIGN CHOICE: log entry 59.) -/
def execPowerQuery (fn : Fn) (s : State) : Out :=
  withCmd s fn 11 1 fun c s =>
    let p := s.pow
    let flags := b2n (isStewardNow s) + 2 * b2n p.floorMode + 4 * b2n s.comp.fastcap + 8 * b2n s.comp.vreg.fault + 16 * b2n s.comp.updating
    finishOk s fn c.id
      (le 1 p.state.code ++ le 1 s.clk.div ++ le 1 (activeReasons s) ++ le 1 flags ++ le 2 (capInForce s) ++ le 2 (grantInForce s)
        ++ le 2 p.localCap ++ le 2 p.demandW ++ le 2 p.powerW ++ le 2 s.comp.floorShare ++ le 2 p.budget.value ++ le 1 (p.steward.getD 255)
        ++ le 1 (heardNow s).length ++ le 2 s.comp.vreg.lastSettled ++ le 2 (gatedMask s) ++ le 2 (p.dieTemp % 65536).toNat
        ++ le 2 (p.hbmTemp % 65536).toNat ++ le 4 p.round.toNat ++ le 1 p.maxDiv ++ le 1 p.fastcapDiv ++ le 1 p.domain ++ le 1 p.expected)

/-- POWER_CAP (R795). -/
def execPowerCap (fn : Fn) (s : State) : Out :=
  match startable s fn 11 3 with
  | none => .next s
  | some c =>
    let w := c.u16 0
    let d := c.u8 2
    if w < 400 || 1600 < w || !([4, 5, 6, 8, 12].contains d) then .next (finishSt s fn c.id 0x0005)
    else
      let t := { s with pow := { s.pow with localCap := w, maxDiv := d } }
      nextPow s (finishOk (tellCap t) fn c.id (le 2 s.pow.localCap ++ le 1 s.pow.maxDiv))

/-- Refusal of POWER.BUDGET_CONFIG (R796). -/
def budgetConfigBad (c : Consumed) : Bool :=
  let f := c.u8 0
  15 < f || 128 < c.u8 2 || !([5, 6, 8, 12].contains (c.u8 3)) || (bitOf f 2 && (c.u16 6 < 400 || 1600 < c.u16 6))
    || (bitOf f 3 && (c.u16 8 < 400 || 2000 < c.u16 8))

/-- POWER_BUDGET_CONFIG (R80, R784, R794, R796); companion settings and a rack budget are not written during a companion firmware update. -/
def execPowerBudgetConfig (fn : Fn) (s : State) : Out :=
  match startable s fn 11 4 with
  | none => .next s
  | some c =>
    if budgetConfigBad c then .next (finishSt s fn c.id 0x0005)
    else
      let f := c.u8 0
      let t := { s with pow := { s.pow with eligible := bitOf f 0, domain := c.u8 1, expected := c.u8 2, fastcapDiv := c.u8 3 } }
      let open_ := s.comp.running && !s.comp.updating
      let u := { t with comp := { t.comp with
        floorShare := if bitOf f 2 && open_ then c.u16 6 else t.comp.floorShare
        fastcapLimit := if bitOf f 3 && open_ then c.u16 8 else t.comp.fastcapLimit } }
      let v := tellCap (noteSteward (if bitOf f 1 && !s.comp.updating then takeBudget u (c.u16 4) 1 else u))
      nextPow s (finishOk v fn c.id (le 2 v.pow.budget.value ++ le 2 (capInForce v)))

end Sys2Proof.Machine
end

