-- ==== Sys2Proof/Machine/BulkOps.lean ====
section
/-! DEFINITION. BULK transactions as they arrive: whether they are admitted, and what a COMPLETE does (R437, R509, R563, R564, R574). -/

namespace Sys2Proof.Machine

/-- What becomes of a WRITE or ENGINE transaction: discarded, held back for now, refused with a status, or admitted (R434, R437, R563,
R574). -/
inductive Admission where
  | discard
  | hold
  | refuse (status : Nat)
  | take
deriving DecidableEq, Repr

/-- The admission of a WRITE (`engine` = 0) or ENGINE transaction; the stopped state carries Husk buddy traffic only (R854). (UNVERIFIED: log entry 43.) -/
def bulkAdmission (s : State) (b : Bulk) : Admission :=
  if b.content.length < 4096 || 1048576 < b.content.length || (s.faults.stopped && b.engine ≠ 3) then .discard
  else if b.dstPart = 255 then (if b.srcPart = 255 && hasEntry s b.src then .take else .refuse 0x0604)
  else if 15 < b.dstPart || !admits s b.dstPart b.src b.srcPart then .refuse 0x0604
  else
    match (s.pt b.dstPart).fence.state with
    | .draining => .hold
    | .terminating => .refuse 0x0010
    | .closed => .refuse 0x0010
    | .open => if s.hbm.ready then .take else .hold

/-- Poison of content bytes, from the poisoned content words. -/
def bulkPois (b : Bulk) (o n : Nat) : Bool := (span (o / 64) ((o + n - 1) / 64 + 1 - o / 64)).any b.poison.contains

/-- Bytes that arrive for a partition count against its HBM-write regulator (R447). (DEDUCED: log entry 40.) -/
def chargeWrite (s : State) (p n : Nat) : State :=
  let x := s.pt p
  let r := tget Regulator.init x.regs 1
  if 16 ≤ p || r.rate = 0 then s else s.setPt p { x with regs := tset x.regs 1 { r with level := r.level - n } }

/-- Ranges of the device that a WRITE names, when they all lie in the windows of its partition (R509). -/
def bulkPieces (s : State) (b : Bulk) : Option (List (Nat × Nat)) := windowPieces (s.pt b.dstPart).windows b.offset b.content.length

/-- Copies that tracked writes of these ranges need are begun (R681). -/
def claimRanges (s : State) (part : Nat) (rs : List (Nat × Nat)) : State :=
  (rs.flatMap (fun r => granules r.1 r.2)).foldl (fun t g => if frozenLeft t g then cowClaim t part g else t) s

/-- Some granule of these ranges needs a copy first. -/
def rangesFrozen (s : State) (rs : List (Nat × Nat)) : Bool := (rs.flatMap (fun r => granules r.1 r.2)).any (frozenLeft s)

/-- A transfer leaves the list of those outstanding. -/
def dropXfer (s : State) (id : Nat) : State := { s with link := { s.link with xfers := s.link.xfers.filter (fun x => x.id ≠ id) } }

/-- A MOVER_FAIL cause for a transfer that ended with a status (R515). -/
def failCause (status : Nat) : Nat := if status = 0x0604 then 1 else 2

end Sys2Proof.Machine
end

