-- ==== Sys2Proof/Machine/EmbOps.lean ====
section
/-! DEFINITION. Embedding tables: rows, owners, pooling and gradients, and the bundles that carry them (R519–R533). -/

namespace Sys2Proof.Machine

/-- Derived sizes of a table (R520). -/
def EmbTable.rowBytes (t : EmbTable) : Nat := (t.dim * (widthOf t.fmt / 8) + 63) / 64 * 64
def EmbTable.gradBytes (t : EmbTable) : Nat := (t.dim * 4 + 63) / 64 * 64
def EmbTable.blocks (t : EmbTable) : Nat := (t.rows + 4095) / 4096

/-- Table `k` of partition `p`; tables are numbered by partition × 64 + TABLE. -/
def tableOf (s : State) (key : Nat) : Option EmbTable := tfind s.eng.tables key
def setTable (s : State) (key : Nat) (t : EmbTable) : State := { s with eng := { s.eng with tables := tset s.eng.tables key t } }
def modTable (s : State) (key : Nat) (f : EmbTable → EmbTable) : State := (tableOf s key).elim s (fun t => setTable s key (f t))

/-- The table of partition `p` with a TABLE_KEY. -/
def tableByKey (s : State) (p key : Nat) : Option (Nat × EmbTable) := s.eng.tables.find? (fun e => e.1 / 64 = p && e.2.key.toNat = key)

/-- Owner-map entry of block `b`: owner's index and slot (R522). -/
def ownerEntry (s : State) (t : EmbTable) (b : Nat) : Nat × Nat := let v := leNat (devBytes s (t.owner + 4 * b) 4); (v % 256, v / 256)

/-- Address of row `i` held in slot `k`, and of its gradient (R522). -/
def EmbTable.rowAt (t : EmbTable) (k i : Nat) : Nat := t.shard + (k * 4096 + i % 4096) * t.rowBytes
def EmbTable.gradAt (t : EmbTable) (k i : Nat) : Nat := t.grad + (k * 4096 + i % 4096) * t.gradBytes

/-- Where a row is served from (R527): an address in this device's memory, or the index of its owner. -/
inductive RowHome where
  | replica (addr : Nat)
  | shard (addr : Nat)
  | remote (owner : Nat)
deriving DecidableEq, Repr

def rowHome (s : State) (t : EmbTable) (i : Nat) : RowHome :=
  match tfind t.directory i with
  | some k => .replica (t.replica + k * t.rowBytes)
  | none => let o := ownerEntry s t (i / 4096); if o.1 = t.self then .shard (t.rowAt o.2 i) else .remote o.1

/-- Element `e` of a row's bytes as an FP32 code (R526). -/
def elemF32 (fmt : Nat) (b : List Byte) (e : Nat) : Nat := widenLane fmt (rd (widthOf fmt / 8) b (e * (widthOf fmt / 8)))

/-- FP32 operations, each rounded once (R280). -/
def f32Add (a b : Nat) : Nat := fp32.code .rne false ((fp32.value a).add (fp32.value b))
def f32Mul (a b : Nat) : Nat := fp32.code .rne false ((fp32.value a).mul (fp32.value b))
def f32Div (a n : Nat) : Nat := fp32.code .rne false ((fp32.value a).div (Fl.ofInt n))

/-- Bytes of an element of OUT_FMT, and of a bag's output (R524). -/
def EmbDesc.outBytes (d : EmbDesc) (dim : Nat) : Nat := dim * (widthOf d.outFmt / 8)

/-- The pooled bag of `len` indices (R526): the rows' elements with their weights, in index order. (DEDUCED: log entry 46.) -/
def poolBag (t : EmbTable) (d : EmbDesc) (len : Nat) (rows : List (List Byte × W32)) : List Byte :=
  (List.range t.dim).flatMap (fun e =>
    let sum := rows.foldl (fun acc r => let x := elemF32 t.fmt r.1 e; f32Add acc (if d.weighted then f32Mul x r.2.toNat else x)) 0
    le (widthOf d.outFmt / 8) (cvtLane 0 d.outFmt d.sat false (if d.mean && 0 < len then f32Div sum len else sum)))

/-- What an index contributes in a SCATTER (R529). -/
def contribution (d : EmbDesc) (grad : List Nat) (w : W32) (len : Nat) : List Nat :=
  grad.map (fun g => let x := if d.weighted then f32Mul g w.toNat else g; if d.mean then f32Div x len else x)

/-- Adds a contribution to the sum of its row (R529). -/
def addSum (sums : Tab (List Nat × Bool)) (row : Nat) (x : List Nat) (poison : Bool) : Tab (List Nat × Bool) :=
  match tfind sums row with
  | none => tset sums row (x, poison)
  | some y => tset sums row ((y.1.zip x).map (fun p => f32Add p.1 p.2), y.2 || poison)

/-- The owner adds an update to a row's gradient, rounded once (R530). -/
def applyUpdate (s : State) (key : Nat) (t : EmbTable) (row : Nat) (x : List Nat) (poison : Bool) : State :=
  let o := ownerEntry s t (row / 4096)
  if t.rows ≤ row || o.1 ≠ t.self then s
  else
    let a := t.gradAt o.2 row
    let r := engineRead s a t.gradBytes
    let new := (List.range t.dim).flatMap (fun e => le 4 (f32Add (rd 4 r.1 (4 * e)) (x.getD e 0)))
    let u := engineWrite r.2.2 (key / 64) a (bytesAt new 0 t.gradBytes) (fun i n => poison || touchesAny r.2.1 (a + i) n)
    modTable u key (fun t => { t with touched := sins t.touched row })

/-- Header of a bundle (R532). -/
def bundleHeader (s : State) (kind part dstPart : Nat) (t : EmbTable) (seq count step length : Nat) : List Byte :=
  fields 64 [(0, le 4 0x42455256), (4, le 1 kind), (5, le 1 part), (6, le 1 (s.link.linkId.getD 255)), (7, le 1 dstPart), (8, le 4 t.key.toNat)
    , (12, le 4 seq), (16, le 4 count), (20, le 4 step), (24, le 4 length)]

/-- A bundle with its header, padded to 4,096 bytes (R531). -/
def bundleBytes (s : State) (kind part dstPart : Nat) (t : EmbTable) (seq count step : Nat) (body : List Byte) : List Byte :=
  let b := bundleHeader s kind part dstPart t seq count step (64 + body.length) ++ body
  if b.length < 4096 then bytesAt b 0 4096 else bytesAt b 0 ((b.length + 63) / 64 * 64)

/-- Link bytes that a partition's engine commands send count against its link-transmit regulator (R447). -/
def chargeLink (s : State) (p n : Nat) : State :=
  let x := s.pt p
  let r := tget Regulator.init x.regs 2
  if 16 ≤ p || r.rate = 0 then s else s.setPt p { x with regs := tset x.regs 2 { r with level := r.level - n } }

/-- Sends a bundle for an embedding job (0 for none) to member `m` of table `key`: the transfer's number, or none without a route. (DEDUCED: log entry 46.) -/
def sendBundle (s : State) (key job m kind seq count step off : Nat) (body : List Byte) (poison : List Nat) : Option (Nat × State) :=
  match tableOf s key with
  | none => none
  | some t =>
    let dst := t.members.getD m (255, 255)
    let b := bundleBytes s kind (key / 64) dst.2 t seq count step body
    (sendXfer s (.emb job key) dst.1 dst.2 (key / 64) 2 off 1 t.key.toNat b poison).map (fun r =>
      (r.1, chargeLink (modTable r.2 key (fun t => { t with bundles := t.bundles + 1 })) (key / 64) b.length))

/-- The next SEQ of a table, and the table with it taken. -/
def takeSeq (s : State) (key : Nat) : Nat × State :=
  match tableOf s key with
  | none => (0, s)
  | some t => (t.seq, setTable s key { t with seq := (t.seq + 1) % 2 ^ 32 })

/-- Cuts a list into lists of at most `n`. (DEDUCED: log entry 46.) -/
def chunks {α : Type} (fuel n : Nat) (l : List α) : List (List α) :=
  match fuel with
  | 0 => []
  | fuel + 1 => if l.isEmpty then [] else l.take n :: chunks fuel n (l.drop n)

/-- Applies `f` to the embedding job numbered `id`. -/
def modEmb (s : State) (id : Nat) (f : EmbJob → EmbJob) : State :=
  { s with eng := { s.eng with emb := s.eng.emb.map (fun j => if j.id = id then f j else j) } }
def embJobOf (s : State) (id : Nat) : Option EmbJob := s.eng.emb.find? (fun j => j.id = id)

/-- Number of the table that a job names. -/
def EmbJob.key (j : EmbJob) : Nat := j.part * 64 + j.desc.table

/-- An embedding job fails; 255 stands for a cause that the manual gives no code. -/
def embFail (s : State) (id status cause : Nat) : State := modEmb s id (fun y => { y with fail := some (status, cause) })

/-- Sends entries to member `m` in bundles of at most 1 MiB, and has the job wait for their answers. Entry lists are given with their rows. -/
def sendEntries (s : State) (j : EmbJob) (m kind entryBytes : Nat) (entries : List (Nat × List Byte)) : State :=
  (chunks (entries.length + 1) ((0x100000 - 64) / entryBytes) entries).foldl
    (fun t part =>
      let q := takeSeq t j.key
      match sendBundle q.2 j.key j.id m kind q.1 part.length j.desc.step 0 (part.flatMap (fun e => e.2)) [] with
      | none => embFail q.2 j.id 0x0803 2
      | some (x, u) => modEmb u j.id (fun y => { y with waits := y.waits ++ [(q.1, m, part.map (fun e => e.1), x)] })) s

/-- Bags of a descriptor read from OFFSETS, INDICES and WEIGHTS: none when OFFSETS decrease or a bag is too long (R525); the numbers of the
bags whose words were poisoned. -/
def readBags (s : State) (d : EmbDesc) : Option (List (List (Nat × W32)) × List Nat) × State :=
  let o := engineRead s d.offsets (4 * (d.bags + 1))
  let off (k : Nat) : Nat := rd 4 o.1 (4 * k)
  let bad := (List.range d.bags).any (fun k => off (k + 1) < off k || 65535 < off (k + 1) - off k)
  if bad then (none, o.2.2)
  else
    let lo := off 0
    let n := off d.bags - lo
    let i := engineRead o.2.2 (d.indices + 4 * lo) (4 * n)
    let w := if d.weighted then engineRead i.2.2 (d.weights + 4 * lo) (4 * n) else ([], [], i.2.2)
    let bags := (List.range d.bags).map (fun k => (span (off k - lo) (off (k + 1) - off k)).map (fun e => (rd 4 i.1 (4 * e), BitVec.ofNat 32 (rd 4 w.1 (4 * e)))))
    let poisoned := (List.range d.bags).filter (fun k =>
      let a := 4 * off k
      let n := 4 * (off (k + 1) - off k)
      touchesAny o.2.1 (d.offsets + 4 * k) 8 || touchesAny i.2.1 (d.indices + a) n || (d.weighted && touchesAny w.2.1 (d.weights + a) n))
    (some (bags, poisoned), w.2.2)

/-- Counts the rows that a GATHER looks up in the active counter bank, saturating (R538), and in the table's totals (R539). -/
def countLookup (s : State) (key row : Nat) : State :=
  match tableOf s key with
  | none => s
  | some t =>
    let a := t.counter + t.bank * 4 * t.blocks + 4 * (row / 4096)
    let r := engineRead s a 4
    let u := engineWrite r.2.2 (key / 64) a (le 4 (sat 0xFFFFFFFF (leNat r.1 + 1))) clean
    modTable u key (fun t => match rowHome s t row with
      | .replica _ => { t with replicaHits := t.replicaHits + 1 }
      | .shard _ => { t with localLookups := t.localLookups + 1 }
      | .remote _ => { t with remoteLookups := t.remoteLookups + 1 })

/-- The first index at or above ROWS, recorded once for the descriptor (R528). -/
def rangeFault (s : State) (j : EmbJob) (t : EmbTable) (bags : List (List (Nat × W32))) : State :=
  match (bags.flatMap (fun b => b)).find? (fun x => t.rows ≤ x.1) with
  | none => s
  | some x => engineFault s j.part j.jobId 0x0701 (le 1 j.desc.table ++ le 3 0 ++ le 4 x.1)

/-- An earlier STEP of the table is not over: a GATHER or SCATTER waits for it (R534). -/
def behindStep (s : State) (j : EmbJob) : Bool := s.eng.emb.any (fun x => x.id < j.id && x.key = j.key && x.desc.op = 2)

/-- An embedding job may start (R503, R534). -/
def embStartable (s : State) (j : EmbJob) : Bool :=
  !j.started && !s.faults.stopped && j.fail.isNone && s.hbm.ready && (16 ≤ j.part || (s.pt j.part).fence.state = .open)
    && (if j.desc.op = 2 then !(s.eng.emb.any (fun x => x.id < j.id && x.key = j.key)) else !behindStep s j)

/-- The bags of a job that starts, with the failures of R525, R536 and of an absent table. -/
def startBags (s : State) (j : EmbJob) : State :=
  match tableOf s j.key with
  | none => embFail (modEmb s j.id (fun y => { y with started := true })) j.id 0x0702 255
  | some t =>
    let s1 := modEmb s j.id (fun y => { y with started := true })
    if t.diverged then embFail s1 j.id 0x0704 255
    else
      let r := readBags s1 j.desc
      match r.1 with
      | none => embFail r.2 j.id 0x0703 3
      | some (bags, poisoned) =>
        let range := (List.range bags.length).filter (fun k => (bags.getD k []).any (fun x => t.rows ≤ x.1))
        rangeFault (modEmb r.2 j.id (fun y => { y with
          bags := bags, badBags := (poisoned ++ if j.desc.op = 0 then range else []).eraseDups })) j t bags

/-- Remote rows of a GATHER, by owner, as entries of REQUEST bundles (R531, R532). (DEDUCED: log entry 46.) -/
def requestRows (s : State) (j : EmbJob) (t : EmbTable) : List (Nat × List (Nat × List Byte)) :=
  let rows := (j.bags.flatMap (fun b => b.map (fun x => x.1))).filter (fun i => i < t.rows)
  (List.range t.members.length).filterMap (fun m =>
    let mine := rows.filter (fun i => rowHome s t i = .remote m)
    if mine.isEmpty then none else some (m, mine.map (fun i => (i, le 4 i))))

/-- Flag places of a descriptor (R513): the banks of its outputs or gradients; of a STEP, the bank that OUT names. (DEDUCED: log entry 46.) -/
def EmbJob.flagBanks (j : EmbJob) (dim : Nat) : List (Nat × Nat) :=
  if !j.desc.setFlag then []
  else if j.desc.op = 2 then (if isCell j.desc.out then banksIn [(j.desc.out, 1)] else [])
  else banksIn ((List.range j.desc.bags).map (fun k => (j.desc.out + k * j.desc.outStride, j.desc.outBytes dim)))

/-- Sets an embedding descriptor's flags. -/
def embFlags (s : State) (j : EmbJob) : State :=
  (j.flagBanks (((tableOf s j.key).map (fun t => t.dim)).getD 1)).foldl (fun t b => setFlag t b.1 (b.2 + j.desc.flagSet)) s

/-- An embedding job leaves the queue, and an abort that waited for it goes on. -/
def dropEmb (s : State) (j : EmbJob) : State :=
  settleAbort (endLists { s with
    eng := { s.eng with emb := s.eng.emb.filter (fun x => x.id ≠ j.id) }
    link := { s.link with xfers := s.link.xfers.filter (fun x => match x.use with | .emb i _ => i ≠ j.id | _ => true) } }) j.part

/-- Bags of the next segment (R525). -/
def EmbJob.segmentBags (j : EmbJob) (t : EmbTable) : Nat :=
  let each := if j.desc.op = 0 then max 1 (j.desc.outBytes t.dim) else max 1 j.desc.outStride
  min (j.desc.bags - j.next) (max 1 (0x10000 / each))

/-- A job has a segment that waits: a GATHER once every reply is in, a SCATTER until its updates are sent. -/
def EmbJob.waiting (j : EmbJob) : Bool :=
  j.started && !j.ended && j.fail.isNone && j.desc.op ≠ 2 && j.waits.isEmpty && !j.sent

/-- Rows of a bag with their weights, and whether one of them is poisoned (R526, R527). -/
def bagRows (s : State) (t : EmbTable) (j : EmbJob) (bag : List (Nat × W32)) : List (List Byte × W32) × Bool × State :=
  bag.foldl
    (fun (acc : List (List Byte × W32) × Bool × State) x =>
      if t.rows ≤ x.1 then acc
      else
        let at_ (a : Nat) : List (List Byte × W32) × Bool × State :=
          let r := engineRead acc.2.2 a t.rowBytes
          (acc.1 ++ [(r.1, x.2)], acc.2.1 || !r.2.1.isEmpty, r.2.2)
        match rowHome acc.2.2 t x.1 with
        | .replica a => at_ a
        | .shard a => at_ a
        | .remote _ => let r := tget ([], true) j.rows x.1; (acc.1 ++ [(r.1, x.2)], acc.2.1 || r.2, acc.2.2))
    ([], false, s)

/-- The next segment of a GATHER: bags pooled and written (R526). -/
def gatherSegment (s : State) (j : EmbJob) (t : EmbTable) : State :=
  let n := j.segmentBags t
  let u := (span j.next n).foldl
    (fun u k =>
      let bag := j.bags.getD k []
      let r := bagRows u t j bag
      engineWrite r.2.2 j.part (j.desc.out + k * j.desc.outStride) (poolBag t j.desc bag.length r.1) (fun _ _ => r.2.1 || j.badBags.contains k)) s
  modEmb u j.id (fun y => { y with next := j.next + n, ended := j.next + n = j.desc.bags })

/-- The updates of a SCATTER that has reduced every bag: local rows are added, the others sent to their owners (R529–R533). (DEDUCED: log entry 46.) -/
def sendUpdates (s : State) (j : EmbJob) (t : EmbTable) : State :=
  let mine := j.sums.filter (fun e => (ownerEntry s t (e.1 / 4096)).1 = t.self)
  let s1 := mine.foldl (fun u e => (tableOf u j.key).elim u (fun t => applyUpdate u j.key t e.1 e.2.1 e.2.2)) s
  let s2 := (List.range t.members.length).foldl
    (fun u m =>
      let es := j.sums.filter (fun e => m ≠ t.self && (ownerEntry s t (e.1 / 4096)).1 = m)
      let entries := es.map (fun e => (e.1, le 4 e.1 ++ le 4 (b2n e.2.2) ++ bytesAt (e.2.1.flatMap (le 4)) 0 t.gradBytes))
      modTable (sendEntries u j m 2 (8 + t.gradBytes) entries) j.key (fun t => { t with updates := t.updates + BitVec.ofNat 64 es.length })) s1
  modEmb s2 j.id (fun y => { y with sent := true, ended := y.waits.isEmpty && y.fail.isNone })

/-- The next segment of a SCATTER: bags' gradients are read and reduced by row (R529). (DEDUCED: log entry 46.) -/
def scatterSegment (s : State) (j : EmbJob) (t : EmbTable) : State :=
  let n := j.segmentBags t
  let r := (span j.next n).foldl
    (fun (acc : Tab (List Nat × Bool) × State) k =>
      let bag := j.bags.getD k []
      let g := engineRead acc.2 (j.desc.out + k * j.desc.outStride) (j.desc.outBytes t.dim)
      let grad := (List.range t.dim).map (elemF32 j.desc.outFmt g.1)
      let bad := !g.2.1.isEmpty || j.badBags.contains k
      (bag.foldl (fun sums x => if t.rows ≤ x.1 then sums else addSum sums x.1 (contribution j.desc grad x.2 bag.length) bad) acc.1, g.2.2))
    (j.sums, s)
  let u := modEmb r.2 j.id (fun y => { y with next := j.next + n, sums := r.1 })
  if j.next + n = j.desc.bags then (embJobOf u j.id).elim u (fun y => sendUpdates u y t) else u

/-- The embedding engine runs the next segment of a job. -/
def embSegment (s : State) (j : EmbJob) : State :=
  match tableOf s j.key with
  | none => embFail s j.id 0x0702 255
  | some t => if j.desc.op = 0 then gatherSegment s j t else scatterSegment s j t

end Sys2Proof.Machine
end

