-- ==== Sys2Proof/Machine/CollOps.lean ====
section
/-! DEFINITION. The collective mover: the plan of each step, its transfers, its reductions and its end (R587–R593). -/

namespace Sys2Proof.Machine

/-- Bytes of an element of DTYPE, and of a chunk (R587). -/
def Coll.elem (c : Coll) : Nat := if c.dtype = 0 || c.dtype = 3 then 4 else 2
def Coll.chunk (c : Coll) : Nat := c.count / c.n * c.elem

/-- m, where N = 2^m (R590). -/
def Coll.log (c : Coll) : Nat := ((List.range 8).find? (fun m => 2 ^ m = c.n)).getD 0

/-- Steps of a collective (R589, R590). -/
def Coll.phase (c : Coll) : Nat := if c.halving then c.log else c.n - 1
def Coll.steps (c : Coll) : Nat := if c.op = 0 then 2 * c.phase else c.phase

/-- One step: peer to send to, chunks sent (first and how many), peer received from, chunks received, and whether they are reduced. -/
structure CollStep where
  dst : Nat
  sendAt : Nat
  sendN : Nat
  src : Nat
  recvAt : Nat
  recvN : Nat
  reduce : Bool
deriving DecidableEq, Repr

/-- Step `s` of rank `r` in a ring of N (R589). -/
def ringStep (n r s : Nat) (reduce : Bool) : CollStep :=
  let back := if reduce then s + 1 else s
  { dst := (r + 1) % n, sendAt := (r + 2 * n - back) % n, sendN := 1, src := (r + n - 1) % n, recvAt := (r + 2 * n - 1 - back) % n, recvN := 1
    reduce := reduce }

/-- Exchange `j` of rank `r` among 2^m members (R590): before it each holds 2^(m-j) chunks, of which its bit m-1-j keeps a half. -/
def halvingStep (m r j : Nat) (reduce : Bool) : CollStep :=
  let h := 2 ^ (m - 1 - j)
  let base := r / (2 * h) * (2 * h)
  let bit := r / h % 2
  let kept := base + bit * h
  let other := base + (1 - bit) * h
  let peer := if bit = 1 then r - h else r + h
  { dst := peer, src := peer, reduce := reduce, sendAt := if reduce then other else kept, sendN := h, recvAt := if reduce then kept else other
    recvN := h }

/-- What step `s` of the collective does. (DEDUCED: log entry 52.) -/
def Coll.plan (c : Coll) (s : Nat) : CollStep :=
  let reduce := c.op = 2 || (c.op = 0 && s < c.phase)
  let k := if c.op = 0 && c.phase ≤ s then s - c.phase else s
  if c.halving then halvingStep c.log c.rank (if reduce then k else c.phase - 1 - k) reduce else ringStep c.n c.rank k reduce

/-- Collective of partition `p` with KEY `key`. -/
def collOf (s : State) (p : Nat) (key : W32) : Option Coll := s.link.colls.find? (fun c => c.part = p && c.key = key)
def modColl (s : State) (p : Nat) (key : W32) (f : Coll → Coll) : State :=
  { s with link := { s.link with colls := s.link.colls.map (fun c => if c.part = p && c.key = key then f c else c) } }

/-- x ⊕ y of two elements (R591): exact in FP32 and rounded once to DTYPE; INT32 sums wrap unless SAT is set. -/
def reduceElem (c : Coll) (x y : Nat) : Nat :=
  if c.dtype = 3 then
    let a := sext 32 x
    let b := sext 32 y
    intLane c.sat (if c.reduce = 0 then a + b else if c.reduce = 1 then max a b else min a b)
  else
    let f := fmtOf c.dtype
    let a := f.value x
    let b := f.value y
    f.code .rne c.sat (if c.reduce = 0 then a.add b else if c.reduce = 1 then a.max b else a.min b)

/-- Elements of two byte sequences reduced one by one. -/
def reduceBytes (c : Coll) (x y : List Byte) : List Byte :=
  (List.range (x.length / c.elem)).flatMap (fun i => le c.elem (reduceElem c (rd c.elem x (i * c.elem)) (rd c.elem y (i * c.elem))))

/-- A collective ends with a status; DETAIL gives the steps completed. BUF and SCRATCH then hold values that the manual leaves open (R593). (DEDUCED: log entry 52.) -/
def collFail (s : State) (c : Coll) (status : Nat) : State :=
  let s1 := { s with link := { s.link with
    colls := s.link.colls.filter (fun x => !(x.part = c.part && x.key = c.key))
    xfers := s.link.xfers.filter (fun x => x.use ≠ .collective c.part c.key) } }
  let b := openBytes s1 (c.count * c.elem)
  let s2 := engineWrite b.2 c.part c.buf b.1 clean
  let s3 := if c.scratch = 0 then s2 else let x := openBytes s2 (2 * c.chunk); engineWrite x.2 c.part c.scratch x.1 clean
  workDone s3 c.fn c.cmdId ⟨status, c.step, collPayload c⟩

/-- DST_OFFSET of a transfer of a collective: the step above bit 48, and the first byte in BUF. (DEDUCED: log entry 52.) -/
def collOffset (step off : Nat) : Nat := step * 2 ^ 48 + off

/-- The step has a segment to send. -/
def Coll.sending (c : Coll) : Bool := c.started && c.step < c.steps && c.sendPos < (c.plan c.step).sendN * c.chunk

/-- The oldest arrival of the step that runs, to be reduced. -/
def Coll.toReduce (c : Coll) : Option CollIn := if c.started then c.arrivals.find? (fun a => a.step = c.step) else none

/-- Bytes of the next segment: of a transfer, or of one operand of a reduction (R592). -/
def Coll.segment (c : Coll) : Nat :=
  if c.sending then
    let l := (c.plan c.step).sendN * c.chunk
    min 0x10000 (xferEnd l c.sendPos - c.sendPos)
  else match c.toReduce with
    | some a => min 0x10000 (a.data.length - c.reduced)
    | none => 0

/-- A segment of a send: read, and sent when its transfer is whole (R588). -/
def collSend (s : State) (c : Coll) : State :=
  let p := c.plan c.step
  let n := c.segment
  let off := p.sendAt * c.chunk + c.sendPos
  let r := engineRead s (c.buf + off) n
  let at_ := c.sendBuf.length
  let words := (r.2.1.map (fun w => (at_ + (w - (c.buf + off))) / 64)).foldl sins c.sendPoison
  let content := c.sendBuf ++ r.1
  if xferEnd (p.sendN * c.chunk) c.sendPos = c.sendPos + n then
    let dst := c.members.getD p.dst (255, 255)
    match sendXfer r.2.2 (.collective c.part c.key) dst.1 dst.2 c.part 2 (collOffset c.step (off + n - content.length)) 2 c.key.toNat content words with
    | none => collFail r.2.2 c 0x0803
    | some (x, t) =>
      modColl t c.part c.key (fun c => { c with
        sendPos := c.sendPos + n, sendBuf := [], sendPoison := [], xfers := c.xfers ++ [x], bytesSent := c.bytesSent + content.length })
  else modColl r.2.2 c.part c.key (fun c => { c with sendPos := c.sendPos + n, sendBuf := content, sendPoison := words })

/-- Bytes of a step are in their place. -/
def collGot (s : State) (p : Nat) (key : W32) (step n : Nat) : State :=
  modColl s p key (fun c => { c with received := tset c.received step (tget 0 c.received step + n) })

/-- A segment of a reduction: 64 KiB of the received operand with this member's own (R589–R591). The received value is the left operand of a
ring; in an exchange the lower rank's value is. The transfer's COMPLETE follows its last byte. (DEDUCED: log entry 52.) -/
def collReduce (s : State) (c : Coll) (a : CollIn) : State :=
  let n := min 0x10000 (a.data.length - c.reduced)
  let x := bytesAt (a.data.drop c.reduced) 0 n
  let addr := c.buf + a.off + c.reduced
  let own := engineRead s addr n
  let first := !c.halving || (c.plan c.step).src < c.rank
  let y := if first then reduceBytes c x own.1 else reduceBytes c own.1 x
  let u := engineWrite own.2.2 c.part addr y (fun o k => touchesAny own.2.1 (addr + o) k
    || (span ((c.reduced + o) / 64) ((c.reduced + o + k - 1) / 64 + 1 - (c.reduced + o) / 64)).any a.poison.contains)
  if a.data.length ≤ c.reduced + n then
    let v := collGot (modColl u c.part c.key (fun c => { c with arrivals := c.arrivals.filter (fun z => z ≠ a), reduced := 0 })) c.part c.key a.step a.data.length
    sendBulk v a.src 3 a.srcPart c.part a.xfer 0 0 0 0 [] []
  else modColl u c.part c.key (fun c => { c with reduced := c.reduced + n })

/-- The collective mover runs the next segment of a collective. (DEDUCED: log entry 52.) -/
def collSegment (s : State) (c : Coll) : State :=
  if c.sending then collSend s c
  else match c.toReduce with
    | some a => collReduce s c a
    | none => s

/-- A transfer reaches a collective (R588): into SCRATCH for a reduction, whose COMPLETE follows it; else into BUF at once. -/
def collArrive (s : State) (b : Bulk) : State :=
  match collOf s b.dstPart (BitVec.ofNat 32 b.key) with
  | none => sendComplete s b 0x0010
  | some c =>
    let step := b.offset / 2 ^ 48
    let off := b.offset % 2 ^ 48
    let p := c.plan step
    let pois := bulkPois b
    if c.steps ≤ step || off < p.recvAt * c.chunk || (p.recvAt + p.recvN) * c.chunk < off + b.content.length then sendComplete s b 0x0604
    else if p.reduce then
      let u := engineWrite s c.part (c.scratch + step % 2 * c.chunk + (off - p.recvAt * c.chunk) % c.chunk) (b.content.take (c.chunk - (off - p.recvAt * c.chunk) % c.chunk)) pois
      modColl u c.part c.key (fun c => { c with
        arrivals := c.arrivals ++ [{ step := step, off := off, data := b.content, poison := b.poison, src := b.src, srcPart := b.srcPart, xfer := b.xfer }] })
    else
      let u := engineWrite s c.part (c.buf + off) b.content pois
      sendComplete (collGot u c.part c.key step b.content.length) b 0

/-- The step's transfers have completed and its bytes are in their place. -/
def Coll.stepDone (c : Coll) : Bool :=
  c.started && c.step < c.steps && !c.sending && c.xfers.isEmpty && (c.plan c.step).recvN * c.chunk ≤ tget 0 c.received c.step

/-- The next step starts, or the collective completes. -/
def collNext (s : State) (c : Coll) : State :=
  let d := { c with step := c.step + 1, sendPos := 0, sendBuf := [], sendPoison := [] }
  if d.step < d.steps then modColl s c.part c.key (fun _ => d)
  else workDone { s with link := { s.link with colls := s.link.colls.filter (fun x => !(x.part = c.part && x.key = c.key)) } } c.fn c.cmdId
    ⟨0, 0, collPayload d⟩

/-- BARRIER_ID of a collective (R588). -/
def collBarrier (key : W32) : W64 := BitVec.ofNat 64 (key.toNat * 2 ^ 32 + 0xC011)

/-- A RELEASE lets a collective of partition `p` begin; with a RESULT other than AGREE it waits for its timeout (R588, R593). (DEDUCED: log entry 52.) -/
def collRelease (s : State) (p : Nat) (r : SyncRec) : State :=
  match s.link.colls.find? (fun c => c.part = p && !c.started && collBarrier c.key = r.barrier) with
  | some c => if r.result = 0 then modColl s p c.key (fun c => { c with started := true }) else s
  | none => s

/-- The collective that LINK.COLLECTIVE describes (R587). -/
def collRequest (c : Consumed) (p fn : Nat) (members : List (Nat × Nat)) : Coll :=
  { part := p, fn := fn, cmdId := c.id, jobId := c.req.jobId, op := c.u8 0, halving := c.u8 1 = 1, dtype := c.u8 2, reduce := c.u8 3, n := c.u8 4
    rank := c.u8 5, sat := bitOf (c.u8 6) 0, key := BitVec.ofNat 32 (c.u32 8), count := c.u64 16, buf := c.u64 24, scratch := c.u64 32
    members := members, started := false, step := 0, bytesSent := 0, sendPos := 0, sendBuf := [], sendPoison := [], xfers := [], received := []
    arrivals := [], reduced := 0 }

/-- A field of LINK.COLLECTIVE lies outside its range (R587), its members apart. -/
def collBad (c : Consumed) : Bool :=
  let r := collRequest c 0 0 []
  2 < c.u8 0 || 1 < c.u8 1 || 3 < c.u8 2 || 2 < c.u8 3 || c.u8 4 < 2 || 128 < c.u8 4 || c.u8 4 ≤ c.u8 5 || 1 < c.u8 6 || c.u8 7 ≠ 0 || 60000 < c.u32 12
    || c.u64 16 % c.u8 4 ≠ 0 || r.chunk % 64 ≠ 0 || (r.op = 1 && r.scratch ≠ 0) || (r.halving && 2 ^ r.log ≠ r.n)

/-- LINK_COLLECTIVE (R587, R588). -/
def linkCollective (s : State) (fn : Fn) (p : Nat) (c : Consumed) : State :=
  let n := c.u8 4
  let no (st : Nat) (t : State) : State := finishSt t fn c.id st
  if collBad c then no 0x0005 s
  else match partRefusal s p, rangeRefusal s fn p (c.u64 40) (2 * n) false with
    | some st, _ => no st s
    | none, some st => no st s
    | none, none =>
      let r := engineRead s (c.u64 40) (2 * n)
      let ms := (List.range n).map (fun i => (rd 1 r.1 (2 * i), rd 1 r.1 (2 * i + 1)))
      let x := collRequest c p fn ms
      let t := r.2.2
      if !r.2.1.isEmpty || ms.any (fun m => 127 < m.1 || 15 < m.2) || t.link.linkId ≠ some (ms.getD x.rank (255, 255)).1 || (ms.getD x.rank (255, 255)).2 ≠ p
      then no 0x0005 t
      else if x.chunk < 4096 then no 0x0603 t
      else match rangeRefusal t fn p x.buf (x.count * x.elem) true, (if x.op = 1 then none else rangeRefusal t fn p x.scratch (2 * x.chunk) true) with
        | some st, _ => no st t
        | none, some st => no st t
        | none, none =>
          if ms.any (fun m => t.link.linkId ≠ some m.1 && (routePort t m.1 0).isNone) then no 0x0803 t
          else if (collOf t p x.key).isSome then no 0x0009 t
          else
            let u := accept t fn c.id
            arrive { u with link := { u.link with colls := u.link.colls ++ [x] } } p (collBarrier x.key) ms 0 0

end Sys2Proof.Machine
end

