-- ==== Sys2Proof/Machine/FenceOps.lean ====
section
/-! DEFINITION. Step fences: SGD, block moves, replicas, the two barriers (R530, R534–R541). -/

namespace Sys2Proof.Machine

/-- BARRIER_ID of barrier `b` of a step fence (R535). -/
def fenceBarrier (key : W32) (step b : Nat) : W64 := BitVec.ofNat 64 (key.toNat * 2 ^ 32 + 0x80000000 + step % 2 ^ 30 * 2 + b)

/-- CRC-32C of a member's owner map, and of its move records in list order, or 0 (R535). -/
def mapCrc (s : State) (t : EmbTable) : W32 := crc32c (devBytes s t.owner (4 * t.blocks))
def movesCrc (m : List (Nat × W32)) : W32 := if m.isEmpty then 0 else crc32c (m.flatMap (fun x => le 4 x.1 ++ le 4 x.2.toNat))

/-- A STEP joins the first barrier of its fence (R534, R535). (DEDUCED: log entry 47.) -/
def beginFence (s : State) (j : EmbJob) (t : EmbTable) (subs : List (Nat × Nat)) : State :=
  let moves := match t.migration with
    | some m => if m.target = j.desc.step then m.moves else []
    | none => []
  let f : StepFence := { job := j.id, step := j.desc.step, phase := 2, moves := moves, wait := [], subs := subs }
  let s1 := setTable (modEmb s j.id (fun y => { y with started := true })) j.key { t with fence := some f }
  arrive s1 j.part (fenceBarrier t.key j.desc.step 0) t.members (mapCrc s t) (movesCrc moves)

/-- The new value of an element under SGD: one fused operation in FP32, then ELEM_FMT with SAT (R530). -/
def sgdElem (t : EmbTable) (row grad : Nat) : Nat :=
  cvtLane 0 t.fmt true false (fp32.code .rne false ((fp32.value row).add ((fp32.value t.lr.toNat).mul (fp32.value grad)).neg))

/-- SGD on one owned row: the row's new value, and its gradient set to +0 (R530). -/
def sgdRow (s : State) (key : Nat) (t : EmbTable) (row : Nat) : State :=
  let o := ownerEntry s t (row / 4096)
  if o.1 ≠ t.self then s
  else
    let a := t.rowAt o.2 row
    let g := t.gradAt o.2 row
    let x := engineRead s a t.rowBytes
    let y := engineRead x.2.2 g t.gradBytes
    let new := (List.range t.dim).flatMap (fun e => le (widthOf t.fmt / 8) (sgdElem t (elemF32 t.fmt x.1 e) (rd 4 y.1 (4 * e))))
    let bad := !x.2.1.isEmpty || !y.2.1.isEmpty
    let u := engineWrite y.2.2 (key / 64) a (bytesAt new 0 t.rowBytes) (fun _ _ => bad)
    engineWrite u (key / 64) g (bytesAt [] 0 t.gradBytes) clean

/-- SGD on every owned row that has received updates since the last fence (R530). -/
def applySgd (s : State) (key : Nat) (t : EmbTable) : State :=
  let u := if t.sgd then t.touched.foldl (fun u r => sgdRow u key t r) s else s
  modTable u key (fun t => { t with touched := [] })

/-- Bytes of a block's rows and gradient rows, and their poisoned words, in slot `k` (R532). -/
def blockRead (s : State) (t : EmbTable) (k : Nat) : List Byte × List Nat × State :=
  let n := 4096 * t.rowBytes
  let x := engineRead s (t.rowAt k 0) n
  let y := engineRead x.2.2 (t.gradAt k 0) (4096 * t.gradBytes)
  (x.1 ++ y.1, (x.2.1.map (fun w => w - t.rowAt k 0)) ++ (y.2.1.map (fun w => n + w - t.gradAt k 0)), y.2.2)

/-- Bytes of a moved block from `o` on, laid into slot `k`. -/
def blockWrite (s : State) (key : Nat) (t : EmbTable) (k o : Nat) (data : List Byte) (bad : List Nat) : State :=
  let n := 4096 * t.rowBytes
  let a := data.take (n - o)
  let b := data.drop (n - o)
  let u := if a.isEmpty then s else engineWrite s (key / 64) (t.rowAt k 0 + o) a (fun i m => touchesAny bad (o + i) m)
  if b.isEmpty then u
  else engineWrite u (key / 64) (t.gradAt k 0 + (max o n - n)) b (fun i m => touchesAny bad (max o n + i) m)

/-- Content bytes of a BLOCK_MOVE bundle beside its headers. -/
def moveChunk : Nat := 0x100000 - 128

/-- Sends a block that this member gives up to its new owner, in bundles of at most 1 MiB (R531, R540). -/
def sendBlock (s : State) (key job step : Nat) (t : EmbTable) (b slot m : Nat) : State :=
  let r := blockRead s t slot
  let total := r.1.length
  (List.range ((total + moveChunk - 1) / moveChunk)).foldl
    (fun u i =>
      let o := i * moveChunk
      let part := bytesAt (r.1.drop o) 0 (min moveChunk (total - o))
      let bad := (r.2.1.filter (fun w => o ≤ w && w < o + moveChunk)).map (fun w => (w - o) / 64 + 2)
      let q := takeSeq u key
      ((sendBundle q.2 key job m 5 q.1 1 step o (le 4 b ++ le 60 0 ++ part) bad).map (fun x => x.2)).getD q.2) r.2.2

/-- The moves of a fence on this member: blocks it gives up are sent, blocks within it are copied, blocks it gains are awaited (R540). -/
def runMoves (s : State) (key job step : Nat) (t : EmbTable) (moves : List (Nat × W32)) : State :=
  let r := moves.foldl
    (fun (acc : List (Nat × Nat) × State) m =>
      let old := ownerEntry s t m.1
      let new := (m.2.toNat % 256, m.2.toNat / 256)
      if old.1 = t.self && new.1 = t.self then
        let x := blockRead acc.2 t old.2
        (acc.1, blockWrite x.2.2 key t new.2 0 x.1 x.2.1)
      else if old.1 = t.self then (acc.1, sendBlock acc.2 key job step t m.1 old.2 new.1)
      else if new.1 = t.self then (acc.1 ++ [(m.1, 0)], acc.2)
      else acc) ([], s)
  modTable r.2 key (fun t => { t with fence := t.fence.map (fun f => { f with wait := r.1 }) })

/-- Pushes a row's current value to the members that replicate it (R534, R545). -/
def pushRow (s : State) (key job step : Nat) (m row : Nat) : State :=
  match tableOf s key with
  | none => s
  | some t =>
    let o := ownerEntry s t (row / 4096)
    if t.rows ≤ row || o.1 ≠ t.self then s
    else
      let x := engineRead s (t.rowAt o.2 row) t.rowBytes
      if m = t.self then s
      else
        let bad := x.2.1.map (fun w => (w - t.rowAt o.2 row) / 64 + 2)
        let q := takeSeq x.2.2 key
        ((sendBundle q.2 key job m 4 q.1 1 step 0 (le 4 row ++ le 60 0 ++ x.1) bad).map (fun r => r.2)).getD q.2

/-- A replica row is installed: in its slot, or in the lowest free one; a row that is not in the replica list is dropped (R534). -/
def installRow (s : State) (key row : Nat) (data : List Byte) (bad : Nat → Nat → Bool) : State :=
  match tableOf s key with
  | none => s
  | some t =>
    if !t.replicas.contains row then s
    else
      match (match tfind t.directory row with
        | some k => some k
        | none => (List.range t.replicaRows).find? (fun k => !t.directory.any (fun e => e.2 = k))) with
      | none => s
      | some k =>
        modTable (engineWrite s (key / 64) (t.replica + k * t.rowBytes) (bytesAt data 0 t.rowBytes) bad) key
          (fun t => { t with directory := tset t.directory row k })

/-- This member's own replicas of rows that it owns take the rows' current values. -/
def installOwn (s : State) (key : Nat) (rows : List Nat) : State :=
  rows.foldl
    (fun u row => match tableOf u key with
      | none => u
      | some t =>
        let o := ownerEntry u t (row / 4096)
        if t.rows ≤ row || o.1 ≠ t.self then u
        else let x := engineRead u (t.rowAt o.2 row) t.rowBytes
             installRow x.2.2 key row x.1 (fun i n => touchesAny x.2.1 (t.rowAt o.2 row + i) n)) s

/-- A row's block is in the moves of the fence. -/
def moving (moves : List (Nat × W32)) (row : Nat) : Bool := moves.any (fun m => m.1 = row / 4096)

/-- The fence joins its second barrier once its own sends and receipts are over (R534). (DEDUCED: log entry 47.) -/
def fenceOn (s : State) (key : Nat) : State :=
  match tableOf s key with
  | none => s
  | some t =>
    match t.fence with
    | none => s
    | some f =>
      if f.phase ≠ 3 || !f.wait.isEmpty || s.link.xfers.any (fun x => x.use = .emb f.job key) then s
      else
        let u := setTable s key { t with fence := some { f with phase := 4 } }
        arrive u (key / 64) (fenceBarrier t.key f.step 1) t.members 0 0

/-- The pending moves of a table's EMB.MIGRATE end with a status. -/
def endMigration (s : State) (key status moved : Nat) : State :=
  match tableOf s key with
  | none => s
  | some t => match t.migration with
    | none => s
    | some m => workDone (setTable s key { t with migration := none }) m.fn m.cmdId ⟨status, 0, le 4 moved⟩

/-- The first barrier has passed: SGD, moves and replicas, then the second barrier (R534). (DEDUCED: log entry 47.) -/
def fenceApply (s : State) (key : Nat) : State :=
  match tableOf s key with
  | none => s
  | some t =>
    match t.fence with
    | none => s
    | some f =>
      let s1 := setTable s key { t with fence := some { f with phase := 3 } }
      let s2 := applySgd s1 key t
      let s3 := runMoves s2 key f.job f.step t f.moves
      let s4 := (f.subs.filter (fun x => !moving f.moves x.2)).foldl (fun u x => pushRow u key f.job f.step x.1 x.2) s3
      fenceOn (installOwn s4 key (t.replicas.filter (fun r => !moving f.moves r))) key

/-- The second barrier has passed: the owner map, the replica list and the counter banks switch, and the fence is over (R534, R539–R541). (DEDUCED: log entry 47.) -/
def fenceEnd (s : State) (key : Nat) : State :=
  match tableOf s key with
  | none => s
  | some t =>
    match t.fence with
    | none => s
    | some f =>
      let s1 := f.moves.foldl (fun u m => engineWrite u (key / 64) (t.owner + 4 * m.1) (le 4 m.2.toNat) clean) s
      let s2 := if f.moves.isEmpty then s1 else endMigration s1 key 0 f.moves.length
      let new := t.pendReplicas.getD t.replicas
      let bank := if t.swap then 1 - t.bank else t.bank
      let s3 := modTable s2 key (fun t => { t with
        fence := none, lastStep := some f.step, bank := bank, swap := false, replicas := new, pendReplicas := none
        directory := t.directory.filter (fun e => new.contains e.1) })
      let s4 := if t.swap then engineWrite s3 (key / 64) (t.counter + bank * 4 * t.blocks) (bytesAt [] 0 (4 * t.blocks)) clean else s3
      let s5 := (f.subs.filter (fun x => moving f.moves x.2)).foldl (fun u x => pushRow u key 0 f.step x.1 x.2) s4
      let s6 := installOwn s5 key (new.filter (fun r => moving f.moves r || !t.replicas.contains r))
      modEmb s6 f.job (fun y => { y with ended := true })

/-- A fence ends with a fault of its own: the descriptor's list takes the status, its flags are set, the pending moves are cancelled
(R536, R537). (DEDUCED: log entry 47.) -/
def fenceFail (s : State) (key status code moveStatus : Nat) (detail : List Byte) : State :=
  match tableOf s key with
  | none => s
  | some t =>
    match t.fence with
    | none => s
    | some f =>
      let s1 := if f.moves.isEmpty && status = 0x0704 then s else endMigration s key moveStatus 0
      let s2 := modTable s1 key (fun t => { t with fence := none, diverged := t.diverged || status = 0x0704 })
      match embJobOf s2 f.job with
      | none => s2
      | some j =>
        let s3 := engineFault (embFlags s2 j) j.part j.jobId code (le 1 (key % 64) ++ le 3 0 ++ le 4 f.step ++ detail)
        dropEmb (modList s3 j.list (fun l => l.fail j.index status)) j

/-- A RELEASE reaches a step fence of partition `p` (R535, R536, R540). A RESULT of 2 and above lets no barrier pass. -/
def fenceRelease (s : State) (p : Nat) (r : SyncRec) : State :=
  match s.eng.tables.find? (fun e => e.1 / 64 = p && e.2.fence.any (fun f =>
      (f.phase = 2 && fenceBarrier e.2.key f.step 0 = r.barrier) || (f.phase = 4 && fenceBarrier e.2.key f.step 1 = r.barrier))) with
  | none => s
  | some (key, t) =>
    let first := t.fence.any (fun f => f.phase = 2)
    if 2 ≤ r.result then s
    else if !first then fenceEnd s key
    else if r.result = 0 then fenceApply s key
    else if r.v0 ≠ 0 then fenceFail s key 0x0704 0x0702 0x0704 []
    else fenceApply (modTable (if t.fence.any (fun f => !f.moves.isEmpty) then endMigration s key 0x0705 0 else s) key (fun t => { t with fence := t.fence.map (fun f => { f with moves := [] }) })) key

end Sys2Proof.Machine
end

