-- ==== Sys2Proof/Machine/BundleOps.lean ====
section
/-! DEFINITION. Bundles as they arrive at the embedding engine (R530–R534, R540). -/

namespace Sys2Proof.Machine

/-- Fields of a bundle's header (R532). -/
def bdlKind (b : Bulk) : Nat := rd 1 b.content 4
def bdlSeq (b : Bulk) : Nat := rd 4 b.content 12
def bdlCount (b : Bulk) : Nat := rd 4 b.content 16
def bdlStep (b : Bulk) : Nat := rd 4 b.content 20

/-- The content is a bundle for a table of its partition: number and table. -/
def bundleTable (s : State) (b : Bulk) : Option (Nat × EmbTable) := tableByKey s b.dstPart (rd 4 b.content 8)

/-- Index of the sender among a table's members. -/
def senderIndex (t : EmbTable) (b : Bulk) : Nat := t.members.findIdx (fun m => m = (b.src, b.srcPart))

/-- A REPLY bundle goes back with the SEQ it answers: a status for each row, then the rows (R532). -/
def sendReply (s : State) (b : Bulk) (t : EmbTable) (key : Nat) (sts : List Nat) (rows : List Byte) : State :=
  let body := bytesAt (sts.map (BitVec.ofNat 8)) 0 ((sts.length + 63) / 64 * 64) ++ rows
  let x := bundleBytes s 1 b.dstPart b.srcPart t (bdlSeq b) sts.length (bdlStep b) body
  ((sendXfer s (.emb 0 key) b.src b.srcPart b.dstPart 2 0 1 (rd 4 b.content 8) x []).map (fun r =>
    chargeLink (modTable r.2 key (fun t => { t with bundles := t.bundles + 1 })) b.dstPart x.length)).getD s

/-- Status and bytes of one row that a REQUEST asks for. (DEDUCED: log entry 46.) -/
def serveRow (s : State) (t : EmbTable) (row : Nat) : Nat × List Byte × State :=
  let o := ownerEntry s t (row / 4096)
  if t.rows ≤ row || o.1 ≠ t.self then (2, bytesAt [] 0 t.rowBytes, s)
  else let x := engineRead s (t.rowAt o.2 row) t.rowBytes
       (b2n (!x.2.1.isEmpty), x.1, x.2.2)

/-- A table that does not exist: a REQUEST for it is answered from it with no rows (R532). (DEDUCED: log entry 46.) -/
def absentTable (key : Nat) : EmbTable :=
  { fmt := 0, dim := 0, rows := 0, key := BitVec.ofNat 32 key, sgd := false, slots := 0, lr := 0, shard := 0, grad := 0, owner := 0, counter := 0
    replica := 0, replicaRows := 0, members := [], self := 0, bank := 0, swap := false, lastStep := none, localLookups := 0, remoteLookups := 0
    replicaHits := 0, bundles := 0, updates := 0, replicas := [], pendReplicas := none, directory := [], touched := [], diverged := false, seq := 0
    fence := none, migration := none }

/-- REPLY bundles for the rows asked for, each of at most 1 MiB. -/
def bundleRequest (s : State) (b : Bulk) : State :=
  let rows := (List.range (min (bdlCount b) ((b.content.length - 64) / 4))).map (fun i => rd 4 b.content (64 + 4 * i))
  match bundleTable s b with
  | none => sendReply s b (absentTable (rd 4 b.content 8)) (b.dstPart * 64 + 64) (rows.map (fun _ => 2)) []
  | some (key, t) =>
    (chunks (rows.length + 1) ((0x100000 - 128) / (t.rowBytes + 1)) rows).foldl
      (fun u part =>
        let r := part.foldl (fun (acc : List Nat × List Byte × State) i => let x := serveRow acc.2.2 t i; (acc.1 ++ [x.1], acc.2.1 ++ x.2.1, x.2.2)) ([], [], u)
        sendReply r.2.2 b t key r.1 r.2.1) s

/-- The job of partition `p` that waits for an answer with this SEQ from member `m` of table `key`. -/
def waiterOf (s : State) (key seq m : Nat) : Option EmbJob :=
  s.eng.emb.find? (fun j => j.key = key && j.waits.any (fun w => w.1 = seq && w.2.1 = m))

/-- Rows received are kept for the bags that ask for them; a refused row poisons its bags (R526, R532). -/
def bundleReply (s : State) (b : Bulk) : State :=
  match bundleTable s b with
  | none => s
  | some (key, t) =>
    let m := senderIndex t b
    match waiterOf s key (bdlSeq b) m with
    | none => s
    | some j =>
      let asked := ((j.waits.find? (fun w => w.1 = (bdlSeq b) && w.2.1 = m)).map (fun w => w.2.2.1)).getD []
      let n := min (bdlCount b) asked.length
      let base := 64 + ((bdlCount b) + 63) / 64 * 64
      let got := (List.range n).map (fun i => (asked.getD i 0, rd 1 b.content (64 + i), bytesAt (b.content.drop (base + i * t.rowBytes)) 0 t.rowBytes))
      let refused := (got.filter (fun g => g.2.1 = 2)).map (fun g => g.1)
      modEmb s j.id (fun y => { y with
        rows := got.foldl (fun r g => tset r g.1 (g.2.2, g.2.1 ≠ 0)) y.rows
        badBags := (y.badBags ++ (List.range y.bags.length).filter (fun k => (y.bags.getD k []).any (fun x => refused.contains x.1))).eraseDups
        waits := y.waits.filterMap (fun w => if w.1 = (bdlSeq b) && w.2.1 = m then (if n < w.2.2.1.length then some (w.1, w.2.1, w.2.2.1.drop n, w.2.2.2) else none)
                                             else some w) })

/-- The owner adds the gradients, then acknowledges (R530, R533). -/
def bundleUpdate (s : State) (b : Bulk) : State :=
  match bundleTable s b with
  | none => s
  | some (key, t) =>
    let z := 8 + t.gradBytes
    let n := min (bdlCount b) ((b.content.length - 64) / z)
    let u := (List.range n).foldl
      (fun u i =>
        let o := 64 + i * z
        let grad := (List.range t.dim).map (fun e => rd 4 b.content (o + 8 + 4 * e))
        (tableOf u key).elim u (fun t => applyUpdate u key t (rd 4 b.content o) grad (bitOf (rd 4 b.content (o + 4)) 0))) s
    let x := bundleBytes u 3 b.dstPart b.srcPart t (bdlSeq b) n (bdlStep b) []
    ((sendXfer u (.emb 0 key) b.src b.srcPart b.dstPart 2 0 1 t.key.toNat x []).map (fun r =>
      chargeLink (modTable r.2 key (fun t => { t with bundles := t.bundles + 1 })) b.dstPart x.length)).getD u

/-- A SCATTER ends when the last of its updates is acknowledged (R533). -/
def bundleAck (s : State) (b : Bulk) : State :=
  match bundleTable s b with
  | none => s
  | some (key, t) =>
    let m := senderIndex t b
    match waiterOf s key (bdlSeq b) m with
    | none => s
    | some j =>
      modEmb s j.id (fun y =>
        let w := y.waits.filter (fun w => !(w.1 = (bdlSeq b) && w.2.1 = m))
        { y with waits := w, ended := y.sent && w.isEmpty })

/-- Replica rows are installed (R534). -/
def bundlePush (s : State) (b : Bulk) : State :=
  match bundleTable s b with
  | none => s
  | some (key, t) =>
    let z := 64 + t.rowBytes
    (List.range (min (bdlCount b) ((b.content.length - 64) / z))).foldl
      (fun u i => let o := 64 + i * z
        installRow u key (rd 4 b.content o) (bytesAt (b.content.drop (o + 64)) 0 t.rowBytes) (fun k n => bulkPois b (o + 64 + k) n)) s

/-- A piece of a moved block is written into its new slot; the fence goes on when the block is whole (R534, R540). -/
def bundleMove (s : State) (b : Bulk) : State :=
  match bundleTable s b with
  | none => s
  | some (key, t) =>
    let blk := rd 4 b.content 64
    let total := 4096 * (t.rowBytes + t.gradBytes)
    match t.fence.bind (fun f => f.moves.find? (fun m => m.1 = blk && m.2.toNat % 256 = t.self)) with
    | none => s
    | some m =>
      let n := min (rd 4 b.content 24 - 128) (total - b.offset)
      let u := blockWrite s key t (m.2.toNat / 256) b.offset (bytesAt (b.content.drop 128) 0 n)
        ((b.poison.filter (fun w => 2 ≤ w)).map (fun w => b.offset + (w - 2) * 64))
      let v := modTable u key (fun t => { t with fence := t.fence.map (fun f => { f with
        wait := f.wait.filterMap (fun w => if w.1 = blk then (if total ≤ w.2 + n then none else some (w.1, w.2 + n)) else some w) }) })
      fenceOn v key

/-- A bundle reaches the embedding engine. -/
def bundle (s : State) (b : Bulk) : State :=
  if rd 4 b.content 0 ≠ 0x42455256 then s
  else match bdlKind b with
    | 0 => bundleRequest s b
    | 1 => bundleReply s b
    | 2 => bundleUpdate s b
    | 3 => bundleAck s b
    | 4 => bundlePush s b
    | 5 => bundleMove s b
    | _ => s

/-- A bundle of kind `kind` arrives as a BULK ENGINE transaction, which is answered with COMPLETE (R563, R574). -/
def receiveBundle (s : State) (b : Bulk) (kind : Nat) : State :=
  if b.engine ≠ 1 || (bdlKind b) ≠ kind then s
  else match bulkAdmission s b with
    | .discard => s
    | .hold => s
    | .refuse st => sendComplete s b st
    | .take => sendComplete (bundle s b) b 0

end Sys2Proof.Machine
end

