-- ==== Sys2Proof/Machine/Emb.lean ====
section
/-! DEFINITION. The EMB commands, embedding descriptors, bundles and the step-fence timeout (R519–R543). -/

namespace Sys2Proof.Machine

/-- The table that 80 bytes describe (R519), without its members. -/
def embTable (c : Consumed) : EmbTable :=
  { absentTable (c.u32 8) with
    fmt := c.u8 1, dim := c.u16 2, rows := c.u32 4, sgd := c.u8 13 = 1, slots := c.u32 16, lr := BitVec.ofNat 32 (c.u32 20), shard := c.u64 24
    grad := c.u64 32, owner := c.u64 40, counter := c.u64 48, replica := c.u64 56, replicaRows := c.u32 64 }

/-- A field of a table descriptor lies outside its range (R519–R521). (DEDUCED: log entry 47.) -/
def tableBad (c : Consumed) : Bool :=
  let t := embTable c
  63 < c.u8 0 || !([0, 1, 2, 4, 5].contains t.fmt) || t.dim = 0 || 4096 < t.dim || t.rows = 0 || c.u8 12 = 0 || 128 < c.u8 12 || 1 < c.u8 13
    || c.u16 14 ≠ 0 || 1048576 < t.slots || c.u32 68 ≠ 0 || 4096 < t.rowBytes

/-- A partition may use `n` bytes from `a` (R30). -/
def Part.owns (x : Part) (a n : Nat) : Bool := n = 0 || x.ownsHbm a n || x.ownsCells a n

/-- Every area of a table lies in its partition's own memory (R520, R521). (DEDUCED: log entry 47.) -/
def areasOwned (x : Part) (t : EmbTable) : Bool :=
  x.owns t.shard (t.slots * 4096 * t.rowBytes) && x.owns t.grad (t.slots * 4096 * t.gradBytes) && x.owns t.owner (4 * t.blocks)
    && x.owns t.counter (8 * t.blocks) && x.owns t.replica (t.replicaRows * t.rowBytes)

/-- EMB_TABLE_CREATE (R521). -/
def execEmbTableCreate (fn : Fn) (s : State) : Out :=
  withPart s fn 7 1 fun p c s =>
    let x := s.pt p
    let n := c.u8 12
    let key := p * 64 + c.u8 0
    if tableBad c then finishSt s fn c.id 0x0005
    else if !x.owns (c.u64 72) (2 * n) then finishSt s fn c.id 0x000B
    else
      let r := engineRead s (c.u64 72) (2 * n)
      let ms := (List.range n).map (fun i => (rd 1 r.1 (2 * i), rd 1 r.1 (2 * i + 1)))
      let here := s.link.linkId.map (fun l => (l, p))
      if !r.2.1.isEmpty || ms.any (fun m => 127 < m.1 || 15 < m.2) || (ms.filter (fun m => some m = here)).length ≠ 1
      then finishSt r.2.2 fn c.id 0x0005
      else if !areasOwned x (embTable c) then finishSt r.2.2 fn c.id 0x000B
      else if (tableOf s key).isSome then finishSt r.2.2 fn c.id 0x0701
      else
        let t := { embTable c with members := ms, self := ms.findIdx (fun m => some m = here) }
        finishOk (setTable r.2.2 key t) fn c.id (le 4 t.blocks ++ le 2 t.rowBytes)

/-- An EMB command on a table of its partition: NO_TABLE where it is absent (R542). -/
def withTable (s : State) (fn verb : Nat) (bad : Consumed → Bool) (k : Nat → EmbTable → Consumed → State → State) : Out :=
  withPart s fn 7 verb fun p c s =>
    if 63 < c.u8 0 || bad c then finishSt s fn c.id 0x0005
    else match tableOf s (p * 64 + c.u8 0) with
      | none => finishSt s fn c.id 0x0702
      | some t => k (p * 64 + c.u8 0) t c s

/-- EMB_TABLE_DESTROY (R542). (DEDUCED: log entry 47.) -/
def execEmbTableDestroy (fn : Fn) (s : State) : Out :=
  withTable s fn 2 (fun _ => false) fun key t c s =>
    if t.fence.isSome || s.eng.emb.any (fun j => j.key = key) then finishSt s fn c.id 0x0009
    else
      let u := endMigration s key 0x0702 0
      finishSt { u with eng := { u.eng with tables := tdel u.eng.tables key } } fn c.id 0

/-- EMB_COUNTERS (R539). -/
def execEmbCounters (fn : Fn) (s : State) : Out :=
  withTable s fn 3 (fun c => 3 < c.u8 1) fun key t c s =>
    let clear := bitOf (c.u8 1) 1
    let z (v : W64) : W64 := if clear then 0 else v
    let u := setTable s key { t with
      swap := t.swap || bitOf (c.u8 1) 0, localLookups := z t.localLookups, remoteLookups := z t.remoteLookups, replicaHits := z t.replicaHits
      bundles := z t.bundles, updates := z t.updates }
    finishOk u fn c.id (fields 48 [(0, le 8 t.localLookups.toNat), (8, le 8 t.remoteLookups.toNat), (16, le 8 t.replicaHits.toNat)
      , (24, le 8 t.bundles.toNat), (32, le 8 t.updates.toNat), (40, le 1 t.bank), (44, le 4 (t.lastStep.getD 0))])

/-- EMB_MIGRATE (R540, R542). (DEDUCED: log entry 47.) -/
def execEmbMigrate (fn : Fn) (s : State) : Out :=
  withTable s fn 4 (fun c => rd 3 c.req.payload 1 ≠ 0 || c.u32 4 = 0 || 65536 < c.u32 4) fun key t c s =>
    let p := key / 64
    match partRefusal s p, rangeRefusal s fn p (c.u64 8) (8 * c.u32 4) false with
    | some st, _ => finishSt s fn c.id st
    | none, some st => finishSt s fn c.id st
    | none, none =>
      let r := engineRead s (c.u64 8) (8 * c.u32 4)
      let ms := (List.range (c.u32 4)).map (fun i => (rd 4 r.1 (8 * i), BitVec.ofNat 32 (rd 4 r.1 (8 * i + 4))))
      if !r.2.1.isEmpty || ms.any (fun m => t.blocks ≤ m.1 || t.members.length ≤ m.2.toNat % 256) then finishSt r.2.2 fn c.id 0x0005
      else if t.lastStep.any (fun l => c.u32 16 ≤ l) then finishSt r.2.2 fn c.id 0x0008
      else if t.migration.isSome then finishSt r.2.2 fn c.id 0x0009
      else setTable (accept r.2.2 fn c.id) key { t with migration := some { fn := fn.val, cmdId := c.id, target := c.u32 16, moves := ms, moved := 0 } }

/-- The replica list of a table from the next fence on. -/
def EmbTable.wanted (t : EmbTable) : List Nat := t.pendReplicas.getD t.replicas

/-- A replica list keeps the limits of its table and of the device (R541). -/
def replicasFit (s : State) (key : Nat) (t : EmbTable) (l : List Nat) : Bool :=
  let others := s.eng.tables.filter (fun e => e.1 ≠ key)
  l.length ≤ t.replicaRows
    && (others.map (fun e => e.2.wanted.length)).foldl (· + ·) l.length ≤ 65536
    && (others.map (fun e => e.2.wanted.length * e.2.rowBytes)).foldl (· + ·) (l.length * t.rowBytes) ≤ 0x4000000

/-- A new replica list takes effect at the next fence, or is refused (R541). -/
def setReplicas (s : State) (fn : Fn) (id key : Nat) (t : EmbTable) (l : List Nat) : State :=
  if !replicasFit s key t l then finishSt s fn id 0x0706
  else finishOk (setTable s key { t with pendReplicas := some l }) fn id (le 4 l.length)

/-- The rows of a list in device memory, or the refusal. -/
def replicaRows (s : State) (fn : Fn) (key : Nat) (t : EmbTable) (c : Consumed) (k : List Nat → State → State) : State :=
  let n := c.u32 4
  match (if n = 0 then none else rangeRefusal s fn (key / 64) (c.u64 8) (4 * n) false) with
  | some st => finishSt s fn c.id st
  | none =>
    let r := engineRead s (c.u64 8) (4 * n)
    let rows := (List.range n).map (fun i => rd 4 r.1 (4 * i))
    if !r.2.1.isEmpty || rows.any (fun i => t.rows ≤ i) then finishSt r.2.2 fn c.id 0x0005 else k rows r.2.2

/-- The requests of EMB.REPLICATE that one operation serves; an undefined operation is refused by ADD's row. -/
def withReplicate (s : State) (fn : Fn) (op : Nat) (k : Nat → EmbTable → Consumed → State → State) : Out :=
  match startable s fn 7 5 with
  | none => .next s
  | some c =>
    let o := c.u8 1
    if o ≠ op && !(op = 0 && 2 < o) then .next s
    else withTable s fn 5 (fun c => 2 < c.u8 1 || c.u16 2 ≠ 0 || 65536 < c.u32 4) k

/-- EMB_REPLICATE_ADD (R541). -/
def execEmbReplicateAdd (fn : Fn) (s : State) : Out :=
  withReplicate s fn 0 fun key t c s =>
    replicaRows s fn key t c fun rows s => setReplicas s fn c.id key t (rows.foldl sins t.wanted)

/-- EMB_REPLICATE_REMOVE (R541). -/
def execEmbReplicateRemove (fn : Fn) (s : State) : Out :=
  withReplicate s fn 1 fun key t c s =>
    replicaRows s fn key t c fun rows s => setReplicas s fn c.id key t (rows.foldl sdel t.wanted)

/-- EMB_REPLICATE_CLEAR (R541). -/
def execEmbReplicateClear (fn : Fn) (s : State) : Out :=
  withReplicate s fn 2 fun key t c s => setReplicas s fn c.id key t []

/-- EMB_GATHER (R525–R528, R531): the descriptor's bags are read, its lookups counted, its remote rows asked for. -/
def execEmbGather (job : Nat) (s : State) : Out :=
  match embJobOf s job with
  | none => .next s
  | some j =>
    if j.desc.op ≠ 0 || !embStartable s j then .next s
    else
      let u := startBags s j
      match embJobOf u job, tableOf u j.key with
      | some y, some t =>
        if y.fail.isSome then nextN s u
        else
          let rows := (y.bags.flatMap (fun b => b.map (fun x => x.1))).filter (fun i => i < t.rows)
          let v := rows.foldl (fun v i => countLookup v j.key i) u
          nextN s ((requestRows v y t).foldl (fun v e => sendEntries v y e.1 0 4 e.2) v)
      | _, _ => nextN s u

/-- EMB_SCATTER (R525, R528, R529): the descriptor's bags are read; its segments reduce the gradients. -/
def execEmbScatter (job : Nat) (s : State) : Out :=
  match embJobOf s job with
  | none => .next s
  | some j => if j.desc.op ≠ 1 || !embStartable s j then .next s else nextN s (startBags s j)

/-- EMB_STEP (R534): the step fence begins. `subs` names the rows that other members replicate, as member index and row. (DEDUCED: log entry 47.) -/
def execEmbStep (job : Nat) (subs : List (Nat × Nat)) (s : State) : Out :=
  match embJobOf s job with
  | none => .next s
  | some j =>
    if j.desc.op ≠ 2 || !embStartable s j then .next s
    else match tableOf s j.key with
      | none => nextN s (embFail (modEmb s job (fun y => { y with started := true })) job 0x0702 255)
      | some t => nextN s (beginFence s j t subs)

/-- BUNDLE_REQUEST_RECEIVE (R532). -/
def execBundleRequestReceive (b : Bulk) (s : State) : Out := nextN s (receiveBundle s b 0)

/-- BUNDLE_REPLY_RECEIVE (R532). -/
def execBundleReplyReceive (b : Bulk) (s : State) : Out := nextN s (receiveBundle s b 1)

/-- BUNDLE_UPDATE_RECEIVE (R530). -/
def execBundleUpdateReceive (b : Bulk) (s : State) : Out := nextN s (receiveBundle s b 2)

/-- BUNDLE_UPDATE_ACK_RECEIVE (R533). -/
def execBundleUpdateAckReceive (b : Bulk) (s : State) : Out := nextN s (receiveBundle s b 3)

/-- BUNDLE_ROWS_PUSH_RECEIVE (R534). -/
def execBundleRowsPushReceive (b : Bulk) (s : State) : Out := nextN s (receiveBundle s b 4)

/-- BUNDLE_BLOCK_MOVE_RECEIVE (R540). -/
def execBundleBlockMoveReceive (b : Bulk) (s : State) : Out := nextN s (receiveBundle s b 5)

/-- EMB_FENCE_TIMEOUT (R537). -/
def execEmbFenceTimeout (p : Fin 16) (table : Fin 64) (s : State) : Out :=
  let key := p.val * 64 + table.val
  match (tableOf s key).bind (fun t => t.fence) with
  | none => .next s
  | some f => nextN s (fenceFail s key 0x0707 0x0703 0x0707 (le 1 (b2n (f.phase ≠ 2))))

end Sys2Proof.Machine
end

