-- ==== Sys2Proof/Machine/HuskCmds.lean ====
section
/-! DEFINITION. HUSK.CONFIG, HUSK.SNAP, HUSK.QUERY, and a snapshot's steps (R660–R704). -/

namespace Sys2Proof.Machine

/-- Units of both areas of a configuration. -/
def HuskCfg.areas (c : HuskCfg) : List Nat := span c.reserveFirst c.reserveUnits ++ span c.areaFirst 3

/-- The configuration that HUSK.CONFIG asks for, when every field lies within its range (R667). -/
def cfgOf (c : Consumed) : Option HuskCfg :=
  let r := c.u16 0
  let n := c.u16 2
  let a := c.u16 4
  let f := c.u8 6
  let b := c.u8 7
  let rate := c.u32 8
  if 574 < r || n < 4 || 64 < n || 572 < a || 575 < r + n || 3 < f || (if bitOf f 1 then 127 < b else b ≠ 0) || !(rate = 0 || (1000 ≤ rate && rate ≤ 224000))
      || c.u32 12 ≠ 0 || (r < a + 3 && a < r + n) then none
  else some { reserveFirst := r, reserveUnits := n, areaFirst := a, parity := bitOf f 0, buddy := if bitOf f 1 then some b else none, rateMax := rate }

/-- HUSK_CONFIG (R667, R668). -/
def execHuskConfig (fn : Fn) (s : State) : Out :=
  withCmd s fn 10 1 fun c s0 =>
    let st (v : Nat) : State := finishSt s0 fn c.id v
    match cfgOf c with
    | none => st 0x0005
    | some g =>
      let own := (s0.husk.cfg.map HuskCfg.areas).getD []
      if epochActive s0 then st 0x0308
      else if g.areas.any (fun u => unitGranted s0 u || (s0.hbm.reserved.contains u && !own.contains u)) then st 0x0602
      else
        let t := { s0 with
          husk := { s0.husk with cfg := some g, reserve := [] }
          hbm := { s0.hbm with reserved := g.areas.foldl sins (s0.hbm.reserved.filter (fun u => !own.contains u)) } }
        note s0 (finishOk t fn c.id [])

/-- Fields of a HUSK.SNAP request. -/
structure SnapReq where
  scope : Nat
  full : Bool
  mask : Nat
  waitMs : Nat
  atFold : Nat
  key : Nat
  n : Nat
  sysWait : Nat
  members : Nat
deriving DecidableEq, Repr

def snapReq (c : Consumed) : SnapReq :=
  { scope := c.u8 0, full := bitOf (c.u8 1) 0, mask := c.u16 2, waitMs := c.u32 4, atFold := c.u32 8, key := c.u32 12, n := c.u16 0x10, sysWait := c.u32 0x14
    members := c.u64 0x18 }

/-- The member list that a system snapshot names, as Hazel reads it from HBM. -/
def snapMembers (s : State) (q : SnapReq) : List (Nat × Nat) :=
  let b := devBytes s q.members (2 * q.n)
  (List.range q.n).map (fun i => (rd 1 b (2 * i), rd 1 b (2 * i + 1)))

/-- Entries of it that name this device. -/
def ownEntries (s : State) (l : List (Nat × Nat)) : List (Nat × Nat) := l.filter (fun m => s.link.linkId = some m.1)

/-- A request of HUSK.SNAP has a field out of its range, its members apart (R672). -/
def snapBad (c : Consumed) (q : SnapReq) : Bool :=
  2 < q.scope || 1 < c.u8 1 || 60000 < q.waitMs || c.u16 0x12 ≠ 0
    || (if q.scope = 0 then q.mask = 0 else q.mask ≠ 0)
    || (if q.scope = 2 then q.n < 2 || 128 < q.n || 600000 < q.sysWait else q.key ≠ 0 || q.n ≠ 0 || q.sysWait ≠ 0 || q.members ≠ 0)

/-- States in which a partition can take part in a snapshot (R670). -/
def snappable (st : PartState) : Bool := st = .assigned || st = .loaded || st = .running || st = .stalled

/-- Participants of a snapshot (R670). -/
def snapParts (s : State) (q : SnapReq) : List Nat :=
  if q.scope = 0 then bitsSet q.mask 16
  else if q.scope = 1 then (List.range 16).filter (fun p => snappable (s.pt p).state)
  else (ownEntries s (snapMembers s q)).map (fun m => m.2)

/-- Refusals of HUSK.SNAP (R671, R672, R742). (DEDUCED: log entry 55.) -/
def snapRefusal (s : State) (fn : Nat) (c : Consumed) : Option Nat :=
  let q := snapReq c
  let named := mayName s fn q.members (2 * q.n)
  let own := ownEntries s (snapMembers s q)
  let ps := snapParts s q
  if fn ≠ 0 && (q.scope = 1 || (q.scope = 0 && q.mask ≠ 2 ^ (fn - 1)) || (q.scope = 2 && named && own.length = 1 && ps ≠ [fn - 1])) then some 0x0006
  else if snapBad c q then some 0x0005
  else if q.scope = 2 && !named then some 0x000B
  else if q.scope = 2 && (own.length ≠ 1 || (snapMembers s q).any (fun m => 127 < m.1 || 15 < m.2)) then some 0x0005
  else if s.husk.cfg.isNone then some 0x0A02
  else if !((s.vol 0).state = .ready || (s.vol 0).state = .degraded) then some 0x0A03
  else if epochActive s then some 0x0A01
  else if ps.any (restoring s) then some 0x0A0D
  else if ps.isEmpty || ps.any (fun p => !snappable (s.pt p).state) then some 0x0008
  else none

/-- A new epoch (R662). -/
def newEpoch (s : State) (q : SnapReq) (mask : Nat) : Epoch :=
  { number := s.husk.epoch + 1, state := .open, cause := 0, base := false, sys := if q.scope = 2 then 1 else 0, partMask := mask, scope := q.scope
    snapKey := BitVec.ofNat 32 q.key, atFold := BitVec.ofNat 32 q.atFold, units := [], wholeUnits := [], deltas := [], live := [], written := []
    parityMember := none, d := 0, parity := false, degraded := false, localDegraded := false, mirrored := false, missing := false
    volumeId := (s.vol 0).id, commitTime := 0, parts := [], states := [], recs := [], system := false }

/-- An accepted HUSK.SNAP numbers its epoch and arranges the pauses (R662, R673–R675). (DEDUCED: log entry 55.) -/
def snapBegin (s : State) (fn : Nat) (c : Consumed) (q : SnapReq) : State :=
  let ps := snapParts s q
  let e := newEpoch s q (maskOf ps)
  let members := if q.scope = 2 then snapMembers s q else []
  let x : Snap :=
    { fn := fn, cmdId := c.id, jobId := c.req.jobId, scope := q.scope, full := q.full, atFold := e.atFold, snapKey := e.snapKey, members := members
      self := ((ownEntries s members).head?.map (fun m => m.2)).getD 255, parts := ps.map (fun p => { part := p, phase := 0, pausedAt := 0 }), wholeDue := []
      images := [], total := 0, drained := 0, rateAt := 0, rateBytes := 0, cow := 0, startTime := 0, endTime := 0, heldSince := none, stallNs := 0
      buddy := 0, buddyStatus := 0, streamed := 0, abandoned := false, pauseMax := 0 }
  let t := { s with husk := { s.husk with epoch := e.number, current := some e, snap := some x, settled := [], frozenMarks := [], fullRaised := false, lastPause := 0, lastTotal := 0, lastDrained := 0 } }
  let u := ps.foldl (fun t p => traceHusk t p 3 0 e.number) t
  let v := epochEvent u e.partMask 0x0A01 (fields 40 [(0, le 8 e.number), (8, le 1 255), (9, le 1 0), (12, le 2 e.partMask)])
  (ps.filter (fun p => (s.pt p).state = .assigned || (s.pt p).state = .loaded)).foldl snapReach v

/-- A system snapshot whose pause point has passed: no epoch is numbered (R697). -/
def snapMissed (s : State) (fn : Nat) (c : Consumed) (q : SnapReq) : State :=
  let members := snapMembers s q
  let self := ((ownEntries s members).head?.map (fun m => m.2)).getD 255
  let key := BitVec.ofNat 32 q.key
  let t := arrive s self (snapBarrier key) members 0 (BitVec.ofNat 32 q.atFold)
  workDone (sendOutcome t key members self 0 0 0) fn c.id ⟨0x0A04, 0, []⟩

/-- HUSK_SNAP (R662, R670–R675, R695, R697). -/
def execHuskSnap (fn : Fn) (s : State) : Out :=
  withCmd s fn 10 2 fun c s0 =>
    let q := snapReq c
    match snapRefusal s0 fn c with
    | some v => finishSt s0 fn c.id v
    | none =>
      let t := accept s0 fn c.id
      let late := q.scope = 2 && q.atFold ≠ 0 && (snapParts s0 q).any (fun p => q.atFold ≤ (s0.pt p).audit.folds.toNat)
      note s0 (if late then snapMissed t fn c q else snapBegin t fn c q)

/-- HUSK_QUERY (R701). -/
def execHuskQuery (fn : Fn) (s : State) : Out :=
  withCmd s fn 10 3 fun c s =>
    let seen := s.husk.current.filter (epochSeen fn)
    let num (f : Epoch → Nat) : Nat := (seen.map f).getD 0
    let active := seen.filter (fun _ => epochActive s)
    let has (n : Nat) : Nat := if fn.val = 0 || (s.vol 0).epochs.any (fun e => e.number = n && bitOf e.partMask (fn.val - 1)) then n else 0
    let snap := s.husk.snap.filter (fun _ => seen.isSome)
    finishOk s fn c.id (fields 48
      [(0, le 8 (if fn.val = 0 then s.husk.epoch else num (fun e => e.number))), (8, le 8 ((active.map (fun e => e.number)).getD 0)), (0x10, le 1 (num (fun e => e.state.code))),
       (0x11, le 1 (num (fun e => e.cause))), (0x12, le 2 (num (fun e => if fn.val = 0 then e.partMask else 2 ^ (fn.val - 1)))),
       (0x14, le 4 (if seen.isNone then 0 else (snap.map (fun x => x.total)).getD s.husk.lastTotal)),
       (0x18, le 4 (if seen.isNone then 0 else (snap.map (fun x => x.drained)).getD s.husk.lastDrained)), (0x1C, le 4 s.husk.reserve.length),
       (0x20, le 8 (has s.husk.lastCommitted)), (0x28, le 8 (has s.husk.lastSystem))])

/-- Participant `p` of the pending snapshot is in phase `n`. -/
def inPhase (s : State) (p n : Nat) : Bool := epochActive s && s.husk.snap.any (fun x => x.parts.any (fun q => q.part = p && q.phase = n))

/-- HUSK_FLIP (R664, R677, R680). -/
def execHuskFlip (p : Fin 16) (s : State) : Out := if inPhase s p 1 then nextN s (flip s p) else .next s

/-- HUSK_PAUSE_END (R677, R703). -/
def execHuskPauseEnd (p : Fin 16) (s : State) : Out := if inPhase s p 2 then nextN s (pauseEnd s p) else .next s

/-- SNAP_WAIT_TIMEOUT (R680, R692). -/
def execSnapWaitTimeout (s : State) : Out :=
  if s.husk.current.any (fun e => e.state = .open) && s.husk.snap.any (fun x => x.parts.any (fun q => q.phase = 0)) then nextN s (epochIncomplete s 5) else .next s

/-- DRAIN_SEGMENT_ISSUE (R661, R683, R687–R690). -/
def execDrainSegmentIssue (s : State) : Out := nextN s (drainSegment s)

/-- SNAP_OUTCOME_RECEIVE (R698). (DEDUCED: log entry 55.) -/
def execSnapOutcomeReceive (src : Fin 128) (key : W32) (outcome : Byte) (s : State) : Out :=
  if !hasEntry s src || outcome ≠ 0 then .next s
  else if s.husk.snap.any (fun x => x.scope = 2 && x.snapKey = key) then .next (modSnap s (fun x => { x with abandoned := true }))
  else
    match s.husk.waiting.find? (fun w => w.snapKey = key && !w.answered) with
    | some w => nextN s (answerSys s w 0x0A06 3)
    | none => .next s

/-- SYSTEM_WAIT_TIMEOUT (R699). -/
def execSystemWaitTimeout (epoch : Nat) (s : State) : Out :=
  match s.husk.waiting.find? (fun w => w.epoch = epoch && !w.answered) with
  | some w => nextN s (answerSys s w 0x0A07 1)
  | none => .next s

/-- A RELEASE reaches a system snapshot (R696, R699). -/
def snapRelease (s : State) (r : SyncRec) : State :=
  match s.husk.waiting.find? (fun w => snapBarrier w.snapKey = r.barrier) with
  | none => s
  | some w =>
    let yes := r.result = 0 && r.v0 = 1
    let sys := if yes then 2 else 3
    let s1 :=
      if yes then
        let t := match (s.vol 0).epochs.find? (fun e => e.number = w.epoch) with | some e => writeSystem s e w.snapKey w.n | none => s
        { t with husk := { t.husk with lastSystem := max t.husk.lastSystem w.epoch } }
      else s
    let s2 := answerSys s1 w (if yes then 0 else 0x0A06) sys
    let s3 := { s2 with husk := { s2.husk with waiting := s2.husk.waiting.filter (fun x => x.epoch ≠ w.epoch) } }
    if w.undecided then eventPart s3 w.self 0x0A04 (le 8 w.epoch ++ le 4 w.snapKey.toNat ++ le 1 sys) else s3

end Sys2Proof.Machine
end

