-- ==== Sys2Proof/Machine/Husk.lean ====
section
/-! DEFINITION. Mounting, HUSK.VOLUME_FORMAT, HUSK.COMPACT, HUSK.RESTORE, and the buddy's records (R705–R753). -/

namespace Sys2Proof.Machine

/-- VOLUME_MOUNT (R709). (DESIGN CHOICE: log entry 53.) -/
def execVolumeMount (k : Fin 5) (info : MountInfo) (s : State) : Out :=
  if !s.ready || (s.vol k).mounted || (s.husk.format.any (fun f => f.volume = k.val)) then .next s
  else
    match namingBlock s k with
    | some b => nextN s (mountVolume s k b info)
    | none => .next s

/-- The guest volume of a source (R705). -/
def guestOf (s : State) (volume : Nat) : Option Nat :=
  [1, 2, 3, 4].find? (fun k => (tfind s.husk.volumes k).any (fun v => v.sourceVolume.toNat = volume))

/-- A volume can be used: READY or DEGRADED (R710). -/
def volumeUsable (s : State) (k : Nat) : Bool := (s.vol k).state = .ready || (s.vol k).state = .degraded

/-- Namespaces that HUSK.VOLUME_FORMAT names: port and NSID, in port order. -/
def formatNames (c : Consumed) : List (Nat × Nat) :=
  (List.range 8).filterMap (fun n => if c.u32 (8 + 4 * n) = 0 then none else some (n, c.u32 (8 + 4 * n)))

/-- The volume that a request of HUSK.VOLUME_FORMAT acts on, where it exists. (DEDUCED: log entry 58.) -/
def formatVolume (s : State) (c : Consumed) : Option Nat :=
  if c.u8 0 = 2 || (c.u8 0 = 3 && c.u64 0x28 ≠ 0) then guestOf s (c.u64 0x28) else if (s.vol 0).members.isEmpty then none else some 0

/-- A field of HUSK.VOLUME_FORMAT lies outside its range, or it names too many or no namespaces. -/
def formatBad (s : State) (c : Consumed) : Bool :=
  let m := c.u8 0
  let n := (formatNames c).length
  let size := (s.vol 0).members.length
  3 < m || 1 < c.u8 2 || c.u32 4 ≠ 0 || ((m = 0 || m = 2) && (c.u8 1 = 0 || 16 < c.u8 1 || n = 0))
    || (m = 1 && (n ≠ 1 || (size ≠ 0 && size ≤ c.u8 3))) || (m = 2 && (c.u64 0x28 = 0 || 127 < c.u8 0x3C))

/-- A namespace named is already a member of the husk volume. -/
def ofHusk (s : State) (n nsid : Nat) : Bool := (s.vol 0).members.any (fun m => m.2.serial = (s.dp n).drive.serial && m.2.nsid = nsid)

/-- Refusals of HUSK.VOLUME_FORMAT (R735). (DEDUCED: log entry 58.) -/
def formatRefusal (s : State) (c : Consumed) : Option Nat :=
  let m := c.u8 0
  let force := bitOf (c.u8 2) 0
  let v := formatVolume s c
  let l := if m = 3 then [] else formatNames c
  let owner (e : Nat × Nat) : Nat := nsOwner s (s.dp e.1).drive.serial e.2
  if formatBad s c then some 0x0005
  else if s.husk.restore.isSome || s.husk.compact.isSome || s.husk.format.isSome || v.any (fun k => (tfind s.husk.fetches k).isSome) then some 0x0009
  else if (m = 0 || m = 1 || (m = 3 && c.u64 0x28 = 0)) && epochActive s then some 0x0308
  else
    match l.findSome? (fun e => nsRefusal s e.1 e.2) with
    | some st => some st
    | none =>
      if l.any (fun e => owner e ≠ 0 && !(m = 0 && force && ofHusk s e.1 e.2)) then some 0x0908
      else if m = 2 && l.any (fun e => !((nsRecord s (s.dp e.1).drive.serial e.2).any (fun r => r.clean))) then some 0x090B
      else if (m = 0 && v.isSome && !force) || (m = 2 && v.isSome) || (m = 1 && v.isSome && memberHere s ((s.vol 0).member (c.u8 3))) then some 0x0A08
      else if m = 2 && [1, 2, 3, 4].all (fun k => (tfind s.husk.volumes k).isSome) then some 0x000A
      else if l.any (fun e => (nsOf s e.1 e.2).any (fun x => segmentsOf x < 4)) then some 0x0A09
      else if (m = 1 || m = 3) && v.isNone then some 0x0A03
      else none

/-- A request of HUSK.VOLUME_FORMAT with one mode; an undefined mode is refused by CREATE's row. -/
def withFormat (s : State) (fn : Fn) (mode : Nat) (k : Consumed → State → State) : Out :=
  match startable s fn 10 4 with
  | none => .next s
  | some c =>
    if c.u8 0 ≠ mode && !(mode = 0 && 3 < c.u8 0) then .next s
    else match formatRefusal s c with
      | some st => nextN s (finishSt s fn c.id st)
      | none => nextN s (k c (accept s fn c.id))

/-- Members that a format makes of the namespaces named. (DEDUCED: log entry 58.) -/
def formatMembers (s : State) (c : Consumed) (epochHigh : Nat) : List Member :=
  (formatNames c).filterMap (fun e => (nsOf s e.1 e.2).map (fun x => newMember s e.1 x epochHigh))

/-- The superblocks of members `ms` of volume `k` are written, and their owner set (R736). (DEDUCED: log entry 58.) -/
def formatRun (s : State) (fn : Fn) (id k owner : Nat) (ms : List Nat) : State :=
  let t := ms.foldl (fun t m => let x := (t.vol k).member m; ownNs t x.serial x.nsid owner)
    { s with husk := { s.husk with format := some { fn := fn.val, cmdId := id, volume := k, failed := false } } }
  formatOn (ms.foldl (fun t m => formatMember t k m) t)

/-- A volume that is formatted: its identification drawn at random, its members in order. -/
def freshVolume (s : State) (c : Consumed) (guest : Bool) : Volume × State :=
  let r := s.takeFree (2 ^ 64 - 1)
  let ms := formatMembers s c 0
  ({ Volume.init with
     id := BitVec.ofNat 64 (r.1 + 1), guest := guest, retain := c.u8 1, members := (List.range ms.length).zip ms, mounted := true
     sourceVolume := if guest then BitVec.ofNat 64 (c.u64 0x28) else 0, sourceSerial := if guest then bytesAt (c.req.payload.drop 0x30) 0 12 else []
     sourceLink := if guest then c.u8 0x3C else 0 }, r.2)

/-- HUSK_VOLUME_FORMAT_CREATE (R735, R736). -/
def execHuskVolumeFormatCreate (fn : Fn) (s : State) : Out :=
  withFormat s fn 0 fun c s =>
    let old := s.vol 0
    let v := freshVolume s c false
    let gone := old.members.filter (fun m => !v.1.members.any (fun x => x.2.serial = m.2.serial && x.2.nsid = m.2.nsid))
    let t := gone.foldl (fun t m => ownNs t m.2.serial m.2.nsid 0) v.2
    formatRun (setVol t 0 { v.1 with state := old.state }) fn c.id 0 0x20 (v.1.members.map (fun m => m.1))

/-- HUSK_VOLUME_FORMAT_GUEST (R735, R736). -/
def execHuskVolumeFormatGuest (fn : Fn) (s : State) : Out :=
  withFormat s fn 2 fun c s =>
    let k := ([1, 2, 3, 4].find? (fun k => (tfind s.husk.volumes k).isNone)).getD 4
    let v := freshVolume s c true
    formatRun (setVol v.2 k v.1) fn c.id k 0x21 (v.1.members.map (fun m => m.1))

/-- HUSK_VOLUME_FORMAT_REPLACE (R735, R736): every unit is drained whole at its next snapshot. -/
def execHuskVolumeFormatReplace (fn : Fn) (s : State) : Out :=
  withFormat s fn 1 fun c s =>
    let m := c.u8 3
    let others := ((s.vol 0).members.filter (fun x => x.1 ≠ m)).map (fun x => x.2)
    match (formatMembers s c ((others.map (fun x => x.epochHigh)).foldl max 0)).head? with
    | none => s
    | some x =>
      let old := (s.vol 0).member m
      let t := modMember (ownNs s old.serial old.nsid 0) 0 m (fun _ => { x with gen := (others.map (fun x => x.gen)).foldl max 0 })
      formatRun { t with husk := { t.husk with needWhole := List.range 576 } } fn c.id 0 0x20 [m]

/-- HUSK_VOLUME_FORMAT_RELEASE (R735, R736). -/
def execHuskVolumeFormatRelease (fn : Fn) (s : State) : Out :=
  withFormat s fn 3 fun c s =>
    match formatVolume s c with
    | none => s
    | some k =>
      let v := s.vol k
      let t := v.members.foldl (fun t m => ownNs t m.2.serial m.2.nsid 0) (dropWriter s k)
      let u := noteVolume (setVol t k { v with members := [] }) k
      workDone { u with husk := { u.husk with volumes := tdel u.husk.volumes k } } fn c.id
        ⟨0, 0, fields 16 [(0, le 8 v.id.toNat), (8, le 1 v.members.length), (12, le 4 ((v.members.map (fun m => m.2.segments)).foldl min 0xFFFFFFFF))]⟩

/-- The volume that HUSK.COMPACT names. (DEDUCED: log entry 58.) -/
def compactVolume (s : State) (c : Consumed) : Option Nat := (if c.u8 0 = 0 then some 0 else guestOf s (c.u64 8)).filter (volumeUsable s)

/-- The `n` oldest segments in use of each member of volume `k`, the one at the write position apart (R731, R733). -/
def oldSegments (v : Volume) (n : Nat) : List (Nat × Nat) :=
  v.members.flatMap (fun m =>
    let seqs := ((m.2.inUse.map (fun g => g.seq)).foldl sins []).take n
    (seqs.filter (fun q => m.2.inUse.any (fun g => g.seq = q && m.2.current ≠ some g.index))).map (fun q => (m.1, q)))

/-- HUSK_COMPACT (R733, R737). A compaction that paused for an epoch or a fetch goes on here. -/
def execHuskCompact (fn : Fn) (s : State) : Out :=
  let t := note s (compactOn (compactFuel s) s)
  withCmd t fn 10 6 fun c s0 =>
    let st (v : Nat) : State := finishSt s0 fn c.id v
    if 1 < c.u8 0 || rd 7 c.req.payload 1 ≠ 0 || c.u32 0x10 = 0 || 4096 < c.u32 0x10 then st 0x0005
    else
      match compactVolume s0 c with
      | none => st 0x0A03
      | some k =>
        if s0.husk.restore.isSome || s0.husk.format.isSome || s0.husk.compact.isSome then st 0x0009
        else
          let x : Compact :=
            { fn := fn.val, cmdId := c.id, volume := k, left := oldSegments (s0.vol k) (c.u32 0x10), ext := 0, stage := 0, freed := 0, relocated := 0 }
          let u := accept s0 fn c.id
          let w := { u with husk := { u.husk with compact := some x } }
          note s0 (compactOn (compactFuel w) w)

/-- What a request of HUSK.RESTORE asks for. -/
def wishOf (c : Consumed) : EpochWish := { mask := c.u16 2, epoch := c.u64 8, key := c.u32 0x10, system := bitOf (c.u8 1) 1 }

/-- A field of HUSK.RESTORE lies outside its range, or a reserved bit is set. -/
def restoreBad (c : Consumed) : Bool :=
  1 < c.u8 0 || 3 < c.u8 1 || c.u16 2 = 0 || (c.u8 0 = 1 && 127 < c.u8 4) || rd 3 c.req.payload 5 ≠ 0 || c.u32 0x14 ≠ 0

/-- Refusals of HUSK.RESTORE (R738, R740). -/
def restoreRefusal (s : State) (fn : Nat) (c : Consumed) : Option Nat :=
  let ps := bitsSet (c.u16 2) 16
  let buddy := c.u8 0 = 1
  let found := chosenEpoch s 0 (wishOf c)
  if fn ≠ 0 && c.u16 2 ≠ 2 ^ (fn - 1) then some 0x0006
  else if restoreBad c then some 0x0005
  else if s.husk.cfg.isNone then some 0x0A02
  else if s.husk.restore.isSome || s.husk.compact.isSome || s.husk.format.isSome then some 0x0009
  else if !buddy && !volumeUsable s 0 then some 0x0A03
  else if ps.any (fun p => (s.pt p).state ≠ .assigned || !(s.pt p).powered || !(s.pt p).handles.isEmpty) then some 0x0008
  else if ps.any (participant s) then some 0x0308
  else if !buddy && found.isNone then some 0x0A0A
  else if buddy && (routePort s (c.u8 4) 0).isNone then some 0x0A0E
  else if !buddy && found.any (fun e => layoutDiffers s e (c.u16 2)) then some 0x0A0B
  else none

/-- BUDDY_FETCH (R726). -/
def sendFetch (s : State) (dst : Nat) (volume : W64) (q : EpochWish) : State :=
  sendMgmt s dst 255 255 0x0084 (le 8 volume.toNat ++ le 8 q.epoch ++ le 4 q.key ++ le 2 q.mask ++ le 1 (b2n q.system))

/-- HUSK_RESTORE (R738–R743). -/
def execHuskRestore (fn : Fn) (s : State) : Out :=
  withCmd s fn 10 5 fun c s0 =>
    match restoreRefusal s0 fn c with
    | some st => finishSt s0 fn c.id st
    | none =>
      let buddy := if c.u8 0 = 1 then some (c.u8 4) else none
      let r : Restore :=
        { fn := fn.val, cmdId := c.id, jobId := c.req.jobId, buddy := buddy, allowPoison := bitOf (c.u8 1) 0, mask := c.u16 2
          volumeId := if buddy.isSome then BitVec.ofNat 64 (c.u64 0x18) else (s0.vol 0).id, epoch := none, deltas := 0, startTime := s0.time
          lostState := [], silent := false }
      let t := accept s0 fn c.id
      let u := { t with husk := { t.husk with restore := some r } }
      match buddy, chosenEpoch s0 0 (wishOf c) with
      | some b, _ => note s0 (sendFetch u b r.volumeId (wishOf c))
      | none, some e =>
        let d := reader0 0 e (planOf (s0.vol 0) e r.mask) ((chainEpochs (s0.vol 0) e r.mask).map (fun x => x.number))
        let w := restoreBegin u e d
        note s0 (readerOn (readerFuel w 0) w 0)
      | none, none => u

/-- RESTORE_RESUME (R749). -/
def execRestoreResume (s : State) : Out :=
  match s.husk.progress with
  | none => .next s
  | some (r, d) =>
    if !s.ready || s.husk.restore.isSome then .next s
    else
      match r.buddy with
      | none =>
        if !volumeUsable s 0 then .next s
        else
          let t := { s with husk := { s.husk with
            progress := none, restore := some r, readers := tset s.husk.readers 0 { d with rebuilding := false, awaited := 0, acc := [], broken := false } } }
          nextN s (readerOn (readerFuel t 0) t 0)
      | some b =>
        let t := { s with husk := { s.husk with progress := none, restore := some { r with epoch := none, lostState := [] } } }
        nextN s (sendFetch t b r.volumeId { mask := r.mask, epoch := d.epoch, key := 0, system := false })

/-- A BUDDY_ACK goes to a module whose record names no volume here. -/
def nackOpen (s : State) (dst volume epoch status : Nat) : State :=
  sendMgmt s dst 255 255 0x0083 (le 8 volume ++ le 8 epoch ++ le 2 0 ++ le 2 status)

/-- BUDDY_OPEN (R717, R726, R727). (DEDUCED: log entry 57.) -/
def execBuddyOpen (src : Fin 128) (volume epoch _n : Nat) (s : State) : Out :=
  match (guestOf s volume).filter (fun k => (s.vol k).sourceLink = src.val && volumeUsable s k) with
  | none => nextN s (nackOpen s src volume epoch 0x0A03)
  | some k => let t := beginWriter (dropWriter s k) k epoch (s.husk.cfg.any (fun c => c.parity)) 0; nextN s (writerOn 6 (judge t k) k)

/-- The guest volume of a source whose epoch is being written. -/
def guestWriter (s : State) (src volume epoch : Nat) : Option (Nat × Writer) :=
  (guestOf s volume).bind (fun k => ((tfind s.husk.writers k).filter (fun w => w.epoch = epoch && (s.vol k).sourceLink = src)).map (fun w => (k, w)))

/-- BUDDY_COMMIT (R727). (DEDUCED: log entry 57.) -/
def execBuddyCommit (src : Fin 128) (volume epoch n : Nat) (s : State) : Out :=
  match guestWriter s src volume epoch with
  | none => .next s
  | some (k, w) =>
    if w.source.isNone || n ≠ w.next + 1 then nextN s (writerFails (modWriter s k (fun w => { w with stage := max 1 w.stage })) k 0 0x0A0C)
    else nextN s (writerOn 6 (modWriter s k (fun w => { w with ended := true })) k)

/-- BUDDY_ACK (R726, R728). -/
def execBuddyAck (src : Fin 128) (volume epoch : Nat) (step : Fin 2) (status : Nat) (s : State) : Out :=
  match s.husk.snap, s.husk.current with
  | some x, some e =>
    if s.husk.cfg.bind (fun c => c.buddy) ≠ some src.val || (s.vol 0).id.toNat ≠ volume || e.number ≠ epoch then .next s
    else if status ≠ 0 then nextN s (buddyFails s status)
    else if step.val = 0 && x.buddy = 1 then nextN s (writerOn 6 (modSnap s (fun x => { x with buddy := 2 })) 0)
    else if step.val = 1 && x.buddy = 3 then nextN s (writerOn 6 (modSnap s (fun x => { x with buddy := 4 })) 0)
    else .next s
  | _, _ => .next s

/-- BUDDY_ACK_TIMEOUT (R728). -/
def execBuddyAckTimeout (s : State) : Out :=
  if s.husk.snap.any (fun x => x.buddy = 1 || x.buddy = 3) then nextN s (buddyFails s 0x0A0E) else .next s

/-- BUDDY_FETCH (R726, R739, R743). (DEDUCED: log entry 57.) -/
def execBuddyFetch (src : Fin 128) (volume epoch key mask : Nat) (sysOnly : Bool) (s : State) : Out :=
  let no (st : Nat) : State := sendMgmt s src 255 255 0x0085 (le 8 volume ++ le 8 epoch ++ le 4 0 ++ le 2 st)
  match (guestOf s volume).filter (volumeUsable s) with
  | none => nextN s (no 0x0A03)
  | some k =>
    if (tfind s.husk.fetches k).isSome then nextN s (no 0x0009)
    else
      match chosenEpoch s k { mask := mask, epoch := epoch, key := key, system := sysOnly } with
      | none => nextN s (no 0x0A0A)
      | some e =>
        let v := s.vol k
        let b := commitBytes true e
        let t := { s with husk := { s.husk with
          readers := tset s.husk.readers k (reader0 k e (planOf v e mask) ((chainEpochs v e mask).map (fun x => x.number)))
          fetches := tset s.husk.fetches k { dst := src.val, sent := 0 } } }
        let u := fetchSend t k { epoch := e.number, kind := 6, whole := false, poison := 0, partition := 255, seq := 0, address := 0, crc := crc32c b, member := 0 } 0 b
        nextN s (readerOn (readerFuel u k) u k)

/-- A restore from a buddy that has not learnt its epoch ends with a status (R740). -/
def refuseRestore (s : State) (status : Nat) : State :=
  match s.husk.restore with
  | none => s
  | some r => if r.silent then endRestore s status else workDone { s with husk := { s.husk with restore := none } } r.fn r.cmdId ⟨status, 0, []⟩

/-- BUDDY_FETCH_DONE (R726, R740). -/
def execBuddyFetchDone (src : Fin 128) (volume epoch sent status : Nat) (s : State) : Out :=
  match s.husk.restore with
  | none => .next s
  | some r =>
    let got := ((tfind s.husk.readers 0).map (fun d => d.records)).getD 0
    let named := r.epoch.all (fun e => e.number = epoch)
    if r.buddy ≠ some src.val || r.volumeId.toNat ≠ volume || !named then .next s
    else if r.epoch.isNone then nextN s (refuseRestore s (if status = 0 then 0x0A0C else status))
    else if status = 0 && sent = got + 1 then nextN s (restoreFinish s)
    else nextN s (endRestore s (if status = 0 then 0x0A0C else status))

/-- BUDDY_FETCH_TIMEOUT (R740). -/
def execBuddyFetchTimeout (s : State) : Out :=
  match s.husk.restore with
  | none => .next s
  | some r => if r.buddy.isNone then .next s else nextN s (if r.epoch.isNone then refuseRestore s 0x0A0E else endRestore s 0x0A0E)

/-- A record that a restore receives from the buddy (R743–R745): the COMMIT content first. -/
def restoreRecord (s : State) (r : Restore) (d : LogRec) (data : List Byte) : State :=
  if d.kind = 6 then
    if r.epoch.isSome then s
    else
      let e := epochOf data
      if layoutDiffers s e r.mask then refuseRestore s 0x0A0B else restoreBegin s e (reader0 0 e [] [e.number])
  else if crc32c data ≠ d.crc then restoreLost s d
  else placeRead (modReader s 0 (fun x => { x with records := x.records + 1, bytes := x.bytes + 0x10000 })) d data d.poison

/-- An ENGINE 3 transaction (R725, R727, R743). (DEDUCED: log entry 57.) -/
def buddyRecord (s : State) (b : Bulk) : State :=
  let d := logRecOf b.content
  let data := bytesAt (b.content.drop 64) 0 0x10000
  let k := ([1, 2, 3, 4].find? (fun k => (tfind s.husk.volumes k).any (fun v => v.sourceVolume.toNat % 2 ^ 32 = b.key && v.sourceLink = b.src)
    && (tfind s.husk.writers k).any (fun w => w.epoch = d.epoch && 1 ≤ w.stage && !w.ended)))
  match s.husk.restore.filter (fun r => r.buddy = some b.src && r.volumeId.toNat % 2 ^ 32 = b.key && (d.kind = 6 || r.epoch.isSome)), k with
  | some r, _ => sendComplete (restoreRecord s r d data) b 0
  | none, none => sendComplete s b 0x0604
  | none, some k =>
    let t :=
      if d.kind = 6 then modWriter s k (fun w => { w with source := some (epochOf data) })
      else (writeData s k { d with seq := b.offset } data 16).getD (volumeFull s k)
    writerOn 6 (sendComplete t b 0) k

end Sys2Proof.Machine
end

