-- ==== Sys2Proof/Machine/Movers.lean ====
section
/-! DEFINITION. The MEM commands, mover descriptors, the patrol scrubber and copies before writes (R499–R518, R681–R684). -/

namespace Sys2Proof.Machine

/-- The refusal of one descriptor of MEM.COPY: whether its word was read poisoned, and its bytes (R510, R516). (DEDUCED: log entry 42.) -/
def copyRefusal (s : State) (fn p : Nat) (bad : Bool) (b : List Byte) : Option Nat :=
  let d := descOf b
  if bad || !descForm b then some 0x0005
  else if d.remote && d.rows * d.rowBytes < 4096 then some 0x0603
  else descRefusal s fn p d

/-- The first descriptor of a list that fails a check: its status and index. -/
def firstRefused (s : State) (fn p i : Nat) (l : List (Bool × List Byte)) : Option (Nat × Nat) :=
  match l with
  | [] => none
  | x :: r => match copyRefusal s fn p x.1 x.2 with
    | some st => some (st, i)
    | none => firstRefused s fn p (i + 1) r

/-- The descriptors that a MEM.COPY names: its list in device memory, or the inline one. -/
def copyList (s : State) (c : Consumed) : List (Bool × List Byte) × State :=
  if c.u64 8 = 0 then ([(false, bytesAt (c.req.payload.drop 16) 0 64)], s)
  else
    let x := engineRead s (c.u64 8) (64 * c.u32 0)
    ((List.range (c.u32 0)).map (fun i => (x.2.1.contains (c.u64 8 + 64 * i), bytesAt (x.1.drop (64 * i)) 0 64)), x.2.2)

/-- MEM_COPY (R516). -/
def execMemCopy (fn : Fn) (s : State) : Out :=
  withCmd s fn 6 3 fun c s =>
    let p := reqPart fn c.req
    let n := c.u32 0
    if c.u32 4 ≠ 0 || n = 0 || 65536 < n || c.u64 8 % 64 ≠ 0 || (c.u64 8 = 0 && n ≠ 1) then finishSt s fn c.id 0x0005
    else match partRefusal s p with
      | some st => finishSt s fn c.id st
      | none =>
        match (if c.u64 8 = 0 then none else rangeRefusal s fn p (c.u64 8) (64 * n) false) with
        | some st => finishSt s fn c.id st
        | none =>
          let l := copyList s c
          match firstRefused l.2 fn p 0 l.1 with
          | some (st, i) => finish l.2 fn c.id ⟨st, i, []⟩
          | none => pushList (accept l.2 fn c.id) (some (fn.val, c.id)) (memberOf fn c) c.req.jobId c.req.tag.toNat false fn (l.1.map (fun x => descOf x.2))

/-- MEM_FILL (R517). (DEDUCED: log entry 42.) -/
def execMemFill (fn : Fn) (s : State) : Out :=
  withCmd s fn 6 4 fun c s =>
    let p := reqPart fn c.req
    let dst := c.u64 0
    let n := c.u64 8
    if n < 64 || n % 64 ≠ 0 || (cellBase ≤ dst && dst % 64 ≠ 0) then finishSt s fn c.id 0x0005
    else match partRefusal s p with
      | some st => finishSt s fn c.id st
      | none =>
        match rangeRefusal s fn p dst n true with
        | some st => finishSt s fn c.id st
        | none =>
          let d : Desc :=
            { fill := true, setFlag := false, flagSet := 0, waitPrev := false, srcHost := false, dstHost := false, remote := false, remoteId := 0
              remotePart := 0, rows := 1, src := c.u64 16, dst := dst, rowBytes := n, srcStride := 0, dstStride := 0 }
          pushList (accept s fn c.id) (some (fn.val, c.id)) (memberOf fn c) c.req.jobId c.req.tag.toNat true fn [d]

/-- MEM_QUERY (R518). -/
def execMemQuery (fn : Fn) (s : State) : Out :=
  withCmd s fn 6 5 fun c s =>
    let k := c.u8 1
    if 1 < c.u8 0 then finishSt s fn c.id 0x0005
    else if c.u8 0 = 0 then
      let p := reqPart fn c.req
      if 15 < p then finishSt s fn c.id 0x0005
      else
        let x := s.pt p
        finishOk s fn c.id (fields 16 [(0, le 2 x.unitCount), (2, le 1 x.windows.length), (8, le 8 x.spaceSize)])
    else if fn.val ≠ 0 then finishSt s fn c.id 0x0006
    else if 5 < k then finishSt s fn c.id 0x0005
    else
      let w (t : Tab W32) : List Byte := le 4 (tget 0 t k).toNat
      finishOk s fn c.id (fields 24
        [(0, w s.hbm.corrected), (4, w s.hbm.uncorrectable), (8, w s.hbm.poisonedReads), (12, le 1 (b2n s.hbm.selfRefresh))
         , (16, le 8 (tget 0 s.hbm.scrubPasses k).toNat)])

/-- A queued descriptor of kind FILL (`fill`) or COPY starts (R444, R512). -/
def startJob (s : State) (job : Nat) (fill : Bool) : State :=
  match jobOf s job with
  | none => s
  | some j => if j.desc.fill = fill && jobStartable s j then modJob s job (fun y => { y with started := true }) else s

/-- MOVER_COPY (R506). (DESIGN CHOICE: log entry 41.) -/
def execMoverCopy (job : Nat) (s : State) : Out := .next (startJob s job false)

/-- MOVER_FILL (R506). (DESIGN CHOICE: log entry 41.) -/
def execMoverFill (job : Nat) (s : State) : Out := .next (startJob s job true)

/-- Last word of the stack that holds word `w`, counted in 64-byte words: the stack's last interleave unit ends there. (DEDUCED: log entry 44.) -/
def lastOfStack (w : Nat) : Bool := hbmSize ≤ w * 64 + 6 * 256 && w % 4 = 3

/-- PATROL_SCRUB (R502): word `word` of HBM is read; a poisoned word is left alone. A pass of a stack ends with its last word. (DEDUCED: log entry 44.) -/
def execPatrolScrub (word : Fin 2415919104) (s : State) : Out :=
  let w := word.val
  if !s.hbm.ready then .next s
  else
    let t := if s.hbm.poison.contains w then s else readHbmWord s (w * 64)
    let k := stackOf (w * 64)
    nextN s (if lastOfStack w then { t with hbm := { t.hbm with scrubPasses := tset t.hbm.scrubPasses k (tget 0 t.hbm.scrubPasses k + 1) } } else t)

/-- COPY_ON_WRITE (R681, R682, R684): a tracked write that falls on a granule which needs a copy. -/
def execCopyOnWrite (part : Fin 17) (addr : Nat) (data : List Byte) (poison : Bool) (s : State) : Out :=
  if inHbm addr data.length && s.hbm.ready && (granules addr data.length).any (frozenLeft s)
  then nextN s (trackedWrite s part addr data (fun _ _ => poison)) else .next s

/-- A reserve entry freed lets the oldest held write without an entry claim one (R684). -/
def claimWaiting (s : State) : State :=
  s.husk.heldWrites.foldl (fun t h => if frozenLeft t h.granule then cowClaim t h.part h.granule else t) s

/-- COW_COPY_COMPLETE (R681, R682): the granule's copy stands in its entry, the granule is no longer protected, and the writes held for it
are applied in the order in which they arrived. -/
def execCowCopyComplete (entry : Nat) (s : State) : Out :=
  match s.husk.reserve.find? (fun r => r.entry = entry && !r.copied), s.husk.cfg with
  | some r, some c =>
    let src := r.granule * 0x10000
    let dst := c.reserveFirst * 0x10000000 + entry * 0x10000
    let bad := poisonedWords s src 0x10000
    let h := hbmPut s.hbm dst (devBytes s src 0x10000) (fun o n => touchesAny bad (src + o) n)
    let t := { s with hbm := h, husk := { s.husk with
      settled := sins s.husk.settled r.granule
      reserve := s.husk.reserve.map (fun x => if x.entry = entry then { x with copied := true } else x) } }
    nextN s (applyHeld t (fun h => h.granule = r.granule))
  | _, _ => .next s

/-- RESERVE_ENTRY_FREED (R683–R685): the entry's granule is on the drives; a writer that waits claims the entry, and a partition stalled for
the reserve goes on where its entry no longer lacks one. -/
def execReserveEntryFreed (entry : Nat) (s : State) : Out :=
  if s.husk.reserve.any (fun r => r.entry = entry && r.copied && r.written) then
    let t := claimWaiting { s with husk := { s.husk with reserve := s.husk.reserve.filter (fun r => r.entry ≠ entry) } }
    nextN s ((List.range 16).foldl
      (fun t p => if (t.pt p).run.stall = some .husk && !((List.range (t.pt p).run.movers.length).any (fun i => entryDue t p i && entryHeld t p i))
        then endStall t p else t) t)
  else .next s

end Sys2Proof.Machine
end

