-- ==== Sys2Proof/Machine/Engines.lean ====
section
/-! DEFINITION. The shared engines' arbitration by deficit round robin, and the end of mover and embedding descriptors (R441–R448, R513–R515). -/

namespace Sys2Proof.Machine

/-- A segment that waits for an engine. -/
inductive Work where
  | mover (job : Nat)
  | emb (job : Nat)
  | coll (part : Nat) (key : W32)
  | drive (port cid : Nat)
deriving DecidableEq, Repr

/-- The head segment of a member at an engine: its size, the bytes that it counts against each of the member's regulators, and the work. -/
structure Head where
  size : Nat
  charges : List Nat
  work : Work
deriving DecidableEq, Repr

/-- HBM bytes among `n` from `a`. -/
def hbmBytes (a n : Nat) : Nat := if a < cellBase then n else 0

def moverHead (s : State) (m : Nat) : Option Head :=
  (s.eng.jobs.find? (fun j => j.member = m && j.waiting && segmentFree s j)).map (fun j =>
    { size := j.nextLen, charges := j.charges, work := .mover j.id })

/-- HBM bytes of rows that a GATHER's segment reads on this device. -/
def gatherRead (s : State) (t : EmbTable) (j : EmbJob) : Nat :=
  let rows := ((j.bags.drop j.next).take (j.segmentBags t)).flatMap (fun b => b.map (fun x => x.1))
  (rows.map (fun i => if t.rows ≤ i then 0 else match rowHome s t i with
    | .replica a => hbmBytes a t.rowBytes
    | .shard a => hbmBytes a t.rowBytes
    | .remote _ => 0)).foldl (· + ·) 0

def embHead (s : State) (m : Nat) : Option Head :=
  if !s.hbm.ready then none else
  (s.eng.emb.find? (fun j => j.part = m && j.waiting)).map (fun j =>
    match tableOf s j.key with
    | none => { size := 0, charges := [], work := .emb j.id }
    | some t =>
      let each := j.segmentBags t
      let bytes := each * j.desc.outBytes t.dim
      let size := min 0x10000 (each * (if j.desc.op = 0 then j.desc.outBytes t.dim else j.desc.outStride))
      if j.desc.op = 0 then { size := size, charges := [gatherRead s t j, hbmBytes j.desc.out bytes], work := .emb j.id }
      else { size := size, charges := [hbmBytes j.desc.out bytes], work := .emb j.id })

def collHead (s : State) (m : Nat) : Option Head :=
  if !s.hbm.ready then none else
  (s.link.colls.find? (fun c => c.part = m && 0 < c.segment)).map (fun c =>
    let n := c.segment
    let b := hbmBytes c.buf n
    { size := n, charges := if c.sending then [b, 0, n] else [b + hbmBytes c.scratch n, b, 0], work := .coll c.part c.key })

/-- A queued command may go to its drive: the drive is READY, its fence open, and its queue holds fewer than 255 commands (R633, R643). -/
def mayIssue (s : State) (n : Nat) (c : NvmeCmd) : Bool :=
  (s.dp n).drive.state = .ready && (s.dp n).fence = .open && s.hbm.ready && ((s.dp n).drive.sent.filter (fun x => x.qid = c.qid)).length < (if c.qid = 0 then 27 else 255)

def driveHead (s : State) (m : Nat) : Option Head :=
  (List.range 8).findSome? (fun n =>
    ((s.dp n).drive.queued.find? (fun c => c.member = m && mayIssue s n c)).map (fun c =>
      { size := min 0x10000 c.length, charges := [0, 0, 0, 0, if 2 ≤ c.qid then c.length else 0], work := .drive n c.cid }))

/-- The head segment of member `m` at engine `e`: 0 movers, 1 embedding, 2 collective, 3 drive. In the stopped state the
first three stand still (R854). (DEDUCED: log entry 40.) -/
def headOf (s : State) (e m : Nat) : Option Head :=
  if s.faults.stopped && e < 3 then none
  else match e with
  | 0 => moverHead s m
  | 1 => embHead s m
  | 2 => collHead s m
  | _ => driveHead s m

/-- The member's regulators admit a segment: every bucket that it counts against holds no less than 0 (R448). (DEDUCED: log entry 40.) -/
def bucketsAdmit (x : Part) (charges : List Nat) : Bool :=
  (List.range charges.length).all (fun i =>
    let r := tget Regulator.init x.regs i
    charges.getD i 0 = 0 || r.rate = 0 || 0 ≤ r.level)

/-- The segment's bytes leave the member's buckets (R448). (DEDUCED: log entry 40.) -/
def charge (s : State) (m : Nat) (charges : List Nat) : State :=
  if 16 ≤ m then s
  else
    let x := s.pt m
    let take (t : Tab Regulator) (i : Nat) : Tab Regulator :=
      let r := tget Regulator.init t i
      if charges.getD i 0 = 0 || r.rate = 0 then t else tset t i { r with level := r.level - charges.getD i 0 }
    s.setPt m { x with regs := (List.range charges.length).foldl take x.regs }

/-- Arbitration state of engine `e`. -/
def arbOf (s : State) (e : Nat) : Arb := tget Arb.init s.eng.arb e
def setArb (s : State) (e : Nat) (a : Arb) : State := { s with eng := { s.eng with arb := tset s.eng.arb e a } }

/-- The next segment of engine `e` by deficit round robin (R445), with the arbitration state after it: `fresh` says that the member whose turn
it is has not had this round's share yet. At most `n` visits. (DEDUCED: log entry 40.) -/
def nextTurn (s : State) (e n : Nat) (a : Arb) (fresh : Bool) : Option (Nat × Head) × Arb :=
  match n with
  | 0 => (none, a)
  | n + 1 =>
    let m := a.turn
    let pass (b : Arb) : Option (Nat × Head) × Arb := nextTurn s e n { b with turn := (m + 1) % 17 } true
    match headOf s e m with
    | none => pass { a with deficit := tdel a.deficit m }
    | some h =>
      if !bucketsAdmit (s.pt m) h.charges then pass a
      else
        let d := tget 0 a.deficit m + (if fresh then tget 16 (s.pt m).weight e * 16384 else 0)
        if h.size ≤ d then (some (m, h), { a with deficit := tset a.deficit m (d - h.size) }) else pass { a with deficit := tset a.deficit m d }

/-- A command goes to its drive; one whose queue may not reach the namespace ends with DENIED (R645). -/
def issueDrive (s : State) (n cid : Nat) : State :=
  match (s.dp n).drive.queued.find? (fun c => c.cid = cid) with
  | none => s
  | some c =>
    if c.qid = 0 || mayReach s n c then
      modDrive s n (fun d => { d with queued := d.queued.filter (fun x => x.cid ≠ cid), sent := d.sent ++ [c] })
    else endDriveCmd (dropCmd s n cid) n c (.cut 0x0006 0) noInfo

/-- The segment is carried out. (DESIGN CHOICE: log entry 41.) -/
def runWork (s : State) (w : Work) (buf : Option (List Byte)) : State :=
  match w with
  | .mover id => (jobOf s id).elim s (fun j => moverSegment s j buf)
  | .emb id => (embJobOf s id).elim s (fun j => embSegment s j)
  | .coll p key => (collOf s p key).elim s (fun c => collSegment s c)
  | .drive n cid => issueDrive s n cid

/-- ENGINE_SEGMENT_COMPLETE (R441, R445, R448). `buf` is what a host buffer that the segment reads holds. (DESIGN CHOICE: log entry 41.) -/
def execEngineSegmentComplete (e : Fin 5) (buf : Option (List Byte)) (s : State) : Out :=
  if tget .open s.eng.fences e ≠ FenceState.open then .next s
  else if e.val = 4 then nextN s (drainSegment s)
  else
    let r := nextTurn s e 120 (arbOf s e) false
    let t := setArb s e r.2
    match r.1 with
    | none => .next t
    | some (m, h) => nextN s (runWork (charge t m h.charges) h.work buf)

/-- A mover descriptor has written every byte, none of them is held for a copy, and every REMOTE transfer has completed (R513, R516). -/
def moverComplete (s : State) (j : Job) : State :=
  if !(j.ended || (j.allSent && j.xfers.isEmpty)) || j.fail.isSome || j.desc.dstRanges.any (fun r => r.1 < cellBase && writeHeld s r.1 r.2) then s
  else dropJob (modList (setFlags s j.desc j.dueFlags) j.list (fun l => { l with completed := l.completed + 1 })) j

/-- An embedding descriptor has ended (R526, R533, R534). -/
def embComplete (s : State) (j : EmbJob) : State :=
  if !j.ended || j.fail.isSome || !j.waits.isEmpty then s
  else dropEmb (modList (embFlags s j) j.list (fun l => { l with completed := l.completed + 1 })) j

/-- MOVER_DESCRIPTOR_COMPLETE (R513, R516, R526, R533): a descriptor of either kind. (DESIGN CHOICE: log entry 41.) -/
def execMoverDescriptorComplete (job : Nat) (s : State) : Out :=
  match jobOf s job, embJobOf s job with
  | some j, _ => nextN s (moverComplete s j)
  | none, some j => nextN s (embComplete s j)
  | none, none => .next s

/-- A mover descriptor that failed (R515). (DEDUCED: log entry 42.) -/
def moverFail (s : State) (j : Job) (status cause : Nat) : State :=
  let t := if status = 0x0604 then s else poisonRest s j
  let u := if j.desc.setFlag then setFlags t j.desc ((banksIn j.desc.dstRanges).filter (fun b => !j.flagged.contains b)) else t
  let v := engineFault u j.member j.jobId 0x0603 (le 2 status ++ le 1 cause)
  dropJob { modList v j.list (fun l => l.fail j.index status) with
    link := { v.link with xfers := v.link.xfers.filter (fun x => !j.xfers.contains x.id) } } j

/-- An embedding descriptor that failed (R515, R525, R536, R543); a cause without a code is left open. (DEDUCED: log entry 46.) -/
def embFails (s : State) (j : EmbJob) (status cause : Nat) : State :=
  let t := (embRest s j).foldl (fun t r => poisonRange t r.1 r.2) s
  let c := if cause = 255 then t.takeFree 256 else (cause, t)
  let u := engineFault (embFlags c.2 j) j.part j.jobId 0x0603 (le 2 status ++ le 1 c.1)
  dropEmb (modList u j.list (fun l => l.fail j.index status)) j

/-- MOVER_DESCRIPTOR_FAIL (R515): a descriptor of either kind. -/
def execMoverDescriptorFail (job : Nat) (s : State) : Out :=
  match (jobOf s job).bind (fun j => j.fail.map (fun f => (j, f))), (embJobOf s job).bind (fun j => j.fail.map (fun f => (j, f))) with
  | some (j, st, cause), _ => nextN s (moverFail s j st cause)
  | none, some (j, st, cause) => nextN s (embFails s j st cause)
  | none, none => .next s

end Sys2Proof.Machine
end

