-- ==== Sys2Proof/Machine/Bulk.lean ====
section
/-! DEFINITION. BULK transactions that arrive, COMPLETEs, and barriers (R509, R562–R568, R585). -/

namespace Sys2Proof.Machine

/-- BULK_WRITE_RECEIVE (R509, R563): a WRITE to granules that need a copy first waits (R681). -/
def execBulkWriteReceive (b : Bulk) (s : State) : Out :=
  if b.engine ≠ 0 then .next s
  else
    match bulkAdmission s b with
    | .discard => .next s
    | .hold => .next s
    | .refuse st => nextN s (sendComplete s b st)
    | .take =>
      match (if b.dstPart < 16 then bulkPieces s b else none) with
      | none => nextN s (sendComplete s b 0x0604)
      | some ps =>
        if rangesFrozen s ps then nextN s (claimRanges s b.dstPart ps)
        else if ps.any (fun r => snapHolds s b.dstPart false && 0 < r.2) then .next s
        else nextN s (sendComplete (chargeWrite (windowWrite s b.dstPart b.offset b.content (bulkPois b)) b.dstPart b.content.length) b 0)

/-- BULK_ENGINE_RECEIVE (R563, R574): embedding, collective, or Husk buddy. -/
def execBulkEngineReceive (b : Bulk) (s : State) : Out :=
  if b.engine = 0 || 3 < b.engine then .next s
  else
    match bulkAdmission s b with
    | .discard => .next s
    | .hold => .next s
    | .refuse st => nextN s (sendComplete s b st)
    | .take =>
      nextN s
        (if b.engine = 1 then sendComplete (bundle s b) b 0
         else if b.engine = 2 then collArrive (chargeWrite s b.dstPart b.content.length) b
         else buddyRecord s b)

/-- A BULK transfer ends with a status, for the engine that issued it (R515, R533, R563, R564, R593, R728). -/
def transferEnd (s : State) (x : Xfer) (status : Nat) : State :=
  let t := dropXfer s x.id
  match x.use with
  | .mover job =>
    if status = 0 then modJob t job (fun j => { j with xfers := j.xfers.filter (· ≠ x.id) })
    else modJob t job (fun j => { j with fail := some (j.fail.getD (status, failCause status)) })
  | .emb job key =>
    let u := if status = 0 || job = 0 || (embJobOf t job).all (fun j => j.desc.op = 2) then t else embFail t job status (failCause status)
    fenceOn u key
  | .collective p key =>
    match collOf t p key with
    | none => t
    | some c => if status = 0 then modColl t p key (fun c => { c with xfers := c.xfers.filter (· ≠ x.id) }) else collFail t c status
  | .buddy k _ =>
    if k = 0 then (if status = 0 then buddyCommit t else buddyFails t status)
    else if status = 0 then fetchEnd t k
    else
      match tfind t.husk.fetches k, tfind t.husk.readers k with
      | some f, some d => fetchDone t k f.dst (t.vol k).sourceVolume.toNat d.epoch f.sent status
      | _, _ => t

/-- BULK_COMPLETE_RECEIVE (R563); the stopped state carries Husk buddy traffic only (R854). -/
def execBulkCompleteReceive (xfer status : Nat) (s : State) : Out :=
  match s.link.xfers.find? (fun x => x.id = xfer) with
  | some x => if s.faults.stopped && !(match x.use with | .buddy _ _ => true | _ => false) then .next s else nextN s (transferEnd s x status)
  | none => .next s

/-- BULK_COMPLETE_TIMEOUT (R564): LINK_LOST. -/
def execBulkCompleteTimeout (xfer : Nat) (s : State) : Out :=
  match s.link.xfers.find? (fun x => x.id = xfer) with
  | some x => nextN s (transferEnd s x 0x0801)
  | none => .next s

/-- BARRIER_ARRIVE (R585). -/
def execBarrierArrive (r : SyncRec) (s : State) : Out := nextN s (arriveAtRoot s r)

/-- The user of a barrier proceeds on its RELEASE: a step fence, a collective, or a system snapshot (R535, R588, R695). -/
def released (s : State) (r : SyncRec) : State :=
  let low := r.barrier.toNat % 2 ^ 32
  if 0x80000000 ≤ low then fenceRelease s r.dstPart r else if low = 0xC011 then collRelease s r.dstPart r else if low = 0x4B53 then snapRelease s r else s

/-- BARRIER_RELEASE (R585): a RELEASE from the link, or with no record the oldest that this device as root releases for its own members. (DEDUCED: log entry 49.) -/
def execBarrierRelease (r : Option SyncRec) (s : State) : Out :=
  match r, s.link.releases with
  | some r, _ => nextN s (released s r)
  | none, x :: rest => nextN s (released { s with link := { s.link with releases := rest } } x)
  | none, [] => .next s

end Sys2Proof.Machine
end

