-- ==== Sys2Proof/Machine/Cells.lean ====
section
/-! DEFINITION. The operations of the memory, matrix and vector cells as commands, each on the coming fc of its partition (R283–R317). -/

namespace Sys2Proof.Machine

/-- A cell operation acts in pod `k` on the coming fc; while the pod's schedule does not advance it does not issue (R320, R336). -/
def onPod (k : Nat) (s : State) (f : Nat → Nat → State → State) : Out :=
  match podOn s k with
  | none => .next s
  | some p => nextN s (f p (s.pt p).run.advanced s)

/-- The active configuration of pod `k` of partition `p`. -/
def activeCfg (s : State) (p k : Nat) : PodCfg := s.cfgOf k (activeSlot s p)

/-- CELL_READ (R284). -/
def execCellRead (pod : Fin 640) (m : Fin 2) (addr : Fin 8192) (s : State) : Out :=
  onPod pod s fun _ a t => cellReadAt t pod m addr a

/-- CELL_WRITE (R285). -/
def execCellWrite (pod : Fin 640) (m : Fin 2) (addr : Fin 8192) (s : State) : Out :=
  onPod pod s fun _ a t => cellWriteAt t pod m addr a

/-- ECC_WRITE_BACK (R291): the corrected word is written back, where no write has dropped it. -/
def execEccWriteBack (pod : Fin 640) (m : Fin 2) (addr : Fin 8192) (s : State) : Out :=
  let w := cellWord pod m addr
  if s.fab.writeBack.contains w then
    .next { s with fab := { s.fab with cellEcc := tdel s.fab.cellEcc w, writeBack := sdel s.fab.writeBack w } }
  else .next s

/-- HALF and WHALF are zero in modes with 64-byte rows (R294). (DEDUCED: log entry 32.) -/
def halfValid (s : State) (k : Nat) (half : Bool) : Bool :=
  match podOn s k with
  | none => true
  | some p => !(half && wideMode (activeCfg s p k).mode')

/-- MAC_NEW (R295, R297, R301). -/
def execMacNew (pod : Fin 640) (bank : Fin 2) (row : Fin 32) (half : Bool) (s : State) : Out :=
  if !halfValid s pod half then .fault .invalidEncoding
  else onPod pod s fun p a t => macAt t pod (activeCfg t p pod).mode' bank row half false a

/-- MAC_ACC (R295, R297, R301). -/
def execMacAcc (pod : Fin 640) (bank : Fin 2) (row : Fin 32) (half : Bool) (s : State) : Out :=
  if !halfValid s pod half then .fault .invalidEncoding
  else onPod pod s fun p a t => macAt t pod (activeCfg t p pod).mode' bank row half true a

/-- CLEAR (R295, R305). -/
def execMatClear (pod : Fin 640) (bank : Fin 2) (s : State) : Out := onPod pod s fun _ _ t => clearAt t pod bank

/-- WLOAD (R294, R295). -/
def execWload (pod : Fin 640) (row : Fin 32) (half : Bool) (s : State) : Out :=
  if !halfValid s pod half then .fault .invalidEncoding
  else onPod pod s fun p a t => wloadAt t pod (activeCfg t p pod).mode' row half a

/-- WSWAP (R298). -/
def execWswap (pod : Fin 640) (s : State) : Out := onPod pod s fun _ _ t => wswapAt t pod

/-- DRAIN (R300, R304). -/
def execMatDrain (pod : Fin 640) (bank : Fin 2) (row : Fin 32) (s : State) : Out :=
  onPod pod s fun p a t => drainAt t pod (activeCfg t p pod) bank row a

/-- A vector instruction issues; one that R307, R311 or R312 calls invalid has no effect to give. (DEDUCED: log entry 32.) -/
def vecRun (op k : Nat) (v : VInstr) (s : State) : Out :=
  if !vecValid op v then .fault .invalidEncoding else onPod k s fun p a t => vecIssue t p k op v a

/-- NOP (R312): nothing. -/
def execVNop (pod : Fin 640) (v : VInstr) (s : State) : Out := vecRun 0x00 pod v s

/-- ADD (R312): a + b. -/
def execVAdd (pod : Fin 640) (v : VInstr) (s : State) : Out := vecRun 0x01 pod v s

/-- SUB (R312): a − b. -/
def execVSub (pod : Fin 640) (v : VInstr) (s : State) : Out := vecRun 0x02 pod v s

/-- MUL (R312): a × b. -/
def execVMul (pod : Fin 640) (v : VInstr) (s : State) : Out := vecRun 0x03 pod v s

/-- FMA (R312): a × b + c. -/
def execVFma (pod : Fin 640) (v : VInstr) (s : State) : Out := vecRun 0x04 pod v s

/-- FMS (R312): a × b − c. -/
def execVFms (pod : Fin 640) (v : VInstr) (s : State) : Out := vecRun 0x05 pod v s

/-- MAX (R312): maximumNumber. -/
def execVMax (pod : Fin 640) (v : VInstr) (s : State) : Out := vecRun 0x06 pod v s

/-- MIN (R312): minimumNumber. -/
def execVMin (pod : Fin 640) (v : VInstr) (s : State) : Out := vecRun 0x07 pod v s

/-- ABS (R312): |a|. -/
def execVAbs (pod : Fin 640) (v : VInstr) (s : State) : Out := vecRun 0x08 pod v s

/-- SCALEB (R312): a × 2^IMM. -/
def execVScaleb (pod : Fin 640) (v : VInstr) (s : State) : Out := vecRun 0x09 pod v s

/-- AND (R312): a AND b. -/
def execVAnd (pod : Fin 640) (v : VInstr) (s : State) : Out := vecRun 0x0A pod v s

/-- OR (R312): a OR b. -/
def execVOr (pod : Fin 640) (v : VInstr) (s : State) : Out := vecRun 0x0B pod v s

/-- XOR (R312): a XOR b. -/
def execVXor (pod : Fin 640) (v : VInstr) (s : State) : Out := vecRun 0x0C pod v s

/-- SHL (R312): shift left. -/
def execVShl (pod : Fin 640) (v : VInstr) (s : State) : Out := vecRun 0x0D pod v s

/-- SHR (R312): logical shift right. -/
def execVShr (pod : Fin 640) (v : VInstr) (s : State) : Out := vecRun 0x0E pod v s

/-- SRA (R312): arithmetic shift right. -/
def execVSra (pod : Fin 640) (v : VInstr) (s : State) : Out := vecRun 0x0F pod v s

/-- MOVI (R312): the immediate. -/
def execVMovi (pod : Fin 640) (v : VInstr) (s : State) : Out := vecRun 0x10 pod v s

/-- SPLAT (R312): one lane of a in every lane. -/
def execVSplat (pod : Fin 640) (v : VInstr) (s : State) : Out := vecRun 0x11 pod v s

/-- CMP (R312): a comparison into a lane mask. -/
def execVCmp (pod : Fin 640) (v : VInstr) (s : State) : Out := vecRun 0x20 pod v s

/-- SEL (R312): a or b by a lane mask. -/
def execVSel (pod : Fin 640) (v : VInstr) (s : State) : Out := vecRun 0x21 pod v s

/-- CVT (R312): conversion and packing. -/
def execVCvt (pod : Fin 640) (v : VInstr) (s : State) : Out := vecRun 0x30 pod v s

/-- UNPACK (R312): widening. -/
def execVUnpack (pod : Fin 640) (v : VInstr) (s : State) : Out := vecRun 0x31 pod v s

/-- RSUM (R312): the sum of all lanes by the fixed tree (R313). -/
def execVRsum (pod : Fin 640) (v : VInstr) (s : State) : Out := vecRun 0x40 pod v s

/-- RMAX (R312): the maximum of all lanes. -/
def execVRmax (pod : Fin 640) (v : VInstr) (s : State) : Out := vecRun 0x41 pod v s

/-- RMIN (R312): the minimum of all lanes. -/
def execVRmin (pod : Fin 640) (v : VInstr) (s : State) : Out := vecRun 0x42 pod v s

/-- RARGMAX (R312): the index of the first maximum. -/
def execVRargmax (pod : Fin 640) (v : VInstr) (s : State) : Out := vecRun 0x43 pod v s

/-- EXP2 (R312): 2^a (R314). -/
def execVExp2 (pod : Fin 640) (v : VInstr) (s : State) : Out := vecRun 0x50 pod v s

/-- LOG2 (R312): log₂ a (R314). -/
def execVLog2 (pod : Fin 640) (v : VInstr) (s : State) : Out := vecRun 0x51 pod v s

/-- RCP (R312): 1 / a (R314). -/
def execVRcp (pod : Fin 640) (v : VInstr) (s : State) : Out := vecRun 0x52 pod v s

/-- RSQRT (R312): 1 / √a (R314). -/
def execVRsqrt (pod : Fin 640) (v : VInstr) (s : State) : Out := vecRun 0x53 pod v s

/-- TANH (R312): tanh a (R314). -/
def execVTanh (pod : Fin 640) (v : VInstr) (s : State) : Out := vecRun 0x54 pod v s

/-- ERF (R312): erf a (R314). -/
def execVErf (pod : Fin 640) (v : VInstr) (s : State) : Out := vecRun 0x55 pod v s

/-- PERM (R312): lanes of a by the indices in b. -/
def execVPerm (pod : Fin 640) (v : VInstr) (s : State) : Out := vecRun 0x60 pod v s

/-- ROT (R312): lanes of a rotated. -/
def execVRot (pod : Fin 640) (v : VInstr) (s : State) : Out := vecRun 0x61 pod v s

/-- FUNNEL (R312): lanes of a followed by b. -/
def execVFunnel (pod : Fin 640) (v : VInstr) (s : State) : Out := vecRun 0x62 pod v s

/-- ZIP (R312): lanes interleaved. -/
def execVZip (pod : Fin 640) (v : VInstr) (s : State) : Out := vecRun 0x63 pod v s

/-- UNZIP (R312): even or odd lanes. -/
def execVUnzip (pod : Fin 640) (v : VInstr) (s : State) : Out := vecRun 0x64 pod v s

/-- RECV (R312): the delivered word into a half of DST. -/
def execVRecv (pod : Fin 640) (v : VInstr) (s : State) : Out := vecRun 0x70 pod v s

/-- SEND (R312): a half of a onto the local input. -/
def execVSend (pod : Fin 640) (v : VInstr) (s : State) : Out := vecRun 0x71 pod v s

/-- EMIT (R312): a summary for the Sprout core (R315, R316). -/
def execVEmit (pod : Fin 640) (v : VInstr) (s : State) : Out := vecRun 0x7F pod v s

end Sys2Proof.Machine
end

