-- ==== Sys2Proof/Machine/Channels.lean ====
section
/-! DEFINITION. The commands of the message channels (R462–R498). -/

namespace Sys2Proof.Machine

/-- The endpoint that an 8-byte descriptor spells, where its fields lie in their ranges (R462). -/
def endpointOf (b : List Byte) (o : Nat) : Option Endpoint :=
  let kind := rd 1 b o
  let owner := rd 1 b (o + 1)
  let port := rd 1 b (o + 2)
  let link := rd 1 b (o + 3)
  let k := [EpKind.sprout, .host, .hazel, .remote].getD kind .sprout
  let ownerOk := if kind = 0 || kind = 3 then owner < 16 else owner < 17
  let portOk := if kind = 2 then port = 0 else port < 16
  let linkOk := if kind = 3 then link < 128 else link = 0
  if kind < 4 && ownerOk && portOk && linkOk && rd 4 b (o + 4) = 0 then some { kind := k, owner := owner, port := port, linkId := link }
  else none

/-- Two endpoints name one port of this device. -/
def samePort (a b : Endpoint) : Bool := a.kind = b.kind && a.kind ≠ .hazel && a.owner = b.owner && a.port = b.port

/-- The lowest channel number that is FREE. (DEDUCED: log entry 48.) -/
def freeNumber (s : State) : Option Nat := (List.range 256).find? (fun k => (s.chan k).state = .free)

/-- PAIR record of the half `k` (R475, R565). -/
def sendPair (s : State) (k : Nat) (c : Chan) : State :=
  let l := if c.sender.kind = .remote then c.receiver else c.sender
  let r := if c.sender.kind = .remote then c.sender else c.receiver
  msgRecord s c k 4
    (le 1 c.peerChan ++ le 1 k ++ le 1 (b2n c.nack) ++ le 1 c.depth ++ le 1 l.port ++ le 1 r.port ++ le 1 (b2n (c.receiver.kind = .remote))) []

/-- The refusals of R472 and R473, or the channel to open. -/
def chanOpenCheck (s : State) (fn : Nat) (p : List Byte) : Result ⊕ Chan :=
  let st (v : Nat) : Result ⊕ Chan := .inl ⟨v, 0, []⟩
  let mode := rd 1 p 0
  let depth := rd 1 p 1
  match endpointOf p 8, endpointOf p 16 with
  | some a, some b =>
    let c : Chan := { Chan.free with state := .open, nack := mode = 1, depth := depth, sender := a, receiver := b
                                     credits := if mode = 0 && a.isLocal then depth else 0 }
    if !entitled c fn then st 0x0006
    else if 1 < mode || depth = 0 || 64 < depth || rd 4 p 2 ≠ 0 || rd 2 p 6 ≠ 0 then st 0x0005
    else if a.kind = .hazel || (a.kind = .remote && b.kind = .remote) || samePort a b then st 0x0005
    else if [a, b].any (fun e => e.kind = .sprout &&
        ((s.pt e.owner).state = .free || (s.pt e.owner).state = .draining || (s.pt e.owner).state = .faulted)) then st 0x0008
    else if [a, b].any (fun e => (e.kind = .sprout || e.kind = .host) && (boundTo s e.kind e.owner e.port).isSome) then st 0x0502
    else if (freeNumber s).isNone || (b.isLocal && 4096 < poolUsed s + depth) then st 0x000A
    else .inr c
  | _, _ => st 0x0005

/-- CHAN_OPEN (R472–R475). (DEDUCED: log entry 48.) -/
def execChanOpen (fn : Fn) (s : State) : Out :=
  withCmd s fn 5 1 fun c s =>
    match chanOpenCheck s fn c.req.payload with
    | .inl r => finish s fn c.id r
    | .inr ch =>
      let k := (freeNumber s).getD 0
      if ch.cross then
        let ch := { ch with state := .pending }
        finishOk (sendPair (s.setChan k ch) k ch) fn c.id (le 1 k ++ le 1 1)
      else finishOk (chanEvent (s.setChan k ch) k 0x0501 ch []) fn c.id (le 1 k ++ le 1 2)

/-- CHAN_CLOSE (R472, R477). (DEDUCED: log entry 48.) -/
def execChanClose (fn : Fn) (s : State) : Out :=
  withCmd s fn 5 2 fun c s =>
    let k := c.u8 0
    let ch := s.chan k
    if ch.state = .free then finishSt s fn c.id 0x0008
    else if !entitled ch fn then finishSt s fn c.id 0x0006
    else
      let s1 := if ch.cross && !(if ch.sender.kind = .remote then ch.senderGone else ch.receiverGone) then sendClose s k ch 1 else s
      let n := ch.queue.length + ch.transit.length + ch.early.length
      let s2 := raiseAt (s1.freeChan k) fn
        { partition := ownPart fn, code := 0x0502, tag := 0, time := s.time, payload := fields 40 [(0, le 1 k), (1, le 1 ch.closeCause), (4, le 1 0)] }
      finishOk s2 fn c.id (le 1 (sat 255 n))

/-- CHAN.QUERY response (R471). -/
def chanQueryBytes (k : Nat) (c : Chan) : List Byte :=
  fields 48
    [(0, le 1 k), (1, le 1 c.state.code), (2, le 1 (b2n c.nack)), (3, le 1 c.depth),
     (4, le 1 (if c.receiver.isLocal then c.queue.length else 255)), (5, le 1 (if c.sender.isLocal && !c.nack then c.credits else 255)),
     (6, le 1 c.closeCause), (8, c.sender.bytes), (16, c.receiver.bytes), (24, le 4 c.sent.toNat), (28, le 4 c.delivered.toNat),
     (32, le 4 c.nacked.toNat), (36, le 4 c.discarded.toNat)]

/-- CHAN_QUERY (R471, R472): a FREE number answers STATE 0; only PF0 may ask about one. -/
def execChanQuery (fn : Fn) (s : State) : Out :=
  withCmd s fn 5 3 fun c s =>
    let k := c.u8 0
    if (s.chan k).state = .free then
      if fn.val = 0 then finishOk s fn c.id (fields 48 [(0, le 1 k)]) else finishSt s fn c.id 0x0006
    else if !entitled (s.chan k) fn then finishSt s fn c.id 0x0006
    else finishOk s fn c.id (chanQueryBytes k (s.chan k))

/-- PAIR_RECORD_REPEAT (R475). -/
def execPairRecordRepeat (chan : Fin 256) (s : State) : Out :=
  let c := s.chan chan
  .next (if c.state = .pending then sendPair s chan c else s)

/-- The peer table of partition `p` admits partition `q` of link-ID `src` (R574). -/
def peerAdmits (s : State) (p src q : Nat) : Bool := bitOf (tget 0 (tget [] s.link.peers p) src).toNat q

/-- PAIR_RECORD_RECEIVE (R476, R574; the stopped state carries no MSG, R854): `m.a`, `m.b` hold the sender's port and the port it names here, `m.c` [0] whether it sends, [1] its
MODE, [15:8] its DEPTH. -/
def execPairRecordReceive (m : MsgRec) (s : State) : Out :=
  if s.faults.stopped || !peerAdmits s m.dstPart m.src m.srcPart then .next s
  else
    let peerSends := bitOf m.c 0
    let fits (c : Chan) : Bool :=
      let l := if peerSends then c.receiver else c.sender
      let r := if peerSends then c.sender else c.receiver
      c.state = .pending && r.kind = .remote && r.linkId = m.src && r.owner = m.srcPart && r.port = m.a && l.kind = .sprout
        && l.owner = m.dstPart && l.port = m.b
    match s.chans.chan.find? (fun e => fits e.2) with
    | none => .next s
    | some (k, c) =>
      let s1 := sendPair s k { c with peerChan := m.peer }
      if c.nack = bitOf m.c 1 && c.depth = bitsOf m.c 15 8 then
        let c1 := { c with state := .open, peerChan := m.peer }
        .next (chanEvent (s1.setChan k c1) k 0x0501 c1 [])
      else
        let c1 := { c with state := .closed, peerChan := m.peer, closeCause := 3, senderGone := c.sender.kind = .remote
                           receiverGone := c.receiver.kind = .remote }
        .next (closedEvent (s1.setChan k c1) k c1 3 0x0501)

/-- NACK_FULL to the remote sender of channel `k` (R469, R565). -/
def remoteNack (s : State) (k : Nat) (tag : W16) (seq : W16) : State :=
  let c := s.chan k
  let s1 := s.setChan k { c with nacked := c.nacked + 1 }
  msgRecord s1 c k 3 (le 1 c.peerChan ++ le 1 k ++ le 2 tag.toNat ++ le 1 c.sender.port ++ le 1 0 ++ le 2 seq.toNat) []

/-- A MESSAGE record in its turn: queued, or dropped at a full NACK-mode queue (R469, R565). -/
def takeRecord (s : State) (k : Nat) (m : Message) : State :=
  let c := s.chan k
  let s1 := s.setChan k { c with rxSeq := c.rxSeq + 1 }
  if c.nack && c.depth ≤ c.queue.length then remoteNack s1 k m.tag c.rxSeq else enterQueue s1 k m

/-- Early records whose turn has come, at most `n` (R565). -/
def takeEarly (n : Nat) (s : State) (k : Nat) : State :=
  match n with
  | 0 => s
  | n + 1 =>
    let c := s.chan k
    match c.early.find? (fun e => e.1 = c.rxSeq) with
    | none => s
    | some e => takeEarly n (takeRecord (s.setChan k { c with early := c.early.filter (fun x => x.1 ≠ e.1) }) k e.2) k

/-- MESSAGE_RECORD_RECEIVE (R565, R854). -/
def execMessageRecordReceive (m : MsgRec) (s : State) : Out :=
  let k := m.chan
  let c := s.chan k
  if s.faults.stopped || c.state ≠ .open || c.sender.kind ≠ .remote || c.sender.linkId ≠ m.src || c.peerChan ≠ m.peer then .next s
  else
    let msg : Message := { words := m.words, tag := m.tag }
    if m.seq = c.rxSeq then .next (takeEarly c.early.length (takeRecord s k msg) k)
    else if (m.seq - c.rxSeq).toNat < 0x8000 && !c.early.any (fun e => e.1 = m.seq) && c.early.length + c.queue.length < c.depth then
      .next (s.setChan k { c with early := c.early ++ [(m.seq, msg)] })
    else .next s

/-- CREDIT_RECORD_RECEIVE (R482, R854). -/
def execCreditRecordReceive (m : MsgRec) (s : State) : Out :=
  let c := s.chan m.chan
  if !s.faults.stopped && c.state = .open && c.receiver.kind = .remote && c.receiver.linkId = m.src && c.peerChan = m.peer && !c.nack then
    .next (s.setChan m.chan { c with credits := min c.depth (c.credits + m.a) })
  else .next s

/-- NACK_FULL_RECEIVE (R470, R854): it consumes its CH_SEQ at the receiver, and reaches the status queue of the sending endpoint. -/
def execNackFullReceive (m : MsgRec) (s : State) : Out :=
  let c := s.chan m.chan
  if !s.faults.stopped && c.state = .open && c.receiver.kind = .remote && c.receiver.linkId = m.src && c.peerChan = m.peer then
    .next (nackTo (s.setChan m.chan { c with nacked := c.nacked + 1 }) c.sender m.tag)
  else .next s

/-- CLOSE_RECORD_RECEIVE (R491, R854). -/
def execCloseRecordReceive (m : MsgRec) (s : State) : Out :=
  let c := s.chan m.chan
  let r := if c.sender.kind = .remote then c.sender else c.receiver
  if s.faults.stopped || c.state = .free || !c.cross || r.linkId ≠ m.src || r.owner ≠ m.srcPart then .next s
  else .next (loseEnds s m.chan (c.sender.kind = .remote) (c.receiver.kind = .remote) m.a)

/-- A write of CH_TX_SEND at port page `port` of function `fn` (R485, R486). -/
def hostSend (s : State) (fn port : Nat) (value : W32) : State :=
  let x := s.page fn port
  let n := bitsOf value.toNat 17 16 + 1
  let m : Message := { words := staged x.tx n, tag := BitVec.ofNat 16 value.toNat }
  let drop (s : State) : State := s.setPage fn port { x with discards := x.discards + 1 }
  match boundTo s .host fn port with
  | some (k, false) =>
    let c := s.chan k
    if c.state = .open && (c.nack || 0 < c.credits) then chanSend s k m
    else drop (s.setChan k { c with discarded := c.discarded + 1 })
  | some (k, true) => drop (s.setChan k { s.chan k with discarded := (s.chan k).discarded + 1 })
  | none => drop s

/-- CH_TX_SEND (R485, R486). -/
def execChTxSend (fn : Fn) (port : Fin 16) (value : W32) (s : State) : Out := .next (hostSend s fn port value)

/-- Word read from CH_RX_POP or SP_CH_RX for a message (R484). -/
def rxWord (m : Message) : W32 := BitVec.ofNat 32 (m.tag.toNat + 65536 * (m.words.length - 1) + 2 ^ 31)

/-- Words of a message as the data registers hold them. -/
def rxWords (m : Message) : Tab W64 := (List.range 4).map (fun i => (i, m.words.getD i 0))

/-- A register read returns `v`. -/
def readOut (s : State) (v : W32) : State := { s with host := { s.host with readData := v.zeroExtend 64 } }

/-- A read of CH_RX_POP at port page `port` of function `fn` (R484). -/
def hostPop (s : State) (fn port : Nat) : State :=
  match boundTo s .host fn port with
  | some (k, true) =>
    match popMessage s k with
    | none => readOut s 0
    | some (m, t) =>
      let x := t.page fn port
      readOut (t.setPage fn port { x with rxTag := m.tag, rxWords := rxWords m }) (rxWord m)
  | _ => readOut s 0

/-- A read of CH_NACK_POP (R484). -/
def hostNackPop (s : State) (fn : Nat) : State :=
  let r := (tget NackQueue.init s.chans.fnNack fn).pop
  readOut { s with chans := { s.chans with fnNack := tset s.chans.fnNack fn r.2 } } r.1

/-- CH_RX_POP (R484). -/
def execChRxPop (fn : Fn) (port : Fin 16) (s : State) : Out := .next (hostPop s fn port)

/-- CH_NACK_POP (R484). -/
def execChNackPop (fn : Fn) (s : State) : Out := .next (hostNackPop s fn)

/-- The partition that region `rg`'s core leads (R354). -/
def ledBy (s : State) (rg : Nat) : Option Nat :=
  match s.regionPart rg with
  | some p => if (s.pt p).leader = rg then some p else none
  | none => none

/-- What a write to SP_CH_SEND does (R488, R489); none where it blocks. -/
def sproutChSend (s : State) (rg p : Nat) (value : W32) : Option State :=
  let x := s.sprout rg
  let port := x.chPort
  let m : Message := { words := staged x.chTxd (bitsOf value.toNat 17 16 + 1), tag := BitVec.ofNat 16 value.toNat }
  let drop (s : State) : State := s.setSprout rg { x with chDiscards := tset x.chDiscards port (sat 255 (tget 0 x.chDiscards port + 1)) }
  match boundTo s .sprout p port with
  | some (k, rx) =>
    let c := s.chan k
    if rx || c.state ≠ .open then some (drop (s.setChan k { c with discarded := c.discarded + 1 }))
    else if canSend s k then some (chanSend s k m)
    else none
  | none => some (drop s)

/-- An integer register of region `rg`'s core; x0 is zero. -/
def getX (s : State) (rg r : Nat) : W32 := if r = 0 then 0 else tget 0 (s.sprout rg).x r

/-- Writes integer register `rd` of region `rg`'s core; x0 stays zero. -/
def setX (s : State) (rg rd : Nat) (v : W32) : State :=
  if rd = 0 then s else s.setSprout rg { s.sprout rg with x := tset (s.sprout rg).x rd v }

/-- An instruction of region `rg`'s core retires: the pc goes to `pc`, the counters take its `ac` cycles (R357, R359). -/
def retireTo (s : State) (rg : Nat) (pc : W32) (ac : Nat) : State :=
  let c := s.sprout rg
  s.setSprout rg { c with
    run := .running, pc := pc, mcycle := if c.mcountinhibit.getLsbD 0 then c.mcycle else c.mcycle + BitVec.ofNat 64 ac
    minstret := if c.mcountinhibit.getLsbD 2 then c.minstret else c.minstret + 1 }

/-- A CSR instruction that reached an SP_ CSR retires (R359). -/
def retireSp (s : State) (rg : Nat) : State := retireTo s rg ((s.sprout rg).pc + 4) 2

/-- SP_CH_SEND (R488, R489). -/
def execSpChSend (rg : Fin 16) (value : W32) (s : State) : Out :=
  match ledBy s rg with
  | none => .next s
  | some p =>
    if (s.sprout rg).run ≠ .running then .next s
    else
      match sproutChSend s rg p value with
      | some t => .next (retireSp t rg)
      | none => .next (s.setSprout rg { s.sprout rg with run := .blockedSend value 0 })

/-- SP_CH_SEND_UNBLOCK (R488, R498): the blocked write completes once it can, or the channel has closed. -/
def execSpChSendUnblock (rg : Fin 16) (s : State) : Out :=
  match ledBy s rg, (s.sprout rg).run with
  | some p, .blockedSend v rd =>
    match sproutChSend s rg p v with
    | some t => .next (retireSp (setX t rg rd 0) rg)
    | none => .next s
  | _, _ => .next s

/-- What a read of SP_CH_RX does (R488). -/
def sproutChRx (s : State) (rg p : Nat) : W32 × State :=
  match boundTo s .sprout p (s.sprout rg).chPort with
  | some (k, true) =>
    match popMessage s k with
    | none => (0, s)
    | some (m, t) => (rxWord m, t.setSprout rg { t.sprout rg with chRxd := rxWords m })
  | _ => (0, s)

/-- SP_CH_RX (R488). -/
def execSpChRx (rg : Fin 16) (rd : Fin 32) (s : State) : Out :=
  match ledBy s rg with
  | none => .next s
  | some p =>
    if (s.sprout rg).run ≠ .running then .next s
    else let r := sproutChRx s rg p; .next (retireSp (setX r.2 rg rd r.1) rg)

/-- What a read of SP_CH_NACK does (R488). -/
def sproutChNack (s : State) (p : Nat) : W32 × State :=
  let r := (tget NackQueue.init s.chans.partNack p).pop
  (r.1, { s with chans := { s.chans with partNack := tset s.chans.partNack p r.2 } })

/-- SP_CH_NACK (R488). -/
def execSpChNack (rg : Fin 16) (rd : Fin 32) (s : State) : Out :=
  match ledBy s rg with
  | none => .next s
  | some p =>
    if (s.sprout rg).run ≠ .running then .next s
    else let r := sproutChNack s p; .next (retireSp (setX r.2 rg rd r.1) rg)

/-- MESSAGE_DELIVERY (R466, R467, R469): the oldest message on its way. (DEDUCED: log entry 48.) -/
def execMessageDelivery (chan : Fin 256) (s : State) : Out :=
  let c := s.chan chan
  match c.transit with
  | [] => .next (if c.receiver.kind = .hazel then relay 64 s chan else s)
  | m :: r =>
    let s1 := s.setChan chan { c with transit := r }
    if c.nack && c.depth ≤ c.queue.length then
      .next (nackTo (s1.setChan chan { c with transit := r, nacked := c.nacked + 1 }) c.sender m.tag)
    else
      let s2 := enterQueue s1 chan m
      .next (if c.receiver.kind = .hazel then relay 64 s2 chan else s2)

/-- CREDIT_RETURN (R468, R487). -/
def execCreditReturn (chan : Fin 256) (s : State) : Out :=
  let c := s.chan chan
  if c.creditTransit = 0 then .next s
  else
    let s1 := s.setChan chan { c with creditTransit := c.creditTransit - 1, credits := c.credits + 1 }
    .next (if c.credits = 0 then portIrq s1 c.sender 1 else s1)

/-- MSG_RECORD_TRANSMIT (R479, R481): the record at the head of the port's queue leaves once the cap and the regulator admit it. -/
def execMsgRecordTransmit (port : Fin 16) (s : State) : Out :=
  let x := s.port port
  match x.msgQueue with
  | [] => .next s
  | m :: r =>
    let n := m.bytes.length
    let g := tget Regulator.init (s.pt m.part).regs 2
    let held := m.part < 16 && g.rate ≠ 0 && g.level < 0
    if x.msgBucket < n || held || x.state ≠ .up || s.faults.stopped then .next s
    else
      let s1 := s.setPort port { x with msgQueue := r, msgBucket := x.msgBucket - n }
      let s2 := if m.part < 16 && g.rate ≠ 0 then
          s1.setPt m.part { s1.pt m.part with regs := tset (s1.pt m.part).regs 2 { g with level := g.level - n } } else s1
      .next (enqueueFlits s2 port 1 [recordFlit m.bytes])

/-- CREDIT_RECORD_TIMER (R482). (DEDUCED: log entry 48.) -/
def execCreditRecordTimer (chan : Fin 256) (s : State) : Out :=
  let c := s.chan chan
  if c.uncredited = 0 || c.state ≠ .open then .next s
  else
    let s1 := s.setChan chan { c with uncredited := 0 }
    .next (msgRecord s1 c chan 2 (le 1 c.peerChan ++ le 1 chan.val ++ le 2 0 ++ le 1 c.uncredited) [])

/-- CHANNEL_ROUTE_TIMEOUT (R483). -/
def execChannelRouteTimeout (chan : Fin 256) (s : State) : Out :=
  let c := s.chan chan
  let r := if c.sender.kind = .remote then c.sender else c.receiver
  if c.state = .free || !c.cross || (routePort s r.linkId chan).isSome then .next s
  else .next (loseEnds s chan (c.sender.kind = .remote) (c.receiver.kind = .remote) 4)

/-- MSG_GAP_TIMEOUT (R565): both halves close with cause 4. -/
def execMsgGapTimeout (chan : Fin 256) (s : State) : Out :=
  let c := s.chan chan
  if c.state ≠ .open || c.early.isEmpty then .next s
  else .next (loseEnds (sendClose s chan c 4) chan true false 4)

end Sys2Proof.Machine
end

