-- ==== Sys2Proof/Machine/Clocks.lean ====
section
/-! DEFINITION. The fabric clock's divider, droop, FASTCAP and the ceilings, as events (R72, R73, R98, R99, R775–R783). -/

namespace Sys2Proof.Machine

/-- FCLK_DIVIDER_CHANGE (R24, R75, R98, R776, R812): the row is a frame start; the divider that was asked for takes effect, and after a fall the
lower setpoint is written. (DEDUCED: log entry 62.) -/
def execFclkDividerChange (s : State) : Out :=
  match s.clk.divReq with
  | none => .next s
  | some d =>
    if !s.clk.run then .next s
    else
      let v := s.comp.vreg
      let t := { s with clk := { s.clk with div := d, divReq := none, phase := 0 } }
      let u := if d < s.clk.div then { t with pow := { t.pow with lastRise := s.time } } else t
      nextPow s (if s.clk.div < d && setpointOf (divIdx d) < v.setpoint then vregWrite u (setpointOf (divIdx d)) (v.requestSeq + 1) else u)

/-- DROOP_STRETCH_START (R99, R778). (DEDUCED: log entry 62.) -/
def execDroopStretchStart (s : State) : Out :=
  if s.clk.run then nextPow s { s with clk := { s.clk with stretch := true } } else .next s

/-- DROOP_STRETCH_END (R779). -/
def execDroopStretchEnd (s : State) : Out := nextPow s { s with clk := { s.clk with stretch := false } }

/-- DROOP_HOLD (R778): the divider goes one step slower. (DEDUCED: log entry 62.) -/
def execDroopHold (s : State) : Out :=
  if s.clk.run && s.clk.stretch then
    nextPow s (evaluateCeiling { s with pow := { s.pow with droopHold := some (min 4 (divIdx s.clk.div + 1)) } })
  else .next s

/-- DROOP_HOLD_EXPIRY (R778). -/
def execDroopHoldExpiry (s : State) : Out :=
  if s.pow.droopHold.isSome then nextPow s (evaluateCeiling { s with pow := { s.pow with droopHold := none } }) else .next s

/-- A condition of FASTCAP holds for these currents, in 10 mA: the total exceeds its threshold, or a feed its own (R72). -/
def fastcapCondition (s : State) (iinA iinB : Int) : Bool :=
  let above (t : Nat) (i : Int) : Bool := (t : Int) < i
  s.comp.hwTotal ≠ 0 && (above s.comp.hwTotal (iinA + iinB) || above (tget 0 s.comp.hwFeed 0) iinA || above (tget 0 s.comp.hwFeed 1) iinB)

/-- FASTCAP_ASSERT (R72, R89, R776, R780): the comparators work without firmware, in an update too. -/
def execFastcapAssert (iinA iinB : Int) (s : State) : Out :=
  if s.comp.running && anyOn s && fastcapCondition s iinA iinB then
    nextPow s (evaluateCeiling { s with comp := { s.comp with fastcap := true } })
  else .next s

/-- FASTCAP_RELEASE (R73, R780). -/
def execFastcapRelease (iinA iinB : Int) (s : State) : Out :=
  if s.comp.fastcap && !fastcapCondition s iinA iinB then nextPow s (evaluateCeiling { s with comp := { s.comp with fastcap := false } })
  else .next s

/-- FCLK_CEILING_EVALUATION (R75, R776–R778, R798): every 100 µs, with the fabric's power estimate and the mean input power over the last 1 ms,
in mW. (DESIGN CHOICE: log entry 59.) -/
def execFclkCeilingEvaluation (pFab mean : Nat) (s : State) : Out :=
  if pcLive s then
    nextPow s (evaluateCeiling (tellCap { s with pow := { s.pow with budgetFit := fitOf s pFab (mean - pFab) } }))
  else .next s

/-- A thermal ceiling after a reading in 0.125 °C: one step slower at or above `hot`; one step faster at or below `cool`, ten readings after
it last moved (R782). The answer: the ceiling, and readings since it moved. (DESIGN CHOICE: log entry 59.) -/
def thermalStep (hot cool t : Int) (ceiling since : Nat) : Nat × Nat :=
  if hot ≤ t then (min 4 (ceiling + 1), 0)
  else if t ≤ cool && 0 < ceiling && 10 ≤ since + 1 then (ceiling - 1, 0)
  else (ceiling, since + 1)

/-- Readings in a row that rose while the ceiling stood at ÷12 (R783). (DESIGN CHOICE: log entry 59.) -/
def risingRun (ceiling : Nat) (t last : Int) (n : Nat) : Nat := if ceiling = 4 && last < t then n + 1 else 0

/-- THERMAL_LIMIT after ten readings that rose (R783, R806): 0 die, 1 HBM. (DESIGN CHOICE: log entry 59.) -/
def thermalLimit (s : State) (which n : Nat) (t : Int) : State :=
  if n = 10 then eventDev s 0x0B04 (le 1 which ++ le 1 0 ++ le 2 (t % 65536).toNat) else s

/-- THERMAL_CEILING_UPDATE (R782, R783): the hottest die sensor and the hottest stack, in 0.125 °C. -/
def execThermalCeilingUpdate (die hbm : Int) (s : State) : Out :=
  if pcLive s then
    let p := s.pow
    let a := thermalStep 800 776 die p.dieCeiling p.dieLift
    let b := thermalStep 760 736 hbm p.hbmCeiling p.hbmLift
    let na := risingRun p.dieCeiling die p.dieLast p.dieRise
    let nb := risingRun p.hbmCeiling hbm p.hbmLast p.hbmRise
    let t := { s with pow := { p with
      dieCeiling := a.1, dieLift := a.2, hbmCeiling := b.1, hbmLift := b.2, dieRise := na, hbmRise := nb, dieLast := die, hbmLast := hbm
      dieTemp := die, hbmTemp := hbm } }
    nextPow s (thermalLimit (thermalLimit t 0 na die) 1 nb hbm)
  else .next s

end Sys2Proof.Machine
end

