-- ==== Sys2Proof/Machine/CompanionSpi.lean ====
section
/-! DEFINITION. The companion's registers on the SPI (R68–R71) and its read and write frames. -/

namespace Sys2Proof.Machine

/-- CP_FEED_STATE. -/
def cpFeedState (s : State) : W32 :=
  let a := s.feed 0
  let b := s.feed 1
  BitVec.ofNat 32 (a.state.code + 16 * b.state.code + 256 * a.cause.code + 4096 * b.cause.code + 65536 * b2n s.comp.oringInForce)

/-- CP_SLOT_STATE code of a bay; a bay that discharges is reported as one that ramps: it is not yet OFF (R57). (DEDUCED: log entry 13.) -/
def bayCode (b : Bay) : Nat :=
  match b.state with
  | .off => 0 | .ramping => 1 | .on => 2 | .slotFault => 3 | .discharging => 1

/-- CP_SLOT_STATE. -/
def cpSlotState (s : State) : Nat :=
  (List.range 8).foldl (fun w n => w + bayCode (tget Bay.init s.comp.bays n) * 4 ^ n) 0

/-- CP_VREG_STATE. -/
def cpVregState (s : State) : Nat :=
  let v := s.comp.vreg
  v.setpoint % 4096 + 65536 * b2n v.settled + 131072 * b2n v.fault

/-- CP_STATUS with TELEM_STALE (R87). -/
def cpStatus (s : State) : W32 := s.comp.status ||| (if s.comp.updating then 0x4000 else 0)

/-- The word at a word address, where there is a register; a write-only register reads as zero. (DEDUCED: log entry 17.) -/
def cpRead (s : State) (a : Nat) : Option W32 :=
  let n (v : Nat) : Option W32 := some (BitVec.ofNat 32 v)
  let f := s.feed
  if a = 0 then n 0x02A2
  else if a = 1 then some (cpStatus s)
  else if a = 2 then some s.comp.irqMask
  else if a = 3 then some (cpFeedState s)
  else if a = 4 then n (f 0).vin
  else if a = 5 then n (f 1).vin
  else if a = 6 then n (ofInt 16 (f 0).iin)
  else if a = 7 then n (ofInt 16 (f 1).iin)
  else if a = 8 then n s.comp.pin
  else if a = 9 then n (ofInt 16 s.comp.tempBoard + 65536 * ofInt 16 s.comp.tempInlet)
  else if a = 10 then n (f 0).ein.toNat
  else if a = 11 then some (f 0).einHi
  else if a = 12 then n (f 1).ein.toNat
  else if a = 13 then some (f 1).einHi
  else if a = 16 then n s.comp.slotCtrl.toNat
  else if a = 17 then n (cpSlotState s)
  else if a = 18 then some s.comp.slotIlim
  else if a = 20 then n (s.comp.vreg.request + 65536 * s.comp.vreg.requestSeq.toNat)
  else if a = 21 then n (cpVregState s)
  else if a = 24 then n s.comp.fastcapLimit
  else if a = 25 then n (s.comp.rackBudget.toNat + 65536 * s.comp.rackSeq.toNat)
  else if a = 26 then n s.comp.floorShare
  else if a = 32 then some s.comp.aon.count
  else if a = 33 then some (causeWord s)
  else if a = 34 then n (s.comp.aon.logIdx + 64 * s.comp.aon.logCount)
  else if a = 35 then n 0
  else if 48 ≤ a ∧ a < 64 then some (tget 0 s.comp.stage (a - 48))
  else if 256 ≤ a ∧ a < 1280 then n (rd 4 (tget [] s.comp.aon.log ((a - 256) / 16)) ((a - 256) % 16 * 4))
  else none

/-- Reading the low half of an energy counter latches its high half. -/
def cpLatch (s : State) (a : Nat) : State :=
  let l (f : Nat) : State := s.setFeed f { s.feed f with einHi := (s.feed f).ein.extractLsb' 32 32 }
  if a = 10 then l 0 else if a = 12 then l 1 else s

/-- A response frame's part that the companion drives: status, data, CRC-32C over both (R68). (DEDUCED: log entry 17.) -/
def spiFrame (status : Nat) (data : List W32) : List Byte :=
  let b := le 1 status ++ data.flatMap (fun w => le 4 w.toNat)
  b ++ le 4 (crc32c b).toNat

/-- Every address of the frame has a register, and the count is 1–16. (DEDUCED: log entry 17.) -/
def spiAddrOk (s : State) (addr count : Nat) : Bool :=
  1 ≤ count && count ≤ 16 && (span addr count).all (fun a => (cpRead s a).isSome)

/-- Words read one after another, with their latches. -/
def spiWords (n : Nat) (s : State) (a : Nat) (acc : List W32) : State × List W32 :=
  match n with
  | 0 => (s, acc)
  | n + 1 => let v := (cpRead s a).getD 0; spiWords n (cpLatch s a) (a + 1) (acc ++ [v])

/-- COMPANION_SPI_READ (R68, R69, R87): 0x02 BAD_ADDR where an address has no register. -/
def execCompanionSpiRead (addr count : Nat) (s : State) : Out :=
  if !s.comp.running then .next s
  else if !spiAddrOk s addr count then
    .next { s with comp := { s.comp with spiOut := spiFrame 2 (List.replicate (min count 16) 0) } }
  else
    let r := spiWords count s addr []
    .next { r.1 with comp := { r.1.comp with spiOut := spiFrame 0 r.2 } }

/-- A word of CP_SLOT_ILIM: values above 10 act as 10 when the limit is used, and read as written. -/
def bayLimit (s : State) (n : Nat) : Nat := min 10 (bitsOf s.comp.slotIlim.toNat (4 * n + 3) (4 * n))

/-- Writes one register (R70); a write to a read-only one is discarded. (DEDUCED: log entry 17.) -/
def cpWrite (s : State) (a : Nat) (v : W32) : State :=
  let c := s.comp
  let w := v.toNat
  if a = 1 then { s with comp := { c with status := c.status &&& ~~~v } }
  else if a = 2 then { s with comp := { c with irqMask := v } }
  else if a = 16 then { s with comp := { c with slotCtrl := BitVec.ofNat 8 w } }
  else if a = 18 then { s with comp := { c with slotIlim := v } }
  else if a = 20 then
    let g := c.vreg
    { s with comp := { c with vreg :=
      { g with request := w % 4096, requestSeq := BitVec.ofNat 16 (w / 65536)
               setpoint := if g.fault then g.setpoint else w % 4096, settled := if g.fault then g.settled else false } } }
  else if a = 24 then (if 400 ≤ w % 65536 ∧ w % 65536 ≤ 2000 then { s with comp := { c with fastcapLimit := w % 65536 } } else s)
  else if a = 26 then (if 400 ≤ w % 65536 ∧ w % 65536 ≤ 1600 then { s with comp := { c with floorShare := w % 65536 } } else s)
  else if a = 35 then
    (if w = 1 then
      { s with comp := { c with aon := c.aon.append ((List.range 16).flatMap (fun i => le 4 (tget 0 c.stage i).toNat)) } }
     else s)
  else if 48 ≤ a ∧ a < 64 then { s with comp := { c with stage := tset c.stage (a - 48) v } }
  else s

/-- COMPANION_SPI_WRITE (R68, R69, R87): checked in the order of the status codes; when the status is not OK nothing is written. -/
def execCompanionSpiWrite (addr : Nat) (data : List W32) (crcGood : Bool) (s : State) : Out :=
  if !s.comp.running then .next s
  else
    let st := if !crcGood then 1 else if !spiAddrOk s addr data.length then 2 else if s.comp.updating then 3 else 0
    let s1 := if st = 0 then ((span addr data.length).zip data).foldl (fun t p => cpWrite t p.1 p.2) s else s
    .next { s1 with comp := { s1.comp with spiOut := le 1 st } }

end Sys2Proof.Machine
end

