-- ==== Sys2Proof/Machine/Energy.lean ====
section
/-! DEFINITION. Energy: its attribution to partitions, engines and jobs, and POWER.ENERGY (R800–R805). -/

namespace Sys2Proof.Machine

/-- An estimate of energy: partition or DEVICE (16), engine where an engine spent it, job, µJ. -/
structure Estimate where
  member : Nat
  engine : Option Nat
  job : W32
  energy : Nat

/-- The estimates of an interval (R801, R802): fabric energy goes to the partition carrying the region, under the job of its run. -/
def estimates (s : State) (e : EnergySlice) : List Estimate :=
  e.regions.map (fun r => let p := s.regionPart r.1; { member := p.getD 16, engine := none, job := (p.map (fun p => (s.pt p).run.jobId)).getD 0, energy := r.2 })
    ++ e.segments.map (fun x => { member := x.2.1, engine := some x.1, job := x.2.2.1, energy := x.2.2.2 })

/-- Energy of a job of partition `p`: into its entry, a new entry while the table of 64 has room, or the overflow counter (R802). -/
def addJob (w : Power) (p : Nat) (job : W32) (n : Nat) : Power :=
  let l := tget [] w.jobs p
  let v := BitVec.ofNat 64 n
  if job = 0 || n = 0 then w
  else if l.any (fun e => e.1 = job) then { w with jobs := tset w.jobs p (l.map (fun e => if e.1 = job then (e.1, e.2 + v) else e)) }
  else if l.length < 64 then { w with jobs := tset w.jobs p (l ++ [(job, v)]) }
  else { w with overflow := tset w.overflow p (tget 0 w.overflow p + v) }

/-- One estimate, scaled by `num` ÷ `den`, enters the counters (R801–R803). -/
def addEstimate (num den : Nat) (w : Power) (x : Estimate) : Power :=
  let n := x.energy * num / den
  let v := BitVec.ofNat 64 n
  let w1 := match x.engine with | some e => { w with engines := tset w.engines e (tget 0 w.engines e + v) } | none => w
  if 16 ≤ x.member then w1
  else
    let w2 := { w1 with
      parts := tset w1.parts x.member (tget 0 w1.parts x.member + v), device := w1.device - v
      partEngines := match x.engine with
        | some e => tset w1.partEngines (x.member * 8 + e) (tget 0 w1.partEngines (x.member * 8 + e) + v)
        | none => w1.partEngines }
    addJob w2 x.member x.job n

/-- Input energy since the last update enters the module's counter and DEVICE's, from which the estimates of partitions are then taken
(R800, R801). -/
def drawEnergy (s : State) (l : List Estimate) : Power :=
  let p := s.pow
  let now := einNow s
  let delta := now - p.lastEin
  let sum := (l.map (fun x => x.energy)).foldl (· + ·) 0
  let w := { p with module := p.module + delta, device := p.device + delta, lastEin := now }
  if delta.toNat < sum then l.foldl (addEstimate delta.toNat sum) w else l.foldl (addEstimate 1 1) w

/-- ENERGY_ATTRIBUTION (R800–R803). -/
def execEnergyAttribution (slice : EnergySlice) (s : State) : Out :=
  if pcLive s then .next { s with pow := drawEnergy s (estimates s slice) } else .next s

/-- The job table of partition `p` as POWER.ENERGY writes it (R802, R803). -/
def jobTable (s : State) (p : Nat) : List Byte :=
  let l := tget [] s.pow.jobs p
  bytesAt (le 4 l.length ++ le 4 0 ++ le 8 (tget 0 s.pow.overflow p).toNat ++ l.flatMap (fun e => le 4 e.1.toNat ++ le 4 1 ++ le 8 e.2.toNat)) 0 1040

/-- POWER_ENERGY (R803, R804). (DEDUCED: log entry 61.) -/
def execPowerEnergy (fn : Fn) (s : State) : Out :=
  withCmd s fn 11 6 fun c s =>
    let p := if fn.val = 0 then c.req.partition else fn.val - 1
    let v (x : W64) : List Byte := le 8 x.toNat
    if 1 < c.u8 0 || 1 < c.u8 1 || rd 6 c.req.payload 2 ≠ 0 || (c.u8 0 = 1 && p = 255) then finishSt s fn c.id 0x0005
    else if c.u8 0 = 1 then
      if !(s.fn fn).bme then finishSt s fn c.id 0x000C
      else
        let t := { s with hostOut := [(c.u64 8, jobTable s p, false)] }
        let u := if c.u8 1 = 1 then { t with pow := { t.pow with jobs := tdel t.pow.jobs p } } else t
        finishOk u fn c.id (le 4 (tget [] s.pow.jobs p).length)
    else if p = 255 then
      finishOk s fn c.id (v s.pow.module ++ v s.pow.device ++ v ((List.range 16).foldl (fun a q => a + tget 0 s.pow.parts q) 0))
    else
      finishOk s fn c.id (v (tget 0 s.pow.parts p) ++ (List.range 5).flatMap (fun e => v (tget 0 s.pow.partEngines (p * 8 + e))))

end Sys2Proof.Machine
end

