-- ==== Sys2Proof/Machine/Partitions.lean ====
section
/-! DEFINITION. Partitions, their windows, shares, saves and power as commands (R416–R461). -/

namespace Sys2Proof.Machine

/-- The regions of a rectangle that keep a new partition from it (R418): a status. -/
def rectRefusal (s : State) (o w h : Nat) : Option Nat :=
  let rgs := rectRegions o w h
  if rgs.any (fun g => (s.regionPart g).isSome) then some 0x0401
  else if rgs.any (fun g => serviceability (s.rgn g) ≠ 0) then some 0x030A
  else none

/-- A REGION.APPLY_MAP of one of the regions has been accepted and has not ended: a command that forms a partition on them comes after it
(R263, R278). (DEDUCED: log entry 19.) -/
def mapDue (s : State) (rgs : List Nat) : Bool :=
  (s.mb 0).consumed.any (fun c => c.req.cls = 4 && c.req.verb = 2 && c.started && c.result.isNone && rgs.contains (c.u8 0))

/-- A rectangle lies in the grid. -/
def rectFits (o w h : Nat) : Bool := o < 16 && 1 ≤ w && 1 ≤ h && o % 4 + w ≤ 4 && o / 4 + h ≤ 4

/-- Gated regions of a list get power, and their cells are zeroed (R104, R109). -/
def powerRegions (s : State) (rgs : List Nat) : State :=
  let g := rgs.filter s.pow.gated.contains
  beginZeroing (ungateRegions s g) g

/-- A command on regions ends at once, or when those of them that are being zeroed have been (R104, R109). -/
def whenZeroed (s : State) (fn id : Nat) (rgs parts : List Nat) (payload : List Byte) : State :=
  let busy := rgs.filter s.rst.zeroing.contains
  if busy.isEmpty then finishOk (parts.foldl fenceOpen s) fn id payload
  else
    { begun s fn id with
      rst := { s.rst with zeroWaits := s.rst.zeroWaits ++ [{ fn := fn, id := id, regions := busy, parts := parts, payload := payload }] } }

/-- PART_CREATE (R278, R416–R419). (DEDUCED: log entry 37.) -/
def execPartCreate (fn : Fn) (s : State) : Out :=
  withCmd s fn 3 1 fun c s =>
    let p := c.req.partition
    let o := c.u8 0
    let w := c.u8 1
    let h := c.u8 2
    let st (v : Nat) : State := finishSt s fn c.id v
    if 15 < p || !rectFits o w h || 1 < c.u8 3 then st 0x0005
    else if (s.pt p).state ≠ .free then st 0x0008
    else if rectRefusal s o w h ≠ some 0x0401 && mapDue s (rectRegions o w h) then s
    else
      match rectRefusal s o w h with
      | some v => st v
      | none =>
        let rgs := rectRegions o w h
        let x := { Part.init with origin := o, w := w, h := h, tenant := bitOf (c.u8 3) 0, powered := true, fence := { state := .closed, reason := 0 } }
        let t := partState ((powerRegions s rgs).setPt p x) p .assigned 0
        whenZeroed t fn c.id rgs [p] (le 2 (maskOf rgs))

/-- A snapshot copy or drain that involves partition `p` is in progress (R454). -/
def snapBusy (s : State) (p : Nat) : Bool :=
  copying s p || s.husk.current.any (fun e => bitOf e.partMask p && (e.state = .frozen || e.state = .draining))

/-- PART_DESTROY (R422, R454). (DEDUCED: log entry 37.) -/
def execPartDestroy (fn : Fn) (s : State) : Out :=
  withPart s fn 3 2 fun p c s =>
    if 1 < c.u8 0 then finishSt s fn c.id 0x0005
    else if snapBusy s p && c.u8 0 = 0 then finishSt s fn c.id 0x0308
    else beginReset (begun s fn c.id) p fn c.id true 5 0

/-- PART_ASSIGN (R420). -/
def execPartAssign (fn : Fn) (s : State) : Out :=
  withPart s fn 3 3 fun p c s =>
    let x := s.pt p
    if 1 < c.u8 0 then finishSt s fn c.id 0x0005
    else finishOk (s.setPt p { x with tenant := c.u8 0 = 1 }) fn c.id (le 1 (b2n x.tenant))

/-- The PART.QUERY response (R422). -/
def partQuery (x : Part) : List Byte :=
  let slots := ((List.range 4).map (fun i => (tget Slot.init x.slots i).state.code * 4 ^ i)).foldl (· + ·) 0
  let released := x.state = .saved && x.w = 0
  let flags := b2n x.tenant + 2 * b2n x.powered + 4 * b2n x.bound.isSome + 8 * b2n released
  fields 48
    [(0, le 1 x.state.code), (1, le 1 (if x.w = 0 then 255 else x.origin)), (2, le 1 x.w), (3, le 1 x.h), (4, le 1 slots)
     , (5, le 1 (x.activeSlot.getD 255)), (6, le 1 flags), (7, le 1 ((x.run.stall.map (fun c => c.code)).getD 0)), (8, le 2 x.unitCount)
     , (10, le 1 x.windows.length), (11, le 1 x.handles.length), (12, le 4 x.fault), (16, le 4 x.audit.folds.toNat), (20, le 4 x.drainUs)
     , (24, le 8 ((x.saved.bind (fun v => v.addr)).getD 0))]

/-- PART_QUERY (R430). -/
def execPartQuery (fn : Fn) (s : State) : Out :=
  withCmd s fn 3 4 fun c s => finishOk s fn c.id (partQuery (s.pt (target fn c)))

/-- Weight and quota of member `p` (16 is DEVICE) at an engine (R442). -/
def weightOf (s : State) (p e : Nat) : Nat := tget 16 (s.pt p).weight e
def quotaOf (s : State) (p e : Nat) : Nat := tget (if p = 16 then 64 else 60) (s.pt p).quota e

/-- PART_SET_SHARE (R442, R443, R447). (DEDUCED: log entry 37.) -/
def execPartSetShare (fn : Fn) (s : State) : Out :=
  withCmd s fn 3 13 fun c s =>
    let dev := c.req.partition = 255
    let p := if dev then 16 else c.req.partition
    let x := s.pt p
    let st (v : Nat) : State := finishSt s fn c.id v
    let ws := (List.range 5).map (fun e => c.u8 e)
    let qs := (List.range 5).map (fun e => c.u16 (8 + 2 * e))
    let rate (i : Nat) : Nat := c.u32 (0x18 + 16 * i)
    let burst (i : Nat) : Nat := c.u32 (0x1C + 16 * i)
    let zero := rd 3 c.req.payload 5 = 0 && c.u16 0x12 = 0 && (List.range 5).all (fun i => c.u64 (0x20 + 16 * i) = 0)
    let ranged := ws.all (fun w => 1 ≤ w) && qs.all (fun q => 16 ≤ q && q ≤ 1024)
    let own := if dev then c.u32 0x14 = 0 && (List.range 5).all (fun i => rate i = 0 && burst i = 0)
      else 10 ≤ c.u32 0x14 && c.u32 0x14 ≤ 10000 && (List.range 5).all (fun i => 64 ≤ burst i && burst i ≤ 1048576)
    if !dev && (x.state = .free || x.state = .draining) then st 0x0008
    else if !(zero && ranged && own) then st 0x0005
    else if (List.range 5).any (fun e =>
        1024 < qs.getD e 0 + (((List.range 17).filter (· ≠ p)).map (fun q => quotaOf s q e)).foldl (· + ·) 0) then st 0x000A
    else
      let y := { x with weight := (List.range 5).map (fun e => (e, ws.getD e 0)), quota := (List.range 5).map (fun e => (e, qs.getD e 0)) }
      let z := if dev then y
        else { y with
          drainUs := c.u32 0x14
          regs := (List.range 5).map (fun i => (i, { rate := rate i, burst := burst i, level := ((burst i * 1024 : Nat) : Int) })) }
      finishOk (s.setPt p z) fn c.id []

/-- PART_SAVE (R449–R451): the command begins, or the copy of one that has begun takes place. (DESIGN CHOICE: log entry 38.) -/
def execPartSave (fn : Fn) (s : State) : Out :=
  match (List.range 16).find? (fun p => (s.pt p).saveJob.any (fun j => j.fn = fn.val) && saveReady s p) with
  | some p => nextN s (doSave s p)
  | none =>
    withPart s fn 3 9 fun p c s =>
      let x := s.pt p
      let a := c.u64 0
      let n := saveSize x.w x.h
      let st (v : Nat) : State := finishSt s fn c.id v
      if x.state ≠ .loaded && x.state ≠ .running && x.state ≠ .stalled then st 0x0008
      else if a % 4096 ≠ 0 || 1 < c.u8 8 then st 0x0005
      else if !x.ownsHbm a n then st 0x000B
      else if x.pinned a n then st 0x0601
      else if x.saveJob.isSome || x.abortJob.isSome then st 0x0009
      else
        let y := { x with
          saveJob := some { fn := fn, id := c.id, addr := a, release := c.u8 8 = 1 }
          run := if x.state = .loaded then x.run else { x.run with pausePending := true } }
        let t := (accept s fn c.id).setPt p y
        if saveReady t p then doSave t p else t

/-- Why a PART.RESUME on a rectangle is refused (R453). (DESIGN CHOICE: log entry 38.) -/
def resumeRefusal (s : State) (x : Part) (v : Saved) (o : Nat) : Option Nat :=
  if (v.state = .running || v.state = .stalled) && !mayRun s then some 0x0301
  else if !x.powered then some 0x0008
  else if x.w ≠ 0 then (if o = 255 || o = x.origin then none else some 0x0005)
  else if o = 255 || !rectFits o v.w v.h then some 0x0005
  else
    match rectRefusal s o v.w v.h with
    | some r => some r
    | none =>
      let act := activePrints s (rectRegions o v.w v.h)
      if v.handles.any (fun h => (tfind x.handles h).any (fun y => y.image.fingerprints ≠ act)) then some 0x0302 else none

/-- PART_RESUME (R278, R453): the command begins, or one whose regions have been zeroed goes on. -/
def execPartResume (fn : Fn) (s : State) : Out :=
  match (List.range 16).find? (fun p => (s.pt p).resumeJob.any (fun j => j.1 = fn.val)) with
  | some p =>
    let x := s.pt p
    match x.resumeJob with
    | none => .next s
    | some (f, id) =>
      if x.regions.any s.rst.zeroing.contains then .next s
      else nextN s (doResume s p f id (((cmdOf s f id).map (fun c => c.req.jobId)).getD 0))
  | none =>
    withPart s fn 3 10 fun p c s =>
      let x := s.pt p
      match (if x.state = .saved then x.saved else none) with
      | none => finishSt s fn c.id 0x0008
      | some v =>
        let r := resumeRefusal s x v (c.u8 0)
        if x.w = 0 && (r = none || r = some 0x030A || r = some 0x0302) && mapDue s (rectRegions (c.u8 0) v.w v.h) then s
        else match r with
        | some r => finishSt s fn c.id r
        | none =>
          let t := accept s fn c.id
          if x.w ≠ 0 then doResume t p fn c.id c.req.jobId
          else
            let rgs := rectRegions (c.u8 0) v.w v.h
            let u := (powerRegions t rgs).setPt p { x with origin := c.u8 0, w := v.w, h := v.h, resumeJob := some (fn.val, c.id) }
            if rgs.any u.rst.zeroing.contains then u else doResume u p fn c.id c.req.jobId

/-- PART_RESET (R454, R455). -/
def execPartReset (fn : Fn) (s : State) : Out :=
  withPart s fn 3 11 fun p c s => beginReset (begun s fn c.id) p fn c.id false 2 1

/-- The next request of function `fn` is a PART.POWER whose ON byte passes the test. -/
def powerReq (s : State) (fn : Nat) (on : Nat → Bool) : Bool := (startable s fn 3 12).any (fun c => on (c.u8 0))

/-- The drain of a power-down of partition `p` begins (R434, R457): its command is answered when the drain ends. (DEDUCED: log entry 37.) -/
def powerDrain (s : State) (p fn id : Nat) : State :=
  let x := s.pt p
  let t := endSave s p 0x000F
  let u := fenceTo (partState t p .draining 4) p .draining 1
  let back := if x.state = .saved then .saved else if x.state = .faulted then .faulted else .assigned
  u.setPt p { u.pt p with
    drain := some { finish := .power back, fn := fn, id := id, cause := 4, start := s.time, retired := 0, closed := 0 } }

/-- PART_POWER_OFF (R434, R454, R457). (DEDUCED: log entry 37.) -/
def execPartPowerOff (fn : Fn) (s : State) : Out :=
  if !powerReq s fn (· ≠ 1) then .next s
  else withPart s fn 3 12 fun p c s =>
    let x := s.pt p
    let us := c.u32 4
    let st (v : Nat) : State := finishSt s fn c.id v
    if c.u8 0 ≠ 0 || 1 < c.u8 1 || c.u16 2 ≠ 0 || (us ≠ 0 && (us < 10 || 10000 < us)) then st 0x0005
    else if x.state = .saved && x.w = 0 then st 0x0008
    else if snapBusy s p && c.u8 1 = 0 then st 0x0308
    else if !x.powered then finishOk s fn c.id (le 4 0 ++ le 4 0)
    else
      powerDrain (if snapBusy s p then epochIncomplete (begun s fn c.id) 3 else begun s fn c.id) p fn c.id

/-- PART_POWER_ON (R104, R458). (DEDUCED: log entry 37.) -/
def execPartPowerOn (fn : Fn) (s : State) : Out :=
  if !powerReq s fn (· = 1) then .next s
  else withPart s fn 3 12 fun p c s =>
    let x := s.pt p
    if 1 < c.u8 1 || c.u16 2 ≠ 0 then finishSt s fn c.id 0x0005
    else if x.powered then finishOk s fn c.id (le 4 0 ++ le 4 0)
    else
      let t := (powerRegions s x.regions).setPt p { x with powered := true }
      whenZeroed t fn c.id x.regions (if x.state = .faulted then [] else [p]) (le 4 0 ++ le 4 0)

/-- MEM_WINDOW_GRANT (R423–R426). (DEDUCED: log entry 37.) -/
def execMemWindowGrant (fn : Fn) (s : State) : Out :=
  withPart s fn 6 1 fun p c s =>
    let x := s.pt p
    let f := c.u16 0
    let n := c.u16 2
    let us := span f n
    let st (v : Nat) : State := finishSt s fn c.id v
    if n = 0 || 575 < f + n then st 0x0005
    else if 16 ≤ x.windows.length then st 0x000A
    else if us.any (fun u => unitGranted s u || s.hbm.reserved.contains u) then st 0x0602
    else if us.any s.hbm.zeroing.contains then st 0x0009
    else
      let t := s.setPt p { x with windows := x.windows ++ [(f, n)] }
      finishOk { t with husk := { t.husk with needWhole := us.foldl sins t.husk.needWhole } } fn c.id
        (fields 24 [(0, le 1 x.windows.length), (8, le 8 x.spaceSize), (16, le 8 (f * 0x10000000))])

/-- An engine command of partition `p` that addresses units of a window is outstanding (R428). -/
def windowWork (s : State) (p : Nat) (us : List Nat) : Bool :=
  let hits (r : Nat × Nat) : Bool := r.1 < cellBase && 0 < r.2 && (span (unitOf r.1) (unitOf (r.1 + r.2 - 1) + 1 - unitOf r.1)).any us.contains
  s.eng.jobs.any (fun j => j.member = p && (j.desc.srcRanges ++ j.desc.dstRanges).any hits) || s.eng.emb.any (fun j => j.part = p)
    || s.link.colls.any (fun l => l.part = p)

/-- Trace rings that lie in a window of partition `p` from window-space offset `o` on are lost (R821). -/
def loseRings (s : State) (p o : Nat) : State :=
  forFns s (sesFns s) (fun t fn =>
    let x := t.ses fn
    if x.sink = 1 && x.part = p && o < x.base + x.size then loseSink t fn else t)

/-- MEM_WINDOW_REVOKE (R427–R429). (DEDUCED: log entry 37.) -/
def execMemWindowRevoke (fn : Fn) (s : State) : Out :=
  withPart s fn 6 2 fun p c s =>
    let x := s.pt p
    let st (v : Nat) : State := finishSt s fn c.id v
    match x.windows.getLast? with
    | none => st 0x0005
    | some (f, n) =>
      let us := span f n
      let a := f * 0x10000000
      if c.u8 0 + 1 ≠ x.windows.length then st 0x0005
      else if x.state ≠ .assigned && x.state ≠ .faulted then st 0x0008
      else if x.pinned a (n * 0x10000000) then st 0x0601
      else if windowWork s p us then st 0x0009
      else if s.husk.current.any (fun e => (e.state = .frozen || e.state = .draining) && us.any e.units.contains) then st 0x0308
      else
        let t := revokeUnits (s.setPt p { x with windows := x.windows.dropLast }) us
        finishOk (loseRings t p (x.spaceSize - n * 0x10000000)) fn c.id (le 2 n)

/-- WINDOW_ZEROING_COMPLETE (R429): the unit holds zeros with clear poison, and can be granted. -/
def execWindowZeroingComplete (unit : Fin 576) (s : State) : Out :=
  if s.hbm.zeroing.contains unit.val && s.hbm.ready then
    let out (w : Nat) : Bool := w / 0x400000 ≠ unit.val
    .next { s with hbm := { s.hbm with
      mem := mclear s.hbm.mem (unit.val * 0x10000000) 0x10000000, poison := s.hbm.poison.filter out, ecc := s.hbm.ecc.filter (fun e => out e.1)
      zeroing := sdel s.hbm.zeroing unit } }
  else .next s

/-- DRAIN_WINDOW_EXPIRY (R435, R436). -/
def execDrainWindowExpiry (p : Fin 16) (s : State) : Out :=
  if (s.pt p).fence.state = .draining then nextN s (endPowerDrain s p) else .next s

/-- A bucket at a refill tick (R447). -/
def Regulator.refill (r : Regulator) : Regulator :=
  if r.rate = 0 then r else { r with level := min ((r.burst * 1024 : Nat) : Int) (r.level + r.rate) }

/-- REGULATOR_REFILL_TICK (R447). (DEDUCED: log entry 40.) -/
def execRegulatorRefillTick (s : State) : Out :=
  .next { s with part := s.part.map (fun x => (x.1, { x.2 with regs := x.2.regs.map (fun r => (r.1, r.2.refill)) })) }

end Sys2Proof.Machine
end

