-- ==== Sys2Proof/Machine/Regions.lean ====
section
/-! DEFINITION. The REGION and POD commands (R260–R276). -/

namespace Sys2Proof.Machine

/-- REGION_QUERY (R264). -/
def execRegionQuery (fn : Fn) (s : State) : Out :=
  withCmd s fn 4 1 fun c s =>
    let rg := c.u8 0
    if fn.val ≠ 0 && !(rg < 16 && (s.pt (fn.val - 1)).state ≠ .free && (s.pt (fn.val - 1)).regions.contains rg) then finishSt s fn c.id 0x0006
    else if 15 < rg then finishSt s fn c.id 0x0005
    else
      let r := s.rgn rg
      finishOk s fn c.id (fields 0x28
        [(0, le 1 rg), (1, le 1 (serviceability r)), (2, le 1 ((s.regionPart rg).getD 255)), (3, le 1 (b2n (!s.pow.gated.contains rg))),
         (4, le 4 r.sequence.toNat), (8, le 8 (fingerprint r.s1 r.s3)), (0x10, le 2 r.s1), (0x12, le 2 r.s3), (0x14, le 1 (b2n r.stored)),
         (0x18, podStateBytes r.pods)])

/-- Pods that a map binds: its bound spares, and the own pods of positions left unsubstituted (R266). -/
def boundPods (s1 s3 : Nat) : List Nat := (List.range 40).map (servedBy s1 s3)

/-- A REGION.APPLY_MAP or POD.RETURN of region `rg` has been accepted and its work goes on (R265). (DEDUCED: log entry 19.) -/
def regionBusy (s : State) (rg : Nat) : Bool :=
  (s.mb 0).consumed.any (fun c => c.req.cls = 4 && (c.req.verb = 2 || c.req.verb = 4) && c.started && c.result.isNone && c.u8 0 = rg)

/-- Refusals of REGION.APPLY_MAP (R265, R266). -/
def applyMapRefusal (c : Consumed) (s : State) : Option Result :=
  let rg := c.u8 0
  let s1 := c.u16 8
  let s3 := c.u16 10
  if 15 < rg || rd 3 c.req.payload 1 ≠ 0 then refusal 0x0005
  else if regionBusy s rg then refusal 0x0009
  else if (s.regionPart rg).isSome then refusal 0x0401
  else if (s.rgn rg).sequence.toNat ≠ c.u32 4 then refusal 0x0404
  else if !mapValid s1 s3 then refusal 0x0402
  else if (boundPods s1 s3).any (fun p => !usable (slotState (s.rgn rg).pods p)) then refusal 0x0403
  else none

/-- The new map of region `rg` is in the store and in force; pods take the states that it gives them (R257, R267, R268). (DEDUCED: log entry 19.) -/
def applyMap (s : State) (rg s1 s3 : Nat) : State :=
  let r := s.rgn rg
  let t := s.setRgn rg { r with
    s1 := s1, s3 := s3, sequence := r.sequence + 1, stored := true
    loadedS1 := if s.pow.gated.contains rg then r.loadedS1 else s1, loadedS3 := if s.pow.gated.contains rg then r.loadedS3 else s3 }
  let used := boundPods s1 s3
  let u := used.foldl (fun t p => podState t rg p .active 2) t
  let idle := (List.range 42).filter (fun p => !used.contains p && slotState (u.rgn rg).pods p = .active)
  writeStore (idle.foldl (fun t p => podState t rg p .spareAvailable 2) u)

/-- REGION_APPLY_MAP (R177, R265–R268): `flashOk` says whether the flash takes the write. -/
def execRegionApplyMap (fn : Fn) (flashOk : Bool) (s : State) : Out :=
  flashRow fn 4 2 (fun _ => true) applyMapRefusal (fun _ _ => none)
    (fun c s =>
      let rg := c.u8 0
      if !flashOk then (⟨0x0D08, 0, []⟩, s)
      else
        let t := applyMap s rg (c.u16 8) (c.u16 10)
        let r := t.rgn rg
        (⟨0, 0, le 8 (fingerprint r.s1 r.s3) ++ le 4 r.sequence.toNat⟩, t)) s

/-- POD_QUARANTINE (R265, R269–R272). (DEDUCED: log entry 19.) -/
def execPodQuarantine (fn : Fn) (s : State) : Out :=
  match startable s fn 4 3 with
  | none => .next s
  | some c =>
    let rg := c.u8 0
    let slot := c.u8 1
    let old := slotState (s.rgn rg).pods slot
    let answer (t : State) : Out := nextN s (finishOk t fn c.id (le 1 old.code ++ le 1 (serviceability (t.rgn rg))))
    if 15 < rg || 41 < slot || 1 < c.u8 2 then nextN s (finishSt s fn c.id 0x0005)
    else if regionBusy s rg then nextN s (finishSt s fn c.id 0x0009)
    else if !usable old then answer s
    else
      match s.regionPart rg with
      | some p =>
        if old ≠ .active then answer (quarantine s rg slot 0)
        else if c.u8 2 = 0 then nextN s (finishSt s fn c.id 0x0401)
        else
          let k := (List.range 40).find? (fun pos => servedBy (s.rgn rg).s1 (s.rgn rg).s3 pos = slot)
          let t := raiseFault s { code := 0x0401, cls := 2, partition := p, region := rg, pod := (k.map (podAt rg)).getD 65535
                                  detail := le 1 slot ++ le 1 0 }
          answer (quarantine t rg slot 0)
      | none => answer (quarantine s rg slot 0)

/-- POD_RETURN (R273–R276): `failTest` is the first failing test of the self-test, if one fails. (DEDUCED: log entry 19.) -/
def execPodReturn (fn : Fn) (failTest : Option W32) (s : State) : Out :=
  withCmd s fn 4 4 fun c s =>
    let rg := c.u8 0
    let slot := c.u8 1
    if 15 < rg || 41 < slot then finishSt s fn c.id 0x0005
    else if regionBusy s rg then finishSt s fn c.id 0x0009
    else if usable (slotState (s.rgn rg).pods slot) || s.pow.gated.contains rg then finishSt s fn c.id 0x0008
    else if !s.boot.sections.contains 5 then finishSt s fn c.id 0x0406
    else
      let t := accept s fn c.id
      match failTest with
      | none =>
        let u := dueStore (podState t rg slot .spareAvailable 0) rg
        let v := { u with faults := { u.faults with podFaults := tdel u.faults.podFaults (rg * 64 + slot) } }
        workDone v fn c.id ⟨0, 0, le 1 0 ++ le 1 1 ++ le 2 0 ++ le 4 0⟩
      | some n =>
        let u := dueStore (podState t rg slot .failed 0) rg
        workDone u fn c.id ⟨0x0405, 0, le 1 1 ++ le 1 3 ++ le 2 0 ++ le 4 n.toNat⟩

end Sys2Proof.Machine
end

