-- ==== Sys2Proof/Machine/Gating.lean ====
section
/-! DEFINITION. Region power gating and region clocks (R755, R772–R774). -/

namespace Sys2Proof.Machine

/-- Partitions that hold a region of a mask. -/
def coveredParts (s : State) (mask : Nat) : List Nat := (List.range 16).filter (fun p => (s.pt p).regions.any (bitOf mask))

/-- Refusals of POWER.REGION_GATE (R454, R694, R772); a partition that is draining already has no PART.POWER. (DEDUCED: log entry 61.) -/
def gateRefusal (s : State) (c : Consumed) : Option Nat :=
  let m := c.u16 0
  let us := c.u32 4
  let ps := coveredParts s m
  if m = 0 || 1 < c.u8 2 || 1 < c.u8 3 || (us ≠ 0 && (us < 10 || 10000 < us)) then some 0x0005
  else if ps.any (fun p => !(s.pt p).regions.all (bitOf m)) then some 0x0401
  else if (bitsSet m 16).any (regionBusy s) || ps.any (restoring s) then some 0x0009
  else if ps.any (fun p => participant s p || snapBusy s p) && c.u8 3 = 0 then some 0x0308
  else if ps.any (fun p => (s.pt p).state = .draining) then some 0x0008
  else none

/-- POWERED: regions with power (R772). -/
def poweredMask (s : State) : Nat := maskOf ((List.range 16).filter (fun g => !s.pow.gated.contains g))

/-- The next request of function `fn` is a POWER.REGION_GATE whose ON byte passes the test. -/
def gateReq (s : State) (fn : Nat) (on : Nat → Bool) : Bool := (startable s fn 11 5).any (fun c => on (c.u8 2))

/-- With FORCE, the epoch that a participant is in becomes INCOMPLETE (R694). -/
def forceEpoch (s : State) (ps : List Nat) : State :=
  if ps.any (fun p => participant s p || snapBusy s p) then epochIncomplete s 3 else s

/-- POWER_REGION_GATE_ON (R104, R109, R458, R773): answered when every region covered has been zeroed. -/
def execPowerRegionGateOn (fn : Fn) (s : State) : Out :=
  if !gateReq s fn (· = 1) then .next s
  else
    withCmd s fn 11 5 fun c s0 =>
      match gateRefusal s0 c with
      | some v => finishSt s0 fn c.id v
      | none =>
        let rgs := bitsSet (c.u16 0) 16
        let ps := (coveredParts s0 (c.u16 0)).filter (fun p => !(s0.pt p).powered)
        let s1 := powerRegions (forceEpoch s0 (coveredParts s0 (c.u16 0))) rgs
        let s2 := ps.foldl (fun t p => t.setPt p { t.pt p with powered := true }) s1
        note s0 (whenZeroed s2 fn c.id rgs (ps.filter (fun p => (s0.pt p).state ≠ .faulted)) (le 2 (poweredMask s2)))

/-- Engine commands that use memory cells of the regions end with ABORTED_POWER (R435, R458). -/
def retireRegions (s : State) (rgs : List Nat) : State :=
  endLists (retireJobs s
    (fun j => (j.desc.srcRanges ++ j.desc.dstRanges).any (fun r => cellBase ≤ r.1 && rgs.contains (regionOfAddr r.1))) 0x000F true)

/-- A POWER.REGION_GATE OFF ends: the unassigned regions lose their power, and the command is answered (R103, R773). -/
def gateEnd (s : State) (j : GateJob) : State :=
  let t := gateRegions (retireRegions { s with pow := { s.pow with gateJob := none } } j.regions) j.regions
  finishOk t j.fn j.id (le 2 (poweredMask t))

/-- POWER_REGION_GATE_OFF (R103, R434, R457, R694, R772, R773). Invoked again while its partitions drain, it ends once their drain windows have. -/
def execPowerRegionGateOff (fn : Fn) (s : State) : Out :=
  match s.pow.gateJob.filter (fun j => j.fn = fn.val) with
  | some j => if j.parts.any (fun p => (s.pt p).fence.state = .draining) then .next s else nextN s (gateEnd s j)
  | none =>
    if !gateReq s fn (· ≠ 1) then .next s
    else
      withCmd s fn 11 5 fun c s0 =>
        match gateRefusal s0 c with
        | some v => finishSt s0 fn c.id v
        | none =>
          let all := coveredParts s0 (c.u16 0)
          let ps := all.filter (fun p => (s0.pt p).powered)
          let rgs := (bitsSet (c.u16 0) 16).filter (fun g => (s0.regionPart g).isNone && !s0.pow.gated.contains g)
          let j : GateJob := { fn := fn, id := c.id, regions := rgs, parts := ps }
          let s1 := ps.foldl (fun t p => powerDrain t p 0 0) (forceEpoch (begun s0 fn c.id) all)
          note s0 (if ps.isEmpty then gateEnd s1 j else { s1 with pow := { s1.pow with gateJob := some j } })

/-- Something needs region `rg`'s memory cells (R755): its partition runs; a pause, save, resume or restore copies them; an engine segment addresses
them; they are being zeroed. -/
def clockNeeded (s : State) (rg : Nat) : Bool :=
  s.rst.zeroing.contains rg
    || (s.regionPart rg).any (fun p =>
      let x := s.pt p
      x.inRun || x.saveJob.isSome || x.resumeJob.isSome || copying s p || restoring s p)
    || s.eng.jobs.any (fun j => (j.desc.srcRanges ++ j.desc.dstRanges).any (fun r => cellBase ≤ r.1 && regionOfAddr r.1 = rg))

/-- The device is in RUN while the FCLK of some region runs, and in IDLE otherwise (R754, R755). -/
def runOrIdle (s : State) : State :=
  if s.pow.state = .run || s.pow.state = .idle then
    { s with pow := { s.pow with state := if (List.range 16).any (fun rg => (s.rgn rg).clocked) then .run else .idle } }
  else s

/-- REGION_CLOCK_UNGATE (R755). -/
def execRegionClockUngate (rg : Fin 16) (s : State) : Out :=
  if s.clk.run && regionLive s rg && !(s.rgn rg).clocked && clockNeeded s rg then
    nextN s (runOrIdle (s.setRgn rg { s.rgn rg with clocked := true }))
  else .next s

end Sys2Proof.Machine
end

