-- ==== Sys2Proof/Machine/Hub.lean ====
section
/-! DEFINITION. The hub: packets, drive completions, time-outs and memory requests, captive links, and the HUB commands (R600–R659). -/

namespace Sys2Proof.Machine

/-- Credit pools of ingress `i` for packets of a kind: headers, and bytes of data (R615). Ingress 8 is the upstream port. -/
def poolOf (s : State) (i kind : Nat) : Nat × Nat :=
  let x8 := [(128, 32768), (128, 2048), (256, 131072)]
  let x4 := [(64, 16384), (64, 1024), (128, 65536)]
  (if i = 8 then [(128, 32768), (192, 2048), (256, 131072)] else if s.boot.dpw then x8 else x4).getD kind (0, 0)

/-- Ingress `i` has room for a packet in its own pools. -/
def poolRoom (s : State) (i : Nat) (t : Tlp) : Bool :=
  let mine := (tget [] s.hub.held i).filter (fun x => x.2.kind = t.kind)
  let p := poolOf s i t.kind
  mine.length < p.1 && (mine.map (fun x => x.2.length)).foldl (· + ·) 0 + t.length ≤ p.2

/-- A port that carries the host's packets: the upstream port, or a passthrough port with its link up (R603). -/
def carries (s : State) (i : Nat) : Bool :=
  if i = 8 then s.rst.socOut && s.rst.hubOut else hubLive s i && (s.dp i).passthrough && (s.dp i).linkUp

/-- TLP_FORWARD (R614–R616): a packet that has arrived whole is stored, unless its CRC fails; the oldest one stored leaves when its egress
holds credits. (DEDUCED: log entry 54.) -/
def execTlpForward (ingress : Fin 9) (arrive : Option (Fin 9 × Tlp)) (crcGood credit : Bool) (s : State) : Out :=
  if !carries s ingress then .next s
  else
    let old := tget [] s.hub.held ingress
    let now := match arrive with
      | some (e, t) => if crcGood && e ≠ ingress && carries s e && poolRoom s ingress t then old ++ [(e.val, t)] else old
      | none => old
    match credit, now with
    | true, (e, t) :: r => .next { s with hub := { s.hub with held := tset s.hub.held ingress r, forwarded := some (ingress.val, e, t) } }
    | _, _ => .next { s with hub := { s.hub with held := tset s.hub.held ingress now } }

/-- DPC_TRIGGER (R856). -/
def execDpcTrigger (dp : Fin 8) (s : State) : Out :=
  if hubLive s dp && (s.dp dp).passthrough && (s.dp dp).linkUp then
    let t := modDp s dp (fun p => { p with linkUp := false, speed := 0, width := 0, flit := false, l12 := false, dllChanged := true, dpc := true })
    nextN s { t with hub := { t.hub with held := (tdel t.hub.held dp).map (fun h => (h.1, h.2.filter (fun x => x.1 ≠ dp.val))) } }
  else .next s

/-- NVME_COMPLETION_RECEIVE (R632–R635): identifiers from 0xFF00 are those of the four Asynchronous Event Requests. -/
def execNvmeCompletionReceive (dp : Fin 8) (cid nvme dw0 dw1 : Nat) (info : DriveInfo) (s : State) : Out :=
  let d := (s.dp dp).drive
  if !engineLive s dp then .next s
  else if d.aer && 0xFF00 ≤ cid && cid < 0xFF04 then nextN s (sendAdmin s dp (adminCmd 0x02 0xFFFFFFFF .log (freeBuffer s 1) 0x1000))
  else
    match d.sent.find? (fun c => c.cid = cid) with
    | none => .next s
    | some c =>
      let e : NvmeEnd := .done nvme dw0 dw1
      let moved := if e.ok && c.qid ≠ 0 && (c.opcode = nvmRead || c.opcode = nvmWrite) then c.length else 0
      let t := modDrive (dropCmd s dp cid) dp (fun d => { d with
        bytes := d.bytes + BitVec.ofNat 64 moved, step := if d.step = 1 && d.victim % 65536 = cid then 0 else d.step })
      nextN s (endDriveCmd t dp c e info)

/-- NVME_COMMAND_TIMEOUT (R639): a command is 30 s old, or the recovery step under way has failed. -/
def execNvmeCommandTimeout (dp : Fin 8) (cid : Nat) (s : State) : Out :=
  let d := (s.dp dp).drive
  if !engineLive s dp || d.state.refuses || d.state = .suspended || d.state = .powering then .next s
  else if d.step = 0 then
    match d.sent.find? (fun c => c.cid = cid) with
    | none => .next s
    | some c =>
      nextN s (sendAdmin (modDrive s dp (fun d => { d with step := 1, victim := cid + 65536 * c.qid })) dp (adminCmd 0x08 0 .abort 0 0))
  else if d.step = 1 && !d.sent.any (fun c => c.cid = d.victim % 65536) then nextN s (modDrive s dp (fun d => { d with step := 0 }))
  else nextN s (driveStepFails s dp (d.victim / 65536))

/-- Drive-engine queue memory and MSI-X target of port `n`, as the model lays them out (R637). (DESIGN CHOICE: log entry 53.) -/
def queueBase (n : Nat) : Nat := 0x100000000000 + n * 0x80000
def msixBase (n : Nat) : Nat := 0x100001000000 + n * 0x200

/-- The outstanding command of the drive whose data buffer holds the range (R637). (DESIGN CHOICE: log entry 53.) -/
def bufferCmd (s : State) (n a k : Nat) : Option NvmeCmd :=
  (s.dp n).drive.sent.find? (fun c => 0 < c.length && c.buffer ≤ a && a + k ≤ c.buffer + c.length)

/-- What the hub answered last. -/
def answered (s : State) (b : List Byte) (ok : Bool) : State := { s with hub := { s.hub with answer := some (b, ok) } }

/-- A drive command is ended by the engine. -/
def cutCmd (s : State) (n : Nat) (c : NvmeCmd) (status detail : Nat) : State :=
  endDriveCmd (dropCmd s n c.cid) n c (.cut status detail) noInfo

/-- A memory request outside the rules (R637): Unsupported Request, DRIVE_DMA_VIOLATION, and the command concerned ends. -/
def dmaViolation (s : State) (n a : Nat) (who : Option Nat) : State :=
  let t := driveFault (answered s [] false) n 0x0901 1 (le 8 a)
  match who.bind (fun i => (t.dp n).drive.sent.find? (fun c => c.cid = i)) with
  | some c => cutCmd t n c 0x0907 0
  | none => t

/-- DRIVE_MEMORY_REQUEST (R637, R638). (DESIGN CHOICE: log entry 53.) -/
def execDriveMemoryRequest (dp : Fin 8) (r : DriveReq) (who : Option Nat) (s : State) : Out :=
  if !(engineLive s dp && (s.dp dp).linkUp) then .next s
  else
    match r with
    | .read a k =>
      if inHbm a k then
        match bufferCmd s dp a k with
        | some c =>
          let x := engineRead s a k
          let t := answered x.2.2 x.1 true
          nextN s (if x.2.1.isEmpty then t else cutCmd t dp c 0x0907 1)
        | none => nextN s (dmaViolation s dp a who)
      else if queueBase dp ≤ a && a + k ≤ queueBase dp + 0x80000 then let x := openBytes s k; .next (answered x.2 x.1 true)
      else nextN s (dmaViolation s dp a who)
    | .write a data poisoned =>
      if inHbm a data.length then
        match bufferCmd s dp a data.length with
        | some _ => nextN s (answered { s with hbm := hbmPut s.hbm a data (fun _ _ => poisoned) } [] true)
        | none => nextN s (dmaViolation s dp a who)
      else if queueBase dp ≤ a && a + data.length ≤ queueBase dp + 0x80000 then .next (answered s [] true)
      else if (List.range 18).any (fun v => a = msixBase dp + 4 * v) && data.length = 4 then .next (answered s [] true)
      else nextN s (dmaViolation s dp a who)

/-- CAPTIVE_LINK_ERROR (R855): an uncorrectable one starts the recovery at step 3. -/
def execCaptiveLinkError (dp : Fin 8) (correctable : Bool) (status : W32) (s : State) : Out :=
  let d := (s.dp dp).drive
  if !(engineLive s dp && (s.dp dp).linkUp) then .next s
  else if correctable then nextN s (driveFault s dp 0x0903 0 (le 4 status.toNat))
  else
    let t := driveFault s dp 0x0904 1 (le 4 status.toNat)
    nextN s (if d.state.refuses || d.state = .suspending then t else recover3 t dp 7)

/-- NVME_ADMIN_TIMEOUT (R656): TIMEOUT_MS has passed; what the drive still answers is dropped. -/
def execNvmeAdminTimeout (dp : Fin 8) (cid : Nat) (s : State) : Out :=
  let d := (s.dp dp).drive
  match (d.queued ++ d.sent).find? (fun c => c.cid = cid) with
  | some c =>
    match c.use with
    | .admin fn id _ =>
      let t := workDone s fn id ⟨0x0907, 0, []⟩
      .next (modDrive t dp (fun d => { d with
        queued := d.queued.filter (fun x => x.cid ≠ cid), sent := d.sent.map (fun x => if x.cid = cid then { x with use := .log } else x) }))
    | _ => .next s
  | none => .next s

/-- Namespaces that HUB.QUERY lists: port, owner, NSID (R650). -/
def nsEntries (s : State) (fn : Nat) : List (Nat × Nat × Nat) :=
  (List.range 8).flatMap (fun n =>
    let d := (s.dp n).drive
    if !captive s n || d.state = .absent then []
    else (d.nss.map (fun x => (n, nsOwner s d.serial x.nsid, x.nsid))).filter (fun e => fn = 0 || e.2.1 = fn))

/-- HUB_QUERY (R650, R657). -/
def execHubQuery (fn : Fn) (s : State) : Out :=
  withCmd s fn 9 1 fun c s =>
    let n := c.u8 1
    let p := s.dp n
    let d := p.drive
    if fn.val ≠ 0 && c.u8 0 ≠ 1 then finishSt s fn c.id 0x0006
    else if 1 < c.u8 0 || rd 2 c.req.payload 2 ≠ 0 then finishSt s fn c.id 0x0005
    else if c.u8 0 = 1 then
      let l := nsEntries s fn
      let some5 := (l.drop (c.u32 4)).take 5
      finishOk s fn c.id (fields 48 [(0, le 2 (sat 0xFFFF l.length)), (2, le 1 some5.length), (8, some5.flatMap (fun e => le 1 e.1 ++ le 1 e.2.1 ++ le 2 0 ++ le 4 e.2.2))])
    else if !dpExists s n then finishSt s fn c.id 0x0903
    else
      finishOk s fn c.id (fields 48
        [(0, le 1 (b2n p.passthrough)), (1, le 1 (slotCode s n)), (2, le 1 (b2n p.present)), (3, le 1 d.state.code), (4, le 1 p.speed), (5, le 1 p.width),
         (6, le 1 (b2n p.flit + 2 * b2n p.l12Enable + 4 * b2n p.autoPower)), (7, le 1 (if d.state = .absent then 0 else d.nss.length)), (8, le 4 p.suspendS),
         (12, le 4 d.resets.toNat), (0x10, bytesAt (if d.state = .absent then [] else d.serial) 0 20), (0x24, le 4 d.sent.length), (0x28, le 8 d.bytes.toNat)])

/-- The drive last initialised on the port has a namespace with an owner (R610). -/
def driveOwned (s : State) (n : Nat) : Bool := s.hub.records.any (fun r => r.serial = (s.dp n).drive.serial && r.owner ≠ 0)

/-- HUB_PORT_MODE (R607–R611, R651). (DEDUCED: log entry 54.) -/
def execHubPortMode (fn : Fn) (s : State) : Out :=
  withCmd s fn 9 2 fun c s0 =>
    let n := c.u8 0
    let pass := c.u8 1 = 1
    let wait := c.u32 4
    let p := s0.dp n
    let st (v : Nat) : State := finishSt s0 fn c.id v
    if !dpExists s0 n then st 0x0903
    else if 1 < c.u8 1 || 3 < c.u8 2 || c.u8 3 ≠ 0 || !(wait = 0 || (10 ≤ wait && wait ≤ 86400)) then st 0x0005
    else if pass ≠ p.passthrough && slotCode s0 n ≠ 0 then st 0x0902
    else if !pass && p.passthrough && (p.mse || p.bme) then st 0x0901
    else if pass && !p.passthrough && driveOwned s0 n then st 0x0908
    else
      let t := modDp s0 n (fun p => { p with autoPower := bitOf (c.u8 2) 0, l12Enable := bitOf (c.u8 2) 1, suspendS := wait })
      let u :=
        if pass = p.passthrough then t
        else
          let fresh (t : State) : State := modDp t n (fun q =>
            let i := DPort.init
            { i with passthrough := pass, autoPower := q.autoPower, l12Enable := q.l12Enable, suspendS := q.suspendS, present := q.present, drive := q.drive })
          let v := if pass then endAll (driveState (fresh t) n .hostOwned 0) n 0x0905 else driveState (fresh t) n (if p.present then .off else .absent) 0
          eventDev v 0x0902 (le 1 n ++ le 1 (b2n pass))
      note s0 (finishOk u fn c.id (le 1 (b2n p.passthrough)))

/-- The drive holds a live member of the husk volume's epoch that is FROZEN or DRAINING (R652). -/
def holdsEpoch (s : State) (n : Nat) : Bool :=
  s.husk.current.any (fun e => e.state = .frozen || e.state = .draining)
    && (tfind s.husk.writers 0).any (fun w => w.live.any (fun m => ((s.vol 0).member m).serial = (s.dp n).drive.serial))

/-- Refusals of HUB.SLOT_POWER (R652). (DEDUCED: log entry 54.) -/
def slotRefusal (s : State) (c : Consumed) : Option Nat :=
  let n := c.u8 0
  let force := bitOf (c.u8 2) 0
  let us := c.u32 4
  let d := (s.dp n).drive.state
  if !dpExists s n then some 0x0903
  else if 1 < c.u8 1 || 1 < c.u8 2 || c.u8 3 ≠ 0 || !(us = 0 || (10 ≤ us && us ≤ 10000)) then some 0x0005
  else if (s.dp n).passthrough then (if force then none else some 0x0901)
  else if c.u8 1 = 1 && !(s.dp n).present then some 0x0904
  else if d = .powering || d = .initialising || d = .suspending || d = .waking || d = .resetting then some 0x0009
  else if c.u8 1 = 0 && !force && holdsEpoch s n then some 0x0308
  else none

/-- The response of HUB.SLOT_POWER. -/
def slotPayload (s : State) (n cut : Nat) : List Byte := le 1 (s.dp n).drive.state.code ++ le 3 0 ++ le 4 cut

/-- HUB_SLOT_POWER_ON (R617, R652). -/
def execHubSlotPowerOn (fn : Fn) (s : State) : Out :=
  withCmd s fn 9 3 fun c s0 =>
    if c.u8 1 = 0 then s0
    else
      match slotRefusal s0 c with
      | some v => finishSt s0 fn c.id v
      | none =>
        let n := c.u8 0
        let p := s0.dp n
        let t :=
          if p.passthrough then (if slotCode s0 n = 2 then s0 else slotOn s0 n)
          else if p.drive.state = .suspended then wakeDrive s0 n 0
          else if (p.drive.state = .off || p.drive.state = .failed) && slotCode s0 n ≠ 2 then powerOn s0 n 0
          else s0
        note s0 (finishOk t fn c.id (slotPayload t n 0))

/-- The fence of a captive port closes: what is outstanding is terminated, and the drive shut down (R435, R618, R628, R652). (DEDUCED: log entry 54.) -/
def slotPowerOff (s : State) (n fn id : Nat) : State :=
  let d := (s.dp n).drive
  let cut := d.sent.length
  let s1 := modDp s n (fun p => { p with fence := .closed, offJob := none })
  let s2 := endCommands s1 n d.sent 0x000F
  let s3 := (writersOn s2 n).foldl (fun t w => memberLost t w.1 w.2 false) s2
  let s4 :=
    if d.state = .ready then driveState (modDrive s3 n (fun d => { d with offAfter := true, cause := 0, step := 0 })) n .suspending 0
    else if d.state = .absent then s3
    else endAll (driveState (if s3.comp.slotCtrl.getLsbD n then slotOff s3 n else s3) n .off 0) n 0x0905
  finishOk s4 fn id (slotPayload s4 n cut)

/-- HUB_SLOT_POWER_OFF (R434–R436, R618, R652). While commands are outstanding the fence drains; invoked again, the drain window has ended. -/
def execHubSlotPowerOff (fn : Fn) (s : State) : Out :=
  match (List.range 8).findSome? (fun n => (s.dp n).offJob.bind (fun j => if j.1 = fn.val then some (n, j.2) else none)) with
  | some (n, id) => nextN s (slotPowerOff s n fn id)
  | none =>
    withCmd s fn 9 3 fun c s0 =>
      if c.u8 1 = 1 then s0
      else
        match slotRefusal s0 c with
        | some v => finishSt s0 fn c.id v
        | none =>
          let n := c.u8 0
          let p := s0.dp n
          note s0 (
            if p.passthrough then
              let t := modDp (slotOff s0 n) n (fun q => { q with dllChanged := q.dllChanged || p.linkUp })
              finishOk t fn c.id (slotPayload t n 0)
            else if p.drive.sent.isEmpty then slotPowerOff s0 n fn c.id
            else begun (modDp s0 n (fun p => { p with fence := .draining, offJob := some (fn.val, c.id) })) fn c.id)

/-- The volume of a namespace that is owned by DEVICE or GUEST holds an epoch that is FROZEN or DRAINING (R653). -/
def nsInEpoch (s : State) (serial : List Byte) (nsid : Nat) : Bool :=
  s.husk.volumes.any (fun v =>
    v.2.members.any (fun m => m.2.serial = serial && m.2.nsid = nsid)
      && (if v.1 = 0 then s.husk.current.any (fun e => e.state = .frozen || e.state = .draining) else (tfind s.husk.writers v.1).isSome))

/-- Refusals of HUB.NS_ASSIGN (R653). -/
def nsAssignRefusal (s : State) (n owner nsid flags : Nat) : Option Nat :=
  let d := (s.dp n).drive
  let cur := nsOwner s d.serial nsid
  if !dpExists s n then some 0x0903
  else if (s.dp n).passthrough || !(d.state = .ready || d.state = .suspended) then some 0x0905
  else if !(owner ≤ 16 || owner = 0x20 || owner = 0x21) || 1 < flags then some 0x0005
  else
    match nsOf s n nsid with
    | none => some 0x0909
    | some x =>
      if (x.lba ≠ 512 && x.lba ≠ 4096) || x.metadata then some 0x090A
      else if 1 ≤ owner && owner ≤ 16 && (s.pt (owner - 1)).state = .free then some 0x0008
      else if cur ≠ 0 && owner ≠ 0 && cur ≠ owner then some 0x0908
      else if cur ≠ 0 && owner = 0 && nsInEpoch s d.serial nsid then some 0x0308
      else if ((1 ≤ owner && owner ≤ 16) || owner = 0x21) && !(nsRecord s d.serial nsid).any (fun r => r.clean) && flags = 0 then some 0x090B
      else none

/-- HUB_NS_ASSIGN (R644, R647, R653, R821). -/
def execHubNsAssign (fn : Fn) (s : State) : Out :=
  withCmd s fn 9 4 fun c s0 =>
    let n := c.u8 0
    let owner := c.u8 1
    let nsid := c.u32 4
    match nsAssignRefusal s0 n owner nsid (c.u8 2 + 256 * c.u8 3) with
    | some v => finishSt s0 fn c.id v
    | none =>
      let d := (s0.dp n).drive
      let cur := nsOwner s0 d.serial nsid
      let x := nsOf s0 n nsid
      let t := ownNs s0 d.serial nsid owner
      let u := if cur ≠ 0 && owner = 0 then loseDriveSinks t n (some nsid) else t
      note s0 (finishOk u fn c.id (fields 20 [(0, le 1 cur), (8, le 8 ((x.map (fun x => x.size)).getD 0)), (16, le 4 ((x.map (fun x => x.lba)).getD 0))]))

/-- HUB.NVME_ADMIN admits the submission entry (R654). -/
def adminAdmitted (entry : List Byte) : Bool :=
  let op := rd 1 entry 0
  [0x02, 0x06, 0x0A, 0x0D, 0x15, 0x80, 0x84, 0x11, 0x10, 0x14, 0x81, 0x82].contains op
    || (op = 0x09 && !([0x07, 0x06, 0x0B, 0x02].contains (rd 1 entry 40)))

/-- It would reach a namespace that has an owner (R655). -/
def adminReachesOwned (s : State) (n : Nat) (entry : List Byte) : Bool :=
  let op := rd 1 entry 0
  let nsid := rd 4 entry 4
  let sel := rd 1 entry 40 % 16
  let owned := nsOwner s (s.dp n).drive.serial nsid ≠ 0
  if nsid = 0xFFFFFFFF || op = 0x84 then driveOwned s n
  else owned && (op = 0x80 || (op = 0x0D && sel = 1) || (op = 0x15 && sel = 1))

/-- Refusals of HUB.NVME_ADMIN (R640, R654, R655). -/
def adminRefusal (s : State) (n length : Nat) (entry : List Byte) : Option Nat :=
  let d := (s.dp n).drive
  if !dpExists s n then some 0x0903
  else if 0x100000 < length then some 0x0005
  else if (s.dp n).passthrough then some 0x0901
  else if d.state.refuses then some 0x0905
  else if !adminAdmitted entry then some 0x090C
  else if adminReachesOwned s n entry then some 0x0908
  else if rd 1 entry 0 = 0x10 && !d.idle then some 0x0009
  else none

/-- HUB_NVME_ADMIN (R654–R656): `buf` is what the host buffer holds, none when the read of it fails. (DEDUCED: log entry 54.) -/
def execHubNvmeAdmin (fn : Fn) (buf : Option (List Byte)) (s : State) : Out :=
  withCmd s fn 9 5 fun c s0 =>
    let n := c.u8 0
    let length := c.u32 0x10
    let entry := bytesAt (c.req.payload.drop 0x20) 0 64
    match adminRefusal s0 n length entry with
    | some v => finishSt s0 fn c.id v
    | none =>
      let s1 := accept s0 fn c.id
      let op := rd 1 entry 0
      let a := freeBuffer s1 ((length + 65535) / 65536)
      let x : NvmeCmd := { adminCmd op (rd 4 entry 4) (.admin fn c.id (c.u64 8)) a length with entry := entry, jobId := c.req.jobId }
      let go (t : State) : State := note s0 (if (t.dp n).drive.state = .ready then sendAdmin t n x else (submit t n x).getD (workDone t fn c.id ⟨0x0905, 0, []⟩))
      if op % 2 = 1 && 0 < length then
        match hostBuf s1 fn buf with
        | none => workDone s1 fn c.id ⟨0x000C, 0, []⟩
        | some b => go (stageData s1 a (bytesAt b 0 length))
      else go s1

end Sys2Proof.Machine
end

