-- ==== Sys2Proof/Machine/Images.lean ====
section
/-! DEFINITION. The IMAGE commands, PART.LOAD to PART.ABORT, and the shifting of slots (R386–R405). -/

namespace Sys2Proof.Machine

/-- The lowest handle number from `n` on that is free, never 0. (DEDUCED: log entry 35.) -/
def freeHandle (hs : Tab Handle) (n : Nat) : Nat :=
  ((List.range 10).map (fun i => if (n + i) % 65536 = 0 then 1 else (n + i) % 65536)).find? (fun k => (tfind hs k).isNone) |>.getD n

/-- IMAGE_STAGE (R385–R388). (DEDUCED: log entry 35.) -/
def execImageStage (fn : Fn) (buf : Option (List Byte)) (s : State) : Out :=
  withPart s fn 2 1 fun p c s =>
    let x := s.pt p
    let n := c.u32 8
    let off := c.u64 16
    let st (v : Nat) : State := finishSt s fn c.id v
    if c.u32 12 ≠ 0 || off % 4096 ≠ 0 || n = 0 then st 0x0005
    else
      match windowPieces x.windows off n with
      | none => st 0x000B
      | some ps =>
        if x.state = .faulted then st 0x0309
        else if ps.any (fun r => x.pinned r.1 r.2) then st 0x0601
        else if 8 ≤ x.handles.length then st 0x000A
        else
          let t := accept s fn c.id
          match hostBuf s fn buf with
          | none => workDone t fn c.id ⟨0x000C, 0, []⟩
          | some b =>
            let d := bytesAt b 0 n
            let u := windowWrite t p off d clean
            let k := imgCheck d
            if k ≠ 0 then workDone u fn c.id ⟨0x0201, k, []⟩
            else
              let img := imgOf d
              let hd := freeHandle x.handles x.nextHandle
              let v := u.setPt p { u.pt p with
                handles := tset (u.pt p).handles hd { offset := off, length := n, image := img, recheck := false }, nextHandle := hd + 1 }
              workDone v fn c.id ⟨0, 0, fields 16 [(0, le 2 hd), (4, le 4 img.length), (8, le 8 img.reportId.toNat)]⟩

/-- IMAGE_CHECK (R262). -/
def execImageCheck (fn : Fn) (s : State) : Out :=
  withPart s fn 2 2 fun p c s =>
    let x := s.pt p
    match tfind x.handles (c.u16 0) with
    | none => finishSt s fn c.id 0x0005
    | some h =>
      let act := activePrints s x.regions
      if h.image.w ≠ x.w || h.image.h ≠ x.h then finishOk s fn c.id (fields 24 [(0, le 1 2)])
      else
        match (List.range act.length).find? (fun i => h.image.fingerprints.getD i 0 ≠ act.getD i 0) with
        | none => finishOk s fn c.id (fields 24 [])
        | some i =>
          finishOk s fn c.id (fields 24 [(0, le 1 1), (1, le 1 i), (8, le 8 (h.image.fingerprints.getD i 0)), (16, le 8 (act.getD i 0))])

/-- IMAGE_DROP (R389). -/
def execImageDrop (fn : Fn) (s : State) : Out :=
  withPart s fn 2 3 fun p c s =>
    let x := s.pt p
    let hd := c.u16 0
    if (tfind x.handles hd).isNone then finishSt s fn c.id 0x0005
    else if x.bound = some hd then finishSt s fn c.id 0x0202
    else finishOk (s.setPt p { x with handles := tdel x.handles hd }) fn c.id []

/-- PART_LOAD (R391–R393). (DEDUCED: log entry 36.) -/
def execPartLoad (fn : Fn) (s : State) : Out :=
  withPart s fn 3 5 fun p c s =>
    let hd := c.u16 0
    let ctx := c.u8 2
    match loadRefusal s p hd ctx with
    | some r => finish s fn c.id r
    | none =>
      let x := s.pt p
      let h := tfind x.handles hd
      let slot := ((h.bind (fun h => h.image.ctxs[ctx]?)).map (fun c => c.slot)).getD 0
      let l : Load := { handle := hd, ctx := ctx, slot := slot, fn := fn, id := c.id, shifted := 0, reshifted := 0 }
      let y := { x with
        bound := some hd, loads := x.loads ++ [l]
        handles := match h with | some v => tset x.handles hd { v with recheck := false } | none => x.handles
        slots := if (tget Slot.init x.slots slot).state = .shifting then x.slots else tset x.slots slot { Slot.init with state := .queued } }
      let t := (accept s fn c.id).setPt p y
      if x.state = .assigned then partState t p .loaded 0 else t

/-- PART_LOAD_CANCEL (R398). -/
def execPartLoadCancel (fn : Fn) (s : State) : Out :=
  withPart s fn 3 6 fun p c s =>
    let x := s.pt p
    let slot := c.u8 0
    let old := (tget Slot.init x.slots slot).state
    if 3 < slot then finishSt s fn c.id 0x0005
    else if x.state = .saved then finishSt s fn c.id 0x0008
    else if x.activeSlot = some slot then finishSt s fn c.id 0x0303
    else
      let gone := x.loads.filter (fun l => l.slot = slot)
      let y := { x with
        loads := x.loads.filter (fun l => l.slot ≠ slot)
        shifting := x.shifting && (x.loads.head?.any (fun l => l.slot ≠ slot)) }
      let t := gone.foldl (fun t l => workDone t l.fn l.id (l.result 0x0307)) (s.setPt p y)
      let u := if old = .empty then t else emptySlot t p slot
      finishOk u fn c.id (le 1 old.code ++ le 1 gone.length)

/-- PART_START (R366, R379, R399, R400). -/
def execPartStart (fn : Fn) (s : State) : Out :=
  withPart s fn 3 7 fun p c s =>
    let x := s.pt p
    let st (v : Nat) : State := finishSt s fn c.id v
    if !mayRun s then st 0x0301
    else if x.state ≠ .loaded || x.run.active.isSome || !x.powered || x.saveJob.isSome || x.abortJob.isSome then st 0x0008
    else
      match x.bound.bind (tfind x.handles) with
      | none => st 0x0008
      | some h =>
        let slot := ((h.image.ctxs[h.image.initial]?).map (fun c => c.slot)).getD 0
        let sl := tget Slot.init x.slots slot
        if sl.state = .empty || (sl.state = .committed && sl.ctx ≠ h.image.initial) then st 0x0008
        else if stagedPoison s p h [h.image.sproutAt] then finish s fn c.id ⟨0x0201, 2, []⟩
        else
          let t := startRun s p h slot c.req.jobId
          finishOk t fn c.id (le 1 slot ++ le 1 (b2n ((t.pt p).state = .stalled)))

/-- PART_ABORT (R401–R403): it starts when no snapshot copy of the partition is in progress; one that waits for mover-schedule issues
ends when they have. (DEDUCED: log entry 36.) -/
def execPartAbort (fn : Fn) (s : State) : Out :=
  match (List.range 16).find? (fun p => (s.pt p).abortJob.any (fun j => j.fn = fn.val)) with
  | some p => nextN s (settleAbort s p)
  | none =>
    withPart s fn 3 8 fun p c s =>
      let x := s.pt p
      if x.state = .loaded then
        finishOk s fn c.id (fields 16 [(0, le 4 x.run.foldCount.toNat), (4, le 1 255), (8, le 8 x.audit.schedFc.toNat)])
      else if x.state ≠ .running && x.state ≠ .stalled then finishSt s fn c.id 0x0008
      else if copying s p then s
      else settleAbort (stopRun (begun s fn c.id) p fn c.id) p

/-- SLOT_SHIFT_START (R393, R394). -/
def execSlotShiftStart (p : Fin 16) (s : State) : Out :=
  let x := s.pt p
  let may := [PartState.loaded, .running, .stalled].contains x.state && x.powered && !x.shifting
  match x.loads with
  | [] => .next s
  | l :: _ =>
    if may then .next (setSlot (s.setPt p { x with shifting := true }) p l.slot { Slot.init with state := .shifting }) else .next s

/-- SLOT_SHIFT_COMPLETE (R395, R396): `first` and `second` are the rectangle-relative pods whose CRC does not match at the first and at
the second attempt. (DEDUCED: log entry 36.) -/
def execSlotShiftComplete (p : Fin 16) (first second : List Nat) (s : State) : Out :=
  if (s.pt p).shifting && [PartState.loaded, .running, .stalled].contains (s.pt p).state then nextN s (shiftDone s p first second) else .next s

/-- MOVER_SCHEDULE_ISSUE (R381, R685): entry `k` of the active context's schedule, due on the coming fc. -/
def execMoverScheduleIssue (p : Fin 16) (k : Nat) (s : State) : Out :=
  if podOn s (s.pt p).northWest = some p.val then nextN s (entryStep s p k) else .next s

end Sys2Proof.Machine
end

