-- ==== Sys2Proof/Machine/Jtag.lean ====
section
/-! DEFINITION. The JTAG chain: TDI, the die, the companion, TDO (R908, R909). -/

namespace Sys2Proof.Machine

/-- The device's test logic works: the companion from 3V3AUX, the die once it is powered. (DEDUCED: log entry 65.) -/
def jtagLive (s : State) (dev : Nat) : Bool := if dev = 0 then s.rst.powered else s.comp.aux

/-- IDCODE of a device (R908). -/
def idcodeOf (dev : Nat) : W32 := if dev = 0 then 0x16400B4F#32 else 0x20200B4F#32

/-- `tdi` shifted through a register: what comes out first is what the register held, low bit first; what stays is what went in last. (DEDUCED: log entry 65.) -/
def shiftThrough (reg tdi : List Bool) : List Bool × List Bool :=
  let all := reg ++ tdi
  (all.take tdi.length, all.drop tdi.length)

/-- An instruction loaded into a device and one shift of its data register: `pins` is what the boundary cells capture. EXTEST, CLAMP and
HIGHZ act on the die's pins only while PERST# is low, and are BYPASS otherwise (R909). (DEDUCED: log entry 65.) -/
def jtagRun (i : JtagInstr) (dev : Fin 2) (pins tdi : List Bool) (s : State) : Out :=
  if !jtagLive s dev then .next s
  else
    let d := tget JtagDev.init s.jtag.dev dev
    let j := if (i = .extest || i = .clamp || i = .highz) && dev.val = 0 && !s.rst.perst then JtagInstr.bypass else i
    let put (d : JtagDev) (out : List Bool) : Out :=
      .next { s with jtag := { dev := tset s.jtag.dev dev d, tdo := out } }
    match j with
    | .bypass =>
      let r := shiftThrough [false] tdi
      put { d with instr := i, bypassBit := r.2.getLastD false, drive := .functional } r.1
    | .samplePreload =>
      let r := shiftThrough pins tdi
      put { d with instr := i, boundary := r.2, drive := .functional } r.1
    | .extest =>
      let r := shiftThrough pins tdi
      put { d with instr := i, boundary := r.2, drive := .boundary } r.1
    | .idcode =>
      let r := shiftThrough ((List.range 32).map (fun k => (idcodeOf dev).getLsbD k)) tdi
      put { d with instr := i, drive := .functional } r.1
    | .clamp =>
      let r := shiftThrough [false] tdi
      put { d with instr := i, bypassBit := r.2.getLastD false, drive := .boundary } r.1
    | .highz =>
      let r := shiftThrough [false] tdi
      put { d with instr := i, bypassBit := r.2.getLastD false, drive := .highz } r.1

/-- BYPASS (R908). -/
def execJtagBypass (dev : Fin 2) (pins tdi : List Bool) (s : State) : Out := jtagRun .bypass dev pins tdi s
/-- SAMPLE/PRELOAD (R908). -/
def execJtagSamplePreload (dev : Fin 2) (pins tdi : List Bool) (s : State) : Out := jtagRun .samplePreload dev pins tdi s
/-- EXTEST (R909). (DEDUCED: log entry 65.) -/
def execJtagExtest (dev : Fin 2) (pins tdi : List Bool) (s : State) : Out := jtagRun .extest dev pins tdi s
/-- IDCODE (R908). -/
def execJtagIdcode (dev : Fin 2) (pins tdi : List Bool) (s : State) : Out := jtagRun .idcode dev pins tdi s
/-- CLAMP (R909). (DEDUCED: log entry 65.) -/
def execJtagClamp (dev : Fin 2) (pins tdi : List Bool) (s : State) : Out := jtagRun .clamp dev pins tdi s
/-- HIGHZ (R909). (DEDUCED: log entry 65.) -/
def execJtagHighz (dev : Fin 2) (pins tdi : List Bool) (s : State) : Out := jtagRun .highz dev pins tdi s

/-- TRST_N_ASSERT (R120): the test access ports and TDO are reset. -/
def execTrstNAssert (s : State) : Out :=
  .next { s with jtag := { dev := s.jtag.dev.map (fun d => (d.1, { d.2 with instr := .idcode, bypassBit := false, drive := .functional }))
                           tdo := [] } }

end Sys2Proof.Machine
end

