-- ==== Sys2Proof/Machine/LinkPorts.lean ====
section
/-! DEFINITION. Ports of the link: lanes, replay, loss and training, neighbours, and global time (R549–R560, R576–R584, R594–R597). -/

namespace Sys2Proof.Machine

/-- The largest usable lane set within `m` (R577); 0 when none is usable. -/
def usableSet (m : Byte) : Byte :=
  match [0xFF#8, 0x0F, 0xF0, 0x03, 0x0C, 0x30, 0xC0].find? (fun v => m &&& v = v) with
  | some v => v
  | none => 0

/-- LINK.TRAIN ends when none of its ports trains any more (R597). -/
def settleTrain (s : State) : State :=
  match s.link.trainJob with
  | none => s
  | some (fn, id, ports) =>
    if (bitsSet ports 16).any (fun p => (s.port p).state = .training) then s
    else workDone { s with link := { s.link with trainJob := none } } fn id ⟨0, 0, le 2 (maskOf ((List.range 16).filter (portUp s)))⟩

/-- A port changes its state; its entry into UP, DOWN or DISABLED raises PORT_STATE_CHANGE (R598): 0 command, 1 loss, 2 replay failure,
3 miswired. -/
def portTo (s : State) (p : Nat) (new : PortState) (cause : Nat) : State :=
  let x := s.port p
  let t := s.setPort p { x with state := new }
  if x.state = new then t
  else
    let u := if new = .training || new = .off then t
      else eventDev t 0x0801 (le 1 p ++ le 1 x.state.code ++ le 1 new.code ++ le 1 cause)
    settleTrain u

/-- Transactions that a port holds whole or in part: in its replay buffer and in its transmit queues. -/
def portHolds (p : Port) : Nat :=
  (p.replay.filter (fun f => f.kind = 1 && (f.vc ≠ 0 || f.eot))).length
    + (p.queue.map (fun q => (q.2.filter (fun f => !f.control && (q.1 / 2 ≠ 0 || f.eot))).length)).foldl (· + ·) p.msgQueue.length

/-- A port without what it held in its buffers and queues (R596). -/
def Port.emptied (p : Port) : Port :=
  { p with
    replay := [], streak := 0, queue := [], msgQueue := [], credits := [], owed := [], txSeq := 0, rxSeq := 0, acked := none, nak := false
    txLanes := 0, rxLanes := 0, announced := none, lastTx := none, lastBad := false, corruptNext := false, rtts := [], echoTime := 0
    echoArrival := 0 }

/-- A port goes DOWN, or DISABLED, with what it held (R594, R596). -/
def portDown (s : State) (p : Nat) (new : PortState) (cause : Nat) : State := portTo (s.setPort p (s.port p).emptied) p new cause

/-- A port reset (R555, R596): counted, and recorded with what it discarded. (DEDUCED: log entry 49.) -/
def portReset (s : State) (p : Nat) (new : PortState) (cause : Nat) : State :=
  let n := portHolds (s.port p)
  let t := portDown (s.setPort p { s.port p with resets := (s.port p).resets + 1 }) p new cause
  fault t { code := 0x0802, cls := 1, unit := p, detail := le 4 n }

/-- CREDIT_INIT: CTYPE 1, then the buffer counts in (VC, class) order (R558). -/
def bufferCounts : List Nat := [256, 256, 32, 32, 16, 16, 16, 16]
def creditInit : OutFlit := { sot := false, eot := false, control := true, payload := bytesAt (le 2 1 ++ bufferCounts.flatMap (le 2)) 0 244 }

/-- A trained port carries traffic: its sequence starts anew and it sends CREDIT_INIT (R558, R594). The peer's buffers are those of R558. (DEDUCED: log entry 49.) -/
def portRise (s : State) (p : Nat) (tx rx : Byte) : State :=
  let x := (s.port p).emptied
  let y := emitFlit { x with txLanes := tx, rxLanes := rx, rxOk := rx, rxReq := rx, peerReq := tx, miswired := false
                             credits := (List.range 8).map (fun v => (v, bufferCounts.getD v 0)) } 2 0 creditInit
  portTo (s.setPort p y) p .up 0

/-- An acknowledgement: the flits that it covers leave the replay buffer, and the row of replays ends (R553, R555). -/
def takeAck (p : Port) (ack : Nat) : Port :=
  match p.replay.findIdx? (fun f => f.seq = ack) with
  | none => p
  | some i => { p with replay := p.replay.drop (i + 1), streak := 0 }

/-- A NAK: every unacknowledged flit is sent again; the NAK after 16 replays in a row, none of which
brought a new flit's acceptance, resets the port (R555). -/
def takeNak (s : State) (p : Nat) : State :=
  let x := s.port p
  if x.replay.isEmpty then s
  else if 16 ≤ x.streak then portReset s p .down 2
  else s.setPort p { x with replays := x.replays + 1, streak := x.streak + 1, lastTx := x.replay.getLast?, lastBad := false }

/-- ACK and NAK of a flit that is accepted, or of a good IDLE flit (R554). -/
def takeAckNak (s : State) (p : Nat) (f : Flit) : State :=
  let t := if f.ackValid then s.setPort p (takeAck (s.port p) f.ackSeq) else s
  if f.nak then takeNak t p else t

/-- Credits that an accepted flit brings, a CREDIT_INIT's counts, and the credit that its own buffer place gives back (R554, R558). -/
def takeCredits (p : Port) (f : Flit) : Port :=
  let v := f.crVcc
  let c := if f.crCount = 0 then p.credits else tset p.credits v (tget 0 p.credits v + f.crCount)
  let c2 := if f.kind = 2 && rd 2 f.payload 0 = 1 then (List.range 8).map (fun k => (k, rd 2 f.payload (2 + 2 * k))) else c
  let w := f.vc * 2 + f.cls
  { p with credits := c2, owed := if f.kind = 1 then tset p.owed w (tget 0 p.owed w + 1) else p.owed }

/-- A flit reaches port `p` (R554, R555). -/
def flitIn (s : State) (p : Nat) (f : Flit) (crcGood : Bool) : State :=
  let x := s.port p
  if crcGood && f.kind = 0 then portPump (takeAckNak s p f) p
  else if crcGood && (f.kind = 1 || f.kind = 2) && f.seq = x.rxSeq then
    let y := takeCredits { x with rxSeq := (x.rxSeq + 1) % 256, acked := some f.seq, nak := false } f
    portPump (takeAckNak (s.setPort p y) p f) p
  else if f.kind = 0 then s
  else s.setPort p { x with nak := true }

/-- The mean of the port's round-trip measurements, and the one-way delay (R550). -/
def Port.rtt (p : Port) : Nat := if p.rtts.isEmpty then 0 else p.rtts.foldl (· + ·) 0 / p.rtts.length

/-- Lanes in a set. -/
def laneCount (m : Byte) : Nat := ((List.range 8).filter (fun i => m.getLsbD i)).length

/-- THROTTLED_RTT: the round trip is longer than 64 flits at the port's width (R548, R556). -/
def Port.throttled (p : Port) : Bool := p.state = .up && 0 < laneCount p.txLanes && 16384 * 8 < p.rtt * 100 * laneCount p.txLanes

/-- LANE_CHANGE (R598). -/
def laneChange (s : State) (p dir : Nat) (old new : Byte) : State :=
  if old = new then s else eventDev s 0x0802 (le 1 p ++ le 1 dir ++ [old, new])

/-- A valid marker block (R549, R550, R576, R577): a round trip measured, the lanes that the peer asks for and those that it uses. -/
def markerIn (s : State) (p : Nat) (m : Marker) : State :=
  let x := s.port p
  let trip : Int := (s.time.toNat : Int) - m.echoTime - m.echoDelay
  let rtts := if m.echoTime ≠ 0 && 0 ≤ trip then (trip.toNat :: x.rtts).take 64 else x.rtts
  let lost := x.rxReq &&& ~~~m.txLanes &&& x.rxLanes
  let keep := usableSet (x.txLanes &&& m.rxReq)
  let next := if keep = x.txLanes then none else some keep
  let y := { x with rtts := rtts, echoTime := BitVec.ofNat 64 m.txTime, echoArrival := s.time, peerReq := m.rxReq, rxLanes := m.txLanes
                    rxOk := x.rxOk &&& ~~~lost, rxReq := x.rxReq &&& ~~~lost, announced := next }
  laneChange (s.setPort p y) p 1 x.rxLanes m.txLanes

/-- The master and hop count that the records heard and the device's own link-ID give (R582): master, hops, port. (DEDUCED: log entry 50.) -/
def bestMaster (s : State) : Option (Nat × Nat × Option Nat) :=
  let better (a b : Nat × Nat × Option Nat) : Nat × Nat × Option Nat :=
    if b.1 < a.1 || (b.1 = a.1 && (b.2.1 < a.2.1 || (b.2.1 = a.2.1 && b.2.2.getD 0 < a.2.2.getD 0))) then b else a
  let heard := s.link.heard.map (fun e => (e.2.master, e.2.hops + 1, some e.1))
  match s.link.linkId, heard with
  | some l, _ => some (heard.foldl (fun a b => if b.1 < l then better a b else a) (l, 0, none))
  | none, [] => none
  | none, x :: r => some (r.foldl better x)

/-- The device adopts the best master that it knows (R582). (DEDUCED: log entry 50.) -/
def adoptMaster (s : State) : State :=
  match bestMaster s with
  | none => { s with link := { s.link with master := none, hops := 0, masterPort := none } }
  | some (m, h, p) => { s with link := { s.link with master := some m, hops := h, masterPort := p } }

/-- Device time follows the reference (R583): it steps forward, or advances at half rate. (DEDUCED: log entry 50.) -/
def followTime (s : State) (ref : Nat) : State :=
  let now := s.time.toNat
  if now + 1000 < ref then { s with time := BitVec.ofNat 64 ref, link := { s.link with half := false, lead := 0 } }
  else if ref + 1000 < now then { s with link := { s.link with half := true, lead := now - ref } }
  else { s with link := { s.link with half := false, lead := 0 } }

/-- The neighbour that a port's attribute expects, when a routing image is loaded (R568, R595). -/
def expectedId (s : State) (p : Nat) : Option Nat :=
  let e := bitsOf (tget 0 s.link.attrs p).toNat 11 4
  if s.link.linkId.isNone || e = 255 then none else some e

/-- A HELLO's neighbour is judged against EXPECT_ID (R595). -/
def judgeNeighbour (s : State) (p : Nat) : State :=
  let x := s.port p
  let bad := x.state = .up && (match expectedId s p, x.neighbour with | some e, some n => e ≠ n | _, _ => false)
  let t := s.setPort p { x with miswired := bad }
  if bad && !x.miswired then eventDev t 0x0801 (le 1 p ++ le 1 2 ++ le 1 2 ++ le 1 3) else portPump t p

/-- A routing image is valid (R568). -/
def routeImageOk (b : List Byte) : Bool :=
  rd 1 b 0 ≤ 127 && rd 15 b 1 = 0 && rd 176 b 0x50 = 0 && (List.range 16).all (fun p => rd 4 b (0x10 + 4 * p) < 2 ^ 12)
    && (List.range 128).all (fun d => rd 4 b (0x100 + 4 * d) < 2 ^ 15)

/-- A change of LINK_ID has to wait (R597). -/
def linkBusy (s : State) : Bool :=
  s.chans.chan.any (fun c => c.2.state ≠ .free && c.2.state ≠ .closed && (c.2.sender.kind = .remote || c.2.receiver.kind = .remote))
    || !s.link.barriers.isEmpty || !s.link.xfers.isEmpty

/-- The routing image takes effect: link-ID, attributes, routes; ports without ENABLE are held off, neighbours judged anew (R568, R594). (DEDUCED: log entry 49.) -/
def loadRoutes (s : State) (b : List Byte) : State :=
  let t := { s with link := { s.link with
    linkId := some (rd 1 b 0), attrs := (List.range 16).map (fun p => (p, BitVec.ofNat 32 (rd 4 b (0x10 + 4 * p))))
    routes := (List.range 128).map (fun d => (d, BitVec.ofNat 32 (rd 4 b (0x100 + 4 * d)))) } }
  let u := (List.range 16).foldl
    (fun t p => if mayTrain t p || (t.port p).state = .off then judgeNeighbour t p
      else if (t.port p).state = .disabled then t else portDown t p .disabled 0) t
  adoptMaster u

end Sys2Proof.Machine
end

