-- ==== Sys2Proof/Machine/Link.lean ====
section
/-! DEFINITION. Flits, lanes, ports, time and routing on the link, and the LINK commands (R549–R597). -/

namespace Sys2Proof.Machine

/-- FLIT_RECEIVE (R554, R555). (DEDUCED: log entry 49.) -/
def execFlitReceive (port : Fin 16) (f : Flit) (crcGood : Bool) (s : State) : Out :=
  if (s.port port).state = .up then nextN s (flitIn s port f crcGood) else .next s

/-- MARKER_BLOCK_RECEIVE (R549, R550, R576, R577); a block whose CRC fails is ignored. -/
def execMarkerBlockReceive (port : Fin 16) (m : Marker) (crcGood : Bool) (s : State) : Out :=
  if (s.port port).state = .up && crcGood then nextN s (markerIn s port m) else .next s

/-- LANE_EPOCH_MARKER (R579): lanes that the peer lists again rejoin. -/
def execLaneEpochMarker (port : Fin 16) (s : State) : Out :=
  let x := s.port port
  if x.state ≠ .up then .next s
  else
    let new := usableSet (x.peerReq &&& ~~~x.disabledLanes)
    let y := { x with epoch := x.epoch + 1, txLanes := if laneCount x.txLanes < laneCount new then new else x.txLanes }
    nextN s (laneChange (s.setPort port y) port 0 x.txLanes y.txLanes)

/-- LANE_FAILURE (R576): the receiver drops the lane from RX_LANES_OK and RX_REQ_LANES. -/
def execLaneFailure (port : Fin 16) (lane : Fin 8) (s : State) : Out :=
  let x := s.port port
  if x.state ≠ .up || !x.rxReq.getLsbD lane then .next s
  else
    let bit : Byte := 1#8 <<< lane.val
    let t := s.setPort port { x with rxOk := x.rxOk &&& ~~~bit, rxReq := x.rxReq &&& ~~~bit, attempts := tset x.attempts lane 0 }
    nextN s (fault t { code := 0x0801, cls := 0, unit := port, detail := le 1 lane ++ le 1 1 })

/-- LANE_SET_APPLY (R577, R578): the announced set is in use from this superframe on; without a usable set the port goes DOWN. -/
def execLaneSetApply (port : Fin 16) (s : State) : Out :=
  let x := s.port port
  match x.announced with
  | none => .next s
  | some v =>
    if x.state ≠ .up then .next s
    else if v = 0 then nextN s (portDown (laneChange s port 0 x.txLanes 0) port .down 1)
    else
      let y := { x with txLanes := v, announced := none, degrades := if laneCount v < laneCount x.txLanes then x.degrades + 1 else x.degrades }
      nextN s (laneChange (s.setPort port y) port 0 x.txLanes v)

/-- LANE_RETRAIN_COMPLETE (R579): `ok` when the lane works again; the eighth failure puts it out of use. -/
def execLaneRetrainComplete (port : Fin 16) (lane : Fin 8) (ok : Bool) (s : State) : Out :=
  let x := s.port port
  if x.state ≠ .up || x.rxReq.getLsbD lane || x.disabledLanes.getLsbD lane then .next s
  else
    let bit : Byte := 1#8 <<< lane.val
    let n := tget 0 x.attempts lane + 1
    nextN s (s.setPort port
      (if ok then { x with rxOk := x.rxOk ||| bit, rxReq := x.rxReq ||| bit, attempts := tset x.attempts lane 0 }
       else { x with attempts := tset x.attempts lane n, disabledLanes := if 8 ≤ n then x.disabledLanes ||| bit else x.disabledLanes }))

/-- HELLO_TRANSMIT (R566): link-ID and port, to the neighbour. -/
def execHelloTransmit (port : Fin 16) (s : State) : Out :=
  if portUp s port then nextN s (sendMgmtAt s port 255 255 255 0x0040 (le 1 (s.link.linkId.getD 255) ++ le 1 port)) else .next s

/-- HELLO_RECEIVE (R595). -/
def execHelloReceive (port : Fin 16) (id : Byte) (nport : Fin 16) (s : State) : Out :=
  if portUp s port then nextN s (judgeNeighbour (s.setPort port { s.port port with neighbour := some id.toNat, neighbourPort := nport }) port)
  else .next s

/-- TIME_RECORD_TRANSMIT (R567, R581); without a LINK_ID nothing is sent (R570). -/
def execTimeRecordTransmit (port : Fin 16) (s : State) : Out :=
  match s.link.linkId with
  | none => .next s
  | some l =>
    if !portUp s port then .next s
    else
      let b := routing s 255 3 255 255 48 ++ le 8 s.time.toNat ++ le 1 (s.link.master.getD l) ++ le 1 s.link.hops
      nextN s (enqueueFlits s port 3 [recordFlit (bytesAt b 0 48)])

/-- TIME_RECORD_RECEIVE (R582, R583). -/
def execTimeRecordReceive (port : Fin 16) (r : TimeRec) (s : State) : Out :=
  if !routable s port then .next s
  else
    let t := adoptMaster { s with link := { s.link with heard := tset s.link.heard port r } }
    nextN s (if t.link.masterPort = some port.val then followTime t (r.time.toNat + (t.port port).rtt / 2) else t)

/-- TIME_MASTER_TIMEOUT (R584): the adopted master is silent, and the next best is adopted. (DEDUCED: log entries 49, 50.) -/
def execTimeMasterTimeout (s : State) : Out :=
  match s.link.masterPort with
  | none => .next s
  | some _ =>
    let t := adoptMaster { s with link := { s.link with
      heard := s.link.heard.filter (fun e => some e.2.master ≠ s.link.master), half := false, lead := 0 } }
    nextN s (eventDev t 0x0803 (le 1 (t.link.master.getD 255) ++ le 1 t.link.hops))

/-- Selector of a transaction's port (R569): its XFER_ID on BULK, the sender's channel on MSG. -/
def transitSel (vc : Nat) (b : List Byte) : Nat :=
  if vc = 0 then rd 4 b 8 else if vc = 1 then (if rd 1 b 2 = 2 || rd 1 b 2 = 3 then rd 1 b 8 else rd 1 b 9) else 0

/-- TRANSIT_FORWARD (R571, R573): a transaction that arrived by `port` in class `cls` leaves by the port that its destination selects.
The stopped state carries MGMT, SYNC and Husk buddy traffic only (R854). -/
def execTransitForward (port : Fin 16) (vc : Fin 4) (cls : Fin 2) (b : List Byte) (s : State) : Out :=
  let dst := rd 1 b 0
  if (s.faults.stopped && (vc.val = 1 || (vc.val = 0 && !buddyHead b))) || !routable s port || s.link.linkId.isNone || s.link.linkId = some dst || dst = 255 then .next s
  else if rd 1 b 3 = 0 then nextN s (s.setPort port { s.port port with ttlDrops := (s.port port).ttlDrops + 1 })
  else
    match routePort s dst (transitSel vc b) with
    | none => .next s
    | some q =>
      let a := (tget 0 s.link.attrs q).toNat
      let k := if bitOf a 2 then 1 else if bitsOf a 1 0 ≠ bitsOf (tget 0 s.link.attrs port).toNat 1 0 then 0 else cls.val
      let c := layAt b 3 (le 1 (rd 1 b 3 - 1))
      let fl := if vc.val = 0 then bulkFlits c else [recordFlit c]
      let x := s.port q
      let v := vc.val * 2 + k
      nextN s (portPump (s.setPort q { x with queue := tset x.queue v (tget [] x.queue v ++ fl) }) q)

/-- PORT_TRAINING_COMPLETE (R594): the lanes that trained in each direction; without a usable set training has failed. -/
def execPortTrainingComplete (port : Fin 16) (tx rx : Byte) (s : State) : Out :=
  if (s.port port).state ≠ .training then .next s
  else
    let x := s.port port
    let a := usableSet (tx &&& ~~~x.disabledLanes)
    let b := usableSet (rx &&& ~~~x.disabledLanes)
    nextN s (if a = 0 || b = 0 then portDown s port .down 1 else portRise s port a b)

/-- PORT_RETRY_TIMER (R594). (DEDUCED: log entry 49.) -/
def execPortRetryTimer (port : Fin 16) (s : State) : Out :=
  if (s.port port).state = .down && mayTrain s port then nextN s (portTo s port .training 1) else .next s

/-- PORT_LOSS (R594, R596): `reset` when the port is reset, else both directions are lost. -/
def execPortLoss (port : Fin 16) (reset : Bool) (s : State) : Out :=
  if !portUp s port then .next s else nextN s (if reset then portReset s port .down 2 else portDown s port .down 1)

/-- LINK.QUERY's response for a port. -/
def portQuery (p : Port) : List Byte :=
  fields 48
    [(0, le 1 p.state.code), (1, [p.txLanes]), (2, [p.rxLanes]), (3, [p.disabledLanes]), (4, le 1 (p.neighbour.getD 0)), (5, le 1 p.neighbourPort)
    , (6, le 1 (b2n p.miswired + 2 * b2n p.throttled)), (8, le 4 p.rtt), (12, le 4 p.replays.toNat), (16, le 8 p.corrected.toNat)
    , (24, le 8 p.uncorrectable.toNat), (32, le 4 p.resets.toNat), (36, le 4 p.ttlDrops.toNat), (40, le 4 p.degrades.toNat)]

/-- LINK_QUERY (R594). -/
def execLinkQuery (fn : Fn) (s : State) : Out :=
  withCmd s fn 8 1 fun c s =>
    let p := c.u8 0
    if p < 16 then finishOk s fn c.id (portQuery (s.port p))
    else if p ≠ 255 then finishSt s fn c.id 0x0005
    else finishOk s fn c.id (fields 16
      [(0, le 1 (s.link.linkId.getD 255)), (1, le 1 (s.link.master.getD 255)), (2, le 1 s.link.hops)
      , (4, le 2 (maskOf ((List.range 16).filter (portUp s)))), (8, le 8 s.time.toNat)])

/-- LINK_TRAIN (R597). An UP port trains anew with FULL_EQ only. (DEDUCED: log entry 49.) -/
def execLinkTrain (fn : Fn) (s : State) : Out :=
  withCmd s fn 8 2 fun c s =>
    let ports := c.u16 0
    let f := c.u8 2
    if 3 < f then finishSt s fn c.id 0x0005
    else if !s.link.started then finishSt s fn c.id 0x0008
    else if s.link.trainJob.isSome then finishSt s fn c.id 0x0009
    else
      let s1 := accept s fn c.id
      let s2 := (bitsSet ports 16).foldl
        (fun t p =>
          let x := t.port p
          let t := if bitOf f 1 then t.setPort p { x with disabledLanes := 0, attempts := [] } else t
          if !mayTrain t p || (x.state = .up && !bitOf f 0) then t
          else portTo (t.setPort p (t.port p).emptied) p .training 0) s1
      settleTrain { s2 with link := { s2.link with trainJob := some (fn.val, c.id, ports) } }

/-- LINK_RESET (R596). -/
def execLinkReset (fn : Fn) (s : State) : Out :=
  withCmd s fn 8 3 fun c s =>
    let p := c.u8 0
    if 15 < p || 1 < c.u8 1 then finishSt s fn c.id 0x0005
    else
      let x := s.port p
      let new : PortState := if c.u8 1 = 1 then .disabled else if x.state = .off || x.state = .disabled then x.state else .down
      finishOk (portReset s p new 0) fn c.id (le 4 (portHolds x))

/-- The requests of LINK.ROUTE_SET that one mode serves; an undefined mode is refused by mode 0's row. -/
def withRoute (s : State) (fn : Fn) (mode : Nat) (k : Consumed → State → State) : Out :=
  match startable s fn 8 4 with
  | none => .next s
  | some c => if c.u8 0 ≠ mode && !(mode = 0 && 1 < c.u8 0) then .next s else nextN s (k c s)

/-- ROUTE_SET_ROUTING_IMAGE (R568, R597): `buf` is what the host buffer holds. -/
def execRouteSetRoutingImage (fn : Fn) (buf : Option (List Byte)) (s : State) : Out :=
  withRoute s fn 0 fun c s =>
    if c.u8 0 ≠ 0 || rd 6 c.req.payload 2 ≠ 0 then finishSt s fn c.id 0x0005
    else match hostBuf s fn buf with
      | none => finishSt s fn c.id 0x000C
      | some b0 =>
        let b := bytesAt b0 0 768
        if !routeImageOk b then finishSt s fn c.id 0x0005
        else if s.link.linkId ≠ some (rd 1 b 0) && linkBusy s then finishSt s fn c.id 0x0009
        else finishSt (loadRoutes s b) fn c.id 0

/-- ROUTE_SET_PEER_TABLE (R574): `buf` is what the host buffer holds. (DEDUCED: log entry 49.) -/
def execRouteSetPeerTable (fn : Fn) (buf : Option (List Byte)) (s : State) : Out :=
  withRoute s fn 1 fun c s =>
    let p := c.u8 1
    if 15 < p || rd 6 c.req.payload 2 ≠ 0 then finishSt s fn c.id 0x0005
    else if (s.pt p).state = .free then finishSt s fn c.id 0x0007
    else match hostBuf s fn buf with
      | none => finishSt s fn c.id 0x000C
      | some b =>
        let t : Tab W16 := ((List.range 128).map (fun d => (d, BitVec.ofNat 16 (rd 2 b (2 * d))))).filter (fun e => e.2 ≠ 0)
        finishSt { s with link := { s.link with peers := tset s.link.peers p t } } fn c.id 0

/-- LINK_COLLECTIVE (R587, R588). -/
def execLinkCollective (fn : Fn) (s : State) : Out := withPart s fn 8 5 fun p c s => linkCollective s fn p c

/-- COLLECTIVE_STEP_COMPLETE (R588, R589). -/
def execCollectiveStepComplete (p : Fin 16) (key : W32) (s : State) : Out :=
  match collOf s p key with
  | some c => if c.stepDone then nextN s (collNext s c) else .next s
  | none => .next s

/-- COLLECTIVE_TIMEOUT_EXPIRY (R593). (DEDUCED: log entry 52.) -/
def execCollectiveTimeoutExpiry (p : Fin 16) (key : W32) (s : State) : Out :=
  match collOf s p key with
  | some c => nextN s (collFail s c 0x0802)
  | none => .next s

end Sys2Proof.Machine
end

