-- ==== Sys2Proof/Machine/MailboxCmds.lean ====
section
/-! DEFINITION. The mailbox commands: enable and stop, doorbells, consumption, events, responses, and the SYS commands (R191–R239). -/

namespace Sys2Proof.Machine

/-- The host interface answers at once: it is out of reset and the device is in RUN or IDLE (R114, R766). (DESIGN CHOICE: log entry 26.) -/
def hostLive (s : State) : Bool := s.rst.socOut && (s.pow.state = .run || s.pow.state = .idle)

/-- BOOT_FALLBACK on PF0's ring once it is registered (R156). -/
def tellFallback (s : State) (fn : Nat) : State :=
  if fn = 0 && s.boot.fallback && (s.mb 0).enabled then
    eventDev { s with boot := { s.boot with fallback := false } } 0x0101 (le 1 s.boot.primaryResult)
  else s

/-- Serves an enable, and posts what has waited for the ring (R194, R210). -/
def enableNow (s : State) (fn : Nat) : State :=
  let t := tellFallback (serveEnable s fn) fn
  flushEvents (t.mb fn).pend.length t fn

/-- A write of HZ_MB_CTRL.ENABLE = 1 (R194, R233): served at once, or left waiting for the stop in progress or for Hazel. -/
def writeEnable (s : State) (fn : Nat) : State :=
  let m := s.mb fn
  let t := s.setMb fn { m with enable := true }
  if m.enabled && !m.stopping then t
  else if m.ringError then t
  else if m.stopping || !s.serving then t.setMb fn { t.mb fn with enablePending := true }
  else enableNow t fn

/-- A write of HZ_MB_CTRL.ENABLE = 0: a mailbox reset (R191, R233, R234). -/
def writeDisable (s : State) (fn : Nat) : State :=
  let m := s.mb fn
  updMb s fn { orphanAll m with enable := false, ringError := false, stopping := m.enabled, enablePending := false }

/-- MAILBOX_ENABLE (R194): ENABLE is written 1; an enable that waited for Hazel is served. -/
def execMailboxEnable (fn : Fn) (s : State) : Out := if hostLive s then .next (writeEnable s fn) else .next s

/-- MAILBOX_DISABLE (R233). -/
def execMailboxDisable (fn : Fn) (s : State) : Out := if hostLive s then .next (writeDisable s fn) else .next s

/-- MAILBOX_STOPPED (R233): ENABLED clears, and an enable that waits is served. -/
def execMailboxStopped (fn : Fn) (s : State) : Out :=
  let m := s.mb fn
  if !(m.stopping && s.serving) then .next s
  else
    let t := updMb s fn { m with enabled := false, stopping := false }
    .next (if m.enablePending then enableNow t fn else t)

/-- A mailbox stops on an index out of its range (R197). -/
def indexFail (s : State) (fn : Nat) (m : Mailbox) : State := updMb s fn { m with indexError := true, ringError := true }

/-- A write of HZ_REQ_PI: the doorbell (R196, R197). -/
def doorbell (s : State) (fn : Nat) (pi : W16) : State :=
  let m := s.mb fn
  let n := { m with reqPi := pi }
  if m.enabled && !m.ringError && !m.stopping && 64 < (pi - m.reqCi).toNat then indexFail s fn n else s.setMb fn n

/-- A write of HZ_RSP_CI (R197, R199). -/
def writeRspCi (s : State) (fn : Nat) (ci : W16) : State :=
  let m := s.mb fn
  let n := { m with rspCi := ci }
  if m.enabled && !m.ringError && !m.stopping && (m.rspPi - m.rspCi) < (ci - m.rspCi) then indexFail s fn n else s.setMb fn n

/-- A write of HZ_EVT_CI (R197). -/
def writeEvtCi (s : State) (fn : Nat) (ci : W16) : State :=
  let m := s.mb fn
  let n := { m with evtCi := ci }
  if m.enabled && !m.ringError && !m.stopping && (m.evtPi - m.evtCi) < (ci - m.evtCi) then indexFail s fn n else s.setMb fn n

/-- REQUEST_DOORBELL (R196, R197). -/
def execRequestDoorbell (fn : Fn) (pi : W16) (s : State) : Out := if hostLive s then .next (doorbell s fn pi) else .next s

/-- RESPONSE_CI_WRITE (R197, R199). -/
def execResponseCiWrite (fn : Fn) (ci : W16) (s : State) : Out := if hostLive s then .next (writeRspCi s fn ci) else .next s

/-- EVENT_CI_WRITE (R197, R210). -/
def execEventCiWrite (fn : Fn) (ci : W16) (s : State) : Out := if hostLive s then .next (writeEvtCi s fn ci) else .next s

/-- Timing class of a request: unknown commands are answered once, like class I (R199, R211). -/
def timingOf (r : Req) : Nat := ((cmdRow r.cls r.verb).map (fun x => x.timing)).getD 0

/-- Hazel takes the next request of a ring, whose entry reads `r` (R198, R199, R214, R219). -/
def consume (s : State) (fn : Nat) (r : Req) : State :=
  let m := s.mb fn
  let t := timingOf r
  let n := if t = 2 then 2 else 1
  let c : Consumed :=
    { id := s.host.nextId + 1, req := r, gen := m.gen, timing := t, slots := n, started := false, refusal := genericCheck s fn r
      result := none, orphan := false }
  let h := s.host
  let s1 : State := { s with host := { h with
    nextId := h.nextId + 1, turn := fn, turnCount := if h.turn = fn then h.turnCount + 1 else 1 } }
  let s2 := s1.setMb fn { m with reqCi := m.reqCi + 1, consumed := m.consumed ++ [c] }
  drainRefusals (s2.mb fn).consumed.length s2 fn

/-- REQUEST_CONSUME (R198, R199, R212–R219). (DESIGN CHOICE: log entry 22.) -/
def execRequestConsume (fn : Fn) (r : Req) (s : State) : Out :=
  if s.serving && consumable s fn (if timingOf r = 2 then 2 else 1) && turnAllows s fn then .next (consume s fn r) else .next s

/-- PENDING_EVENT_POST (R210, R498). -/
def execPendingEventPost (fn : Fn) (s : State) : Out :=
  if s.serving then .next (relayAll (flushEvents (s.mb fn).pend.length s fn) fn) else .next s

/-- RING_ACCESS_FAIL (R195): a ring read has failed, or Bus Master Enable is clear, while the ring is in use. -/
def execRingAccessFail (fn : Fn) (s : State) : Out :=
  let m := s.mb fn
  if m.enabled && !m.ringError && !m.stopping then .next (ringFail s fn) else .next s

/-- INTERRUPT_HOLDOFF_EXPIRY (R201): an interrupt for entries still unread, which begins a new holdoff. -/
def execInterruptHoldoffExpiry (fn : Fn) (evt : Bool) (s : State) : Out :=
  let m := s.mb fn
  if evt then
    if !m.evtHold then .next s
    else
      let t := s.setMb fn { m with evtHold := false }
      .next (if m.evtPi ≠ m.evtCi then postIrq t fn true else t)
  else if !m.rspHold then .next s
  else
    let t := s.setMb fn { m with rspHold := false }
    .next (if m.rspPi ≠ m.rspCi then postIrq t fn false else t)

/-- PROGRESS_REPORT (R211, R215): of a started class L command whose work has not ended. -/
def execProgressReport (fn : Fn) (id : Nat) (unitsDone unitsTotal : W32) (s : State) : Out :=
  match cmdOf s fn id with
  | none => .next s
  | some c =>
    let m := s.mb fn
    if c.timing = 2 && c.started && c.result.isNone && !c.orphan && s.serving && ringUsable s fn && evtRoom m then
      .next (raiseAt s fn
        { partition := reqPart fn c.req, code := 0x0002, tag := c.req.tag, time := s.time
          payload := fields 40 [(0, le 1 c.req.cls), (1, le 1 c.req.verb), (4, le 4 unitsDone.toNat), (8, le 4 unitsTotal.toNat)] })
    else .next s

/-- LONG_COMMAND_COMPLETE (R211, R229, R234). (DESIGN CHOICE: log entry 22.) -/
def execLongCommandComplete (fn : Fn) (id : Nat) (s : State) : Out :=
  match cmdOf s fn id with
  | none => .next s
  | some c =>
    match c.result with
    | none => .next s
    | some r => if s.serving then .next (finish s fn id r) else .next s

/-- SYS_INFO (R222). -/
def execSysInfo (fn : Fn) (s : State) : Out :=
  withCmd s fn 1 1 fun c s =>
    finishOk s fn c.id (fields 40
      [(0, le 4 s.boot.fwVersion.toNat), (4, le 1 0xB1), (5, le 1 0xA2), (6, le 2 fn.val), (8, le 1 (ownPart fn)), (9, le 1 s.pow.state.code),
       (0x0C, le 4 (s.mb fn).gen.toNat), (0x10, (List.range 12).map Config.serial), (0x20, le 8 s.time.toNat)])

/-- SYS_RESET (R223). -/
def execSysReset (fn : Fn) (s : State) : Out :=
  withCmd s fn 1 2 fun c s =>
    if c.u32 0 ≠ 0 then finishSt s fn c.id 0x0005
    else
      let t := finishOk s fn c.id []
      { t with rst := { t.rst with warmReq := if t.rst.warmReq = 0 then 1 else t.rst.warmReq } }

/-- SYS_EVENT_MASK (R222, R224). -/
def execSysEventMask (fn : Fn) (s : State) : Out :=
  withCmd s fn 1 4 fun c s =>
    let m := s.mb fn
    finishOk (s.setMb fn { m with mask := BitVec.ofNat 16 (c.u16 0) &&& 0x7FFE }) fn c.id (le 2 m.mask.toNat)

/-- SYS_ECHO (R222). -/
def execSysEcho (fn : Fn) (s : State) : Out :=
  withCmd s fn 1 5 fun c s => finishOk s fn c.id (bytesAt c.req.payload 0 48)

end Sys2Proof.Machine
end

