-- ==== Sys2Proof/Machine/Pmbus.lean ====
section
/-! DEFINITION. The companion's PMBus target port: every command of its tables (R77–R81). Bit positions of the standard status registers
are PMBus 1.4's (PRESUMED); a LINEAR11 word is read exactly and returned as it was written. -/

namespace Sys2Proof.Machine

/-- Feeds that the page addresses. -/
def pages (s : State) : List Nat := if s.comp.pmb.page = 0 then [0] else if s.comp.pmb.page = 1 then [1] else [0, 1]

def setPmb (s : State) (p : Pmbus) : State := { s with comp := { s.comp with pmb := p } }

/-- The target port's answer to a read. -/
def pmAnswer (s : State) (b : List Byte) : State := setPmb s { s.comp.pmb with response := b }

/-- Sets bits of STATUS_CML: 7 invalid command, 6 invalid data, 5 PEC. -/
def pmCml (s : State) (b : Byte) : State := setPmb s { s.comp.pmb with statusCml := s.comp.pmb.statusCml ||| b }

/-- SMBus block: a length byte, then the bytes. -/
def pmBlock (b : List Byte) : List Byte := le 1 b.length ++ b

/-- Characters of a string as bytes. -/
def ascii (t : String) : List Byte := t.toList.map (fun c => BitVec.ofNat 8 c.toNat)

/-- Value in thousandths of a LINEAR11 word: an 11-bit mantissa and a 5-bit exponent, both signed. (PRESUMED: log entry 15.) -/
def linear11Milli (w : Nat) : Int :=
  let y := sext 11 w
  let n := sext 5 (w / 2048)
  if 0 ≤ n then y * 1000 * (2 ^ n.toNat : Nat) else y * 1000 / (2 ^ (-n).toNat : Nat)

/-- The write protection in force lets command `code` be written (PMBus 1.4). (PRESUMED: log entry 15.) -/
def pmWritable (s : State) (code : Nat) : Bool :=
  let w := s.comp.pmb.writeProtect
  code = 0x10 || w = 0 || (w = 0x40 && (code = 0 || code = 1))

/-- A write of a command that can be written: PEC and protection are checked, then `k` acts. -/
def pmWrite (s : State) (code value : Nat) (pecGood : Bool) (k : Nat → State → State) : State :=
  if !pecGood then pmCml s 0x20 else if !pmWritable s code then pmCml s 0x40 else k value s

/-- A transaction of a command: the companion runs; a read answers `r`, a write acts by `w`. (DEDUCED: log entry 16.) -/
def pmRun (a : PmAccess) (code : Nat) (s : State) (r : List Byte) (w : Nat → State → State) : Out :=
  if !s.comp.running then .next s
  else
    match a with
    | .read => .next (pmAnswer s r)
    | .write v pec => .next (pmWrite s code v pec w)

/-- A write of a command that is read-only, or a read of one that is write-only: an invalid command. (PRESUMED: log entry 15.) -/
def pmInvalid (_ : Nat) (s : State) : State := pmCml s 0x80

/-- A read-only command. (PRESUMED: log entry 15.) -/
def pmReadOnly (a : PmAccess) (code : Nat) (s : State) (r : List Byte) : Out := pmRun a code s r pmInvalid

/-- A value that a read with PAGE 0xFF combines from both pages. (PRESUMED: log entry 15.) -/
def pagedWord (s : State) (code : Nat) (v : Nat → Nat) : List Byte :=
  match pages s with
  | [f] => le 2 (v f)
  | _ => le 2 (Config.pageBoth code (v 0) (v 1))

/-- The LINEAR11 word of a setting of feed `f` in thousandths: as last written, or the companion's own form of it. -/
def settingWord (s : State) (code f milli : Nat) : Nat :=
  match tfind s.comp.pmb.written (code * 4 + f) with
  | some w => w
  | none => Config.linear11 milli

/-- During a companion firmware update the write of a limit or a budget is discarded (R86). -/
def orDiscard (s : State) (k : State → State) : State :=
  if s.comp.updating then setPmb s { s.comp.pmb with statusMfr := s.comp.pmb.statusMfr ||| 0x10 } else k s

/-- Writes a LINEAR11 limit of the paged feeds, rounded down to `grid`, when it lies within `lo`–`hi` (R77). -/
def writeLimit (code lo hi grid : Nat) (put : Feed → Nat → Feed) (w : Nat) (s : State) : State :=
  orDiscard s (fun s =>
    let m := linear11Milli w
    if m < (lo : Int) ∨ (hi : Int) < m then pmCml s 0x40
    else
      let v := m.toNat / grid * grid
      (pages s).foldl (fun t f =>
        let t1 := t.setFeed f (put (t.feed f) v)
        setPmb t1 { t1.comp.pmb with written := tset t1.comp.pmb.written (code * 4 + f) w }) s)

/-- A global setting with range `lo`–`hi` (R77). (PRESUMED: log entry 15.) -/
def writeSetting (lo hi : Nat) (k : Nat → State → State) (v : Nat) (s : State) : State :=
  if v < lo ∨ hi < v then pmCml s 0x40 else k v s

/-- PAGE (R77). -/
def execPmPage (a : PmAccess) (s : State) : Out :=
  pmRun a 0x00 s [s.comp.pmb.page] (fun v s =>
    if v = 0 ∨ v = 1 ∨ v = 255 then setPmb s { s.comp.pmb with page := BitVec.ofNat 8 v } else pmCml s 0x40)

/-- Feed `f` may be switched off: the other is in ON and its limit carries the present total current (R78). -/
def mayTurnOff (s : State) (f : Nat) : Bool :=
  let o := s.feed (otherFeed f)
  o.state = .on && ((s.feed 0).iin + (s.feed 1).iin) * 10 ≤ (o.ocLimit : Int)

/-- OPERATION OFF of feed `f` (R35, R78). (DEDUCED: log entry 12.) -/
def operationOff (s : State) (f : Nat) : State :=
  let x := s.feed f
  if !mayTurnOff s f then pmCml s 0x40
  else
    let st := if x.state = .on || x.state = .qualify || x.state = .ramp then FeedState.off else x.state
    let s1 := s.setFeed f { x with operation := false, state := st, node := 0, oring := false }
    if x.state = .on then cpRaise s1 4 else s1

/-- OPERATION ON of feed `f`: after an OPERATION OFF it takes a feed out of LATCHED (R35). -/
def operationOn (s : State) (f : Nat) : State :=
  let x := s.feed f
  if !x.operation && x.state = .latched then s.setFeed f { x with operation := true, state := .qualify, cause := .none }
  else s.setFeed f { x with operation := true }

/-- OPERATION (R78): with PAGE 0xFF, OFF would leave no feed in ON and is refused. -/
def execPmOperation (a : PmAccess) (s : State) : Out :=
  let b (f : Nat) : Nat := if (s.feed f).operation then 0x80 else 0
  pmRun a 0x01 s
    (match pages s with
      | [f] => le 1 (b f)
      | _ => le 1 (Config.pageBoth 1 (b 0) (b 1)))
    (fun v s =>
      if v = 0x80 then (pages s).foldl operationOn s
      else if v = 0 then
        match pages s with
        | [f] => operationOff s f
        | _ => pmCml s 0x40
      else pmCml s 0x40)

def execPmOnOffConfig (a : PmAccess) (s : State) : Out := pmReadOnly a 0x02 s [0x18]

/-- CLEAR_FAULTS (R35): status cleared, a LATCHED feed goes to QUALIFY; the regulator's fault is cleared with CLEAR_FAULTS (R83). (DEDUCED: log entry 16.) -/
def execPmClearFaults (a : PmAccess) (s : State) : Out :=
  if !s.comp.running then .next s
  else
    match a with
    | .read => .next (pmCml s 0x80)
    | .write v pec =>
      .next (pmWrite s 0x03 v pec (fun _ s =>
        let s1 := (pages s).foldl (fun t f =>
          let x := t.feed f
          let y := { x with statusInput := 0 }
          t.setFeed f (if x.state = .latched then { y with state := .qualify, cause := .none } else y)) s
        let p := s1.comp.pmb
        { s1 with comp := { s1.comp with
            pmb := { p with statusTemp := 0, statusCml := 0, statusMfr := p.statusMfr &&& 0x08 }
            vreg := { s1.comp.vreg with fault := false } } }))

/-- WRITE_PROTECT (R14): 0x00, 0x40, 0x80. (PRESUMED: log entry 15.) -/
def execPmWriteProtect (a : PmAccess) (s : State) : Out :=
  pmRun a 0x10 s [s.comp.pmb.writeProtect] (fun v s =>
    if v = 0 ∨ v = 0x40 ∨ v = 0x80 then setPmb s { s.comp.pmb with writeProtect := BitVec.ofNat 8 v } else pmCml s 0x40)

def execPmCapability (a : PmAccess) (s : State) : Out := pmReadOnly a 0x19 s [0xD0]

/-- VIN_OV_FAULT_LIMIT: 55.0–60.0 V (R36). -/
def execPmVinOvFaultLimit (a : PmAccess) (s : State) : Out :=
  pmRun a 0x55 s (pagedWord s 0x55 (fun f => settingWord s 0x55 f (s.feed f).ovLimit))
    (writeLimit 0x55 55000 60000 1 (fun x v => { x with ovLimit := v }))

/-- VIN_UV_FAULT_LIMIT: 39.0–45.0 V (R36). -/
def execPmVinUvFaultLimit (a : PmAccess) (s : State) : Out :=
  pmRun a 0x59 s (pagedWord s 0x59 (fun f => settingWord s 0x59 f (s.feed f).uvLimit))
    (writeLimit 0x59 39000 45000 1 (fun x v => { x with uvLimit := v }))

/-- IIN_OC_FAULT_LIMIT: 10.0–45.0 A in steps of 0.5 A (R43). -/
def execPmIinOcFaultLimit (a : PmAccess) (s : State) : Out :=
  pmRun a 0x5B s (pagedWord s 0x5B (fun f => settingWord s 0x5B f (s.feed f).ocLimit))
    (writeLimit 0x5B 10000 45000 500 (fun x v => { x with ocLimit := v }))

/-- IIN_OC_WARN_LIMIT: 5.0–45.0 A (R45). -/
def execPmIinOcWarnLimit (a : PmAccess) (s : State) : Out :=
  pmRun a 0x5D s (pagedWord s 0x5D (fun f => settingWord s 0x5D f (s.feed f).ocWarn))
    (writeLimit 0x5D 5000 45000 1 (fun x v => { x with ocWarn := v }))

/-- STATUS_WORD of feed `f`: 13 input, 12 manufacturer, 11 no power-good, 6 off, 3 VIN under-voltage, 2 temperature, 1 communication. (PRESUMED: log entry 15.) -/
def statusWordOf (s : State) (f : Nat) : Nat :=
  let x := s.feed f
  let p := s.comp.pmb
  let off := x.state ≠ .on
  8192 * b2n (x.statusInput ≠ 0) + 4096 * b2n (p.statusMfr ≠ 0) + 2048 * b2n off + 64 * b2n off
    + 8 * b2n (x.statusInput.getLsbD 4) + 4 * b2n (p.statusTemp ≠ 0) + 2 * b2n (p.statusCml ≠ 0)

/-- SMBALERT# is asserted (R81): a fault bit of STATUS_WORD is set for a feed, OFF and POWER_GOOD# being no faults. (PRESUMED: log entry 15.) -/
def smbAlert (s : State) : Bool :=
  [0, 1].any (fun f => statusWordOf s f &&& (0xFFFF - 2048 - 64) ≠ 0)

def execPmStatusByte (a : PmAccess) (s : State) : Out :=
  pmReadOnly a 0x78 s
    (match pages s with
      | [f] => le 1 (statusWordOf s f)
      | _ => le 1 (statusWordOf s 0 ||| statusWordOf s 1))

def execPmStatusWord (a : PmAccess) (s : State) : Out :=
  pmReadOnly a 0x79 s
    (match pages s with
      | [f] => le 2 (statusWordOf s f)
      | _ => le 2 (statusWordOf s 0 ||| statusWordOf s 1))

/-- STATUS_INPUT (R45), cleared by ones. (PRESUMED: log entry 15.) -/
def execPmStatusInput (a : PmAccess) (s : State) : Out :=
  pmRun a 0x7C s [(pages s).foldl (fun v f => v ||| (s.feed f).statusInput) 0] (fun v s =>
    (pages s).foldl (fun t f =>
      t.setFeed f { t.feed f with statusInput := (t.feed f).statusInput &&& ~~~(BitVec.ofNat 8 v) }) s)

def execPmStatusTemperature (a : PmAccess) (s : State) : Out :=
  pmRun a 0x7D s [s.comp.pmb.statusTemp] (fun v s =>
    setPmb s { s.comp.pmb with statusTemp := s.comp.pmb.statusTemp &&& ~~~(BitVec.ofNat 8 v) })

/-- STATUS_CML (R77), cleared by ones. (PRESUMED: log entry 15.) -/
def execPmStatusCml (a : PmAccess) (s : State) : Out :=
  pmRun a 0x7E s [s.comp.pmb.statusCml] (fun v s =>
    setPmb s { s.comp.pmb with statusCml := s.comp.pmb.statusCml &&& ~~~(BitVec.ofNat 8 v) })

/-- STATUS_MFR_SPECIFIC; UPDATE_IN_PROGRESS stays while an update runs (R86). -/
def execPmStatusMfrSpecific (a : PmAccess) (s : State) : Out :=
  pmRun a 0x80 s [s.comp.pmb.statusMfr] (fun v s =>
    let w := s.comp.pmb.statusMfr &&& ~~~(BitVec.ofNat 8 v)
    setPmb s { s.comp.pmb with statusMfr := if s.comp.updating then w ||| 0x08 else w })

/-- READ_EIN (R70), in the PMBus energy format, which the manual does not lay out. -/
def execPmReadEin (a : PmAccess) (s : State) : Out :=
  pmReadOnly a 0x86 s (pmBlock (Config.einFormat ((pages s).foldl (fun v f => v + (s.feed f).ein.toNat) 0)))

/-- READ_VIN: 10 mV steps in thousandths (R70). -/
def execPmReadVin (a : PmAccess) (s : State) : Out :=
  pmReadOnly a 0x88 s (pagedWord s 0x88 (fun f => Config.linear11 ((s.feed f).vin * 10 : Nat)))

def execPmReadIin (a : PmAccess) (s : State) : Out :=
  pmReadOnly a 0x89 s (pagedWord s 0x89 (fun f => Config.linear11 ((s.feed f).iin * 10)))

def execPmReadTemperature1 (a : PmAccess) (s : State) : Out :=
  pmReadOnly a 0x8D s (le 2 (Config.linear11 (s.comp.tempBoard * 125)))

def execPmReadTemperature2 (a : PmAccess) (s : State) : Out :=
  pmReadOnly a 0x8E s (le 2 (Config.linear11 (s.comp.tempInlet * 125)))

/-- READ_PIN: of a feed the product of its VIN and current; PAGE 0xFF gives the total (R70). -/
def execPmReadPin (a : PmAccess) (s : State) : Out :=
  pmReadOnly a 0x97 s
    (match pages s with
      | [f] => le 2 (Config.linear11 ((s.feed f).vin * (s.feed f).iin / 10))
      | _ => le 2 (Config.linear11 (s.comp.pin * 10 : Nat)))

def execPmPmbusRevision (a : PmAccess) (s : State) : Out := pmReadOnly a 0x98 s [0x44]
def execPmMfrId (a : PmAccess) (s : State) : Out := pmReadOnly a 0x99 s (pmBlock (ascii "VRELGEN"))
def execPmMfrModel (a : PmAccess) (s : State) : Out := pmReadOnly a 0x9A s (pmBlock (ascii "WN-200"))
def execPmMfrRevision (a : PmAccess) (s : State) : Out := pmReadOnly a 0x9B s (pmBlock (ascii "A2"))

/-- The module's serial number (R15). -/
def moduleSerial : List Byte := (List.range 12).map Config.serial

def execPmMfrSerial (a : PmAccess) (s : State) : Out := pmReadOnly a 0x9E s (pmBlock moduleSerial)

/-- MFR_RACK_BUDGET (R79, R86). (DEDUCED: log entry 16.) -/
def execPmMfrRackBudget (a : PmAccess) (s : State) : Out :=
  pmRun a 0xD0 s (le 2 s.comp.rackBudget.toNat) (fun v s =>
    orDiscard s (fun s =>
      cpRaise { s with comp := { s.comp with rackBudget := BitVec.ofNat 16 v, rackSeq := s.comp.rackSeq + 1 } } 0x200))

/-- MFR_FLOOR_SHARE (R77, R80, R86). (DEDUCED: log entry 16.) -/
def execPmMfrFloorShare (a : PmAccess) (s : State) : Out :=
  pmRun a 0xD1 s (le 2 s.comp.floorShare) (fun v s =>
    orDiscard s (writeSetting 400 1600 (fun v s => { s with comp := { s.comp with floorShare := v } }) v))

def execPmMfrModuleCap (a : PmAccess) (s : State) : Out := pmReadOnly a 0xD2 s (le 2 (capInForce s))
def execPmMfrDemand (a : PmAccess) (s : State) : Out := pmReadOnly a 0xD3 s (le 2 s.pow.demandW)

def execPmMfrSteward (a : PmAccess) (s : State) : Out :=
  pmReadOnly a 0xD4 s (le 1 (b2n (isStewardNow s) + 2 * b2n s.pow.floorMode))

/-- MFR_ORING_MODE (R51). -/
def execPmMfrOringMode (a : PmAccess) (s : State) : Out :=
  pmRun a 0xD5 s (le 1 (b2n s.comp.oringStored))
    (writeSetting 0 1 (fun v s => { s with comp := { s.comp with oringStored := v = 1 } }))

/-- MFR_INRUSH_SLEW (R39). -/
def execPmMfrInrushSlew (a : PmAccess) (s : State) : Out :=
  pmRun a 0xD6 s (le 1 s.comp.inrushSlew)
    (writeSetting 1 20 (fun v s => { s with comp := { s.comp with inrushSlew := v } }))

/-- MFR_BREAKER_TIME (R43). -/
def execPmMfrBreakerTime (a : PmAccess) (s : State) : Out :=
  pmRun a 0xD7 s (le 1 s.comp.breakerTime)
    (writeSetting 1 100 (fun v s => { s with comp := { s.comp with breakerTime := v } }))

/-- MFR_RETRY_POLICY (R46). -/
def execPmMfrRetryPolicy (a : PmAccess) (s : State) : Out :=
  pmRun a 0xD8 s (le 1 s.comp.retryPolicy)
    (writeSetting 0 7 (fun v s => { s with comp := { s.comp with retryPolicy := v } }))

/-- MFR_RESET_COUNT (R63). -/
def execPmMfrResetCount (a : PmAccess) (s : State) : Out := pmReadOnly a 0xD9 s (pmBlock (le 4 s.comp.aon.count.toNat))

/-- MFR_LAST_RESET_CAUSE (R65). -/
def execPmMfrLastResetCause (a : PmAccess) (s : State) : Out := pmReadOnly a 0xDA s (pmBlock (le 4 (causeWord s).toNat))

/-- MFR_FASTCAP_LIMIT (R72, R86). (DEDUCED: log entry 16.) -/
def execPmMfrFastcapLimit (a : PmAccess) (s : State) : Out :=
  pmRun a 0xDB s (le 2 s.comp.fastcapLimit) (fun v s =>
    orDiscard s (writeSetting 400 2000 (fun v s => { s with comp := { s.comp with fastcapLimit := v } }) v))

end Sys2Proof.Machine
end

