-- ==== Sys2Proof/Machine/Resets.lean ====
section
/-! DEFINITION. The resets: assertion, merging and release, function-level resets, configuration requests, zeroing (R106–R138). -/

namespace Sys2Proof.Machine

/-- Rank of a die-level reset; the highest is the greatest (R117). -/
def ResetKind.rank : ResetKind → Nat
  | .powerOn => 6 | .efuse => 5 | .cold => 4 | .thermal => 3 | .warm => 2 | .watchdog => 2 | .hot => 1

/-- The host interface after a hot reset or a wake from DEEP: configuration spaces, registers and mailboxes (R108, R191, R769). (DEDUCED: log entry 10.) -/
def clearHost (s : State) : State :=
  { s with
    host := { s.host with mb := s.host.mb.map (fun m => (m.1, resetMb .hot m.2)), fn := s.host.fn.map (fun r => (r.1, resetFn .hot r.2)) }
    hub := { s.hub with vfEnable := false, numVfs := 0, ari := false } }

/-- A passthrough port whose link the host's hot reset or a Secondary Bus Reset takes down: it trains anew (R106, R108). -/
def retrainDp (p : DPort) : DPort :=
  { p with linkUp := false, speed := 0, width := 0, flit := false, l12 := false, dpc := false, mse := false, bme := false }

/-- What a hot reset clears (R108, R111, R188, R496, R853, R854): Hazel, the fabric, HBM and partitions run on. (DEDUCED: log entry 10.) -/
def hotClears (s : State) : State :=
  let t := clearHost s
  let u := { t with
    faults := { t.faults with stopped := false, fatalReset := false, firsts := [] }
    boot := { t.boot with unlocked := false }
    hub := { t.hub with dp := t.hub.dp.map (fun p => (p.1, if p.2.passthrough then retrainDp p.2 else p.2)) } }
  loseWhere u (fun e => e.kind = .host) 2

/-- The kinds that took part, with `k` among them. (DEDUCED: log entry 11.) -/
def addKind (l : List ResetKind) (k : ResetKind) : List ResetKind := if l.contains k then l else l ++ [k]

/-- A die-level reset other than a hot one is asserted, or merges into the one in progress (R108, R112–R117). (DEDUCED: log entry 11.) -/
def startReset (s : State) (k : ResetKind) (srFail : List Nat) : State :=
  let r := s.rst
  let lost := !srFail.isEmpty
  let top := if r.active && k.rank ≤ r.kind.rank then r.kind else k
  let flaw : Flaw := { code := 0x0102, cls := 3, detail := le 1 (maskOf srFail) }
  let t := if r.active && k.rank ≤ r.kind.rank && !lost then s else dieReset k lost s
  let kept := !k.full && !lost && (!r.active || r.hbmKept)
  let gone := !kept || !stateRecordGood s
  let d := Resets.init
  let u := { t with
    rst := { r with
      active := true, kind := top, sources := if r.active then addKind r.sources k else [k], rstoutLow := true
      sampled := r.active && r.sampled, padHold := true, socOut := false, hubOut := !k.full && r.hubOut, hbmOut := false, linkOut := false
      fabOut := [], zeroing := [], zeroWaits := [], hbmKept := kept, stateRestored := !gone, hotPending := false, fillDue := false
      warmReq := 0, epReady := false, wdogRunning := false
      wdogTimeout := if k.full then d.wdogTimeout else r.wdogTimeout, wdogHalt := !k.full && r.wdogHalt
      wdogExpired := !k.full && r.wdogExpired } }
  let v := if lost then { u with faults := { u.faults with latched := u.faults.latched ++ [flaw.record u] } } else u
  noteStatusAll s v

/-- POWER_ON_RESET (R62, R899): MODPWR_OK is high; the first reset of a companion's start is counted by that start, a later one here,
as an e-fuse trip where a trip left no feed ON. -/
def execPowerOnReset (s : State) : Out :=
  if s.comp.modpwr && !s.rst.powered then
    let k : ResetKind := if s.comp.efuse then .efuse else .powerOn
    let t := startReset { s with rst := { s.rst with powered := true, active := false } } k []
    let c := if s.comp.porCounted && k = .powerOn then writeCause t 0 else countReset t k.code
    .next { c with
      rst := { c.rst with sampled := true }
      comp := { c.comp with efuse := false, porCounted := false }
      boot := { c.boot with dieDone := true } }
  else .next s

/-- COLD_RESET (R106, R765, R890): PERST# stays low when it was low for 100 ns; a pulse of 20 to 100 ns resets or does nothing. (DEDUCED: log entry 11.) -/
def execColdReset (lowNs : Nat) (taken : Bool) (s : State) : Out :=
  let t := if 100 ≤ lowNs then { s with rst := { s.rst with perst := true } } else s
  if s.rst.powered && s.pow.state ≠ .deep && (100 ≤ lowNs || (20 ≤ lowNs && taken)) then
    let u := startReset t .cold []
    .next { u with boot := { u.boot with dieDone := true } }
  else .next t

/-- PERST_DEASSERT (R115, R765, R769): after a wake that drives WAKE# low, the endpoint then is ready. In DEEP it is the wake of PERST_WAKE. -/
def execPerstDeassert (s : State) : Out :=
  if s.pow.state = .deep then .next s
  else .next { s with
    rst := { s.rst with perst := false, epReady := s.rst.epReady || s.pow.wakeLow }, pow := { s.pow with wakeLow := false } }

/-- HOT_RESET (R108, R111, R117, R134, R137): merged into a reset whose ACLK part is not released, else a reset of its own. (DEDUCED: log entry 10.) -/
def execHotReset (s : State) : Out :=
  if !s.rst.powered || s.pow.state = .deep || s.pow.state = .off then .next s
  else if s.rst.active then
    let t := hotClears s
    .next { t with rst := { t.rst with sources := addKind t.rst.sources .hot } }
  else
    let t := hotClears s
    let u := { t with rst := { t.rst with kind := .hot, rstoutLow := true, sampled := false } }
    nextN s (noteStatusAll s (if s.rst.epReady then hotSources u else { u with rst := { u.rst with hotPending := true } }))

/-- WARM_RESET (R113, R223, R851, R879): a warm reset that has been asked for; `srFail` names the stacks that do not enter self-refresh. -/
def execWarmReset (srFail : List (Fin 6)) (s : State) : Out :=
  if s.rst.warmReq = 0 || !s.rst.powered then .next s
  else
    let t := if s.rst.warmReq = 3 then { s with faults := { s.faults with resetTimes := s.faults.resetTimes ++ [s.time.toNat] } } else s
    .next (startReset t .warm (srFail.map (fun x => x.val)))

/-- WATCHDOG_EXPIRY (R133, R134, R154). -/
def execWatchdogExpiry (srFail : List (Fin 6)) (s : State) : Out :=
  if !s.rst.wdogRunning then .next s
  else if s.rst.wdogHalt then
    let t := { s with boot := { s.boot with hazel := .halted }, rst := { s.rst with wdogRunning := false, wdogExpired := true } }
    .next (noteStatusAll s (t.setFn 0 { t.fn 0 with aerInternal := true }))
  else
    .next (startReset { s with boot := { s.boot with wdogStreak := sat 15 (s.boot.wdogStreak + 1) } } .watchdog (srFail.map (fun x => x.val)))

/-- The die rails other than VDD_AUX have power again (R769). -/
def railsBack (c : Companion) : Companion :=
  { c with railsGood := 6, railsOn := true, vreg := { c.vreg with setpoint := 650, settled := true, lastSettled := 650 } }

/-- THERMAL_TRIP (R129, R131, R764): peak in 0.125 °C; in DEEP the reset finds the rails restored. -/
def execThermalTrip (sensor : Fin 4) (peak : Int) (srFail : List (Fin 6)) (s : State) : Out :=
  if !s.rst.powered || peak < 920 then .next s
  else
    let t := startReset (if s.pow.state = .deep then { s with comp := railsBack s.comp } else s) .thermal (srFail.map (fun x => x.val))
    .next { t with rst := { t.rst with thermalHold := true, sensor := sensor.val, peak := peak } }

/-- THERMAL_HOLD_END (R131). -/
def execThermalHoldEnd (s : State) : Out := .next { s with rst := { s.rst with thermalHold := false } }

/-- RESET_RELEASE_PHASE1 (R115, R121, R151): the straps GOLD_WE and DPW are sampled after a power-on or cold reset; `flash` says whether
the flash answers SFDP discovery. -/
def execResetReleasePhase1 (goldWe dpw flash : Bool) (s : State) : Out :=
  let r := s.rst
  let straps := r.sources.any (fun k => k.full)
  if !(r.active && r.powered) || (straps && r.perst) || r.thermalHold then .next s
  else
    let b := s.boot
    .next (readSettings { s with
      rst := { r with active := false, socOut := true, hubOut := true }
      boot := { b with hazel := .rom 0, flashFitted := flash, goldWe := if straps then goldWe else b.goldWe, dpw := if straps then dpw else b.dpw
                       primaryResult := 15, goldenResult := 15 } })

/-- Commands that wait for zeroing and have nothing left to wait for: their fences open, and they complete (R104, R109). -/
def endZeroWaits (s : State) : State :=
  let done := s.rst.zeroWaits.filter (fun w => !(w.regions.any s.rst.zeroing.contains))
  done.foldl (fun t w => finishOk (w.parts.foldl fenceOpen t) w.fn w.id w.payload)
    { s with rst := { s.rst with zeroWaits := s.rst.zeroWaits.filter (fun w => w.regions.any s.rst.zeroing.contains) } }

/-- CELL_ZEROING_DONE (R109, R422, R455). -/
def execCellZeroingDone (rg : Fin 16) (s : State) : Out :=
  if s.rst.zeroing.contains rg && s.clk.run then
    let t := clearRegion { s with rst := { s.rst with zeroing := sdel s.rst.zeroing rg } } rg
    let u := match s.regionPart rg with | some p => finishReset t p | none => t
    nextN s (endZeroWaits u)
  else .next s

/-- A function's registers after its own FLR (R108, R880). (DEDUCED: log entry 10.) -/
def flrFn (r : FnRegs) : FnRegs := { FnRegs.init with terminated := r.terminated, msix := { Msix.init with sent := r.msix.sent } }

/-- A mailbox after an FLR of PF0: registration is gone, consumed commands end as LATE_COMPLETIONs (R234). -/
def flrMb (m : Mailbox) : Mailbox :=
  { Mailbox.init with gen := m.gen, pend := m.pend, evtLost := m.evtLost, consumed := (orphanAll m).consumed, upReason := 3 }

/-- An FLR of VF `vf` (counted from 0): its partition is reset, its mailbox and its commands end without a word (R235, R456, R496). (DEDUCED: log entries 10, 24.) -/
def flrVf (s : State) (vf : Nat) : State :=
  let m := s.mb (vf + 1)
  let s1 := s.setMb (vf + 1) { Mailbox.init with gen := m.gen, evtLost := m.evtLost, upReason := 3 }
  let s2 := loseWhere (s1.setFn (vf + 1) (flrFn (s1.fn (vf + 1)))) (fun e => e.kind = .host && e.owner = vf + 1) 2
  let s3 := resetFrom s2 vf 3 2
  s3.setMb (vf + 1) { s3.mb (vf + 1) with pend := [] }

/-- VF Enable goes from 1 to 0: every VF and every partition that is not FREE is reset (R107, R456). -/
def vfsGone (s : State) : State := (List.range 16).foldl flrVf { s with hub := { s.hub with vfEnable := false } }

/-- FLR_PF0 (R107, R188, R234, R496). (DEDUCED: log entry 10.) -/
def execFlrPf0 (s : State) : Out :=
  if !hostLive s then .next s
  else
    let s1 := s.setMb 0 (flrMb (s.mb 0))
    let s2 := loseWhere (s1.setFn 0 (flrFn (s1.fn 0))) (fun e => e.kind = .host && e.owner = 0) 2
    let s2 := endGrants (clearSession s2 0 3 0x000E) (fun g => g.requester = 0)
    let s3 := forFns s2 (List.range 17) (fun t fn => t.setFn fn { t.fn fn with intStatus := 0, intEnable := 0 })
    let s4 := if s.hub.vfEnable then vfsGone s3 else s3
    let s5 := { s4 with boot := { s4.boot with unlocked := false }, hub := { s4.hub with numVfs := 0, ari := false } }
    nextN s s5

/-- FLR_VF (R235, R236, R456): a VF exists while VF Enable is set. -/
def execFlrVf (vf : Fin 16) (s : State) : Out :=
  if hostLive s && s.hub.vfEnable && vf.val < s.hub.numVfs then nextN s (flrVf s vf) else .next s

/-- SECONDARY_BUS_RESET (R106): of a passthrough port's virtual bridge. -/
def execSecondaryBusReset (dp : Fin 8) (s : State) : Out :=
  let p := tget DPort.init s.hub.dp dp
  if s.rst.hubOut && dpExists s dp && p.passthrough then
    nextN s { s with hub := { s.hub with dp := tset s.hub.dp dp { retrainDp p with mse := p.mse, bme := p.bme } } }
  else .next s

/-- A target of configuration requests exists: 0–16 PF0 and VF1–VF16, 17 the upstream port, 18 the internal bridge, 19 + n the virtual
downstream port of DPn (R600, R602). -/
def cfgExists (s : State) (k : Nat) : Bool :=
  if k = 0 || k = 17 || k = 18 then true
  else if k < 17 then s.hub.vfEnable && k ≤ s.hub.numVfs
  else dpExists s (k - 19) && (tget DPort.init s.hub.dp (k - 19)).passthrough

/-- Vendor and Device ID, and class code with Revision ID, of a target (R15, R600). -/
def cfgIds (k : Nat) : Nat :=
  if k = 0 then 0x64B01FE7 else if k < 17 then 0xFFFFFFFF else if k = 17 then 0x64A01FE7 else if k = 18 then 0x64A11FE7 else 0x64A21FE7
def cfgClass (k : Nat) : Nat := if k < 17 then 0x120000B1 else 0x060400B1

/-- Pending vectors that nothing masks any more send their messages (R881). -/
def Msix.release (m : Msix) : Msix :=
  if !m.enabled || m.functionMask then m
  else
    let due := (List.range 16).filter (fun v => m.pendingBits.getLsbD v && !m.masked.getLsbD v)
    due.foldl (fun m v => { m with pendingBits := m.pendingBits &&& ~~~(1#16 <<< v), sent := tset m.sent v (tget 0 m.sent v + 1) }) m

/-- The effect of a configuration request that completes normally. (PRESUMED: log entry 28.) -/
def cfgEffect (s : State) (k : Nat) (q : CfgReq) : State :=
  let data (n : Nat) : State := { s with host := { s.host with readData := BitVec.ofNat 64 n } }
  match q with
  | .readIds => data (cfgIds k)
  | .readClass => data (cfgClass k)
  | .readOther => s
  | .command mse bme =>
    if k < 17 then
      let t := s.setFn k { s.fn k with mse := mse, bme := bme }
      let m := s.mb k
      if !bme && (s.fn k).bme && m.enabled && !m.ringError && !m.stopping then ringFail t k else t
    else if 19 ≤ k then
      let p := tget DPort.init s.hub.dp (k - 19)
      { s with hub := { s.hub with dp := tset s.hub.dp (k - 19) { p with mse := mse, bme := bme } } }
    else s
  | .msix e f => if k < 17 then s.setFn k { s.fn k with msix := ({ (s.fn k).msix with enabled := e, functionMask := f }).release } else s
  | .aerClear =>
    if k < 17 then
      s.setFn k { s.fn k with aerInternal := false, aerCorrected := false, aerPoisoned := false, aerTimeout := false }
    else s
  | .sriov e n ari =>
    if k ≠ 0 then s
    else
      let t := { s with hub := { s.hub with numVfs := if s.hub.vfEnable then s.hub.numVfs else n.val, ari := ari } }
      if s.hub.vfEnable && !e then vfsGone t else { t with hub := { t.hub with vfEnable := e } }

/-- CONFIG_REQUEST (R123, R600–R602, R766): Unsupported Request for an absent function, Configuration Request Retry Status until the
endpoint is ready. (PRESUMED: log entry 28.) -/
def execConfigRequest (target : Fin 27) (q : CfgReq) (s : State) : Out :=
  let k := target.val
  let done (c : CfgOutcome) (t : State) : State := { t with rst := { t.rst with cfg := c } }
  if !s.rst.hubOut || s.pow.state = .deep || s.pow.state = .off then .next (done .none s)
  else if !cfgExists s k then .next (done .ur s)
  else if k < 17 && !s.rst.epReady then .next (done .crs s)
  else nextN s (done .normal (cfgEffect s k q))

end Sys2Proof.Machine
end

