-- ==== Sys2Proof/Machine/Regs.lean ====
section
/-! DEFINITION. The register map: reads and writes of BAR0 and BAR2 (R4–R8, R105, R191, R484, R865–R881). -/

namespace Sys2Proof.Machine

/-- Where in a function's BAR0 an offset lies. -/
inductive Place where
  /-- Mailbox registers and function block. -/
  | block (o : Nat)
  /-- Partition page of a partition. -/
  | page (p o : Nat)
  /-- Channel port page. -/
  | port (n o : Nat)
  /-- CH_FN_SUMMARY 0, CH_NACK_POP 4. -/
  | chan (o : Nat)
  /-- Device block. -/
  | device (o : Nat)
  | nowhere
deriving DecidableEq, Repr

/-- The BAR0 layout (R875, and the table of BAR0). (DEDUCED: log entry 27.) -/
def placeOf (fn off : Nat) : Place :=
  if off < 0x200 then .block off
  else if fn ≠ 0 && off < 0x300 then .page (fn - 1) (off - 0x200)
  else if 0x8000 ≤ off && off < 0x9000 then .port ((off - 0x8000) / 256) (off % 256)
  else if off = 0x9000 || off = 0x9004 then .chan (off - 0x9000)
  else if fn = 0 && 0x10000 ≤ off && off < 0x11000 then .page ((off - 0x10000) / 256) (off % 256)
  else if fn = 0 && 0x20000 ≤ off && off < 0x20600 then .device (off - 0x20000)
  else .nowhere

/-- HK_EPOCH as function `fn` sees it (R701, R702). (DEDUCED: log entry 27.) -/
def hkEpoch (s : State) (fn : Nat) : W64 :=
  BitVec.ofNat 64 (if fn = 0 then s.husk.epoch else ((s.husk.current.filter (epochSeen fn)).map (fun e => e.number)).getD 0)

/-- HK_DRAIN_LEFT as function `fn` sees it (R701, R702). (DEDUCED: log entry 27.) -/
def hkDrainLeft (s : State) (fn : Nat) : W32 :=
  if (s.husk.current.filter (epochSeen fn)).isNone then 0
  else BitVec.ofNat 32 ((s.husk.snap.map (fun x => x.total - x.drained)).getD (s.husk.lastTotal - s.husk.lastDrained))

/-- The 64-bit counter whose low half lies here (R8, R870, R875, R877). -/
def counterAt (s : State) (fn : Nat) (pl : Place) : Option W64 :=
  match pl with
  | .block o =>
    let x := s.ses fn
    if o = 0x118 then some s.time
    else if 0x128 ≤ o && o < 0x168 && o % 8 = 0 then some (tget 0 s.pow.timers ((o - 0x128) / 8))
    else if o = 0x188 then some (hkEpoch s fn)
    else if o = 0x1C8 then some x.written
    else if o = 0x1D0 then some x.lost
    else none
  | .page p o =>
    let x := s.pt p
    let u := x.audit
    let v : Option W64 :=
      if o = 0 then some u.schedFc else if o = 8 then some u.stallFc else if o = 0x10 then some u.stallAwait
      else if o = 0x18 then some u.stallDecide else if o = 0x20 then some u.stallFoldWait else if o = 0x28 then some u.stallHusk
      else if o = 0x38 then some u.lastFoldFc else if o = 0x88 then some (tget 0 s.pow.parts p) else none
    if x.state = .free then v.map (fun _ => 0) else v
  | .device o =>
    if o = 0x200 then some s.pow.module
    else if o = 0x208 then some s.pow.device
    else if 0x210 ≤ o && o < 0x238 && o % 8 = 0 then some (tget 0 s.pow.engines ((o - 0x210) / 8))
    else if o = 0x300 then some (BitVec.ofNat 64 s.husk.lastCommitted)
    else if o = 0x310 then some s.husk.cowTotal
    else none
  | _ => none

/-- Fields that read as their shadow (R8, R413): high halves, and AU_LAST_FOLD_STALL and AU_LAST_FOLD_INFO. -/
def shadowed (s : State) (fn off : Nat) : Bool :=
  match placeOf fn off with
  | .page p o => (s.pt p).state ≠ .free && (o = 0x34 || o = 0x40 || (4 ≤ off && (counterAt s fn (placeOf fn (off - 4))).isSome))
  | _ => 4 ≤ off && (counterAt s fn (placeOf fn (off - 4))).isSome

/-- Registers of the mailbox and of the function block that reading does not change (R191, R870). (DEDUCED: log entry 27.) -/
def blockReg (s : State) (fn o : Nat) : W32 :=
  let m := s.mb fn
  let r := s.fn fn
  let half (v : W64) : W32 := BitVec.ofNat 32 (v.toNat / 2 ^ (if o % 8 = 4 then 32 else 0))
  if o = 0 then BitVec.ofNat 32 (b2n m.enable)
  else if o = 4 then mbStatus s fn
  else if o = 8 then fnError s fn
  else if o = 0xC then BitVec.ofNat 32 (m.rspHoldoff.toNat + 256 * m.evtHoldoff.toNat)
  else if o = 0x10 || o = 0x14 then half m.reqBase
  else if o = 0x18 || o = 0x1C then half m.rspBase
  else if o = 0x20 || o = 0x24 then half m.evtBase
  else if o = 0x28 then m.reqPi.zeroExtend 32
  else if o = 0x2C then m.reqCi.zeroExtend 32
  else if o = 0x30 then m.rspPi.zeroExtend 32
  else if o = 0x34 then m.rspCi.zeroExtend 32
  else if o = 0x38 then m.evtPi.zeroExtend 32
  else if o = 0x3C then m.evtCi.zeroExtend 32
  else if o = 0x40 then BitVec.ofNat 32 m.evtLost
  else if o = 0x100 then r.intStatus.zeroExtend 32
  else if o = 0x104 then r.intEnable.zeroExtend 32
  else if o = 0x108 then heldOr s fn 0x108 (faultStatusNow s fn)
  else if o = 0x10C then heldOr s fn 0x10C (faultCountNow s fn)
  else if o = 0x110 then BitVec.ofNat 32 (fn + 256 * ownPart fn + 0xB1 * 65536 + 2 ^ 24)
  else if o = 0x120 then pwStatus s
  else if o = 0x180 then hkStatus s fn
  else if o = 0x190 then hkDrainLeft s fn
  else if o = 0x1C0 then trStatus s fn
  else 0

/-- Registers of a partition page beside counters and shadows (R412, R433, R875, R876). (DEDUCED: log entry 27.) -/
def pageReg (s : State) (fn p o : Nat) : W32 :=
  let x := s.pt p
  if x.state = .free then 0
  else if o = 0x30 then x.audit.folds
  else if o = 0x44 then x.audit.mismatch.zeroExtend 32
  else if o = 0x80 then fnPartStatus s p
  else if o = 0x84 then BitVec.ofNat 32 (tget 0 (s.fn fn).terminated p)
  else 0

/-- Half of a 64-bit field that an offset names. -/
def halfOf (v : W64) (off : Nat) : W32 := BitVec.ofNat 32 (v.toNat / 2 ^ (if off % 8 = 4 then 32 else 0))

/-- Registers of a port page that reading does not change (R484); CH_RX_DATA begins at 0x48. -/
def portReg (s : State) (fn n o : Nat) : W32 :=
  let x := s.page fn n
  if o < 0x20 then halfOf (tget 0 x.tx (o / 8)) o
  else if o = 0x24 then portStatus s .host fn n x.discards
  else if o = 0x28 then BitVec.ofNat 32 x.ctrl
  else if 0x48 ≤ o && o < 0x68 then halfOf (tget 0 x.rxWords ((o - 0x48) / 8)) o
  else 0

/-- CH_FN_SUMMARY (R484). -/
def chanSummary (s : State) (fn : Nat) : W32 :=
  let holds (n : Nat) : Bool := match boundTo s .host fn n with | some (k, rx) => rx && !(s.chan k).queue.isEmpty | none => false
  let closed (n : Nat) : Bool := match boundTo s .host fn n with | some (k, _) => (s.chan k).state = .closed | none => false
  BitVec.ofNat 32 (maskOf ((List.range 16).filter holds) + 65536 * maskOf ((List.range 16).filter closed))

/-- Registers of the device block beside counters and shadows (R877). (DEDUCED: log entry 27.) -/
def deviceReg (s : State) (o : Nat) : W32 :=
  if o = 0 then heldOr s 0 0x20000 s.rst.causeReg
  else if o = 4 then heldOr s 0 0x20004 s.rst.countReg
  else if o = 8 then heldOr s 0 0x20008 (bootStatusNow s)
  else if o = 0xC then heldOr s 0 0x2000C s.boot.fwVersion
  else if o = 0x10 then BitVec.ofNat 32 (s.rst.wdogTimeout.toNat + 65536 * b2n s.rst.wdogHalt + 2 ^ 31 * b2n s.rst.wdogExpired)
  else if o = 0x18 then heldOr s 0 0x20018 s.faults.nextSeq
  else if o = 0x100 then fnBlockStatus s
  else if o = 0x308 then BitVec.ofNat 32 (s.husk.reserve.length % 2 ^ 19)
  else if o = 0x30C then s.husk.lastPause
  else if o = 0x318 then hkVolumeStatus s
  else if 0x400 ≤ o && o < 0x440 && o % 4 = 0 then lkPortStatus s ((o - 0x400) / 4)
  else if 0x500 ≤ o && o < 0x520 && o % 4 = 0 then hbPortStatus s ((o - 0x500) / 4)
  else 0

/-- The register lies in a domain that is in reset or without power: the link's (R102, R105). (DEDUCED: log entry 27.) -/
def domainOff (s : State) (pl : Place) : Bool :=
  match pl with
  | .device o => 0x400 ≤ o && o < 0x440 && !s.rst.linkOut
  | _ => false

/-- DOMAIN_OFF of function `fn` is set (R105). -/
def tellOff (s : State) (fn : Nat) : State := updMb s fn { s.mb fn with domainOff := true }

/-- An RC field returns to its value after reset (R4, R868). -/
def clearRc (s : State) (fn : Nat) (pl : Place) : State :=
  match pl with
  | .block 0x40 => s.setMb fn { s.mb fn with evtLost := 0 }
  | .page p 0x84 =>
    if (s.pt p).state = .free then s else s.setFn fn { s.fn fn with terminated := tset (s.fn fn).terminated p 0 }
  | .port n 0x24 => s.setPage fn n { s.page fn n with discards := 0 }
  | _ => s

/-- An RL low half is read: what it returns goes with it, its high half to the function's shadow; AU_LAST_FOLD_FC_LO latches the fold's stall and
info with it (R8, R413, R866). -/
def latch (s : State) (fn off : Nat) (v : W64) : State :=
  let r := s.fn fn
  let sh := tset r.shadows (off + 4) (BitVec.ofNat 32 (v.toNat / 2 ^ 32))
  let sh2 := match placeOf fn off with
    | .page p 0x38 => tset (tset sh (off - 4) (s.pt p).audit.lastFoldStall) (off + 8) (s.pt p).audit.lastFoldInfo
    | _ => sh
  s.setFn fn { r with shadows := sh2 }

/-- A 32-bit read of BAR0 (R4, R8, R105, R484, R865–R877). (DESIGN CHOICE: log entry 26.) -/
def read32 (s : State) (fn off : Nat) : State :=
  let pl := placeOf fn off
  if domainOff s pl then readOut (tellOff s fn) 0
  else
    match counterAt s fn pl with
    | some v =>
      let t := match pl with | .page p _ => if (s.pt p).state = .free then s else latch s fn off v | _ => latch s fn off v
      readOut t (BitVec.ofNat 32 v.toNat)
    | none =>
      if shadowed s fn off then readOut s (tget 0 (s.fn fn).shadows off)
      else
        match pl with
        | .block o => readOut (clearRc s fn pl) (blockReg s fn o)
        | .page p o => readOut (clearRc s fn pl) (pageReg s fn p o)
        | .port n 0x40 => hostPop s fn n
        | .port n o => readOut (clearRc s fn pl) (portReg s fn n o)
        | .chan 4 => hostNackPop s fn
        | .chan _ => readOut s (chanSummary s fn)
        | .device o => readOut s (deviceReg s o)
        | .nowhere => readOut s 0

/-- A 64-bit access may be made here: at the low half of an RL pair, or at a 64-bit field of a port page (R865). -/
def wideAt (s : State) (fn off : Nat) : Bool :=
  (counterAt s fn (placeOf fn off)).isSome
    || (match placeOf fn off with | .port _ o => o < 0x20 || (0x48 ≤ o && o < 0x68) | _ => false)

/-- A 64-bit read: the low half first, then the high half (R866). (DESIGN CHOICE: log entry 26.) -/
def read64 (s : State) (fn off : Nat) : State :=
  let t := read32 s fn off
  let u := read32 t fn (off + 4)
  { u with host := { u.host with readData := t.host.readData ||| (u.host.readData <<< 32) } }

/-- MSI-X table entry dword, or pending bits (R881). -/
def bar2Dword (s : State) (fn off : Nat) : W32 :=
  let m := (s.fn fn).msix
  let pba := if fn = 0 then 0x2000 else 0x800
  if off < 0x100 then
    (if off % 16 = 12 then BitVec.ofNat 32 ((tget 0 m.entries (off / 4)).toNat / 2 * 2 + b2n (m.masked.getLsbD (off / 16)))
     else tget 0 m.entries (off / 4))
  else if off = pba then m.pendingBits.zeroExtend 32
  else 0

/-- Where BAR2 begins in the offsets that reads and writes name: the model's own choice. (DESIGN CHOICE: log entry 26.) -/
def bar2Base : Nat := 0x40000000

/-- A register read of function `fn`, of any size (R865, R866, R881). (DESIGN CHOICE: log entry 26.) -/
def regRead (s : State) (fn off bytes : Nat) : State :=
  let zero : State := readOut s 0
  if bar2Base ≤ off then
    let o := off - bar2Base
    if bytes = 4 && o % 4 = 0 then readOut s (bar2Dword s fn o)
    else if bytes = 8 && o % 8 = 0 then
      let v := (bar2Dword s fn o).toNat + 2 ^ 32 * (bar2Dword s fn (o + 4)).toNat
      { s with host := { s.host with readData := BitVec.ofNat 64 v } }
    else zero
  else if bytes = 4 && off % 4 = 0 then read32 s fn off
  else if bytes = 8 && off % 8 = 0 && wideAt s fn off then read64 s fn off
  else zero

/-- A write of HZ_INT_ENABLE (R873, R874): a vector for each bit newly enabled whose status is set. -/
def writeIntEnable (s : State) (fn : Nat) (v : W32) : State :=
  let r := s.fn fn
  let new := BitVec.ofNat 8 (v.toNat % (if fn = 0 then 256 else 64))
  let due := (List.range 8).filter (fun b => new.getLsbD b && !r.intEnable.getLsbD b && r.intStatus.getLsbD b)
  due.foldl (fun t b => raiseVec t fn (b + 4)) (s.setFn fn { r with intEnable := new })

/-- Replaces half of a 64-bit value. -/
def withHalf (v : W64) (off : Nat) (w : W32) : W64 :=
  if off % 8 = 4 then BitVec.ofNat 64 (v.toNat % 2 ^ 32 + 2 ^ 32 * w.toNat) else BitVec.ofNat 64 (v.toNat / 2 ^ 32 * 2 ^ 32 + w.toNat)

/-- A ring base: bits [11:0] are reserved (R5, R191). -/
def baseBits (v : W64) : W64 := v &&& ~~~0xFFF#64

/-- Writes of the mailbox registers and of the function block (R191, R194–R197, R233, R835, R870, R874). (DEDUCED: log entry 27.) -/
def writeBlock (s : State) (fn o : Nat) (v : W32) : State :=
  let m := s.mb fn
  let r := s.fn fn
  if o = 0 then (if v.getLsbD 0 then writeEnable s fn else writeDisable s fn)
  else if o = 8 then
    s.setMb fn { m with
        badBase := m.badBase && !v.getLsbD 0, indexError := m.indexError && !v.getLsbD 1, dmaError := m.dmaError && !v.getLsbD 2
        domainOff := m.domainOff && !v.getLsbD 3 }
  else if o = 0xC then s.setMb fn { m with rspHoldoff := BitVec.ofNat 8 v.toNat, evtHoldoff := BitVec.ofNat 8 (v.toNat / 256) }
  else if o = 0x10 || o = 0x14 then (if m.enable then s else s.setMb fn { m with reqBase := baseBits (withHalf m.reqBase o v) })
  else if o = 0x18 || o = 0x1C then (if m.enable then s else s.setMb fn { m with rspBase := baseBits (withHalf m.rspBase o v) })
  else if o = 0x20 || o = 0x24 then (if m.enable then s else s.setMb fn { m with evtBase := baseBits (withHalf m.evtBase o v) })
  else if o = 0x28 then doorbell s fn (BitVec.ofNat 16 v.toNat)
  else if o = 0x34 then writeRspCi s fn (BitVec.ofNat 16 v.toNat)
  else if o = 0x3C then writeEvtCi s fn (BitVec.ofNat 16 v.toNat)
  else if o = 0x100 then s.setFn fn { r with intStatus := r.intStatus &&& ~~~(BitVec.ofNat 8 v.toNat) }
  else if o = 0x104 then writeIntEnable s fn v
  else if o = 0x1C0 then
    (if v.getLsbD 3 && (tfind s.trace.sessions fn).isSome then s.setSes fn { s.ses fn with overflowed := false } else s)
  else s

/-- Writes of a port page (R484–R486). -/
def writePort (s : State) (fn n o : Nat) (v : W32) : State :=
  let x := s.page fn n
  if o < 0x20 then s.setPage fn n { x with tx := tset x.tx (o / 8) (withHalf (tget 0 x.tx (o / 8)) o v) }
  else if o = 0x20 then hostSend s fn n v
  else if o = 0x28 then s.setPage fn n { x with ctrl := v.toNat % 8 }
  else s

/-- The key of HZ_RESET_REQ (R878). -/
def resetKey : W32 := 0x54535257

/-- A write of HZ_RESET_REQ (R878, R879): the key asks for a warm reset. -/
def writeResetReq (s : State) (v : W32) : State :=
  if v = resetKey && s.rst.powered then { s with rst := { s.rst with warmReq := 2 } } else s

/-- Writes of the device block (R133, R155, R877, R878). -/
def writeDevice (s : State) (o : Nat) (v : W32) : State :=
  if o = 8 then { s with boot := { s.boot with doneLate := s.boot.doneLate && !v.getLsbD 22 } }
  else if o = 0x10 then
    { s with rst := { s.rst with
        wdogTimeout := BitVec.ofNat 16 v.toNat, wdogHalt := v.getLsbD 16, wdogExpired := s.rst.wdogExpired && !v.getLsbD 31 } }
  else if o = 0x14 then writeResetReq s v
  else s

/-- A 32-bit write of BAR0 (R4, R5, R105, R865, R867, R868). -/
def write32 (s : State) (fn off : Nat) (v : W32) : State :=
  let pl := placeOf fn off
  if domainOff s pl then tellOff s fn
  else
    match pl with
    | .block o => writeBlock s fn o v
    | .port n o => writePort s fn n o v
    | .device o => writeDevice s o v
    | _ => s

/-- A dword of the MSI-X table is written (R881): an entry that is no longer masked sends what is pending. -/
def bar2Write (s : State) (fn off : Nat) (v : W32) : State :=
  if 0x100 ≤ off then s
  else
    let r := s.fn fn
    let k := off / 16
    let m := { r.msix with entries := tset r.msix.entries (off / 4) v }
    let n := if off % 16 ≠ 12 then m
      else { m with masked := if v.getLsbD 0 then m.masked ||| (1#16 <<< k) else m.masked &&& ~~~(1#16 <<< k) }
    s.setFn fn { r with msix := n.release }

/-- A register write of function `fn`, of any size (R865, R881). (DESIGN CHOICE: log entry 26.) -/
def regWrite (s : State) (fn off bytes : Nat) (v : W64) : State :=
  let lo := BitVec.ofNat 32 v.toNat
  let hi := BitVec.ofNat 32 (v.toNat / 2 ^ 32)
  if bar2Base ≤ off then
    let o := off - bar2Base
    if bytes = 4 && o % 4 = 0 then bar2Write s fn o lo
    else if bytes = 8 && o % 8 = 0 then bar2Write (bar2Write s fn o lo) fn (o + 4) hi
    else s
  else if bytes = 4 && off % 4 = 0 then write32 s fn off lo
  else if bytes = 8 && off % 8 = 0 && wideAt s fn off then write32 (write32 s fn off lo) fn (off + 4) hi
  else s

/-- The field at an offset is read-clear (R4, R191, R433, R484). -/
def isRc (fn off : Nat) : Bool :=
  match placeOf fn off with
  | .block 0x40 => true
  | .page _ 0x84 => true
  | .port _ 0x24 => true
  | _ => false

/-- RL_LOW_HALF_READ (R4, R8, R105, R124, R413, R484, R799, R805, R835, R865, R866, R868, R872): a register read, of an RL low half or of any
other field that is not read-clear. (DESIGN CHOICE: log entry 26.) -/
def execRlLowHalfRead (fn : Fn) (off bytes : Nat) (s : State) : Out :=
  if hostLive s && !isRc fn off then .next (regRead s fn off bytes) else .next s

/-- RC_FIELD_READ (R4, R16, R868). (DESIGN CHOICE: log entry 26.) -/
def execRcFieldRead (fn : Fn) (off bytes : Nat) (s : State) : Out :=
  if hostLive s && isRc fn off then .next (regRead s fn off bytes) else .next s

/-- REGISTER_WRITE (R4, R5, R105, R124, R133, R155, R191, R835, R865, R867, R873, R877, R881). (DESIGN CHOICE: log entry 26.) -/
def execRegisterWrite (fn : Fn) (off bytes : Nat) (value : W64) (s : State) : Out :=
  if hostLive s then nextN s (regWrite s fn off bytes value) else .next s

/-- HZ_INT_ENABLE_WRITE (R873, R874). -/
def execHzIntEnableWrite (fn : Fn) (value : W32) (s : State) : Out :=
  if hostLive s then .next (writeIntEnable s fn value) else .next s

/-- HZ_RESET_REQ (R878, R879): it works whether or not Hazel runs; only PF0 has the register. -/
def execHzResetReq (fn : Fn) (value : W32) (s : State) : Out :=
  if hostLive s && fn.val = 0 then .next (writeResetReq s value) else .next s

end Sys2Proof.Machine
end

