-- ==== Sys2Proof/Machine/PowerStates.lean ====
section
/-! DEFINITION. SLEEP, DEEP and OFF: how they are entered, and the wakes that leave them (R66, R756–R770). -/

namespace Sys2Proof.Machine

/-- A FLASH command has been accepted and runs or waits its turn. -/
def flashBusy (s : State) : Bool :=
  s.boot.jobs.any (fun j => j.id ≠ 0) || (List.range 17).any (fun fn =>
    (s.mb fn).consumed.any (fun c => c.req.cls = 13 && c.timing = 2 && c.started && c.result.isNone))

/-- What holds POWER.STATE off as BUSY (R757). (DEDUCED: log entry 61.) -/
def stateBusy (s : State) : Bool :=
  s.pow.entering.isSome || s.husk.restore.isSome || s.husk.compact.isSome || s.husk.format.isSome || s.host.upd.phase ≠ 0
    || (List.range 16).any (regionBusy s) || flashBusy s || (List.range 16).any (fun p => engineWork s p + driveOwn s p ≠ 0)

/-- Refusals of POWER.STATE (R694, R757). (DEDUCED: log entry 61.) -/
def stateRefusal (s : State) (c : Consumed) : Option Nat :=
  let target := c.u8 0
  let us := c.u32 4
  let at_ (l : List PartState) : Bool := (List.range 16).any (fun p => l.contains (s.pt p).state)
  if target < 2 || 4 < target || 1 < c.u8 1 || c.u16 2 ≠ 0 || 86400000 < us || (target = 4 && us ≠ 0) then some 0x0005
  else if target ≠ 4 && epochActive s && c.u8 1 = 0 then some 0x0308
  else if stateBusy s then some 0x0009
  else if at_ [.loaded, .running, .stalled, .draining, .faulted] || (target = 4 && at_ [.assigned, .saved]) then some 0x0008
  else none

/-- Every trace session is stopped and cleared, and every grant ends (R763, R834). (DEDUCED: log entry 61.) -/
def endTraces (s : State) : State := endGrants (forFns s (sesFns s) (fun t fn => clearSession t fn 4 0x000F)) (fun _ => true)

/-- A held memory request completes (R766). -/
def serveHeld (s : State) (q : BarReq) : State :=
  if q.write then regWrite s q.fn q.off q.bytes q.value else regRead s q.fn q.off q.bytes

/-- The link ports enter electrical idle with what they held gone (R758). (DEDUCED: log entry 61.) -/
def idlePorts (s : State) : State :=
  let t := (List.range 16).foldl
    (fun t p => let x := t.port p; if x.state = .up || x.state = .training then t.setPort p { x.emptied with state := .down } else t) s
  settleTrain { t with link := { t.link with idle := true } }

/-- The link ports leave electrical idle and train (R768). (DEDUCED: log entry 61.) -/
def wakePorts (s : State) : State :=
  (List.range 16).foldl
    (fun t p => let x := t.port p; if x.state = .down && mayTrain t p then t.setPort p { x with state := .training } else t)
    { s with link := { s.link with idle := false } }

/-- Passthrough slots that have power are switched off (R618, R759, R761). (DEDUCED: log entry 61.) -/
def passthroughOff (s : State) : State :=
  (List.range 8).foldl
    (fun t n => if dpExists t n && (t.dp n).passthrough && t.comp.slotCtrl.getLsbD n
      then modDp (slotOff t n) n (fun p => { p with powerOff := true }) else t) s

/-- A partition's loads end, and the slots that its cells held are empty (R763). (DEDUCED: log entry 61.) -/
def sleepPart (s : State) (p : Nat) : State :=
  let t := endLoads s p 0x000F
  let x := t.pt p
  if x.state = .assigned then t.setPt p { x with slots := [], bound := none, run := Run.init } else t

/-- HBM enters self-refresh, the root PLL stops, PD_SOC and the regions lose their power (R103, R503, R758, R763). (DEDUCED: log entry 61.) -/
def asleep (s : State) : State :=
  let t := (List.range 16).foldl sleepPart s
  { t with
    clk := { t.clk with root := false, pllEnabled := false, pllLocked := false, div := 12, divReq := none, stretch := false, run := false }
    hbm := { t.hbm with ready := false, selfRefresh := true }
    rst := { t.rst with socOut := false, hbmOut := false, fabOut := [], zeroing := [], wdogRunning := false }
    chans := Channels.init, fab := resetFabric t.fab }

/-- The device wakes to IDLE (R768): Hazel goes on from its retained state, the PLL locks, HBM leaves self-refresh, ungated regions are powered
and zeroed, the ports train, and held requests complete. The energy of the sleep is DEVICE's (R801). (DEDUCED: log entry 61.) -/
def wakeUp (s : State) (cause : Nat) : State :=
  let p := s.pow
  let t := { s with
    pow := { drawEnergy s [] with
      state := .idle, deepWait := false, deepAbandoned := false, wakeAfter := 0, wakePending := none, held := [], droopHold := none }
    clk := { s.clk with root := true, pllEnabled := true, pllLocked := true, attempts := 0 }
    hbm := { s.hbm with ready := true, selfRefresh := false }
    rst := { s.rst with socOut := true, wdogRunning := s.boot.hazel = .running } }
  let u := p.held.foldl serveHeld (wakePorts (phase2 t))
  eventAll u 0x0B01 (le 1 p.state.code ++ le 1 1 ++ le 1 cause ++ le 1 (b2n (p.deepAbandoned || p.deepWait)))

/-- A wake from DEEP (R769): the companion restores the rails, and the host interface is cleared as for a hot reset; until PERST# is deasserted
the endpoint is not ready and WAKE# is low (R765). (DEDUCED: log entry 61.) -/
def wakeDeep (s : State) (cause : Nat) : State :=
  let t := wakeUp (clearHost { s with comp := railsBack s.comp, rst := { s.rst with hubOut := true } }) cause
  { t with rst := { t.rst with epReady := !t.rst.perst }, pow := { t.pow with wakeLow := t.rst.perst } }

/-- A wake from OFF (R770): the rails come up anew, and a power-on reset follows. -/
def wakeOff (s : State) : State :=
  { s with
    comp := { s.comp with railsOn := true, railsGood := 0, railWait := false, railRetries := s.comp.retryPolicy }
    boot := { s.boot with compDone := true } }

/-- A captive drive is still shutting down (R758). -/
def drivesBusy (s : State) : Bool := (List.range 8).any (fun n => captive s n && (s.dp n).drive.state = .suspending)

/-- Steps 5 to 7 of R758: the final response is posted, and the device is in SLEEP, waits for DEEP, or waits for its rails to go (R759, R761). A
wake source that arrived meanwhile wakes it at once (R807). (DEDUCED: log entry 61.) -/
def sleepNow (s : State) (e : Entering) : State :=
  let t := finishOk { s with pow := { s.pow with entering := none } } e.fn e.id (le 1 e.old.code ++ le 3 0 ++ le 4 e.drives)
  if e.target = .off then
    let u := passthroughOff (idlePorts t)
    { u with pow := { u.pow with offWait := true } }
  else
    let u := asleep (idlePorts t)
    let v := { u with pow := { u.pow with state := .sleep, deepWait := (e.target = PowerState.deep : Bool) } }
    match v.pow.wakePending with
    | some c => wakeUp v c
    | none => v

/-- An accepted POWER.STATE (R694, R758, R834): POWER_STATE_CHANGE, the LEAVING DEMAND, channels, sessions, and the shutdown of READY drives. (DEDUCED: log entry 61.) -/
def enterState (s : State) (fn : Nat) (c : Consumed) (target : PowerState) : State :=
  let s1 := accept s fn c.id
  let s2 := if target ≠ .off && epochActive s1 then epochIncomplete s1 3 else s1
  let s3 := eventAll s2 0x0B01 (le 1 s.pow.state.code ++ le 1 target.code ++ le 1 0 ++ le 1 0)
  let s4 := endTraces (loseWhere (sendDemand s3 0 true) Endpoint.isLocal 5)
  let ds := (List.range 8).filter (fun n => captive s4 n && (s4.dp n).drive.state = .ready)
  let s5 := ds.foldl (fun t n => driveState (modDrive t n (fun d => { d with offAfter := false, cause := 0 })) n .suspending 0) s4
  let e : Entering := { fn := fn, id := c.id, target := target, old := s.pow.state, drives := ds.length }
  let s6 := { s5 with pow := { s5.pow with entering := some e, wakeAfter := c.u32 4, wakePending := none, deepAbandoned := false } }
  if drivesBusy s6 then s6 else sleepNow s6 e

/-- POWER.STATE into `target`. While its drives shut down it waits; invoked again, it ends once they have. -/
def powerState (fn : Fn) (target : PowerState) (mine : Nat → Bool) (s : State) : Out :=
  match s.pow.entering.filter (fun e => e.fn = fn.val && e.target = target) with
  | some e => if drivesBusy s then .next s else nextN s (noteStatusAll s (sleepNow s e))
  | none =>
    match startable s fn 11 2 with
    | none => .next s
    | some c =>
      if !mine (c.u8 0) then .next s
      else
        match stateRefusal s c with
        | some v => nextN s (finishSt s fn c.id v)
        | none => nextN s (noteStatusAll s (enterState s fn c target))

/-- POWER_STATE_SLEEP (R694, R756–R758); it refuses targets that are none. -/
def execPowerStateSleep (fn : Fn) (s : State) : Out := powerState fn .sleep (fun t => t ≠ 3 && t ≠ 4) s
/-- POWER_STATE_DEEP (R694, R757–R759). -/
def execPowerStateDeep (fn : Fn) (s : State) : Out := powerState fn .deep (· = 3) s
/-- POWER_STATE_OFF (R757, R761). -/
def execPowerStateOff (fn : Fn) (s : State) : Out := powerState fn .off (· = 4) s

/-- PME_TURN_OFF (R759): the link is in L2, and every die rail but VDD_AUX is off. -/
def execPmeTurnOff (s : State) : Out :=
  if s.pow.state = .sleep && s.pow.deepWait then
    let t := passthroughOff s
    nextN s { t with
      pow := { t.pow with state := .deep, deepWait := false }
      rst := { t.rst with hubOut := false, linkOut := false, epReady := false }
      comp := { t.comp with railsGood := 0, railsOn := false, vreg := { t.comp.vreg with setpoint := 0, settled := false, lastSettled := 0 } } }
  else .next s

/-- PME_WAIT_TIMEOUT (R759, R807). -/
def execPmeWaitTimeout (s : State) : Out :=
  if s.pow.state = .sleep && s.pow.deepWait then .next { s with pow := { s.pow with deepWait := false, deepAbandoned := true } } else .next s

/-- OFF_RAIL_REMOVAL (R761): HBM and all that PD_AUX held are lost; the companion keeps what is its own. -/
def execOffRailRemoval (s : State) : Out :=
  if s.pow.offWait then
    let t := dieUnpowered s
    .next { t with
      comp := railsOff s.comp, boot := { t.boot with compDone := false, dieDone := false }, pow := { t.pow with state := .off } }
  else .next s

/-- HOST_ACCESS_WAKE (R764, R766, R768): a memory request to a BAR in SLEEP is held, and completes once the wake has ended. (DESIGN CHOICE: log entry 26; DEDUCED: log entry 61.) -/
def execHostAccessWake (q : BarReq) (s : State) : Out :=
  if s.pow.state = .sleep && q.fn < 17 then
    nextN s (noteStatusAll s (wakeUp { s with pow := { s.pow with held := s.pow.held ++ [q] } } 3))
  else .next s

/-- PERST_WAKE (R764, R765, R769). (DEDUCED: log entry 61.) -/
def execPerstWake (s : State) : Out :=
  if s.pow.state = .deep && anyOn s then nextN s (noteStatusAll s (wakeDeep { s with rst := { s.rst with perst := false } } 2)) else .next s

/-- A wake from SLEEP or from DEEP, or one that waits for the end of the entry (R764, R807). -/
def wakeAny (s : State) (cause : Nat) : Out :=
  if s.pow.state = .sleep then nextN s (noteStatusAll s (wakeUp s cause))
  else if s.pow.state = .deep && anyOn s then nextN s (noteStatusAll s (wakeDeep s cause))
  else if s.pow.entering.isSome then .next { s with pow := { s.pow with wakePending := some cause } }
  else .next s

/-- WAKE_TIMER_EXPIRY (R764). -/
def execWakeTimerExpiry (s : State) : Out := if s.pow.wakeAfter = 0 then .next s else wakeAny s 4

/-- COMPANION_FAULT_WAKE (R71, R764). -/
def execCompanionFaultWake (s : State) : Out := if s.pow.state = .sleep && irq0Low s then wakeAny s 5 else .next s

/-- WAKE_IN_RECOGNISED (R66, R764, R770): in OFF and in DEEP the companion writes the wake-cause cell. -/
def execWakeInRecognised (s : State) : Out :=
  let cell (t : State) : State := { t with comp := { t.comp with aon := { t.comp.aon with wakeCause := 1 } } }
  if !s.comp.running then .next s
  else if s.pow.state = .off then .next (if anyOn s then wakeOff (cell s) else cell s)
  else wakeAny (if s.pow.state = .deep then cell s else s) 1

end Sys2Proof.Machine
end

