-- ==== Sys2Proof/Machine/Rv32.lean ====
section
/-! DEFINITION. RV32IMFC as R357 names it: fields, compressed forms as the full forms they stand for, integer and floating-point arithmetic. -/

namespace Sys2Proof.Machine

/-- Full 32-bit forms by their fields. -/
def rvI (imm : Int) (rs1 f3 rd op : Nat) : Nat := ofInt 12 imm * 2 ^ 20 + rs1 * 2 ^ 15 + f3 * 2 ^ 12 + rd * 2 ^ 7 + op
def rvR (f7 rs2 rs1 f3 rd op : Nat) : Nat := f7 * 2 ^ 25 + rs2 * 2 ^ 20 + rs1 * 2 ^ 15 + f3 * 2 ^ 12 + rd * 2 ^ 7 + op
def rvS (imm rs2 rs1 f3 op : Nat) : Nat := rvR (imm / 32) rs2 rs1 f3 (imm % 32) op
def rvB (imm : Int) (rs1 f3 : Nat) : Nat :=
  let v := ofInt 13 imm
  rvR (bitsOf v 12 12 * 64 + bitsOf v 10 5) 0 rs1 f3 (bitsOf v 4 1 * 2 + bitsOf v 11 11) 0x63
def rvJ (imm : Int) (rd : Nat) : Nat :=
  let v := ofInt 21 imm
  (bitsOf v 20 20 * 2 ^ 19 + bitsOf v 10 1 * 2 ^ 9 + bitsOf v 11 11 * 2 ^ 8 + bitsOf v 19 12) * 2 ^ 12 + rd * 2 ^ 7 + 0x6F

/-- Offset of C.J and C.JAL, and of C.BEQZ and C.BNEZ. -/
def cjOff (h : Nat) : Int :=
  sext 12 (bitsOf h 12 12 * 2 ^ 11 + bitsOf h 11 11 * 2 ^ 4 + bitsOf h 10 9 * 2 ^ 8 + bitsOf h 8 8 * 2 ^ 10 + bitsOf h 7 7 * 2 ^ 6
    + bitsOf h 6 6 * 2 ^ 7 + bitsOf h 5 3 * 2 + bitsOf h 2 2 * 2 ^ 5)
def cbOff (h : Nat) : Int :=
  sext 9 (bitsOf h 12 12 * 2 ^ 8 + bitsOf h 11 10 * 2 ^ 3 + bitsOf h 6 5 * 2 ^ 6 + bitsOf h 4 3 * 2 + bitsOf h 2 2 * 2 ^ 5)

/-- Quadrant 0 of the compressed forms. (PRESUMED: log entry 34.) -/
def expand0 (h : Nat) : Option Nat :=
  let rd := 8 + bitsOf h 4 2
  let rs := 8 + bitsOf h 9 7
  let f3 := bitsOf h 15 13
  let off := bitsOf h 12 10 * 8 + bitsOf h 6 6 * 4 + bitsOf h 5 5 * 64
  if f3 = 0 then
    let imm := bitsOf h 12 11 * 16 + bitsOf h 10 7 * 64 + bitsOf h 6 6 * 4 + bitsOf h 5 5 * 8
    if imm = 0 then none else some (rvI imm 2 0 rd 0x13)
  else if f3 = 2 then some (rvI off rs 2 rd 0x03)
  else if f3 = 3 then some (rvI off rs 2 rd 0x07)
  else if f3 = 6 then some (rvS off rd rs 2 0x23)
  else if f3 = 7 then some (rvS off rd rs 2 0x27)
  else none

/-- Quadrant 1 of the compressed forms. (PRESUMED: log entry 34.) -/
def expand1 (h : Nat) : Option Nat :=
  let f3 := bitsOf h 15 13
  let rd := bitsOf h 11 7
  let rs := 8 + bitsOf h 9 7
  let imm := sext 6 (bitsOf h 12 12 * 32 + bitsOf h 6 2)
  if f3 = 0 then some (rvI imm rd 0 rd 0x13)
  else if f3 = 1 then some (rvJ (cjOff h) 1)
  else if f3 = 2 then some (rvI imm 0 0 rd 0x13)
  else if f3 = 3 then
    if rd = 2 then
      let v := sext 10 (bitsOf h 12 12 * 512 + bitsOf h 6 6 * 16 + bitsOf h 5 5 * 64 + bitsOf h 4 3 * 128 + bitsOf h 2 2 * 32)
      if v = 0 then none else some (rvI v 2 0 2 0x13)
    else if imm = 0 then none
    else some (ofInt 20 imm * 2 ^ 12 + rd * 2 ^ 7 + 0x37)
  else if f3 = 4 then
    let k := bitsOf h 11 10
    if k ≤ 1 then (if bitOf h 12 then none else some (rvR (32 * k) (bitsOf h 6 2) rs 5 rs 0x13))
    else if k = 2 then some (rvI imm rs 7 rs 0x13)
    else if bitOf h 12 then none
    else
      let o := bitsOf h 6 5
      some (rvR (if o = 0 then 32 else 0) (8 + bitsOf h 4 2) rs (if o = 0 then 0 else if o = 1 then 4 else if o = 2 then 6 else 7) rs 0x33)
  else if f3 = 5 then some (rvJ (cjOff h) 0)
  else if f3 = 6 then some (rvB (cbOff h) rs 0)
  else some (rvB (cbOff h) rs 1)

/-- Quadrant 2 of the compressed forms. (PRESUMED: log entry 34.) -/
def expand2 (h : Nat) : Option Nat :=
  let f3 := bitsOf h 15 13
  let rd := bitsOf h 11 7
  let rs2 := bitsOf h 6 2
  let lw := bitsOf h 12 12 * 32 + bitsOf h 6 4 * 4 + bitsOf h 3 2 * 64
  let sw := bitsOf h 12 9 * 4 + bitsOf h 8 7 * 64
  if f3 = 0 then (if bitOf h 12 then none else some (rvR 0 rs2 rd 1 rd 0x13))
  else if f3 = 2 then (if rd = 0 then none else some (rvI lw 2 2 rd 0x03))
  else if f3 = 3 then some (rvI lw 2 2 rd 0x07)
  else if f3 = 4 then
    if !bitOf h 12 then
      if rs2 = 0 then (if rd = 0 then none else some (rvI 0 rd 0 0 0x67)) else some (rvR 0 rs2 0 0 rd 0x33)
    else if rs2 = 0 then (if rd = 0 then some 0x00100073 else some (rvI 0 rd 0 1 0x67))
    else some (rvR 0 rs2 rd 0 rd 0x33)
  else if f3 = 6 then some (rvS sw rs2 2 2 0x23)
  else if f3 = 7 then some (rvS sw rs2 2 2 0x27)
  else none

/-- The full form that a compressed instruction stands for. -/
def expandC (h : Nat) : Option Nat := if h % 4 = 0 then expand0 h else if h % 4 = 1 then expand1 h else expand2 h

/-- Integer operation by funct3, with the alternative of ADD and SRL that funct7 bit 5 selects. (PRESUMED: log entry 34.) -/
def rvAlu (f3 : Nat) (alt : Bool) (a b : W32) : W32 :=
  let sh := b.toNat % 32
  if f3 = 0 then (if alt then a - b else a + b)
  else if f3 = 1 then a <<< sh
  else if f3 = 2 then (if a.toInt < b.toInt then 1 else 0)
  else if f3 = 3 then (if a.toNat < b.toNat then 1 else 0)
  else if f3 = 4 then a ^^^ b
  else if f3 = 5 then (if alt then a.sshiftRight sh else a >>> sh)
  else if f3 = 6 then a ||| b
  else a &&& b

/-- Multiplication and division by funct3. -/
def rvMul (f3 : Nat) (a b : W32) : W32 :=
  let hi (x : Int) : W32 := BitVec.ofInt 32 (x / 2 ^ 32)
  if f3 = 0 then a * b
  else if f3 = 1 then hi (a.toInt * b.toInt)
  else if f3 = 2 then hi (a.toInt * b.toNat)
  else if f3 = 3 then hi (a.toNat * b.toNat)
  else if f3 = 4 then (if b = 0 then 0xFFFFFFFF#32 else BitVec.ofInt 32 (a.toInt.tdiv b.toInt))
  else if f3 = 5 then (if b = 0 then 0xFFFFFFFF#32 else BitVec.ofNat 32 (a.toNat / b.toNat))
  else if f3 = 6 then (if b = 0 then a else BitVec.ofInt 32 (a.toInt.tmod b.toInt))
  else if b = 0 then a else BitVec.ofNat 32 (a.toNat % b.toNat)

/-- A branch is taken. -/
def rvBranch (f3 : Nat) (a b : W32) : Bool :=
  if f3 = 0 then a = b else if f3 = 1 then a ≠ b else if f3 = 4 then a.toInt < b.toInt else if f3 = 5 then b.toInt ≤ a.toInt
  else if f3 = 6 then a.toNat < b.toNat else b.toNat ≤ a.toNat

/-- A rounding mode by its code. -/
def rvRm (k : Nat) : Option Rm :=
  if k = 0 then some .rne else if k = 1 then some .rtz else if k = 2 then some .rdn else if k = 3 then some .rup
  else if k = 4 then some .rmm else none

/-- A signalling NaN. -/
def isSnan (a : Nat) : Bool := (fp32.value a).isNan && !bitOf a 22

/-- A value rounded to binary32 with its exception flags: 1 inexact, 2 underflow, 4 overflow. -/
def rvRound (rm : Rm) (v : Fl) : Nat × Nat :=
  match v with
  | .fin neg m e =>
    let r := fp32.round rm neg m e
    if r.tooBig then
      let inf := match rm with | .rne => true | .rmm => true | .rtz => false | .rdn => neg | .rup => !neg
      (fp32.signed neg (if inf then 0x7F800000 else 0x7F7FFFFF), 5)
    else (fp32.signed neg r.code, b2n r.inexact + 2 * b2n (r.inexact && r.tiny))
  | r => (fp32.code .rne false r, 0)

/-- The exact sum with the sign that a zero takes under the rounding mode. -/
def rvAdd (rm : Rm) (x y : Fl) : Fl :=
  match x.add y with
  | .fin n 0 e => if x.isNeg = y.isNeg then .fin n 0 e else .fin (rm = .rdn) 0 e
  | r => r

/-- An arithmetic result: the NV flag (16) when a signalling operand or an invalid operation gives the NaN. -/
def rvArith (rm : Rm) (ops : List Nat) (v : Fl) : Nat × Nat :=
  let r := rvRound rm v
  let quiet := ops.all (fun a => !(fp32.value a).isNan)
  (r.1, r.2 + 16 * b2n (ops.any isSnan || (v.isNan && quiet)))

/-- FMIN (max = false) and FMAX. -/
def rvMinMax (max : Bool) (a b : Nat) : Nat × Nat :=
  let x := fp32.value a
  let y := fp32.value b
  (fp32.code .rne false (if max then x.max y else x.min y), 16 * b2n (isSnan a || isSnan b))

/-- FLE (0), FLT (1) and FEQ (2). -/
def rvCompare (k a b : Nat) : Nat × Nat :=
  let x := fp32.value a
  let y := fp32.value b
  let nan := x.isNan || y.isNan
  let v := if k = 0 then x.lt y || x.eq y else if k = 1 then x.lt y else x.eq y
  (b2n (v && !nan), 16 * b2n (if k = 2 then isSnan a || isSnan b else nan))

/-- FCVT.W.S and FCVT.WU.S. -/
def rvToInt (rm : Rm) (unsigned : Bool) (a : Nat) : W32 × Nat :=
  let lo : Int := if unsigned then 0 else -(2 ^ 31)
  let hi : Int := if unsigned then 2 ^ 32 - 1 else 2 ^ 31 - 1
  match fp32.value a with
  | .nan => (BitVec.ofInt 32 hi, 16)
  | .inf n => (BitVec.ofInt 32 (if n then lo else hi), 16)
  | .fin n m e =>
    let r := roundAt rm n m e 0
    let i := signedInt n r.1
    if i < lo then (BitVec.ofInt 32 lo, 16) else if hi < i then (BitVec.ofInt 32 hi, 16)
    else (BitVec.ofInt 32 i, b2n (!r.2))

/-- FCLASS.S. -/
def rvClass (a : Nat) : W32 :=
  let sub := fp32.mag a < 2 ^ 23
  let n := match fp32.value a with
    | .nan => if isSnan a then 8 else 9
    | .inf neg => if neg then 0 else 7
    | .fin neg m _ => if m = 0 then (if neg then 3 else 4) else if sub then (if neg then 2 else 5) else if neg then 1 else 6
  BitVec.ofNat 32 (2 ^ n)

end Sys2Proof.Machine
end

