-- ==== Sys2Proof/Machine/SproutOps.lean ====
section
/-! DEFINITION. The Sprout core: memory, CSRs, one instruction (R354–R364, R488–R490). -/

namespace Sys2Proof.Machine

/-- Region `rg`'s core leads a partition that runs, and is not held by a pause (R354, R366, R367). -/
def coreOf (s : State) (rg : Nat) : Option Nat :=
  match ledBy s rg with
  | none => none
  | some p =>
    let x := s.pt p
    if x.inRun && !x.run.paused && regionLive s rg then some p else none

/-- The core halts on an exception, and its partition faults (R360). (PRESUMED: log entry 34; DEDUCED: log entry 36.) -/
def coreTrap (s : State) (rg p : Nat) (cause tval : Nat) : State :=
  let c := s.sprout rg
  let t := s.setSprout rg { c with run := .halted, mepc := c.pc, mcause := BitVec.ofNat 32 cause, mtval := BitVec.ofNat 32 tval }
  fault (traceSprout t p 3 c.pc)
    { code := 0x0303, cls := 2, partition := p, region := rg, jobId := (s.pt p).run.jobId
      detail := le 4 cause ++ le 4 c.pc.toNat ++ le 4 tval }

/-- The words of local memory that `n` bytes from `a` touch are read: corrected, or lost to a multi-bit error (R361). -/
def touchMem (s : State) (rg p a n : Nat) : Bool × State :=
  let ws := (span (a / 4) ((a + n - 1) / 4 + 1 - a / 4)).filter (fun w => (tfind (s.sprout rg).ecc w).isSome)
  match ws with
  | [] => (true, s)
  | w :: _ =>
    let m := tget ⟨false, false⟩ (s.sprout rg).ecc w
    let f (code cls : Nat) : Flaw :=
      { code := code, cls := cls, partition := p, region := rg, jobId := (s.pt p).run.jobId, injected := m.injected, detail := le 4 (4 * w) }
    let t := s.setSprout rg { s.sprout rg with ecc := tdel (s.sprout rg).ecc w }
    if m.multi then (false, fault (traceSprout (t.setSprout rg { t.sprout rg with run := .halted }) p 1 (s.sprout rg).pc) (f 0x0304 2)) else (true, fault t (f 0x030C 0))

/-- Size of local memory (R358). -/
def coreMem : Nat := 0x20000

/-- Readable summaries, steers queued or on their way, and free steer entries (R353, R363). -/
def steerFree (s : State) (p : Nat) : Nat := 16 - ((s.pt p).run.steers.length + (s.pt p).run.steerFlights.length)

/-- A steer enters the queue; it is available after the latency of R356. (DEDUCED: log entry 33.) -/
def pushSteer (s : State) (p : Nat) (w : W32) : State :=
  let x := s.pt p
  let d := (x.w - 1) + (x.h - 1)
  tracePart (s.setPt p { x with run := { x.run with steerFlights := x.run.steerFlights ++ [{ word := w, due := x.run.elapsed + 8 + 4 * d }] } }) p 2
    0x21 (le 1 0 ++ le 4 w.toNat)

/-- The oldest summary is popped: its low word, with the high word latched (R363). -/
def popInbox (s : State) (rg p : Nat) : Option (W32 × State) :=
  let x := s.pt p
  match x.run.inbox with
  | [] => none
  | w :: r =>
    let t := s.setPt p { x with run := { x.run with inbox := r } }
    some (BitVec.ofNat 32 w.toNat, t.setSprout rg { t.sprout rg with inboxHi := BitVec.ofNat 32 (w.toNat / 2 ^ 32) })

/-- SP_STATE (R363). -/
def spState (s : State) (p : Nat) : W32 :=
  let r := (s.pt p).run
  BitVec.ofNat 32 (r.active.getD (r.target.getD 0) + 4 * r.pendingNext.getD 7 + 32 * r.flags.toNat + 65536 * (r.foldCount.toNat % 65536))

/-- The low half of the schedule fc, with the high half latched (R363). -/
def readSched (s : State) (rg p : Nat) : W32 × State :=
  let v := (s.pt p).run.sched
  (BitVec.ofNat 32 v, s.setSprout rg { s.sprout rg with schedHi := BitVec.ofNat 32 (v / 2 ^ 32) })

/-- Ports that hold a message, and send ports of OPEN channels that may send now (SP_CH_READY). -/
def chReady (s : State) (p : Nat) : Nat :=
  let bit (n : Nat) : Nat :=
    match boundTo s .sprout p n with
    | some (k, rx) =>
      if rx then (if (s.chan k).queue.isEmpty then 0 else 2 ^ n)
      else if (s.chan k).state = .open && canSend s k then 2 ^ (n + 16) else 0
    | none => 0
  ((List.range 16).map bit).foldl (· + ·) 0

/-- Half `h` of a staged or received word. -/
def halfWord (w : W64) (h : Nat) : W32 := BitVec.ofNat 32 (w.toNat / 2 ^ (32 * h))
def setHalf (w : W64) (h : Nat) (v : W32) : W64 :=
  BitVec.ofNat 64 (if h = 0 then w.toNat / 2 ^ 32 * 2 ^ 32 + v.toNat else w.toNat % 2 ^ 32 + v.toNat * 2 ^ 32)

/-- CSR numbers that exist (R357, R363, R488): fcsr, counters, machine mode, and the custom ones. (PRESUMED: log entry 34.) -/
def csrExists (n : Nat) : Bool :=
  [1, 2, 3, 0x300, 0x301, 0x304, 0x305, 0x310, 0x320, 0x340, 0x341, 0x342, 0x343, 0x344, 0xF11, 0xF12, 0xF13, 0xF14, 0xF15].contains n
    || [0xC00, 0xC01, 0xC02, 0xC80, 0xC81, 0xC82, 0xB00, 0xB02, 0xB80, 0xB82].contains n
    || (0xB03 ≤ n && n ≤ 0xB1F) || (0xB83 ≤ n && n ≤ 0xB9F) || (0x323 ≤ n && n ≤ 0x33F)
    || n = 0x7C0 || n = 0x7C1 || (0xFC0 ≤ n && n ≤ 0xFCA) || (0x7D0 ≤ n && n ≤ 0x7DA) || (0xFD0 ≤ n && n ≤ 0xFDB)

/-- A custom CSR, whose access takes 2 ac (R359). -/
def csrCustom (n : Nat) : Bool := (0x7C0 ≤ n && n ≤ 0x7DF) || (0xFC0 ≤ n && n ≤ 0xFDF)

/-- Reads a standard CSR (R357). -/
def csrStandard (s : State) (rg n : Nat) : W32 :=
  let c := s.sprout rg
  let lo (v : W64) : W32 := halfWord v 0
  let hi (v : W64) : W32 := halfWord v 1
  if n = 1 then c.fcsr &&& 0x1F else if n = 2 then (c.fcsr >>> 5) &&& 7 else if n = 3 then c.fcsr
  else if n = 0x300 then (c.mstatus &&& 0x88) ||| 0x80007800#32
  else if n = 0x301 then 0x40001124#32
  else if n = 0x304 then c.mie else if n = 0x305 then c.mtvec else if n = 0x320 then c.mcountinhibit
  else if n = 0x340 then c.mscratch else if n = 0x341 then c.mepc else if n = 0x342 then c.mcause else if n = 0x343 then c.mtval
  else if n = 0xF14 then BitVec.ofNat 32 rg
  else if n = 0xB00 || n = 0xC00 then lo c.mcycle else if n = 0xB80 || n = 0xC80 then hi c.mcycle
  else if n = 0xB02 || n = 0xC02 then lo c.minstret else if n = 0xB82 || n = 0xC82 then hi c.minstret
  else if n = 0xC01 then lo s.time else if n = 0xC81 then hi s.time
  else 0

/-- Reads a CSR: its value, or none where the read blocks (R363, R488). Write-only fields read zero. (PRESUMED: log entry 34.) -/
def csrRead (s : State) (rg p n : Nat) : Option (W32 × State) :=
  let c := s.sprout rg
  let r := (s.pt p).run
  if !csrCustom n then some (csrStandard s rg n, s)
  else if n = 0xFC0 then popInbox s rg p
  else if n = 0xFC1 then some (c.inboxHi, s)
  else if n = 0xFC2 then some (BitVec.ofNat 32 (r.inbox.length + 2 ^ 31 * b2n r.overrun), s)
  else if n = 0xFC3 then some (BitVec.ofNat 32 (steerFree s p), s)
  else if n = 0xFC4 then some (spState s p, s)
  else if n = 0xFC5 then some (readSched s rg p)
  else if n = 0xFC6 then some (c.schedHi, s)
  else if 0xFC7 ≤ n && n ≤ 0xFCA then some (BitVec.ofNat 32 (tget 0 r.bounds (n - 0xFC7)), s)
  else if n = 0x7D0 then some (BitVec.ofNat 32 c.chPort, s)
  else if 0x7D1 ≤ n && n ≤ 0x7D8 then some (halfWord (tget 0 c.chTxd ((n - 0x7D1) / 2)) ((n - 0x7D1) % 2), s)
  else if n = 0x7DA then some (c.chWake, s)
  else if n = 0xFD0 then some (sproutChRx s rg p)
  else if 0xFD1 ≤ n && n ≤ 0xFD8 then some (halfWord (tget 0 c.chRxd ((n - 0xFD1) / 2)) ((n - 0xFD1) % 2), s)
  else if n = 0xFD9 then some (portStatus s .sprout p c.chPort (tget 0 c.chDiscards c.chPort), s)
  else if n = 0xFDA then some (BitVec.ofNat 32 (chReady s p), s)
  else if n = 0xFDB then some (sproutChNack s p)
  else some (0, s)

/-- Writes a standard CSR (R357). (PRESUMED: log entry 34.) -/
def csrStore (c : Sprout) (n : Nat) (v : W32) : Sprout :=
  if n = 1 then { c with fcsr := (c.fcsr &&& 0xE0) ||| (v &&& 0x1F) }
  else if n = 2 then { c with fcsr := (c.fcsr &&& 0x1F) ||| ((v &&& 7) <<< 5) }
  else if n = 3 then { c with fcsr := v &&& 0xFF }
  else if n = 0x300 then { c with mstatus := v &&& 0x88 }
  else if n = 0x304 then { c with mie := v }
  else if n = 0x305 then { c with mtvec := v }
  else if n = 0x320 then { c with mcountinhibit := v &&& 5 }
  else if n = 0x340 then { c with mscratch := v }
  else if n = 0x341 then { c with mepc := v &&& 0xFFFFFFFE#32 }
  else if n = 0x342 then { c with mcause := v }
  else if n = 0x343 then { c with mtval := v }
  else if n = 0xB00 then { c with mcycle := setHalf c.mcycle 0 v }
  else if n = 0xB80 then { c with mcycle := setHalf c.mcycle 1 v }
  else if n = 0xB02 then { c with minstret := setHalf c.minstret 0 v }
  else if n = 0xB82 then { c with minstret := setHalf c.minstret 1 v }
  else c

/-- CLR_OVR of SP_INBOX_CTRL (R363). -/
def clearOverrun (s : State) (p : Nat) (v : W32) : State :=
  if v.getLsbD 0 then s.setPt p { s.pt p with run := { (s.pt p).run with overrun := false } } else s

/-- Writes a CSR; none where the write blocks (R363, R488). -/
def csrWrite (s : State) (rg p n : Nat) (v : W32) : Option State :=
  let c := s.sprout rg
  if n = 0x7C0 then (if steerFree s p = 0 then none else some (pushSteer s p v))
  else if n = 0x7C1 then some (clearOverrun s p v)
  else if n = 0x7D0 then some (s.setSprout rg { c with chPort := v.toNat % 16 })
  else if 0x7D1 ≤ n && n ≤ 0x7D8 then
    let i := (n - 0x7D1) / 2
    some (s.setSprout rg { c with chTxd := tset c.chTxd i (setHalf (tget 0 c.chTxd i) ((n - 0x7D1) % 2) v) })
  else if n = 0x7D9 then sproutChSend s rg p v
  else if n = 0x7DA then some (s.setSprout rg { c with chWake := v })
  else some (s.setSprout rg (csrStore c n v))

/-- A CSR instruction: read, then write, then the destination register (R363). Reads that pop are not repeated by a write that blocks:
no CSR both pops and blocks on a write. -/
def csrInstr (s : State) (rg p word : Nat) : State :=
  let n := bitsOf word 31 20
  let f3 := bitsOf word 14 12
  let rs := bitsOf word 19 15
  let rd := bitsOf word 11 7
  let src : W32 := if 4 ≤ f3 then BitVec.ofNat 32 rs else getX s rg rs
  let writes := f3 % 4 = 1 || rs ≠ 0
  let reads := f3 % 4 ≠ 1 || rd ≠ 0
  if f3 % 4 = 0 || !csrExists n || (writes && 3 ≤ n / 1024) then coreTrap s rg p 2 word
  else
    match (if reads then csrRead s rg p n else some (0, s)) with
    | none => s.setSprout rg { s.sprout rg with run := .blockedInbox rd }
    | some (old, t) =>
      let v := if f3 % 4 = 1 then src else if f3 % 4 = 2 then old ||| src else old &&& ~~~src
      match (if writes then csrWrite t rg p n v else some t) with
      | none => t.setSprout rg { t.sprout rg with run := if n = 0x7C0 then .blockedSteer v rd else .blockedSend v rd }
      | some u => retireTo (setX u rg rd old) rg ((u.sprout rg).pc + 4) (if csrCustom n then 2 else 1)

/-- A condition of R357 or R490 for which WFI wakes. -/
def wfiReady (s : State) (rg p : Nat) : Bool :=
  let c := s.sprout rg
  !(s.pt p).run.inbox.isEmpty || 0 < steerFree s p || (BitVec.ofNat 32 (chReady s p) &&& c.chWake) ≠ 0
    || !(tget NackQueue.init s.chans.partNack p).entries.isEmpty

/-- A floating-point register. -/
def getF (s : State) (rg r : Nat) : Nat := (tget (0 : W32) (s.sprout rg).f r).toNat
/-- Writes a floating-point register and raises exception flags. -/
def setF (s : State) (rg rd : Nat) (v flags : Nat) : State :=
  let c := s.sprout rg
  s.setSprout rg { c with f := tset c.f rd (BitVec.ofNat 32 v), fcsr := c.fcsr ||| BitVec.ofNat 32 flags }
/-- Raises exception flags only. -/
def raiseFlags (s : State) (rg flags : Nat) : State :=
  let c := s.sprout rg
  s.setSprout rg { c with fcsr := c.fcsr ||| BitVec.ofNat 32 flags }

/-- FMADD family: op bits [3:2] are 0 FMADD, 1 FMSUB, 2 FNMSUB, 3 FNMADD. -/
def fpFused (rm : Rm) (k a b c : Nat) : Nat × Nat :=
  let x := fp32.value a
  let y := fp32.value b
  let z := fp32.value c
  let prod := x.mul y
  let p := if k = 2 || k = 3 then prod.neg else prod
  let r := rvArith rm [a, b, c] (rvAdd rm p (if k = 1 || k = 3 then z.neg else z))
  (r.1, r.2 ||| (if prod.isNan && !x.isNan && !y.isNan then 16 else 0))

/-- An instruction of the OP-FP space, with a valid rounding mode where it needs one: none where the encoding is illegal. The answer: ac
and state. (PRESUMED: log entry 34.) -/
def fpOp (s : State) (rg word : Nat) (rm : Option Rm) : Option (Nat × State) :=
  let f7 := bitsOf word 31 25
  let rs2 := bitsOf word 24 20
  let rs1 := bitsOf word 19 15
  let f3 := bitsOf word 14 12
  let rd := bitsOf word 11 7
  let a := getF s rg rs1
  let b := getF s rg rs2
  let fr (ac : Nat) (r : Nat × Nat) : Option (Nat × State) := some (ac, setF s rg rd r.1 r.2)
  let xr (v : W32) (fl : Nat) : Option (Nat × State) := some (3, raiseFlags (setX s rg rd v) rg fl)
  let x := fp32.value a
  let y := fp32.value b
  if f7 = 0x10 then
    let sign := if f3 = 0 then bitOf b 31 else if f3 = 1 then !bitOf b 31 else xor (bitOf a 31) (bitOf b 31)
    if f3 ≤ 2 then fr 3 (a % 2 ^ 31 + 2 ^ 31 * b2n sign, 0) else none
  else if f7 = 0x14 then (if f3 ≤ 1 then fr 3 (rvMinMax (f3 = 1) a b) else none)
  else if f7 = 0x50 then (if f3 ≤ 2 then let r := rvCompare f3 a b; xr (BitVec.ofNat 32 r.1) r.2 else none)
  else if f7 = 0x70 && rs2 = 0 && f3 = 0 then xr (BitVec.ofNat 32 a) 0
  else if f7 = 0x70 && rs2 = 0 && f3 = 1 then xr (rvClass a) 0
  else if f7 = 0x78 && rs2 = 0 && f3 = 0 then fr 3 ((getX s rg rs1).toNat, 0)
  else
    match rm with
    | none => none
    | some rm =>
      if f7 = 0x00 then fr 3 (rvArith rm [a, b] (rvAdd rm x y))
      else if f7 = 0x04 then fr 3 (rvArith rm [a, b] (rvAdd rm x y.neg))
      else if f7 = 0x08 then fr 3 (rvArith rm [a, b] (x.mul y))
      else if f7 = 0x0C then
        let r := rvArith rm [a, b] (x.div y)
        fr 16 (r.1, r.2 ||| (if y.isZero && !x.isZero && !x.isNan && !x.isInf then 8 else 0))
      else if f7 = 0x2C && rs2 = 0 then fr 16 (rvArith rm [a] x.sqrt)
      else if f7 = 0x60 && rs2 ≤ 1 then let r := rvToInt rm (rs2 = 1) a; xr r.1 r.2
      else if f7 = 0x68 && rs2 ≤ 1 then
        let i : Int := if rs2 = 1 then ((getX s rg rs1).toNat : Int) else (getX s rg rs1).toInt
        fr 3 (rvRound rm (Fl.ofInt i))
      else none

/-- A load of `n` bytes into an integer or floating-point register. -/
def coreLoad (s : State) (rg p : Nat) (addr n : Nat) (signed flt : Bool) (rd : Nat) (next : W32) : State :=
  if addr % n ≠ 0 then coreTrap s rg p 4 addr
  else if coreMem < addr + n then coreTrap s rg p 5 addr
  else
    let m := touchMem s rg p addr n
    if !m.1 then m.2
    else
      let v := leNat (mread 0 (m.2.sprout rg).mem addr n)
      let w : W32 := if signed then BitVec.ofInt 32 (sext (8 * n) v) else BitVec.ofNat 32 v
      if flt then retireTo (setF m.2 rg rd v 0) rg next 3 else retireTo (setX m.2 rg rd w) rg next 2

/-- A store of `n` bytes. A whole word written carries no ECC error any more. -/
def coreStore (s : State) (rg p : Nat) (addr n v : Nat) (ac : Nat) (next : W32) : State :=
  if addr % n ≠ 0 then coreTrap s rg p 6 addr
  else if coreMem < addr + n then coreTrap s rg p 7 addr
  else
    let m := if n = 4 then (true, s.setSprout rg { s.sprout rg with ecc := tdel (s.sprout rg).ecc (addr / 4) }) else touchMem s rg p addr n
    if !m.1 then m.2
    else
      let c := m.2.sprout rg
      retireTo (m.2.setSprout rg { c with mem := mwrite 0 c.mem addr (le n v) }) rg next ac

/-- SYSTEM instructions. (PRESUMED: log entry 34.) -/
def coreSystem (s : State) (rg p word raw : Nat) : State :=
  let c := s.sprout rg
  if bitsOf word 14 12 ≠ 0 then csrInstr s rg p word
  else if word = 0x00000073 then coreTrap s rg p 11 0
  else if word = 0x00100073 then coreTrap s rg p 3 c.pc.toNat
  else if word = 0x30200073 then
    retireTo (s.setSprout rg { c with mstatus := ((c.mstatus >>> 4) &&& 8) ||| 0x80 }) rg c.mepc 2
  else if word = 0x10500073 then
    if wfiReady s rg p then retireTo s rg (c.pc + 4) 1 else s.setSprout rg { c with run := .waiting }
  else coreTrap s rg p 2 raw

/-- Executes the full form `word` of an instruction of `len` bytes at the pc; `raw` is the instruction as fetched (R357–R360). (PRESUMED: log entry 34.) -/
def coreExec (s : State) (rg p word len raw : Nat) : State :=
  let c := s.sprout rg
  let pc := c.pc
  let next := pc + BitVec.ofNat 32 len
  let op := word % 128
  let f3 := bitsOf word 14 12
  let f7 := bitsOf word 31 25
  let rd := bitsOf word 11 7
  let a := getX s rg (bitsOf word 19 15)
  let b := getX s rg (bitsOf word 24 20)
  let immI : W32 := BitVec.ofInt 32 (sext 12 (bitsOf word 31 20))
  let immS : W32 := BitVec.ofInt 32 (sext 12 (f7 * 32 + rd))
  let ill := coreTrap s rg p 2 raw
  let alu (v : W32) (ac : Nat) : State := retireTo (setX s rg rd v) rg next ac
  if op = 0x37 then alu (BitVec.ofNat 32 (bitsOf word 31 12 * 4096)) 1
  else if op = 0x17 then alu (pc + BitVec.ofNat 32 (bitsOf word 31 12 * 4096)) 1
  else if op = 0x6F then
    let off := sext 21 (bitsOf word 31 31 * 2 ^ 20 + bitsOf word 19 12 * 2 ^ 12 + bitsOf word 20 20 * 2 ^ 11 + bitsOf word 30 21 * 2)
    retireTo (setX s rg rd next) rg (pc + BitVec.ofInt 32 off) 2
  else if op = 0x67 && f3 = 0 then
    let dest := (a + immI) &&& 0xFFFFFFFE#32
    retireTo (setX (traceTarget s p dest) rg rd next) rg dest 2
  else if op = 0x63 && f3 ≠ 2 && f3 ≠ 3 then
    let off := sext 13 (bitsOf word 31 31 * 2 ^ 12 + bitsOf word 7 7 * 2 ^ 11 + bitsOf word 30 25 * 2 ^ 5 + bitsOf word 11 8 * 2)
    let t := traceBranch s p (rvBranch f3 a b)
    if rvBranch f3 a b then retireTo t rg (pc + BitVec.ofInt 32 off) 2 else retireTo t rg next 1
  else if op = 0x03 && (f3 ≤ 2 || f3 = 4 || f3 = 5) then coreLoad s rg p (a + immI).toNat (2 ^ (f3 % 4)) (f3 < 4) false rd next
  else if op = 0x07 && f3 = 2 then coreLoad s rg p (a + immI).toNat 4 false true rd next
  else if op = 0x23 && f3 ≤ 2 then coreStore s rg p (a + immS).toNat (2 ^ f3) b.toNat 2 next
  else if op = 0x27 && f3 = 2 then coreStore s rg p (a + immS).toNat 4 (getF s rg (bitsOf word 24 20)) 3 next
  else if op = 0x13 then
    if f3 = 1 || f3 = 5 then
      (if f7 = 0 || (f3 = 5 && f7 = 0x20) then alu (rvAlu f3 (f7 = 0x20) a (BitVec.ofNat 32 (bitsOf word 24 20))) 1 else ill)
    else alu (rvAlu f3 false a immI) 1
  else if op = 0x33 then
    if f7 = 1 then alu (rvMul f3 a b) (if f3 < 4 then 2 else 18)
    else if f7 = 0 || (f7 = 0x20 && (f3 = 0 || f3 = 5)) then alu (rvAlu f3 (f7 = 0x20) a b) 1
    else ill
  else if op = 0x0F && f3 = 0 then retireTo s rg next 1
  else if op = 0x73 then coreSystem s rg p word raw
  else
    let rm := rvRm (if f3 = 7 then (c.fcsr.toNat / 32) % 8 else f3)
    if op = 0x43 || op = 0x47 || op = 0x4B || op = 0x4F then
      match rm with
      | some m =>
        if f7 % 4 ≠ 0 then ill
        else
          let r := fpFused m (bitsOf op 3 2) (getF s rg (bitsOf word 19 15)) (getF s rg (bitsOf word 24 20)) (getF s rg (f7 / 4))
          retireTo (setF s rg rd r.1 r.2) rg next 3
      | none => ill
    else if op = 0x53 then
      match fpOp s rg word rm with
      | some (ac, t) => retireTo t rg next ac
      | none => ill
    else ill

/-- One instruction of region `rg`'s core: fetched, expanded, executed (R357–R361). (PRESUMED: log entry 34.) -/
def coreStep (s : State) (rg p : Nat) : State :=
  let pc := (s.sprout rg).pc.toNat
  if coreMem < pc + 2 then coreTrap s rg p 1 pc
  else
    let m := touchMem s rg p pc 2
    if !m.1 then m.2
    else
      let h := leNat (mread 0 (m.2.sprout rg).mem pc 2)
      if h % 4 ≠ 3 then
        match expandC h with
        | some w => coreExec m.2 rg p w 2 h
        | none => coreTrap m.2 rg p 2 h
      else if coreMem < pc + 4 then coreTrap m.2 rg p 1 (pc + 2)
      else
        let n := touchMem m.2 rg p (pc + 2) 2
        if !n.1 then n.2
        else
          let w := leNat (mread 0 (n.2.sprout rg).mem pc 4)
          coreExec n.2 rg p w 4 w

end Sys2Proof.Machine
end

