-- ==== Sys2Proof/Machine/Sequencing.lean ====
section
/-! DEFINITION. Sequencing and the Sprout cores as commands (R324–R371). -/

namespace Sys2Proof.Machine

/-- The schedule of partition `p` advances on the coming fc. -/
def partOn (s : State) (p : Nat) : Bool := podOn s ((s.pt p).podAbs 0) = some p

/-- The partition's pace step at hand decides, or the partition stalls with the cause that holds it. -/
def issueOrStall (s : State) (p k c : Nat) : State :=
  if foldDue s p || !seqDue s p k c then s
  else match stallNow s p with
    | some cause => setStall s p cause
    | none => issueStep s p k c

/-- SEQUENCER_STEP_ISSUE (R324–R335): the step of one sequencer on the coming fc; the whole partition stalls on what it awaits. -/
def execSequencerStepIssue (pod : Fin 640) (cell : Fin 4) (s : State) : Out :=
  match podOn s pod with
  | none => .next s
  | some p => nextN s (issueOrStall s p pod cell)

/-- A stall of cause `c` ends when nothing holds the partition any more; another cause takes over where one does (R334, R349, R371). -/
def stallEnds (s : State) (p : Nat) (c : StallCause) : Out :=
  if !(s.pt p).inRun || (s.pt p).run.stall ≠ some c then .next s
  else match stallNow s p with
    | none => nextN s (endStall s p)
    | some d => .next (setStall s p d)

/-- AWAIT_STALL_END (R334). -/
def execAwaitStallEnd (p : Fin 16) (s : State) : Out := stallEnds s p .await

/-- DECIDE_STALL_END (R349). -/
def execDecideStallEnd (p : Fin 16) (s : State) : Out := stallEnds s p .decide

/-- NATURAL_FOLD (R340–R347): the boundary that is due on the coming fc. -/
def execNaturalFold (p : Fin 16) (s : State) : Out :=
  if partOn s p && foldDue s p then nextN s (foldBoundary s p) else .next s

/-- DECISION_POINT (R349–R351): the pace sequencer's DECIDE step that is due. -/
def execDecisionPoint (p : Fin 16) (s : State) : Out :=
  if !partOn s p then .next s
  else match paceOf s p with
    | none => .next s
    | some (k, c) => if (dueStep s p k c).any (fun st => st.decide) then nextN s (issueOrStall s p k c) else .next s

/-- FOLD_WAIT_END (R343): the target slot is committed. -/
def execFoldWaitEnd (p : Fin 16) (s : State) : Out :=
  let x := s.pt p
  if !x.inRun || x.run.stall ≠ some .foldWait then .next s
  else match x.run.target with
    | none => .next s
    | some t => if (tget Slot.init x.slots t).state = .committed then nextN s (enterContext s p t) else .next s

/-- A partition's run goes on. -/
def inRun (s : State) (p : Nat) : Bool := (s.pt p).inRun

/-- STEER_DELIVERY (R353, R356): steers whose latency is over. -/
def execSteerDelivery (p : Fin 16) (s : State) : Out := if inRun s p then .next (deliverSteers s p) else .next s

/-- SUMMARY_ARRIVAL (R355, R364): summaries whose latency is over. -/
def execSummaryArrival (p : Fin 16) (s : State) : Out := if inRun s p then nextN s (deliverSummaries s p false) else .next s

/-- A command on a core that runs. -/
def onCore (rg : Nat) (s : State) (f : Nat → State → State) : Out :=
  match coreOf s rg with
  | none => .next s
  | some p => if (s.sprout rg).run = .running then nextN s (f p s) else .next s

/-- SPROUT_INSTRUCTION (R357–R362). -/
def execSproutInstruction (rg : Fin 16) (s : State) : Out := onCore rg s fun p t => coreStep t rg p

/-- SP_STEER (R353, R363): the core's instruction writes `w`, or blocks. -/
def execSpSteer (rg : Fin 16) (w : W32) (s : State) : Out :=
  onCore rg s fun p t =>
    if steerFree t p = 0 then t.setSprout rg { t.sprout rg with run := .blockedSteer w 0 } else retireSp (pushSteer t p w) rg

/-- SP_STEER_UNBLOCK (R363). -/
def execSpSteerUnblock (rg : Fin 16) (s : State) : Out :=
  match coreOf s rg, (s.sprout rg).run with
  | some p, .blockedSteer w rd => if steerFree s p = 0 then .next s else .next (retireSp (setX (pushSteer s p w) rg rd 0) rg)
  | _, _ => .next s

/-- SP_INBOX_LO (R363): the core's instruction pops a summary into `rd`, or blocks; a core that is blocked goes on when one is readable. -/
def execSpInboxLo (rg : Fin 16) (rd : Fin 32) (s : State) : Out :=
  match coreOf s rg, (s.sprout rg).run with
  | some p, .running =>
    match popInbox s rg p with
    | some (v, t) => .next (retireSp (setX t rg rd v) rg)
    | none => .next (s.setSprout rg { s.sprout rg with run := .blockedInbox rd })
  | some p, .blockedInbox r =>
    match popInbox s rg p with
    | some (v, t) => .next (retireSp (setX t rg r v) rg)
    | none => .next s
  | _, _ => .next s

/-- SP_INBOX_CTRL (R363). -/
def execSpInboxCtrl (rg : Fin 16) (v : W32) (s : State) : Out := onCore rg s fun p t => retireSp (clearOverrun t p v) rg

/-- SP_SCHED_FC_LO (R363). -/
def execSpSchedFcLo (rg : Fin 16) (rd : Fin 32) (s : State) : Out :=
  onCore rg s fun p t => let r := readSched t rg p; retireSp (setX r.2 rg rd r.1) rg

/-- WFI_WAKE (R357, R490). -/
def execWfiWake (rg : Fin 16) (s : State) : Out :=
  match coreOf s rg with
  | none => .next s
  | some p =>
    if (s.sprout rg).run = .waiting && wfiReady s rg p then .next (retireTo s rg ((s.sprout rg).pc + 4) 1) else .next s

end Sys2Proof.Machine
end

