-- ==== Sys2Proof/Machine/Trace.lean ====
section
/-! DEFINITION. The TRACE commands, and the trace unit's own events (R808–R835). -/

namespace Sys2Proof.Machine

/-- The session that TRACE.CONFIG asks for, when every field lies within its range (R816, R822, R830). -/
def sessionOf (fn : Nat) (c : Consumed) : Option Session :=
  let sink := c.u8 0
  let interval := c.u32 4
  let mask := c.u16 8
  let part := if fn = 0 then c.req.partition else fn - 1
  let first := c.u16 0x0A
  let units := c.u16 0x0C
  let base := c.u64 0x10
  let size := c.u64 0x18
  let place :=
    if sink = 0 then 1 ≤ units && units ≤ 16 && first + units ≤ 575
    else if sink = 1 then 0x100000 ≤ size && size ≤ 0x100000000 && size % 0x10000 = 0 && base % 0x10000 = 0
    else 0x40000000 ≤ size && size % 0x10000 = 0 && c.u8 0x20 < 8
  if 2 < sink || 1 < c.u8 1 || 0xFF < c.u16 2 || !([256, 512, 1024, 2048, 4096, 8192, 16384, 32768, 65536].contains interval) || c.u16 0x0E ≠ 0
      || rd 3 c.req.payload 0x21 ≠ 0 || !place || (sink ≠ 0 && part = 255) || (fn ≠ 0 && !bitOf mask (fn - 1)) then none
  else some { Session.init with
    state := .configured, sink := sink, stop := c.u8 1 = 1, sources := c.u16 2, interval := interval, mask := mask, firstUnit := first, units := units
    base := base, size := if sink = 0 then units * 0x10000000 else size, port := c.u8 0x20, nsid := c.u32 0x24, part := part }

/-- Refusals of TRACE.CONFIG after its ranges (R830). (DEDUCED: log entry 64.) -/
def configRefusal (s : State) (fn : Nat) (x : Session) : Option Nat :=
  let old := s.ses fn
  if fn ≠ 0 && x.sink = 0 then some 0x0006
  else if old.state = .running then some 0x0008
  else if x.sink = 0 && (span x.firstUnit x.units).any (fun u => unitGranted s u || s.hbm.reserved.contains u) then some 0x0602
  else if x.sink = 1 && (windowPieces (s.pt x.part).windows x.base x.size).isNone then some 0x000B
  else
    let full := if old.state = .unconfigured && 8 ≤ ((sesFns s).filter (fun g => (s.ses g).state ≠ .unconfigured)).length then some 0x000A else none
    if x.sink = 2 then
      match nsOf s x.port x.nsid with
      | none => some 0x0909
      | some n =>
        if (n.lba ≠ 512 && n.lba ≠ 4096) || n.metadata then some 0x090A
        else if nsOwner s (s.dp x.port).drive.serial x.nsid ≠ x.part + 1 then some 0x0006
        else if n.size * n.lba < x.size then some 0x0005
        else full
    else full

/-- TRACE_CONFIG (R808, R816, R830). -/
def execTraceConfig (fn : Fn) (s : State) : Out :=
  withCmd s fn 12 1 fun c s =>
    match sessionOf fn c with
    | none => finishSt s fn c.id 0x0005
    | some x =>
      match configRefusal s fn x with
      | some st => finishSt s fn c.id st
      | none =>
        let old := s.ses fn
        let s1 := releaseSink s old
        let s2 := if x.sink = 0 then { s1 with hbm := { s1.hbm with reserved := (span x.firstUnit x.units).foldl sins s1.hbm.reserved } } else s1
        let s3 := sesState s2 fn { x with state := old.state, overflowed := old.overflowed } .configured 0
        finishOk s3 fn c.id (le 8 x.size)

/-- TRACE_START (R822, R831). -/
def execTraceStart (fn : Fn) (s : State) : Out :=
  withCmd s fn 12 2 fun c s =>
    let x := s.ses fn
    if !(x.state = .configured || x.state = .full) then finishSt s fn c.id 0x0008
    else
      let y := { x with
        id := s.trace.nextSession, block := 0, made := 0, written := 0, lost := 0, wrapped := false, buffer := [], dropping := none, gap := none
        context := 255, lastLc := s.trace.lc, branches := [], staged := [], stopping := none }
      let s1 := { s with trace := { s.trace with nextSession := s.trace.nextSession + 1 } }
      let s2 := sesState s1 fn (openBlock s1 y s.trace.lc) .running 0
      finishOk s2 fn c.id (le 8 s.time.toNat ++ le 4 y.id.toNat)

/-- What a session still holds becomes packets, and its last block is padded (R828, R829, R832). -/
def closeStream (s : State) (x : Session) : Session :=
  let y := placeGap s ((x.branches.map (fun b => b.1)).foldl (fun z p => flushBr s z p) x)
  if y.dropping.isSome then y else padBlock y

/-- TRACE_STOP (R832). (DEDUCED: log entry 64.) -/
def execTraceStop (fn : Fn) (s : State) : Out :=
  withCmd s fn 12 3 fun c s =>
    let x := s.ses fn
    let release := bitOf (c.u8 0) 0
    if 1 < c.u8 0 then finishSt s fn c.id 0x0005
    else if x.state = .running || x.state = .full then
      let y := if x.state = .running then closeStream s x else x
      stopOn (begun (s.setSes fn { y with stopping := some (fn, c.id, release) }) fn c.id) fn
    else
      let t := finishOk s fn c.id (le 8 x.written.toNat ++ le 8 x.lost.toNat)
      if release then clearSession t fn 0 0 else t

/-- TRACE_AUTHORISE (R815, R833). -/
def execTraceAuthorise (fn : Fn) (s : State) : Out :=
  withCmd s fn 12 4 fun c s =>
    let duration := c.u32 8
    if 16 < c.u8 0 || c.u8 1 ≠ 0 || 0xFF < c.u16 4 || c.u16 6 ≠ 0 || duration = 0 || 86400 < duration then finishSt s fn c.id 0x0005
    else
      match (List.range 32).find? (fun i => (tfind s.trace.grants i).isNone) with
      | none => finishSt s fn c.id 0x000A
      | some id =>
        let g : TraceGrant := { requester := c.u8 0, scope := c.u16 2, sources := c.u16 4, expiry := s.time + BitVec.ofNat 64 (1000000000 * duration) }
        let t := { s with trace := { s.trace with grants := tset s.trace.grants id g } }
        finishOk (grantEvent t id 0 g) fn c.id (le 8 id ++ le 8 g.expiry.toNat)

/-- TRACE_REVOKE (R815, R833). -/
def execTraceRevoke (fn : Fn) (s : State) : Out :=
  withCmd s fn 12 5 fun c s =>
    if (tfind s.trace.grants (c.u8 0)).isNone then finishSt s fn c.id 0x0005
    else finishOk (endGrant s (c.u8 0) 1) fn c.id []

/-- TRACE_GRANT_EXPIRY (R815, R833). -/
def execTraceGrantExpiry (id : Fin 32) (s : State) : Out :=
  match tfind s.trace.grants id with
  | none => .next s
  | some g => if g.expiry ≤ s.time then .next (endGrant s id 2) else .next s

/-- A held branch outcome of partition `p` is 4,096 lc old (R828). -/
def branchDue (s : State) (x : Session) (p : Nat) : Bool :=
  match tfind x.branches p with
  | none => false
  | some (_, first, _) => first + 4096 ≤ s.trace.lc

/-- BRANCH_BUFFER_TIMEOUT (R828). -/
def execBranchBufferTimeout (fn : Fn) (p : Fin 16) (s : State) : Out :=
  let x := s.ses fn
  if x.state = .running && x.stopping.isNone && branchDue s x p then .next (s.setSes fn (flushBr s x p)) else .next s

/-- TRACE_OVERFLOW_RECOVERY (R819, R822, R829). -/
def execTraceOverflowRecovery (fn : Fn) (s : State) : Out := .next (overflowEnd s fn)

end Sys2Proof.Machine
end

