-- ==== Sys2Proof/Machine/Update.lean ====
section
/-! DEFINITION. The live update of Hazel and of the companion's firmware (R85–R88, R225–R232). -/

namespace Sys2Proof.Machine

/-- Response of SYS.UPDATE (R222). -/
def updatePayload (old new : W32) (result : Nat) (done same : Bool) : List Byte :=
  le 4 old.toNat ++ le 4 new.toNat ++ le 4 result ++ le 4 (b2n done + 2 * b2n same)

/-- The image that SYS.UPDATE names, read for the checks of R149: none where the host buffer cannot be read. -/
def updateImage (s : State) (fn : Nat) (c : Consumed) (buf : Option (List Byte)) : Option (Nat → Nat → List Byte) :=
  if c.u32 0 = 2 then (hostBuf s fn buf).map (fun b o n => bytesAt ((bytesAt b 0 (c.u32 8)).drop o) 0 n)
  else some (fun o n => flashRead s (slotBase (c.u32 0) + o) n)

/-- The companion's firmware begins to be replaced (R85–R87, R232). -/
def startCompanion (s : State) (d : List Byte) : State :=
  { s with comp := { s.comp with updating := true, newFw := d }, host := { s.host with upd := { s.host.upd with phase := 3 } } }

/-- SYS_UPDATE (R225–R228): the checks, then UPDATE_PENDING for a Hazel part, or the companion part alone. (DEDUCED: log entries 20, 25.) -/
def execSysUpdate (fn : Fn) (buf : Option (List Byte)) (s : State) : Out :=
  match startable s fn 1 3 with
  | none => .next s
  | some c =>
    let parts := c.u32 4
    if 2 < c.u32 0 || 3 < parts || c.u32 12 ≠ 0 then nextN s (finishSt s fn c.id 0x0005)
    else if s.host.upd.phase ≠ 0 then nextN s (finishSt s fn c.id 0x0009)
    else
      let t := accept s fn c.id
      let old := s.boot.fwVersion
      match updateImage t fn c buf with
      | none => nextN s (workDone t fn c.id ⟨0x000C, 0, []⟩)
      | some get =>
        let h := get 0 0x500
        let new : W32 := BitVec.ofNat 32 (rd 4 h 12)
        let code := imageCheck get
        if code ≠ 0 then nextN s (workDone t fn c.id ⟨0x0102, code, updatePayload old new code false false⟩)
        else
          let sec := (sectNamed h 2).filter (fun _ => bitOf parts 1)
          let same := sec.any (fun x => x.digest = s.comp.fw.getD Config.companionFw)
          let d := if same then none else sec.map (fun x => x.digest)
          let u : State := { t with host := { t.host with upd :=
            { Update.init with fn := fn, cmdId := c.id, oldVersion := old, newVersion := new, companion := d, companionSame := same } } }
          if bitOf parts 0 then
            let v : State := { u with host := { u.host with upd := { u.host.upd with phase := 1 } } }
            nextN s (eventAll v 0x0004 (le 4 25000 ++ le 4 new.toNat))
          else match d with
            | some d => nextN s (startCompanion u d)
            | none => nextN s (workDone t fn c.id ⟨0, 0, updatePayload old old 0 false same⟩)

/-- A command meets the switch (R229): DETAIL 0 where nothing has been done, 2 where an engine goes on with it. (DEDUCED: log entry 25.) -/
def cutShort (s : State) (fn : Nat) (c : Consumed) : State :=
  let queued := s.boot.jobs.any (fun j => j.id = c.id && j.fn = fn && j.id ≠ 0)
  if !c.started || queued then
    endCmd { s with boot := { s.boot with jobs := s.boot.jobs.filter (fun j => j.id = 0 || !(j.id = c.id && j.fn = fn)) } } fn c ⟨0x000D, 0, []⟩
  else if c.orphan then s
  else modCmd (postRsp s fn false c ⟨0x000D, 2, []⟩) fn c.id (fun x => { x with orphan := true, slots := 0 })

/-- UPDATE_SWITCH (R228–R230, R869): every other command is answered, and Hazel consumes no request. (DEDUCED: log entry 25.) -/
def execUpdateSwitch (s : State) : Out :=
  let u := s.host.upd
  if u.phase ≠ 1 then .next s
  else
    let t := forFns s (List.range 17) (fun t fn =>
      (t.mb fn).consumed.foldl (fun t c => if fn = u.fn && c.id = u.cmdId then t else cutShort t fn c) t)
    nextN s (noteStatusAll s { t with host := { t.host with upd := { u with phase := 2, held := filledNow t } } })

/-- UPDATE_DONE on every registered event ring (R231, R232). (DEDUCED: log entry 25.) -/
def updateDone (s : State) (status : Nat) : State :=
  forFns s ((List.range 17).filter (fun fn => (s.mb fn).enabled)) (fun t fn =>
    raiseAt t fn { partition := 255, code := 0x0005, tag := 0, time := s.time
                   payload := fields 40 [(0, le 4 s.boot.fwVersion.toNat), (4, le 2 status)] })

/-- UPDATE_SELFCHECK_PASS (R225, R232): the new firmware serves mailboxes, and the companion part follows. -/
def execUpdateSelfcheckPass (s : State) : Out :=
  let u := s.host.upd
  if u.phase ≠ 2 then .next s
  else
    let t := updateDone { s with
      boot := { s.boot with fwVersion := u.newVersion }, host := { s.host with upd := { u with phase := 0, held := [] } } } 0
    let v := match u.companion with
      | some d => startCompanion t d
      | none => workDone t u.fn u.cmdId ⟨0, 0, updatePayload u.oldVersion u.newVersion 0 false u.companionSame⟩
    nextN s (noteStatusAll s v)

/-- UPDATE_SELFCHECK_TIMEOUT (R231): the previous firmware serves mailboxes again. (DEDUCED: log entry 25.) -/
def execUpdateSelfcheckTimeout (s : State) : Out :=
  let u := s.host.upd
  if u.phase ≠ 2 then .next s
  else
    let t := updateDone { s with host := { s.host with upd := Update.init } } 0x0103
    nextN s (noteStatusAll s (workDone t u.fn u.cmdId ⟨0x0103, 0, updatePayload u.oldVersion u.newVersion 0 false false⟩))

/-- COMPANION_UPDATE_END (R85–R88, R232): the companion runs the new firmware, or goes on with the previous one. (DEDUCED: log entry 25.) -/
def execCompanionUpdateEnd (pass : Bool) (s : State) : Out :=
  if !s.comp.updating then .next s
  else
    let u := s.host.upd
    let c := { s.comp with updating := false, fw := if pass then some s.comp.newFw else s.comp.fw, newFw := [] }
    let t := cpRaise { s with comp := c } 0x2000
    if u.phase ≠ 3 then .next t
    else
      .next (workDone { t with host := { t.host with upd := Update.init } } u.fn u.cmdId
        ⟨if pass then 0 else 0x0103, 0, updatePayload u.oldVersion s.boot.fwVersion 0 pass false⟩)

end Sys2Proof.Machine
end

