-- ==== Sys2Proof/Machine/Dispatch.lean ====
section
/-! DEFINITION. The meaning of every command, one arm for each constructor. -/

namespace Sys2Proof.Machine

/-- The effect of a command on everything but the queue. -/
def exec (i : Instr) (s : State) : Host.Outcome State Fault Refusal :=
  match i with
  | .rlLowHalfRead fn off bytes => Sys2Proof.Machine.execRlLowHalfRead fn off bytes s
  | .rcFieldRead fn off bytes => Sys2Proof.Machine.execRcFieldRead fn off bytes s
  | .registerWrite fn off bytes value => Sys2Proof.Machine.execRegisterWrite fn off bytes value s
  | .feedQualify f vin => Sys2Proof.Machine.execFeedQualify f vin s
  | .qualifyWindowExpiry f => Sys2Proof.Machine.execQualifyWindowExpiry f s
  | .vinOutOfWindow f vin => Sys2Proof.Machine.execVinOutOfWindow f vin s
  | .feedPowerGood f node vin => Sys2Proof.Machine.execFeedPowerGood f node vin s
  | .rampTimeout f => Sys2Proof.Machine.execRampTimeout f s
  | .vinUvFall f vin => Sys2Proof.Machine.execVinUvFall f vin s
  | .ovTrip f vin fast => Sys2Proof.Machine.execOvTrip f vin fast s
  | .ocTimerTrip f iin => Sys2Proof.Machine.execOcTimerTrip f iin s
  | .ocFastTrip f iin => Sys2Proof.Machine.execOcFastTrip f iin s
  | .ocWarn f iin => Sys2Proof.Machine.execOcWarn f iin s
  | .retryTimerExpiry who => Sys2Proof.Machine.execRetryTimerExpiry who s
  | .retryCountRestore f => Sys2Proof.Machine.execRetryCountRestore f s
  | .inrushSlewAdjust f slew => Sys2Proof.Machine.execInrushSlewAdjust f slew s
  | .reverseCurrentTrip f iin => Sys2Proof.Machine.execReverseCurrentTrip f iin s
  | .oringModeApply => Sys2Proof.Machine.execOringModeApply s
  | .slotOnRequest bay => Sys2Proof.Machine.execSlotOnRequest bay s
  | .slotOffRequest bay => Sys2Proof.Machine.execSlotOffRequest bay s
  | .bayRampStart => Sys2Proof.Machine.execBayRampStart s
  | .bayPowerGood bay => Sys2Proof.Machine.execBayPowerGood bay s
  | .bayRampTimeout bay => Sys2Proof.Machine.execBayRampTimeout bay s
  | .bayOvercurrentTrip bay => Sys2Proof.Machine.execBayOvercurrentTrip bay s
  | .bayDischarged bay => Sys2Proof.Machine.execBayDischarged bay s
  | .auxLoss => Sys2Proof.Machine.execAuxLoss s
  | .companionStart addr => Sys2Proof.Machine.execCompanionStart addr s
  | .dieRstoutFall cut => Sys2Proof.Machine.execDieRstoutFall cut s
  | .dieRstoutRise => Sys2Proof.Machine.execDieRstoutRise s
  | .wakeInRecognised => Sys2Proof.Machine.execWakeInRecognised s
  | .errlogCommit => Sys2Proof.Machine.execErrlogCommit s
  | .companionSpiRead addr count => Sys2Proof.Machine.execCompanionSpiRead addr count s
  | .companionSpiWrite addr data crcGood => Sys2Proof.Machine.execCompanionSpiWrite addr data crcGood s
  | .vregRequest mv seq => Sys2Proof.Machine.execVregRequest mv seq s
  | .vregSettled vout => Sys2Proof.Machine.execVregSettled vout s
  | .regFaultDetected noAck statusWord => Sys2Proof.Machine.execRegFaultDetected noAck statusWord s
  | .telemetryRefresh t => Sys2Proof.Machine.execTelemetryRefresh t s
  | .fastcapThresholdReload => Sys2Proof.Machine.execFastcapThresholdReload s
  | .fastcapAssert iinA iinB => Sys2Proof.Machine.execFastcapAssert iinA iinB s
  | .fastcapRelease iinA iinB => Sys2Proof.Machine.execFastcapRelease iinA iinB s
  | .companionIrq => Sys2Proof.Machine.execCompanionIrq s
  | .pmPage a => Sys2Proof.Machine.execPmPage a s
  | .pmOperation a => Sys2Proof.Machine.execPmOperation a s
  | .pmOnOffConfig a => Sys2Proof.Machine.execPmOnOffConfig a s
  | .pmClearFaults a => Sys2Proof.Machine.execPmClearFaults a s
  | .pmWriteProtect a => Sys2Proof.Machine.execPmWriteProtect a s
  | .pmCapability a => Sys2Proof.Machine.execPmCapability a s
  | .pmVinOvFaultLimit a => Sys2Proof.Machine.execPmVinOvFaultLimit a s
  | .pmVinUvFaultLimit a => Sys2Proof.Machine.execPmVinUvFaultLimit a s
  | .pmIinOcFaultLimit a => Sys2Proof.Machine.execPmIinOcFaultLimit a s
  | .pmIinOcWarnLimit a => Sys2Proof.Machine.execPmIinOcWarnLimit a s
  | .pmStatusByte a => Sys2Proof.Machine.execPmStatusByte a s
  | .pmStatusWord a => Sys2Proof.Machine.execPmStatusWord a s
  | .pmStatusInput a => Sys2Proof.Machine.execPmStatusInput a s
  | .pmStatusTemperature a => Sys2Proof.Machine.execPmStatusTemperature a s
  | .pmStatusCml a => Sys2Proof.Machine.execPmStatusCml a s
  | .pmStatusMfrSpecific a => Sys2Proof.Machine.execPmStatusMfrSpecific a s
  | .pmReadEin a => Sys2Proof.Machine.execPmReadEin a s
  | .pmReadVin a => Sys2Proof.Machine.execPmReadVin a s
  | .pmReadIin a => Sys2Proof.Machine.execPmReadIin a s
  | .pmReadTemperature1 a => Sys2Proof.Machine.execPmReadTemperature1 a s
  | .pmReadTemperature2 a => Sys2Proof.Machine.execPmReadTemperature2 a s
  | .pmReadPin a => Sys2Proof.Machine.execPmReadPin a s
  | .pmPmbusRevision a => Sys2Proof.Machine.execPmPmbusRevision a s
  | .pmMfrId a => Sys2Proof.Machine.execPmMfrId a s
  | .pmMfrModel a => Sys2Proof.Machine.execPmMfrModel a s
  | .pmMfrRevision a => Sys2Proof.Machine.execPmMfrRevision a s
  | .pmMfrSerial a => Sys2Proof.Machine.execPmMfrSerial a s
  | .pmMfrRackBudget a => Sys2Proof.Machine.execPmMfrRackBudget a s
  | .pmMfrFloorShare a => Sys2Proof.Machine.execPmMfrFloorShare a s
  | .pmMfrModuleCap a => Sys2Proof.Machine.execPmMfrModuleCap a s
  | .pmMfrDemand a => Sys2Proof.Machine.execPmMfrDemand a s
  | .pmMfrSteward a => Sys2Proof.Machine.execPmMfrSteward a s
  | .pmMfrOringMode a => Sys2Proof.Machine.execPmMfrOringMode a s
  | .pmMfrInrushSlew a => Sys2Proof.Machine.execPmMfrInrushSlew a s
  | .pmMfrBreakerTime a => Sys2Proof.Machine.execPmMfrBreakerTime a s
  | .pmMfrRetryPolicy a => Sys2Proof.Machine.execPmMfrRetryPolicy a s
  | .pmMfrResetCount a => Sys2Proof.Machine.execPmMfrResetCount a s
  | .pmMfrLastResetCause a => Sys2Proof.Machine.execPmMfrLastResetCause a s
  | .pmMfrFastcapLimit a => Sys2Proof.Machine.execPmMfrFastcapLimit a s
  | .companionUpdateEnd pass => Sys2Proof.Machine.execCompanionUpdateEnd pass s
  | .pllLockAchieved => Sys2Proof.Machine.execPllLockAchieved s
  | .clockLossDetected pll => Sys2Proof.Machine.execClockLossDetected pll s
  | .fclkDividerChange => Sys2Proof.Machine.execFclkDividerChange s
  | .droopStretchStart => Sys2Proof.Machine.execDroopStretchStart s
  | .droopStretchEnd => Sys2Proof.Machine.execDroopStretchEnd s
  | .droopHold => Sys2Proof.Machine.execDroopHold s
  | .droopHoldExpiry => Sys2Proof.Machine.execDroopHoldExpiry s
  | .powerOnReset => Sys2Proof.Machine.execPowerOnReset s
  | .coldReset lowNs taken => Sys2Proof.Machine.execColdReset lowNs taken s
  | .perstDeassert => Sys2Proof.Machine.execPerstDeassert s
  | .hotReset => Sys2Proof.Machine.execHotReset s
  | .warmReset srFail => Sys2Proof.Machine.execWarmReset srFail s
  | .watchdogExpiry srFail => Sys2Proof.Machine.execWatchdogExpiry srFail s
  | .thermalTrip sensor peak srFail => Sys2Proof.Machine.execThermalTrip sensor peak srFail s
  | .thermalHoldEnd => Sys2Proof.Machine.execThermalHoldEnd s
  | .flrPf0 => Sys2Proof.Machine.execFlrPf0 s
  | .flrVf vf => Sys2Proof.Machine.execFlrVf vf s
  | .secondaryBusReset dp => Sys2Proof.Machine.execSecondaryBusReset dp s
  | .resetReleasePhase1 goldWe dpw flash => Sys2Proof.Machine.execResetReleasePhase1 goldWe dpw flash s
  | .cellZeroingDone rg => Sys2Proof.Machine.execCellZeroingDone rg s
  | .configRequest target q => Sys2Proof.Machine.execConfigRequest target q s
  | .wdogStreakClear => Sys2Proof.Machine.execWdogStreakClear s
  | .flashReadTimeout => Sys2Proof.Machine.execFlashReadTimeout s
  | .pllLock => Sys2Proof.Machine.execPllLock s
  | .outputRelease => Sys2Proof.Machine.execOutputRelease s
  | .srRelease bad => Sys2Proof.Machine.execSrRelease bad s
  | .writeEnable => Sys2Proof.Machine.execWriteEnable s
  | .sectionDeployment => Sys2Proof.Machine.execSectionDeployment s
  | .moduleReady => Sys2Proof.Machine.execModuleReady s
  | .doneHigh => Sys2Proof.Machine.execDoneHigh s
  | .doneTimeout => Sys2Proof.Machine.execDoneTimeout s
  | .flashErase fn failAt => Sys2Proof.Machine.execFlashErase fn failAt s
  | .flashProgram fn buf failAt => Sys2Proof.Machine.execFlashProgram fn buf failAt s
  | .flashRead fn => Sys2Proof.Machine.execFlashRead fn s
  | .flashVerifyCrc fn => Sys2Proof.Machine.execFlashVerifyCrc fn s
  | .flashVerifyCompare fn buf => Sys2Proof.Machine.execFlashVerifyCompare fn buf s
  | .flashVerifyImage fn => Sys2Proof.Machine.execFlashVerifyImage fn s
  | .flashUnlock fn => Sys2Proof.Machine.execFlashUnlock fn s
  | .flashLock fn => Sys2Proof.Machine.execFlashLock fn s
  | .goldenUnlockExpiry => Sys2Proof.Machine.execGoldenUnlockExpiry s
  | .mailboxEnable fn => Sys2Proof.Machine.execMailboxEnable fn s
  | .mailboxDisable fn => Sys2Proof.Machine.execMailboxDisable fn s
  | .mailboxStopped fn => Sys2Proof.Machine.execMailboxStopped fn s
  | .requestDoorbell fn pi => Sys2Proof.Machine.execRequestDoorbell fn pi s
  | .requestConsume fn r => Sys2Proof.Machine.execRequestConsume fn r s
  | .responseCiWrite fn ci => Sys2Proof.Machine.execResponseCiWrite fn ci s
  | .eventCiWrite fn ci => Sys2Proof.Machine.execEventCiWrite fn ci s
  | .pendingEventPost fn => Sys2Proof.Machine.execPendingEventPost fn s
  | .ringAccessFail fn => Sys2Proof.Machine.execRingAccessFail fn s
  | .interruptHoldoffExpiry fn evt => Sys2Proof.Machine.execInterruptHoldoffExpiry fn evt s
  | .progressReport fn id unitsDone unitsTotal => Sys2Proof.Machine.execProgressReport fn id unitsDone unitsTotal s
  | .longCommandComplete fn id => Sys2Proof.Machine.execLongCommandComplete fn id s
  | .sysInfo fn => Sys2Proof.Machine.execSysInfo fn s
  | .sysReset fn => Sys2Proof.Machine.execSysReset fn s
  | .sysUpdate fn buf => Sys2Proof.Machine.execSysUpdate fn buf s
  | .sysEventMask fn => Sys2Proof.Machine.execSysEventMask fn s
  | .sysEcho fn => Sys2Proof.Machine.execSysEcho fn s
  | .updateSwitch => Sys2Proof.Machine.execUpdateSwitch s
  | .updateSelfcheckPass => Sys2Proof.Machine.execUpdateSelfcheckPass s
  | .updateSelfcheckTimeout => Sys2Proof.Machine.execUpdateSelfcheckTimeout s
  | .regionQuery fn => Sys2Proof.Machine.execRegionQuery fn s
  | .regionApplyMap fn flashOk => Sys2Proof.Machine.execRegionApplyMap fn flashOk s
  | .podQuarantine fn => Sys2Proof.Machine.execPodQuarantine fn s
  | .podReturn fn failTest => Sys2Proof.Machine.execPodReturn fn failTest s
  | .mapStoreWriteComplete rg => Sys2Proof.Machine.execMapStoreWriteComplete rg s
  | .cellRead pod m addr => Sys2Proof.Machine.execCellRead pod m addr s
  | .cellWrite pod m addr => Sys2Proof.Machine.execCellWrite pod m addr s
  | .eccWriteBack pod m addr => Sys2Proof.Machine.execEccWriteBack pod m addr s
  | .macNew pod bank row half => Sys2Proof.Machine.execMacNew pod bank row half s
  | .macAcc pod bank row half => Sys2Proof.Machine.execMacAcc pod bank row half s
  | .matClear pod bank => Sys2Proof.Machine.execMatClear pod bank s
  | .wload pod row half => Sys2Proof.Machine.execWload pod row half s
  | .wswap pod => Sys2Proof.Machine.execWswap pod s
  | .matDrain pod bank row => Sys2Proof.Machine.execMatDrain pod bank row s
  | .vNop pod v => Sys2Proof.Machine.execVNop pod v s
  | .vAdd pod v => Sys2Proof.Machine.execVAdd pod v s
  | .vSub pod v => Sys2Proof.Machine.execVSub pod v s
  | .vMul pod v => Sys2Proof.Machine.execVMul pod v s
  | .vFma pod v => Sys2Proof.Machine.execVFma pod v s
  | .vFms pod v => Sys2Proof.Machine.execVFms pod v s
  | .vMax pod v => Sys2Proof.Machine.execVMax pod v s
  | .vMin pod v => Sys2Proof.Machine.execVMin pod v s
  | .vAbs pod v => Sys2Proof.Machine.execVAbs pod v s
  | .vScaleb pod v => Sys2Proof.Machine.execVScaleb pod v s
  | .vAnd pod v => Sys2Proof.Machine.execVAnd pod v s
  | .vOr pod v => Sys2Proof.Machine.execVOr pod v s
  | .vXor pod v => Sys2Proof.Machine.execVXor pod v s
  | .vShl pod v => Sys2Proof.Machine.execVShl pod v s
  | .vShr pod v => Sys2Proof.Machine.execVShr pod v s
  | .vSra pod v => Sys2Proof.Machine.execVSra pod v s
  | .vMovi pod v => Sys2Proof.Machine.execVMovi pod v s
  | .vSplat pod v => Sys2Proof.Machine.execVSplat pod v s
  | .vCmp pod v => Sys2Proof.Machine.execVCmp pod v s
  | .vSel pod v => Sys2Proof.Machine.execVSel pod v s
  | .vCvt pod v => Sys2Proof.Machine.execVCvt pod v s
  | .vUnpack pod v => Sys2Proof.Machine.execVUnpack pod v s
  | .vRsum pod v => Sys2Proof.Machine.execVRsum pod v s
  | .vRmax pod v => Sys2Proof.Machine.execVRmax pod v s
  | .vRmin pod v => Sys2Proof.Machine.execVRmin pod v s
  | .vRargmax pod v => Sys2Proof.Machine.execVRargmax pod v s
  | .vExp2 pod v => Sys2Proof.Machine.execVExp2 pod v s
  | .vLog2 pod v => Sys2Proof.Machine.execVLog2 pod v s
  | .vRcp pod v => Sys2Proof.Machine.execVRcp pod v s
  | .vRsqrt pod v => Sys2Proof.Machine.execVRsqrt pod v s
  | .vTanh pod v => Sys2Proof.Machine.execVTanh pod v s
  | .vErf pod v => Sys2Proof.Machine.execVErf pod v s
  | .vPerm pod v => Sys2Proof.Machine.execVPerm pod v s
  | .vRot pod v => Sys2Proof.Machine.execVRot pod v s
  | .vFunnel pod v => Sys2Proof.Machine.execVFunnel pod v s
  | .vZip pod v => Sys2Proof.Machine.execVZip pod v s
  | .vUnzip pod v => Sys2Proof.Machine.execVUnzip pod v s
  | .vRecv pod v => Sys2Proof.Machine.execVRecv pod v s
  | .vSend pod v => Sys2Proof.Machine.execVSend pod v s
  | .vEmit pod v => Sys2Proof.Machine.execVEmit pod v s
  | .sequencerStepIssue pod cell => Sys2Proof.Machine.execSequencerStepIssue pod cell s
  | .awaitStallEnd p => Sys2Proof.Machine.execAwaitStallEnd p s
  | .naturalFold p => Sys2Proof.Machine.execNaturalFold p s
  | .decisionPoint p => Sys2Proof.Machine.execDecisionPoint p s
  | .decideStallEnd p => Sys2Proof.Machine.execDecideStallEnd p s
  | .foldWaitEnd p => Sys2Proof.Machine.execFoldWaitEnd p s
  | .steerDelivery p => Sys2Proof.Machine.execSteerDelivery p s
  | .summaryArrival p => Sys2Proof.Machine.execSummaryArrival p s
  | .sproutInstruction rg => Sys2Proof.Machine.execSproutInstruction rg s
  | .spSteer rg w => Sys2Proof.Machine.execSpSteer rg w s
  | .spSteerUnblock rg => Sys2Proof.Machine.execSpSteerUnblock rg s
  | .spInboxLo rg rd => Sys2Proof.Machine.execSpInboxLo rg rd s
  | .spInboxCtrl rg v => Sys2Proof.Machine.execSpInboxCtrl rg v s
  | .spSchedFcLo rg rd => Sys2Proof.Machine.execSpSchedFcLo rg rd s
  | .wfiWake rg => Sys2Proof.Machine.execWfiWake rg s
  | .imageStage fn buf => Sys2Proof.Machine.execImageStage fn buf s
  | .imageCheck fn => Sys2Proof.Machine.execImageCheck fn s
  | .imageDrop fn => Sys2Proof.Machine.execImageDrop fn s
  | .partLoad fn => Sys2Proof.Machine.execPartLoad fn s
  | .partLoadCancel fn => Sys2Proof.Machine.execPartLoadCancel fn s
  | .partStart fn => Sys2Proof.Machine.execPartStart fn s
  | .partAbort fn => Sys2Proof.Machine.execPartAbort fn s
  | .slotShiftStart p => Sys2Proof.Machine.execSlotShiftStart p s
  | .slotShiftComplete p first second => Sys2Proof.Machine.execSlotShiftComplete p first second s
  | .moverScheduleIssue p k => Sys2Proof.Machine.execMoverScheduleIssue p k s
  | .partCreate fn => Sys2Proof.Machine.execPartCreate fn s
  | .partDestroy fn => Sys2Proof.Machine.execPartDestroy fn s
  | .partAssign fn => Sys2Proof.Machine.execPartAssign fn s
  | .partQuery fn => Sys2Proof.Machine.execPartQuery fn s
  | .partSetShare fn => Sys2Proof.Machine.execPartSetShare fn s
  | .partSave fn => Sys2Proof.Machine.execPartSave fn s
  | .partResume fn => Sys2Proof.Machine.execPartResume fn s
  | .partReset fn => Sys2Proof.Machine.execPartReset fn s
  | .partPowerOff fn => Sys2Proof.Machine.execPartPowerOff fn s
  | .partPowerOn fn => Sys2Proof.Machine.execPartPowerOn fn s
  | .memWindowGrant fn => Sys2Proof.Machine.execMemWindowGrant fn s
  | .memWindowRevoke fn => Sys2Proof.Machine.execMemWindowRevoke fn s
  | .windowZeroingComplete unit => Sys2Proof.Machine.execWindowZeroingComplete unit s
  | .drainWindowExpiry p => Sys2Proof.Machine.execDrainWindowExpiry p s
  | .fenceStuck fence => Sys2Proof.Machine.execFenceStuck fence s
  | .regulatorRefillTick => Sys2Proof.Machine.execRegulatorRefillTick s
  | .engineSegmentComplete e buf => Sys2Proof.Machine.execEngineSegmentComplete e buf s
  | .chanOpen fn => Sys2Proof.Machine.execChanOpen fn s
  | .chanClose fn => Sys2Proof.Machine.execChanClose fn s
  | .chanQuery fn => Sys2Proof.Machine.execChanQuery fn s
  | .pairRecordRepeat chan => Sys2Proof.Machine.execPairRecordRepeat chan s
  | .pairRecordReceive m => Sys2Proof.Machine.execPairRecordReceive m s
  | .messageRecordReceive m => Sys2Proof.Machine.execMessageRecordReceive m s
  | .creditRecordReceive m => Sys2Proof.Machine.execCreditRecordReceive m s
  | .nackFullReceive m => Sys2Proof.Machine.execNackFullReceive m s
  | .closeRecordReceive m => Sys2Proof.Machine.execCloseRecordReceive m s
  | .chTxSend fn port value => Sys2Proof.Machine.execChTxSend fn port value s
  | .chRxPop fn port => Sys2Proof.Machine.execChRxPop fn port s
  | .chNackPop fn => Sys2Proof.Machine.execChNackPop fn s
  | .spChSend rg value => Sys2Proof.Machine.execSpChSend rg value s
  | .spChSendUnblock rg => Sys2Proof.Machine.execSpChSendUnblock rg s
  | .spChRx rg rd => Sys2Proof.Machine.execSpChRx rg rd s
  | .spChNack rg rd => Sys2Proof.Machine.execSpChNack rg rd s
  | .messageDelivery chan => Sys2Proof.Machine.execMessageDelivery chan s
  | .creditReturn chan => Sys2Proof.Machine.execCreditReturn chan s
  | .msgRecordTransmit port => Sys2Proof.Machine.execMsgRecordTransmit port s
  | .creditRecordTimer chan => Sys2Proof.Machine.execCreditRecordTimer chan s
  | .channelRouteTimeout chan => Sys2Proof.Machine.execChannelRouteTimeout chan s
  | .msgGapTimeout chan => Sys2Proof.Machine.execMsgGapTimeout chan s
  | .memCopy fn => Sys2Proof.Machine.execMemCopy fn s
  | .memFill fn => Sys2Proof.Machine.execMemFill fn s
  | .memQuery fn => Sys2Proof.Machine.execMemQuery fn s
  | .moverCopy job => Sys2Proof.Machine.execMoverCopy job s
  | .moverFill job => Sys2Proof.Machine.execMoverFill job s
  | .moverDescriptorComplete job => Sys2Proof.Machine.execMoverDescriptorComplete job s
  | .moverDescriptorFail job => Sys2Proof.Machine.execMoverDescriptorFail job s
  | .patrolScrub word => Sys2Proof.Machine.execPatrolScrub word s
  | .copyOnWrite part addr data poison => Sys2Proof.Machine.execCopyOnWrite part addr data poison s
  | .cowCopyComplete entry => Sys2Proof.Machine.execCowCopyComplete entry s
  | .reserveEntryFreed entry => Sys2Proof.Machine.execReserveEntryFreed entry s
  | .embTableCreate fn => Sys2Proof.Machine.execEmbTableCreate fn s
  | .embTableDestroy fn => Sys2Proof.Machine.execEmbTableDestroy fn s
  | .embCounters fn => Sys2Proof.Machine.execEmbCounters fn s
  | .embMigrate fn => Sys2Proof.Machine.execEmbMigrate fn s
  | .embReplicateAdd fn => Sys2Proof.Machine.execEmbReplicateAdd fn s
  | .embReplicateRemove fn => Sys2Proof.Machine.execEmbReplicateRemove fn s
  | .embReplicateClear fn => Sys2Proof.Machine.execEmbReplicateClear fn s
  | .embGather job => Sys2Proof.Machine.execEmbGather job s
  | .embScatter job => Sys2Proof.Machine.execEmbScatter job s
  | .embStep job subs => Sys2Proof.Machine.execEmbStep job subs s
  | .bundleRequestReceive b => Sys2Proof.Machine.execBundleRequestReceive b s
  | .bundleReplyReceive b => Sys2Proof.Machine.execBundleReplyReceive b s
  | .bundleUpdateReceive b => Sys2Proof.Machine.execBundleUpdateReceive b s
  | .bundleUpdateAckReceive b => Sys2Proof.Machine.execBundleUpdateAckReceive b s
  | .bundleRowsPushReceive b => Sys2Proof.Machine.execBundleRowsPushReceive b s
  | .bundleBlockMoveReceive b => Sys2Proof.Machine.execBundleBlockMoveReceive b s
  | .embFenceTimeout p table => Sys2Proof.Machine.execEmbFenceTimeout p table s
  | .flitReceive port f crcGood => Sys2Proof.Machine.execFlitReceive port f crcGood s
  | .markerBlockReceive port m crcGood => Sys2Proof.Machine.execMarkerBlockReceive port m crcGood s
  | .laneEpochMarker port => Sys2Proof.Machine.execLaneEpochMarker port s
  | .laneFailure port lane => Sys2Proof.Machine.execLaneFailure port lane s
  | .laneSetApply port => Sys2Proof.Machine.execLaneSetApply port s
  | .laneRetrainComplete port lane ok => Sys2Proof.Machine.execLaneRetrainComplete port lane ok s
  | .bulkWriteReceive b => Sys2Proof.Machine.execBulkWriteReceive b s
  | .bulkEngineReceive b => Sys2Proof.Machine.execBulkEngineReceive b s
  | .bulkCompleteReceive xfer status => Sys2Proof.Machine.execBulkCompleteReceive xfer status s
  | .bulkCompleteTimeout xfer => Sys2Proof.Machine.execBulkCompleteTimeout xfer s
  | .helloTransmit port => Sys2Proof.Machine.execHelloTransmit port s
  | .helloReceive port id nport => Sys2Proof.Machine.execHelloReceive port id nport s
  | .timeRecordTransmit port => Sys2Proof.Machine.execTimeRecordTransmit port s
  | .timeRecordReceive port r => Sys2Proof.Machine.execTimeRecordReceive port r s
  | .timeMasterTimeout => Sys2Proof.Machine.execTimeMasterTimeout s
  | .barrierArrive r => Sys2Proof.Machine.execBarrierArrive r s
  | .barrierRelease r => Sys2Proof.Machine.execBarrierRelease r s
  | .transitForward port vc cls b => Sys2Proof.Machine.execTransitForward port vc cls b s
  | .portTrainingComplete port tx rx => Sys2Proof.Machine.execPortTrainingComplete port tx rx s
  | .portRetryTimer port => Sys2Proof.Machine.execPortRetryTimer port s
  | .portLoss port reset => Sys2Proof.Machine.execPortLoss port reset s
  | .linkQuery fn => Sys2Proof.Machine.execLinkQuery fn s
  | .linkTrain fn => Sys2Proof.Machine.execLinkTrain fn s
  | .linkReset fn => Sys2Proof.Machine.execLinkReset fn s
  | .routeSetRoutingImage fn buf => Sys2Proof.Machine.execRouteSetRoutingImage fn buf s
  | .routeSetPeerTable fn buf => Sys2Proof.Machine.execRouteSetPeerTable fn buf s
  | .linkCollective fn => Sys2Proof.Machine.execLinkCollective fn s
  | .collectiveStepComplete p key => Sys2Proof.Machine.execCollectiveStepComplete p key s
  | .collectiveTimeoutExpiry p key => Sys2Proof.Machine.execCollectiveTimeoutExpiry p key s
  | .tlpForward ingress arrive crcGood credit => Sys2Proof.Machine.execTlpForward ingress arrive crcGood credit s
  | .powerControllerControlWrite dp off => Sys2Proof.Machine.execPowerControllerControlWrite dp off s
  | .presenceChange dp present => Sys2Proof.Machine.execPresenceChange dp present s
  | .driveSurpriseRemoval dp => Sys2Proof.Machine.execDriveSurpriseRemoval dp s
  | .dpPerstRelease dp => Sys2Proof.Machine.execDpPerstRelease dp s
  | .downstreamLinkUp dp speed width flit suitable => Sys2Proof.Machine.execDownstreamLinkUp dp speed width flit suitable s
  | .nvmeCompletionReceive dp cid nvme dw0 dw1 info => Sys2Proof.Machine.execNvmeCompletionReceive dp cid nvme dw0 dw1 info s
  | .clkreqAssert dp => Sys2Proof.Machine.execClkreqAssert dp s
  | .driveIdleTimeout dp => Sys2Proof.Machine.execDriveIdleTimeout dp s
  | .driveWake dp => Sys2Proof.Machine.execDriveWake dp s
  | .driveWakeTimeout dp => Sys2Proof.Machine.execDriveWakeTimeout dp s
  | .nvmeCommandTimeout dp cid => Sys2Proof.Machine.execNvmeCommandTimeout dp cid s
  | .driveMemoryRequest dp r who => Sys2Proof.Machine.execDriveMemoryRequest dp r who s
  | .dpcTrigger dp => Sys2Proof.Machine.execDpcTrigger dp s
  | .captiveLinkError dp correctable status => Sys2Proof.Machine.execCaptiveLinkError dp correctable status s
  | .hubQuery fn => Sys2Proof.Machine.execHubQuery fn s
  | .hubPortMode fn => Sys2Proof.Machine.execHubPortMode fn s
  | .hubSlotPowerOn fn => Sys2Proof.Machine.execHubSlotPowerOn fn s
  | .hubSlotPowerOff fn => Sys2Proof.Machine.execHubSlotPowerOff fn s
  | .hubNsAssign fn => Sys2Proof.Machine.execHubNsAssign fn s
  | .hubNvmeAdmin fn buf => Sys2Proof.Machine.execHubNvmeAdmin fn buf s
  | .huskConfig fn => Sys2Proof.Machine.execHuskConfig fn s
  | .huskSnap fn => Sys2Proof.Machine.execHuskSnap fn s
  | .huskQuery fn => Sys2Proof.Machine.execHuskQuery fn s
  | .huskFlip p => Sys2Proof.Machine.execHuskFlip p s
  | .huskPauseEnd p => Sys2Proof.Machine.execHuskPauseEnd p s
  | .snapWaitTimeout => Sys2Proof.Machine.execSnapWaitTimeout s
  | .drainSegmentIssue => Sys2Proof.Machine.execDrainSegmentIssue s
  | .snapOutcomeReceive src key outcome => Sys2Proof.Machine.execSnapOutcomeReceive src key outcome s
  | .systemWaitTimeout epoch => Sys2Proof.Machine.execSystemWaitTimeout epoch s
  | .volumeMount k info => Sys2Proof.Machine.execVolumeMount k info s
  | .huskVolumeFormatCreate fn => Sys2Proof.Machine.execHuskVolumeFormatCreate fn s
  | .huskVolumeFormatGuest fn => Sys2Proof.Machine.execHuskVolumeFormatGuest fn s
  | .huskVolumeFormatReplace fn => Sys2Proof.Machine.execHuskVolumeFormatReplace fn s
  | .huskVolumeFormatRelease fn => Sys2Proof.Machine.execHuskVolumeFormatRelease fn s
  | .huskCompact fn => Sys2Proof.Machine.execHuskCompact fn s
  | .huskRestore fn => Sys2Proof.Machine.execHuskRestore fn s
  | .restoreResume => Sys2Proof.Machine.execRestoreResume s
  | .buddyOpen src volume epoch n => Sys2Proof.Machine.execBuddyOpen src volume epoch n s
  | .buddyCommit src volume epoch n => Sys2Proof.Machine.execBuddyCommit src volume epoch n s
  | .buddyAck src volume epoch step status => Sys2Proof.Machine.execBuddyAck src volume epoch step status s
  | .buddyFetch src volume epoch key mask sysOnly => Sys2Proof.Machine.execBuddyFetch src volume epoch key mask sysOnly s
  | .buddyFetchDone src volume epoch sent status => Sys2Proof.Machine.execBuddyFetchDone src volume epoch sent status s
  | .buddyAckTimeout => Sys2Proof.Machine.execBuddyAckTimeout s
  | .buddyFetchTimeout => Sys2Proof.Machine.execBuddyFetchTimeout s
  | .powerQuery fn => Sys2Proof.Machine.execPowerQuery fn s
  | .powerStateSleep fn => Sys2Proof.Machine.execPowerStateSleep fn s
  | .powerStateDeep fn => Sys2Proof.Machine.execPowerStateDeep fn s
  | .powerStateOff fn => Sys2Proof.Machine.execPowerStateOff fn s
  | .powerCap fn => Sys2Proof.Machine.execPowerCap fn s
  | .powerBudgetConfig fn => Sys2Proof.Machine.execPowerBudgetConfig fn s
  | .powerRegionGateOn fn => Sys2Proof.Machine.execPowerRegionGateOn fn s
  | .powerRegionGateOff fn => Sys2Proof.Machine.execPowerRegionGateOff fn s
  | .powerEnergy fn => Sys2Proof.Machine.execPowerEnergy fn s
  | .regionClockUngate rg => Sys2Proof.Machine.execRegionClockUngate rg s
  | .pmeTurnOff => Sys2Proof.Machine.execPmeTurnOff s
  | .pmeWaitTimeout => Sys2Proof.Machine.execPmeWaitTimeout s
  | .offRailRemoval => Sys2Proof.Machine.execOffRailRemoval s
  | .hostAccessWake q => Sys2Proof.Machine.execHostAccessWake q s
  | .perstWake => Sys2Proof.Machine.execPerstWake s
  | .wakeTimerExpiry => Sys2Proof.Machine.execWakeTimerExpiry s
  | .companionFaultWake => Sys2Proof.Machine.execCompanionFaultWake s
  | .fclkCeilingEvaluation pFab mean => Sys2Proof.Machine.execFclkCeilingEvaluation pFab mean s
  | .thermalCeilingUpdate die hbm => Sys2Proof.Machine.execThermalCeilingUpdate die hbm s
  | .rackBudgetTake => Sys2Proof.Machine.execRackBudgetTake s
  | .budgetReceive src domain value stamp => Sys2Proof.Machine.execBudgetReceive src domain value stamp s
  | .demandTransmit pFab mean => Sys2Proof.Machine.execDemandTransmit pFab mean s
  | .demandReceive d => Sys2Proof.Machine.execDemandReceive d s
  | .grantCompute => Sys2Proof.Machine.execGrantCompute s
  | .grantReceive src g => Sys2Proof.Machine.execGrantReceive src g s
  | .grantRaiseApply => Sys2Proof.Machine.execGrantRaiseApply s
  | .grantSilenceTimeout => Sys2Proof.Machine.execGrantSilenceTimeout s
  | .energyAttribution slice => Sys2Proof.Machine.execEnergyAttribution slice s
  | .traceConfig fn => Sys2Proof.Machine.execTraceConfig fn s
  | .traceStart fn => Sys2Proof.Machine.execTraceStart fn s
  | .traceStop fn => Sys2Proof.Machine.execTraceStop fn s
  | .traceAuthorise fn => Sys2Proof.Machine.execTraceAuthorise fn s
  | .traceRevoke fn => Sys2Proof.Machine.execTraceRevoke fn s
  | .traceGrantExpiry id => Sys2Proof.Machine.execTraceGrantExpiry id s
  | .branchBufferTimeout fn p => Sys2Proof.Machine.execBranchBufferTimeout fn p s
  | .traceOverflowRecovery fn => Sys2Proof.Machine.execTraceOverflowRecovery fn s
  | .faultReadLog fn stopAt => Sys2Proof.Machine.execFaultReadLog fn stopAt s
  | .faultClear fn => Sys2Proof.Machine.execFaultClear fn s
  | .faultPolicy fn => Sys2Proof.Machine.execFaultPolicy fn s
  | .faultInjectRecord fn => Sys2Proof.Machine.execFaultInjectRecord fn s
  | .faultInjectCellEcc fn => Sys2Proof.Machine.execFaultInjectCellEcc fn s
  | .faultInjectHbmEcc fn => Sys2Proof.Machine.execFaultInjectHbmEcc fn s
  | .faultInjectLinkCrc fn => Sys2Proof.Machine.execFaultInjectLinkCrc fn s
  | .errlogCommitDrain => Sys2Proof.Machine.execErrlogCommitDrain s
  | .companionLogPoll => Sys2Proof.Machine.execCompanionLogPoll s
  | .errorRecordedHoldoff fn => Sys2Proof.Machine.execErrorRecordedHoldoff fn s
  | .poisonedTlpReceive fn ended => Sys2Proof.Machine.execPoisonedTlpReceive fn ended s
  | .hostCompletionTimeout fn ended => Sys2Proof.Machine.execHostCompletionTimeout fn ended s
  | .hzIntEnableWrite fn value => Sys2Proof.Machine.execHzIntEnableWrite fn value s
  | .hzResetReq fn value => Sys2Proof.Machine.execHzResetReq fn value s
  | .dieRailGood => Sys2Proof.Machine.execDieRailGood s
  | .dieRailTimeout => Sys2Proof.Machine.execDieRailTimeout s
  | .feedsLost => Sys2Proof.Machine.execFeedsLost s
  | .jtagBypass dev pins tdi => Sys2Proof.Machine.execJtagBypass dev pins tdi s
  | .jtagSamplePreload dev pins tdi => Sys2Proof.Machine.execJtagSamplePreload dev pins tdi s
  | .jtagExtest dev pins tdi => Sys2Proof.Machine.execJtagExtest dev pins tdi s
  | .jtagIdcode dev pins tdi => Sys2Proof.Machine.execJtagIdcode dev pins tdi s
  | .jtagClamp dev pins tdi => Sys2Proof.Machine.execJtagClamp dev pins tdi s
  | .jtagHighz dev pins tdi => Sys2Proof.Machine.execJtagHighz dev pins tdi s
  | .hazelSramUe offset => Sys2Proof.Machine.execHazelSramUe offset s
  | .pllLockTimeout => Sys2Proof.Machine.execPllLockTimeout s
  | .clkreqRelease dp => Sys2Proof.Machine.execClkreqRelease dp s
  | .controllerReady dp => Sys2Proof.Machine.execControllerReady dp s
  | .controllerReadyTimeout dp => Sys2Proof.Machine.execControllerReadyTimeout dp s
  | .shutdownComplete dp => Sys2Proof.Machine.execShutdownComplete dp s
  | .shutdownTimeout dp => Sys2Proof.Machine.execShutdownTimeout dp s
  | .nvmeAdminTimeout dp cid => Sys2Proof.Machine.execNvmeAdminTimeout dp cid s
  | .trstNAssert => Sys2Proof.Machine.execTrstNAssert s

end Sys2Proof.Machine
end

