-- ==== Sys2Proof/Machine/Tick.lean ====
section
/-! DEFINITION. A tick: what one FCLK period does to a module that no command reaches (R91, R98, R99, R324–R356, R406, R755, R798, R819). -/

namespace Sys2Proof.Machine

/-- Partition `p` counts the coming fc as an fc of its run (R336, R406, R755). -/
def fcLive (s : State) (p : Nat) : Bool :=
  let x := s.pt p
  x.inRun && !x.run.paused && !x.regions.isEmpty && x.regions.all (fun rg => regionLive s rg && (s.rgn rg).clocked) && s.clk.run

/-- An entry of partition `p`'s mover schedule is due and waits for a reserve entry (R685). -/
def scheduleHeld (s : State) (p : Nat) : Bool :=
  (List.range (s.pt p).run.movers.length).any (fun i => entryDue s p i && entryHeld s p i)

/-- Why partition `p` stalls on the coming fc (R337). (DEDUCED: log entry 33.) -/
def stallCause (s : State) (p : Nat) : Option StallCause :=
  match stallNow s p with
  | some c => some c
  | none => if scheduleHeld s p then some .husk else none

/-- The end of a stalled fc: the partition goes on with the next fc where nothing holds it any more (R334, R343, R349, R371, R685). -/
def endWaits (s : State) (p : Nat) (c : StallCause) : State :=
  if c = .foldWait then
    match (s.pt p).run.target with
    | none => s
    | some t => if (tget Slot.init (s.pt p).slots t).state = .committed then enterContext s p t else s
  else
    match stallCause s p with
    | none => endStall s p
    | some d => if d = c then s else setStall s p d

/-- What precedes the operations of an fc: a context is entered, or a fold boundary falls on it (R340–R343). -/
def beginFc (s : State) (p : Nat) : State :=
  match (s.pt p).run.active, (s.pt p).run.target with
  | none, some t => goTo s p t
  | _, _ => if foldDue s p then foldBoundary s p else s

/-- Every step that is due issues, and every entry of the mover schedule that is due (R324, R381). -/
def issueAll (s : State) (p : Nat) : State :=
  let t := (s.pt p).podList.foldl (fun t k => (List.range 4).foldl (fun t c => if fcLive t p then issueStep t p k c else t) t) s
  (List.range (t.pt p).run.movers.length).foldl (fun t i => entryStep t p i) t

/-- One fc of partition `p`'s run. (DESIGN CHOICE: log entry 5.) -/
def partFc (s : State) (p : Nat) : State :=
  if !fcLive s p then s
  else
    let s1 := deliverSteers (deliverSummaries s p false) p
    match (s1.pt p).run.stall with
    | some c => endWaits (countFc s1 p) p c
    | none =>
      let s2 := beginFc s1 p
      if !fcLive s2 p then s2
      else if (s2.pt p).run.stall.isSome then countFc s2 p
      else
        match stallCause s2 p with
        | some c => countFc (setStall s2 p c) p
        | none => let s3 := issueAll s2 p; if fcLive s3 p then endFc s3 p else s3

/-- FCLK of a region that nothing needs is gated (R755). -/
def gateClocks (s : State) : State :=
  runOrIdle ((List.range 16).foldl (fun t rg =>
    if (t.rgn rg).clocked && !clockNeeded t rg then t.setRgn rg { t.rgn rg with clocked := false } else t) s)

/-- Device time after `cyc` root cycles: 5 ns for 24 of them, at half rate for 48 (R580, R583). The answer: ns, and the new time. (DESIGN CHOICE: log entry 5; DEDUCED: log entry 50.) -/
def passTime (s : State) (cyc : Nat) : Nat × State :=
  let per := if s.link.half then 48 else 24
  let n := s.rootPhase + cyc
  let ns := n / per * 5
  let lead := s.link.lead - ns
  (ns, { s with time := s.time + BitVec.ofNat 64 ns, rootPhase := n % per
                link := if s.link.half then { s.link with lead := lead, half := lead ≠ 0 } else s.link })

/-- Throttle-reason timers of the reasons that are active advance by `ns` (R798). (DESIGN CHOICE: log entry 5.) -/
def passTimers (s : State) (reasons ns : Nat) : State :=
  { s with pow := { s.pow with timers := (bitsSet reasons 8).foldl (fun l n => tset l n (tget 0 l n + BitVec.ofNat 64 ns)) s.pow.timers } }

/-- Time for which writers are held on a full reserve counts apart (R685, R704). (DESIGN CHOICE: log entry 5.) -/
def passHeld (s : State) : State :=
  match s.husk.snap with
  | none => s
  | some x =>
    let y := match x.heldSince with
      | none => if reserveHeld s then { x with heldSince := some s.time } else x
      | some t => if reserveHeld s then x else { x with heldSince := none, stallNs := x.stallNs + (s.time - t).toNat }
    { s with husk := { s.husk with snap := some y } }

/-- Ports gain MSG bytes: 2,000 in a µs, at most 16,384 held (R479). (DESIGN CHOICE: log entry 5.) -/
def passBuckets (s : State) (ns : Nat) : State :=
  { s with link := { s.link with ports := s.link.ports.map (fun e => (e.1, { e.2 with msgBucket := min 16384 (e.2.msgBucket + 2 * ns) })) } }

/-- The trace session of function `fn` over `lcs` lc: BR packets that are due, the end of an overflow, and at most `n` bytes to its sink (R819,
R820, R828). The answer: bytes taken. -/
def passSession (s : State) (fn n lcs : Nat) : Nat × State :=
  let x := s.ses fn
  if x.state = .full then (0, s.setSes fn { x with lost := x.lost + BitVec.ofNat 64 lcs })
  else if x.state ≠ .running then (0, s)
  else
    let y := if x.stopping.isSome then x else
      (x.branches.map (fun b => b.1)).foldl (fun z p => match tfind z.branches p with
        | some (_, first, _) => if first + 4096 ≤ s.trace.lc then flushBr s z p else z
        | none => z) x
    sinkDrain (overflowEnd (s.setSes fn y) fn) fn n

/-- The trace unit over `ns` ns and `lcs` lc: 8 GB/s to all sinks together, 4 GB/s to one (R819). (DESIGN CHOICE: log entry 5.) -/
def passTrace (s : State) (ns lcs : Nat) : State :=
  ((sesFns s).foldl (fun (acc : Nat × State) fn =>
    let r := passSession acc.2 fn (min (4 * ns) acc.1) lcs
    (acc.1 - r.1, r.2)) (8 * ns, { s with trace := { s.trace with lc := s.trace.lc + lcs } })).2

/-- A tick while FCLK and LCLK run: one FCLK period of `div` root cycles, and one more under a droop stretch (R98, R99, R778). (DESIGN CHOICE: log entry 5.) -/
def fclkTick (s : State) : State :=
  let cyc := s.clk.div + b2n s.clk.stretch
  let lcs := (s.clk.phase + cyc) / 4 - s.clk.phase / 4
  let reasons := activeReasons s
  let s1 := (List.range 16).foldl partFc s
  let s2 := gateClocks ((List.range 16).foldl settleFence s1)
  let (ns, s3) := passTime { s2 with clk := { s2.clk with phase := (s.clk.phase + cyc) % 240 } } cyc
  passTrace (passBuckets (passHeld (passTimers s3 reasons ns)) ns) ns lcs

/-- A tick while FCLK and LCLK stand: 100 ns, which device time counts to ±3% (R580). (DESIGN CHOICE: log entry 5.) -/
def ioscTick (s : State) : State :=
  let (d, t) := s.takeFree 7
  passTimers { t with time := t.time + BitVec.ofNat 64 (97 + d) } (activeReasons s) (97 + d)

/-- A tick: the boot ROM goes on, and time passes while the die has power. (DESIGN CHOICE: log entry 5.) -/
def tick (s : State) : Out :=
  let t := romStep s
  if t.clk.run then nextN s (fclkTick t)
  else if t.rst.powered || t.pow.state = .sleep || t.pow.state = .deep then nextN s (ioscTick t)
  else .next t

end Sys2Proof.Machine
end

