-- ==== Sys2Proof/Machine/Step.lean ====
section
/-! DEFINITION. One step of the module, and the word that the host's question places in front of its queue. -/

namespace Sys2Proof.Machine

/-- The command at the front of the queue acts on the module with the rest of the queue; on an empty queue a tick passes. (DESIGN CHOICE: log entries 4, 5, 6, 7.) -/
def step (s : State) : Host.Outcome State Fault Refusal :=
  match s.pending with
  | [] => tick s
  | c :: r => exec c { s with pending := r }

/-- The state with the command that a word spells put at the front of its queue; no row of the table has bits, so that no word spells one. -/
def State.withFetchWord (s : State) (nbits w : Nat) : State :=
  match decodeTableWord nbits w with
  | none => s
  | some c => { s with pending := c :: s.pending }

end Sys2Proof.Machine
end

