-- ==== Sys2Proof/Safety.lean ====
section
/-! DEFINITION. What counts as a safe run: every step goes on, and every state keeps the module's invariants. -/

namespace Sys2Proof.Machine

/-- A step that goes on: no fault and no refusal. -/
def goesOn (s : State) : Prop := ∃ t, step s = .next t

/-- The dividers of FCLK that exist (R98). -/
def legalDiv (d : Nat) : Bool := [4, 5, 6, 8, 12].contains d

/-- What every command and every tick keeps: the divider in force and the one asked for exist (R98); HBM, the memory cells and the flash
are in the model's canonical form; and no setting of the companion (R39, R43, R46, R72, R77, R80) or of the power controller (R795, R796)
leaves its range: FASTCAP limit, floor share, inrush slew, breaker time, retries, local cap, the divider that the host asks for, FASTCAP divider. -/
def ModuleInv (s : State) : Prop :=
  (legalDiv s.clk.div = true ∧ (∀ d, s.clk.divReq = some d → legalDiv d = true)) ∧
  (Memory.wf 0 s.hbm.mem = true ∧ Memory.wf 0 s.fab.cells = true ∧ Memory.wf 0xFF s.boot.flash = true) ∧
  (400 ≤ s.comp.fastcapLimit ∧ s.comp.fastcapLimit ≤ 2000) ∧
  (400 ≤ s.comp.floorShare ∧ s.comp.floorShare ≤ 1600) ∧
  (1 ≤ s.comp.inrushSlew ∧ s.comp.inrushSlew ≤ 20) ∧
  (1 ≤ s.comp.breakerTime ∧ s.comp.breakerTime ≤ 100) ∧
  s.comp.retryPolicy ≤ 7 ∧
  (400 ≤ s.pow.localCap ∧ s.pow.localCap ≤ 1600) ∧
  legalDiv s.pow.maxDiv = true ∧
  [5, 6, 8, 12].contains s.pow.fastcapDiv = true

/-- Lane `i` of operand-cache entry `e` of pod `k`, at the width of TYPE `ty` (R306). -/
def vecSrc (s : State) (k ty e i : Nat) : Nat := laneOf (widthOf ty) ((s.pod k).oc e).data.toNat i

/-- What a vector operation of partition `p` leaves in pod `k`: `n` lanes of `w` bits, lane `i` with value `val i`, for DST, to be written
`lat` fc after its issue where the predicate has the lane on, with the poison of the halves that were read (R310, R311, R317). -/
def vecLeaves (s : State) (p k op : Nat) (v : VInstr) (lat w n : Nat) (val : Nat → Nat) : State :=
  addResult { s with free := s.free + 128 } k (s.pt p).run.advanced ((s.pt p).run.advanced + lat)
    (.entry v.dst (BitVec.ofNat 1024 (packLanes w ((List.range n).map val)))
      (laneBytes w 0 ((List.range n).map (laneOn v (s.pod k).qMask))) (vecPoison (s.pod k) op v))

/-- Request `c` is the next command of class `cls` and verb `verb` of function `fn`, it acts on partition `p`, and nothing of the
partition's state turns it away before its own checks: the partition is neither FREE nor DRAINING and no restore involves it (R208, R430). -/
def forPart (s : State) (fn cls verb p : Nat) (c : Consumed) : Bool :=
  startable s fn cls verb = some c && target fn c = p && (s.pt p).state ≠ .free && (s.pt p).state ≠ .draining && !restoring s p

end Sys2Proof.Machine
end

