-- ==== Sys2Proof/Certificates/Slice0/Obligations.lean ====
section
/-! DEFINITION. The statements about the model. -/

open Sys2Proof Sys2Proof.Machine

/-- A step with a command at the front of the queue is that command on the state with the rest of the queue. (spec/95_what_each_step_holds.md, spec/00 Scope) -/
def Obligations.FrontCommandIsExecuted : Prop :=
    (∀ (c : Instr) (r : List Instr) (s : State),
      s.pending = c :: r →
      step s = exec c { s with pending := r }) ∧
    (∀ (s : State),
      s.pending = [] →
      step s = tick s)

/-- No command touches the queue, and a step takes nothing but its front. (spec/95_what_each_step_holds.md, spec/00 Scope) -/
def Obligations.QueueIsFirstInFirstOut : Prop :=
    (∀ (c : Instr) (s t : State),
      exec c s = .next t →
      t.pending = s.pending) ∧
    (∀ (s t : State),
      step s = .next t →
      t.pending = s.pending.tail)

/-- Every step keeps a legal FCLK divider, canonical memories and every setting within its range. (R39, R43, R46, R72, R77, R80, R98, R775, R795, R796) -/
def Obligations.StepKeepsInvariant : Prop :=
    (∀ (s t : State),
      ModuleInv s →
      step s = .next t →
      ModuleInv t)

/-- The state at reset: the defaults of power entry, mailboxes, the power controller and the fault unit. (R36, R39, R43, R45, R46, R72, R191, R795, R796, R859, R873) -/
def Obligations.ResetState : Prop :=
    (State.reset.pending = [] ∧
      (∀ f, (State.reset.feed f).state = .off ∧ (State.reset.feed f).ovLimit = 58000 ∧ (State.reset.feed f).uvLimit = 42000 ∧
        (State.reset.feed f).ocLimit = 40000 ∧ (State.reset.feed f).ocWarn = 36000) ∧
      State.reset.comp.fastcapLimit = 1800 ∧ State.reset.comp.floorShare = 800 ∧ State.reset.comp.inrushSlew = 4 ∧
      State.reset.comp.breakerTime = 24 ∧ State.reset.comp.retryPolicy = 3 ∧ State.reset.comp.oringStored = false ∧
      (∀ fn, (State.reset.mb fn).enable = false ∧ (State.reset.mb fn).enabled = false ∧ (State.reset.mb fn).gen = 0) ∧
      State.reset.pow.localCap = 1600 ∧ State.reset.pow.maxDiv = 4 ∧ State.reset.pow.fastcapDiv = 6 ∧ State.reset.clk.div = 12 ∧
      State.reset.faults.stop = false ∧ State.reset.faults.resetLimit = 4 ∧ State.reset.faults.autoQuarantine = true ∧
      State.reset.faults.ceThreshold = 64 ∧
      (∀ fn, (State.reset.fn fn).intStatus = 0 ∧ (State.reset.fn fn).intEnable = 0) ∧
      ModuleInv State.reset)

/-- HBM reads back every byte that was written and no other byte changes. (R9, R423, R500) -/
def Obligations.HbmReadsBackWhatWasWritten : Prop :=
    (∀ (h : Hbm) (a : Nat) (data : List Byte) (pois : Nat → Nat → Bool) (i : Nat),
      Memory.wf 0 h.mem = true →
      i < data.length →
      mget 0 (hbmPut h a data pois).mem (a + i) = data.getD i 0) ∧
    (∀ (h : Hbm) (a : Nat) (data : List Byte) (pois : Nat → Nat → Bool) (b : Nat),
      Memory.wf 0 h.mem = true →
      (b < a ∨ a + data.length ≤ b) →
      mget 0 (hbmPut h a data pois).mem b = mget 0 h.mem b ∧ Memory.wf 0 (hbmPut h a data pois).mem = true)

/-- Register reads latch shadows and clear read-clear fields, register writes act, and only the key of HZ_RESET_REQ asks for a reset. (R4, R8, R191, R865, R868, R873, R874, R878) -/
def Obligations.RegisterAccessesActAndShadow : Prop :=
    (∀ (fn : Fn) (s : State),
      hostLive s = true →
      ∃ t, exec (.rlLowHalfRead fn 0x118 4) s = .next t ∧ t.host.readData.toNat = s.time.toNat % 2 ^ 32 ∧
        tget 0 (t.fn fn).shadows 0x11C = BitVec.ofNat 32 (s.time.toNat / 2 ^ 32) ∧
        (∀ g, g ≠ fn.val → t.fn g = s.fn g) ∧ t = { s with host := { s.host with fn := t.host.fn, readData := t.host.readData } }) ∧
    (∀ (fn : Fn) (s : State),
      hostLive s = true →
      exec (.rlLowHalfRead fn 0x11C 4) s = .next (readOut s (tget 0 (s.fn fn).shadows 0x11C))) ∧
    (∀ (fn : Fn) (s : State),
      hostLive s = true →
      exec (.rcFieldRead fn 0x40 4) s =
        .next (readOut (s.setMb fn { s.mb fn with evtLost := 0 }) (BitVec.ofNat 32 (s.mb fn).evtLost))) ∧
    (∀ (fn : Fn) (v : W64) (s : State),
      hostLive s = true →
      exec (.registerWrite fn 0xC 4 v) s = .next (note s (s.setMb fn { s.mb fn with rspHoldoff := BitVec.ofNat 8 (v.toNat % 2 ^ 32), evtHoldoff := BitVec.ofNat 8 (v.toNat % 2 ^ 32 / 256) }))) ∧
    (∀ (fn : Fn) (v : W32) (s : State),
      hostLive s = true →
      (s.fn fn).intStatus = 0 →
      exec (.hzIntEnableWrite fn v) s = .next (s.setFn fn { s.fn fn with intEnable := BitVec.ofNat 8 (v.toNat % (if fn.val = 0 then 256 else 64)) })) ∧
    (∀ (s : State),
      hostLive s = true →
      (s.fn 0).intStatus = 0x10 →
      (s.fn 0).intEnable = 0 →
      exec (.hzIntEnableWrite 0 0xFF) s = .next (raiseVec (s.setFn 0 { s.fn 0 with intEnable := 0xFF }) 0 8)) ∧
    (∀ (v : W32) (s : State),
      hostLive s = true →
      s.rst.powered = true →
      exec (.hzResetReq 0 v) s = .next (if v = 0x54535257 then { s with rst := { s.rst with warmReq := 2 } } else s))

/-- A feed qualifies, ramps and turns on, and what is adjusted or warned on the way. (R35, R36, R38, R39, R41, R45, R46, R51, R897) -/
def Obligations.FeedsQualifyRampAndTurnOn : Prop :=
    (∀ (f : Fin 2) (vin : Nat) (s : State),
      s.comp.running = true →
      (s.feed f).state = .off →
      (s.feed f).operation = true →
      (s.feed f).uvLimit + 2000 < vin →
      exec (.feedQualify f vin) s = .next (s.setFeed f { s.feed f with state := .qualify, cause := .none })) ∧
    (∀ (f : Fin 2) (s : State),
      (s.feed f).state = .qualify →
      exec (.qualifyWindowExpiry f) s = .next (s.setFeed f { s.feed f with state := .ramp, node := 0, oring := true })) ∧
    (∀ (f : Fin 2) (vin : Nat) (s : State),
      (s.feed f).state = .qualify →
      (vin < (s.feed f).uvLimit ∨ (s.feed f).ovLimit < vin) →
      exec (.vinOutOfWindow f vin) s = .next (s.setFeed f { s.feed f with state := .off })) ∧
    (∀ (f : Fin 2) (node vin : Nat) (s : State),
      (s.feed f).state = .ramp →
      vin ≤ node + 1000 →
      node ≤ vin + 1000 →
      anyOn s = false →
      ∃ t, exec (.feedPowerGood f node vin) s = .next t ∧ t.feed f = { s.feed f with state := .on, node := node, oring := true } ∧
        t.comp.railsOn = true ∧ t.comp.railsGood = 0 ∧ (∀ g, g ≠ f.val → t.feed g = s.feed g) ∧
        t = { s with comp := t.comp, boot := { s.boot with compDone := true } }) ∧
    (∀ (f : Fin 2) (node vin : Nat) (s : State),
      (s.feed f).state = .ramp →
      vin ≤ node + 1000 →
      node ≤ vin + 1000 →
      anyOn s = true →
      exec (.feedPowerGood f node vin) s = .next (s.setFeed f { s.feed f with state := .on, node := node, oring := true })) ∧
    (∀ (f : Fin 2) (vin : Nat) (s : State),
      (s.feed f).state = .on →
      vin < (s.feed f).uvLimit →
      exec (.vinUvFall f vin) s = .next (cpRaise (s.setFeed f { s.feed f with state := .off, node := 0, oring := false, statusInput := (s.feed f).statusInput ||| 0x10 }) 4)) ∧
    (∀ (f : Fin 2) (s : State),
      (s.feed f).state = .tripped →
      exec (.retryTimerExpiry ⟨f.val, by omega⟩) s = .next (s.setFeed f (if (s.feed f).retries = 0 then { s.feed f with state := .latched }
        else { s.feed f with state := .qualify, cause := .none, retries := (s.feed f).retries - 1 }))) ∧
    (∀ (f : Fin 2) (s : State),
      (s.feed f).state = .on →
      exec (.retryCountRestore f) s = .next (s.setFeed f { s.feed f with retries := s.comp.retryPolicy })) ∧
    (∀ (f : Fin 2) (slew : Nat) (s : State),
      (s.feed f).state = .ramp →
      ∃ g, exec (.inrushSlewAdjust f slew) s = .next (s.setFeed f { s.feed f with node := (s.feed f).node + slew / 100, gate := g })) ∧
    (∀ (f : Fin 2) (iin : Int) (s : State),
      (s.feed f).state = .on →
      ((s.feed f).ocWarn : Int) < iin →
      exec (.ocWarn f iin) s = .next (cpRaise (s.setFeed f { s.feed f with statusInput := (s.feed f).statusInput ||| 2 }) 0x100)) ∧
    (∀ (s : State),
      (s.feed 0).state = .on →
      (s.feed 1).state = .on →
      s.comp.oringStored = !s.comp.oringInForce →
      ∃ t, exec .oringModeApply s = .next t ∧ t.comp.oringInForce = s.comp.oringStored ∧ (t.feed 0).oring = true ∧ (t.feed 1).oring = true ∧
        t = { s with comp := { s.comp with feeds := t.comp.feeds, oringInForce := t.comp.oringInForce } })

/-- A fault trips its feed and no other; the die loses power only when no feed stays on. (R37, R40, R41, R43, R44, R47, R48, R67, R901) -/
def Obligations.FeedsTrip : Prop :=
    (∀ (f : Fin 2) (s : State),
      (s.feed f).state = .ramp →
      (s.feed (1 - f.val)).state = .on →
      ∃ t, exec (.rampTimeout f) s = .next t ∧ (t.feed f).state = .tripped ∧ (t.feed f).cause = .rampTimeout ∧ (t.feed f).node = 0 ∧
        (t.feed f).oring = false ∧ t.feed (1 - f.val) = s.feed (1 - f.val) ∧ t = { s with free := s.free + 1, comp := t.comp }) ∧
    (∀ (f : Fin 2) (vin : Nat) (s : State),
      (s.feed f).state = .on →
      (s.feed f).ovLimit < vin →
      (s.feed (1 - f.val)).state = .on →
      ∃ t, exec (.ovTrip f vin false) s = .next t ∧ (t.feed f).state = .tripped ∧ (t.feed f).cause = .ov ∧ (t.feed f).node = 0 ∧
        (t.feed f).oring = false ∧ t.feed (1 - f.val) = s.feed (1 - f.val) ∧ t = { s with free := s.free + 1, comp := t.comp }) ∧
    (∀ (f : Fin 2) (iin : Int) (s : State),
      (s.feed f).state = .on →
      ((s.feed f).ocLimit : Int) < iin →
      (s.feed (1 - f.val)).state = .on →
      ∃ t, exec (.ocTimerTrip f iin) s = .next t ∧ (t.feed f).state = .tripped ∧ (t.feed f).cause = .ocTimer ∧ (t.feed f).node = 0 ∧
        (t.feed f).oring = false ∧ t.feed (1 - f.val) = s.feed (1 - f.val) ∧ t = { s with free := s.free + 1, comp := t.comp }) ∧
    (∀ (f : Fin 2) (iin : Int) (s : State),
      (s.feed f).state = .on →
      ((2 * (s.feed f).ocLimit : Nat) : Int) < iin →
      (s.feed (1 - f.val)).state = .on →
      ∃ t, exec (.ocFastTrip f iin) s = .next t ∧ (t.feed f).state = .tripped ∧ (t.feed f).cause = .ocFast ∧ (t.feed f).node = 0 ∧
        (t.feed f).oring = false ∧ t.feed (1 - f.val) = s.feed (1 - f.val) ∧ t = { s with free := s.free + 1, comp := t.comp }) ∧
    (∀ (f : Fin 2) (iin : Int) (s : State),
      (s.feed f).state = .on →
      ((s.feed f).ocLimit : Int) < iin →
      (s.feed (1 - f.val)).state = .off →
      ∃ t, exec (.ocTimerTrip f iin) s = .next t ∧ (t.feed f).state = .tripped ∧ t.comp.efuse = true ∧ t.comp.modpwr = false ∧
        t.comp.railsOn = false ∧ t.rst.powered = false) ∧
    (∀ (f : Fin 2) (iin : Int) (s : State),
      (s.feed f).oring = true →
      iin < -1000 →
      ∃ t, exec (.reverseCurrentTrip f iin) s = .next t ∧ t.feed f = { s.feed f with oring := false, cause := .reverse } ∧
        (∀ g, g ≠ f.val → t.feed g = s.feed g) ∧ t = { s with comp := { s.comp with feeds := t.comp.feeds, pmb := t.comp.pmb } }) ∧
    (∀ (s : State),
      s.comp.running = true →
      anyOn s = false →
      s.rst.powered = true →
      ∃ t, exec .feedsLost s = .next t ∧ t.rst.powered = false ∧ t.comp.modpwr = false ∧ t.comp.railsOn = false ∧ t.comp.railsGood = 0 ∧
        t.comp.slotCtrl = 0 ∧ t.comp.feeds = s.comp.feeds ∧ t.comp.aon = s.comp.aon)

/-- Drive bays ramp one after another, discharge, and fault. (R41, R53, R55, R57, R71, R89) -/
def Obligations.DriveBaysSwitchAndFault : Prop :=
    (∀ (bay : Fin 8) (s : State),
      s.comp.running = true →
      s.comp.updating = false →
      anyOn s = true →
      s.comp.slotCtrl.getLsbD bay = true →
      tget Bay.init s.comp.bays bay = Bay.init →
      ramping s < 2 →
      queuedBay s = none →
      exec (.slotOnRequest bay) s = .next { s with comp := { s.comp with bays := tset s.comp.bays bay { state := .ramping, queued := false } } }) ∧
    (∀ (bay : Fin 8) (s : State),
      s.comp.running = true →
      s.comp.updating = false →
      anyOn s = true →
      s.comp.slotCtrl.getLsbD bay = true →
      tget Bay.init s.comp.bays bay = Bay.init →
      2 ≤ ramping s →
      exec (.slotOnRequest bay) s = .next { s with comp := { s.comp with bays := tset s.comp.bays bay { state := .off, queued := true } } }) ∧
    (∀ (bay : Fin 8) (s : State),
      s.comp.running = true →
      s.comp.updating = false →
      s.comp.slotCtrl.getLsbD bay = false →
      (tget Bay.init s.comp.bays bay).state = .on →
      exec (.slotOffRequest bay) s = .next { s with comp := { s.comp with bays := tset s.comp.bays bay { state := .discharging, queued := false } } }) ∧
    (∀ (n : Nat) (s : State),
      queuedBay s = some n →
      ramping s < 2 →
      exec .bayRampStart s = .next { s with comp := { s.comp with bays := tset s.comp.bays n { state := .ramping, queued := false } } }) ∧
    (∀ (bay : Fin 8) (s : State),
      s.comp.running = true →
      (tget Bay.init s.comp.bays bay).state = .ramping →
      ∃ t, exec (.bayPowerGood bay) s = .next (note s t) ∧ tget Bay.init t.comp.bays bay = { state := .on, queued := false } ∧
        t.comp.status = s.comp.status ||| 0x400 ∧ t = { s with comp := { s.comp with bays := t.comp.bays, status := t.comp.status }, hub := t.hub }) ∧
    (∀ (bay : Fin 8) (s : State),
      s.comp.running = true →
      (tget Bay.init s.comp.bays bay).state = .ramping →
      hubLive s bay = false →
      ∃ t, exec (.bayRampTimeout bay) s = .next (note s t) ∧ (tget Bay.init t.comp.bays bay).state = .slotFault ∧
        t.comp.status = s.comp.status ||| 8 ∧ t.comp.aon.logCount = min 64 (s.comp.aon.logCount + 1) ∧
        t = { s with free := s.free + 1, comp := t.comp }) ∧
    (∀ (bay : Fin 8) (s : State),
      s.comp.running = true →
      (tget Bay.init s.comp.bays bay).state = .on →
      hubLive s bay = false →
      ∃ t, exec (.bayOvercurrentTrip bay) s = .next (note s t) ∧ (tget Bay.init t.comp.bays bay).state = .slotFault ∧
        t.comp.status = s.comp.status ||| 8 ∧ t.comp.aon.logCount = min 64 (s.comp.aon.logCount + 1) ∧
        t = { s with free := s.free + 1, comp := t.comp }) ∧
    (∀ (bay : Fin 8) (s : State),
      s.comp.running = true →
      (tget Bay.init s.comp.bays bay).state = .discharging →
      (tget DPort.init s.hub.dp bay).falling = false →
      ∃ t, exec (.bayDischarged bay) s = .next (note s t) ∧ tget Bay.init t.comp.bays bay = { state := .off, queued := false } ∧
        t = { s with comp := { s.comp with bays := t.comp.bays, status := s.comp.status ||| 0x400 }, hub := t.hub })

/-- The companion starts, counts resets once, samples the reset line and sequences the die's rails. (R60, R61, R62, R64, R114, R897, R898, R899, R902) -/
def Obligations.CompanionStartsCountsAndSequences : Prop :=
    (∀ (addr : Fin 8) (s : State),
      s.comp.running = false →
      s.comp.aon.rcState = 0 →
      s.comp.aon.cntA = s.comp.aon.cntB →
      ∃ t, exec (.companionStart addr) s = .next t ∧ t.comp.running = true ∧ t.comp.aux = true ∧ t.comp.addr = addr.val ∧ t.comp.porCounted = true ∧
        t.comp.aon.cntA = cntNext s.comp.aon.cntA ∧ t.comp.aon.cntB = cntNext s.comp.aon.cntA ∧ t.comp.aon.rcState = 0 ∧ t.comp.aon.cause = 0 ∧
        t = { s with comp := t.comp }) ∧
    (∀ (s : State),
      s.comp.running = true →
      s.rst.powered = true →
      s.rst.rstoutLow = true →
      s.rst.sampled = false →
      s.rst.kind = .warm →
      ∃ t, exec (.dieRstoutFall none) s = .next t ∧ t.rst = { s.rst with sampled := true } ∧ t.comp.aon.cntA = cntNext s.comp.aon.cntA ∧
        t.comp.aon.cause = 3 ∧ t = { s with rst := t.rst, comp := { s.comp with aon := t.comp.aon } }) ∧
    (∀ (s : State),
      s.comp.running = true →
      s.rst.powered = true →
      s.rst.rstoutLow = true →
      s.rst.sampled = true →
      s.rst.socOut = true →
      s.comp.aon.cause = s.rst.kind.code →
      exec .dieRstoutRise s = .next { s with rst := { s.rst with rstoutLow := false }, boot := { s.boot with compDone := false } }) ∧
    (∀ (s : State),
      s.comp.railsOn = true →
      anyOn s = true →
      s.comp.railsGood < 6 →
      exec .dieRailGood s = .next { s with comp := { s.comp with railsGood := s.comp.railsGood + 1, modpwr := decide (s.comp.railsGood = 5), vreg := if s.comp.railsGood = 5 then { s.comp.vreg with setpoint := 650, settled := true, lastSettled := 650 } else s.comp.vreg } }) ∧
    (∀ (s : State),
      s.comp.railsOn = true →
      anyOn s = true →
      s.comp.railsGood < 6 →
      ∃ t, exec .dieRailTimeout s = .next t ∧ t.comp.aon.logCount = min 64 (s.comp.aon.logCount + 1) ∧
        t = { s with free := s.free + 1, comp := { s.comp with railsGood := 0, railsOn := false, railWait := true, aon := t.comp.aon } }) ∧
    (∀ (s : State),
      s.comp.railWait = true →
      anyOn s = true →
      exec (.retryTimerExpiry 2) s = .next { s with comp := if s.comp.railRetries = 0 then { s.comp with railWait := false } else { s.comp with railWait := false, railsOn := true, railsGood := 0, railRetries := s.comp.railRetries - 1 } }) ∧
    (∀ (s : State),
      s.comp.aux = true →
      ∃ t, exec .auxLoss s = .next t ∧ t.comp = { Companion.init with aon := s.comp.aon, aux := false } ∧ t.rst.powered = false ∧
        t.boot.flash = s.boot.flash ∧ t.jtag = s.jtag)

/-- The companion answers its SPI, drives the regulator, refreshes telemetry and raises FASTCAP. (R67, R68, R70, R71, R72, R74, R84, R87, R776, R846) -/
def Obligations.CompanionServesTheDie : Prop :=
    (∀ (s : State),
      s.comp.running = true →
      exec (.companionSpiRead 24 1) s = .next { s with comp := { s.comp with spiOut := spiFrame 0 [BitVec.ofNat 32 s.comp.fastcapLimit] } }) ∧
    (∀ (s : State) (v : W32),
      s.comp.running = true →
      s.comp.updating = false →
      exec (.companionSpiWrite 2 [v] true) s = .next { s with comp := { s.comp with irqMask := v, spiOut := [0] } }) ∧
    (∀ (s : State) (a : Nat) (v : W32),
      s.comp.running = true →
      exec (.companionSpiWrite a [v] false) s = .next { s with comp := { s.comp with spiOut := [1] } }) ∧
    (∀ (mv : Nat) (seq : W16) (s : State),
      s.comp.running = true →
      s.comp.modpwr = true →
      s.comp.updating = false →
      s.comp.vreg.fault = false →
      mv < 4096 →
      exec (.vregRequest mv seq) s = .next { s with comp := { s.comp with vreg := { s.comp.vreg with request := mv, requestSeq := seq, setpoint := mv, settled := false } } }) ∧
    (∀ (vout : Nat) (s : State),
      s.comp.running = true →
      s.comp.vreg.fault = false →
      s.comp.vreg.settled = false →
      s.comp.vreg.setpoint ≠ 0 →
      vout ≤ s.comp.vreg.setpoint + 10 →
      s.comp.vreg.setpoint ≤ vout + 10 →
      exec (.vregSettled vout) s = .next { s with comp := { s.comp with vreg := { s.comp.vreg with settled := true, lastSettled := s.comp.vreg.setpoint }, status := s.comp.status ||| 0x800 } }) ∧
    (∀ (w : W16) (s : State),
      s.comp.running = true →
      s.comp.vreg.fault = false →
      ∃ t, exec (.regFaultDetected false w) s = .next t ∧
        t.comp.vreg = { s.comp.vreg with fault := true, setpoint := s.comp.vreg.lastSettled, settled := true, statusWord := w } ∧
        t.comp.status = s.comp.status ||| 0x10 ∧ t.comp.aon.logCount = min 64 (s.comp.aon.logCount + 1) ∧ t = { s with free := s.free + 1, comp := t.comp }) ∧
    (∀ (x : Telemetry) (s : State),
      s.comp.running = true →
      s.comp.updating = false →
      ∃ t, exec (.telemetryRefresh x) s = .next t ∧ (t.feed 0).vin = x.vinA % 65536 ∧ (t.feed 0).iin = x.iinA ∧ (t.feed 0).ein = x.einA ∧
        (t.feed 1).vin = x.vinB % 65536 ∧ (t.feed 1).iin = x.iinB ∧ (t.feed 1).ein = x.einB ∧ (t.feed 0).state = (s.feed 0).state ∧
        (t.feed 1).state = (s.feed 1).state ∧
        t = { s with comp := { s.comp with feeds := t.comp.feeds, tempBoard := x.board, tempInlet := x.inlet, pin := x.pin % 16777216 } }) ∧
    (∀ (s : State),
      s.comp.running = true →
      s.comp.updating = false →
      presentVin s ≠ 0 →
      exec .fastcapThresholdReload s = .next { s with comp := { s.comp with hwTotal := s.comp.fastcapLimit * 10000 / presentVin s, hwFeed := [(0, (s.feed 0).ocLimit * 9 / 100), (1, (s.feed 1).ocLimit * 9 / 100)] } }) ∧
    (∀ (a b : Int) (s : State),
      s.comp.running = true →
      anyOn s = true →
      fastcapCondition s a b = true →
      exec (.fastcapAssert a b) s = .next (note s (noteThrottle s (evaluateCeiling { s with comp := { s.comp with fastcap := true } })))) ∧
    (∀ (a b : Int) (s : State),
      s.comp.fastcap = true →
      fastcapCondition s a b = false →
      exec (.fastcapRelease a b) s = .next (note s (noteThrottle s (evaluateCeiling { s with comp := { s.comp with fastcap := false } })))) ∧
    (∀ (s : State),
      s.comp.running = true →
      s.comp.updating = false →
      exec .errlogCommit s = .next { s with comp := { s.comp with aon := s.comp.aon.append ((List.range 16).flatMap (fun i => le 4 (tget 0 s.comp.stage i).toNat)) } }) ∧
    (∀ (s : State),
      s.comp.status &&& s.comp.irqMask &&& 0x3F ≠ 0 →
      s.ready = true →
      s.comp.running = true →
      exec .companionIrq s = .next (note s (takeCompanionLog s true)))

/-- Every PMBus command that can be read answers its value and changes nothing else. (R15, R63, R65, R70, R77, R79, R81, R793, R892, spec/02 PMBus commands) -/
def Obligations.PmbusReadsAnswer : Prop :=
    (∀ (s : State),
      s.comp.running = true →
      exec (.pmPage .read) s = .next (pmAnswer s [s.comp.pmb.page])) ∧
    (∀ (s : State),
      s.comp.running = true →
      exec (.pmOnOffConfig .read) s = .next (pmAnswer s [0x18])) ∧
    (∀ (s : State),
      s.comp.running = true →
      exec (.pmWriteProtect .read) s = .next (pmAnswer s [s.comp.pmb.writeProtect])) ∧
    (∀ (s : State),
      s.comp.running = true →
      exec (.pmCapability .read) s = .next (pmAnswer s [0xD0])) ∧
    (∀ (s : State),
      s.comp.running = true →
      s.comp.pmb.page = 0 →
      exec (.pmOperation .read) s = .next (pmAnswer s (le 1 (if (s.feed 0).operation then 0x80 else 0)))) ∧
    (∀ (s : State),
      s.comp.running = true →
      s.comp.pmb.page = 0 →
      exec (.pmStatusByte .read) s = .next (pmAnswer s (le 1 (statusWordOf s 0)))) ∧
    (∀ (s : State),
      s.comp.running = true →
      s.comp.pmb.page = 0 →
      exec (.pmStatusWord .read) s = .next (pmAnswer s (le 2 (statusWordOf s 0)))) ∧
    (∀ (s : State),
      s.comp.running = true →
      s.comp.pmb.page = 0 →
      exec (.pmStatusInput .read) s = .next (pmAnswer s [(s.feed 0).statusInput])) ∧
    (∀ (s : State),
      s.comp.running = true →
      exec (.pmStatusTemperature .read) s = .next (pmAnswer s [s.comp.pmb.statusTemp])) ∧
    (∀ (s : State),
      s.comp.running = true →
      exec (.pmStatusCml .read) s = .next (pmAnswer s [s.comp.pmb.statusCml])) ∧
    (∀ (s : State),
      s.comp.running = true →
      exec (.pmStatusMfrSpecific .read) s = .next (pmAnswer s [s.comp.pmb.statusMfr])) ∧
    (∀ (s : State),
      s.comp.running = true →
      s.comp.pmb.page = 0 →
      exec (.pmReadEin .read) s = .next (pmAnswer s (pmBlock (Config.einFormat (s.feed 0).ein.toNat)))) ∧
    (∀ (s : State),
      s.comp.running = true →
      s.comp.pmb.page = 0 →
      exec (.pmReadVin .read) s = .next (pmAnswer s (le 2 (Config.linear11 ((s.feed 0).vin * 10 : Nat))))) ∧
    (∀ (s : State),
      s.comp.running = true →
      s.comp.pmb.page = 0 →
      exec (.pmReadIin .read) s = .next (pmAnswer s (le 2 (Config.linear11 ((s.feed 0).iin * 10))))) ∧
    (∀ (s : State),
      s.comp.running = true →
      exec (.pmReadTemperature1 .read) s = .next (pmAnswer s (le 2 (Config.linear11 (s.comp.tempBoard * 125))))) ∧
    (∀ (s : State),
      s.comp.running = true →
      exec (.pmReadTemperature2 .read) s = .next (pmAnswer s (le 2 (Config.linear11 (s.comp.tempInlet * 125))))) ∧
    (∀ (s : State),
      s.comp.running = true →
      s.comp.pmb.page = 0 →
      exec (.pmReadPin .read) s = .next (pmAnswer s (le 2 (Config.linear11 ((s.feed 0).vin * (s.feed 0).iin / 10))))) ∧
    (∀ (s : State),
      s.comp.running = true →
      exec (.pmPmbusRevision .read) s = .next (pmAnswer s [0x44])) ∧
    (∀ (s : State),
      s.comp.running = true →
      exec (.pmMfrId .read) s = .next (pmAnswer s (pmBlock (ascii "VRELGEN")))) ∧
    (∀ (s : State),
      s.comp.running = true →
      exec (.pmMfrModel .read) s = .next (pmAnswer s (pmBlock (ascii "WN-200")))) ∧
    (∀ (s : State),
      s.comp.running = true →
      exec (.pmMfrRevision .read) s = .next (pmAnswer s (pmBlock (ascii "A2")))) ∧
    (∀ (s : State),
      s.comp.running = true →
      exec (.pmMfrSerial .read) s = .next (pmAnswer s (pmBlock ((List.range 12).map Config.serial)))) ∧
    (∀ (s : State),
      s.comp.running = true →
      exec (.pmMfrRackBudget .read) s = .next (pmAnswer s (le 2 s.comp.rackBudget.toNat))) ∧
    (∀ (s : State),
      s.comp.running = true →
      exec (.pmMfrFloorShare .read) s = .next (pmAnswer s (le 2 s.comp.floorShare))) ∧
    (∀ (s : State),
      s.comp.running = true →
      exec (.pmMfrModuleCap .read) s = .next (pmAnswer s (le 2 (capInForce s)))) ∧
    (∀ (s : State),
      s.comp.running = true →
      exec (.pmMfrDemand .read) s = .next (pmAnswer s (le 2 s.pow.demandW))) ∧
    (∀ (s : State),
      s.comp.running = true →
      exec (.pmMfrSteward .read) s = .next (pmAnswer s (le 1 (b2n (isStewardNow s) + 2 * b2n s.pow.floorMode)))) ∧
    (∀ (s : State),
      s.comp.running = true →
      exec (.pmMfrResetCount .read) s = .next (pmAnswer s (pmBlock (le 4 s.comp.aon.count.toNat)))) ∧
    (∀ (s : State),
      s.comp.running = true →
      exec (.pmMfrLastResetCause .read) s = .next (pmAnswer s (pmBlock (le 4 (causeWord s).toNat))))

/-- Every PMBus command that can be written sets its register within its range, and a value outside leaves it. (R14, R35, R36, R39, R43, R45, R46, R51, R72, R77, R78, R80) -/
def Obligations.PmbusWritesSet : Prop :=
    (∀ (v : Nat) (s : State),
      s.comp.running = true →
      s.comp.pmb.writeProtect = 0 →
      (v = 0 ∨ v = 1 ∨ v = 255) →
      exec (.pmPage (.write v true)) s = .next (setPmb s { s.comp.pmb with page := BitVec.ofNat 8 v })) ∧
    (∀ (v : Nat) (s : State),
      s.comp.running = true →
      s.comp.pmb.writeProtect = 0 →
      v ≠ 0 →
      v ≠ 1 →
      v ≠ 255 →
      exec (.pmPage (.write v true)) s = .next (pmCml s 0x40)) ∧
    (∀ (v : Nat) (s : State),
      s.comp.running = true →
      s.comp.pmb.writeProtect = 0 →
      (v = 0 ∨ v = 0x40 ∨ v = 0x80) →
      exec (.pmWriteProtect (.write v true)) s = .next (setPmb s { s.comp.pmb with writeProtect := BitVec.ofNat 8 v })) ∧
    (∀ (s : State),
      s.comp.running = true →
      s.comp.pmb.writeProtect = 0 →
      s.comp.pmb.page = 0 →
      (s.feed 0).operation = true →
      exec (.pmOperation (.write 0x80 true)) s = .next (s.setFeed 0 (s.feed 0))) ∧
    (∀ (s : State),
      s.comp.running = true →
      s.comp.pmb.writeProtect = 0 →
      s.comp.pmb.page = 0 →
      (s.feed 0).state = .on →
      (s.feed 1).state = .on →
      ((s.feed 0).iin + (s.feed 1).iin) * 10 ≤ ((s.feed 1).ocLimit : Int) →
      exec (.pmOperation (.write 0 true)) s = .next (cpRaise (s.setFeed 0 { s.feed 0 with operation := false, state := .off, node := 0, oring := false }) 4)) ∧
    (∀ (s : State),
      s.comp.running = true →
      s.comp.pmb.writeProtect = 0 →
      s.comp.pmb.page = 255 →
      exec (.pmOperation (.write 0 true)) s = .next (pmCml s 0x40)) ∧
    (∀ (s : State),
      s.comp.running = true →
      s.comp.pmb.writeProtect = 0 →
      s.comp.pmb.page = 0 →
      (s.feed 0).state = .latched →
      ∃ t, exec (.pmClearFaults (.write 0 true)) s = .next t ∧ t.feed 0 = { s.feed 0 with statusInput := 0, state := .qualify, cause := .none } ∧ t.feed 1 = s.feed 1 ∧ t.comp.pmb.statusCml = 0 ∧ t.comp.pmb.statusTemp = 0 ∧ t.comp.vreg = { s.comp.vreg with fault := false } ∧ t = { s with comp := { s.comp with feeds := t.comp.feeds, pmb := t.comp.pmb, vreg := t.comp.vreg } }) ∧
    (∀ (w : Nat) (s : State),
      s.comp.running = true →
      s.comp.pmb.writeProtect = 0 →
      s.comp.updating = false →
      s.comp.pmb.page = 0 →
      (55000 : Int) ≤ linear11Milli w →
      linear11Milli w ≤ (60000 : Int) →
      ∃ t, exec (.pmVinOvFaultLimit (.write w true)) s = .next t ∧ t.feed 0 = { s.feed 0 with ovLimit := (linear11Milli w).toNat / 1 * 1 } ∧ t.feed 1 = s.feed 1 ∧ t = { s with comp := { s.comp with feeds := t.comp.feeds, pmb := { s.comp.pmb with written := t.comp.pmb.written } } }) ∧
    (∀ (w : Nat) (s : State),
      s.comp.running = true →
      s.comp.pmb.writeProtect = 0 →
      s.comp.updating = false →
      s.comp.pmb.page = 0 →
      (39000 : Int) ≤ linear11Milli w →
      linear11Milli w ≤ (45000 : Int) →
      ∃ t, exec (.pmVinUvFaultLimit (.write w true)) s = .next t ∧ t.feed 0 = { s.feed 0 with uvLimit := (linear11Milli w).toNat / 1 * 1 } ∧ t.feed 1 = s.feed 1 ∧ t = { s with comp := { s.comp with feeds := t.comp.feeds, pmb := { s.comp.pmb with written := t.comp.pmb.written } } }) ∧
    (∀ (w : Nat) (s : State),
      s.comp.running = true →
      s.comp.pmb.writeProtect = 0 →
      s.comp.updating = false →
      s.comp.pmb.page = 0 →
      (10000 : Int) ≤ linear11Milli w →
      linear11Milli w ≤ (45000 : Int) →
      ∃ t, exec (.pmIinOcFaultLimit (.write w true)) s = .next t ∧ t.feed 0 = { s.feed 0 with ocLimit := (linear11Milli w).toNat / 500 * 500 } ∧ t.feed 1 = s.feed 1 ∧ t = { s with comp := { s.comp with feeds := t.comp.feeds, pmb := { s.comp.pmb with written := t.comp.pmb.written } } }) ∧
    (∀ (w : Nat) (s : State),
      s.comp.running = true →
      s.comp.pmb.writeProtect = 0 →
      s.comp.updating = false →
      s.comp.pmb.page = 0 →
      (5000 : Int) ≤ linear11Milli w →
      linear11Milli w ≤ (45000 : Int) →
      ∃ t, exec (.pmIinOcWarnLimit (.write w true)) s = .next t ∧ t.feed 0 = { s.feed 0 with ocWarn := (linear11Milli w).toNat / 1 * 1 } ∧ t.feed 1 = s.feed 1 ∧ t = { s with comp := { s.comp with feeds := t.comp.feeds, pmb := { s.comp.pmb with written := t.comp.pmb.written } } }) ∧
    (∀ (w : Nat) (s : State),
      s.comp.running = true →
      s.comp.pmb.writeProtect = 0 →
      s.comp.updating = false →
      (linear11Milli w < (10000 : Int) ∨ (45000 : Int) < linear11Milli w) →
      exec (.pmIinOcFaultLimit (.write w true)) s = .next (pmCml s 0x40)) ∧
    (∀ (v : Nat) (s : State),
      s.comp.running = true →
      s.comp.pmb.writeProtect = 0 →
      s.comp.pmb.page = 0 →
      exec (.pmStatusInput (.write v true)) s = .next (s.setFeed 0 { s.feed 0 with statusInput := (s.feed 0).statusInput &&& ~~~(BitVec.ofNat 8 v) })) ∧
    (∀ (v : Nat) (s : State),
      s.comp.running = true →
      s.comp.pmb.writeProtect = 0 →
      exec (.pmStatusTemperature (.write v true)) s = .next (setPmb s { s.comp.pmb with statusTemp := s.comp.pmb.statusTemp &&& ~~~(BitVec.ofNat 8 v) })) ∧
    (∀ (v : Nat) (s : State),
      s.comp.running = true →
      s.comp.pmb.writeProtect = 0 →
      exec (.pmStatusCml (.write v true)) s = .next (setPmb s { s.comp.pmb with statusCml := s.comp.pmb.statusCml &&& ~~~(BitVec.ofNat 8 v) })) ∧
    (∀ (v : Nat) (s : State),
      s.comp.running = true →
      s.comp.pmb.writeProtect = 0 →
      s.comp.updating = false →
      exec (.pmStatusMfrSpecific (.write v true)) s = .next (setPmb s { s.comp.pmb with statusMfr := s.comp.pmb.statusMfr &&& ~~~(BitVec.ofNat 8 v) })) ∧
    (∀ (v : Nat) (s : State),
      s.comp.running = true →
      s.comp.pmb.writeProtect = 0 →
      s.comp.updating = false →
      exec (.pmMfrRackBudget (.write v true)) s = .next (cpRaise { s with comp := { s.comp with rackBudget := BitVec.ofNat 16 v, rackSeq := s.comp.rackSeq + 1 } } 0x200)) ∧
    (∀ (v : Nat) (s : State),
      s.comp.running = true →
      s.comp.pmb.writeProtect = 0 →
      s.comp.updating = false →
      400 ≤ v →
      v ≤ 1600 →
      exec (.pmMfrFloorShare (.write v true)) s = .next { s with comp := { s.comp with floorShare := v } }) ∧
    (∀ (v : Nat) (s : State),
      s.comp.running = true →
      s.comp.pmb.writeProtect = 0 →
      0 ≤ v →
      v ≤ 1 →
      exec (.pmMfrOringMode (.write v true)) s = .next { s with comp := { s.comp with oringStored := decide (v = 1) } }) ∧
    (∀ (v : Nat) (s : State),
      s.comp.running = true →
      s.comp.pmb.writeProtect = 0 →
      1 ≤ v →
      v ≤ 20 →
      exec (.pmMfrInrushSlew (.write v true)) s = .next { s with comp := { s.comp with inrushSlew := v } }) ∧
    (∀ (v : Nat) (s : State),
      s.comp.running = true →
      s.comp.pmb.writeProtect = 0 →
      1 ≤ v →
      v ≤ 100 →
      exec (.pmMfrBreakerTime (.write v true)) s = .next { s with comp := { s.comp with breakerTime := v } }) ∧
    (∀ (v : Nat) (s : State),
      s.comp.running = true →
      s.comp.pmb.writeProtect = 0 →
      0 ≤ v →
      v ≤ 7 →
      exec (.pmMfrRetryPolicy (.write v true)) s = .next { s with comp := { s.comp with retryPolicy := v } }) ∧
    (∀ (v : Nat) (s : State),
      s.comp.running = true →
      s.comp.pmb.writeProtect = 0 →
      s.comp.updating = false →
      400 ≤ v →
      v ≤ 2000 →
      exec (.pmMfrFastcapLimit (.write v true)) s = .next { s with comp := { s.comp with fastcapLimit := v } }) ∧
    (∀ (v : Nat) (s : State),
      s.comp.running = true →
      s.comp.pmb.writeProtect = 0 →
      s.comp.updating = false →
      (v < 400 ∨ 1600 < v) →
      exec (.pmMfrFloorShare (.write v true)) s = .next (pmCml s 0x40))

/-- The PLL locks or fails, a loss of clock gates FCLK, a requested divider takes effect, and a droop stretches. (R94, R96, R98, R99, R164, R778, R779) -/
def Obligations.ClocksLockLoseDivideAndStretch : Prop :=
    (∀ (s : State),
      nextStep s = some 0 →
      s.clk.pllEnabled = true →
      s.clk.pllLocked = false →
      exec .pllLockAchieved s = .next (stepDone (phase2 { s with clk := { s.clk with pllLocked := true, root := true } })) ∧
        (phase2 { s with clk := { s.clk with pllLocked := true, root := true } }).clk = { s.clk with pllLocked := true, root := true, run := true } ∧
        (phase2 { s with clk := { s.clk with pllLocked := true, root := true } }).rst.hbmOut = true ∧
        (phase2 { s with clk := { s.clk with pllLocked := true, root := true } }).rst.linkOut = true) ∧
    (∀ (s : State),
      nextStep s = some 0 →
      s.clk.pllEnabled = true →
      s.clk.pllLocked = false →
      s.clk.attempts < 2 →
      exec .pllLockTimeout s = .next { s with clk := { s.clk with attempts := s.clk.attempts + 1 } }) ∧
    (∀ (s : State),
      nextStep s = some 0 →
      s.clk.pllEnabled = true →
      s.clk.pllLocked = false →
      s.clk.attempts = 2 →
      exec .pllLockTimeout s = .next (stepFails { s with clk := { s.clk with attempts := 3 } } 0)) ∧
    (∀ (pll : Bool) (s : State),
      s.clk.root = true →
      ∃ t, t.clk = { s.clk with root := false, pllLocked := false, pllEnabled := false, run := false, divReq := none } ∧
        t.hbm = { s.hbm with ready := false, selfRefresh := true } ∧
        t = { s with clk := t.clk, hbm := t.hbm } ∧
        exec (.clockLossDetected pll) s = .next (note s (fault t { code := 0x0101, cls := 3, detail := [BitVec.ofNat 8 (b2n pll)] }))) ∧
    (∀ (d : Nat) (s : State),
      s.clk.divReq = some d →
      s.clk.run = true →
      d < s.clk.div →
      ∃ t, t = { s with clk := { s.clk with div := d, divReq := none, phase := 0 }, pow := { s.pow with lastRise := s.time } } ∧
        exec .fclkDividerChange s = .next (note s (noteThrottle s t))) ∧
    (∀ (d : Nat) (s : State),
      s.clk.divReq = some d →
      s.clk.run = true →
      s.clk.div < d →
      ∃ t, t.clk = { s.clk with div := d, divReq := none, phase := 0 } ∧ t.hbm = s.hbm ∧ t.fab = s.fab ∧ t.part = s.part ∧
        exec .fclkDividerChange s = .next (note s (noteThrottle s t))) ∧
    (∀ (s : State),
      s.clk.run = true →
      exec .droopStretchStart s = .next (note s (noteThrottle s { s with clk := { s.clk with stretch := true } }))) ∧
    (∀ (s : State),
      exec .droopStretchEnd s = .next (note s (noteThrottle s { s with clk := { s.clk with stretch := false } }))) ∧
    (∀ (s : State),
      s.clk.run = true →
      s.clk.stretch = true →
      exec .droopHold s = .next (note s (noteThrottle s (evaluateCeiling
        { s with pow := { s.pow with droopHold := some (min 4 (divIdx s.clk.div + 1)) } })))) ∧
    (∀ (s : State),
      s.pow.droopHold.isSome = true →
      exec .droopHoldExpiry s = .next (note s (noteThrottle s (evaluateCeiling { s with pow := { s.pow with droopHold := none } }))))

/-- Each reset of the die begins as its source says, is held by its trigger, and is released by phase 1. (R41, R60, R64, R96, R106, R113, R115, R131, R134, R154, R170, R899) -/
def Obligations.DieResetsBeginHoldAndRelease : Prop :=
    (∀ (s : State),
      s.comp.modpwr = true →
      s.rst.powered = false →
      ∃ t, exec .powerOnReset s = .next t ∧ t.rst.active = true ∧ t.rst.powered = true ∧ t.rst.socOut = false ∧ t.rst.hubOut = false ∧
        t.rst.hbmOut = false ∧ t.rst.linkOut = false ∧ t.rst.fabOut = [] ∧ t.rst.kind = (if s.comp.efuse then .efuse else .powerOn) ∧
        t.rst.sampled = true ∧ t.boot.dieDone = true ∧ t.boot.hazel = .off ∧ t.comp.efuse = false ∧ t.time = 0 ∧ t.hbm = Hbm.init) ∧
    (∀ (n : Nat) (taken : Bool) (s : State),
      s.rst.powered = true →
      s.pow.state ≠ .deep →
      100 ≤ n →
      s.rst.active = false →
      ∃ t, exec (.coldReset n taken) s = .next t ∧ t.rst.active = true ∧ t.rst.kind = .cold ∧ t.rst.perst = true ∧ t.rst.powered = true ∧
        t.rst.socOut = false ∧ t.rst.hubOut = false ∧ t.rst.hbmOut = false ∧ t.rst.linkOut = false ∧ t.rst.fabOut = [] ∧
        t.boot.dieDone = true ∧ t.boot.hazel = .off ∧ t.hbm = Hbm.init ∧ t.comp = s.comp ∧ t.pending = s.pending) ∧
    (∀ (s : State),
      (s.rst.warmReq = 1 ∨ s.rst.warmReq = 2 ∨ s.rst.warmReq = 4) →
      s.rst.powered = true →
      s.rst.active = false →
      ∃ t, exec (.warmReset []) s = .next t ∧ t.rst.active = true ∧ t.rst.kind = .warm ∧ t.rst.warmReq = 0 ∧ t.rst.hubOut = s.rst.hubOut ∧
        t.rst.socOut = false ∧ t.rst.hbmOut = false ∧ t.rst.linkOut = false ∧ t.rst.fabOut = [] ∧ t.rst.hbmKept = true ∧
        t.boot.hazel = .off ∧ t.hbm.selfRefresh = true ∧ t.hbm.ready = false ∧ t.hbm.mem = s.hbm.mem ∧ t.comp = s.comp ∧ t.time = s.time) ∧
    (∀ (s : State),
      s.rst.wdogRunning = true →
      s.rst.wdogHalt = false →
      s.rst.active = false →
      ∃ t, exec (.watchdogExpiry []) s = .next t ∧ t.rst.active = true ∧ t.rst.kind = .watchdog ∧ t.boot.wdogStreak = sat 15 (s.boot.wdogStreak + 1) ∧
        t.rst.socOut = false ∧ t.rst.wdogRunning = false ∧ t.boot.hazel = .off ∧ t.hbm.selfRefresh = true ∧ t.hbm.mem = s.hbm.mem ∧ t.comp = s.comp) ∧
    (∀ (l : List (Fin 6)) (s : State),
      s.rst.wdogRunning = true →
      s.rst.wdogHalt = true →
      ∃ t, exec (.watchdogExpiry l) s = .next t ∧ t.boot = { s.boot with hazel := .halted } ∧
        t.rst = { s.rst with wdogRunning := false, wdogExpired := true } ∧ t.fab = s.fab ∧ t.eng = s.eng ∧ t.hbm = s.hbm ∧ t.part = s.part) ∧
    (∀ (x : Fin 4) (peak : Int) (s : State),
      s.rst.powered = true →
      920 ≤ peak →
      s.rst.active = false →
      ∃ t, exec (.thermalTrip x peak []) s = .next t ∧ t.rst.active = true ∧ t.rst.kind = .thermal ∧ t.rst.thermalHold = true ∧
        t.rst.sensor = x ∧ t.rst.peak = peak ∧ t.rst.socOut = false ∧ t.boot.hazel = .off ∧ t.hbm.mem = s.hbm.mem ∧ t.hbm.selfRefresh = true) ∧
    (∀ (s : State),
      exec .thermalHoldEnd s = .next { s with rst := { s.rst with thermalHold := false } }) ∧
    (∀ (s : State),
      s.pow.state ≠ .deep →
      exec .perstDeassert s = .next { s with rst := { s.rst with perst := false, epReady := s.rst.epReady || s.pow.wakeLow }, pow := { s.pow with wakeLow := false } }) ∧
    (∀ (g d f : Bool) (s : State),
      s.rst.active = true →
      s.rst.powered = true →
      s.rst.thermalHold = false →
      s.rst.perst = false →
      ∃ t, exec (.resetReleasePhase1 g d f) s = .next t ∧ t.rst = { s.rst with active := false, socOut := true, hubOut := true } ∧
        t.boot.hazel = .rom 0 ∧ t.boot.flashFitted = f ∧ t.boot.primaryResult = 15 ∧ t.boot.goldenResult = 15 ∧
        1 ≤ t.boot.doneTimeout ∧ t.boot.doneTimeout ≤ 600 ∧ 1 ≤ t.boot.wdogLimit ∧ t.boot.wdogLimit ≤ 7 ∧
        t = { s with rst := t.rst, boot := t.boot }) ∧
    (∀ (s : State),
      s.boot.hazel = .running →
      exec .wdogStreakClear s = .next { s with boot := { s.boot with wdogStreak := 0 } }) ∧
    (∀ (off : W32) (s : State),
      s.boot.hazel ≠ .off →
      exec (.hazelSramUe off) s = .next (note s (fault s { code := 0x0103, cls := 3, detail := le 4 off.toNat })))

/-- A hot reset, a function-level reset and a secondary bus reset act on the host interface alone; zeroing ends; the host configures. (R15, R106, R107, R109, R111, R115, R123, R456, R600, R766) -/
def Obligations.EndpointResetsAndConfiguration : Prop :=
    (∀ (s : State),
      s.rst.powered = true →
      s.pow.state ≠ .deep →
      s.pow.state ≠ .off →
      s.rst.active = false →
      s.rst.epReady = true →
      ∃ t, exec .hotReset s = .next t ∧ t.rst.kind = .hot ∧ t.rst.sources = [.hot] ∧ t.rst.hbmKept = true ∧ t.rst.rstoutLow = true ∧
        t.rst.socOut = s.rst.socOut ∧ t.hub.vfEnable = false ∧ t.hub.numVfs = 0 ∧ t.faults.stopped = false ∧
        t.fab = s.fab ∧ t.part = s.part ∧ t.hbm = s.hbm ∧ t.eng = s.eng ∧ t.boot = { s.boot with unlocked := false } ∧ t.husk = s.husk ∧
        t.clk = s.clk ∧ t.pow = s.pow ∧ t.comp = s.comp ∧ t.trace = s.trace) ∧
    (∀ (s : State),
      s.rst.powered = true →
      s.pow.state ≠ .deep →
      s.pow.state ≠ .off →
      s.rst.active = true →
      ∃ t, exec .hotReset s = .next t ∧ t.rst.active = true ∧ t.rst.kind = s.rst.kind ∧ t.hub.vfEnable = false ∧ t.fab = s.fab ∧
        t.part = s.part ∧ t.hbm = s.hbm) ∧
    (∀ (s : State),
      hostLive s = true →
      s.hub.vfEnable = false →
      s.trace.grants = [] →
      (s.ses 0).stopping = none →
      ∃ t, exec .flrPf0 s = .next t ∧ t.part = s.part ∧ t.hbm.mem = s.hbm.mem ∧ t.rst = s.rst ∧ t.fab = s.fab ∧ t.eng = s.eng ∧
        t.boot = { s.boot with unlocked := false } ∧ t.hub = { s.hub with numVfs := 0, ari := false } ∧ t.comp = s.comp ∧ t.husk = s.husk) ∧
    (∀ (vf : Fin 16) (s : State),
      hostLive s = true →
      s.hub.vfEnable = true →
      vf < s.hub.numVfs →
      (s.pt vf).state = .free →
      ∃ t, exec (.flrVf vf) s = .next t ∧ t.part = s.part ∧ t.hbm = s.hbm ∧ t.fab = s.fab ∧ t.rst = s.rst ∧ t.hub = s.hub ∧ t.eng = s.eng) ∧
    (∀ (dp : Fin 8) (s : State),
      s.rst.hubOut = true →
      dpExists s dp = true →
      (s.dp dp).passthrough = true →
      ∃ t, exec (.secondaryBusReset dp) s = .next (note s t) ∧ (t.dp dp).linkUp = false ∧ (t.dp dp).drive = (s.dp dp).drive ∧
        t = { s with hub := { s.hub with dp := tset s.hub.dp dp (t.dp dp) } }) ∧
    (∀ (rg : Fin 16) (s : State),
      s.rst.zeroing.contains rg.val = true →
      s.clk.run = true →
      s.regionPart rg = none →
      s.rst.zeroWaits = [] →
      exec (.cellZeroingDone rg) s = .next (note s { clearRegion s rg with rst := { s.rst with zeroing := sdel s.rst.zeroing rg } })) ∧
    (∀ (k : Fin 27) (q : CfgReq) (s : State),
      s.rst.hubOut = true →
      s.pow.state = .run →
      cfgExists s k = true →
      k < 17 →
      s.rst.epReady = false →
      exec (.configRequest k q) s = .next { s with rst := { s.rst with cfg := .crs } }) ∧
    (∀ (k : Fin 27) (q : CfgReq) (s : State),
      s.rst.hubOut = true →
      s.pow.state = .run →
      cfgExists s k = false →
      exec (.configRequest k q) s = .next { s with rst := { s.rst with cfg := .ur } }) ∧
    (∀ (k : Fin 17) (mse bme : Bool) (s : State),
      s.rst.hubOut = true →
      s.rst.epReady = true →
      s.pow.state = .run →
      cfgExists s k = true →
      (s.mb k).enabled = false →
      ∃ t, exec (.configRequest (k.castLE (by omega)) (.command mse bme)) s = .next (note s t) ∧ (t.fn k).mse = mse ∧ (t.fn k).bme = bme ∧
        t = { s with rst := { s.rst with cfg := .normal }, host := { s.host with fn := tset s.host.fn k { s.fn k with mse := mse, bme := bme } } })

/-- The boot ROM's read timeout, the start-up steps, section deployment, readiness and the DONE handshake. (R116, R151, R153, R154, R161, R164, R165, R166, R168, R171, R172, R174) -/
def Obligations.BootStepsAndTheDoneHandshake : Prop :=
    (∀ (s : State),
      s.boot.hazel = .rom 0 →
      exec .flashReadTimeout s = .next { s with boot := { s.boot with primaryResult := 10, hazel := .rom 1 } }) ∧
    (∀ (s : State),
      nextStep s = some 0 →
      s.clk.pllLocked = false →
      s.clk.pllEnabled = false →
      exec .pllLock s = .next { s with clk := { s.clk with pllEnabled := true, attempts := 0 } }) ∧
    (∀ (s : State),
      nextStep s = some 1 →
      s.boot.stepsDone < 3 →
      exec .outputRelease s = .next { s with rst := { s.rst with padHold := false }, boot := { s.boot with stepsDone := s.boot.stepsDone + 1 } }) ∧
    (∀ (s : State),
      nextStep s = some 2 →
      s.rst.hbmOut = true →
      s.boot.stepsDone < 3 →
      exec (.srRelease []) s = .next { s with hbm := { s.hbm with ready := true, selfRefresh := false }, boot := { s.boot with stepsDone := s.boot.stepsDone + 1 } }) ∧
    (∀ (s : State),
      nextStep s = some 3 →
      s.boot.stepsDone < 3 →
      exec .writeEnable s = .next { s with boot := { s.boot with writeEnable := true, stepsDone := s.boot.stepsDone + 1 } }) ∧
    (∀ (s : State),
      nextStep s = some 3 →
      s.boot.stepsDone = 3 →
      exec .writeEnable s = .next (startupDone { s with boot := { s.boot with writeEnable := true, stepsDone := 4 } })) ∧
    (∀ (ty off len : Nat) (digest : List Byte) (r : List (Nat × Nat × Nat × List Byte)) (s : State),
      s.boot.hazel = .running →
      s.rst.epReady = true →
      s.boot.toDeploy = (ty, off, len, digest) :: r →
      Config.sha384 (flashRead s off len) = digest →
      exec .sectionDeployment s = .next { s with boot := { s.boot with toDeploy := r, sections := sins s.boot.sections ty } }) ∧
    (∀ (s : State),
      s.boot.hazel = .running →
      s.rst.epReady = true →
      s.boot.toDeploy = [] →
      s.boot.deployed = false →
      s.rst.warmReq = 0 →
      s.boot.done = .holding →
      s.boot.doneIgnore = false →
      ∃ t, exec .moduleReady s = .next (note s { t with boot := { t.boot with done := .waiting } }) ∧
        t = autoPowerAll { s with boot := { s.boot with deployed := true, dieDone := false } }) ∧
    (∀ (s : State),
      s.boot.dieDone = false →
      s.boot.compDone = false →
      s.boot.deployed = true →
      s.boot.done = .waiting →
      exec .doneHigh s = .next (note s (releaseLinks { s with boot := { s.boot with done := .passed } }))) ∧
    (∀ (s : State),
      s.boot.dieDone = false →
      s.boot.compDone = false →
      s.boot.deployed = true →
      s.boot.done = .timedOut →
      s.boot.doneLate = false →
      exec .doneHigh s = .next (eventDev { s with boot := { s.boot with doneLate := true } } 0x0103 [])) ∧
    (∀ (s : State),
      s.boot.done = .waiting →
      s.boot.deployed = true →
      exec .doneTimeout s = .next (note s (eventDev (releaseLinks { s with boot := { s.boot with done := .timedOut } }) 0x0102 [])))

/-- FLASH commands that meet a free flash are accepted and done: erase, program, read, verify; unlock and lock. (R140, R166, R177, R178, R179, R180, R181, R182, R184, R185, R187, R188) -/
def Obligations.FlashCommandsRunInTurn : Prop :=
    (∀ (fn : Fn) (c : Consumed) (s : State),
      startable s fn 13 1 = some c →
      flashFree s = true →
      s.boot.jobs = [] →
      c.u32 8 = 0 →
      c.u32 0 + c.u32 4 ≤ flashSize →
      c.u32 0 % 4096 = 0 →
      c.u32 4 % 4096 = 0 →
      areaRefusal s (c.u32 0) (c.u32 4) = none →
      ∃ t, exec (.flashErase fn none) s = .next (workDone t fn c.id ⟨0, 0, le 4 0 ++ le 4 (((eraseUnits (c.u32 4 / 4096 + 1) (c.u32 0) (c.u32 4)).map (fun u => u.2)).foldl (· + ·) 0)⟩) ∧
        t.boot.flash = (eraseUnits (c.u32 4 / 4096 + 1) (c.u32 0) (c.u32 4)).foldl (fun m u => mclear m u.1 u.2) s.boot.flash ∧
        t = { accept s fn c.id with boot := { s.boot with flash := t.boot.flash } }) ∧
    (∀ (fn : Fn) (c : Consumed) (b : List Byte) (s : State),
      startable s fn 13 2 = some c →
      flashFree s = true →
      s.boot.jobs = [] →
      c.u32 8 ≤ 1 →
      c.u32 4 ≠ 0 →
      c.u32 4 ≤ 0x1000000 →
      c.u32 0 + c.u32 4 ≤ flashSize →
      areaRefusal s (c.u32 0) (c.u32 4) = none →
      (c.u32 8 = 1 ∨ (flashRead s (c.u32 0) (c.u32 4)).all (fun x => x = 0xFF) = true) →
      ((accept s fn c.id).fn fn).bme = true →
      ∃ t r, exec (.flashProgram fn (some b) none) s = .next (workDone t fn c.id r) ∧
        t = { accept s fn c.id with boot := { s.boot with flash := t.boot.flash } } ∧
        (r.status = 0 → ∀ i, i < c.u32 4 → (flashRead t (c.u32 0) (c.u32 4)).getD i 0 = (bytesAt b 0 (c.u32 4)).getD i 0) ∧
        (r.status = 0 ∨ r.status = 0x0D02) ∧ bytesAt r.payload 4 4 = le 4 (c.u32 4)) ∧
    (∀ (fn : Fn) (c : Consumed) (s : State),
      startable s fn 13 3 = some c →
      flashFree s = true →
      s.boot.jobs = [] →
      c.u32 4 ≠ 0 →
      c.u32 4 ≤ 0x4000000 →
      c.u32 0 + c.u32 4 ≤ flashSize →
      ((accept s fn c.id).fn fn).bme = true →
      exec (.flashRead fn) s = .next (workDone { accept s fn c.id with hostOut := [(c.u64 16, flashRead s (c.u32 0) (c.u32 4), false)] } fn c.id ⟨0, 0, le 4 0 ++ le 4 (c.u32 4)⟩)) ∧
    (∀ (fn : Fn) (c : Consumed) (s : State),
      startable s fn 13 4 = some c →
      flashFree s = true →
      s.boot.jobs = [] →
      c.u32 8 % 4 = 0 →
      c.u32 8 < 16 →
      c.u32 0 + c.u32 4 ≤ flashSize →
      ∃ v, v = (crc32c (flashRead s (c.u32 0) (c.u32 4))).toNat ∧
        exec (.flashVerifyCrc fn) s = .next (workDone (accept s fn c.id) fn c.id
          ⟨if bitOf (c.u32 8) 2 ∧ v ≠ c.u32 12 then 0x0D09 else 0, 0, le 4 v ++ le 4 (c.u32 4)⟩)) ∧
    (∀ (fn : Fn) (c : Consumed) (b : List Byte) (s : State),
      startable s fn 13 4 = some c →
      flashFree s = true →
      s.boot.jobs = [] →
      c.u32 8 % 4 = 1 →
      c.u32 8 < 16 →
      c.u32 0 + c.u32 4 ≤ flashSize →
      ((accept s fn c.id).fn fn).bme = true →
      (∀ i, i < c.u32 4 → (flashRead s (c.u32 0) (c.u32 4)).getD i 0 = b.getD i 0) →
      exec (.flashVerifyCompare fn (some b)) s = .next (workDone (accept s fn c.id) fn c.id ⟨0, 0, le 4 0 ++ le 4 (c.u32 4)⟩)) ∧
    (∀ (fn : Fn) (c : Consumed) (s : State),
      startable s fn 13 4 = some c →
      flashFree s = true →
      s.boot.jobs = [] →
      c.u32 8 % 4 = 2 →
      c.u32 8 < 16 →
      ∃ r, exec (.flashVerifyImage fn) s = .next (workDone { accept s fn c.id with free := s.free + 1 } fn c.id r) ∧ r.status = 0 ∧
        bytesAt r.payload 0 4 = le 4 (slotCheck (accept s fn c.id) (b2n (bitOf (c.u32 8) 3)))) ∧
    (∀ (fn : Fn) (c : Consumed) (s : State),
      startable s fn 13 5 = some c →
      c.u32 0 ≠ 0 →
      c.u32 0 ≤ 60 →
      s.boot.goldWe = true →
      exec (.flashUnlock fn) s = .next (finishOk { s with boot := { s.boot with unlocked := true } } fn c.id [])) ∧
    (∀ (fn : Fn) (c : Consumed) (s : State),
      startable s fn 13 6 = some c →
      exec (.flashLock fn) s = .next (finishOk { s with boot := { s.boot with unlocked := false } } fn c.id [])) ∧
    (∀ (s : State),
      exec .goldenUnlockExpiry s = .next { s with boot := { s.boot with unlocked := false } }) ∧
    (∀ (rg : Fin 16) (r : List FlashJob) (s : State),
      s.boot.jobs = { fn := rg.val, id := 0 } :: r →
      flashFree s = true →
      s.serving = true →
      ∃ t, t = writeStore { s with boot := { s.boot with jobs := r } } ∧
        exec (.mapStoreWriteComplete rg) s = .next (eventDev (t.setRgn rg { t.rgn rg with stored := true }) 0x0401
          (le 1 rg ++ le 1 0 ++ le 2 0 ++ le 4 (t.rgn rg).sequence.toNat)))

/-- A mailbox is enabled and stopped, and its doorbells, consumption, posts, interrupts and failures act on it alone. (R191, R194, R195, R196, R197, R198, R199, R201, R210, R211, R233) -/
def Obligations.MailboxRingsCarryRequestsAndEvents : Prop :=
    (∀ (fn : Fn) (s : State),
      hostLive s = true →
      s.serving = true →
      (s.mb fn).enabled = false →
      (s.mb fn).stopping = false →
      (s.mb fn).ringError = false →
      (s.fn fn).bme = true →
      s.boot.fallback = false →
      ((s.mb fn).reqBase ≠ 0 ∧ (s.mb fn).rspBase ≠ 0 ∧ (s.mb fn).evtBase ≠ 0) →
      ((s.mb fn).reqBase &&& 0xFFF = 0 ∧ (s.mb fn).rspBase &&& 0xFFF = 0 ∧ (s.mb fn).evtBase &&& 0xFFF = 0) →
      (s.mb fn).pend = [] →
      ∃ t, exec (.mailboxEnable fn) s = .next t ∧ (t.mb fn).enabled = true ∧ (t.mb fn).enable = true ∧ (t.mb fn).gen = (s.mb fn).gen + 1 ∧
        (t.mb fn).reqPi = 0 ∧ (t.mb fn).reqCi = 0 ∧ (t.mb fn).rspPi = 0 ∧ (t.mb fn).rspCi = 0 ∧ (t.mb fn).evtPi = 1 ∧ (t.mb fn).evtCi = 0 ∧
        (tget (EvtEntry.mk false false 0 0 ⟨0, 0, 0, 0, []⟩) (t.mb fn).evtRing 0).ev.code = 0x0001 ∧ (t.mb fn).mask = 0 ∧
        t = { s with host := { s.host with mb := t.host.mb, fn := t.host.fn } }) ∧
    (∀ (fn : Fn) (s : State),
      hostLive s = true →
      ∃ t, exec (.mailboxDisable fn) s = .next t ∧ (t.mb fn).enable = false ∧ (t.mb fn).stopping = (s.mb fn).enabled ∧ (t.mb fn).ringError = false ∧
        (t.mb fn).reqCi = (s.mb fn).reqPi ∧ (t.mb fn).consumed = (s.mb fn).consumed.map (fun c => { c with orphan := true }) ∧
        t = { s with host := { s.host with mb := t.host.mb, fn := t.host.fn } }) ∧
    (∀ (fn : Fn) (s : State),
      s.serving = true →
      (s.mb fn).stopping = true →
      (s.mb fn).enablePending = false →
      ∃ t, exec (.mailboxStopped fn) s = .next t ∧ (t.mb fn).enabled = false ∧ (t.mb fn).stopping = false ∧
        t = { s with host := { s.host with mb := t.host.mb, fn := t.host.fn } }) ∧
    (∀ (fn : Fn) (pi : W16) (s : State),
      hostLive s = true →
      (pi - (s.mb fn).reqCi).toNat ≤ 64 →
      exec (.requestDoorbell fn pi) s = .next (s.setMb fn { s.mb fn with reqPi := pi })) ∧
    (∀ (fn : Fn) (pi : W16) (s : State),
      hostLive s = true →
      (s.mb fn).enabled = true →
      (s.mb fn).ringError = false →
      (s.mb fn).stopping = false →
      64 < (pi - (s.mb fn).reqCi).toNat →
      exec (.requestDoorbell fn pi) s = .next (updMb s fn { s.mb fn with reqPi := pi, indexError := true, ringError := true })) ∧
    (∀ (fn : Fn) (ci : W16) (s : State),
      hostLive s = true →
      ci - (s.mb fn).rspCi ≤ (s.mb fn).rspPi - (s.mb fn).rspCi →
      exec (.responseCiWrite fn ci) s = .next (s.setMb fn { s.mb fn with rspCi := ci })) ∧
    (∀ (fn : Fn) (ci : W16) (s : State),
      hostLive s = true →
      ci - (s.mb fn).evtCi ≤ (s.mb fn).evtPi - (s.mb fn).evtCi →
      exec (.eventCiWrite fn ci) s = .next (s.setMb fn { s.mb fn with evtCi := ci })) ∧
    (∀ (fn : Fn) (r : Req) (s : State),
      s.serving = true →
      consumable s fn 2 = true →
      turnAllows s fn = true →
      genericCheck s fn r = none →
      (s.mb fn).consumed = [] →
      ∃ t c, exec (.requestConsume fn r) s = .next t ∧ (t.mb fn).consumed = [c] ∧ c.req = r ∧ c.gen = (s.mb fn).gen ∧ c.id = s.host.nextId + 1 ∧
        c.started = false ∧ c.orphan = false ∧ c.refusal = none ∧ c.timing = timingOf r ∧ (t.mb fn).reqCi = (s.mb fn).reqCi + 1 ∧
        t = { s with host := { s.host with mb := tset s.host.mb fn (t.mb fn), nextId := s.host.nextId + 1, turn := fn, turnCount := t.host.turnCount } }) ∧
    (∀ (fn : Fn) (s : State),
      s.serving = true →
      s.chans.chan = [] →
      exec (.pendingEventPost fn) s = .next (flushEvents (s.mb fn).pend.length s fn)) ∧
    (∀ (fn : Fn) (s : State),
      (s.mb fn).enabled = true →
      (s.mb fn).ringError = false →
      (s.mb fn).stopping = false →
      exec (.ringAccessFail fn) s = .next (updMb s fn { s.mb fn with dmaError := true, ringError := true })) ∧
    (∀ (fn : Fn) (s : State),
      (s.mb fn).rspHold = true →
      (s.mb fn).rspPi = (s.mb fn).rspCi →
      exec (.interruptHoldoffExpiry fn false) s = .next (s.setMb fn { s.mb fn with rspHold := false })) ∧
    (∀ (fn : Fn) (s : State),
      (s.mb fn).evtHold = true →
      (s.mb fn).evtPi ≠ (s.mb fn).evtCi →
      ∃ t, t = raiseVec (s.setMb fn { s.mb fn with evtHold := false }) fn 1 ∧
        exec (.interruptHoldoffExpiry fn true) s = .next (t.setMb fn { s.mb fn with evtHold := decide ((s.mb fn).evtHoldoff ≠ 0) })) ∧
    (∀ (fn : Fn) (id : Nat) (a b : W32) (c : Consumed) (s : State),
      cmdOf s fn id = some c →
      c.timing = 2 →
      c.started = true →
      c.result = none →
      c.orphan = false →
      s.serving = true →
      ringUsable s fn = true →
      evtRoom (s.mb fn) = true →
      exec (.progressReport fn id a b) s = .next (raiseAt s fn
        { partition := reqPart fn c.req, code := 0x0002, tag := c.req.tag, time := s.time, payload := fields 40 [(0, le 1 c.req.cls), (1, le 1 c.req.verb), (4, le 4 a.toNat), (8, le 4 b.toNat)] })) ∧
    (∀ (fn : Fn) (id : Nat) (c : Consumed) (r : Result) (s : State),
      cmdOf s fn id = some c →
      c.result = some r →
      s.serving = true →
      exec (.longCommandComplete fn id) s = .next (finish s fn id r))

/-- SYS commands answer, ask for a reset, mask and echo; the companion recognises WAKE_IN and ends its update. (R66, R85, R88, R213, R222, R223, R224, R764) -/
def Obligations.SysCommandsAnswerAndReset : Prop :=
    (∀ (fn : Fn) (c : Consumed) (s : State),
      startable s fn 1 1 = some c →
      exec (.sysInfo fn) s = .next (finishOk s fn c.id (fields 40
        [(0, le 4 s.boot.fwVersion.toNat), (4, le 1 0xB1), (5, le 1 0xA2), (6, le 2 fn.val), (8, le 1 (if fn.val = 0 then 255 else fn.val - 1)),
         (9, le 1 s.pow.state.code), (0x0C, le 4 (s.mb fn).gen.toNat), (0x10, (List.range 12).map Config.serial), (0x20, le 8 s.time.toNat)]))) ∧
    (∀ (fn : Fn) (c : Consumed) (s : State),
      startable s fn 1 2 = some c →
      c.u32 0 = 0 →
      s.rst.warmReq = 0 →
      exec (.sysReset fn) s = .next { finishOk s fn c.id [] with rst := { s.rst with warmReq := 1 } }) ∧
    (∀ (fn : Fn) (c : Consumed) (s : State),
      startable s fn 1 4 = some c →
      exec (.sysEventMask fn) s = .next (finishOk (s.setMb fn { s.mb fn with mask := BitVec.ofNat 16 (c.u16 0) &&& 0x7FFE }) fn c.id (le 2 (s.mb fn).mask.toNat))) ∧
    (∀ (fn : Fn) (c : Consumed) (s : State),
      startable s fn 1 5 = some c →
      exec (.sysEcho fn) s = .next (finishOk s fn c.id (bytesAt c.req.payload 0 48))) ∧
    (∀ (s : State),
      s.comp.running = true →
      s.pow.state = .off →
      anyOn s = true →
      exec .wakeInRecognised s = .next (wakeOff { s with comp := { s.comp with aon := { s.comp.aon with wakeCause := 1 } } })) ∧
    (∀ (s : State),
      s.comp.running = true →
      s.pow.state = .sleep →
      exec .wakeInRecognised s = .next (note s (noteStatusAll s (wakeUp s 1)))) ∧
    (∀ (pass : Bool) (s : State),
      s.comp.updating = true →
      s.host.upd.phase ≠ 3 →
      exec (.companionUpdateEnd pass) s = .next { s with comp := { s.comp with updating := false, fw := if pass then some s.comp.newFw else s.comp.fw, newFw := [], status := s.comp.status ||| 0x2000 } }) ∧
    (∀ (pass : Bool) (s : State),
      s.comp.updating = true →
      s.host.upd.phase = 3 →
      ∃ t r, exec (.companionUpdateEnd pass) s = .next (workDone t s.host.upd.fn s.host.upd.cmdId r) ∧ r.status = (if pass then 0 else 0x0103) ∧
        t = { s with host := { s.host with upd := Update.init }, comp := { s.comp with updating := false, fw := if pass then some s.comp.newFw else s.comp.fw, newFw := [], status := s.comp.status ||| 0x2000 } })

/-- SYS.UPDATE checks its image and asks for the switch; the switch, the new firmware's self-check and its timeout. (R225, R226, R228, R229, R230, R231, R232) -/
def Obligations.LiveUpdateSwitchesOrFallsBack : Prop :=
    (∀ (fn : Fn) (buf : Option (List Byte)) (c : Consumed) (s : State),
      startable s fn 1 3 = some c →
      c.u32 0 ≤ 1 →
      c.u32 4 ≤ 3 →
      c.u32 12 = 0 →
      s.host.upd.phase = 0 →
      ∃ t get, get = (fun o n => flashRead s (slotBase (c.u32 0) + o) n) ∧ exec (.sysUpdate fn buf) s = .next (note s t) ∧
        (imageCheck get ≠ 0 → ∃ r, t = workDone (accept s fn c.id) fn c.id r ∧ r.status = 0x0102 ∧ r.detail = imageCheck get) ∧
        (imageCheck get = 0 → bitOf (c.u32 4) 0 = true → t.host.upd.phase = 1 ∧ t.host.upd.fn = fn ∧ t.host.upd.cmdId = c.id ∧
          t.host.upd.oldVersion = s.boot.fwVersion ∧ t.host.upd.newVersion = BitVec.ofNat 32 (rd 4 (get 0 0x500) 12))) ∧
    (∀ (s : State),
      s.host.upd.phase = 1 →
      ∃ t, exec .updateSwitch s = .next t ∧ t.host.upd.phase = 2 ∧ t.fab = s.fab ∧ t.part = s.part ∧ t.hbm = s.hbm ∧ t.eng = s.eng ∧
        t.link = s.link ∧ t.hub = s.hub ∧ t.husk = s.husk ∧ t.pow = s.pow ∧ t.comp = s.comp) ∧
    (∀ (s : State),
      s.host.upd.phase = 2 →
      s.host.upd.companion = none →
      ∃ t u, t = { s with boot := { s.boot with fwVersion := s.host.upd.newVersion }, host := { s.host with upd := { s.host.upd with phase := 0, held := [] } } } ∧
        u = workDone (updateDone t 0) s.host.upd.fn s.host.upd.cmdId
          ⟨0, 0, updatePayload s.host.upd.oldVersion s.host.upd.newVersion 0 false s.host.upd.companionSame⟩ ∧
        exec .updateSelfcheckPass s = .next (note s (noteStatusAll s u))) ∧
    (∀ (s : State),
      s.host.upd.phase = 2 →
      ∃ u, u = workDone (updateDone { s with host := { s.host with upd := Update.init } } 0x0103) s.host.upd.fn s.host.upd.cmdId
          ⟨0x0103, 0, updatePayload s.host.upd.oldVersion s.host.upd.newVersion 0 false false⟩ ∧
        exec .updateSelfcheckTimeout s = .next (note s (noteStatusAll s u)))

/-- A region's map is queried and applied, its pods are quarantined and returned; cells are read and written. (R28, R253, R257, R260, R264, R265, R272, R286, R288, R289, R291, R292) -/
def Obligations.RegionsMapsAndPods : Prop :=
    (∀ (fn : Fn) (c : Consumed) (s : State),
      startable s fn 4 1 = some c →
      fn.val = 0 →
      c.u8 0 < 16 →
      ∃ r, r = s.rgn (c.u8 0) ∧ exec (.regionQuery fn) s = .next (finishOk s fn c.id (fields 0x28
        [(0, le 1 (c.u8 0)), (1, le 1 (serviceability r)), (2, le 1 ((s.regionPart (c.u8 0)).getD 255)), (3, le 1 (b2n (!s.pow.gated.contains (c.u8 0)))),
         (4, le 4 r.sequence.toNat), (8, le 8 (fingerprint r.s1 r.s3)), (0x10, le 2 r.s1), (0x12, le 2 r.s3), (0x14, le 1 (b2n r.stored)),
         (0x18, podStateBytes r.pods)]))) ∧
    (∀ (fn : Fn) (c : Consumed) (s : State),
      startable s fn 4 2 = some c →
      flashFree s = true →
      s.boot.jobs = [] →
      applyMapRefusal c s = none →
      ∃ t, t = applyMap (accept s fn c.id) (c.u8 0) (c.u16 8) (c.u16 10) ∧
        exec (.regionApplyMap fn true) s = .next (workDone t fn c.id
          ⟨0, 0, le 8 (fingerprint (t.rgn (c.u8 0)).s1 (t.rgn (c.u8 0)).s3) ++ le 4 (t.rgn (c.u8 0)).sequence.toNat⟩)) ∧
    (∀ (fn : Fn) (c : Consumed) (s : State),
      startable s fn 4 3 = some c →
      c.u8 0 < 16 →
      c.u8 1 < 42 →
      c.u8 2 ≤ 1 →
      regionBusy s (c.u8 0) = false →
      usable (slotState (s.rgn (c.u8 0)).pods (c.u8 1)) = true →
      s.regionPart (c.u8 0) = none →
      ∃ t, t = quarantine s (c.u8 0) (c.u8 1) 0 ∧ exec (.podQuarantine fn) s = .next (note s (finishOk t fn c.id
          (le 1 (slotState (s.rgn (c.u8 0)).pods (c.u8 1)).code ++ le 1 (serviceability (t.rgn (c.u8 0))))))) ∧
    (∀ (fn : Fn) (c : Consumed) (s : State),
      startable s fn 4 4 = some c →
      c.u8 0 < 16 →
      c.u8 1 < 42 →
      regionBusy s (c.u8 0) = false →
      usable (slotState (s.rgn (c.u8 0)).pods (c.u8 1)) = false →
      s.pow.gated.contains (c.u8 0) = false →
      s.boot.sections.contains 5 = true →
      ∃ t, t = dueStore (podState (accept s fn c.id) (c.u8 0) (c.u8 1) .spareAvailable 0) (c.u8 0) ∧
        exec (.podReturn fn none) s = .next (workDone { t with faults := { t.faults with podFaults := tdel t.faults.podFaults (c.u8 0 * 64 + c.u8 1) } }
          fn c.id ⟨0, 0, le 1 0 ++ le 1 1 ++ le 2 0 ++ le 4 0⟩)) ∧
    (∀ (k : Fin 640) (m : Fin 2) (a : Fin 8192) (s : State),
      s.fab.writeBack.contains (cellWord k m a) = true →
      exec (.eccWriteBack k m a) s = .next { s with fab := { s.fab with cellEcc := tdel s.fab.cellEcc (cellWord k m a), writeBack := sdel s.fab.writeBack (cellWord k m a) } }) ∧
    (∀ (k : Fin 640) (m : Fin 2) (a : Fin 8192) (p : Nat) (s : State),
      podOn s k = some p →
      ∃ t, t = readCellWord s (cellAddr k m a) ∧ exec (.cellRead k m a) s = .next (note s (fly t k ((s.pt p).run.advanced + 2) (.localIn m)
        ⟨lineOf (devBytes t (cellAddr k m a) 64), wordPoisoned t (cellAddr k m a)⟩))) ∧
    (∀ (k : Fin 640) (m : Fin 2) (a : Fin 8192) (p : Nat) (l : PLine) (s : State),
      podOn s k = some p →
      (s.pod k).arriving (s.pt p).run.advanced m = some l →
      exec (.cellWrite k m a) s = .next (note s (s.setPod k { s.pod k with writes := (s.pod k).writes ++ [{ due := (s.pt p).run.advanced + 1, wordNo := cellWord k m a, word := l.data, poison := l.poison }] })))

/-- Vector arithmetic, logic, shifts, moves and selection compute each lane and write it after their latency. (R280, R306, R310, R311, R312, R317) -/
def Obligations.VectorArithmeticAndLogic : Prop :=
    (∀ (k : Fin 640) (p : Nat) (v : VInstr) (s : State),
      podOn s k = some p →
      vecValid 0 v = true →
      exec (.vNop k v) s = .next (note s s)) ∧
    (∀ (k : Fin 640) (p : Nat) (v : VInstr) (s : State),
      podOn s k = some p →
      vecValid 0x1 v = true →
      ∃ val : Nat → Nat, (∀ i, val i = if isInt v.ty then intLane v.sat (sext 32 (vecSrc s k v.ty v.a i) + sext 32 (vecSrc s k v.ty v.b i)) else fltLane v.ty v.sat (((fmtOf v.ty).value (vecSrc s k v.ty v.a i)).add ((fmtOf v.ty).value (vecSrc s k v.ty v.b i)))) ∧
        exec (.vAdd k v) s = .next (note s (vecLeaves s p k 0x1 v 4 (widthOf v.ty) (lanesOf v.ty) val))) ∧
    (∀ (k : Fin 640) (p : Nat) (v : VInstr) (s : State),
      podOn s k = some p →
      vecValid 0x2 v = true →
      ∃ val : Nat → Nat, (∀ i, val i = if isInt v.ty then intLane v.sat (sext 32 (vecSrc s k v.ty v.a i) - sext 32 (vecSrc s k v.ty v.b i)) else fltLane v.ty v.sat (((fmtOf v.ty).value (vecSrc s k v.ty v.a i)).add ((fmtOf v.ty).value (vecSrc s k v.ty v.b i)).neg)) ∧
        exec (.vSub k v) s = .next (note s (vecLeaves s p k 0x2 v 4 (widthOf v.ty) (lanesOf v.ty) val))) ∧
    (∀ (k : Fin 640) (p : Nat) (v : VInstr) (s : State),
      podOn s k = some p →
      vecValid 0x3 v = true →
      ∃ val : Nat → Nat, (∀ i, val i = if isInt v.ty then intLane v.sat (sext 32 (vecSrc s k v.ty v.a i) * sext 32 (vecSrc s k v.ty v.b i)) else fltLane v.ty v.sat (((fmtOf v.ty).value (vecSrc s k v.ty v.a i)).mul ((fmtOf v.ty).value (vecSrc s k v.ty v.b i)))) ∧
        exec (.vMul k v) s = .next (note s (vecLeaves s p k 0x3 v 4 (widthOf v.ty) (lanesOf v.ty) val))) ∧
    (∀ (k : Fin 640) (p : Nat) (v : VInstr) (s : State),
      podOn s k = some p →
      vecValid 0x4 v = true →
      ∃ val : Nat → Nat, (∀ i, val i = if isInt v.ty then intLane v.sat (sext 32 (vecSrc s k v.ty v.a i) * sext 32 (vecSrc s k v.ty v.b i) + sext 32 (vecSrc s k v.ty v.c i)) else fltLane v.ty v.sat ((((fmtOf v.ty).value (vecSrc s k v.ty v.a i)).mul ((fmtOf v.ty).value (vecSrc s k v.ty v.b i))).add ((fmtOf v.ty).value (vecSrc s k v.ty v.c i)))) ∧
        exec (.vFma k v) s = .next (note s (vecLeaves s p k 0x4 v 4 (widthOf v.ty) (lanesOf v.ty) val))) ∧
    (∀ (k : Fin 640) (p : Nat) (v : VInstr) (s : State),
      podOn s k = some p →
      vecValid 0x5 v = true →
      ∃ val : Nat → Nat, (∀ i, val i = if isInt v.ty then intLane v.sat (sext 32 (vecSrc s k v.ty v.a i) * sext 32 (vecSrc s k v.ty v.b i) - sext 32 (vecSrc s k v.ty v.c i)) else fltLane v.ty v.sat ((((fmtOf v.ty).value (vecSrc s k v.ty v.a i)).mul ((fmtOf v.ty).value (vecSrc s k v.ty v.b i))).add ((fmtOf v.ty).value (vecSrc s k v.ty v.c i)).neg)) ∧
        exec (.vFms k v) s = .next (note s (vecLeaves s p k 0x5 v 4 (widthOf v.ty) (lanesOf v.ty) val))) ∧
    (∀ (k : Fin 640) (p : Nat) (v : VInstr) (s : State),
      podOn s k = some p →
      vecValid 0x6 v = true →
      ∃ val : Nat → Nat, (∀ i, val i = if isInt v.ty then intLane false (max (sext 32 (vecSrc s k v.ty v.a i)) (sext 32 (vecSrc s k v.ty v.b i))) else fltLane v.ty v.sat (((fmtOf v.ty).value (vecSrc s k v.ty v.a i)).max ((fmtOf v.ty).value (vecSrc s k v.ty v.b i)))) ∧
        exec (.vMax k v) s = .next (note s (vecLeaves s p k 0x6 v 2 (widthOf v.ty) (lanesOf v.ty) val))) ∧
    (∀ (k : Fin 640) (p : Nat) (v : VInstr) (s : State),
      podOn s k = some p →
      vecValid 0x7 v = true →
      ∃ val : Nat → Nat, (∀ i, val i = if isInt v.ty then intLane false (min (sext 32 (vecSrc s k v.ty v.a i)) (sext 32 (vecSrc s k v.ty v.b i))) else fltLane v.ty v.sat (((fmtOf v.ty).value (vecSrc s k v.ty v.a i)).min ((fmtOf v.ty).value (vecSrc s k v.ty v.b i)))) ∧
        exec (.vMin k v) s = .next (note s (vecLeaves s p k 0x7 v 2 (widthOf v.ty) (lanesOf v.ty) val))) ∧
    (∀ (k : Fin 640) (p : Nat) (v : VInstr) (s : State),
      podOn s k = some p →
      vecValid 0x8 v = true →
      ∃ val : Nat → Nat, (∀ i, val i = if isInt v.ty then intLane v.sat (((sext 32 (vecSrc s k v.ty v.a i)).natAbs : Int)) else fltLane v.ty v.sat (if ((fmtOf v.ty).value (vecSrc s k v.ty v.a i)).isNeg then ((fmtOf v.ty).value (vecSrc s k v.ty v.a i)).neg else ((fmtOf v.ty).value (vecSrc s k v.ty v.a i)))) ∧
        exec (.vAbs k v) s = .next (note s (vecLeaves s p k 0x8 v 2 (widthOf v.ty) (lanesOf v.ty) val))) ∧
    (∀ (k : Fin 640) (p : Nat) (v : VInstr) (s : State),
      podOn s k = some p →
      vecValid 0x9 v = true →
      ∃ val : Nat → Nat, (∀ i, (∀ n m e, ((fmtOf v.ty).value (vecSrc s k v.ty v.a i)) = .fin n m e → val i = fltLane v.ty v.sat (.fin n m (e + sext 9 v.imm))) ∧ ((∀ n m e, ((fmtOf v.ty).value (vecSrc s k v.ty v.a i)) ≠ .fin n m e) → val i = fltLane v.ty v.sat ((fmtOf v.ty).value (vecSrc s k v.ty v.a i)))) ∧
        exec (.vScaleb k v) s = .next (note s (vecLeaves s p k 0x9 v 3 (widthOf v.ty) (lanesOf v.ty) val))) ∧
    (∀ (k : Fin 640) (p : Nat) (v : VInstr) (s : State),
      podOn s k = some p →
      vecValid 0xa v = true →
      ∃ val : Nat → Nat, (∀ i, val i = vecSrc s k v.ty v.a i &&& vecSrc s k v.ty v.b i) ∧
        exec (.vAnd k v) s = .next (note s (vecLeaves s p k 0xa v 2 (widthOf v.ty) (lanesOf v.ty) val))) ∧
    (∀ (k : Fin 640) (p : Nat) (v : VInstr) (s : State),
      podOn s k = some p →
      vecValid 0xb v = true →
      ∃ val : Nat → Nat, (∀ i, val i = vecSrc s k v.ty v.a i ||| vecSrc s k v.ty v.b i) ∧
        exec (.vOr k v) s = .next (note s (vecLeaves s p k 0xb v 2 (widthOf v.ty) (lanesOf v.ty) val))) ∧
    (∀ (k : Fin 640) (p : Nat) (v : VInstr) (s : State),
      podOn s k = some p →
      vecValid 0xc v = true →
      ∃ val : Nat → Nat, (∀ i, val i = vecSrc s k v.ty v.a i ^^^ vecSrc s k v.ty v.b i) ∧
        exec (.vXor k v) s = .next (note s (vecLeaves s p k 0xc v 2 (widthOf v.ty) (lanesOf v.ty) val))) ∧
    (∀ (k : Fin 640) (p : Nat) (v : VInstr) (s : State),
      podOn s k = some p →
      vecValid 0xd v = true →
      ∃ val : Nat → Nat, (∀ i, val i = vecSrc s k v.ty v.a i * 2 ^ (v.imm % 32) % 2 ^ 32) ∧
        exec (.vShl k v) s = .next (note s (vecLeaves s p k 0xd v 2 (widthOf v.ty) (lanesOf v.ty) val))) ∧
    (∀ (k : Fin 640) (p : Nat) (v : VInstr) (s : State),
      podOn s k = some p →
      vecValid 0xe v = true →
      ∃ val : Nat → Nat, (∀ i, val i = vecSrc s k v.ty v.a i / 2 ^ (v.imm % 32)) ∧
        exec (.vShr k v) s = .next (note s (vecLeaves s p k 0xe v 2 (widthOf v.ty) (lanesOf v.ty) val))) ∧
    (∀ (k : Fin 640) (p : Nat) (v : VInstr) (s : State),
      podOn s k = some p →
      vecValid 0xf v = true →
      ∃ val : Nat → Nat, (∀ i, val i = ofInt 32 (sext 32 (vecSrc s k v.ty v.a i) / (2 ^ (v.imm % 32) : Nat))) ∧
        exec (.vSra k v) s = .next (note s (vecLeaves s p k 0xf v 2 (widthOf v.ty) (lanesOf v.ty) val))) ∧
    (∀ (k : Fin 640) (p : Nat) (v : VInstr) (s : State),
      podOn s k = some p →
      vecValid 0x10 v = true →
      ∃ val : Nat → Nat, (∀ i, val i = ofInt 32 (sext 13 v.imm)) ∧
        exec (.vMovi k v) s = .next (note s (vecLeaves s p k 0x10 v 2 (widthOf v.ty) (lanesOf v.ty) val))) ∧
    (∀ (k : Fin 640) (p : Nat) (v : VInstr) (s : State),
      podOn s k = some p →
      vecValid 0x11 v = true →
      ∃ val : Nat → Nat, (∀ i, val i = vecSrc s k v.ty v.a v.imm) ∧
        exec (.vSplat k v) s = .next (note s (vecLeaves s p k 0x11 v 2 (widthOf v.ty) (lanesOf v.ty) val))) ∧
    (∀ (k : Fin 640) (p : Nat) (v : VInstr) (s : State),
      podOn s k = some p →
      vecValid 0x21 v = true →
      ∃ val : Nat → Nat, (∀ i, val i = if bitOf ((s.pod k).qMask (v.imm % 4)) i then vecSrc s k v.ty v.a i else vecSrc s k v.ty v.b i) ∧
        exec (.vSel k v) s = .next (note s (vecLeaves s p k 0x21 v 2 (widthOf v.ty) (lanesOf v.ty) val)))

/-- Vector reductions, special functions, permutes, comparison, conversion, and words received, sent and emitted. (R306, R309, R310, R312, R313, R314, R315, R316, R317) -/
def Obligations.VectorReductionsFunctionsAndPermutes : Prop :=
    (∀ (k : Fin 640) (p : Nat) (v : VInstr) (s : State),
      podOn s k = some p →
      vecValid 0x31 v = true →
      ∃ val : Nat → Nat, (∀ i, val i = widenLane v.ty (vecSrc s k v.ty v.a (v.imm * 32 + i))) ∧
        exec (.vUnpack k v) s = .next (note s (vecLeaves s p k 0x31 v 3 32 32 val))) ∧
    (∀ (k : Fin 640) (p : Nat) (v : VInstr) (s : State),
      podOn s k = some p →
      vecValid 0x40 v = true →
      ∃ val : Nat → Nat, (∀ i, val i = if i = 0 then sumTree 7 v.ty v.sat (lanesOf v.ty / 2) ((List.range (lanesOf v.ty)).map (vecSrc s k v.ty v.a)) else 0) ∧
        exec (.vRsum k v) s = .next (note s (vecLeaves s p k 0x40 v 8 (widthOf v.ty) (lanesOf v.ty) val))) ∧
    (∀ (k : Fin 640) (p : Nat) (v : VInstr) (s : State),
      podOn s k = some p →
      vecValid 0x41 v = true →
      ∃ val : Nat → Nat, (val 0 = extremum 6 v.ty ((List.range (lanesOf v.ty)).map (vecSrc s k v.ty v.a)) 0) ∧
        exec (.vRmax k v) s = .next (note s (vecLeaves s p k 0x41 v 8 (widthOf v.ty) (lanesOf v.ty) val))) ∧
    (∀ (k : Fin 640) (p : Nat) (v : VInstr) (s : State),
      podOn s k = some p →
      vecValid 0x42 v = true →
      ∃ val : Nat → Nat, (val 0 = extremum 7 v.ty ((List.range (lanesOf v.ty)).map (vecSrc s k v.ty v.a)) 0) ∧
        exec (.vRmin k v) s = .next (note s (vecLeaves s p k 0x42 v 8 (widthOf v.ty) (lanesOf v.ty) val))) ∧
    (∀ (k : Fin 640) (p : Nat) (v : VInstr) (s : State),
      podOn s k = some p →
      vecValid 0x43 v = true →
      ∃ val : Nat → Nat, (val 0 = argMax v.ty ((List.range (lanesOf v.ty)).map (vecSrc s k v.ty v.a))) ∧
        exec (.vRargmax k v) s = .next (note s (vecLeaves s p k 0x43 v 8 32 32 val))) ∧
    (∀ (k : Fin 640) (p : Nat) (v : VInstr) (s : State),
      podOn s k = some p →
      vecValid 0x50 v = true →
      ∃ val : Nat → Nat, (∀ i, val i = specialLane 0x50 v.ty v.sat (vecSrc s k v.ty v.a i)) ∧
        exec (.vExp2 k v) s = .next (note s (vecLeaves s p k 0x50 v 12 (widthOf v.ty) (lanesOf v.ty) val))) ∧
    (∀ (k : Fin 640) (p : Nat) (v : VInstr) (s : State),
      podOn s k = some p →
      vecValid 0x51 v = true →
      ∃ val : Nat → Nat, (∀ i, val i = specialLane 0x51 v.ty v.sat (vecSrc s k v.ty v.a i)) ∧
        exec (.vLog2 k v) s = .next (note s (vecLeaves s p k 0x51 v 12 (widthOf v.ty) (lanesOf v.ty) val))) ∧
    (∀ (k : Fin 640) (p : Nat) (v : VInstr) (s : State),
      podOn s k = some p →
      vecValid 0x52 v = true →
      ∃ val : Nat → Nat, (∀ i, val i = specialLane 0x52 v.ty v.sat (vecSrc s k v.ty v.a i)) ∧
        exec (.vRcp k v) s = .next (note s (vecLeaves s p k 0x52 v 8 (widthOf v.ty) (lanesOf v.ty) val))) ∧
    (∀ (k : Fin 640) (p : Nat) (v : VInstr) (s : State),
      podOn s k = some p →
      vecValid 0x53 v = true →
      ∃ val : Nat → Nat, (∀ i, val i = specialLane 0x53 v.ty v.sat (vecSrc s k v.ty v.a i)) ∧
        exec (.vRsqrt k v) s = .next (note s (vecLeaves s p k 0x53 v 8 (widthOf v.ty) (lanesOf v.ty) val))) ∧
    (∀ (k : Fin 640) (p : Nat) (v : VInstr) (s : State),
      podOn s k = some p →
      vecValid 0x54 v = true →
      ∃ val : Nat → Nat, (∀ i, val i = specialLane 0x54 v.ty v.sat (vecSrc s k v.ty v.a i)) ∧
        exec (.vTanh k v) s = .next (note s (vecLeaves s p k 0x54 v 12 (widthOf v.ty) (lanesOf v.ty) val))) ∧
    (∀ (k : Fin 640) (p : Nat) (v : VInstr) (s : State),
      podOn s k = some p →
      vecValid 0x55 v = true →
      ∃ val : Nat → Nat, (∀ i, val i = specialLane 0x55 v.ty v.sat (vecSrc s k v.ty v.a i)) ∧
        exec (.vErf k v) s = .next (note s (vecLeaves s p k 0x55 v 12 (widthOf v.ty) (lanesOf v.ty) val))) ∧
    (∀ (k : Fin 640) (p : Nat) (v : VInstr) (s : State),
      podOn s k = some p →
      vecValid 0x60 v = true →
      ∃ val : Nat → Nat, (∀ i, val i = vecSrc s k v.ty v.a (vecSrc s k v.ty v.b i % lanesOf v.ty)) ∧
        exec (.vPerm k v) s = .next (note s (vecLeaves s p k 0x60 v 3 (widthOf v.ty) (lanesOf v.ty) val))) ∧
    (∀ (k : Fin 640) (p : Nat) (v : VInstr) (s : State),
      podOn s k = some p →
      vecValid 0x61 v = true →
      ∃ val : Nat → Nat, (∀ i, val i = vecSrc s k v.ty v.a ((i + v.imm) % lanesOf v.ty)) ∧
        exec (.vRot k v) s = .next (note s (vecLeaves s p k 0x61 v 3 (widthOf v.ty) (lanesOf v.ty) val))) ∧
    (∀ (k : Fin 640) (p : Nat) (v : VInstr) (s : State),
      podOn s k = some p →
      vecValid 0x62 v = true →
      ∃ val : Nat → Nat, (∀ i, i + v.imm < 2 * lanesOf v.ty → val i = if i + v.imm < lanesOf v.ty then vecSrc s k v.ty v.a (i + v.imm) else vecSrc s k v.ty v.b (i + v.imm - lanesOf v.ty)) ∧
        exec (.vFunnel k v) s = .next (note s (vecLeaves s p k 0x62 v 3 (widthOf v.ty) (lanesOf v.ty) val))) ∧
    (∀ (k : Fin 640) (p : Nat) (v : VInstr) (s : State),
      podOn s k = some p →
      vecValid 0x63 v = true →
      ∃ val : Nat → Nat, (∀ i, val i = if i % 2 = 0 then vecSrc s k v.ty v.a (i / 2 + v.imm * (lanesOf v.ty / 2)) else vecSrc s k v.ty v.b (i / 2 + v.imm * (lanesOf v.ty / 2))) ∧
        exec (.vZip k v) s = .next (note s (vecLeaves s p k 0x63 v 3 (widthOf v.ty) (lanesOf v.ty) val))) ∧
    (∀ (k : Fin 640) (p : Nat) (v : VInstr) (s : State),
      podOn s k = some p →
      vecValid 0x64 v = true →
      ∃ val : Nat → Nat, (∀ i, val i = if i < lanesOf v.ty / 2 then vecSrc s k v.ty v.a (2 * (i % (lanesOf v.ty / 2)) + v.imm) else vecSrc s k v.ty v.b (2 * (i % (lanesOf v.ty / 2)) + v.imm)) ∧
        exec (.vUnzip k v) s = .next (note s (vecLeaves s p k 0x64 v 3 (widthOf v.ty) (lanesOf v.ty) val))) ∧
    (∀ (k : Fin 640) (p : Nat) (v : VInstr) (s : State),
      podOn s k = some p →
      vecValid 0x20 v = true →
      ∃ bits on : W64, (∀ i, i < lanesOf v.ty → bits.getLsbD i = cmpLane v.ty (v.imm / 4) (vecSrc s k v.ty v.a i) (vecSrc s k v.ty v.b i)) ∧
        (∀ i, i < lanesOf v.ty → on.getLsbD i = laneOn v (s.pod k).qMask i) ∧
        exec (.vCmp k v) s = .next (note s (addResult { s with free := s.free + 128 } k (s.pt p).run.advanced ((s.pt p).run.advanced + 2) (.mask (v.imm % 4) bits on)))) ∧
    (∀ (k : Fin 640) (p : Nat) (v : VInstr) (s : State),
      podOn s k = some p →
      vecValid 0x30 v = true →
      ∃ (val : Nat → Nat) (on : Nat → Bool) (d base : Nat), d = widthOf (v.imm % 8) ∧ base = v.imm / 16 * lanesOf v.ty * (d / 8) ∧
        (∀ i, i < 64 ∨ v.pred = 0 → val i = cvtLane v.ty (v.imm % 8) v.sat (bitOf v.imm 3) (vecSrc s k v.ty v.a i) ∧ on i = laneOn v (s.pod k).qMask i) ∧
        exec (.vCvt k v) s = .next (note s (addResult { s with free := s.free + 128 } k (s.pt p).run.advanced ((s.pt p).run.advanced + 3)
          (.entry v.dst (BitVec.ofNat 1024 (packLanes d ((List.range (lanesOf v.ty)).map val) * 2 ^ (8 * base)))
            (laneBytes d base ((List.range (lanesOf v.ty)).map on)) (vecPoison (s.pod k) 0x30 v))))) ∧
    (∀ (k : Fin 640) (p : Nat) (v : VInstr) (l : PLine) (s : State),
      podOn s k = some p →
      vecValid 0x70 v = true →
      (s.pod k).arriving (s.pt p).run.advanced 3 = some l →
      exec (.vRecv k v) s = .next (note s (addResult s k (s.pt p).run.advanced ((s.pt p).run.advanced + 1) (.half v.dst v.imm l.data l.poison)))) ∧
    (∀ (k : Fin 640) (p : Nat) (v : VInstr) (s : State),
      podOn s k = some p →
      vecValid 0x71 v = true →
      exec (.vSend k v) s = .next (note s (fly s k ((s.pt p).run.advanced + 2) (.localIn 3)
        ⟨BitVec.ofNat 512 (((s.pod k).oc v.a).data.toNat / 2 ^ (512 * v.imm) % 2 ^ 512), if v.imm = 0 then ((s.pod k).oc v.a).lo else ((s.pod k).oc v.a).hi⟩))) ∧
    (∀ (k : Fin 640) (p : Nat) (v : VInstr) (s : State),
      podOn s k = some p →
      vecValid 0x7F v = true →
      ∃ x, x = s.pt p ∧ exec (.vEmit k v) s = .next (note s (s.setPt p { x with run := { x.run with summaryFlights := x.run.summaryFlights ++ [{ word := summaryWord k v (s.pod k), due := x.run.elapsed + 12 + 4 * regionDist (regionOfPod k) x.leader }] } }))) ∧
    (∀ (k : Fin 640) (v : VInstr) (s : State),
      vecValid 0x01 v = false →
      exec (.vAdd k v) s = .fault .invalidEncoding)

/-- Each matrix operation enters a row, clears a bank, loads a weight row, swaps tiles or drains a row. (R294, R296, R297, R298, R300, R304) -/
def Obligations.MatrixOperationsOfAPod : Prop :=
    (∀ (k : Fin 640) (bank : Fin 2) (row : Fin 32) (half : Bool) (p : Nat) (s : State),
      podOn s k = some p →
      (activeCfg s p k).mode' ≠ 0 →
      (half = true → wideMode (activeCfg s p k).mode' = false) →
      ∃ l, l = (s.pod k).latchAt (s.pt p).run.advanced ∧ exec (.macNew k bank row half) s = .next (note s (s.setPod k { s.pod k with waves := (s.pod k).waves ++ [{ entry := (s.pt p).run.advanced, mode := (activeCfg s p k).mode', bank := bank, row := row, old := none, input := latchRow (activeCfg s p k).mode' l.data half, half := b2n half, tile := (s.pod k).active, met := [], poison := l.poison }] }))) ∧
    (∀ (k : Fin 640) (bank : Fin 2) (row : Fin 32) (half : Bool) (p : Nat) (s : State),
      podOn s k = some p →
      (activeCfg s p k).mode' ≠ 0 →
      (half = true → wideMode (activeCfg s p k).mode' = false) →
      ∃ l o, l = (s.pod k).latchAt (s.pt p).run.advanced ∧ o = tget (⟨0, false⟩ : PRow) (s.pod k).acc (bank * 32 + row) ∧
        exec (.macAcc k bank row half) s = .next (note s (s.setPod k { s.pod k with waves := (s.pod k).waves ++ [{ entry := (s.pt p).run.advanced, mode := (activeCfg s p k).mode', bank := bank, row := row, old := some o.data, input := latchRow (activeCfg s p k).mode' l.data half, half := b2n half, tile := (s.pod k).active, met := [], poison := l.poison || o.poison }] }))) ∧
    (∀ (k : Fin 640) (bank : Fin 2) (p : Nat) (s : State),
      podOn s k = some p →
      exec (.matClear k bank) s = .next (note s (s.setPod k { s.pod k with acc := (s.pod k).acc.filter (fun e => e.1 / 32 ≠ bank) }))) ∧
    (∀ (k : Fin 640) (row : Fin 32) (half : Bool) (p : Nat) (s : State),
      podOn s k = some p →
      (half = true → wideMode (activeCfg s p k).mode' = false) →
      ∃ l, l = (s.pod k).latchAt (s.pt p).run.advanced ∧ exec (.wload k row half) s = .next (note s (s.setPod k { s.pod k with weights := tset (s.pod k).weights ((1 - (s.pod k).active) * 32 + row) ⟨latchRow (activeCfg s p k).mode' l.data half, l.poison⟩ }))) ∧
    (∀ (k : Fin 640) (p : Nat) (s : State),
      podOn s k = some p →
      exec (.wswap k) s = .next (note s (s.setPod k { s.pod k with active := 1 - (s.pod k).active }))) ∧
    (∀ (k : Fin 640) (bank : Fin 2) (row : Fin 32) (p : Nat) (s : State),
      podOn s k = some p →
      ∃ r ws, r = tget (⟨0, false⟩ : PRow) (s.pod k).acc (bank * 32 + row) ∧ ws = drainWords (activeCfg s p k) r.data ∧
        exec (.matDrain k bank row) s = .next (note s ((List.range ws.length).foldl (fun t i =>
          fly t k ((s.pt p).run.advanced + 2 + i) (.localIn 2) ⟨ws.getD i 0, r.poison⟩) s))) ∧
    (∀ (k : Fin 640) (bank : Fin 2) (row : Fin 32) (p : Nat) (s : State),
      podOn s k = some p →
      wideMode (activeCfg s p k).mode' = true →
      exec (.macNew k bank row true) s = .fault .invalidEncoding ∧ exec (.macAcc k bank row true) s = .fault .invalidEncoding ∧
        exec (.wload k row true) s = .fault .invalidEncoding)

/-- A sequencer issues its due step, stalls on AWAIT or DECIDE, folds into the next context, and takes summaries and steers. (R327, R334, R335, R337, R340, R343, R346, R349, R350) -/
def Obligations.SequencersStepStallAndFold : Prop :=
    (∀ (k : Fin 640) (c : Fin 4) (p : Nat) (b : List Byte) (st : StepRec) (s : State),
      podOn s k = some p →
      foldDue s p = false →
      seqDue s p k c = true →
      stallNow s p = none →
      b = blockOf s p k c →
      st = stepOf b (seqOf s k c).step →
      stepIssues b (seqOf s k c) (s.pt p).run.flags st = true →
      st.decide = false →
      (s.pt p).inRun = true →
      ∃ s1, s1 = (if st.await then s.setPod k { s.pod k with flags := (s.pod k).flags.filter (· ≠ st.flag), consumed := st.flag :: (s.pod k).consumed } else s) ∧
        exec (.sequencerStepIssue k c) s = .next (note s (advanceSeq (stepEffect s1 p k c b (seqOf s k c) st.op) k c st.wait (s.pt p).run.sched))) ∧
    (∀ (k : Fin 640) (c : Fin 4) (p : Nat) (b : List Byte) (st : StepRec) (s : State),
      podOn s k = some p →
      foldDue s p = false →
      seqDue s p k c = true →
      stallNow s p = none →
      b = blockOf s p k c →
      st = stepOf b (seqOf s k c).step →
      stepIssues b (seqOf s k c) (s.pt p).run.flags st = false →
      exec (.sequencerStepIssue k c) s = .next (note s (advanceSeq s k c st.wait (s.pt p).run.sched))) ∧
    (∀ (k : Fin 640) (c : Fin 4) (p : Nat) (d : StallCause) (s : State),
      podOn s k = some p →
      foldDue s p = false →
      seqDue s p k c = true →
      stallNow s p = some d →
      exec (.sequencerStepIssue k c) s = .next (note s (setStall s p d))) ∧
    (∀ (p : Fin 16) (s : State),
      (s.pt p).inRun = true →
      (s.pt p).run.stall = some .await →
      stallNow s p = none →
      ∃ u, u = traceStall s p ∧ exec (.awaitStallEnd p) s = .next (note s (runState (u.setPt p { u.pt p with run := { (u.pt p).run with stall := none } }) p .running 0))) ∧
    (∀ (p : Fin 16) (s : State),
      (s.pt p).inRun = true →
      (s.pt p).run.stall = some .decide →
      stallNow s p = none →
      ∃ u, u = traceStall s p ∧ exec (.decideStallEnd p) s = .next (note s (runState (u.setPt p { u.pt p with run := { (u.pt p).run with stall := none } }) p .running 0))) ∧
    (∀ (p : Fin 16) (k c : Nat) (st : StepRec) (g rest : List W32) (s : State),
      partOn s p = true →
      paceOf s p = some (k, c) →
      dueStep s p k c = some st →
      st.decide = true →
      foldDue s p = false →
      stallNow s p = none →
      steerGroup (s.pt p).run.steers = some (g, rest) →
      badSteer g false = none →
      st.await = false →
      ∃ s2, s2 = g.foldl (fun t w => tracePart t p 2 0x21 (le 1 1 ++ le 4 w.toNat)) (s.setPt p { s.pt p with run := { (s.pt p).run with steers := rest, acting := g } }) ∧
        exec (.decisionPoint p) s = .next (note s (advanceSeq (stepEffect s2 p k c (blockOf s p k c) (seqOf s k c) st.op) k c st.wait (s.pt p).run.sched))) ∧
    (∀ (p : Fin 16) (s : State),
      partOn s p = true →
      foldDue s p = true →
      exec (.naturalFold p) s = .next (note s (foldBoundary s p))) ∧
    (∀ (p : Fin 16) (t : Nat) (s : State),
      (s.pt p).inRun = true →
      (s.pt p).run.stall = some .foldWait →
      (s.pt p).run.target = some t →
      (tget Slot.init (s.pt p).slots t).state = .committed →
      exec (.foldWaitEnd p) s = .next (note s (enterContext s p t))) ∧
    (∀ (p : Fin 16) (s : State),
      (s.pt p).inRun = true →
      exec (.steerDelivery p) s = .next (s.setPt p { s.pt p with run := { (s.pt p).run with steers := (s.pt p).run.steers ++ ((s.pt p).run.steerFlights.filter (fun f => f.due ≤ (s.pt p).run.elapsed)).map (fun f => f.word), steerFlights := (s.pt p).run.steerFlights.filter (fun f => !(f.due ≤ (s.pt p).run.elapsed)) } })) ∧
    (∀ (p : Fin 16) (w : W64) (d : Nat) (s : State),
      (s.pt p).inRun = true →
      (s.pt p).run.summaryFlights = [{ word := w, due := d }] →
      d ≤ (s.pt p).run.elapsed →
      (s.pt p).run.inbox.length < 256 →
      exec (.summaryArrival p) s = .next (note s (s.setPt p { s.pt p with run := { (s.pt p).run with inbox := (s.pt p).run.inbox ++ [w], summaryFlights := [] } })))

/-- A Sprout core executes integer instructions and reaches its steer queue, inbox and schedule count through its CSRs. (R316, R355, R356, R357, R359, R363, R364) -/
def Obligations.SproutInstructionsAndQueues : Prop :=
    (∀ (rg : Fin 16) (p rd rs1 : Nat) (imm : Nat) (s : State),
      coreOf s rg = some p →
      (s.sprout rg).run = .running →
      (s.sprout rg).ecc = [] →
      (s.sprout rg).pc.toNat + 4 ≤ 0x20000 →
      rd < 32 →
      rs1 < 32 →
      imm < 4096 →
      leNat (mread 0 (s.sprout rg).mem (s.sprout rg).pc.toNat 4) = imm * 2 ^ 20 + rs1 * 2 ^ 15 + rd * 2 ^ 7 + 0x13 →
      leNat (mread 0 (s.sprout rg).mem (s.sprout rg).pc.toNat 2) = (imm * 2 ^ 20 + rs1 * 2 ^ 15 + rd * 2 ^ 7 + 0x13) % 2 ^ 16 →
      exec (.sproutInstruction rg) s = .next (note s (retireTo (setX s rg rd (getX s rg rs1 + BitVec.ofInt 32 (sext 12 imm))) rg ((s.sprout rg).pc + 4) 1))) ∧
    (∀ (rg : Fin 16) (p rd rs1 rs2 : Nat) (s : State),
      coreOf s rg = some p →
      (s.sprout rg).run = .running →
      (s.sprout rg).ecc = [] →
      (s.sprout rg).pc.toNat + 4 ≤ 0x20000 →
      rd < 32 →
      rs1 < 32 →
      rs2 < 32 →
      leNat (mread 0 (s.sprout rg).mem (s.sprout rg).pc.toNat 4) = rs2 * 2 ^ 20 + rs1 * 2 ^ 15 + rd * 2 ^ 7 + 0x33 →
      leNat (mread 0 (s.sprout rg).mem (s.sprout rg).pc.toNat 2) = (rs1 * 2 ^ 15 + rd * 2 ^ 7 + 0x33) % 2 ^ 16 →
      exec (.sproutInstruction rg) s = .next (note s (retireTo (setX s rg rd (getX s rg rs1 + getX s rg rs2)) rg ((s.sprout rg).pc + 4) 1))) ∧
    (∀ (rg : Fin 16) (p : Nat) (w : W32) (s : State),
      coreOf s rg = some p →
      (s.sprout rg).run = .running →
      0 < steerFree s p →
      ∃ x t, x = s.pt p ∧ t = tracePart (s.setPt p { x with run := { x.run with steerFlights := x.run.steerFlights ++ [{ word := w, due := x.run.elapsed + 8 + 4 * ((x.w - 1) + (x.h - 1)) }] } }) p 2 0x21 (le 1 0 ++ le 4 w.toNat) ∧
        exec (.spSteer rg w) s = .next (note s (retireSp t rg))) ∧
    (∀ (rg : Fin 16) (p : Nat) (w : W32) (s : State),
      coreOf s rg = some p →
      (s.sprout rg).run = .running →
      steerFree s p = 0 →
      exec (.spSteer rg w) s = .next (note s (s.setSprout rg { s.sprout rg with run := .blockedSteer w 0 }))) ∧
    (∀ (rg : Fin 16) (p rd : Nat) (w : W32) (s : State),
      coreOf s rg = some p →
      (s.sprout rg).run = .blockedSteer w rd →
      0 < steerFree s p →
      exec (.spSteerUnblock rg) s = .next (retireSp (setX (pushSteer s p w) rg rd 0) rg)) ∧
    (∀ (rg : Fin 16) (rd : Fin 32) (p : Nat) (w : W64) (r : List W64) (s : State),
      coreOf s rg = some p →
      (s.sprout rg).run = .running →
      (s.pt p).run.inbox = w :: r →
      ∃ t, t = s.setPt p { s.pt p with run := { (s.pt p).run with inbox := r } } ∧ exec (.spInboxLo rg rd) s =
        .next (retireSp (setX (t.setSprout rg { t.sprout rg with inboxHi := BitVec.ofNat 32 (w.toNat / 2 ^ 32) }) rg rd (BitVec.ofNat 32 w.toNat)) rg)) ∧
    (∀ (rg : Fin 16) (rd : Fin 32) (p : Nat) (s : State),
      coreOf s rg = some p →
      (s.sprout rg).run = .running →
      (s.pt p).run.inbox = [] →
      exec (.spInboxLo rg rd) s = .next (s.setSprout rg { s.sprout rg with run := .blockedInbox rd })) ∧
    (∀ (rg : Fin 16) (p : Nat) (v : W32) (s : State),
      coreOf s rg = some p →
      (s.sprout rg).run = .running →
      v.getLsbD 0 = true →
      exec (.spInboxCtrl rg v) s = .next (note s (retireSp (s.setPt p { s.pt p with run := { (s.pt p).run with overrun := false } }) rg))) ∧
    (∀ (rg : Fin 16) (rd : Fin 32) (p : Nat) (s : State),
      coreOf s rg = some p →
      (s.sprout rg).run = .running →
      ∃ v, v = (s.pt p).run.sched ∧ exec (.spSchedFcLo rg rd) s = .next (note s (retireSp (setX
        (s.setSprout rg { s.sprout rg with schedHi := BitVec.ofNat 32 (v / 2 ^ 32) }) rg rd (BitVec.ofNat 32 v)) rg))) ∧
    (∀ (rg : Fin 16) (p : Nat) (s : State),
      coreOf s rg = some p →
      (s.sprout rg).run = .waiting →
      wfiReady s rg p = true →
      exec (.wfiWake rg) s = .next (retireTo s rg ((s.sprout rg).pc + 4) 1))

/-- Images are staged, checked and dropped; loads queue, shift and commit; a partition starts, issues its movers and aborts. (R262, R385, R386, R389, R391, R393, R396, R398, R400, R402, R403) -/
def Obligations.ImagesAreStagedLoadedAndRun : Prop :=
    (∀ (fn : Fn) (buf : Option (List Byte)) (c : Consumed) (p : Nat) (ps : List (Nat × Nat)) (b : List Byte) (s : State),
      forPart s fn 2 1 p c = true →
      c.u32 12 = 0 →
      c.u64 16 % 4096 = 0 →
      0 < c.u32 8 →
      windowPieces (s.pt p).windows (c.u64 16) (c.u32 8) = some ps →
      (s.pt p).state ≠ .faulted →
      ps.any (fun r => (s.pt p).pinned r.1 r.2) = false →
      (s.pt p).handles.length < 8 →
      hostBuf s fn buf = some b →
      ∃ d u hd, d = bytesAt b 0 (c.u32 8) ∧ u = windowWrite (accept s fn c.id) p (c.u64 16) d clean ∧ hd = freeHandle (s.pt p).handles (s.pt p).nextHandle ∧
        (imgCheck d ≠ 0 → exec (.imageStage fn buf) s = .next (note s (workDone u fn c.id ⟨0x0201, imgCheck d, []⟩))) ∧
        (imgCheck d = 0 → exec (.imageStage fn buf) s = .next (note s (workDone (u.setPt p { u.pt p with handles := tset (u.pt p).handles hd { offset := c.u64 16, length := c.u32 8, image := imgOf d, recheck := false }, nextHandle := hd + 1 })
          fn c.id ⟨0, 0, fields 16 [(0, le 2 hd), (4, le 4 (imgOf d).length), (8, le 8 (imgOf d).reportId.toNat)]⟩)))) ∧
    (∀ (fn : Fn) (c : Consumed) (p : Nat) (h : Handle) (s : State),
      forPart s fn 2 2 p c = true →
      tfind (s.pt p).handles (c.u16 0) = some h →
      h.image.w = (s.pt p).w →
      h.image.h = (s.pt p).h →
      h.image.fingerprints = activePrints s (s.pt p).regions →
      exec (.imageCheck fn) s = .next (note s (finishOk s fn c.id (fields 24 [])))) ∧
    (∀ (fn : Fn) (c : Consumed) (p : Nat) (h : Handle) (s : State),
      forPart s fn 2 2 p c = true →
      tfind (s.pt p).handles (c.u16 0) = some h →
      h.image.w ≠ (s.pt p).w →
      exec (.imageCheck fn) s = .next (note s (finishOk s fn c.id (fields 24 [(0, le 1 2)])))) ∧
    (∀ (fn : Fn) (c : Consumed) (p : Nat) (h : Handle) (s : State),
      forPart s fn 2 3 p c = true →
      tfind (s.pt p).handles (c.u16 0) = some h →
      (s.pt p).bound ≠ some (c.u16 0) →
      exec (.imageDrop fn) s = .next (note s (finishOk (s.setPt p { s.pt p with handles := tdel (s.pt p).handles (c.u16 0) }) fn c.id []))) ∧
    (∀ (fn : Fn) (c : Consumed) (p : Nat) (h : Handle) (ct : Ctx) (s : State),
      forPart s fn 3 5 p c = true →
      loadRefusal s p (c.u16 0) (c.u8 2) = none →
      tfind (s.pt p).handles (c.u16 0) = some h →
      h.image.ctxs[c.u8 2]? = some ct →
      ∃ t, t = (accept s fn c.id).setPt p { s.pt p with bound := some (c.u16 0), loads := (s.pt p).loads ++ [{ handle := c.u16 0, ctx := c.u8 2, slot := ct.slot, fn := fn, id := c.id, shifted := 0, reshifted := 0 }], handles := tset (s.pt p).handles (c.u16 0) { h with recheck := false }, slots := if (tget Slot.init (s.pt p).slots ct.slot).state = .shifting then (s.pt p).slots else tset (s.pt p).slots ct.slot { Slot.init with state := .queued } } ∧
        exec (.partLoad fn) s = .next (note s (if (s.pt p).state = .assigned then partState t p .loaded 0 else t))) ∧
    (∀ (fn : Fn) (c : Consumed) (p : Nat) (s : State),
      forPart s fn 3 6 p c = true →
      c.u8 0 ≤ 3 →
      (s.pt p).state ≠ .saved →
      (s.pt p).activeSlot ≠ some (c.u8 0) →
      ∃ t u, t = ((s.pt p).loads.filter (fun l => l.slot = c.u8 0)).foldl (fun t l => workDone t l.fn l.id (l.result 0x0307))
          (s.setPt p { s.pt p with loads := (s.pt p).loads.filter (fun l => l.slot ≠ c.u8 0), shifting := (s.pt p).shifting && (s.pt p).loads.head?.any (fun l => l.slot ≠ c.u8 0) }) ∧
        u = (if (tget Slot.init (s.pt p).slots (c.u8 0)).state = .empty then t else emptySlot t p (c.u8 0)) ∧
        exec (.partLoadCancel fn) s = .next (note s (finishOk u fn c.id (le 1 (tget Slot.init (s.pt p).slots (c.u8 0)).state.code ++
          le 1 ((s.pt p).loads.filter (fun l => l.slot = c.u8 0)).length)))) ∧
    (∀ (fn : Fn) (c : Consumed) (p : Nat) (h : Handle) (ct : Ctx) (hd : Nat) (s : State),
      forPart s fn 3 7 p c = true →
      mayRun s = true →
      (s.pt p).state = .loaded →
      (s.pt p).run.active = none →
      (s.pt p).powered = true →
      (s.pt p).saveJob = none →
      (s.pt p).abortJob = none →
      (s.pt p).bound = some hd →
      tfind (s.pt p).handles hd = some h →
      h.image.ctxs[h.image.initial]? = some ct →
      (tget Slot.init (s.pt p).slots ct.slot).state = .committed →
      (tget Slot.init (s.pt p).slots ct.slot).ctx = h.image.initial →
      stagedPoison s p h [h.image.sproutAt] = false →
      ∃ t, t = startRun s p h ct.slot c.req.jobId ∧ exec (.partStart fn) s = .next (note s (finishOk t fn c.id (le 1 ct.slot ++ le 1 (b2n ((t.pt p).state = .stalled)))))) ∧
    (∀ (fn : Fn) (c : Consumed) (p : Nat) (s : State),
      forPart s fn 3 8 p c = true →
      (∀ q, q < 16 → (s.pt q).abortJob = none) →
      ((s.pt p).state = .running ∨ (s.pt p).state = .stalled) →
      copying s p = false →
      exec (.partAbort fn) s = .next (note s (settleAbort (stopRun (begun s fn c.id) p fn c.id) p))) ∧
    (∀ (fn : Fn) (c : Consumed) (p : Nat) (s : State),
      forPart s fn 3 8 p c = true →
      (∀ q, q < 16 → (s.pt q).abortJob = none) →
      (s.pt p).state = .loaded →
      exec (.partAbort fn) s = .next (note s (finishOk s fn c.id (fields 16 [(0, le 4 (s.pt p).run.foldCount.toNat), (4, le 1 255), (8, le 8 (s.pt p).audit.schedFc.toNat)])))) ∧
    (∀ (p : Fin 16) (l : Load) (r : List Load) (s : State),
      (s.pt p).loads = l :: r →
      [PartState.loaded, .running, .stalled].contains (s.pt p).state = true →
      (s.pt p).powered = true →
      (s.pt p).shifting = false →
      exec (.slotShiftStart p) s = .next (setSlot (s.setPt p { s.pt p with shifting := true }) p l.slot { Slot.init with state := .shifting })) ∧
    (∀ (p : Fin 16) (first second : List Nat) (l : Load) (rest : List Load) (h : Handle) (r : Shift) (s : State),
      (s.pt p).shifting = true →
      [PartState.loaded, .running, .stalled].contains (s.pt p).state = true →
      (s.pt p).loads = l :: rest →
      tfind (s.pt p).handles l.handle = some h →
      r = shiftRecords s p h (((h.image.ctxs[l.ctx]?).map (fun c => c.records)).getD []) first second →
      r.bad = none →
      rest.all (fun m => m.slot ≠ l.slot) = true →
      ∃ t u, t = r.state.setPt p { r.state.pt p with loads := rest, shifting := false } ∧
        u = workDone (sowSlot t p l.slot r.cfgs) l.fn l.id (Load.result { l with shifted := l.shifted + r.shifted, reshifted := l.reshifted + r.reshifted } 0) ∧
        exec (.slotShiftComplete p first second) s = .next (note s (eventPart (setSlot u p l.slot { state := .committed, handle := l.handle, ctx := l.ctx }) p 0x0301
          (le 1 l.slot ++ le 1 l.ctx ++ le 2 l.handle)))) ∧
    (∀ (p : Fin 16) (k : Nat) (s : State),
      podOn s (s.pt p).northWest = some p.val →
      entryDue s p k = true →
      entryHeld s p k = false →
      exec (.moverScheduleIssue p k) s = .next (note s (issueEntry s p k)))

/-- A partition is created on a free rectangle, assigned, queried and given its shares; its buckets refill. (R104, R416, R418, R419, R420, R430, R442, R443, R447) -/
def Obligations.PartitionsFormQueryAndShare : Prop :=
    (∀ (fn : Fn) (c : Consumed) (s : State),
      startable s fn 3 1 = some c →
      c.req.partition ≤ 15 →
      rectFits (c.u8 0) (c.u8 1) (c.u8 2) = true →
      c.u8 3 ≤ 1 →
      (s.pt c.req.partition).state = .free →
      rectRefusal s (c.u8 0) (c.u8 1) (c.u8 2) = none →
      mapDue s (rectRegions (c.u8 0) (c.u8 1) (c.u8 2)) = false →
      ∃ rgs t, rgs = rectRegions (c.u8 0) (c.u8 1) (c.u8 2) ∧
        t = partState ((powerRegions s rgs).setPt c.req.partition { Part.init with origin := c.u8 0, w := c.u8 1, h := c.u8 2, tenant := bitOf (c.u8 3) 0, powered := true, fence := { state := .closed, reason := 0 } }) c.req.partition .assigned 0 ∧
        exec (.partCreate fn) s = .next (whenZeroed t fn c.id rgs [c.req.partition] (le 2 (maskOf rgs)))) ∧
    (∀ (fn : Fn) (c : Consumed) (p : Nat) (s : State),
      forPart s fn 3 3 p c = true →
      c.u8 0 ≤ 1 →
      exec (.partAssign fn) s = .next (note s (finishOk (s.setPt p { s.pt p with tenant := c.u8 0 = 1 }) fn c.id (le 1 (b2n (s.pt p).tenant))))) ∧
    (∀ (fn : Fn) (c : Consumed) (s : State),
      startable s fn 3 4 = some c →
      ∃ x, x = s.pt (target fn c) ∧ exec (.partQuery fn) s = .next (finishOk s fn c.id (fields 48
          [(0, le 1 x.state.code), (1, le 1 (if x.w = 0 then 255 else x.origin)), (2, le 1 x.w), (3, le 1 x.h),
           (4, le 1 (((List.range 4).map (fun i => (tget Slot.init x.slots i).state.code * 4 ^ i)).foldl (· + ·) 0)),
           (5, le 1 (x.activeSlot.getD 255)), (6, le 1 (b2n x.tenant + 2 * b2n x.powered + 4 * b2n x.bound.isSome + 8 * b2n (x.state = .saved && x.w = 0))),
           (7, le 1 ((x.run.stall.map (fun c => c.code)).getD 0)), (8, le 2 x.unitCount),
           (10, le 1 x.windows.length), (11, le 1 x.handles.length), (12, le 4 x.fault), (16, le 4 x.audit.folds.toNat), (20, le 4 x.drainUs),
           (24, le 8 ((x.saved.bind (fun v => v.addr)).getD 0))]))) ∧
    (∀ (fn : Fn) (c : Consumed) (s : State),
      startable s fn 3 13 = some c →
      c.req.partition < 16 →
      (s.pt c.req.partition).state ≠ .free →
      (s.pt c.req.partition).state ≠ .draining →
      rd 3 c.req.payload 5 = 0 →
      c.u16 0x12 = 0 →
      (∀ i, i < 5 → c.u64 (0x20 + 16 * i) = 0) →
      (∀ e, e < 5 → 1 ≤ c.u8 e ∧ 16 ≤ c.u16 (8 + 2 * e) ∧ c.u16 (8 + 2 * e) ≤ 1024) →
      (10 ≤ c.u32 0x14 ∧ c.u32 0x14 ≤ 10000) →
      (∀ i, i < 5 → 64 ≤ c.u32 (0x1C + 16 * i) ∧ c.u32 (0x1C + 16 * i) ≤ 1048576) →
      (∀ e, e < 5 → c.u16 (8 + 2 * e) + (((List.range 17).filter (· ≠ c.req.partition)).map (fun q => quotaOf s q e)).foldl (· + ·) 0 ≤ 1024) →
      exec (.partSetShare fn) s = .next (finishOk (s.setPt c.req.partition { s.pt c.req.partition with weight := (List.range 5).map (fun e => (e, c.u8 e)), quota := (List.range 5).map (fun e => (e, c.u16 (8 + 2 * e))), drainUs := c.u32 0x14, regs := (List.range 5).map (fun i => (i, { rate := c.u32 (0x18 + 16 * i), burst := c.u32 (0x1C + 16 * i), level := ((c.u32 (0x1C + 16 * i) * 1024 : Nat) : Int) })) }) fn c.id [])) ∧
    (∀ (p e : Nat) (s : State),
      (tget Regulator.init (s.pt p).regs e).rate ≠ 0 →
      ∃ r t, r = tget Regulator.init (s.pt p).regs e ∧ exec .regulatorRefillTick s = .next t ∧ tget Regulator.init (t.pt p).regs e =
        { r with level := min ((r.burst * 1024 : Nat) : Int) (r.level + r.rate) })

/-- A partition saves, resumes, resets, is destroyed, and powers off after its drain window and on again. (R422, R434, R435, R449, R450, R453, R454, R455, R457, R458, R461) -/
def Obligations.PartitionsSaveResumeResetAndPower : Prop :=
    (∀ (fn : Fn) (c : Consumed) (p : Nat) (s : State),
      forPart s fn 3 9 p c = true →
      (∀ q, q < 16 → (s.pt q).saveJob = none) →
      (s.pt p).state = .loaded →
      c.u64 0 % 4096 = 0 →
      c.u8 8 ≤ 1 →
      (s.pt p).ownsHbm (c.u64 0) (saveSize (s.pt p).w (s.pt p).h) = true →
      (s.pt p).pinned (c.u64 0) (saveSize (s.pt p).w (s.pt p).h) = false →
      (s.pt p).abortJob = none →
      ∃ t, t = (accept s fn c.id).setPt p { s.pt p with saveJob := some { fn := fn, id := c.id, addr := c.u64 0, release := c.u8 8 = 1 } } ∧
        exec (.partSave fn) s = .next (note s (if saveReady t p then doSave t p else t))) ∧
    (∀ (p : Nat) (j : SaveJob) (s : State),
      (s.pt p).saveJob = some j →
      (s.pt p).run.paused = false →
      s.fab.cellEcc = [] →
      ((doSave s p).pt p).state = .saved ∧ ((doSave s p).pt p).saveJob = none ∧ ((doSave s p).pt p).slots = [] ∧ ((doSave s p).pt p).loads = [] ∧
        ((doSave s p).pt p).saved = some (savedOf s p (some j.addr))) ∧
    (∀ (fn : Fn) (c : Consumed) (p : Nat) (v : Saved) (s : State),
      forPart s fn 3 10 p c = true →
      (∀ q, q < 16 → (s.pt q).resumeJob = none) →
      (s.pt p).state = .saved →
      (s.pt p).saved = some v →
      resumeRefusal s (s.pt p) v (c.u8 0) = none →
      (s.pt p).w ≠ 0 →
      exec (.partResume fn) s = .next (note s (doResume (accept s fn c.id) p fn c.id c.req.jobId))) ∧
    (∀ (fn : Fn) (c : Consumed) (p : Nat) (s : State),
      forPart s fn 3 11 p c = true →
      exec (.partReset fn) s = .next (note s (beginReset (begun s fn c.id) p fn c.id false 2 1))) ∧
    (∀ (fn : Fn) (c : Consumed) (p : Nat) (s : State),
      forPart s fn 3 2 p c = true →
      c.u8 0 ≤ 1 →
      (snapBusy s p = false ∨ c.u8 0 = 1) →
      exec (.partDestroy fn) s = .next (note s (beginReset (begun s fn c.id) p fn c.id true 5 0))) ∧
    (∀ (fn : Fn) (c : Consumed) (p : Nat) (s : State),
      forPart s fn 3 12 p c = true →
      c.u8 0 = 0 →
      c.u8 1 ≤ 1 →
      c.u16 2 = 0 →
      (c.u32 4 = 0 ∨ (10 ≤ c.u32 4 ∧ c.u32 4 ≤ 10000)) →
      (s.pt p).state ≠ .saved →
      snapBusy s p = false →
      (s.pt p).powered = true →
      exec (.partPowerOff fn) s = .next (note s (powerDrain (begun s fn c.id) p fn c.id))) ∧
    (∀ (p fn id : Nat) (s : State),
      restoring s p = false →
      (s.pt p).saveJob = none →
      ((powerDrain s p fn id).pt p).state = .draining ∧ ((powerDrain s p fn id).pt p).fence = { state := .draining, reason := 1 } ∧
        ((powerDrain s p fn id).pt p).drain.isSome = true ∧ (powerDrain s p fn id).fab = s.fab ∧ (powerDrain s p fn id).eng = s.eng) ∧
    (∀ (p : Fin 16) (d : Drain) (s : State),
      (s.pt p).fence.state = .draining →
      (s.pt p).drain = some d →
      d.finish = .power .assigned →
      ∃ t, exec (.drainWindowExpiry p) s = .next (note s t) ∧ (t.pt p).powered = false ∧ (t.pt p).drain = none ∧
        (t.pt p).fence = { state := .closed, reason := 1 } ∧ (t.pt p).state = .assigned ∧ (t.pt p).slots = [] ∧ (t.pt p).run = Run.init) ∧
    (∀ (fn : Fn) (c : Consumed) (p : Nat) (s : State),
      forPart s fn 3 12 p c = true →
      c.u8 0 = 1 →
      c.u8 1 ≤ 1 →
      c.u16 2 = 0 →
      (s.pt p).powered = false →
      ∃ t, t = (powerRegions s (s.pt p).regions).setPt p { s.pt p with powered := true } ∧
        exec (.partPowerOn fn) s = .next (note s (whenZeroed t fn c.id (s.pt p).regions (if (s.pt p).state = .faulted then [] else [p]) (le 4 0 ++ le 4 0))))

/-- Memory windows are granted from free units and revoked last first; revoked units are zeroed; a stuck fence resets the die. (R423, R424, R427, R429, R436, R437) -/
def Obligations.WindowsAreGrantedAndRevoked : Prop :=
    (∀ (fn : Fn) (c : Consumed) (p : Nat) (us : List Nat) (s : State),
      forPart s fn 6 1 p c = true →
      us = span (c.u16 0) (c.u16 2) →
      0 < c.u16 2 →
      c.u16 0 + c.u16 2 ≤ 575 →
      (s.pt p).windows.length < 16 →
      us.any (fun u => unitGranted s u || s.hbm.reserved.contains u) = false →
      us.any s.hbm.zeroing.contains = false →
      ∃ t, t = s.setPt p { s.pt p with windows := (s.pt p).windows ++ [(c.u16 0, c.u16 2)] } ∧
        exec (.memWindowGrant fn) s = .next (note s (finishOk { t with husk := { t.husk with needWhole := us.foldl sins t.husk.needWhole } } fn c.id
          (fields 24 [(0, le 1 (s.pt p).windows.length), (8, le 8 (s.pt p).spaceSize), (16, le 8 (c.u16 0 * 0x10000000))])))) ∧
    (∀ (fn : Fn) (c : Consumed) (p f n : Nat) (s : State),
      forPart s fn 6 2 p c = true →
      (s.pt p).windows.getLast? = some (f, n) →
      c.u8 0 + 1 = (s.pt p).windows.length →
      ((s.pt p).state = .assigned ∨ (s.pt p).state = .faulted) →
      (s.pt p).pinned (f * 0x10000000) (n * 0x10000000) = false →
      windowWork s p (span f n) = false →
      s.husk.current = none →
      ∃ t, t = loseRings (revokeUnits (s.setPt p { s.pt p with windows := (s.pt p).windows.dropLast }) (span f n)) p ((s.pt p).spaceSize - n * 0x10000000) ∧
        exec (.memWindowRevoke fn) s = .next (note s (finishOk t fn c.id (le 2 n)))) ∧
    (∀ (u : Fin 576) (s : State),
      s.hbm.zeroing.contains u.val = true →
      s.hbm.ready = true →
      ∃ out : Nat → Bool, (∀ w, out w = decide (w / 0x400000 ≠ u.val)) ∧ exec (.windowZeroingComplete u) s = .next { s with hbm := { s.hbm with mem := mclear s.hbm.mem (u.val * 0x10000000) 0x10000000, poison := s.hbm.poison.filter out, ecc := s.hbm.ecc.filter (fun e => out e.1), zeroing := sdel s.hbm.zeroing u } }) ∧
    (∀ (f : Fin 40) (s : State),
      fenceTerminating s f = true →
      exec (.fenceStuck f) s = .next (note s (fault s { code := 0x0104, cls := 3, partition := if f.val < 16 then f.val else 255, detail := le 1 f.val })))

/-- Channels are opened, queried and closed; halves pair or mismatch; a closing record or a lost route ends a half. (R463, R464, R471, R472, R473, R474, R475, R476, R477, R483, R491, R497) -/
def Obligations.ChannelsOpenCloseAndPair : Prop :=
    (∀ (fn : Fn) (c : Consumed) (ch : Chan) (k : Nat) (s : State),
      startable s fn 5 1 = some c →
      chanOpenCheck s fn c.req.payload = .inr ch →
      freeNumber s = some k →
      ch.cross = false →
      exec (.chanOpen fn) s = .next (finishOk (chanEvent (s.setChan k ch) k 0x0501 ch []) fn c.id (le 1 k ++ le 1 2))) ∧
    (∀ (fn : Fn) (c : Consumed) (ch : Chan) (k : Nat) (s : State),
      startable s fn 5 1 = some c →
      chanOpenCheck s fn c.req.payload = .inr ch →
      freeNumber s = some k →
      ch.cross = true →
      exec (.chanOpen fn) s = .next (finishOk (sendPair (s.setChan k { ch with state := .pending }) k { ch with state := .pending }) fn c.id (le 1 k ++ le 1 1))) ∧
    (∀ (fn : Fn) (c : Consumed) (s : State),
      startable s fn 5 2 = some c →
      (s.chan (c.u8 0)).state ≠ .free →
      entitled (s.chan (c.u8 0)) fn = true →
      (s.chan (c.u8 0)).cross = false →
      ∃ k ch t, k = c.u8 0 ∧ ch = s.chan k ∧ t = raiseAt (s.freeChan k) fn { partition := ownPart fn, code := 0x0502, tag := 0, time := s.time, payload := fields 40 [(0, le 1 k), (1, le 1 ch.closeCause), (4, le 1 0)] } ∧
        exec (.chanClose fn) s = .next (finishOk t fn c.id (le 1 (sat 255 (ch.queue.length + ch.transit.length + ch.early.length))))) ∧
    (∀ (fn : Fn) (c : Consumed) (s : State),
      startable s fn 5 3 = some c →
      (s.chan (c.u8 0)).state ≠ .free →
      entitled (s.chan (c.u8 0)) fn = true →
      ∃ x, x = s.chan (c.u8 0) ∧ exec (.chanQuery fn) s = .next (finishOk s fn c.id (fields 48
          [(0, le 1 (c.u8 0)), (1, le 1 x.state.code), (2, le 1 (b2n x.nack)), (3, le 1 x.depth),
           (4, le 1 (if x.receiver.isLocal then x.queue.length else 255)), (5, le 1 (if x.sender.isLocal && !x.nack then x.credits else 255)),
           (6, le 1 x.closeCause), (8, x.sender.bytes), (16, x.receiver.bytes), (24, le 4 x.sent.toNat), (28, le 4 x.delivered.toNat),
           (32, le 4 x.nacked.toNat), (36, le 4 x.discarded.toNat)]))) ∧
    (∀ (k : Fin 256) (s : State),
      (s.chan k).state = .pending →
      exec (.pairRecordRepeat k) s = .next (sendPair s k (s.chan k))) ∧
    (∀ (m : MsgRec) (k : Nat) (c : Chan) (s : State),
      s.faults.stopped = false →
      peerAdmits s m.dstPart m.src m.srcPart = true →
      s.chans.chan = [(k, c)] →
      c.state = .pending →
      bitOf m.c 0 = true →
      c.sender = { kind := .remote, owner := m.srcPart, port := m.a, linkId := m.src } →
      c.receiver.kind = .sprout →
      c.receiver.owner = m.dstPart →
      c.receiver.port = m.b →
      ∃ s1, s1 = sendPair s k { c with peerChan := m.peer } ∧
        (c.nack = bitOf m.c 1 → c.depth = bitsOf m.c 15 8 → ∃ c1, c1 = { c with state := .open, peerChan := m.peer } ∧
          exec (.pairRecordReceive m) s = .next (chanEvent (s1.setChan k c1) k 0x0501 c1 [])) ∧
        (c.depth ≠ bitsOf m.c 15 8 → ∃ c1, c1 = { c with state := .closed, peerChan := m.peer, closeCause := 3, senderGone := true, receiverGone := false } ∧
          exec (.pairRecordReceive m) s = .next (closedEvent (s1.setChan k c1) k c1 3 0x0501))) ∧
    (∀ (m : MsgRec) (s : State),
      s.faults.stopped = false →
      (s.chan m.chan).state ≠ .free →
      (s.chan m.chan).sender = { kind := .remote, owner := m.srcPart, port := m.b, linkId := m.src } →
      (s.chan m.chan).receiver.kind = .sprout →
      exec (.closeRecordReceive m) s = .next (loseEnds s m.chan true false m.a)) ∧
    (∀ (k : Fin 256) (s : State),
      (s.chan k).state ≠ .free →
      (s.chan k).sender.kind = .remote →
      (s.chan k).receiver.kind = .sprout →
      routePort s (s.chan k).sender.linkId k = none →
      exec (.channelRouteTimeout k) s = .next (loseEnds s k true false 4)) ∧
    (∀ (k : Fin 256) (s : State),
      (s.chan k).state = .open →
      (s.chan k).early.isEmpty = false →
      exec (.msgGapTimeout k) s = .next (loseEnds (sendClose s k (s.chan k) 4) k true false 4)) ∧
    (∀ (k : Nat) (cause : Nat) (s : State),
      (s.chan k).state = .open →
      (s.chan k).sender.kind = .remote →
      (s.chan k).receiver.kind = .sprout →
      (s.chan k).senderGone = false →
      (s.chan k).receiverGone = false →
      ∃ c1, c1 = { s.chan k with state := .closed, closeCause := cause, senderGone := true, credits := 0, creditTransit := 0 } ∧
        loseEnds s k true false cause = closedEvent (s.setChan k c1) k c1 cause 0x0501)

/-- A message is sent, delivered in order or answered NACK_FULL, popped, and its credit given back. (R465, R466, R467, R468, R469, R470, R482, R484, R485, R486, R488, R565) -/
def Obligations.ChannelsCarryMessages : Prop :=
    (∀ (fn : Fn) (port : Fin 16) (v : W32) (k : Nat) (s : State),
      boundTo s .host fn port = some (k, false) →
      (s.chan k).state = .open →
      (s.chan k).nack = false →
      0 < (s.chan k).credits →
      (s.chan k).receiver.kind ≠ .remote →
      ∃ m : Message, m = { words := staged (s.page fn port).tx (bitsOf v.toNat 17 16 + 1), tag := BitVec.ofNat 16 v.toNat } ∧
        exec (.chTxSend fn port v) s = .next (s.setChan k { s.chan k with sent := (s.chan k).sent + 1, credits := (s.chan k).credits - 1, transit := (s.chan k).transit ++ [m] })) ∧
    (∀ (fn : Fn) (port : Fin 16) (v : W32) (k : Nat) (s : State),
      boundTo s .host fn port = some (k, false) →
      (s.chan k).state = .open →
      (s.chan k).nack = false →
      (s.chan k).credits = 0 →
      exec (.chTxSend fn port v) s = .next ((s.setChan k { s.chan k with discarded := (s.chan k).discarded + 1 }).setPage fn port
          { s.page fn port with discards := (s.page fn port).discards + 1 })) ∧
    (∀ (k : Fin 256) (m : Message) (r : List Message) (s : State),
      (s.chan k).transit = m :: r →
      ((s.chan k).nack = false ∨ (s.chan k).queue.length < (s.chan k).depth) →
      (s.chan k).receiver.kind ≠ .hazel →
      ∃ t, exec (.messageDelivery k) s = .next t ∧ t = enterQueue (s.setChan k { s.chan k with transit := r }) k m ∧
        (t.chan k).queue = (s.chan k).queue ++ [m] ∧ (t.chan k).delivered = (s.chan k).delivered + 1 ∧ (t.chan k).transit = r) ∧
    (∀ (k : Fin 256) (m : Message) (r : List Message) (s : State),
      (s.chan k).transit = m :: r →
      (s.chan k).nack = true →
      (s.chan k).depth ≤ (s.chan k).queue.length →
      ∃ t, t = (s.setChan k { s.chan k with transit := r }).setChan k { s.chan k with transit := r, nacked := (s.chan k).nacked + 1 } ∧
        exec (.messageDelivery k) s = .next (nackTo t (s.chan k).sender m.tag)) ∧
    (∀ (fn : Fn) (port : Fin 16) (k : Nat) (m : Message) (r : List Message) (s : State),
      boundTo s .host fn port = some (k, true) →
      (s.chan k).queue = m :: r →
      ∃ t x, t = giveCredit (s.setChan k { s.chan k with queue := r }) k ∧
        x = { t.page fn port with rxTag := m.tag, rxWords := (List.range 4).map (fun i => (i, m.words.getD i 0)) } ∧
        exec (.chRxPop fn port) s = .next (readOut (t.setPage fn port x) (BitVec.ofNat 32 (m.tag.toNat + 65536 * (m.words.length - 1) + 2 ^ 31)))) ∧
    (∀ (fn : Fn) (e : Nack) (r : List Nack) (l : Bool) (s : State),
      tget NackQueue.init s.chans.fnNack fn = { entries := e :: r, lost := l } →
      exec (.chNackPop fn) s = .next (readOut { s with chans := { s.chans with fnNack := tset s.chans.fnNack fn { entries := r, lost := false } } }
          (BitVec.ofNat 32 (e.tag.toNat + 65536 * e.port + 2 ^ 30 * b2n l + 2 ^ 31)))) ∧
    (∀ (k : Fin 256) (s : State),
      (s.chan k).creditTransit ≠ 0 →
      (s.chan k).credits ≠ 0 →
      exec (.creditReturn k) s = .next (s.setChan k { s.chan k with creditTransit := (s.chan k).creditTransit - 1, credits := (s.chan k).credits + 1 })) ∧
    (∀ (rg : Fin 16) (v : W32) (p k : Nat) (s : State),
      ledBy s rg = some p →
      (s.sprout rg).run = .running →
      boundTo s .sprout p (s.sprout rg).chPort = some (k, false) →
      (s.chan k).state = .open →
      canSend s k = true →
      ∃ m : Message, m = { words := staged (s.sprout rg).chTxd (bitsOf v.toNat 17 16 + 1), tag := BitVec.ofNat 16 v.toNat } ∧
        exec (.spChSend rg v) s = .next (retireSp (chanSend s k m) rg)) ∧
    (∀ (rg : Fin 16) (v : W32) (p k : Nat) (s : State),
      ledBy s rg = some p →
      (s.sprout rg).run = .running →
      boundTo s .sprout p (s.sprout rg).chPort = some (k, false) →
      (s.chan k).state = .open →
      canSend s k = false →
      exec (.spChSend rg v) s = .next (s.setSprout rg { s.sprout rg with run := .blockedSend v 0 })) ∧
    (∀ (rg : Fin 16) (v : W32) (rd p k : Nat) (s : State),
      ledBy s rg = some p →
      (s.sprout rg).run = .blockedSend v rd →
      boundTo s .sprout p (s.sprout rg).chPort = some (k, false) →
      (s.chan k).state = .open →
      canSend s k = true →
      ∃ m : Message, m = { words := staged (s.sprout rg).chTxd (bitsOf v.toNat 17 16 + 1), tag := BitVec.ofNat 16 v.toNat } ∧
        exec (.spChSendUnblock rg) s = .next (retireSp (setX (chanSend s k m) rg rd 0) rg)) ∧
    (∀ (rg : Fin 16) (rd : Fin 32) (p k : Nat) (m : Message) (r : List Message) (s : State),
      ledBy s rg = some p →
      (s.sprout rg).run = .running →
      boundTo s .sprout p (s.sprout rg).chPort = some (k, true) →
      (s.chan k).queue = m :: r →
      ∃ t u, t = giveCredit (s.setChan k { s.chan k with queue := r }) k ∧
        u = t.setSprout rg { t.sprout rg with chRxd := (List.range 4).map (fun i => (i, m.words.getD i 0)) } ∧
        exec (.spChRx rg rd) s = .next (retireSp (setX u rg rd (BitVec.ofNat 32 (m.tag.toNat + 65536 * (m.words.length - 1) + 2 ^ 31))) rg)) ∧
    (∀ (rg : Fin 16) (rd : Fin 32) (p : Nat) (e : Nack) (r : List Nack) (l : Bool) (s : State),
      ledBy s rg = some p →
      (s.sprout rg).run = .running →
      tget NackQueue.init s.chans.partNack p = { entries := e :: r, lost := l } →
      exec (.spChNack rg rd) s = .next (retireSp (setX { s with chans := { s.chans with partNack := tset s.chans.partNack p { entries := r, lost := false } } } rg rd
          (BitVec.ofNat 32 (e.tag.toNat + 65536 * e.port + 2 ^ 30 * b2n l + 2 ^ 31))) rg)) ∧
    (∀ (m : MsgRec) (s : State),
      s.faults.stopped = false →
      (s.chan m.chan).state = .open →
      (s.chan m.chan).sender.kind = .remote →
      (s.chan m.chan).sender.linkId = m.src →
      (s.chan m.chan).peerChan = m.peer →
      m.seq = (s.chan m.chan).rxSeq →
      (s.chan m.chan).nack = false →
      (s.chan m.chan).early = [] →
      ∃ s1, s1 = s.setChan m.chan { s.chan m.chan with rxSeq := (s.chan m.chan).rxSeq + 1 } ∧
        exec (.messageRecordReceive m) s = .next (enterQueue s1 m.chan { words := m.words, tag := m.tag })) ∧
    (∀ (m : MsgRec) (s : State),
      s.faults.stopped = false →
      (s.chan m.chan).state = .open →
      (s.chan m.chan).sender.kind = .remote →
      (s.chan m.chan).sender.linkId = m.src →
      (s.chan m.chan).peerChan = m.peer →
      m.seq = (s.chan m.chan).rxSeq + 1 →
      (s.chan m.chan).early = [] →
      (s.chan m.chan).queue.length < (s.chan m.chan).depth →
      exec (.messageRecordReceive m) s = .next (s.setChan m.chan { s.chan m.chan with early := [(m.seq, { words := m.words, tag := m.tag })] })) ∧
    (∀ (m : MsgRec) (s : State),
      s.faults.stopped = false →
      (s.chan m.chan).state = .open →
      (s.chan m.chan).receiver.kind = .remote →
      (s.chan m.chan).receiver.linkId = m.src →
      (s.chan m.chan).peerChan = m.peer →
      (s.chan m.chan).nack = false →
      exec (.creditRecordReceive m) s = .next (s.setChan m.chan { s.chan m.chan with credits := min (s.chan m.chan).depth ((s.chan m.chan).credits + m.a) })) ∧
    (∀ (m : MsgRec) (s : State),
      s.faults.stopped = false →
      (s.chan m.chan).state = .open →
      (s.chan m.chan).receiver.kind = .remote →
      (s.chan m.chan).receiver.linkId = m.src →
      (s.chan m.chan).peerChan = m.peer →
      exec (.nackFullReceive m) s = .next (nackTo (s.setChan m.chan { s.chan m.chan with nacked := (s.chan m.chan).nacked + 1 }) (s.chan m.chan).sender m.tag)) ∧
    (∀ (k : Fin 256) (s : State),
      (s.chan k).uncredited ≠ 0 →
      (s.chan k).state = .open →
      exec (.creditRecordTimer k) s = .next (msgRecord (s.setChan k { s.chan k with uncredited := 0 }) (s.chan k) k 2
          (le 1 (s.chan k).peerChan ++ le 1 k.val ++ le 2 0 ++ le 1 (s.chan k).uncredited) [])) ∧
    (∀ (port : Fin 16) (m : OutMsg) (r : List OutMsg) (s : State),
      (s.port port).msgQueue = m :: r →
      m.part = 255 →
      m.bytes.length ≤ (s.port port).msgBucket →
      (s.port port).state = .up →
      s.faults.stopped = false →
      exec (.msgRecordTransmit port) s = .next (enqueueFlits (s.setPort port { s.port port with msgQueue := r, msgBucket := (s.port port).msgBucket - m.bytes.length })
          port 1 [recordFlit m.bytes]))

/-- MEM.COPY and MEM.FILL queue their descriptors once all checks pass; MEM.QUERY answers; a queued descriptor starts. (R444, R505, R506, R512, R516, R517, R518) -/
def Obligations.MemCommandsQueueDescriptors : Prop :=
    (∀ (fn : Fn) (c : Consumed) (p : Nat) (l : List (Bool × List Byte)) (t : State) (s : State),
      startable s fn 6 3 = some c →
      p = reqPart fn c.req →
      c.u32 4 = 0 →
      c.u32 0 ≤ 65536 →
      c.u64 8 % 64 = 0 →
      ((c.u64 8 = 0 ∧ c.u32 0 = 1) ∨ (c.u64 8 ≠ 0 ∧ 0 < c.u32 0 ∧ rangeRefusal s fn p (c.u64 8) (64 * c.u32 0) false = none)) →
      partRefusal s p = none →
      copyList s c = (l, t) →
      (firstRefused t fn p 0 l = none → exec (.memCopy fn) s = .next (pushList (accept t fn c.id) (some (fn.val, c.id)) (memberOf fn c) c.req.jobId
          c.req.tag.toNat false fn (l.map (fun x => descOf x.2)))) ∧
        (∀ st i, firstRefused t fn p 0 l = some (st, i) → exec (.memCopy fn) s = .next (finish t fn c.id ⟨st, i, []⟩))) ∧
    (∀ (fn : Fn) (c : Consumed) (p : Nat) (s : State),
      startable s fn 6 4 = some c →
      p = reqPart fn c.req →
      64 ≤ c.u64 8 →
      c.u64 8 % 64 = 0 →
      (c.u64 0 < cellBase ∨ c.u64 0 % 64 = 0) →
      partRefusal s p = none →
      rangeRefusal s fn p (c.u64 0) (c.u64 8) true = none →
      ∃ d : Desc, d = { fill := true, setFlag := false, flagSet := 0, waitPrev := false, srcHost := false, dstHost := false, remote := false, remoteId := 0, remotePart := 0, rows := 1, src := c.u64 16, dst := c.u64 0, rowBytes := c.u64 8, srcStride := 0, dstStride := 0 } ∧
        exec (.memFill fn) s = .next (pushList (accept s fn c.id) (some (fn.val, c.id)) (memberOf fn c) c.req.jobId c.req.tag.toNat true fn [d])) ∧
    (∀ (fn : Fn) (c : Consumed) (s : State),
      startable s fn 6 5 = some c →
      c.u8 0 = 0 →
      reqPart fn c.req ≤ 15 →
      ∃ x, x = s.pt (reqPart fn c.req) ∧ exec (.memQuery fn) s = .next (finishOk s fn c.id (fields 16 [(0, le 2 x.unitCount), (2, le 1 x.windows.length), (8, le 8 x.spaceSize)]))) ∧
    (∀ (fn : Fn) (c : Consumed) (s : State),
      startable s fn 6 5 = some c →
      c.u8 0 = 1 →
      fn.val = 0 →
      c.u8 1 ≤ 5 →
      ∃ k, k = c.u8 1 ∧ exec (.memQuery fn) s = .next (finishOk s fn c.id (fields 24
        [(0, le 4 (tget 0 s.hbm.corrected k).toNat), (4, le 4 (tget 0 s.hbm.uncorrectable k).toNat), (8, le 4 (tget 0 s.hbm.poisonedReads k).toNat),
         (12, le 1 (b2n s.hbm.selfRefresh)), (16, le 8 (tget 0 s.hbm.scrubPasses k).toNat)]))) ∧
    (∀ (id : Nat) (j : Job) (s : State),
      jobOf s id = some j →
      j.desc.fill = false →
      jobStartable s j = true →
      exec (.moverCopy id) s = .next (modJob s id (fun y => { y with started := true }))) ∧
    (∀ (id : Nat) (j : Job) (s : State),
      jobOf s id = some j →
      j.desc.fill = true →
      jobStartable s j = true →
      exec (.moverFill id) s = .next (modJob s id (fun y => { y with started := true })))

/-- An engine runs the head segment that deficit round robin gives; descriptors end or fail; words are scrubbed and granules copied. (R445, R448, R502, R513, R515, R681, R682, R684) -/
def Obligations.EnginesArbitrateAndDescriptorsEnd : Prop :=
    (∀ (e : Fin 5) (buf : Option (List Byte)) (m : Nat) (h : Head) (a : Arb) (s : State),
      tget .open s.eng.fences e = FenceState.open →
      e.val < 4 →
      nextTurn s e 120 (arbOf s e) false = (some (m, h), a) →
      exec (.engineSegmentComplete e buf) s = .next (note s (runWork (charge (setArb s e a) m h.charges) h.work buf))) ∧
    (∀ (e : Fin 5) (buf : Option (List Byte)) (a : Arb) (s : State),
      tget .open s.eng.fences e = FenceState.open →
      e.val < 4 →
      nextTurn s e 120 (arbOf s e) false = (none, a) →
      exec (.engineSegmentComplete e buf) s = .next (setArb s e a)) ∧
    (∀ (e n m : Nat) (h : Head) (a : Arb) (s : State),
      m = a.turn →
      headOf s e m = some h →
      bucketsAdmit (s.pt m) h.charges = true →
      h.size ≤ tget 0 a.deficit m + tget 16 (s.pt m).weight e * 16384 →
      nextTurn s e (n + 1) a true = (some (m, h), { a with deficit := tset a.deficit m (tget 0 a.deficit m + tget 16 (s.pt m).weight e * 16384 - h.size) })) ∧
    (∀ (id : Nat) (j : Job) (s : State),
      jobOf s id = some j →
      j.ended = true →
      j.fail = none →
      j.desc.dstRanges.any (fun r => r.1 < cellBase && writeHeld s r.1 r.2) = false →
      exec (.moverDescriptorComplete id) s = .next (note s (dropJob (modList (setFlags s j.desc j.dueFlags) j.list (fun l => { l with completed := l.completed + 1 })) j))) ∧
    (∀ (id : Nat) (j : Job) (st cause : Nat) (s : State),
      jobOf s id = some j →
      j.fail = some (st, cause) →
      j.desc.setFlag = false →
      st ≠ 0x0604 →
      ∃ v, v = engineFault (poisonRest s j) j.member j.jobId 0x0603 (le 2 st ++ le 1 cause) ∧
        exec (.moverDescriptorFail id) s = .next (note s (dropJob { modList v j.list (fun l => l.fail j.index st) with link := { v.link with xfers := v.link.xfers.filter (fun x => !j.xfers.contains x.id) } } j))) ∧
    (∀ (w : Fin 2415919104) (s : State),
      s.hbm.ready = true →
      s.hbm.poison.contains w.val = false →
      lastOfStack w = false →
      exec (.patrolScrub w) s = .next (note s (readHbmWord s (w.val * 64)))) ∧
    (∀ (w : Fin 2415919104) (s : State),
      s.hbm.ready = true →
      s.hbm.poison.contains w.val = true →
      lastOfStack w = false →
      exec (.patrolScrub w) s = .next (note s s)) ∧
    (∀ (w : Fin 2415919104) (s : State),
      s.hbm.ready = true →
      s.hbm.poison.contains w.val = true →
      lastOfStack w = true →
      ∃ k, k = stackOf (w.val * 64) ∧ exec (.patrolScrub w) s = .next (note s { s with hbm := { s.hbm with scrubPasses := tset s.hbm.scrubPasses k (tget 0 s.hbm.scrubPasses k + 1) } })) ∧
    (∀ (part : Fin 17) (a : Nat) (d : List Byte) (po : Bool) (s : State),
      inHbm a d.length = true →
      s.hbm.ready = true →
      (granules a d.length).any (frozenLeft s) = true →
      exec (.copyOnWrite part a d po) s = .next (note s (trackedWrite s part a d (fun _ _ => po)))) ∧
    (∀ (part g e : Nat) (s : State),
      s.husk.reserve.any (fun r => r.granule = g) = false →
      reserveFree s = some e →
      cowClaim s part g = { s with husk := { s.husk with reserve := s.husk.reserve ++ [{ entry := e, granule := g, part := part, copied := false, seq := none, written := false, order := s.husk.nextOrder }], nextOrder := s.husk.nextOrder + 1, cowTotal := s.husk.cowTotal + 1, snap := s.husk.snap.map (fun x => { x with cow := x.cow + 1 }) } }) ∧
    (∀ (entry : Nat) (r : Reserve) (c : HuskCfg) (s : State),
      s.husk.reserve.find? (fun r => r.entry = entry && !r.copied) = some r →
      s.husk.cfg = some c →
      ∃ src t, src = r.granule * 0x10000 ∧ t = { s with hbm := hbmPut s.hbm (c.reserveFirst * 0x10000000 + entry * 0x10000) (devBytes s src 0x10000) (fun o n => touchesAny (poisonedWords s src 0x10000) (src + o) n), husk := { s.husk with settled := sins s.husk.settled r.granule, reserve := s.husk.reserve.map (fun x => if x.entry = entry then { x with copied := true } else x) } } ∧
        exec (.cowCopyComplete entry) s = .next (note s (applyHeld t (fun h => h.granule = r.granule)))) ∧
    (∀ (entry : Nat) (s : State),
      s.husk.reserve.any (fun r => r.entry = entry && r.copied && r.written) = true →
      s.husk.heldWrites = [] →
      (∀ p, p < 16 → (s.pt p).run.stall ≠ some .husk) →
      exec (.reserveEntryFreed entry) s = .next (note s { s with husk := { s.husk with reserve := s.husk.reserve.filter (fun r => r.entry ≠ entry) } }))

/-- Embedding tables are created, destroyed, read out, migrated and replicated; a step fence that times out fails. (R519, R520, R521, R537, R538, R539, R540, R541, R542) -/
def Obligations.EmbeddingTablesAndCommands : Prop :=
    (∀ (fn : Fn) (c : Consumed) (p : Nat) (r : List Byte × List Nat × State) (ms : List (Nat × Nat)) (s : State),
      forPart s fn 7 1 p c = true →
      tableBad c = false →
      (s.pt p).owns (c.u64 72) (2 * c.u8 12) = true →
      r = engineRead s (c.u64 72) (2 * c.u8 12) →
      ms = (List.range (c.u8 12)).map (fun i => (rd 1 r.1 (2 * i), rd 1 r.1 (2 * i + 1))) →
      r.2.1 = [] →
      ms.any (fun m => 127 < m.1 || 15 < m.2) = false →
      (ms.filter (fun m => some m = s.link.linkId.map (fun l => (l, p)))).length = 1 →
      areasOwned (s.pt p) (embTable c) = true →
      tableOf s (p * 64 + c.u8 0) = none →
      ∃ t, t = { embTable c with members := ms, self := ms.findIdx (fun m => some m = s.link.linkId.map (fun l => (l, p))) } ∧
        exec (.embTableCreate fn) s = .next (note s (finishOk (setTable r.2.2 (p * 64 + c.u8 0) t) fn c.id (le 4 t.blocks ++ le 2 t.rowBytes)))) ∧
    (∀ (fn : Fn) (c : Consumed) (p : Nat) (t : EmbTable) (s : State),
      forPart s fn 7 2 p c = true →
      c.u8 0 ≤ 63 →
      tableOf s (p * 64 + c.u8 0) = some t →
      t.fence = none →
      t.migration = none →
      s.eng.emb.any (fun j => j.key = p * 64 + c.u8 0) = false →
      exec (.embTableDestroy fn) s = .next (note s (finishSt { s with eng := { s.eng with tables := tdel s.eng.tables (p * 64 + c.u8 0) } } fn c.id 0))) ∧
    (∀ (fn : Fn) (c : Consumed) (p : Nat) (t : EmbTable) (s : State),
      forPart s fn 7 3 p c = true →
      c.u8 0 ≤ 63 →
      c.u8 1 ≤ 3 →
      tableOf s (p * 64 + c.u8 0) = some t →
      ∃ z : W64 → W64, (∀ v, z v = if bitOf (c.u8 1) 1 then 0 else v) ∧ exec (.embCounters fn) s = .next (note s (finishOk (setTable s (p * 64 + c.u8 0) { t with swap := t.swap || bitOf (c.u8 1) 0, localLookups := z t.localLookups, remoteLookups := z t.remoteLookups, replicaHits := z t.replicaHits, bundles := z t.bundles, updates := z t.updates }) fn c.id (fields 48 [(0, le 8 t.localLookups.toNat), (8, le 8 t.remoteLookups.toNat),
          (16, le 8 t.replicaHits.toNat), (24, le 8 t.bundles.toNat), (32, le 8 t.updates.toNat), (40, le 1 t.bank), (44, le 4 (t.lastStep.getD 0))])))) ∧
    (∀ (fn : Fn) (c : Consumed) (p : Nat) (t : EmbTable) (r : List Byte × List Nat × State) (ms : List (Nat × W32)) (s : State),
      forPart s fn 7 4 p c = true →
      c.u8 0 ≤ 63 →
      rd 3 c.req.payload 1 = 0 →
      0 < c.u32 4 →
      c.u32 4 ≤ 65536 →
      tableOf s (p * 64 + c.u8 0) = some t →
      partRefusal s p = none →
      rangeRefusal s fn p (c.u64 8) (8 * c.u32 4) false = none →
      r = engineRead s (c.u64 8) (8 * c.u32 4) →
      ms = (List.range (c.u32 4)).map (fun i => (rd 4 r.1 (8 * i), BitVec.ofNat 32 (rd 4 r.1 (8 * i + 4)))) →
      r.2.1 = [] →
      ms.any (fun m => t.blocks ≤ m.1 || t.members.length ≤ m.2.toNat % 256) = false →
      t.lastStep = none →
      t.migration = none →
      exec (.embMigrate fn) s = .next (note s (setTable (accept r.2.2 fn c.id) (p * 64 + c.u8 0) { t with migration := some { fn := fn.val, cmdId := c.id, target := c.u32 16, moves := ms, moved := 0 } }))) ∧
    (∀ (fn : Fn) (c : Consumed) (p : Nat) (t : EmbTable) (r : List Byte × List Nat × State) (rows : List Nat) (s : State),
      forPart s fn 7 5 p c = true →
      c.u8 0 ≤ 63 →
      c.u8 1 = 0 →
      c.u16 2 = 0 →
      (0 < c.u32 4 ∧ c.u32 4 ≤ 65536) →
      tableOf s (p * 64 + c.u8 0) = some t →
      rangeRefusal s fn p (c.u64 8) (4 * c.u32 4) false = none →
      r = engineRead s (c.u64 8) (4 * c.u32 4) →
      rows = (List.range (c.u32 4)).map (fun i => rd 4 r.1 (4 * i)) →
      r.2.1 = [] →
      rows.any (fun i => t.rows ≤ i) = false →
      replicasFit r.2.2 (p * 64 + c.u8 0) t (rows.foldl sins t.wanted) = true →
      exec (.embReplicateAdd fn) s = .next (note s (finishOk (setTable r.2.2 (p * 64 + c.u8 0) { t with pendReplicas := some (rows.foldl sins t.wanted) }) fn c.id
          (le 4 (rows.foldl sins t.wanted).length)))) ∧
    (∀ (fn : Fn) (c : Consumed) (p : Nat) (t : EmbTable) (r : List Byte × List Nat × State) (rows : List Nat) (s : State),
      forPart s fn 7 5 p c = true →
      c.u8 0 ≤ 63 →
      c.u8 1 = 1 →
      c.u16 2 = 0 →
      (0 < c.u32 4 ∧ c.u32 4 ≤ 65536) →
      tableOf s (p * 64 + c.u8 0) = some t →
      rangeRefusal s fn p (c.u64 8) (4 * c.u32 4) false = none →
      r = engineRead s (c.u64 8) (4 * c.u32 4) →
      rows = (List.range (c.u32 4)).map (fun i => rd 4 r.1 (4 * i)) →
      r.2.1 = [] →
      rows.any (fun i => t.rows ≤ i) = false →
      replicasFit r.2.2 (p * 64 + c.u8 0) t (rows.foldl sdel t.wanted) = true →
      exec (.embReplicateRemove fn) s = .next (note s (finishOk (setTable r.2.2 (p * 64 + c.u8 0) { t with pendReplicas := some (rows.foldl sdel t.wanted) }) fn c.id
          (le 4 (rows.foldl sdel t.wanted).length)))) ∧
    (∀ (fn : Fn) (c : Consumed) (p : Nat) (t : EmbTable) (s : State),
      forPart s fn 7 5 p c = true →
      c.u8 0 ≤ 63 →
      c.u8 1 = 2 →
      c.u16 2 = 0 →
      c.u32 4 ≤ 65536 →
      tableOf s (p * 64 + c.u8 0) = some t →
      replicasFit s (p * 64 + c.u8 0) t [] = true →
      exec (.embReplicateClear fn) s = .next (note s (finishOk (setTable s (p * 64 + c.u8 0) { t with pendReplicas := some [] }) fn c.id (le 4 0)))) ∧
    (∀ (p : Fin 16) (table : Fin 64) (t : EmbTable) (f : StepFence) (s : State),
      tableOf s (p.val * 64 + table.val) = some t →
      t.fence = some f →
      exec (.embFenceTimeout p table) s = .next (note s (fenceFail s (p.val * 64 + table.val) 0x0707 0x0703 0x0707 (le 1 (b2n (f.phase ≠ 2))))))

/-- A queued GATHER, SCATTER or STEP starts; its segments pool bags or reduce gradients; bundles serve, answer, add and install rows. (R503, R525, R526, R527, R528, R529, R530, R531, R532, R533, R534) -/
def Obligations.EmbeddingDescriptorsAndBundles : Prop :=
    (∀ (id : Nat) (j y : EmbJob) (t : EmbTable) (u : State) (s : State),
      embJobOf s id = some j →
      j.desc.op = 0 →
      embStartable s j = true →
      u = startBags s j →
      embJobOf u id = some y →
      tableOf u j.key = some t →
      y.fail = none →
      ∃ v, v = ((y.bags.flatMap (fun b => b.map (fun x => x.1))).filter (fun i => i < t.rows)).foldl (fun v i => countLookup v j.key i) u ∧
        exec (.embGather id) s = .next (note s ((requestRows v y t).foldl (fun v e => sendEntries v y e.1 0 4 e.2) v))) ∧
    (∀ (id : Nat) (j : EmbJob) (s : State),
      embJobOf s id = some j →
      j.desc.op = 1 →
      embStartable s j = true →
      exec (.embScatter id) s = .next (note s (startBags s j))) ∧
    (∀ (id : Nat) (subs : List (Nat × Nat)) (j : EmbJob) (t : EmbTable) (s : State),
      embJobOf s id = some j →
      j.desc.op = 2 →
      embStartable s j = true →
      tableOf s j.key = some t →
      t.migration = none →
      ∃ s1, s1 = setTable (modEmb s id (fun y => { y with started := true })) j.key { t with fence := some { job := j.id, step := j.desc.step, phase := 2, moves := [], wait := [], subs := subs } } ∧
        exec (.embStep id subs) s = .next (note s (arrive s1 j.part (fenceBarrier t.key j.desc.step 0) t.members (mapCrc s t) (movesCrc [])))) ∧
    (∀ (t : EmbTable) (d : EmbDesc) (len : Nat) (rows : List (List Byte × W32)),
      d.weighted = false →
      d.mean = false →
      poolBag t d len rows = (List.range t.dim).flatMap (fun e => le (widthOf d.outFmt / 8)
          (cvtLane 0 d.outFmt d.sat false (rows.foldl (fun acc r => f32Add acc (elemF32 t.fmt r.1 e)) 0)))) ∧
    (∀ (key row : Nat) (t : EmbTable) (x : List Nat) (po : Bool) (r : List Byte × List Nat × State) (s : State),
      row < t.rows →
      (ownerEntry s t (row / 4096)).1 = t.self →
      r = engineRead s (t.gradAt (ownerEntry s t (row / 4096)).2 row) t.gradBytes →
      ∃ a new, a = t.gradAt (ownerEntry s t (row / 4096)).2 row ∧
        new = (List.range t.dim).flatMap (fun e => le 4 (f32Add (rd 4 r.1 (4 * e)) (x.getD e 0))) ∧
        applyUpdate s key t row x po = modTable (engineWrite r.2.2 (key / 64) a (bytesAt new 0 t.gradBytes)
          (fun i n => po || touchesAny r.2.1 (a + i) n)) key (fun t => { t with touched := sins t.touched row })) ∧
    (∀ (b : Bulk) (s : State),
      b.engine = 1 →
      bdlKind b = 0 →
      rd 4 b.content 0 = 0x42455256 →
      bulkAdmission s b = .take →
      exec (.bundleRequestReceive b) s = .next (note s (sendComplete (bundleRequest s b) b 0))) ∧
    (∀ (b : Bulk) (s : State),
      b.engine = 1 →
      bdlKind b = 1 →
      rd 4 b.content 0 = 0x42455256 →
      bulkAdmission s b = .take →
      exec (.bundleReplyReceive b) s = .next (note s (sendComplete (bundleReply s b) b 0))) ∧
    (∀ (b : Bulk) (s : State),
      b.engine = 1 →
      bdlKind b = 2 →
      rd 4 b.content 0 = 0x42455256 →
      bulkAdmission s b = .take →
      exec (.bundleUpdateReceive b) s = .next (note s (sendComplete (bundleUpdate s b) b 0))) ∧
    (∀ (b : Bulk) (key : Nat) (t : EmbTable) (j : EmbJob) (s : State),
      b.engine = 1 →
      bdlKind b = 3 →
      rd 4 b.content 0 = 0x42455256 →
      bulkAdmission s b = .take →
      bundleTable s b = some (key, t) →
      waiterOf s key (bdlSeq b) (senderIndex t b) = some j →
      exec (.bundleUpdateAckReceive b) s = .next (note s (sendComplete (modEmb s j.id (fun y => { y with waits := y.waits.filter (fun w => !(w.1 = bdlSeq b && w.2.1 = senderIndex t b)), ended := y.sent && (y.waits.filter (fun w => !(w.1 = bdlSeq b && w.2.1 = senderIndex t b))).isEmpty })) b 0))) ∧
    (∀ (b : Bulk) (s : State),
      b.engine = 1 →
      bdlKind b = 4 →
      rd 4 b.content 0 = 0x42455256 →
      bulkAdmission s b = .take →
      exec (.bundleRowsPushReceive b) s = .next (note s (sendComplete (bundlePush s b) b 0))) ∧
    (∀ (key row k : Nat) (data : List Byte) (bad : Nat → Nat → Bool) (t : EmbTable) (s : State),
      tableOf s key = some t →
      t.replicas.contains row = true →
      tfind t.directory row = some k →
      installRow s key row data bad = modTable (engineWrite s (key / 64) (t.replica + k * t.rowBytes) (bytesAt data 0 t.rowBytes) bad) key
          (fun t => { t with directory := tset t.directory row k })) ∧
    (∀ (b : Bulk) (s : State),
      b.engine = 1 →
      bdlKind b = 5 →
      rd 4 b.content 0 = 0x42455256 →
      bulkAdmission s b = .take →
      exec (.bundleBlockMoveReceive b) s = .next (note s (sendComplete (bundleMove s b) b 0)))

/-- A port takes flits in order, sheds and regains lanes, trains, goes down and is tried again. (R549, R550, R553, R554, R555, R576, R577, R578, R579, R594, R596, R598) -/
def Obligations.LinkPortsFlitsAndLanes : Prop :=
    (∀ (port : Fin 16) (f : Flit) (s : State),
      (s.port port).state = .up →
      f.kind = 1 →
      f.seq = (s.port port).rxSeq →
      f.ackValid = false →
      f.nak = false →
      ∃ y, y = takeCredits { s.port port with rxSeq := ((s.port port).rxSeq + 1) % 256, acked := some f.seq, nak := false } f ∧
        exec (.flitReceive port f true) s = .next (note s (portPump (s.setPort port y) port))) ∧
    (∀ (port : Fin 16) (f : Flit) (s : State),
      (s.port port).state = .up →
      f.kind = 1 →
      f.seq ≠ (s.port port).rxSeq →
      exec (.flitReceive port f true) s = .next (note s (s.setPort port { s.port port with nak := true }))) ∧
    (∀ (port : Fin 16) (f : Flit) (s : State),
      (s.port port).state = .up →
      f.kind ≠ 0 →
      exec (.flitReceive port f false) s = .next (note s (s.setPort port { s.port port with nak := true }))) ∧
    (∀ (p : Port) (i ack : Nat),
      p.replay.findIdx? (fun f => f.seq = ack) = some i →
      takeAck p ack = { p with replay := p.replay.drop (i + 1), streak := 0 }) ∧
    (∀ (port : Fin 16) (m : Marker) (s : State),
      (s.port port).state = .up →
      m.echoTime = 0 →
      m.txLanes = (s.port port).rxLanes →
      ∃ x keep, x = s.port port ∧ keep = usableSet (x.txLanes &&& m.rxReq) ∧ exec (.markerBlockReceive port m true) s =
        .next (note s (s.setPort port { x with rtts := x.rtts, echoTime := BitVec.ofNat 64 m.txTime, echoArrival := s.time, peerReq := m.rxReq, rxLanes := m.txLanes, rxOk := x.rxOk &&& ~~~(x.rxReq &&& ~~~m.txLanes &&& x.rxLanes), rxReq := x.rxReq &&& ~~~(x.rxReq &&& ~~~m.txLanes &&& x.rxLanes), announced := if keep = x.txLanes then none else some keep }))) ∧
    (∀ (port : Fin 16) (new : Byte) (s : State),
      (s.port port).state = .up →
      new = usableSet ((s.port port).peerReq &&& ~~~(s.port port).disabledLanes) →
      laneCount (s.port port).txLanes < laneCount new →
      exec (.laneEpochMarker port) s = .next (note s (laneChange (s.setPort port { s.port port with epoch := (s.port port).epoch + 1, txLanes := new })
          port 0 (s.port port).txLanes new))) ∧
    (∀ (port : Fin 16) (lane : Fin 8) (s : State),
      (s.port port).state = .up →
      (s.port port).rxReq.getLsbD lane = true →
      ∃ x bit, x = s.port port ∧ bit = (1#8 <<< lane.val) ∧ exec (.laneFailure port lane) s = .next (note s (fault (s.setPort port
        { x with rxOk := x.rxOk &&& ~~~bit, rxReq := x.rxReq &&& ~~~bit, attempts := tset x.attempts lane 0 })
        { code := 0x0801, cls := 0, unit := port, detail := le 1 lane ++ le 1 1 }))) ∧
    (∀ (port : Fin 16) (v : Byte) (s : State),
      (s.port port).state = .up →
      (s.port port).announced = some v →
      v ≠ 0 →
      ∃ x, x = s.port port ∧ exec (.laneSetApply port) s = .next (note s (laneChange (s.setPort port { x with txLanes := v, announced := none, degrades := if laneCount v < laneCount x.txLanes then x.degrades + 1 else x.degrades }) port 0 x.txLanes v))) ∧
    (∀ (port : Fin 16) (s : State),
      (s.port port).state = .up →
      (s.port port).announced = some 0 →
      exec (.laneSetApply port) s = .next (note s (portDown (laneChange s port 0 (s.port port).txLanes 0) port .down 1))) ∧
    (∀ (port : Fin 16) (lane : Fin 8) (ok : Bool) (s : State),
      (s.port port).state = .up →
      (s.port port).rxReq.getLsbD lane = false →
      (s.port port).disabledLanes.getLsbD lane = false →
      ∃ x bit n, x = s.port port ∧ bit = (1#8 <<< lane.val) ∧ n = tget 0 x.attempts lane + 1 ∧ exec (.laneRetrainComplete port lane ok) s = .next (note s (s.setPort port
        (if ok then { x with rxOk := x.rxOk ||| bit, rxReq := x.rxReq ||| bit, attempts := tset x.attempts lane 0 }
         else { x with attempts := tset x.attempts lane n, disabledLanes := if 8 ≤ n then x.disabledLanes ||| bit else x.disabledLanes })))) ∧
    (∀ (port : Fin 16) (tx rx a b : Byte) (s : State),
      (s.port port).state = .training →
      a = usableSet (tx &&& ~~~(s.port port).disabledLanes) →
      b = usableSet (rx &&& ~~~(s.port port).disabledLanes) →
      a ≠ 0 →
      b ≠ 0 →
      exec (.portTrainingComplete port tx rx) s = .next (note s (portRise s port a b))) ∧
    (∀ (port : Fin 16) (rx : Byte) (s : State),
      (s.port port).state = .training →
      exec (.portTrainingComplete port 0 rx) s = .next (note s (portDown s port .down 1))) ∧
    (∀ (port : Fin 16) (s : State),
      (s.port port).state = .down →
      mayTrain s port = true →
      exec (.portRetryTimer port) s = .next (note s (portTo s port .training 1))) ∧
    (∀ (port : Fin 16) (reset : Bool) (s : State),
      (s.port port).state = .up →
      exec (.portLoss port reset) s = .next (note s (if reset then portReset s port .down 2 else portDown s port .down 1)))

/-- HELLO and TIME records go out and come in; transit traffic is forwarded; LINK commands query, train, reset and load routes. (R566, R568, R569, R573, R574, R581, R582, R583, R584, R594, R595, R597) -/
def Obligations.LinkTimeRoutingAndCommands : Prop :=
    (∀ (port : Fin 16) (s : State),
      (s.port port).state = .up →
      exec (.helloTransmit port) s = .next (note s (sendMgmtAt s port 255 255 255 0x0040 (le 1 (s.link.linkId.getD 255) ++ le 1 port)))) ∧
    (∀ (port np : Fin 16) (id : Byte) (s : State),
      (s.port port).state = .up →
      exec (.helloReceive port id np) s = .next (note s (judgeNeighbour (s.setPort port { s.port port with neighbour := some id.toNat, neighbourPort := np }) port))) ∧
    (∀ (port : Fin 16) (l : Nat) (s : State),
      (s.port port).state = .up →
      s.link.linkId = some l →
      ∃ b, b = routing s 255 3 255 255 48 ++ le 8 s.time.toNat ++ le 1 (s.link.master.getD l) ++ le 1 s.link.hops ∧
        exec (.timeRecordTransmit port) s = .next (note s (enqueueFlits s port 3 [recordFlit (bytesAt b 0 48)]))) ∧
    (∀ (port : Fin 16) (r : TimeRec) (t : State) (s : State),
      routable s port = true →
      t = adoptMaster { s with link := { s.link with heard := tset s.link.heard port r } } →
      (t.link.masterPort = some port.val → exec (.timeRecordReceive port r) s = .next (note s (followTime t (r.time.toNat + (t.port port).rtt / 2)))) ∧
        (t.link.masterPort ≠ some port.val → exec (.timeRecordReceive port r) s = .next (note s t))) ∧
    (∀ (ref : Nat) (s : State),
      (s.time.toNat + 1000 < ref → followTime s ref = { s with time := BitVec.ofNat 64 ref, link := { s.link with half := false, lead := 0 } }) ∧
        (ref + 1000 < s.time.toNat → followTime s ref = { s with link := { s.link with half := true, lead := s.time.toNat - ref } })) ∧
    (∀ (q : Nat) (t : State) (s : State),
      s.link.masterPort = some q →
      t = adoptMaster { s with link := { s.link with heard := s.link.heard.filter (fun e => some e.2.master ≠ s.link.master), half := false, lead := 0 } } →
      exec .timeMasterTimeout s = .next (note s (eventDev t 0x0803 (le 1 (t.link.master.getD 255) ++ le 1 t.link.hops)))) ∧
    (∀ (port : Fin 16) (vc : Fin 4) (cls : Fin 2) (b : List Byte) (q l : Nat) (s : State),
      s.faults.stopped = false →
      routable s port = true →
      s.link.linkId = some l →
      l ≠ rd 1 b 0 →
      rd 1 b 0 ≠ 255 →
      rd 1 b 3 ≠ 0 →
      routePort s (rd 1 b 0) (transitSel vc b) = some q →
      vc.val ≠ 0 →
      bitOf (tget 0 s.link.attrs q).toNat 2 = false →
      bitsOf (tget 0 s.link.attrs q).toNat 1 0 = bitsOf (tget 0 s.link.attrs port).toNat 1 0 →
      ∃ c v, c = layAt b 3 (le 1 (rd 1 b 3 - 1)) ∧ v = vc.val * 2 + cls.val ∧ exec (.transitForward port vc cls b) s = .next (note s (portPump (s.setPort q
        { s.port q with queue := tset (s.port q).queue v (tget [] (s.port q).queue v ++ [recordFlit c]) }) q))) ∧
    (∀ (port : Fin 16) (vc : Fin 4) (cls : Fin 2) (b : List Byte) (l : Nat) (s : State),
      s.faults.stopped = false →
      routable s port = true →
      s.link.linkId = some l →
      l ≠ rd 1 b 0 →
      rd 1 b 0 ≠ 255 →
      rd 1 b 3 = 0 →
      exec (.transitForward port vc cls b) s = .next (note s (s.setPort port { s.port port with ttlDrops := (s.port port).ttlDrops + 1 }))) ∧
    (∀ (fn : Fn) (c : Consumed) (s : State),
      startable s fn 8 1 = some c →
      c.u8 0 < 16 →
      ∃ p, p = s.port (c.u8 0) ∧ exec (.linkQuery fn) s = .next (finishOk s fn c.id (fields 48
        [(0, le 1 p.state.code), (1, [p.txLanes]), (2, [p.rxLanes]), (3, [p.disabledLanes]), (4, le 1 (p.neighbour.getD 0)), (5, le 1 p.neighbourPort),
         (6, le 1 (b2n p.miswired + 2 * b2n p.throttled)), (8, le 4 p.rtt), (12, le 4 p.replays.toNat), (16, le 8 p.corrected.toNat),
         (24, le 8 p.uncorrectable.toNat), (32, le 4 p.resets.toNat), (36, le 4 p.ttlDrops.toNat), (40, le 4 p.degrades.toNat)]))) ∧
    (∀ (fn : Fn) (c : Consumed) (s : State),
      startable s fn 8 1 = some c →
      c.u8 0 = 255 →
      exec (.linkQuery fn) s = .next (finishOk s fn c.id (fields 16 [(0, le 1 (s.link.linkId.getD 255)), (1, le 1 (s.link.master.getD 255)), (2, le 1 s.link.hops),
          (4, le 2 (maskOf ((List.range 16).filter (portUp s)))), (8, le 8 s.time.toNat)]))) ∧
    (∀ (fn : Fn) (c : Consumed) (s : State),
      startable s fn 8 2 = some c →
      c.u16 0 = 2 ^ 2 →
      c.u8 2 = 0 →
      s.link.started = true →
      s.link.trainJob = none →
      (s.port 2).state = .down →
      mayTrain s 2 = true →
      ∃ t, t = portTo ((accept s fn c.id).setPort 2 (s.port 2).emptied) 2 .training 0 ∧
        exec (.linkTrain fn) s = .next (settleTrain { t with link := { t.link with trainJob := some (fn.val, c.id, c.u16 0) } })) ∧
    (∀ (fn : Fn) (c : Consumed) (s : State),
      startable s fn 8 3 = some c →
      c.u8 0 ≤ 15 →
      c.u8 1 = 1 →
      exec (.linkReset fn) s = .next (finishOk (portReset s (c.u8 0) .disabled 0) fn c.id (le 4 (portHolds (s.port (c.u8 0)))))) ∧
    (∀ (fn : Fn) (buf : Option (List Byte)) (c : Consumed) (b0 : List Byte) (s : State),
      startable s fn 8 4 = some c →
      c.u8 0 = 0 →
      rd 6 c.req.payload 2 = 0 →
      hostBuf s fn buf = some b0 →
      routeImageOk (bytesAt b0 0 768) = true →
      (linkBusy s = false ∨ s.link.linkId = some (rd 1 (bytesAt b0 0 768) 0)) →
      exec (.routeSetRoutingImage fn buf) s = .next (note s (finishSt (loadRoutes s (bytesAt b0 0 768)) fn c.id 0))) ∧
    (∀ (fn : Fn) (buf : Option (List Byte)) (c : Consumed) (b : List Byte) (s : State),
      startable s fn 8 4 = some c →
      c.u8 0 = 1 →
      c.u8 1 ≤ 15 →
      rd 6 c.req.payload 2 = 0 →
      (s.pt (c.u8 1)).state ≠ .free →
      hostBuf s fn buf = some b →
      ∃ t : Tab W16, t = ((List.range 128).map (fun d => (d, BitVec.ofNat 16 (rd 2 b (2 * d))))).filter (fun e => e.2 ≠ 0) ∧
        exec (.routeSetPeerTable fn buf) s = .next (note s (finishSt { s with link := { s.link with peers := tset s.link.peers (c.u8 1) t } } fn c.id 0)))

/-- BULK transfers are written and completed or time out; barriers hold and release; collectives begin, step, end and fail. (R509, R563, R564, R585, R587, R588, R589, R590, R591, R593) -/
def Obligations.LinkTransfersBarriersAndCollectives : Prop :=
    (∀ (b : Bulk) (ps : List (Nat × Nat)) (s : State),
      b.engine = 0 →
      b.dstPart < 16 →
      bulkAdmission s b = .take →
      bulkPieces s b = some ps →
      rangesFrozen s ps = false →
      ps.any (fun r => snapHolds s b.dstPart false && 0 < r.2) = false →
      exec (.bulkWriteReceive b) s = .next (note s (sendComplete (chargeWrite (windowWrite s b.dstPart b.offset b.content (bulkPois b)) b.dstPart b.content.length) b 0))) ∧
    (∀ (b : Bulk) (s : State),
      b.engine = 2 →
      bulkAdmission s b = .take →
      exec (.bulkEngineReceive b) s = .next (note s (collArrive (chargeWrite s b.dstPart b.content.length) b))) ∧
    (∀ (id status job : Nat) (x : Xfer) (s : State),
      s.faults.stopped = false →
      s.link.xfers.find? (fun x => x.id = id) = some x →
      x.use = .mover job →
      status ≠ 0 →
      exec (.bulkCompleteReceive id status) s = .next (note s (modJob (dropXfer s x.id) job (fun j => { j with fail := some (j.fail.getD (status, failCause status)) })))) ∧
    (∀ (id : Nat) (x : Xfer) (s : State),
      s.link.xfers.find? (fun x => x.id = id) = some x →
      exec (.bulkCompleteTimeout id) s = .next (note s (transferEnd s x 0x0801))) ∧
    (∀ (r : SyncRec) (s : State),
      admits s r.dstPart r.src r.srcPart = true →
      s.link.barriers = [] →
      (∃ i, i < 128 ∧ r.members.getLsbD i = true ∧ i ≠ r.src) →
      exec (.barrierArrive r) s = .next (note s { s with link := { s.link with barriers := [{ id := r.barrier, arrivals := [{ src := r.src, srcPart := r.srcPart, members := r.members, v0 := r.v0, v1 := r.v1 }] }] } })) ∧
    (∀ (r : SyncRec) (a : Arrival) (s : State),
      admits s r.dstPart r.src r.srcPart = true →
      s.link.barriers = [{ id := r.barrier, arrivals := [a] }] →
      a.src ≠ r.src →
      (∀ i, i < 128 → a.members.getLsbD i = true → i = a.src ∨ i = r.src) →
      r.members = a.members →
      r.v0 = a.v0 →
      r.v1 = a.v1 →
      ∃ t, exec (.barrierArrive r) s = .next t ∧ t.link.barriers = []) ∧
    (∀ (s : State) (b : Barrier) (a : Arrival) (r : List Arrival),
      b.arrivals = a :: r →
      r.any (fun x => x.members ≠ a.members) = false →
      r.any (fun x => x.v0 ≠ a.v0) = true →
      ∃ d1, d1 = r.any (fun x => x.v1 ≠ a.v1) ∧ barrierResult s b = (1, 1, BitVec.ofNat 32 (b2n d1))) ∧
    (∀ (r : SyncRec) (s : State),
      0x80000000 ≤ r.barrier.toNat % 2 ^ 32 →
      exec (.barrierRelease (some r)) s = .next (note s (fenceRelease s r.dstPart r))) ∧
    (∀ (r : SyncRec) (rest : List SyncRec) (s : State),
      s.link.releases = r :: rest →
      exec (.barrierRelease none) s = .next (note s (released { s with link := { s.link with releases := rest } } r))) ∧
    (∀ (fn : Fn) (c : Consumed) (p n : Nat) (r : List Byte × List Nat × State) (ms : List (Nat × Nat)) (x : Coll) (s : State),
      forPart s fn 8 5 p c = true →
      n = c.u8 4 →
      collBad c = false →
      partRefusal s p = none →
      rangeRefusal s fn p (c.u64 40) (2 * n) false = none →
      r = engineRead s (c.u64 40) (2 * n) →
      ms = (List.range n).map (fun i => (rd 1 r.1 (2 * i), rd 1 r.1 (2 * i + 1))) →
      x = collRequest c p fn ms →
      r.2.1 = [] →
      ms.any (fun m => 127 < m.1 || 15 < m.2) = false →
      r.2.2.link.linkId = some (ms.getD x.rank (255, 255)).1 →
      (ms.getD x.rank (255, 255)).2 = p →
      4096 ≤ x.chunk →
      rangeRefusal r.2.2 fn p x.buf (x.count * x.elem) true = none →
      (x.op = 1 ∨ rangeRefusal r.2.2 fn p x.scratch (2 * x.chunk) true = none) →
      ms.any (fun m => r.2.2.link.linkId ≠ some m.1 && (routePort r.2.2 m.1 0).isNone) = false →
      collOf r.2.2 p x.key = none →
      ∃ u, u = accept r.2.2 fn c.id ∧ exec (.linkCollective fn) s = .next (note s (arrive { u with link := { u.link with colls := u.link.colls ++ [x] } } p (collBarrier x.key) ms 0 0))) ∧
    (∀ (p : Fin 16) (key : W32) (c : Coll) (s : State),
      collOf s p key = some c →
      c.stepDone = true →
      c.step + 1 < c.steps →
      exec (.collectiveStepComplete p key) s = .next (note s (modColl s c.part c.key (fun _ => { c with step := c.step + 1, sendPos := 0, sendBuf := [], sendPoison := [] })))) ∧
    (∀ (p : Fin 16) (key : W32) (c : Coll) (s : State),
      collOf s p key = some c →
      c.stepDone = true →
      c.steps = c.step + 1 →
      exec (.collectiveStepComplete p key) s = .next (note s (workDone { s with link := { s.link with colls := s.link.colls.filter (fun x => !(x.part = c.part && x.key = c.key)) } } c.fn c.cmdId
          ⟨0, 0, collPayload { c with step := c.step + 1, sendPos := 0, sendBuf := [], sendPoison := [] }⟩))) ∧
    (∀ (p : Fin 16) (key : W32) (c : Coll) (s : State),
      collOf s p key = some c →
      exec (.collectiveTimeoutExpiry p key) s = .next (note s (collFail s c 0x0802))) ∧
    (∀ (n r k : Nat),
      2 ≤ n →
      r < n →
      k < n - 1 →
      (ringStep n r k true).dst = (r + 1) % n ∧ (ringStep n r k true).src = (r + n - 1) % n ∧
        ((ringStep n r k true).sendAt + k + 1) % n = r ∧ ((ringStep n r k true).recvAt + k + 2) % n = r ∧
        (ringStep n r k true).recvAt = (ringStep n ((r + n - 1) % n) k true).sendAt)

/-- Slots power up and down, presence comes and goes, a captive drive initialises, idles, suspends and wakes. (R606, R617, R618, R620, R621, R623, R624, R626, R627, R629, R632, R639) -/
def Obligations.SlotsAndCaptiveDrives : Prop :=
    (∀ (n : Fin 8) (s : State),
      hubLive s n = true →
      (s.dp n).passthrough = true →
      (s.dp n).powerOff = true →
      exec (.powerControllerControlWrite n false) s = .next (note s (slotOn (modDp s n (fun p => { p with powerOff := false })) n))) ∧
    (∀ (n : Fin 8) (s : State),
      hubLive s n = true →
      (s.dp n).passthrough = true →
      (s.dp n).powerOff = false →
      exec (.powerControllerControlWrite n true) s = .next (note s (modDp (slotOff (modDp s n (fun p => { p with powerOff := true })) n) n
          (fun q => { q with dllChanged := q.dllChanged || (s.dp n).linkUp })))) ∧
    (∀ (n : Nat) (s : State),
      slotOn s n = (let t := modDp s n (fun p => { p with refclk := true, rising := true, falling := false }); { t with comp := { t.comp with slotCtrl := s.comp.slotCtrl ||| (1#8 <<< n) } })) ∧
    (∀ (n : Fin 8) (s : State),
      engineLive s n = true →
      (s.dp n).present = false →
      (s.dp n).drive.state = .absent →
      (s.dp n).autoPower = true →
      s.boot.deployed = true →
      ∃ t, t = eventDev (modDp s n (fun p => { p with present := true })) 0x0903 (le 1 n ++ le 1 1) ∧
        exec (.presenceChange n true) s = .next (note s (powerOn (driveState t n .off 1) n 1))) ∧
    (∀ (n : Fin 8) (s : State),
      engineLive s n = true →
      (s.dp n).present = true →
      s.comp.slotCtrl.getLsbD n = true →
      ∃ t u, t = eventDev (modDp s n (fun p => { p with present := false })) 0x0903 (le 1 n ++ le 1 0) ∧ u = endAll (slotOff (driveState t n .removed 1) n) n 0x0906 ∧
        exec (.driveSurpriseRemoval n) s = .next (note s (if (u.bay n).state = .off then driveState (modDp u n (fun p => { p with falling := false })) n .absent 1 else u))) ∧
    (∀ (n : Fin 8) (s : State),
      engineLive s n = true →
      (s.dp n).rising = true →
      (s.dp n).refclk = true →
      (s.bay n).state = .on →
      (s.dp n).drive.state = .powering →
      exec (.dpPerstRelease n) s = .next (note s (driveState (modDp s n (fun p => { p with perst := false, rising := false })) n .initialising (s.dp n).drive.cause))) ∧
    (∀ (n : Fin 8) (speed : Fin 7) (width : Fin 16) (flit : Bool) (s : State),
      engineLive s n = true →
      (s.dp n).perst = false →
      (s.dp n).linkUp = false →
      (s.bay n).state = .on →
      speed.val ≠ 0 →
      (s.dp n).drive.state = .initialising →
      ∃ t, t = modDp s n (fun p => { p with linkUp := true, speed := speed, width := width, flit := flit, l12 := false, dpc := false, dllChanged := (s.dp n).dllChanged }) ∧
        exec (.downstreamLinkUp n speed width flit true) s = .next (note s (modDrive t n (fun d => { d with enabling := true }))) ∧
        exec (.downstreamLinkUp n speed width flit false) s = .next (note s (unsuitable t n))) ∧
    (∀ (n : Fin 8) (s : State),
      engineLive s n = true →
      (s.dp n).linkUp = true →
      (s.dp n).drive.enabling = true →
      exec (.controllerReady n) s = .next (note s (setupStep (modDrive s n (fun d => { d with enabling := false })) n 0))) ∧
    (∀ (n : Fin 8) (s : State),
      engineLive s n = true →
      (s.dp n).drive.enabling = true →
      (s.dp n).drive.state ≠ .resetting →
      exec (.controllerReadyTimeout n) s = .next (note s (driveFails (modDrive s n (fun d => { d with enabling := false })) n 2))) ∧
    (∀ (n : Fin 8) (s : State),
      hubLive s n = true →
      (s.dp n).l12 = true →
      exec (.clkreqAssert n) s = .next (note s (modDp s n (fun p => { p with l12 := false, refclk := true })))) ∧
    (∀ (n : Fin 8) (s : State),
      hubLive s n = true →
      (s.dp n).linkUp = true →
      (s.dp n).l12 = false →
      ((s.dp n).passthrough = true ∨ ((s.dp n).l12Enable = true ∧ (s.dp n).drive.l1ss = true ∧ (s.dp n).drive.state = .ready)) →
      exec (.clkreqRelease n) s = .next (note s (modDp s n (fun p => { p with l12 := true, refclk := false })))) ∧
    (∀ (n : Fin 8) (s : State),
      engineLive s n = true →
      (s.dp n).drive.state = .ready →
      (s.dp n).suspendS ≠ 0 →
      (s.dp n).drive.idle = true →
      exec (.driveIdleTimeout n) s = .next (note s (driveState (modDrive s n (fun d => { d with offAfter := false, cause := 3 })) n .suspending 3))) ∧
    (∀ (n : Fin 8) (s : State),
      engineLive s n = true →
      (s.dp n).drive.state = .suspending →
      (s.dp n).perst = false →
      exec (.shutdownComplete n) s = .next (note s (slotOff s n)) ∧ exec (.shutdownTimeout n) s = .next (note s (slotOff s n))) ∧
    (∀ (n : Fin 8) (s : State),
      engineLive s n = true →
      (s.dp n).drive.state = .suspending →
      (s.dp n).perst = false →
      exec (.shutdownTimeout n) s = .next (note s (slotOff s n))) ∧
    (∀ (n : Fin 8) (s : State),
      engineLive s n = true →
      (s.dp n).drive.state = .suspended →
      (s.dp n).drive.queued ≠ [] →
      s.pow.state = .run →
      exec (.driveWake n) s = .next (note s (wakeDrive s n 4))) ∧
    (∀ (n : Fin 8) (s : State),
      engineLive s n = true →
      (s.dp n).drive.state = .waking →
      exec (.driveWakeTimeout n) s = .next (note s (driveFails s n 2)))

/-- Packets are stored and forwarded; drive commands complete, time out and reach memory; errors on a captive link are recovered. (R614, R615, R616, R632, R635, R637, R638, R639, R643, R655, R855, R856) -/
def Obligations.DriveCommandsPacketsAndErrors : Prop :=
    (∀ (i e : Fin 9) (t : Tlp) (s : State),
      carries s i = true →
      carries s e = true →
      e ≠ i →
      poolRoom s i t = true →
      tget [] s.hub.held i = [] →
      exec (.tlpForward i (some (e, t)) true true) s = .next { s with hub := { s.hub with held := tset s.hub.held i [], forwarded := some (i.val, e.val, t) } } ∧
        exec (.tlpForward i (some (e, t)) true false) s = .next { s with hub := { s.hub with held := tset s.hub.held i [(e.val, t)] } }) ∧
    (∀ (i e : Fin 9) (t : Tlp) (s : State),
      carries s i = true →
      tget [] s.hub.held i = [] →
      exec (.tlpForward i (some (e, t)) false true) s = .next { s with hub := { s.hub with held := tset s.hub.held i [] } }) ∧
    (∀ (n : Fin 8) (s : State),
      hubLive s n = true →
      (s.dp n).passthrough = true →
      (s.dp n).linkUp = true →
      ∃ t, t = modDp s n (fun p => { p with linkUp := false, speed := 0, width := 0, flit := false, l12 := false, dllChanged := true, dpc := true }) ∧
        exec (.dpcTrigger n) s = .next (note s { t with hub := { t.hub with held := (tdel t.hub.held n).map (fun h => (h.1, h.2.filter (fun x => x.1 ≠ n.val))) } })) ∧
    (∀ (n : Fin 8) (cid dw0 dw1 : Nat) (info : DriveInfo) (c : NvmeCmd) (s : State),
      engineLive s n = true →
      ((s.dp n).drive.aer = false ∨ cid < 0xFF00) →
      (s.dp n).drive.sent.find? (fun c => c.cid = cid) = some c →
      c.qid ≠ 0 →
      c.opcode = 2 →
      (s.dp n).drive.step = 0 →
      exec (.nvmeCompletionReceive n cid 0 dw0 dw1 info) s = .next (note s (endDriveCmd (modDrive (dropCmd s n cid) n (fun d => { d with bytes := d.bytes + BitVec.ofNat 64 c.length })) n c (.done 0 dw0 dw1) info))) ∧
    (∀ (n : Fin 8) (cid : Nat) (c : NvmeCmd) (s : State),
      engineLive s n = true →
      (s.dp n).drive.state = .ready →
      (s.dp n).drive.step = 0 →
      (s.dp n).drive.sent.find? (fun c => c.cid = cid) = some c →
      exec (.nvmeCommandTimeout n cid) s = .next (note s (sendAdmin (modDrive s n (fun d => { d with step := 1, victim := cid + 65536 * c.qid })) n
          (adminCmd 0x08 0 .abort 0 0)))) ∧
    (∀ (n : Fin 8) (cid : Nat) (s : State),
      engineLive s n = true →
      (s.dp n).drive.state = .resetting →
      (s.dp n).drive.step = 2 →
      exec (.nvmeCommandTimeout n cid) s = .next (note s (recover3 (driveFault s n 0x0902 1 (le 1 2 ++ le 1 0 ++ le 2 ((s.dp n).drive.victim / 65536))) n 2))) ∧
    (∀ (n : Fin 8) (cid fn id host : Nat) (c : NvmeCmd) (s : State),
      ((s.dp n).drive.queued ++ (s.dp n).drive.sent).find? (fun c => c.cid = cid) = some c →
      c.use = .admin fn id host →
      exec (.nvmeAdminTimeout n cid) s = .next (modDrive (workDone s fn id ⟨0x0907, 0, []⟩) n (fun d => { d with queued := d.queued.filter (fun x => x.cid ≠ cid), sent := d.sent.map (fun x => if x.cid = cid then { x with use := .log } else x) }))) ∧
    (∀ (n : Fin 8) (a k : Nat) (who : Option Nat) (c : NvmeCmd) (s : State),
      engineLive s n = true →
      (s.dp n).linkUp = true →
      inHbm a k = true →
      bufferCmd s n a k = some c →
      (engineRead s a k).2.1 = [] →
      exec (.driveMemoryRequest n (.read a k) who) s = .next (note s (answered (engineRead s a k).2.2 (engineRead s a k).1 true))) ∧
    (∀ (n : Fin 8) (a : Nat) (d : List Byte) (po : Bool) (who : Option Nat) (c : NvmeCmd) (s : State),
      engineLive s n = true →
      (s.dp n).linkUp = true →
      inHbm a d.length = true →
      bufferCmd s n a d.length = some c →
      exec (.driveMemoryRequest n (.write a d po) who) s = .next (note s (answered { s with hbm := hbmPut s.hbm a d (fun _ _ => po) } [] true))) ∧
    (∀ (n : Fin 8) (a k : Nat) (s : State),
      engineLive s n = true →
      (s.dp n).linkUp = true →
      inHbm a k = true →
      bufferCmd s n a k = none →
      exec (.driveMemoryRequest n (.read a k) none) s = .next (note s (driveFault (answered s [] false) n 0x0901 1 (le 8 a)))) ∧
    (∀ (n : Fin 8) (st : W32) (s : State),
      engineLive s n = true →
      (s.dp n).linkUp = true →
      (s.dp n).drive.state = .ready →
      exec (.captiveLinkError n true st) s = .next (note s (driveFault s n 0x0903 0 (le 4 st.toNat))) ∧
        exec (.captiveLinkError n false st) s = .next (note s (recover3 (driveFault s n 0x0904 1 (le 4 st.toNat)) n 7)))

/-- HUB commands query ports, set their mode and power, give namespaces owners and pass admin commands on. (R607, R608, R644, R647, R650, R651, R652, R653, R654, R656, R657) -/
def Obligations.HubCommandsSetPortsSlotsAndOwners : Prop :=
    (∀ (fn : Fn) (c : Consumed) (s : State),
      startable s fn 9 1 = some c →
      fn.val = 0 →
      c.u8 0 = 0 →
      rd 2 c.req.payload 2 = 0 →
      dpExists s (c.u8 1) = true →
      ∃ n p d, n = c.u8 1 ∧ p = s.dp n ∧ d = p.drive ∧ exec (.hubQuery fn) s = .next (finishOk s fn c.id (fields 48
        [(0, le 1 (b2n p.passthrough)), (1, le 1 (slotCode s n)), (2, le 1 (b2n p.present)), (3, le 1 d.state.code), (4, le 1 p.speed), (5, le 1 p.width),
         (6, le 1 (b2n p.flit + 2 * b2n p.l12Enable + 4 * b2n p.autoPower)), (7, le 1 (if d.state = .absent then 0 else d.nss.length)), (8, le 4 p.suspendS),
         (12, le 4 d.resets.toNat), (0x10, bytesAt (if d.state = .absent then [] else d.serial) 0 20), (0x24, le 4 d.sent.length), (0x28, le 8 d.bytes.toNat)]))) ∧
    (∀ (fn : Fn) (c : Consumed) (s : State),
      startable s fn 9 2 = some c →
      dpExists s (c.u8 0) = true →
      c.u8 1 = b2n (s.dp (c.u8 0)).passthrough →
      c.u8 2 ≤ 3 →
      c.u8 3 = 0 →
      c.u32 4 = 0 →
      (s.dp (c.u8 0)).mse = false →
      (s.dp (c.u8 0)).bme = false →
      exec (.hubPortMode fn) s = .next (note s (finishOk (modDp s (c.u8 0) (fun p => { p with autoPower := bitOf (c.u8 2) 0, l12Enable := bitOf (c.u8 2) 1, suspendS := 0 }))
          fn c.id (le 1 (b2n (s.dp (c.u8 0)).passthrough))))) ∧
    (∀ (fn : Fn) (c : Consumed) (s : State),
      startable s fn 9 2 = some c →
      dpExists s (c.u8 0) = true →
      c.u8 1 = 1 →
      c.u8 2 ≤ 3 →
      c.u8 3 = 0 →
      c.u32 4 = 0 →
      (s.dp (c.u8 0)).passthrough = false →
      slotCode s (c.u8 0) = 0 →
      driveOwned s (c.u8 0) = false →
      ∃ t, exec (.hubPortMode fn) s = .next t ∧ (t.dp (c.u8 0)).passthrough = true ∧ (t.dp (c.u8 0)).drive.state = .hostOwned ∧
        (t.dp (c.u8 0)).autoPower = bitOf (c.u8 2) 0) ∧
    (∀ (fn : Fn) (c : Consumed) (s : State),
      startable s fn 9 3 = some c →
      c.u8 1 = 1 →
      slotRefusal s c = none →
      (s.dp (c.u8 0)).passthrough = false →
      (s.dp (c.u8 0)).drive.state = .off →
      slotCode s (c.u8 0) ≠ 2 →
      ∃ t, t = powerOn s (c.u8 0) 0 ∧ exec (.hubSlotPowerOn fn) s = .next (note s (finishOk t fn c.id (le 1 (t.dp (c.u8 0)).drive.state.code ++ le 3 0 ++ le 4 0)))) ∧
    (∀ (fn : Fn) (c : Consumed) (s : State),
      startable s fn 9 3 = some c →
      (∀ n, n < 8 → (s.dp n).offJob = none) →
      c.u8 1 = 0 →
      slotRefusal s c = none →
      (s.dp (c.u8 0)).passthrough = false →
      ((s.dp (c.u8 0)).drive.sent = [] → exec (.hubSlotPowerOff fn) s = .next (note s (slotPowerOff s (c.u8 0) fn c.id))) ∧
        ((s.dp (c.u8 0)).drive.sent ≠ [] → exec (.hubSlotPowerOff fn) s = .next (note s (begun (modDp s (c.u8 0) (fun p => { p with fence := .draining, offJob := some (fn.val, c.id) })) fn c.id)))) ∧
    (∀ (fn : Fn) (c : Consumed) (s : State),
      startable s fn 9 4 = some c →
      nsAssignRefusal s (c.u8 0) (c.u8 1) (c.u32 4) (c.u8 2 + 256 * c.u8 3) = none →
      c.u8 1 ≠ 0 →
      ∃ x d, d = (s.dp (c.u8 0)).drive ∧ x = nsOf s (c.u8 0) (c.u32 4) ∧ exec (.hubNsAssign fn) s = .next (note s (finishOk (ownNs s d.serial (c.u32 4) (c.u8 1)) fn c.id
        (fields 20 [(0, le 1 (nsOwner s d.serial (c.u32 4))), (8, le 8 ((x.map (fun x => x.size)).getD 0)), (16, le 4 ((x.map (fun x => x.lba)).getD 0))])))) ∧
    (∀ (serial : List Byte) (nsid owner : Nat) (s : State),
      nsOwner (ownNs s serial nsid owner) serial nsid = owner ∧ (owner ≠ 0 → (nsRecord (ownNs s serial nsid owner) serial nsid).any (fun r => r.clean) = false)) ∧
    (∀ (fn : Fn) (buf : Option (List Byte)) (c : Consumed) (e : List Byte) (s : State),
      startable s fn 9 5 = some c →
      e = bytesAt (c.req.payload.drop 0x20) 0 64 →
      adminRefusal s (c.u8 0) (c.u32 0x10) e = none →
      rd 1 e 0 % 2 = 0 →
      (s.dp (c.u8 0)).drive.state = .ready →
      ∃ t x, t = accept s fn c.id ∧ x = { adminCmd (rd 1 e 0) (rd 4 e 4) (.admin fn c.id (c.u64 8)) (freeBuffer t ((c.u32 0x10 + 65535) / 65536)) (c.u32 0x10) with entry := e, jobId := c.req.jobId } ∧ exec (.hubNvmeAdmin fn buf) s = .next (note s (sendAdmin t (c.u8 0) x)))

/-- The Husk engine is configured, takes a snapshot, drains it in its order, and reports it. (R661, R662, R664, R667, R668, R673, R677, R680, R687, R698, R699, R701) -/
def Obligations.SnapshotsAreTakenAndDrained : Prop :=
    (∀ (fn : Fn) (c : Consumed) (g : HuskCfg) (own : List Nat) (s : State),
      startable s fn 10 1 = some c →
      cfgOf c = some g →
      own = (s.husk.cfg.map HuskCfg.areas).getD [] →
      epochActive s = false →
      (∀ u ∈ g.areas, unitGranted s u = false ∧ (s.hbm.reserved.contains u = true → own.contains u = true)) →
      exec (.huskConfig fn) s = .next (note s (finishOk { s with husk := { s.husk with cfg := some g, reserve := [] }, hbm := { s.hbm with reserved := g.areas.foldl sins (s.hbm.reserved.filter (fun u => !own.contains u)) } } fn c.id []))) ∧
    (∀ (c : Consumed) (g : HuskCfg),
      cfgOf c = some g →
      g = { reserveFirst := c.u16 0, reserveUnits := c.u16 2, areaFirst := c.u16 4, parity := bitOf (c.u8 6) 0, buddy := if bitOf (c.u8 6) 1 then some (c.u8 7) else none, rateMax := c.u32 8 } ∧
        4 ≤ g.reserveUnits ∧ g.reserveUnits ≤ 64 ∧ g.reserveFirst + g.reserveUnits ≤ 575 ∧ g.areaFirst ≤ 572 ∧
        (g.areaFirst + 3 ≤ g.reserveFirst ∨ g.reserveFirst + g.reserveUnits ≤ g.areaFirst)) ∧
    (∀ (fn : Fn) (c : Consumed) (q : SnapReq) (s : State),
      startable s fn 10 2 = some c →
      q = snapReq c →
      snapRefusal s fn c = none →
      (¬(q.scope = 2 ∧ q.atFold ≠ 0 ∧ ∃ p ∈ snapParts s q, q.atFold ≤ (s.pt p).audit.folds.toNat) →
          exec (.huskSnap fn) s = .next (note s (snapBegin (accept s fn c.id) fn c q))) ∧
        (q.scope = 2 → q.atFold ≠ 0 → (∃ p ∈ snapParts s q, q.atFold ≤ (s.pt p).audit.folds.toNat) →
          exec (.huskSnap fn) s = .next (note s (snapMissed (accept s fn c.id) fn c q)))) ∧
    (∀ (q : SnapReq) (mask : Nat) (s : State),
      (newEpoch s q mask).number = s.husk.epoch + 1 ∧ (newEpoch s q mask).state = .open ∧ (newEpoch s q mask).partMask = mask) ∧
    (∀ (fn : Fn) (c : Consumed) (s : State),
      startable s fn 10 3 = some c →
      fn.val = 0 →
      ∃ e act, e = s.husk.current ∧ act = e.filter (fun _ => epochActive s) ∧ exec (.huskQuery fn) s = .next (finishOk s fn c.id (fields 48
        [(0, le 8 s.husk.epoch), (8, le 8 ((act.map (fun e => e.number)).getD 0)), (0x10, le 1 ((e.map (fun e => e.state.code)).getD 0)),
         (0x11, le 1 ((e.map (fun e => e.cause)).getD 0)), (0x12, le 2 ((e.map (fun e => e.partMask)).getD 0)),
         (0x14, le 4 (if e.isNone then 0 else (s.husk.snap.map (fun x => x.total)).getD s.husk.lastTotal)),
         (0x18, le 4 (if e.isNone then 0 else (s.husk.snap.map (fun x => x.drained)).getD s.husk.lastDrained)), (0x1C, le 4 s.husk.reserve.length),
         (0x20, le 8 s.husk.lastCommitted), (0x28, le 8 s.husk.lastSystem)]))) ∧
    (∀ (fn : Fn) (c : Consumed) (e : Epoch) (s : State),
      startable s fn 10 3 = some c →
      0 < fn.val →
      s.husk.current = some e →
      bitOf e.partMask (fn.val - 1) = false →
      ∃ own : Nat → Nat, (∀ n, own n = if (s.vol 0).epochs.any (fun e => e.number = n && bitOf e.partMask (fn.val - 1)) then n else 0) ∧
        exec (.huskQuery fn) s = .next (finishOk s fn c.id (fields 48 [(0, le 8 0), (8, le 8 0), (0x10, le 1 0), (0x11, le 1 0), (0x12, le 2 0), (0x14, le 4 0), (0x18, le 4 0),
         (0x1C, le 4 s.husk.reserve.length), (0x20, le 8 (own s.husk.lastCommitted)), (0x28, le 8 (own s.husk.lastSystem))]))) ∧
    (∀ (p : Fin 16) (s : State),
      inPhase s p 1 = true →
      exec (.huskFlip p) s = .next (note s (flip s p))) ∧
    (∀ (p : Nat) (e : Epoch) (x : Snap) (s : State),
      s.husk.current = some e →
      s.husk.snap = some x →
      ∃ t us, us = (s.pt p).units ∧ flip s p = freeze (traceHusk (setPhase t p 2) p 1 255 e.number) ∧
        t.husk.openMarks = s.husk.openMarks.filter (fun g => !us.contains (g / 4096)) ∧
        t.husk.frozenMarks = (s.husk.openMarks.filter (fun g => us.contains (g / 4096))).foldl sins s.husk.frozenMarks ∧
        t.husk.current.map (fun e => e.units) = some (us.foldl sins e.units) ∧
        t.husk.current.map (fun e => e.wholeUnits) = some ((us.filter (drainsWhole s x.full)).foldl sins e.wholeUnits)) ∧
    (∀ (p : Fin 16) (s : State),
      inPhase s p 2 = true →
      exec (.huskPauseEnd p) s = .next (note s (pauseEnd s p))) ∧
    (∀ (e : Epoch) (x : Snap) (q : SnapPart) (s : State),
      s.husk.current = some e →
      e.state = .open →
      s.husk.snap = some x →
      q ∈ x.parts →
      q.phase = 0 →
      exec .snapWaitTimeout s = .next (note s (epochIncomplete s 5))) ∧
    (∀ (e : Epoch) (x : Snap) (w : Writer) (i : DrainItem) (s : State),
      s.husk.current = some e →
      s.husk.snap = some x →
      tfind s.husk.writers 0 = some w →
      e.state = .draining →
      drainReady s x w = true →
      drainItem s e x = some i →
      ∃ ms r d a t u, ms = s.time.toNat / 1000000 ∧ r = engineRead s i.src 0x10000 ∧
        d = { epoch := e.number, kind := i.kind, whole := i.kind = 1 && e.wholeUnits.contains (i.address / 0x10000000), poison := poisonBits i.src r.2.1, partition := i.part, seq := w.next, address := i.address, crc := crc32c r.1, member := 0 } ∧
        a = modSnap r.2.2 (fun x => { x with rateAt := ms, rateBytes := (if x.rateAt = ms then x.rateBytes else 0) + 65536, drained := x.drained + b2n (i.kind ≠ 3), images := if i.kind = 1 then x.images else x.images.drop 1 }) ∧
        t = { a with husk := { a.husk with settled := if i.kind = 1 then sins a.husk.settled (i.address / 0x10000) else a.husk.settled, reserve := a.husk.reserve.map (fun y => if i.entry = some y.entry then { y with seq := some w.next } else y) } } ∧
        u = (if i.kind = 1 && i.entry.isNone then applyHeld t (fun h => h.granule = i.address / 0x10000) else t) ∧
        (writeData u 0 d r.1 i.part = none → exec .drainSegmentIssue s = .next (note s (volumeFull u 0))) ∧
        ∀ v, writeData u 0 d r.1 i.part = some v → ∃ y, y = streamRecord
            (if (tfind v.husk.writers 0).any (fun y => y.lost.contains (w.dataMembers.getD (w.next % w.d) 0)) then entryWritten v w.next else v) d w.next r.1 ∧
          exec .drainSegmentIssue s = .next (note s (writerOn 6 (judge (if (y.husk.snap.any (fun x => x.images.isEmpty)) && i.kind ≠ 1
            then streamEnd (modWriter y 0 (fun w => { w with ended := true })) else y) 0) 0))) ∧
    (∀ (r : Reserve) (c : HuskCfg) (e : Epoch) (x : Snap) (s : State),
      oldestCopy s = some r →
      s.husk.cfg = some c →
      drainItem s e x = some { kind := 1, part := scopeOwner e (r.granule / 4096), address := r.granule * 0x10000, src := c.reserveFirst * 0x10000000 + r.entry * 0x10000, entry := some r.entry }) ∧
    (∀ (g : Nat) (e : Epoch) (x : Snap) (s : State),
      oldestCopy s = none →
      nextGranule s e = some g →
      drainItem s e x = some { kind := 1, part := scopeOwner e (g / 4096), address := g * 0x10000, src := g * 0x10000, entry := none }) ∧
    (∀ (p o : Nat) (l : List (Nat × Nat)) (e : Epoch) (x : Snap) (s : State),
      oldestCopy s = none →
      nextGranule s e = none →
      s.husk.reserve.any (fun r => r.seq.isNone) = false →
      x.parts.all (fun q => 3 ≤ q.phase) = true →
      x.images = (p, o) :: l →
      drainItem s e x = some { kind := if o < 0x28000000 then 2 else 3, part := p, address := o, src := areaBase s + o, entry := none }) ∧
    (∀ (src : Fin 128) (key : W32) (x : Snap) (s : State),
      hasEntry s src = true →
      s.husk.snap = some x →
      x.scope = 2 →
      x.snapKey = key →
      exec (.snapOutcomeReceive src key 0) s = .next { s with husk := { s.husk with snap := some { x with abandoned := true } } }) ∧
    (∀ (src : Fin 128) (key : W32) (w : SysWait) (s : State),
      hasEntry s src = true →
      s.husk.snap = none →
      s.husk.waiting.find? (fun w => w.snapKey = key && !w.answered) = some w →
      exec (.snapOutcomeReceive src key 0) s = .next (note s (answerSys s w 0x0A06 3))) ∧
    (∀ (epoch : Nat) (w : SysWait) (s : State),
      s.husk.waiting.find? (fun w => w.epoch = epoch && !w.answered) = some w →
      exec (.systemWaitTimeout epoch) s = .next (note s (answerSys s w 0x0A07 1)))

/-- Husk and guest volumes are mounted, created, given new members, released and compacted. (R705, R709, R711, R733, R735, R736, R737) -/
def Obligations.VolumesAreMountedFormattedAndCompacted : Prop :=
    (∀ (k : Fin 5) (info : MountInfo) (b : Superblock) (s : State),
      s.ready = true →
      (s.vol k).mounted = false →
      s.husk.format.any (fun f => f.volume = k.val) = false →
      namingBlock s k = some b →
      exec (.volumeMount k info) s = .next (note s (mountVolume s k b info))) ∧
    (∀ (fn : Fn) (c : Consumed) (old : Volume) (v : Volume) (t : State) (s : State),
      startable s fn 10 4 = some c →
      c.u8 0 = 0 →
      formatRefusal s c = none →
      old = (accept s fn c.id).vol 0 →
      freshVolume (accept s fn c.id) c false = (v, t) →
      ∃ u, u = (old.members.filter (fun m => !v.members.any (fun x => x.2.serial = m.2.serial && x.2.nsid = m.2.nsid))).foldl (fun t m => ownNs t m.2.serial m.2.nsid 0) t ∧
        exec (.huskVolumeFormatCreate fn) s = .next (note s (formatRun (setVol u 0 { v with state := old.state }) fn c.id 0 0x20 (v.members.map (fun m => m.1))))) ∧
    (∀ (fn : Fn) (c : Consumed) (k : Nat) (s : State),
      startable s fn 10 4 = some c →
      c.u8 0 = 2 →
      formatRefusal s c = none →
      [1, 2, 3, 4].find? (fun k => (tfind (accept s fn c.id).husk.volumes k).isNone) = some k →
      ∃ v, v = freshVolume (accept s fn c.id) c true ∧ exec (.huskVolumeFormatGuest fn) s = .next (note s (formatRun (setVol v.2 k v.1) fn c.id k 0x21 (v.1.members.map (fun m => m.1))))) ∧
    (∀ (fn : Fn) (c : Consumed) (m : Nat) (others : List Member) (x : Member) (l : List Member) (t : State) (s : State),
      startable s fn 10 4 = some c →
      c.u8 0 = 1 →
      formatRefusal s c = none →
      m = c.u8 3 →
      t = accept s fn c.id →
      others = ((t.vol 0).members.filter (fun x => x.1 ≠ m)).map (fun x => x.2) →
      formatMembers t c ((others.map (fun x => x.epochHigh)).foldl max 0) = x :: l →
      ∃ u, u = modMember (ownNs t ((t.vol 0).member m).serial ((t.vol 0).member m).nsid 0) 0 m (fun _ => { x with gen := (others.map (fun x => x.gen)).foldl max 0 }) ∧
        exec (.huskVolumeFormatReplace fn) s = .next (note s (formatRun { u with husk := { u.husk with needWhole := List.range 576 } } fn c.id 0 0x20 [m]))) ∧
    (∀ (fn : Fn) (c : Consumed) (k : Nat) (v : Volume) (t : State) (s : State),
      startable s fn 10 4 = some c →
      c.u8 0 = 3 →
      formatRefusal s c = none →
      t = accept s fn c.id →
      formatVolume t c = some k →
      v = t.vol k →
      ∃ u, u = noteVolume (setVol (v.members.foldl (fun t m => ownNs t m.2.serial m.2.nsid 0) (dropWriter t k)) k { v with members := [] }) k ∧
        exec (.huskVolumeFormatRelease fn) s = .next (note s (workDone { u with husk := { u.husk with volumes := tdel u.husk.volumes k } } fn c.id
          ⟨0, 0, fields 16 [(0, le 8 v.id.toNat), (8, le 1 v.members.length), (12, le 4 ((v.members.map (fun m => m.2.segments)).foldl min 0xFFFFFFFF))]⟩))) ∧
    (∀ (fn : Fn) (c : Consumed) (k : Nat) (x : Compact) (t : State) (s : State),
      t = note s (compactOn (compactFuel s) s) →
      startable t fn 10 6 = some c →
      c.u8 0 ≤ 1 →
      rd 7 c.req.payload 1 = 0 →
      (1 ≤ c.u32 0x10 ∧ c.u32 0x10 ≤ 4096) →
      compactVolume t c = some k →
      (t.husk.restore = none ∧ t.husk.format = none ∧ t.husk.compact = none) →
      x = { fn := fn.val, cmdId := c.id, volume := k, left := oldSegments (t.vol k) (c.u32 0x10), ext := 0, stage := 0, freed := 0, relocated := 0 } →
      ∃ w, w = { accept t fn c.id with husk := { (accept t fn c.id).husk with compact := some x } } ∧ exec (.huskCompact fn) s = .next (note t (compactOn (compactFuel w) w))) ∧
    (∀ (x : Compact) (s : State),
      s.husk.compact = some x →
      compacting s = false →
      x.stage = 0 →
      x.left = [] →
      compactOn 1 s = workDone { s with husk := { s.husk with compact := none } } x.fn x.cmdId ⟨0, 0, le 4 x.freed ++ le 4 x.relocated⟩)

/-- A restore reads the newest epoch that qualifies, here or at a buddy, and the buddy's records open, commit and serve epochs. (R726, R727, R728, R739, R740, R743, R749) -/
def Obligations.RestoresAndBuddiesReadEpochsBack : Prop :=
    (∀ (fn : Fn) (c : Consumed) (e : Epoch) (r : Restore) (u : State) (s : State),
      startable s fn 10 5 = some c →
      restoreRefusal s fn c = none →
      c.u8 0 = 0 →
      chosenEpoch s 0 (wishOf c) = some e →
      r = { fn := fn.val, cmdId := c.id, jobId := c.req.jobId, buddy := none, allowPoison := bitOf (c.u8 1) 0, mask := c.u16 2, volumeId := (s.vol 0).id, epoch := none, deltas := 0, startTime := s.time, lostState := [], silent := false } →
      u = { accept s fn c.id with husk := { (accept s fn c.id).husk with restore := some r } } →
      ∃ w, w = restoreBegin u e (reader0 0 e (planOf (s.vol 0) e r.mask) ((chainEpochs (s.vol 0) e r.mask).map (fun x => x.number))) ∧
        exec (.huskRestore fn) s = .next (note s (readerOn (readerFuel w 0) w 0))) ∧
    (∀ (fn : Fn) (c : Consumed) (r : Restore) (u : State) (s : State),
      startable s fn 10 5 = some c →
      restoreRefusal s fn c = none →
      c.u8 0 = 1 →
      r = { fn := fn.val, cmdId := c.id, jobId := c.req.jobId, buddy := some (c.u8 4), allowPoison := bitOf (c.u8 1) 0, mask := c.u16 2, volumeId := BitVec.ofNat 64 (c.u64 0x18), epoch := none, deltas := 0, startTime := s.time, lostState := [], silent := false } →
      u = { accept s fn c.id with husk := { (accept s fn c.id).husk with restore := some r } } →
      exec (.huskRestore fn) s = .next (note s (sendMgmt u (c.u8 4) 255 255 0x0084 (le 8 r.volumeId.toNat ++ le 8 (wishOf c).epoch ++ le 4 (wishOf c).key ++ le 2 (wishOf c).mask ++
          le 1 (b2n (wishOf c).system))))) ∧
    (∀ (r : Restore) (d : Reader) (t : State) (s : State),
      s.husk.progress = some (r, d) →
      s.ready = true →
      s.husk.restore = none →
      r.buddy = none →
      volumeUsable s 0 = true →
      t = { s with husk := { s.husk with progress := none, restore := some r, readers := tset s.husk.readers 0 { d with rebuilding := false, awaited := 0, acc := [], broken := false } } } →
      exec .restoreResume s = .next (note s (readerOn (readerFuel t 0) t 0))) ∧
    (∀ (r : Restore) (d : Reader) (b : Nat) (s : State),
      s.husk.progress = some (r, d) →
      s.ready = true →
      s.husk.restore = none →
      r.buddy = some b →
      exec .restoreResume s = .next (note s (sendMgmt { s with husk := { s.husk with progress := none, restore := some { r with epoch := none, lostState := [] } } } b 255 255 0x0084
          (le 8 r.volumeId.toNat ++ le 8 d.epoch ++ le 4 0 ++ le 2 r.mask ++ le 1 0)))) ∧
    (∀ (src : Fin 128) (volume epoch n k : Nat) (t : State) (s : State),
      guestOf s volume = some k →
      (s.vol k).sourceLink = src.val →
      volumeUsable s k = true →
      t = beginWriter (dropWriter s k) k epoch (s.husk.cfg.any (fun c => c.parity)) 0 →
      exec (.buddyOpen src volume epoch n) s = .next (note s (writerOn 6 (judge t k) k))) ∧
    (∀ (src : Fin 128) (volume epoch n : Nat) (s : State),
      guestOf s volume = none →
      exec (.buddyOpen src volume epoch n) s = .next (note s (sendMgmt s src 255 255 0x0083 (le 8 volume ++ le 8 epoch ++ le 2 0 ++ le 2 0x0A03)))) ∧
    (∀ (src : Fin 128) (volume epoch k : Nat) (w : Writer) (s : State),
      guestWriter s src volume epoch = some (k, w) →
      w.source.isSome = true →
      exec (.buddyCommit src volume epoch (w.next + 1)) s = .next (note s (writerOn 6 (modWriter s k (fun w => { w with ended := true })) k))) ∧
    (∀ (src : Fin 128) (volume epoch n k : Nat) (w : Writer) (s : State),
      guestWriter s src volume epoch = some (k, w) →
      n ≠ w.next + 1 →
      exec (.buddyCommit src volume epoch n) s = .next (note s (writerFails (modWriter s k (fun w => { w with stage := max 1 w.stage })) k 0 0x0A0C))) ∧
    (∀ (src : Fin 128) (step : Fin 2) (status : Nat) (x : Snap) (e : Epoch) (c : HuskCfg) (s : State),
      s.husk.snap = some x →
      s.husk.current = some e →
      s.husk.cfg = some c →
      c.buddy = some src.val →
      x.buddy = 1 + 2 * step.val →
      exec (.buddyAck src (s.vol 0).id.toNat e.number step status) s = .next (note s (if status ≠ 0 then buddyFails s status
        else writerOn 6 (modSnap s (fun y => { y with buddy := 2 + 2 * step.val })) 0))) ∧
    (∀ (x : Snap) (s : State),
      s.husk.snap = some x →
      (x.buddy = 1 ∨ x.buddy = 3) →
      exec .buddyAckTimeout s = .next (note s (buddyFails s 0x0A0E))) ∧
    (∀ (src : Fin 128) (volume epoch key mask k : Nat) (sysOnly : Bool) (e : Epoch) (b : List Byte) (t : State) (s : State),
      guestOf s volume = some k →
      volumeUsable s k = true →
      tfind s.husk.fetches k = none →
      chosenEpoch s k { mask := mask, epoch := epoch, key := key, system := sysOnly } = some e →
      b = commitBytes true e →
      t = { s with husk := { s.husk with readers := tset s.husk.readers k (reader0 k e (planOf (s.vol k) e mask) ((chainEpochs (s.vol k) e mask).map (fun x => x.number))), fetches := tset s.husk.fetches k { dst := src.val, sent := 0 } } } →
      ∃ u, u = fetchSend t k { epoch := e.number, kind := 6, whole := false, poison := 0, partition := 255, seq := 0, address := 0, crc := crc32c b, member := 0 } 0 b ∧
        exec (.buddyFetch src volume epoch key mask sysOnly) s = .next (note s (readerOn (readerFuel u k) u k))) ∧
    (∀ (src : Fin 128) (volume epoch key mask k : Nat) (sysOnly : Bool) (s : State),
      guestOf s volume = some k →
      volumeUsable s k = true →
      tfind s.husk.fetches k = none →
      chosenEpoch s k { mask := mask, epoch := epoch, key := key, system := sysOnly } = none →
      exec (.buddyFetch src volume epoch key mask sysOnly) s = .next (note s (sendMgmt s src 255 255 0x0085 (le 8 volume ++ le 8 epoch ++ le 4 0 ++ le 2 0x0A0A)))) ∧
    (∀ (src : Fin 128) (sent status : Nat) (r : Restore) (e : Epoch) (got : Nat) (s : State),
      s.husk.restore = some r →
      r.buddy = some src.val →
      r.epoch = some e →
      got = ((tfind s.husk.readers 0).map (fun d => d.records)).getD 0 →
      exec (.buddyFetchDone src r.volumeId.toNat e.number sent status) s = .next (note s (if status = 0 ∧ sent = got + 1 then restoreFinish s
        else endRestore s (if status = 0 then 0x0A0C else status)))) ∧
    (∀ (src : Fin 128) (epoch sent status : Nat) (r : Restore) (s : State),
      s.husk.restore = some r →
      r.buddy = some src.val →
      r.epoch = none →
      r.silent = false →
      status ≠ 0 →
      exec (.buddyFetchDone src r.volumeId.toNat epoch sent status) s = .next (note s (workDone { s with husk := { s.husk with restore := none } } r.fn r.cmdId ⟨status, 0, []⟩))) ∧
    (∀ (r : Restore) (b : Nat) (s : State),
      s.husk.restore = some r →
      r.buddy = some b →
      exec .buddyFetchTimeout s = .next (note s (if r.epoch.isNone then refuseRestore s 0x0A0E else endRestore s 0x0A0E)))

/-- POWER.STATE enters SLEEP, DEEP and OFF, and each wake source leaves them. (R754, R756, R757, R758, R759, R761, R763, R764, R765, R768, R769, R770) -/
def Obligations.PowerStatesAreEnteredAndLeft : Prop :=
    (∀ (fn : Fn) (c : Consumed) (s : State),
      s.pow.entering = none →
      startable s fn 11 2 = some c →
      c.u8 0 = 2 →
      stateRefusal s c = none →
      exec (.powerStateSleep fn) s = .next (note s (noteStatusAll s (enterState s fn c .sleep)))) ∧
    (∀ (fn : Fn) (c : Consumed) (s : State),
      s.pow.entering = none →
      startable s fn 11 2 = some c →
      c.u8 0 = 3 →
      stateRefusal s c = none →
      exec (.powerStateDeep fn) s = .next (note s (noteStatusAll s (enterState s fn c .deep)))) ∧
    (∀ (fn : Fn) (c : Consumed) (s : State),
      s.pow.entering = none →
      startable s fn 11 2 = some c →
      c.u8 0 = 4 →
      stateRefusal s c = none →
      exec (.powerStateOff fn) s = .next (note s (noteStatusAll s (enterState s fn c .off)))) ∧
    (∀ (fn : Fn) (e : Entering) (s : State),
      s.pow.entering = some e →
      e.fn = fn.val →
      e.target = .sleep →
      drivesBusy s = false →
      exec (.powerStateSleep fn) s = .next (note s (noteStatusAll s (sleepNow s e)))) ∧
    (∀ (e : Entering) (t : State) (s : State),
      e.target = .sleep →
      t = finishOk { s with pow := { s.pow with entering := none } } e.fn e.id (le 1 e.old.code ++ le 3 0 ++ le 4 e.drives) →
      (asleep (idlePorts t)).pow.wakePending = none →
      sleepNow s e = { asleep (idlePorts t) with pow := { (asleep (idlePorts t)).pow with state := .sleep, deepWait := false } }) ∧
    (∀ (s : State),
      (asleep s).clk.root = false ∧ (asleep s).clk.run = false ∧ (asleep s).hbm.selfRefresh = true ∧ (asleep s).hbm.ready = false ∧ (asleep s).rst.socOut = false ∧
        (asleep s).rst.fabOut = [] ∧ (asleep s).chans = Channels.init) ∧
    (∀ (e : Entering) (t : State) (s : State),
      e.target = .off →
      t = passthroughOff (idlePorts (finishOk { s with pow := { s.pow with entering := none } } e.fn e.id (le 1 e.old.code ++ le 3 0 ++ le 4 e.drives))) →
      sleepNow s e = { t with pow := { t.pow with offWait := true } }) ∧
    (∀ (t : State) (s : State),
      s.pow.state = .sleep →
      s.pow.deepWait = true →
      t = passthroughOff s →
      exec .pmeTurnOff s = .next (note s { t with pow := { t.pow with state := .deep, deepWait := false }, rst := { t.rst with hubOut := false, linkOut := false, epReady := false }, comp := { t.comp with railsGood := 0, railsOn := false, vreg := { t.comp.vreg with setpoint := 0, settled := false, lastSettled := 0 } } })) ∧
    (∀ (s : State),
      s.pow.state = .sleep →
      s.pow.deepWait = true →
      exec .pmeWaitTimeout s = .next { s with pow := { s.pow with deepWait := false, deepAbandoned := true } }) ∧
    (∀ (s : State),
      s.pow.offWait = true →
      ∃ t, t = dieUnpowered s ∧ exec .offRailRemoval s = .next { t with comp := railsOff s.comp, boot := { t.boot with compDone := false, dieDone := false }, pow := { t.pow with state := .off } }) ∧
    (∀ (q : BarReq) (s : State),
      s.pow.state = .sleep →
      q.fn < 17 →
      exec (.hostAccessWake q) s = .next (note s (noteStatusAll s (wakeUp { s with pow := { s.pow with held := s.pow.held ++ [q] } } 3)))) ∧
    (∀ (s : State),
      s.pow.state = .deep →
      (s.feed 0).state = .on →
      exec .perstWake s = .next (note s (noteStatusAll s (wakeDeep { s with rst := { s.rst with perst := false } } 2)))) ∧
    (∀ (s : State),
      s.pow.state = .sleep →
      0 < s.pow.wakeAfter →
      exec .wakeTimerExpiry s = .next (note s (noteStatusAll s (wakeUp s 4)))) ∧
    (∀ (s : State),
      s.pow.state = .deep →
      (s.feed 0).state = .on →
      0 < s.pow.wakeAfter →
      exec .wakeTimerExpiry s = .next (note s (noteStatusAll s (wakeDeep s 4)))) ∧
    (∀ (e : Entering) (s : State),
      s.pow.state = .run →
      s.pow.entering = some e →
      0 < s.pow.wakeAfter →
      exec .wakeTimerExpiry s = .next { s with pow := { s.pow with wakePending := some 4 } }) ∧
    (∀ (s : State),
      s.pow.state = .sleep →
      (s.comp.status &&& s.comp.irqMask &&& 0x3F) ≠ 0 →
      exec .companionFaultWake s = .next (note s (noteStatusAll s (wakeUp s 5)))) ∧
    (∀ (cause : Nat) (s : State),
      ∃ t, t = phase2 { s with pow := { drawEnergy s [] with state := .idle, deepWait := false, deepAbandoned := false, wakeAfter := 0, wakePending := none, held := [], droopHold := none }, clk := { s.clk with root := true, pllEnabled := true, pllLocked := true, attempts := 0 }, hbm := { s.hbm with ready := true, selfRefresh := false }, rst := { s.rst with socOut := true, wdogRunning := s.boot.hazel = .running } } ∧
        wakeUp s cause = eventAll (s.pow.held.foldl serveHeld (wakePorts t)) 0x0B01 (le 1 s.pow.state.code ++ le 1 1 ++ le 1 cause ++
          le 1 (b2n (s.pow.deepAbandoned || s.pow.deepWait))))

/-- Ceilings follow power and temperature, region gates open and close, and energy is attributed and read. (R755, R772, R773, R776, R777, R782, R783, R795, R801, R802, R803, R804) -/
def Obligations.CeilingsRegionsAndEnergy : Prop :=
    (∀ (pFab mean : Nat) (s : State),
      pcLive s = true →
      ∃ t, t = evaluateCeiling (tellCap { s with pow := { s.pow with budgetFit := fitOf s pFab (mean - pFab) } }) ∧ exec (.fclkCeilingEvaluation pFab mean) s = .next (note s (noteThrottle s t))) ∧
    (∀ (die hbm : Int) (s : State),
      pcLive s = true →
      ∃ a b m n t, a = thermalStep 800 776 die s.pow.dieCeiling s.pow.dieLift ∧ b = thermalStep 760 736 hbm s.pow.hbmCeiling s.pow.hbmLift ∧
        m = risingRun s.pow.dieCeiling die s.pow.dieLast s.pow.dieRise ∧ n = risingRun s.pow.hbmCeiling hbm s.pow.hbmLast s.pow.hbmRise ∧
        t = { s with pow := { s.pow with dieCeiling := a.1, dieLift := a.2, hbmCeiling := b.1, hbmLift := b.2, dieRise := m, hbmRise := n, dieLast := die, hbmLast := hbm, dieTemp := die, hbmTemp := hbm } } ∧
        exec (.thermalCeilingUpdate die hbm) s = .next (note s (noteThrottle s (thermalLimit (thermalLimit t 0 m die) 1 n hbm)))) ∧
    (∀ (hot cool t : Int) (ceiling since : Nat),
      cool < hot →
      (hot ≤ t → thermalStep hot cool t ceiling since = (min 4 (ceiling + 1), 0)) ∧
        (t ≤ cool → 0 < ceiling → 9 ≤ since → thermalStep hot cool t ceiling since = (ceiling - 1, 0)) ∧
        (t < hot → (cool < t ∨ ceiling = 0 ∨ since < 9) → thermalStep hot cool t ceiling since = (ceiling, since + 1))) ∧
    (∀ (fn : Fn) (c : Consumed) (s : State),
      startable s fn 11 1 = some c →
      ∃ p flags, p = s.pow ∧ flags = b2n (isStewardNow s) + 2 * b2n p.floorMode + 4 * b2n s.comp.fastcap + 8 * b2n s.comp.vreg.fault + 16 * b2n s.comp.updating ∧
        exec (.powerQuery fn) s = .next (finishOk s fn c.id
          (le 1 p.state.code ++ le 1 s.clk.div ++ le 1 (activeReasons s) ++ le 1 flags ++ le 2 (capInForce s) ++ le 2 (grantInForce s) ++ le 2 p.localCap ++ le 2 p.demandW ++
            le 2 p.powerW ++ le 2 s.comp.floorShare ++ le 2 p.budget.value ++ le 1 (p.steward.getD 255) ++ le 1 (heardNow s).length ++ le 2 s.comp.vreg.lastSettled ++
            le 2 (maskOf p.gated) ++ le 2 (p.dieTemp % 65536).toNat ++ le 2 (p.hbmTemp % 65536).toNat ++ le 4 p.round.toNat ++ le 1 p.maxDiv ++ le 1 p.fastcapDiv ++
            le 1 p.domain ++ le 1 p.expected))) ∧
    (∀ (fn : Fn) (c : Consumed) (s : State),
      startable s fn 11 3 = some c →
      (400 ≤ c.u16 0 ∧ c.u16 0 ≤ 1600) →
      c.u8 2 ∈ [4, 5, 6, 8, 12] →
      ∃ t, t = finishOk (tellCap { s with pow := { s.pow with localCap := c.u16 0, maxDiv := c.u8 2 } }) fn c.id (le 2 s.pow.localCap ++ le 1 s.pow.maxDiv) ∧
        exec (.powerCap fn) s = .next (note s (noteThrottle s t))) ∧
    (∀ (fn : Fn) (c : Consumed) (s : State),
      startable s fn 11 3 = some c →
      (c.u16 0 < 400 ∨ 1600 < c.u16 0) →
      exec (.powerCap fn) s = .next (finishSt s fn c.id 0x0005)) ∧
    (∀ (rg : Fin 16) (s : State),
      s.clk.run = true →
      regionLive s rg = true →
      (s.rgn rg).clocked = false →
      clockNeeded s rg = true →
      exec (.regionClockUngate rg) s = .next (note s (runOrIdle (s.setRgn rg { s.rgn rg with clocked := true })))) ∧
    (∀ (fn : Fn) (c : Consumed) (all ps rgs : List Nat) (t : State) (s : State),
      startable s fn 11 5 = some c →
      c.u8 2 = 1 →
      gateRefusal s c = none →
      all = coveredParts s (c.u16 0) →
      ps = all.filter (fun p => !(s.pt p).powered) →
      rgs = bitsSet (c.u16 0) 16 →
      t = ps.foldl (fun t p => t.setPt p { t.pt p with powered := true }) (powerRegions (forceEpoch s all) rgs) →
      exec (.powerRegionGateOn fn) s = .next (note s (whenZeroed t fn c.id rgs (ps.filter (fun p => (s.pt p).state ≠ .faulted)) (le 2 (poweredMask t))))) ∧
    (∀ (fn : Fn) (c : Consumed) (all ps rgs : List Nat) (j : GateJob) (t : State) (s : State),
      s.pow.gateJob = none →
      startable s fn 11 5 = some c →
      c.u8 2 = 0 →
      gateRefusal s c = none →
      all = coveredParts s (c.u16 0) →
      ps = all.filter (fun p => (s.pt p).powered) →
      rgs = (bitsSet (c.u16 0) 16).filter (fun g => (s.regionPart g).isNone && !s.pow.gated.contains g) →
      j = { fn := fn, id := c.id, regions := rgs, parts := ps } →
      t = ps.foldl (fun t p => powerDrain t p 0 0) (forceEpoch (begun s fn c.id) all) →
      exec (.powerRegionGateOff fn) s = .next (note s (if ps = [] then gateEnd t j else { t with pow := { t.pow with gateJob := some j } }))) ∧
    (∀ (fn : Fn) (j : GateJob) (s : State),
      s.pow.gateJob = some j →
      j.fn = fn.val →
      j.parts.all (fun p => (s.pt p).fence.state ≠ .draining) = true →
      ∃ t, t = gateRegions (retireRegions { s with pow := { s.pow with gateJob := none } } j.regions) j.regions ∧
        exec (.powerRegionGateOff fn) s = .next (note s (finishOk t j.fn j.id (le 2 (poweredMask t))))) ∧
    (∀ (slice : EnergySlice) (s : State),
      pcLive s = true →
      exec (.energyAttribution slice) s = .next { s with pow := drawEnergy s (estimates s slice) }) ∧
    (∀ (fn : Fn) (c : Consumed) (p : Nat) (s : State),
      startable s fn 11 6 = some c →
      (c.u8 0 = 0 ∧ c.u8 1 ≤ 1 ∧ rd 6 c.req.payload 2 = 0) →
      p = (if fn.val = 0 then c.req.partition else fn.val - 1) →
      (p = 255 → exec (.powerEnergy fn) s = .next (finishOk s fn c.id (le 8 s.pow.module.toNat ++ le 8 s.pow.device.toNat ++
          le 8 ((List.range 16).foldl (fun a q => a + tget 0 s.pow.parts q) 0).toNat))) ∧
        (p ≠ 255 → exec (.powerEnergy fn) s = .next (finishOk s fn c.id (le 8 (tget 0 s.pow.parts p).toNat ++
          (List.range 5).flatMap (fun e => le 8 (tget 0 s.pow.partEngines (p * 8 + e)).toNat))))) ∧
    (∀ (fn : Fn) (c : Consumed) (p : Nat) (s : State),
      startable s fn 11 6 = some c →
      (c.u8 0 = 1 ∧ c.u8 1 ≤ 1 ∧ rd 6 c.req.payload 2 = 0) →
      p = (if fn.val = 0 then c.req.partition else fn.val - 1) →
      p ≠ 255 →
      (s.fn fn).bme = true →
      ∃ t, t = { s with hostOut := [(c.u64 8, jobTable s p, false)] } ∧ exec (.powerEnergy fn) s = .next (finishOk
          (if c.u8 1 = 1 then { t with pow := { t.pow with jobs := tdel t.pow.jobs p } } else t) fn c.id (le 4 (tget [] s.pow.jobs p).length)))

/-- The rack budget is taken and carried, demands are exchanged, the steward grants, and grants take effect. (R784, R785, R788, R789, R790, R791, R792, R794, R796, R806) -/
def Obligations.RackBudgetAndSteward : Prop :=
    (∀ (s : State),
      pcLive s = true →
      s.comp.running = true →
      s.comp.status.getLsbD 9 = true →
      s.comp.updating = false →
      ∃ t, t = { s with comp := { s.comp with status := s.comp.status &&& ~~~0x200#32 } } ∧ exec .rackBudgetTake s = .next (note s (takeBudget t s.comp.rackBudget.toNat 0))) ∧
    (∀ (src : Fin 128) (value stamp : Nat) (s : State),
      pcLive s = true →
      s.comp.updating = false →
      ∃ b : Budget, b = { value := value % 65536, stamp := stamp, link := src.val } ∧
        exec (.budgetReceive src s.pow.domain value stamp) s = .next (if newer b s.pow.budget = true then { s with pow := { s.pow with budget := b } } else s)) ∧
    (∀ (a b : Budget),
      newer a b = true ↔ b.stamp < a.stamp ∨ (a.stamp = b.stamp ∧ a.link < b.link)) ∧
    (∀ (pFab mean other : Nat) (s : State),
      pcLive s = true →
      s.comp.updating = false →
      other = slowestCeiling { s with pow := { s.pow with budgetFit := 0 } } →
      ∃ w, w = min s.pow.localCap (predict s other pFab (mean - pFab) / 1000) ∧
        exec (.demandTransmit pFab mean) s = .next (note s (sendDemand { s with pow := { s.pow with demandW := w, powerW := sat 65535 (mean / 1000) } } w false))) ∧
    (∀ (d : Demand) (l : Nat) (s : State),
      pcLive s = true →
      s.link.linkId = some l →
      d.src < 128 →
      exec (.demandReceive d) s = .next (note s (if d.domain ≠ s.pow.domain then s else noteSteward (adoptBudget
          { s with pow := { s.pow with heard := tset s.pow.heard d.src { at_ := s.time, demand := d } } } { value := d.budget, stamp := d.budgetStamp, link := d.budgetLink })))) ∧
    (∀ (ms : Tab Heard) (far : Nat) (g : Bool × List (Nat × Nat)) (t : State) (s : State),
      pcLive s = true →
      t = noteSteward s →
      isStewardNow t = true →
      ms = heardNow t →
      far = (t.pow.heard.filter (fun h => h.2.demand.leaving && h.2.demand.domain = t.pow.domain && !ms.any (fun m => m.1 = h.1))).length →
      g = grantsOf (10 * t.pow.budget.value) t.pow.expected far (ms.map (fun m => (m.1, m.2.demand))) →
      ∃ u, ∃ body : Nat → Grant, u = (if g.1 then eventDev t 0x0B05 (le 2 t.pow.budget.value ++ le 1 ms.length) else t) ∧
        (∀ w, body w = { domain := t.pow.domain, short := g.1, watts := w, round := (t.pow.round.toNat + 1) % 2 ^ 32, budget := t.pow.budget.value, heard := ms.length }) ∧
        exec .grantCompute s = .next (note s (noteThrottle s (g.2.foldl
          (fun v m => if m.1 = selfId v then takeGrant v (body m.2) else sendMgmt v m.1 255 255 0x0002 (grantBody (body m.2))) u)))) ∧
    (∀ (expected far : Nat) (ms : List (Nat × Demand)),
      grantsOf 0 expected far ms = (false, ms.map (fun m => (m.1, 1600)))) ∧
    (∀ (budget expected far fixed : Nat) (rest : List (Nat × Demand)) (ms : List (Nat × Demand)),
      0 < budget →
      rest = ms.filter (fun m => !m.2.hold && !m.2.leaving) →
      fixed = 70 * (ms.filter (fun m => m.2.leaving)).length + total ((ms.filter (fun m => m.2.hold && !m.2.leaving)).map (fun m => (m.1, m.2.demand))) →
      budget < fixed + (70 * far + 1600 * (expected - ms.length - far)) + 400 * rest.length →
      grantsOf budget expected far ms = (true, rest.map (fun m => (m.1, 400)))) ∧
    (∀ (src : Fin 128) (g : Grant) (l : Nat) (s : State),
      pcLive s = true →
      s.link.linkId = some l →
      src.val ≠ l →
      g.domain = s.pow.domain →
      s.comp.updating = false →
      ∃ now p, now = grantInForce s ∧ p = { s.pow with floorMode := false } ∧ exec (.grantReceive src g) s = .next (note s (noteThrottle s (tellCap
          (if g.watts ≤ now then { s with pow := { p with grant := g.watts, raise := none, round := BitVec.ofNat 32 g.round } }
           else { s with pow := { p with grant := now, raise := some (g.watts, g.round) } }))))) ∧
    (∀ (w r : Nat) (s : State),
      pcLive s = true →
      s.pow.raise = some (w, r) →
      s.comp.fastcap = false →
      s.comp.updating = false →
      exec .grantRaiseApply s = .next (note s (noteThrottle s (tellCap { s with pow := { s.pow with grant := w, raise := none, round := BitVec.ofNat 32 r } })))) ∧
    (∀ (s : State),
      pcLive s = true →
      s.comp.updating = false →
      s.pow.floorMode = false →
      exec .grantSilenceTimeout s = .next (note s (noteThrottle s (tellCap { s with pow := { s.pow with floorMode := true, grant := s.comp.floorShare, raise := none } })))) ∧
    (∀ (fn : Fn) (c : Consumed) (f : Nat) (u : State) (s : State),
      startable s fn 11 4 = some c →
      budgetConfigBad c = false →
      s.comp.running = true →
      s.comp.updating = false →
      f = c.u8 0 →
      u = { s with pow := { s.pow with eligible := bitOf f 0, domain := c.u8 1, expected := c.u8 2, fastcapDiv := c.u8 3 }, comp := { s.comp with floorShare := if bitOf f 2 then c.u16 6 else s.comp.floorShare, fastcapLimit := if bitOf f 3 then c.u16 8 else s.comp.fastcapLimit } } →
      ∃ v, v = tellCap (noteSteward (if bitOf f 1 then takeBudget u (c.u16 4) 1 else u)) ∧
        exec (.powerBudgetConfig fn) s = .next (note s (noteThrottle s (finishOk v fn c.id (le 2 v.pow.budget.value ++ le 2 (capInForce v))))))

/-- Where the member counters sum to the module counter, they still do after every attribution of energy. (R801) -/
def Obligations.EnergyCountersBalance : Prop :=
    (∀ (slice : EnergySlice) (s : State),
      pcLive s = true →
      s.pow.module = s.pow.device + (List.range 16).foldl (fun a p => a + tget 0 s.pow.parts p) 0 →
      ∃ t, exec (.energyAttribution slice) s = .next t ∧ t.pow.module = t.pow.device + (List.range 16).foldl (fun a p => a + tget 0 t.pow.parts p) 0)

/-- Trace sessions are configured, started and stopped; grants begin, are revoked and expire; buffered packets come out in time. (R815, R816, R819, R822, R828, R829, R830, R831, R832, R833, R835) -/
def Obligations.TraceSessionsAndGrants : Prop :=
    (∀ (fn : Fn) (c : Consumed) (x : Session) (old : Session) (t : State) (s : State),
      startable s fn 12 1 = some c →
      sessionOf fn c = some x →
      configRefusal s fn x = none →
      old = s.ses fn →
      t = releaseSink s old →
      ∃ u, u = (if x.sink = 0 then { t with hbm := { t.hbm with reserved := (span x.firstUnit x.units).foldl sins t.hbm.reserved } } else t) ∧
        exec (.traceConfig fn) s = .next (finishOk (sesState u fn { x with state := old.state, overflowed := old.overflowed } .configured 0) fn c.id (le 8 x.size))) ∧
    (∀ (fn : Nat) (x : Session) (s : State),
      0 < fn →
      x.sink = 0 →
      configRefusal s fn x = some 0x0006) ∧
    (∀ (fn : Fn) (c : Consumed) (x : Session) (s : State),
      startable s fn 12 2 = some c →
      x = s.ses fn →
      (x.state = .configured ∨ x.state = .full) →
      ∃ y, y = { x with id := s.trace.nextSession, block := 0, made := 0, written := 0, lost := 0, wrapped := false, buffer := [], dropping := none, gap := none, context := 255, lastLc := s.trace.lc, branches := [], staged := [], stopping := none } ∧
        ∃ t, t = { s with trace := { s.trace with nextSession := s.trace.nextSession + 1 } } ∧
        exec (.traceStart fn) s = .next (finishOk (sesState t fn (openBlock t y s.trace.lc) .running 0) fn c.id (le 8 s.time.toNat ++ le 4 y.id.toNat))) ∧
    (∀ (fn : Fn) (c : Consumed) (s : State),
      startable s fn 12 2 = some c →
      ((s.ses fn).state = .unconfigured ∨ (s.ses fn).state = .running ∨ (s.ses fn).state = .sinkLost) →
      exec (.traceStart fn) s = .next (finishSt s fn c.id 0x0008)) ∧
    (∀ (fn : Fn) (c : Consumed) (x : Session) (s : State),
      startable s fn 12 3 = some c →
      c.u8 0 ≤ 1 →
      x = s.ses fn →
      (x.state = .running ∨ x.state = .full) →
      ∃ y, y = (if x.state = .running then closeStream s x else x) ∧
        exec (.traceStop fn) s = .next (stopOn (begun (s.setSes fn { y with stopping := some (fn.val, c.id, bitOf (c.u8 0) 0) }) fn c.id) fn)) ∧
    (∀ (fn f id : Nat) (t : State) (s : State),
      (s.ses fn).stopping = some (f, id, false) →
      t = finishOk (s.setSes fn { s.ses fn with stopping := none }) f id (le 8 (s.ses fn).written.toNat ++ le 8 (s.ses fn).lost.toNat) →
      stopEnd s fn = sesState t fn (t.ses fn) .configured 0) ∧
    (∀ (fn : Fn) (c : Consumed) (s : State),
      startable s fn 12 3 = some c →
      c.u8 0 = 0 →
      ((s.ses fn).state = .configured ∨ (s.ses fn).state = .unconfigured ∨ (s.ses fn).state = .sinkLost) →
      exec (.traceStop fn) s = .next (finishOk s fn c.id (le 8 (s.ses fn).written.toNat ++ le 8 (s.ses fn).lost.toNat))) ∧
    (∀ (fn : Fn) (c : Consumed) (id : Nat) (g : TraceGrant) (s : State),
      startable s fn 12 4 = some c →
      (c.u8 0 ≤ 16 ∧ c.u8 1 = 0 ∧ c.u16 4 ≤ 0xFF ∧ c.u16 6 = 0 ∧ 1 ≤ c.u32 8 ∧ c.u32 8 ≤ 86400) →
      (List.range 32).find? (fun i => (tfind s.trace.grants i).isNone) = some id →
      g = { requester := c.u8 0, scope := c.u16 2, sources := c.u16 4, expiry := s.time + BitVec.ofNat 64 (1000000000 * c.u32 8) } →
      ∃ t, t = { s with trace := { s.trace with grants := tset s.trace.grants id g } } ∧
        exec (.traceAuthorise fn) s = .next (finishOk (grantEvent t id 0 g) fn c.id (le 8 id ++ le 8 g.expiry.toNat))) ∧
    (∀ (fn : Fn) (c : Consumed) (s : State),
      startable s fn 12 4 = some c →
      (c.u8 0 ≤ 16 ∧ c.u8 1 = 0 ∧ c.u16 4 ≤ 0xFF ∧ c.u16 6 = 0 ∧ 1 ≤ c.u32 8 ∧ c.u32 8 ≤ 86400) →
      (∀ i < 32, (tfind s.trace.grants i).isSome = true) →
      exec (.traceAuthorise fn) s = .next (finishSt s fn c.id 0x000A)) ∧
    (∀ (fn : Fn) (c : Consumed) (g : TraceGrant) (s : State),
      startable s fn 12 5 = some c →
      tfind s.trace.grants (c.u8 0) = some g →
      ∃ t, t = grantEvent { s with trace := { s.trace with grants := tdel s.trace.grants (c.u8 0) } } (c.u8 0) 1 g ∧ exec (.traceRevoke fn) s = .next (finishOk t fn c.id [])) ∧
    (∀ (id : Fin 32) (g : TraceGrant) (s : State),
      tfind s.trace.grants id = some g →
      g.expiry ≤ s.time →
      exec (.traceGrantExpiry id) s = .next (grantEvent { s with trace := { s.trace with grants := tdel s.trace.grants id } } id 2 g)) ∧
    (∀ (fn : Fn) (p : Fin 16) (l : List Bool) (first last : Nat) (s : State),
      (s.ses fn).state = .running →
      (s.ses fn).stopping = none →
      tfind (s.ses fn).branches p = some (l, first, last) →
      first + 4096 ≤ s.trace.lc →
      exec (.branchBufferTimeout fn p) s = .next (s.setSes fn (putPacket s { s.ses fn with branches := tdel (s.ses fn).branches p } (some p.val) last 0x10
          (le 1 l.length ++ le ((l.length + 7) / 8) (maskOf ((List.range l.length).filter (fun i => l.getD i false))))))) ∧
    (∀ (fn : Fn) (a b : Nat) (s : State),
      (s.ses fn).dropping = some (a, b) →
      (s.ses fn).buffer.length ≤ 61440 →
      (s.ses fn).state = .running →
      ∃ x y, x = s.ses fn ∧ y = place s { x with dropping := none } a b (stamped 0x60 a (leb (b - a) ++ [2, 255])) ∧
        exec (.traceOverflowRecovery fn) s = .next (s.setSes fn { padBlock y with overflowed := true, lost := x.lost + BitVec.ofNat 64 (b - a) }))

/-- The FAULT commands read the log, clear counts, set the policy and inject; records drain to the companion. (R844, R845, R846, R847, R855, R857, R858, R859, R860) -/
def Obligations.FaultsAreReadClearedAndInjected : Prop :=
    (∀ (fn : Fn) (c : Consumed) (l : List Rec) (next : W32) (s : State),
      startable s fn 14 1 = some c →
      (c.u8 0 = 0 ∧ c.u8 1 ≤ 3 ∧ 1 ≤ c.u32 8 ∧ c.u32 8 ≤ 4096 ∧ rd 2 c.req.payload 2 = 0 ∧ rd 4 c.req.payload 12 = 0) →
      (s.fn fn).bme = true →
      l = (s.faults.ring.filter (fun r => (BitVec.ofNat 32 (c.u32 4)).toNat ≤ r.seq.toNat && c.u8 1 ≤ r.cls && (fn.val = 0 || r.partition = fn.val - 1))).take (c.u32 8) →
      next = (if l.length = c.u32 8 then ((s.faults.ring.find? (fun r => ((l.getLast?.map (fun r => r.seq)).getD (BitVec.ofNat 32 (c.u32 4))).toNat < r.seq.toNat)).map (fun r => r.seq)).getD s.faults.nextSeq else s.faults.nextSeq) →
      ∃ old start, old = (s.faults.ring.head?.map (fun r => r.seq)).getD s.faults.nextSeq ∧ start = BitVec.ofNat 32 (c.u32 4) ∧
        exec (.faultReadLog fn none) s = .next (finish { s with hostOut := recordWrites (c.u64 16) (l.map Rec.bytes) } fn c.id
          ⟨0, 0, le 4 l.length ++ le 4 next.toNat ++ le 4 old.toNat ++ le 4 (old.toNat - start.toNat)⟩)) ∧
    (∀ (fn : Fn) (c : Consumed) (l : List (List Byte)) (s : State),
      startable s fn 14 1 = some c →
      fn.val = 0 →
      (c.u8 0 = 1 ∧ c.u8 1 ≤ 3 ∧ 1 ≤ c.u32 8 ∧ c.u32 8 ≤ 4096 ∧ rd 2 c.req.payload 2 = 0 ∧ rd 4 c.req.payload 12 = 0) →
      (s.fn fn).bme = true →
      l = ((List.range 64).filterMap (fun i => (tfind s.comp.aon.log i).filter (fun b => c.u8 1 ≤ (recOf b).cls))).take (c.u32 8) →
      exec (.faultReadLog fn none) s = .next (finish { s with hostOut := recordWrites (c.u64 16) l } fn c.id ⟨0, 0, le 4 l.length⟩)) ∧
    (∀ (fn : Fn) (c : Consumed) (s : State),
      startable s fn 14 1 = some c →
      0 < fn.val →
      (c.u8 0 = 1 ∧ c.u8 1 ≤ 3 ∧ 1 ≤ c.u32 8 ∧ c.u32 8 ≤ 4096 ∧ rd 2 c.req.payload 2 = 0 ∧ rd 4 c.req.payload 12 = 0) →
      exec (.faultReadLog fn none) s = .next (finishSt s fn c.id 0x0006)) ∧
    (∀ (fn : Fn) (c : Consumed) (s : State),
      startable s fn 14 2 = some c →
      ∃ r, r = s.fn fn ∧ exec (.faultClear fn) s = .next (finishOk (s.setFn fn { r with counts := [], lastCode := 0, lastClass := 0 }) fn c.id
        (le 1 (tget 0 r.counts 0) ++ le 1 (tget 0 r.counts 1) ++ le 1 (tget 0 r.counts 2) ++ le 1 (tget 0 r.counts 3)))) ∧
    (∀ (fn : Fn) (c : Consumed) (s : State),
      startable s fn 14 3 = some c →
      (c.u8 0 ≤ 1 ∧ 1 ≤ c.u8 1 ∧ c.u8 1 ≤ 15 ∧ c.u8 2 ≤ 1 ∧ c.u8 3 = 0) →
      ∃ f, f = s.faults ∧ exec (.faultPolicy fn) s = .next (finishOk
        { s with faults := { f with stop := c.u8 0 = 1, resetLimit := c.u8 1, autoQuarantine := c.u8 2 = 1, ceThreshold := c.u16 4 } } fn c.id
        (le 1 (b2n f.stop) ++ le 1 f.resetLimit ++ le 1 (b2n f.autoQuarantine) ++ le 1 0 ++ le 2 f.ceThreshold))) ∧
    (∀ (fn : Fn) (c : Consumed) (t : State) (s : State),
      startable s fn 14 4 = some c →
      (c.u8 0 = 0 ∧ c.u8 1 ≤ 1 ∧ c.u8 4 ≤ 3 ∧ rd 3 c.req.payload 5 = 0) →
      (c.u8 4 = 2 → c.req.partition ≠ 255 ∧ (s.pt c.req.partition).state ≠ .free) →
      t = fault s { code := 0x0E01, cls := c.u8 4, partition := c.req.partition, jobId := c.req.jobId, detail := le 2 (c.u16 2), injected := true } →
      exec (.faultInjectRecord fn) s = .next (note s (finishOk t fn c.id (le 4 (if t.faults.nextSeq = s.faults.nextSeq then 0xFFFFFFFF#32 else s.faults.nextSeq).toNat)))) ∧
    (∀ (fn : Fn) (c : Consumed) (w : Nat) (s : State),
      startable s fn 14 4 = some c →
      (c.u8 0 = 1 ∧ c.u8 1 ≤ 1) →
      inCells (c.u64 8) 1 = true →
      cellReachable s (c.u64 8) = true →
      w = (c.u64 8 - cellBase) / 64 →
      exec (.faultInjectCellEcc fn) s = .next (note s (finishOk { s with fab := { s.fab with cellEcc := tset s.fab.cellEcc w ⟨bitOf (c.u8 1) 0 || (tfind s.fab.cellEcc w).any (fun e => e.multi), true⟩ } } fn c.id (le 4 0xFFFFFFFF)))) ∧
    (∀ (fn : Fn) (c : Consumed) (s : State),
      startable s fn 14 4 = some c →
      (c.u8 0 = 2 ∧ c.u8 1 ≤ 1) →
      inHbm (c.u64 8) 1 = true →
      s.hbm.ready = true →
      exec (.faultInjectHbmEcc fn) s = .next (note s (finishOk { s with hbm := { s.hbm with ecc := tset s.hbm.ecc (c.u64 8 / 64) (bitOf (c.u8 1) 0 || (tfind s.hbm.ecc (c.u64 8 / 64)).any (fun e => e.1), true) } } fn c.id (le 4 0xFFFFFFFF)))) ∧
    (∀ (fn : Fn) (c : Consumed) (p : Nat) (s : State),
      startable s fn 14 4 = some c →
      (c.u8 0 = 3 ∧ c.u8 1 ≤ 1) →
      p = c.u64 8 →
      p < 16 →
      portUp s p = true →
      exec (.faultInjectLinkCrc fn) s = .next (note s (finishOk (s.setPort p { s.port p with corruptNext := true }) fn c.id (le 4 0xFFFFFFFF)))) ∧
    (∀ (r : Rec) (q : List Rec) (s : State),
      s.faults.queue = r :: q →
      s.ready = true →
      s.comp.running = true →
      s.comp.updating = false →
      exec .errlogCommitDrain s = .next { s with faults := { s.faults with queue := q, ring := s.faults.ring.map (fun y => if y.seq = r.seq then { y with committed := true } else y) }, comp := { s.comp with aon := s.comp.aon.append { r with committed := true }.bytes } }) ∧
    (∀ (s : State),
      s.ready = true →
      s.comp.running = true →
      exec .companionLogPoll s = .next (note s ((companionNew s).foldl (fun t r => (let u := appendRec t { r with seq := t.faults.nextSeq };
        let v := reportAer u r.partition r.cls; if r.cls = 3 then fatalAction v r.code else v)) s))) ∧
    (∀ (fn : Fn) (s : State),
      (s.fn fn).erHold = true →
      ∃ r, r = s.fn fn ∧ (r.erCount = 0 → exec (.errorRecordedHoldoff fn) s = .next (s.setFn fn { r with erHold := false })) ∧
        (r.erCount ≠ 0 → exec (.errorRecordedHoldoff fn) s = .next (raiseAt (s.setFn fn { r with erCount := 0, erClass := 0 }) fn
          { partition := ownPart fn, code := 0x0E02, tag := 0, time := s.time, payload := fields 40 [(0, le 4 r.erFirst.toNat), (4, le 4 r.erCount), (8, le 1 r.erClass)] }))) ∧
    (∀ (fn : Fn) (s : State),
      exec (.poisonedTlpReceive fn none) s = .next (s.setFn fn { s.fn fn with aerPoisoned := true }) ∧
        ∀ id, exec (.poisonedTlpReceive fn (some id)) s = .next (hostReadFails (s.setFn fn { s.fn fn with aerPoisoned := true }) fn id)) ∧
    (∀ (fn : Fn) (s : State),
      exec (.hostCompletionTimeout fn none) s = .next (s.setFn fn { s.fn fn with aerTimeout := true }) ∧
        ∀ id, exec (.hostCompletionTimeout fn (some id)) s = .next (hostReadFails (s.setFn fn { s.fn fn with aerTimeout := true }) fn id)) ∧
    (∀ (fn id : Nat) (c : Consumed) (s : State),
      cmdOf s fn id = some c →
      c.started = true →
      s.eng.lists = [] →
      hostReadFails s fn id = if c.timing = 2 then workDone s fn id ⟨0x000C, 0, []⟩ else finishSt s fn id 0x000C)

/-- Each JTAG instruction selects its register, shifts it, and drives the pins as it says; TRST_N resets the ports. (R908, R909) -/
def Obligations.JtagShiftsItsRegisters : Prop :=
    (∀ (dev : Fin 2) (pins tdi : List Bool) (s : State),
      jtagLive s dev = true →
      ∃ d, d = tget JtagDev.init s.jtag.dev dev ∧ exec (.jtagBypass dev pins tdi) s = .next { s with jtag := { dev := tset s.jtag.dev dev { d with instr := .bypass, bypassBit := ((false :: tdi).drop tdi.length).getLastD false, drive := .functional }, tdo := (false :: tdi).take tdi.length } }) ∧
    (∀ (dev : Fin 2) (pins tdi : List Bool) (s : State),
      jtagLive s dev = true →
      ∃ d, d = tget JtagDev.init s.jtag.dev dev ∧ exec (.jtagSamplePreload dev pins tdi) s = .next { s with jtag := { dev := tset s.jtag.dev dev { d with instr := .samplePreload, boundary := (pins ++ tdi).drop tdi.length, drive := .functional }, tdo := (pins ++ tdi).take tdi.length } }) ∧
    (∀ (dev : Fin 2) (pins tdi : List Bool) (s : State),
      jtagLive s dev = true →
      (dev.val = 1 ∨ s.rst.perst = true) →
      ∃ d, d = tget JtagDev.init s.jtag.dev dev ∧ exec (.jtagExtest dev pins tdi) s = .next { s with jtag := { dev := tset s.jtag.dev dev { d with instr := .extest, boundary := (pins ++ tdi).drop tdi.length, drive := .boundary }, tdo := (pins ++ tdi).take tdi.length } }) ∧
    (∀ (dev : Fin 2) (pins tdi : List Bool) (s : State),
      jtagLive s dev = true →
      ∃ d : JtagDev, ∃ id : List Bool, d = tget JtagDev.init s.jtag.dev dev ∧
        id = (List.range 32).map (fun k => (if dev.val = 0 then 0x16400B4F#32 else 0x20200B4F#32).getLsbD k) ∧ exec (.jtagIdcode dev pins tdi) s = .next { s with jtag := { dev := tset s.jtag.dev dev { d with instr := .idcode, drive := .functional }, tdo := (id ++ tdi).take tdi.length } }) ∧
    (∀ (dev : Fin 2) (pins tdi : List Bool) (s : State),
      jtagLive s dev = true →
      (dev.val = 1 ∨ s.rst.perst = true) →
      ∃ d, d = tget JtagDev.init s.jtag.dev dev ∧ exec (.jtagClamp dev pins tdi) s = .next { s with jtag := { dev := tset s.jtag.dev dev { d with instr := .clamp, bypassBit := ((false :: tdi).drop tdi.length).getLastD false, drive := .boundary }, tdo := (false :: tdi).take tdi.length } }) ∧
    (∀ (dev : Fin 2) (pins tdi : List Bool) (s : State),
      jtagLive s dev = true →
      (dev.val = 1 ∨ s.rst.perst = true) →
      ∃ d, d = tget JtagDev.init s.jtag.dev dev ∧ exec (.jtagHighz dev pins tdi) s = .next { s with jtag := { dev := tset s.jtag.dev dev { d with instr := .highz, bypassBit := ((false :: tdi).drop tdi.length).getLastD false, drive := .highz }, tdo := (false :: tdi).take tdi.length } }) ∧
    (∀ (pins tdi : List Bool) (s : State),
      jtagLive s 0 = true →
      s.rst.perst = false →
      ∃ d : JtagDev, ∃ t : JtagInstr → State, d = tget JtagDev.init s.jtag.dev 0 ∧ (∀ i, t i = { s with jtag := { dev := tset s.jtag.dev 0 { d with instr := i, bypassBit := ((false :: tdi).drop tdi.length).getLastD false, drive := .functional }, tdo := (false :: tdi).take tdi.length } }) ∧
        exec (.jtagExtest 0 pins tdi) s = .next (t .extest) ∧ exec (.jtagClamp 0 pins tdi) s = .next (t .clamp) ∧ exec (.jtagHighz 0 pins tdi) s = .next (t .highz)) ∧
    (∀ (s : State),
      exec .trstNAssert s = .next { s with jtag := { dev := s.jtag.dev.map (fun d => (d.1, { d.2 with instr := .idcode, bypassBit := false, drive := .functional })), tdo := [] } })

/-- HUSK.RESTORE of a VF is refused with DENIED unless PART_MASK names its own partition alone. (R738) -/
def Obligations.RestoreOfAVfNamesItsOwnPartition : Prop :=
    (∀ (fn : Fn) (c : Consumed) (s : State),
      startable s fn 10 5 = some c →
      0 < fn.val →
      c.u16 2 ≠ 2 ^ (fn.val - 1) →
      exec (.huskRestore fn) s = .next (finishSt s fn c.id 0x0006)) ∧
    (∀ (fn : Fn) (c : Consumed) (s : State),
      startable s fn 10 5 = some c →
      0 < fn.val →
      c.u16 2 = 2 ^ (fn.val - 1) →
      restoreRefusal s fn c ≠ some 0x0006 ∧
        ∀ st, restoreRefusal s fn c = some st → exec (.huskRestore fn) s = .next (finishSt s fn c.id st))

/-- EXTEST, CLAMP and HIGHZ act on the die's pins while PERST# is low, and are BYPASS while it is high. (R909) -/
def Obligations.BoundaryScanActsOnlyWhilePerstIsLow : Prop :=
    (∀ (pins tdi : List Bool) (s : State),
      s.rst.powered = true →
      s.rst.perst = false →
      ∃ d : JtagDev, ∃ out : List Bool, ∃ t : JtagInstr → State, d = tget JtagDev.init s.jtag.dev 0 ∧ out = (false :: tdi).take tdi.length ∧
        (∀ i, t i = { s with jtag := { dev := tset s.jtag.dev 0 { d with instr := i, bypassBit := ((false :: tdi).drop tdi.length).getLastD false, drive := .functional }, tdo := out } }) ∧
        exec (.jtagBypass 0 pins tdi) s = .next (t .bypass) ∧ exec (.jtagExtest 0 pins tdi) s = .next (t .extest) ∧
        exec (.jtagClamp 0 pins tdi) s = .next (t .clamp) ∧ exec (.jtagHighz 0 pins tdi) s = .next (t .highz)) ∧
    (∀ (pins tdi : List Bool) (s : State),
      s.rst.powered = true →
      s.rst.perst = true →
      ∃ t u v, exec (.jtagExtest 0 pins tdi) s = .next t ∧ (tget JtagDev.init t.jtag.dev 0).drive = .boundary ∧
        exec (.jtagClamp 0 pins tdi) s = .next u ∧ (tget JtagDev.init u.jtag.dev 0).drive = .boundary ∧
        exec (.jtagHighz 0 pins tdi) s = .next v ∧ (tget JtagDev.init v.jtag.dev 0).drive = .highz)

/-- FAULT.CLEAR zeroes the issuing function's counts, LAST_CODE and LAST_CLASS, and no partition state, record or poison. (R858) -/
def Obligations.FaultClearClearsCountsOnly : Prop :=
    (∀ (fn : Fn) (c : Consumed) (s : State),
      startable s fn 14 2 = some c →
      ∃ t, exec (.faultClear fn) s = .next t ∧ (∀ k, tget 0 (t.fn fn).counts k = 0) ∧ (t.fn fn).lastCode = 0 ∧ (t.fn fn).lastClass = 0 ∧
        t.part = s.part ∧ t.faults = s.faults ∧ t.hbm = s.hbm ∧ t.fab = s.fab ∧ t.comp = s.comp)

/-- PART.CREATE is refused with BAD_PARAM, BAD_STATE, REGION_ASSIGNED or REGION_UNSERVICEABLE, the first that applies. (R418) -/
def Obligations.PartCreateIsRefusedInOrder : Prop :=
    (∀ (fn : Fn) (c : Consumed) (s : State),
      startable s fn 3 1 = some c →
      (c.req.partition = 255 ∨ 4 < c.u8 0 % 4 + c.u8 1 ∨ 4 < c.u8 0 / 4 + c.u8 2) →
      exec (.partCreate fn) s = .next (finishSt s fn c.id 0x0005)) ∧
    (∀ (fn : Fn) (c : Consumed) (s : State),
      startable s fn 3 1 = some c →
      c.req.partition ≤ 15 →
      (c.u8 0 ≤ 15 ∧ 1 ≤ c.u8 1 ∧ 1 ≤ c.u8 2 ∧ c.u8 3 ≤ 1) →
      (c.u8 0 % 4 + c.u8 1 ≤ 4 ∧ c.u8 0 / 4 + c.u8 2 ≤ 4) →
      (s.pt c.req.partition).state ≠ .free →
      exec (.partCreate fn) s = .next (finishSt s fn c.id 0x0008)) ∧
    (∀ (fn : Fn) (c : Consumed) (g : Nat) (q : Fin 16) (s : State),
      startable s fn 3 1 = some c →
      c.req.partition ≤ 15 →
      (c.u8 0 ≤ 15 ∧ 1 ≤ c.u8 1 ∧ 1 ≤ c.u8 2 ∧ c.u8 3 ≤ 1) →
      (c.u8 0 % 4 + c.u8 1 ≤ 4 ∧ c.u8 0 / 4 + c.u8 2 ≤ 4) →
      (s.pt c.req.partition).state = .free →
      g ∈ rectRegions (c.u8 0) (c.u8 1) (c.u8 2) →
      (s.pt q).state ≠ .free →
      g ∈ (s.pt q).regions →
      exec (.partCreate fn) s = .next (finishSt s fn c.id 0x0401)) ∧
    (∀ (fn : Fn) (c : Consumed) (g : Nat) (s : State),
      startable s fn 3 1 = some c →
      c.req.partition ≤ 15 →
      (c.u8 0 ≤ 15 ∧ 1 ≤ c.u8 1 ∧ 1 ≤ c.u8 2 ∧ c.u8 3 ≤ 1) →
      (c.u8 0 % 4 + c.u8 1 ≤ 4 ∧ c.u8 0 / 4 + c.u8 2 ≤ 4) →
      (s.pt c.req.partition).state = .free →
      (∀ r ∈ rectRegions (c.u8 0) (c.u8 1) (c.u8 2), s.regionPart r = none) →
      g ∈ rectRegions (c.u8 0) (c.u8 1) (c.u8 2) →
      serviceability (s.rgn g) ≠ 0 →
      mapDue s (rectRegions (c.u8 0) (c.u8 1) (c.u8 2)) = false →
      exec (.partCreate fn) s = .next (finishSt s fn c.id 0x030A))

/-- What a steward grants, with what it holds back, never exceeds the rack budget unless its grants are SHORT. (R788, R791) -/
def Obligations.GrantsNeverExceedTheBudget : Prop :=
    (∀ (budget expected far : Nat) (ms l : List (Nat × Demand)) (g : List (Nat × Nat)),
      0 < budget →
      l = ms.filter (fun m => m.2.hold && !m.2.leaving) →
      grantsOf budget expected far ms = (false, g) →
      total g + 70 * (ms.filter (fun m => m.2.leaving)).length + total (l.map (fun m => (m.1, m.2.demand))) + 70 * far + 1600 * (expected - ms.length - far) ≤ budget)

/-- A query is answered and changes nothing of the module but mailboxes and interrupt state. (R202, R205, R213) -/
def Obligations.QueriesLeaveTheModule : Prop :=
    (∀ (fn : Fn) (i : Instr) (s : State),
      i ∈ [Instr.sysInfo fn, .sysEcho fn, .regionQuery fn, .partQuery fn, .chanQuery fn, .memQuery fn, .linkQuery fn, .hubQuery fn, .huskQuery fn, .powerQuery fn] →
      ∃ t, exec i s = .next t ∧ t = { s with host := { s.host with mb := t.host.mb, fn := t.host.fn } } ∧
        ∀ j, t.fn j = { s.fn j with msix := (t.fn j).msix, intStatus := (t.fn j).intStatus })
end

