-- ==== Sys2Proof/Laws/Tab.lean ====
section
/-! SUPPORT. Reading a table after writing it. -/

namespace Sys2Proof

theorem tget_tset_self {α : Type} (d : α) (t : Tab α) (k : Nat) (v : α) : tget d (tset t k v) k = v := by
  induction t with
  | nil => simp [tset, tget]
  | cons x r ih => obtain ⟨j, w⟩ := x; simp only [tset]; split <;> (try split) <;> simp_all [tget]

theorem tget_tset_other {α : Type} (d : α) (t : Tab α) (v : α) {k j : Nat} (h : k ≠ j) : tget d (tset t j v) k = tget d t k := by
  induction t with
  | nil => simp [tset, tget, h]
  | cons x r ih => obtain ⟨i, w⟩ := x; simp only [tset]; split <;> (try split) <;> simp_all [tget]

end Sys2Proof
end

