-- ==== Sys2Proof/Laws/State.lean ====
section
/-! SUPPORT. What each named write of a part of the state leaves as it was, and that a read after a write gives what was written. -/

namespace Sys2Proof.Machine

@[simp] theorem State.setMb_pending (s : State) (fn : Nat) (m : Mailbox) : (s.setMb fn m).pending = s.pending := rfl
@[simp] theorem State.setMb_free (s : State) (fn : Nat) (m : Mailbox) : (s.setMb fn m).free = s.free := rfl
@[simp] theorem State.setMb_time (s : State) (fn : Nat) (m : Mailbox) : (s.setMb fn m).time = s.time := rfl
@[simp] theorem State.setMb_rootPhase (s : State) (fn : Nat) (m : Mailbox) : (s.setMb fn m).rootPhase = s.rootPhase := rfl
@[simp] theorem State.setMb_faults (s : State) (fn : Nat) (m : Mailbox) : (s.setMb fn m).faults = s.faults := rfl
@[simp] theorem State.setMb_comp (s : State) (fn : Nat) (m : Mailbox) : (s.setMb fn m).comp = s.comp := rfl
@[simp] theorem State.setMb_jtag (s : State) (fn : Nat) (m : Mailbox) : (s.setMb fn m).jtag = s.jtag := rfl
@[simp] theorem State.setMb_clk (s : State) (fn : Nat) (m : Mailbox) : (s.setMb fn m).clk = s.clk := rfl
@[simp] theorem State.setMb_rst (s : State) (fn : Nat) (m : Mailbox) : (s.setMb fn m).rst = s.rst := rfl
@[simp] theorem State.setMb_boot (s : State) (fn : Nat) (m : Mailbox) : (s.setMb fn m).boot = s.boot := rfl
@[simp] theorem State.setMb_fab (s : State) (fn : Nat) (m : Mailbox) : (s.setMb fn m).fab = s.fab := rfl
@[simp] theorem State.setMb_part (s : State) (fn : Nat) (m : Mailbox) : (s.setMb fn m).part = s.part := rfl
@[simp] theorem State.setMb_chans (s : State) (fn : Nat) (m : Mailbox) : (s.setMb fn m).chans = s.chans := rfl
@[simp] theorem State.setMb_hbm (s : State) (fn : Nat) (m : Mailbox) : (s.setMb fn m).hbm = s.hbm := rfl
@[simp] theorem State.setMb_eng (s : State) (fn : Nat) (m : Mailbox) : (s.setMb fn m).eng = s.eng := rfl
@[simp] theorem State.setMb_link (s : State) (fn : Nat) (m : Mailbox) : (s.setMb fn m).link = s.link := rfl
@[simp] theorem State.setMb_hub (s : State) (fn : Nat) (m : Mailbox) : (s.setMb fn m).hub = s.hub := rfl
@[simp] theorem State.setMb_husk (s : State) (fn : Nat) (m : Mailbox) : (s.setMb fn m).husk = s.husk := rfl
@[simp] theorem State.setMb_pow (s : State) (fn : Nat) (m : Mailbox) : (s.setMb fn m).pow = s.pow := rfl
@[simp] theorem State.setMb_trace (s : State) (fn : Nat) (m : Mailbox) : (s.setMb fn m).trace = s.trace := rfl
@[simp] theorem State.setMb_hostOut (s : State) (fn : Nat) (m : Mailbox) : (s.setMb fn m).hostOut = s.hostOut := rfl

@[simp] theorem State.setFn_pending (s : State) (fn : Nat) (r : FnRegs) : (s.setFn fn r).pending = s.pending := rfl
@[simp] theorem State.setFn_free (s : State) (fn : Nat) (r : FnRegs) : (s.setFn fn r).free = s.free := rfl
@[simp] theorem State.setFn_time (s : State) (fn : Nat) (r : FnRegs) : (s.setFn fn r).time = s.time := rfl
@[simp] theorem State.setFn_rootPhase (s : State) (fn : Nat) (r : FnRegs) : (s.setFn fn r).rootPhase = s.rootPhase := rfl
@[simp] theorem State.setFn_faults (s : State) (fn : Nat) (r : FnRegs) : (s.setFn fn r).faults = s.faults := rfl
@[simp] theorem State.setFn_comp (s : State) (fn : Nat) (r : FnRegs) : (s.setFn fn r).comp = s.comp := rfl
@[simp] theorem State.setFn_jtag (s : State) (fn : Nat) (r : FnRegs) : (s.setFn fn r).jtag = s.jtag := rfl
@[simp] theorem State.setFn_clk (s : State) (fn : Nat) (r : FnRegs) : (s.setFn fn r).clk = s.clk := rfl
@[simp] theorem State.setFn_rst (s : State) (fn : Nat) (r : FnRegs) : (s.setFn fn r).rst = s.rst := rfl
@[simp] theorem State.setFn_boot (s : State) (fn : Nat) (r : FnRegs) : (s.setFn fn r).boot = s.boot := rfl
@[simp] theorem State.setFn_fab (s : State) (fn : Nat) (r : FnRegs) : (s.setFn fn r).fab = s.fab := rfl
@[simp] theorem State.setFn_part (s : State) (fn : Nat) (r : FnRegs) : (s.setFn fn r).part = s.part := rfl
@[simp] theorem State.setFn_chans (s : State) (fn : Nat) (r : FnRegs) : (s.setFn fn r).chans = s.chans := rfl
@[simp] theorem State.setFn_hbm (s : State) (fn : Nat) (r : FnRegs) : (s.setFn fn r).hbm = s.hbm := rfl
@[simp] theorem State.setFn_eng (s : State) (fn : Nat) (r : FnRegs) : (s.setFn fn r).eng = s.eng := rfl
@[simp] theorem State.setFn_link (s : State) (fn : Nat) (r : FnRegs) : (s.setFn fn r).link = s.link := rfl
@[simp] theorem State.setFn_hub (s : State) (fn : Nat) (r : FnRegs) : (s.setFn fn r).hub = s.hub := rfl
@[simp] theorem State.setFn_husk (s : State) (fn : Nat) (r : FnRegs) : (s.setFn fn r).husk = s.husk := rfl
@[simp] theorem State.setFn_pow (s : State) (fn : Nat) (r : FnRegs) : (s.setFn fn r).pow = s.pow := rfl
@[simp] theorem State.setFn_trace (s : State) (fn : Nat) (r : FnRegs) : (s.setFn fn r).trace = s.trace := rfl
@[simp] theorem State.setFn_hostOut (s : State) (fn : Nat) (r : FnRegs) : (s.setFn fn r).hostOut = s.hostOut := rfl

@[simp] theorem State.setPt_pending (s : State) (p : Nat) (x : Part) : (s.setPt p x).pending = s.pending := rfl
@[simp] theorem State.setPt_free (s : State) (p : Nat) (x : Part) : (s.setPt p x).free = s.free := rfl
@[simp] theorem State.setPt_time (s : State) (p : Nat) (x : Part) : (s.setPt p x).time = s.time := rfl
@[simp] theorem State.setPt_rootPhase (s : State) (p : Nat) (x : Part) : (s.setPt p x).rootPhase = s.rootPhase := rfl
@[simp] theorem State.setPt_host (s : State) (p : Nat) (x : Part) : (s.setPt p x).host = s.host := rfl
@[simp] theorem State.setPt_faults (s : State) (p : Nat) (x : Part) : (s.setPt p x).faults = s.faults := rfl
@[simp] theorem State.setPt_comp (s : State) (p : Nat) (x : Part) : (s.setPt p x).comp = s.comp := rfl
@[simp] theorem State.setPt_jtag (s : State) (p : Nat) (x : Part) : (s.setPt p x).jtag = s.jtag := rfl
@[simp] theorem State.setPt_clk (s : State) (p : Nat) (x : Part) : (s.setPt p x).clk = s.clk := rfl
@[simp] theorem State.setPt_rst (s : State) (p : Nat) (x : Part) : (s.setPt p x).rst = s.rst := rfl
@[simp] theorem State.setPt_boot (s : State) (p : Nat) (x : Part) : (s.setPt p x).boot = s.boot := rfl
@[simp] theorem State.setPt_fab (s : State) (p : Nat) (x : Part) : (s.setPt p x).fab = s.fab := rfl
@[simp] theorem State.setPt_chans (s : State) (p : Nat) (x : Part) : (s.setPt p x).chans = s.chans := rfl
@[simp] theorem State.setPt_hbm (s : State) (p : Nat) (x : Part) : (s.setPt p x).hbm = s.hbm := rfl
@[simp] theorem State.setPt_eng (s : State) (p : Nat) (x : Part) : (s.setPt p x).eng = s.eng := rfl
@[simp] theorem State.setPt_link (s : State) (p : Nat) (x : Part) : (s.setPt p x).link = s.link := rfl
@[simp] theorem State.setPt_hub (s : State) (p : Nat) (x : Part) : (s.setPt p x).hub = s.hub := rfl
@[simp] theorem State.setPt_husk (s : State) (p : Nat) (x : Part) : (s.setPt p x).husk = s.husk := rfl
@[simp] theorem State.setPt_pow (s : State) (p : Nat) (x : Part) : (s.setPt p x).pow = s.pow := rfl
@[simp] theorem State.setPt_trace (s : State) (p : Nat) (x : Part) : (s.setPt p x).trace = s.trace := rfl
@[simp] theorem State.setPt_hostOut (s : State) (p : Nat) (x : Part) : (s.setPt p x).hostOut = s.hostOut := rfl

@[simp] theorem State.setPod_pending (s : State) (k : Nat) (x : Pod) : (s.setPod k x).pending = s.pending := rfl
@[simp] theorem State.setPod_free (s : State) (k : Nat) (x : Pod) : (s.setPod k x).free = s.free := rfl
@[simp] theorem State.setPod_time (s : State) (k : Nat) (x : Pod) : (s.setPod k x).time = s.time := rfl
@[simp] theorem State.setPod_rootPhase (s : State) (k : Nat) (x : Pod) : (s.setPod k x).rootPhase = s.rootPhase := rfl
@[simp] theorem State.setPod_host (s : State) (k : Nat) (x : Pod) : (s.setPod k x).host = s.host := rfl
@[simp] theorem State.setPod_faults (s : State) (k : Nat) (x : Pod) : (s.setPod k x).faults = s.faults := rfl
@[simp] theorem State.setPod_comp (s : State) (k : Nat) (x : Pod) : (s.setPod k x).comp = s.comp := rfl
@[simp] theorem State.setPod_jtag (s : State) (k : Nat) (x : Pod) : (s.setPod k x).jtag = s.jtag := rfl
@[simp] theorem State.setPod_clk (s : State) (k : Nat) (x : Pod) : (s.setPod k x).clk = s.clk := rfl
@[simp] theorem State.setPod_rst (s : State) (k : Nat) (x : Pod) : (s.setPod k x).rst = s.rst := rfl
@[simp] theorem State.setPod_boot (s : State) (k : Nat) (x : Pod) : (s.setPod k x).boot = s.boot := rfl
@[simp] theorem State.setPod_part (s : State) (k : Nat) (x : Pod) : (s.setPod k x).part = s.part := rfl
@[simp] theorem State.setPod_chans (s : State) (k : Nat) (x : Pod) : (s.setPod k x).chans = s.chans := rfl
@[simp] theorem State.setPod_hbm (s : State) (k : Nat) (x : Pod) : (s.setPod k x).hbm = s.hbm := rfl
@[simp] theorem State.setPod_eng (s : State) (k : Nat) (x : Pod) : (s.setPod k x).eng = s.eng := rfl
@[simp] theorem State.setPod_link (s : State) (k : Nat) (x : Pod) : (s.setPod k x).link = s.link := rfl
@[simp] theorem State.setPod_hub (s : State) (k : Nat) (x : Pod) : (s.setPod k x).hub = s.hub := rfl
@[simp] theorem State.setPod_husk (s : State) (k : Nat) (x : Pod) : (s.setPod k x).husk = s.husk := rfl
@[simp] theorem State.setPod_pow (s : State) (k : Nat) (x : Pod) : (s.setPod k x).pow = s.pow := rfl
@[simp] theorem State.setPod_trace (s : State) (k : Nat) (x : Pod) : (s.setPod k x).trace = s.trace := rfl
@[simp] theorem State.setPod_hostOut (s : State) (k : Nat) (x : Pod) : (s.setPod k x).hostOut = s.hostOut := rfl

@[simp] theorem State.setSprout_pending (s : State) (rg : Nat) (x : Sprout) : (s.setSprout rg x).pending = s.pending := rfl
@[simp] theorem State.setSprout_free (s : State) (rg : Nat) (x : Sprout) : (s.setSprout rg x).free = s.free := rfl
@[simp] theorem State.setSprout_time (s : State) (rg : Nat) (x : Sprout) : (s.setSprout rg x).time = s.time := rfl
@[simp] theorem State.setSprout_rootPhase (s : State) (rg : Nat) (x : Sprout) : (s.setSprout rg x).rootPhase = s.rootPhase := rfl
@[simp] theorem State.setSprout_host (s : State) (rg : Nat) (x : Sprout) : (s.setSprout rg x).host = s.host := rfl
@[simp] theorem State.setSprout_faults (s : State) (rg : Nat) (x : Sprout) : (s.setSprout rg x).faults = s.faults := rfl
@[simp] theorem State.setSprout_comp (s : State) (rg : Nat) (x : Sprout) : (s.setSprout rg x).comp = s.comp := rfl
@[simp] theorem State.setSprout_jtag (s : State) (rg : Nat) (x : Sprout) : (s.setSprout rg x).jtag = s.jtag := rfl
@[simp] theorem State.setSprout_clk (s : State) (rg : Nat) (x : Sprout) : (s.setSprout rg x).clk = s.clk := rfl
@[simp] theorem State.setSprout_rst (s : State) (rg : Nat) (x : Sprout) : (s.setSprout rg x).rst = s.rst := rfl
@[simp] theorem State.setSprout_boot (s : State) (rg : Nat) (x : Sprout) : (s.setSprout rg x).boot = s.boot := rfl
@[simp] theorem State.setSprout_part (s : State) (rg : Nat) (x : Sprout) : (s.setSprout rg x).part = s.part := rfl
@[simp] theorem State.setSprout_chans (s : State) (rg : Nat) (x : Sprout) : (s.setSprout rg x).chans = s.chans := rfl
@[simp] theorem State.setSprout_hbm (s : State) (rg : Nat) (x : Sprout) : (s.setSprout rg x).hbm = s.hbm := rfl
@[simp] theorem State.setSprout_eng (s : State) (rg : Nat) (x : Sprout) : (s.setSprout rg x).eng = s.eng := rfl
@[simp] theorem State.setSprout_link (s : State) (rg : Nat) (x : Sprout) : (s.setSprout rg x).link = s.link := rfl
@[simp] theorem State.setSprout_hub (s : State) (rg : Nat) (x : Sprout) : (s.setSprout rg x).hub = s.hub := rfl
@[simp] theorem State.setSprout_husk (s : State) (rg : Nat) (x : Sprout) : (s.setSprout rg x).husk = s.husk := rfl
@[simp] theorem State.setSprout_pow (s : State) (rg : Nat) (x : Sprout) : (s.setSprout rg x).pow = s.pow := rfl
@[simp] theorem State.setSprout_trace (s : State) (rg : Nat) (x : Sprout) : (s.setSprout rg x).trace = s.trace := rfl
@[simp] theorem State.setSprout_hostOut (s : State) (rg : Nat) (x : Sprout) : (s.setSprout rg x).hostOut = s.hostOut := rfl

@[simp] theorem State.setRgn_pending (s : State) (rg : Nat) (x : Region) : (s.setRgn rg x).pending = s.pending := rfl
@[simp] theorem State.setRgn_free (s : State) (rg : Nat) (x : Region) : (s.setRgn rg x).free = s.free := rfl
@[simp] theorem State.setRgn_time (s : State) (rg : Nat) (x : Region) : (s.setRgn rg x).time = s.time := rfl
@[simp] theorem State.setRgn_rootPhase (s : State) (rg : Nat) (x : Region) : (s.setRgn rg x).rootPhase = s.rootPhase := rfl
@[simp] theorem State.setRgn_host (s : State) (rg : Nat) (x : Region) : (s.setRgn rg x).host = s.host := rfl
@[simp] theorem State.setRgn_faults (s : State) (rg : Nat) (x : Region) : (s.setRgn rg x).faults = s.faults := rfl
@[simp] theorem State.setRgn_comp (s : State) (rg : Nat) (x : Region) : (s.setRgn rg x).comp = s.comp := rfl
@[simp] theorem State.setRgn_jtag (s : State) (rg : Nat) (x : Region) : (s.setRgn rg x).jtag = s.jtag := rfl
@[simp] theorem State.setRgn_clk (s : State) (rg : Nat) (x : Region) : (s.setRgn rg x).clk = s.clk := rfl
@[simp] theorem State.setRgn_rst (s : State) (rg : Nat) (x : Region) : (s.setRgn rg x).rst = s.rst := rfl
@[simp] theorem State.setRgn_boot (s : State) (rg : Nat) (x : Region) : (s.setRgn rg x).boot = s.boot := rfl
@[simp] theorem State.setRgn_part (s : State) (rg : Nat) (x : Region) : (s.setRgn rg x).part = s.part := rfl
@[simp] theorem State.setRgn_chans (s : State) (rg : Nat) (x : Region) : (s.setRgn rg x).chans = s.chans := rfl
@[simp] theorem State.setRgn_hbm (s : State) (rg : Nat) (x : Region) : (s.setRgn rg x).hbm = s.hbm := rfl
@[simp] theorem State.setRgn_eng (s : State) (rg : Nat) (x : Region) : (s.setRgn rg x).eng = s.eng := rfl
@[simp] theorem State.setRgn_link (s : State) (rg : Nat) (x : Region) : (s.setRgn rg x).link = s.link := rfl
@[simp] theorem State.setRgn_hub (s : State) (rg : Nat) (x : Region) : (s.setRgn rg x).hub = s.hub := rfl
@[simp] theorem State.setRgn_husk (s : State) (rg : Nat) (x : Region) : (s.setRgn rg x).husk = s.husk := rfl
@[simp] theorem State.setRgn_pow (s : State) (rg : Nat) (x : Region) : (s.setRgn rg x).pow = s.pow := rfl
@[simp] theorem State.setRgn_trace (s : State) (rg : Nat) (x : Region) : (s.setRgn rg x).trace = s.trace := rfl
@[simp] theorem State.setRgn_hostOut (s : State) (rg : Nat) (x : Region) : (s.setRgn rg x).hostOut = s.hostOut := rfl

@[simp] theorem State.setFeed_pending (s : State) (f : Nat) (x : Feed) : (s.setFeed f x).pending = s.pending := rfl
@[simp] theorem State.setFeed_free (s : State) (f : Nat) (x : Feed) : (s.setFeed f x).free = s.free := rfl
@[simp] theorem State.setFeed_time (s : State) (f : Nat) (x : Feed) : (s.setFeed f x).time = s.time := rfl
@[simp] theorem State.setFeed_rootPhase (s : State) (f : Nat) (x : Feed) : (s.setFeed f x).rootPhase = s.rootPhase := rfl
@[simp] theorem State.setFeed_host (s : State) (f : Nat) (x : Feed) : (s.setFeed f x).host = s.host := rfl
@[simp] theorem State.setFeed_faults (s : State) (f : Nat) (x : Feed) : (s.setFeed f x).faults = s.faults := rfl
@[simp] theorem State.setFeed_jtag (s : State) (f : Nat) (x : Feed) : (s.setFeed f x).jtag = s.jtag := rfl
@[simp] theorem State.setFeed_clk (s : State) (f : Nat) (x : Feed) : (s.setFeed f x).clk = s.clk := rfl
@[simp] theorem State.setFeed_rst (s : State) (f : Nat) (x : Feed) : (s.setFeed f x).rst = s.rst := rfl
@[simp] theorem State.setFeed_boot (s : State) (f : Nat) (x : Feed) : (s.setFeed f x).boot = s.boot := rfl
@[simp] theorem State.setFeed_fab (s : State) (f : Nat) (x : Feed) : (s.setFeed f x).fab = s.fab := rfl
@[simp] theorem State.setFeed_part (s : State) (f : Nat) (x : Feed) : (s.setFeed f x).part = s.part := rfl
@[simp] theorem State.setFeed_chans (s : State) (f : Nat) (x : Feed) : (s.setFeed f x).chans = s.chans := rfl
@[simp] theorem State.setFeed_hbm (s : State) (f : Nat) (x : Feed) : (s.setFeed f x).hbm = s.hbm := rfl
@[simp] theorem State.setFeed_eng (s : State) (f : Nat) (x : Feed) : (s.setFeed f x).eng = s.eng := rfl
@[simp] theorem State.setFeed_link (s : State) (f : Nat) (x : Feed) : (s.setFeed f x).link = s.link := rfl
@[simp] theorem State.setFeed_hub (s : State) (f : Nat) (x : Feed) : (s.setFeed f x).hub = s.hub := rfl
@[simp] theorem State.setFeed_husk (s : State) (f : Nat) (x : Feed) : (s.setFeed f x).husk = s.husk := rfl
@[simp] theorem State.setFeed_pow (s : State) (f : Nat) (x : Feed) : (s.setFeed f x).pow = s.pow := rfl
@[simp] theorem State.setFeed_trace (s : State) (f : Nat) (x : Feed) : (s.setFeed f x).trace = s.trace := rfl
@[simp] theorem State.setFeed_hostOut (s : State) (f : Nat) (x : Feed) : (s.setFeed f x).hostOut = s.hostOut := rfl

@[simp] theorem State.setBay_pending (s : State) (n : Nat) (b : BayState) : (s.setBay n b).pending = s.pending := rfl
@[simp] theorem State.setBay_free (s : State) (n : Nat) (b : BayState) : (s.setBay n b).free = s.free := rfl
@[simp] theorem State.setBay_time (s : State) (n : Nat) (b : BayState) : (s.setBay n b).time = s.time := rfl
@[simp] theorem State.setBay_rootPhase (s : State) (n : Nat) (b : BayState) : (s.setBay n b).rootPhase = s.rootPhase := rfl
@[simp] theorem State.setBay_host (s : State) (n : Nat) (b : BayState) : (s.setBay n b).host = s.host := rfl
@[simp] theorem State.setBay_faults (s : State) (n : Nat) (b : BayState) : (s.setBay n b).faults = s.faults := rfl
@[simp] theorem State.setBay_jtag (s : State) (n : Nat) (b : BayState) : (s.setBay n b).jtag = s.jtag := rfl
@[simp] theorem State.setBay_clk (s : State) (n : Nat) (b : BayState) : (s.setBay n b).clk = s.clk := rfl
@[simp] theorem State.setBay_rst (s : State) (n : Nat) (b : BayState) : (s.setBay n b).rst = s.rst := rfl
@[simp] theorem State.setBay_boot (s : State) (n : Nat) (b : BayState) : (s.setBay n b).boot = s.boot := rfl
@[simp] theorem State.setBay_fab (s : State) (n : Nat) (b : BayState) : (s.setBay n b).fab = s.fab := rfl
@[simp] theorem State.setBay_part (s : State) (n : Nat) (b : BayState) : (s.setBay n b).part = s.part := rfl
@[simp] theorem State.setBay_chans (s : State) (n : Nat) (b : BayState) : (s.setBay n b).chans = s.chans := rfl
@[simp] theorem State.setBay_hbm (s : State) (n : Nat) (b : BayState) : (s.setBay n b).hbm = s.hbm := rfl
@[simp] theorem State.setBay_eng (s : State) (n : Nat) (b : BayState) : (s.setBay n b).eng = s.eng := rfl
@[simp] theorem State.setBay_link (s : State) (n : Nat) (b : BayState) : (s.setBay n b).link = s.link := rfl
@[simp] theorem State.setBay_hub (s : State) (n : Nat) (b : BayState) : (s.setBay n b).hub = s.hub := rfl
@[simp] theorem State.setBay_husk (s : State) (n : Nat) (b : BayState) : (s.setBay n b).husk = s.husk := rfl
@[simp] theorem State.setBay_pow (s : State) (n : Nat) (b : BayState) : (s.setBay n b).pow = s.pow := rfl
@[simp] theorem State.setBay_trace (s : State) (n : Nat) (b : BayState) : (s.setBay n b).trace = s.trace := rfl
@[simp] theorem State.setBay_hostOut (s : State) (n : Nat) (b : BayState) : (s.setBay n b).hostOut = s.hostOut := rfl

@[simp] theorem State.setChan_pending (s : State) (k : Nat) (c : Chan) : (s.setChan k c).pending = s.pending := rfl
@[simp] theorem State.setChan_free (s : State) (k : Nat) (c : Chan) : (s.setChan k c).free = s.free := rfl
@[simp] theorem State.setChan_time (s : State) (k : Nat) (c : Chan) : (s.setChan k c).time = s.time := rfl
@[simp] theorem State.setChan_rootPhase (s : State) (k : Nat) (c : Chan) : (s.setChan k c).rootPhase = s.rootPhase := rfl
@[simp] theorem State.setChan_host (s : State) (k : Nat) (c : Chan) : (s.setChan k c).host = s.host := rfl
@[simp] theorem State.setChan_faults (s : State) (k : Nat) (c : Chan) : (s.setChan k c).faults = s.faults := rfl
@[simp] theorem State.setChan_comp (s : State) (k : Nat) (c : Chan) : (s.setChan k c).comp = s.comp := rfl
@[simp] theorem State.setChan_jtag (s : State) (k : Nat) (c : Chan) : (s.setChan k c).jtag = s.jtag := rfl
@[simp] theorem State.setChan_clk (s : State) (k : Nat) (c : Chan) : (s.setChan k c).clk = s.clk := rfl
@[simp] theorem State.setChan_rst (s : State) (k : Nat) (c : Chan) : (s.setChan k c).rst = s.rst := rfl
@[simp] theorem State.setChan_boot (s : State) (k : Nat) (c : Chan) : (s.setChan k c).boot = s.boot := rfl
@[simp] theorem State.setChan_fab (s : State) (k : Nat) (c : Chan) : (s.setChan k c).fab = s.fab := rfl
@[simp] theorem State.setChan_part (s : State) (k : Nat) (c : Chan) : (s.setChan k c).part = s.part := rfl
@[simp] theorem State.setChan_hbm (s : State) (k : Nat) (c : Chan) : (s.setChan k c).hbm = s.hbm := rfl
@[simp] theorem State.setChan_eng (s : State) (k : Nat) (c : Chan) : (s.setChan k c).eng = s.eng := rfl
@[simp] theorem State.setChan_link (s : State) (k : Nat) (c : Chan) : (s.setChan k c).link = s.link := rfl
@[simp] theorem State.setChan_hub (s : State) (k : Nat) (c : Chan) : (s.setChan k c).hub = s.hub := rfl
@[simp] theorem State.setChan_husk (s : State) (k : Nat) (c : Chan) : (s.setChan k c).husk = s.husk := rfl
@[simp] theorem State.setChan_pow (s : State) (k : Nat) (c : Chan) : (s.setChan k c).pow = s.pow := rfl
@[simp] theorem State.setChan_trace (s : State) (k : Nat) (c : Chan) : (s.setChan k c).trace = s.trace := rfl
@[simp] theorem State.setChan_hostOut (s : State) (k : Nat) (c : Chan) : (s.setChan k c).hostOut = s.hostOut := rfl

@[simp] theorem State.freeChan_pending (s : State) (k : Nat) : (s.freeChan k).pending = s.pending := rfl
@[simp] theorem State.freeChan_free (s : State) (k : Nat) : (s.freeChan k).free = s.free := rfl
@[simp] theorem State.freeChan_time (s : State) (k : Nat) : (s.freeChan k).time = s.time := rfl
@[simp] theorem State.freeChan_rootPhase (s : State) (k : Nat) : (s.freeChan k).rootPhase = s.rootPhase := rfl
@[simp] theorem State.freeChan_host (s : State) (k : Nat) : (s.freeChan k).host = s.host := rfl
@[simp] theorem State.freeChan_faults (s : State) (k : Nat) : (s.freeChan k).faults = s.faults := rfl
@[simp] theorem State.freeChan_comp (s : State) (k : Nat) : (s.freeChan k).comp = s.comp := rfl
@[simp] theorem State.freeChan_jtag (s : State) (k : Nat) : (s.freeChan k).jtag = s.jtag := rfl
@[simp] theorem State.freeChan_clk (s : State) (k : Nat) : (s.freeChan k).clk = s.clk := rfl
@[simp] theorem State.freeChan_rst (s : State) (k : Nat) : (s.freeChan k).rst = s.rst := rfl
@[simp] theorem State.freeChan_boot (s : State) (k : Nat) : (s.freeChan k).boot = s.boot := rfl
@[simp] theorem State.freeChan_fab (s : State) (k : Nat) : (s.freeChan k).fab = s.fab := rfl
@[simp] theorem State.freeChan_part (s : State) (k : Nat) : (s.freeChan k).part = s.part := rfl
@[simp] theorem State.freeChan_hbm (s : State) (k : Nat) : (s.freeChan k).hbm = s.hbm := rfl
@[simp] theorem State.freeChan_eng (s : State) (k : Nat) : (s.freeChan k).eng = s.eng := rfl
@[simp] theorem State.freeChan_link (s : State) (k : Nat) : (s.freeChan k).link = s.link := rfl
@[simp] theorem State.freeChan_hub (s : State) (k : Nat) : (s.freeChan k).hub = s.hub := rfl
@[simp] theorem State.freeChan_husk (s : State) (k : Nat) : (s.freeChan k).husk = s.husk := rfl
@[simp] theorem State.freeChan_pow (s : State) (k : Nat) : (s.freeChan k).pow = s.pow := rfl
@[simp] theorem State.freeChan_trace (s : State) (k : Nat) : (s.freeChan k).trace = s.trace := rfl
@[simp] theorem State.freeChan_hostOut (s : State) (k : Nat) : (s.freeChan k).hostOut = s.hostOut := rfl

@[simp] theorem State.setPage_pending (s : State) (fn p : Nat) (x : PortPage) : (s.setPage fn p x).pending = s.pending := rfl
@[simp] theorem State.setPage_free (s : State) (fn p : Nat) (x : PortPage) : (s.setPage fn p x).free = s.free := rfl
@[simp] theorem State.setPage_time (s : State) (fn p : Nat) (x : PortPage) : (s.setPage fn p x).time = s.time := rfl
@[simp] theorem State.setPage_rootPhase (s : State) (fn p : Nat) (x : PortPage) : (s.setPage fn p x).rootPhase = s.rootPhase := rfl
@[simp] theorem State.setPage_host (s : State) (fn p : Nat) (x : PortPage) : (s.setPage fn p x).host = s.host := rfl
@[simp] theorem State.setPage_faults (s : State) (fn p : Nat) (x : PortPage) : (s.setPage fn p x).faults = s.faults := rfl
@[simp] theorem State.setPage_comp (s : State) (fn p : Nat) (x : PortPage) : (s.setPage fn p x).comp = s.comp := rfl
@[simp] theorem State.setPage_jtag (s : State) (fn p : Nat) (x : PortPage) : (s.setPage fn p x).jtag = s.jtag := rfl
@[simp] theorem State.setPage_clk (s : State) (fn p : Nat) (x : PortPage) : (s.setPage fn p x).clk = s.clk := rfl
@[simp] theorem State.setPage_rst (s : State) (fn p : Nat) (x : PortPage) : (s.setPage fn p x).rst = s.rst := rfl
@[simp] theorem State.setPage_boot (s : State) (fn p : Nat) (x : PortPage) : (s.setPage fn p x).boot = s.boot := rfl
@[simp] theorem State.setPage_fab (s : State) (fn p : Nat) (x : PortPage) : (s.setPage fn p x).fab = s.fab := rfl
@[simp] theorem State.setPage_part (s : State) (fn p : Nat) (x : PortPage) : (s.setPage fn p x).part = s.part := rfl
@[simp] theorem State.setPage_hbm (s : State) (fn p : Nat) (x : PortPage) : (s.setPage fn p x).hbm = s.hbm := rfl
@[simp] theorem State.setPage_eng (s : State) (fn p : Nat) (x : PortPage) : (s.setPage fn p x).eng = s.eng := rfl
@[simp] theorem State.setPage_link (s : State) (fn p : Nat) (x : PortPage) : (s.setPage fn p x).link = s.link := rfl
@[simp] theorem State.setPage_hub (s : State) (fn p : Nat) (x : PortPage) : (s.setPage fn p x).hub = s.hub := rfl
@[simp] theorem State.setPage_husk (s : State) (fn p : Nat) (x : PortPage) : (s.setPage fn p x).husk = s.husk := rfl
@[simp] theorem State.setPage_pow (s : State) (fn p : Nat) (x : PortPage) : (s.setPage fn p x).pow = s.pow := rfl
@[simp] theorem State.setPage_trace (s : State) (fn p : Nat) (x : PortPage) : (s.setPage fn p x).trace = s.trace := rfl
@[simp] theorem State.setPage_hostOut (s : State) (fn p : Nat) (x : PortPage) : (s.setPage fn p x).hostOut = s.hostOut := rfl

@[simp] theorem State.setDp_pending (s : State) (n : Nat) (p : DPort) : (s.setDp n p).pending = s.pending := rfl
@[simp] theorem State.setDp_free (s : State) (n : Nat) (p : DPort) : (s.setDp n p).free = s.free := rfl
@[simp] theorem State.setDp_time (s : State) (n : Nat) (p : DPort) : (s.setDp n p).time = s.time := rfl
@[simp] theorem State.setDp_rootPhase (s : State) (n : Nat) (p : DPort) : (s.setDp n p).rootPhase = s.rootPhase := rfl
@[simp] theorem State.setDp_host (s : State) (n : Nat) (p : DPort) : (s.setDp n p).host = s.host := rfl
@[simp] theorem State.setDp_faults (s : State) (n : Nat) (p : DPort) : (s.setDp n p).faults = s.faults := rfl
@[simp] theorem State.setDp_comp (s : State) (n : Nat) (p : DPort) : (s.setDp n p).comp = s.comp := rfl
@[simp] theorem State.setDp_jtag (s : State) (n : Nat) (p : DPort) : (s.setDp n p).jtag = s.jtag := rfl
@[simp] theorem State.setDp_clk (s : State) (n : Nat) (p : DPort) : (s.setDp n p).clk = s.clk := rfl
@[simp] theorem State.setDp_rst (s : State) (n : Nat) (p : DPort) : (s.setDp n p).rst = s.rst := rfl
@[simp] theorem State.setDp_boot (s : State) (n : Nat) (p : DPort) : (s.setDp n p).boot = s.boot := rfl
@[simp] theorem State.setDp_fab (s : State) (n : Nat) (p : DPort) : (s.setDp n p).fab = s.fab := rfl
@[simp] theorem State.setDp_part (s : State) (n : Nat) (p : DPort) : (s.setDp n p).part = s.part := rfl
@[simp] theorem State.setDp_chans (s : State) (n : Nat) (p : DPort) : (s.setDp n p).chans = s.chans := rfl
@[simp] theorem State.setDp_hbm (s : State) (n : Nat) (p : DPort) : (s.setDp n p).hbm = s.hbm := rfl
@[simp] theorem State.setDp_eng (s : State) (n : Nat) (p : DPort) : (s.setDp n p).eng = s.eng := rfl
@[simp] theorem State.setDp_link (s : State) (n : Nat) (p : DPort) : (s.setDp n p).link = s.link := rfl
@[simp] theorem State.setDp_husk (s : State) (n : Nat) (p : DPort) : (s.setDp n p).husk = s.husk := rfl
@[simp] theorem State.setDp_pow (s : State) (n : Nat) (p : DPort) : (s.setDp n p).pow = s.pow := rfl
@[simp] theorem State.setDp_trace (s : State) (n : Nat) (p : DPort) : (s.setDp n p).trace = s.trace := rfl
@[simp] theorem State.setDp_hostOut (s : State) (n : Nat) (p : DPort) : (s.setDp n p).hostOut = s.hostOut := rfl

@[simp] theorem State.setPort_pending (s : State) (p : Nat) (x : Port) : (s.setPort p x).pending = s.pending := rfl
@[simp] theorem State.setPort_free (s : State) (p : Nat) (x : Port) : (s.setPort p x).free = s.free := rfl
@[simp] theorem State.setPort_time (s : State) (p : Nat) (x : Port) : (s.setPort p x).time = s.time := rfl
@[simp] theorem State.setPort_rootPhase (s : State) (p : Nat) (x : Port) : (s.setPort p x).rootPhase = s.rootPhase := rfl
@[simp] theorem State.setPort_host (s : State) (p : Nat) (x : Port) : (s.setPort p x).host = s.host := rfl
@[simp] theorem State.setPort_faults (s : State) (p : Nat) (x : Port) : (s.setPort p x).faults = s.faults := rfl
@[simp] theorem State.setPort_comp (s : State) (p : Nat) (x : Port) : (s.setPort p x).comp = s.comp := rfl
@[simp] theorem State.setPort_jtag (s : State) (p : Nat) (x : Port) : (s.setPort p x).jtag = s.jtag := rfl
@[simp] theorem State.setPort_clk (s : State) (p : Nat) (x : Port) : (s.setPort p x).clk = s.clk := rfl
@[simp] theorem State.setPort_rst (s : State) (p : Nat) (x : Port) : (s.setPort p x).rst = s.rst := rfl
@[simp] theorem State.setPort_boot (s : State) (p : Nat) (x : Port) : (s.setPort p x).boot = s.boot := rfl
@[simp] theorem State.setPort_fab (s : State) (p : Nat) (x : Port) : (s.setPort p x).fab = s.fab := rfl
@[simp] theorem State.setPort_part (s : State) (p : Nat) (x : Port) : (s.setPort p x).part = s.part := rfl
@[simp] theorem State.setPort_chans (s : State) (p : Nat) (x : Port) : (s.setPort p x).chans = s.chans := rfl
@[simp] theorem State.setPort_hbm (s : State) (p : Nat) (x : Port) : (s.setPort p x).hbm = s.hbm := rfl
@[simp] theorem State.setPort_eng (s : State) (p : Nat) (x : Port) : (s.setPort p x).eng = s.eng := rfl
@[simp] theorem State.setPort_hub (s : State) (p : Nat) (x : Port) : (s.setPort p x).hub = s.hub := rfl
@[simp] theorem State.setPort_husk (s : State) (p : Nat) (x : Port) : (s.setPort p x).husk = s.husk := rfl
@[simp] theorem State.setPort_pow (s : State) (p : Nat) (x : Port) : (s.setPort p x).pow = s.pow := rfl
@[simp] theorem State.setPort_trace (s : State) (p : Nat) (x : Port) : (s.setPort p x).trace = s.trace := rfl
@[simp] theorem State.setPort_hostOut (s : State) (p : Nat) (x : Port) : (s.setPort p x).hostOut = s.hostOut := rfl

@[simp] theorem State.setSes_pending (s : State) (fn : Nat) (x : Session) : (s.setSes fn x).pending = s.pending := rfl
@[simp] theorem State.setSes_free (s : State) (fn : Nat) (x : Session) : (s.setSes fn x).free = s.free := rfl
@[simp] theorem State.setSes_time (s : State) (fn : Nat) (x : Session) : (s.setSes fn x).time = s.time := rfl
@[simp] theorem State.setSes_rootPhase (s : State) (fn : Nat) (x : Session) : (s.setSes fn x).rootPhase = s.rootPhase := rfl
@[simp] theorem State.setSes_host (s : State) (fn : Nat) (x : Session) : (s.setSes fn x).host = s.host := rfl
@[simp] theorem State.setSes_faults (s : State) (fn : Nat) (x : Session) : (s.setSes fn x).faults = s.faults := rfl
@[simp] theorem State.setSes_comp (s : State) (fn : Nat) (x : Session) : (s.setSes fn x).comp = s.comp := rfl
@[simp] theorem State.setSes_jtag (s : State) (fn : Nat) (x : Session) : (s.setSes fn x).jtag = s.jtag := rfl
@[simp] theorem State.setSes_clk (s : State) (fn : Nat) (x : Session) : (s.setSes fn x).clk = s.clk := rfl
@[simp] theorem State.setSes_rst (s : State) (fn : Nat) (x : Session) : (s.setSes fn x).rst = s.rst := rfl
@[simp] theorem State.setSes_boot (s : State) (fn : Nat) (x : Session) : (s.setSes fn x).boot = s.boot := rfl
@[simp] theorem State.setSes_fab (s : State) (fn : Nat) (x : Session) : (s.setSes fn x).fab = s.fab := rfl
@[simp] theorem State.setSes_part (s : State) (fn : Nat) (x : Session) : (s.setSes fn x).part = s.part := rfl
@[simp] theorem State.setSes_chans (s : State) (fn : Nat) (x : Session) : (s.setSes fn x).chans = s.chans := rfl
@[simp] theorem State.setSes_hbm (s : State) (fn : Nat) (x : Session) : (s.setSes fn x).hbm = s.hbm := rfl
@[simp] theorem State.setSes_eng (s : State) (fn : Nat) (x : Session) : (s.setSes fn x).eng = s.eng := rfl
@[simp] theorem State.setSes_link (s : State) (fn : Nat) (x : Session) : (s.setSes fn x).link = s.link := rfl
@[simp] theorem State.setSes_hub (s : State) (fn : Nat) (x : Session) : (s.setSes fn x).hub = s.hub := rfl
@[simp] theorem State.setSes_husk (s : State) (fn : Nat) (x : Session) : (s.setSes fn x).husk = s.husk := rfl
@[simp] theorem State.setSes_pow (s : State) (fn : Nat) (x : Session) : (s.setSes fn x).pow = s.pow := rfl
@[simp] theorem State.setSes_hostOut (s : State) (fn : Nat) (x : Session) : (s.setSes fn x).hostOut = s.hostOut := rfl

@[simp] theorem State.setMb_host_fn (s : State) (fn : Nat) (m : Mailbox) : (s.setMb fn m).host.fn = s.host.fn := rfl
@[simp] theorem State.setMb_host_upd (s : State) (fn : Nat) (m : Mailbox) : (s.setMb fn m).host.upd = s.host.upd := rfl
@[simp] theorem State.setMb_host_turn (s : State) (fn : Nat) (m : Mailbox) : (s.setMb fn m).host.turn = s.host.turn := rfl
@[simp] theorem State.setMb_host_turnCount (s : State) (fn : Nat) (m : Mailbox) : (s.setMb fn m).host.turnCount = s.host.turnCount := rfl
@[simp] theorem State.setMb_host_nextId (s : State) (fn : Nat) (m : Mailbox) : (s.setMb fn m).host.nextId = s.host.nextId := rfl
@[simp] theorem State.setMb_host_readData (s : State) (fn : Nat) (m : Mailbox) : (s.setMb fn m).host.readData = s.host.readData := rfl

@[simp] theorem State.setFn_host_mb (s : State) (fn : Nat) (r : FnRegs) : (s.setFn fn r).host.mb = s.host.mb := rfl
@[simp] theorem State.setFn_host_upd (s : State) (fn : Nat) (r : FnRegs) : (s.setFn fn r).host.upd = s.host.upd := rfl
@[simp] theorem State.setFn_host_turn (s : State) (fn : Nat) (r : FnRegs) : (s.setFn fn r).host.turn = s.host.turn := rfl
@[simp] theorem State.setFn_host_turnCount (s : State) (fn : Nat) (r : FnRegs) : (s.setFn fn r).host.turnCount = s.host.turnCount := rfl
@[simp] theorem State.setFn_host_nextId (s : State) (fn : Nat) (r : FnRegs) : (s.setFn fn r).host.nextId = s.host.nextId := rfl
@[simp] theorem State.setFn_host_readData (s : State) (fn : Nat) (r : FnRegs) : (s.setFn fn r).host.readData = s.host.readData := rfl

@[simp] theorem State.setPod_fab_regions (s : State) (k : Nat) (x : Pod) : (s.setPod k x).fab.regions = s.fab.regions := rfl
@[simp] theorem State.setPod_fab_banks (s : State) (k : Nat) (x : Pod) : (s.setPod k x).fab.banks = s.fab.banks := rfl
@[simp] theorem State.setPod_fab_sprouts (s : State) (k : Nat) (x : Pod) : (s.setPod k x).fab.sprouts = s.fab.sprouts := rfl
@[simp] theorem State.setPod_fab_cells (s : State) (k : Nat) (x : Pod) : (s.setPod k x).fab.cells = s.fab.cells := rfl
@[simp] theorem State.setPod_fab_cellPoison (s : State) (k : Nat) (x : Pod) : (s.setPod k x).fab.cellPoison = s.fab.cellPoison := rfl
@[simp] theorem State.setPod_fab_cellEcc (s : State) (k : Nat) (x : Pod) : (s.setPod k x).fab.cellEcc = s.fab.cellEcc := rfl
@[simp] theorem State.setPod_fab_writeBack (s : State) (k : Nat) (x : Pod) : (s.setPod k x).fab.writeBack = s.fab.writeBack := rfl

@[simp] theorem State.setSprout_fab_regions (s : State) (rg : Nat) (x : Sprout) : (s.setSprout rg x).fab.regions = s.fab.regions := rfl
@[simp] theorem State.setSprout_fab_banks (s : State) (rg : Nat) (x : Sprout) : (s.setSprout rg x).fab.banks = s.fab.banks := rfl
@[simp] theorem State.setSprout_fab_pods (s : State) (rg : Nat) (x : Sprout) : (s.setSprout rg x).fab.pods = s.fab.pods := rfl
@[simp] theorem State.setSprout_fab_cells (s : State) (rg : Nat) (x : Sprout) : (s.setSprout rg x).fab.cells = s.fab.cells := rfl
@[simp] theorem State.setSprout_fab_cellPoison (s : State) (rg : Nat) (x : Sprout) : (s.setSprout rg x).fab.cellPoison = s.fab.cellPoison := rfl
@[simp] theorem State.setSprout_fab_cellEcc (s : State) (rg : Nat) (x : Sprout) : (s.setSprout rg x).fab.cellEcc = s.fab.cellEcc := rfl
@[simp] theorem State.setSprout_fab_writeBack (s : State) (rg : Nat) (x : Sprout) : (s.setSprout rg x).fab.writeBack = s.fab.writeBack := rfl

@[simp] theorem State.setRgn_fab_banks (s : State) (rg : Nat) (x : Region) : (s.setRgn rg x).fab.banks = s.fab.banks := rfl
@[simp] theorem State.setRgn_fab_pods (s : State) (rg : Nat) (x : Region) : (s.setRgn rg x).fab.pods = s.fab.pods := rfl
@[simp] theorem State.setRgn_fab_sprouts (s : State) (rg : Nat) (x : Region) : (s.setRgn rg x).fab.sprouts = s.fab.sprouts := rfl
@[simp] theorem State.setRgn_fab_cells (s : State) (rg : Nat) (x : Region) : (s.setRgn rg x).fab.cells = s.fab.cells := rfl
@[simp] theorem State.setRgn_fab_cellPoison (s : State) (rg : Nat) (x : Region) : (s.setRgn rg x).fab.cellPoison = s.fab.cellPoison := rfl
@[simp] theorem State.setRgn_fab_cellEcc (s : State) (rg : Nat) (x : Region) : (s.setRgn rg x).fab.cellEcc = s.fab.cellEcc := rfl
@[simp] theorem State.setRgn_fab_writeBack (s : State) (rg : Nat) (x : Region) : (s.setRgn rg x).fab.writeBack = s.fab.writeBack := rfl

@[simp] theorem State.setMb_self (s : State) (fn : Nat) (m : Mailbox) : (s.setMb fn m).mb fn = m := tget_tset_self _ _ _ _
theorem State.setMb_other (s : State) (fn : Nat) (m : Mailbox) {j : Nat} (h : j ≠ fn) : (s.setMb fn m).mb j = s.mb j := tget_tset_other _ _ _ h

@[simp] theorem State.setFn_self (s : State) (fn : Nat) (r : FnRegs) : (s.setFn fn r).fn fn = r := tget_tset_self _ _ _ _
theorem State.setFn_other (s : State) (fn : Nat) (r : FnRegs) {j : Nat} (h : j ≠ fn) : (s.setFn fn r).fn j = s.fn j := tget_tset_other _ _ _ h

@[simp] theorem State.setPt_self (s : State) (p : Nat) (x : Part) : (s.setPt p x).pt p = x := tget_tset_self _ _ _ _
theorem State.setPt_other (s : State) (p : Nat) (x : Part) {j : Nat} (h : j ≠ p) : (s.setPt p x).pt j = s.pt j := tget_tset_other _ _ _ h

@[simp] theorem State.setPod_self (s : State) (k : Nat) (x : Pod) : (s.setPod k x).pod k = x := tget_tset_self _ _ _ _
theorem State.setPod_other (s : State) (k : Nat) (x : Pod) {j : Nat} (h : j ≠ k) : (s.setPod k x).pod j = s.pod j := tget_tset_other _ _ _ h

@[simp] theorem State.setSprout_self (s : State) (rg : Nat) (x : Sprout) : (s.setSprout rg x).sprout rg = x := tget_tset_self _ _ _ _
theorem State.setSprout_other (s : State) (rg : Nat) (x : Sprout) {j : Nat} (h : j ≠ rg) : (s.setSprout rg x).sprout j = s.sprout j := tget_tset_other _ _ _ h

@[simp] theorem State.setRgn_self (s : State) (rg : Nat) (x : Region) : (s.setRgn rg x).rgn rg = x := tget_tset_self _ _ _ _
theorem State.setRgn_other (s : State) (rg : Nat) (x : Region) {j : Nat} (h : j ≠ rg) : (s.setRgn rg x).rgn j = s.rgn j := tget_tset_other _ _ _ h

@[simp] theorem State.setFeed_self (s : State) (f : Nat) (x : Feed) : (s.setFeed f x).feed f = x := tget_tset_self _ _ _ _
theorem State.setFeed_other (s : State) (f : Nat) (x : Feed) {j : Nat} (h : j ≠ f) : (s.setFeed f x).feed j = s.feed j := tget_tset_other _ _ _ h

@[simp] theorem State.setDp_self (s : State) (n : Nat) (p : DPort) : (s.setDp n p).dp n = p := tget_tset_self _ _ _ _
theorem State.setDp_other (s : State) (n : Nat) (p : DPort) {j : Nat} (h : j ≠ n) : (s.setDp n p).dp j = s.dp j := tget_tset_other _ _ _ h

@[simp] theorem State.setPort_self (s : State) (p : Nat) (x : Port) : (s.setPort p x).port p = x := tget_tset_self _ _ _ _
theorem State.setPort_other (s : State) (p : Nat) (x : Port) {j : Nat} (h : j ≠ p) : (s.setPort p x).port j = s.port j := tget_tset_other _ _ _ h

@[simp] theorem State.setSes_self (s : State) (fn : Nat) (x : Session) : (s.setSes fn x).ses fn = x := tget_tset_self _ _ _ _
theorem State.setSes_other (s : State) (fn : Nat) (x : Session) {j : Nat} (h : j ≠ fn) : (s.setSes fn x).ses j = s.ses j := tget_tset_other _ _ _ h

@[simp] theorem State.setMb_get_fn (s : State) (fn : Nat) (m : Mailbox) (j : Nat) : (s.setMb fn m).fn j = s.fn j := rfl
@[simp] theorem State.setMb_get_pt (s : State) (fn : Nat) (m : Mailbox) (j : Nat) : (s.setMb fn m).pt j = s.pt j := rfl
@[simp] theorem State.setMb_get_pod (s : State) (fn : Nat) (m : Mailbox) (j : Nat) : (s.setMb fn m).pod j = s.pod j := rfl
@[simp] theorem State.setMb_get_sprout (s : State) (fn : Nat) (m : Mailbox) (j : Nat) : (s.setMb fn m).sprout j = s.sprout j := rfl
@[simp] theorem State.setMb_get_rgn (s : State) (fn : Nat) (m : Mailbox) (j : Nat) : (s.setMb fn m).rgn j = s.rgn j := rfl
@[simp] theorem State.setMb_get_feed (s : State) (fn : Nat) (m : Mailbox) (j : Nat) : (s.setMb fn m).feed j = s.feed j := rfl
@[simp] theorem State.setMb_get_bay (s : State) (fn : Nat) (m : Mailbox) (j : Nat) : (s.setMb fn m).bay j = s.bay j := rfl
@[simp] theorem State.setMb_get_dp (s : State) (fn : Nat) (m : Mailbox) (j : Nat) : (s.setMb fn m).dp j = s.dp j := rfl
@[simp] theorem State.setMb_get_port (s : State) (fn : Nat) (m : Mailbox) (j : Nat) : (s.setMb fn m).port j = s.port j := rfl
@[simp] theorem State.setMb_get_ses (s : State) (fn : Nat) (m : Mailbox) (j : Nat) : (s.setMb fn m).ses j = s.ses j := rfl
@[simp] theorem State.setMb_get_chan (s : State) (fn : Nat) (m : Mailbox) (j : Nat) : (s.setMb fn m).chan j = s.chan j := rfl
@[simp] theorem State.setFn_get_mb (s : State) (fn : Nat) (r : FnRegs) (j : Nat) : (s.setFn fn r).mb j = s.mb j := rfl
@[simp] theorem State.setFn_get_pt (s : State) (fn : Nat) (r : FnRegs) (j : Nat) : (s.setFn fn r).pt j = s.pt j := rfl
@[simp] theorem State.setFn_get_pod (s : State) (fn : Nat) (r : FnRegs) (j : Nat) : (s.setFn fn r).pod j = s.pod j := rfl
@[simp] theorem State.setFn_get_sprout (s : State) (fn : Nat) (r : FnRegs) (j : Nat) : (s.setFn fn r).sprout j = s.sprout j := rfl
@[simp] theorem State.setFn_get_rgn (s : State) (fn : Nat) (r : FnRegs) (j : Nat) : (s.setFn fn r).rgn j = s.rgn j := rfl
@[simp] theorem State.setFn_get_feed (s : State) (fn : Nat) (r : FnRegs) (j : Nat) : (s.setFn fn r).feed j = s.feed j := rfl
@[simp] theorem State.setFn_get_bay (s : State) (fn : Nat) (r : FnRegs) (j : Nat) : (s.setFn fn r).bay j = s.bay j := rfl
@[simp] theorem State.setFn_get_dp (s : State) (fn : Nat) (r : FnRegs) (j : Nat) : (s.setFn fn r).dp j = s.dp j := rfl
@[simp] theorem State.setFn_get_port (s : State) (fn : Nat) (r : FnRegs) (j : Nat) : (s.setFn fn r).port j = s.port j := rfl
@[simp] theorem State.setFn_get_ses (s : State) (fn : Nat) (r : FnRegs) (j : Nat) : (s.setFn fn r).ses j = s.ses j := rfl
@[simp] theorem State.setFn_get_chan (s : State) (fn : Nat) (r : FnRegs) (j : Nat) : (s.setFn fn r).chan j = s.chan j := rfl
@[simp] theorem State.setPt_get_mb (s : State) (p : Nat) (x : Part) (j : Nat) : (s.setPt p x).mb j = s.mb j := rfl
@[simp] theorem State.setPt_get_fn (s : State) (p : Nat) (x : Part) (j : Nat) : (s.setPt p x).fn j = s.fn j := rfl
@[simp] theorem State.setPt_get_pod (s : State) (p : Nat) (x : Part) (j : Nat) : (s.setPt p x).pod j = s.pod j := rfl
@[simp] theorem State.setPt_get_sprout (s : State) (p : Nat) (x : Part) (j : Nat) : (s.setPt p x).sprout j = s.sprout j := rfl
@[simp] theorem State.setPt_get_rgn (s : State) (p : Nat) (x : Part) (j : Nat) : (s.setPt p x).rgn j = s.rgn j := rfl
@[simp] theorem State.setPt_get_feed (s : State) (p : Nat) (x : Part) (j : Nat) : (s.setPt p x).feed j = s.feed j := rfl
@[simp] theorem State.setPt_get_bay (s : State) (p : Nat) (x : Part) (j : Nat) : (s.setPt p x).bay j = s.bay j := rfl
@[simp] theorem State.setPt_get_dp (s : State) (p : Nat) (x : Part) (j : Nat) : (s.setPt p x).dp j = s.dp j := rfl
@[simp] theorem State.setPt_get_port (s : State) (p : Nat) (x : Part) (j : Nat) : (s.setPt p x).port j = s.port j := rfl
@[simp] theorem State.setPt_get_ses (s : State) (p : Nat) (x : Part) (j : Nat) : (s.setPt p x).ses j = s.ses j := rfl
@[simp] theorem State.setPt_get_chan (s : State) (p : Nat) (x : Part) (j : Nat) : (s.setPt p x).chan j = s.chan j := rfl
@[simp] theorem State.setPod_get_mb (s : State) (k : Nat) (x : Pod) (j : Nat) : (s.setPod k x).mb j = s.mb j := rfl
@[simp] theorem State.setPod_get_fn (s : State) (k : Nat) (x : Pod) (j : Nat) : (s.setPod k x).fn j = s.fn j := rfl
@[simp] theorem State.setPod_get_pt (s : State) (k : Nat) (x : Pod) (j : Nat) : (s.setPod k x).pt j = s.pt j := rfl
@[simp] theorem State.setPod_get_sprout (s : State) (k : Nat) (x : Pod) (j : Nat) : (s.setPod k x).sprout j = s.sprout j := rfl
@[simp] theorem State.setPod_get_rgn (s : State) (k : Nat) (x : Pod) (j : Nat) : (s.setPod k x).rgn j = s.rgn j := rfl
@[simp] theorem State.setPod_get_feed (s : State) (k : Nat) (x : Pod) (j : Nat) : (s.setPod k x).feed j = s.feed j := rfl
@[simp] theorem State.setPod_get_bay (s : State) (k : Nat) (x : Pod) (j : Nat) : (s.setPod k x).bay j = s.bay j := rfl
@[simp] theorem State.setPod_get_dp (s : State) (k : Nat) (x : Pod) (j : Nat) : (s.setPod k x).dp j = s.dp j := rfl
@[simp] theorem State.setPod_get_port (s : State) (k : Nat) (x : Pod) (j : Nat) : (s.setPod k x).port j = s.port j := rfl
@[simp] theorem State.setPod_get_ses (s : State) (k : Nat) (x : Pod) (j : Nat) : (s.setPod k x).ses j = s.ses j := rfl
@[simp] theorem State.setPod_get_chan (s : State) (k : Nat) (x : Pod) (j : Nat) : (s.setPod k x).chan j = s.chan j := rfl
@[simp] theorem State.setSprout_get_mb (s : State) (rg : Nat) (x : Sprout) (j : Nat) : (s.setSprout rg x).mb j = s.mb j := rfl
@[simp] theorem State.setSprout_get_fn (s : State) (rg : Nat) (x : Sprout) (j : Nat) : (s.setSprout rg x).fn j = s.fn j := rfl
@[simp] theorem State.setSprout_get_pt (s : State) (rg : Nat) (x : Sprout) (j : Nat) : (s.setSprout rg x).pt j = s.pt j := rfl
@[simp] theorem State.setSprout_get_pod (s : State) (rg : Nat) (x : Sprout) (j : Nat) : (s.setSprout rg x).pod j = s.pod j := rfl
@[simp] theorem State.setSprout_get_rgn (s : State) (rg : Nat) (x : Sprout) (j : Nat) : (s.setSprout rg x).rgn j = s.rgn j := rfl
@[simp] theorem State.setSprout_get_feed (s : State) (rg : Nat) (x : Sprout) (j : Nat) : (s.setSprout rg x).feed j = s.feed j := rfl
@[simp] theorem State.setSprout_get_bay (s : State) (rg : Nat) (x : Sprout) (j : Nat) : (s.setSprout rg x).bay j = s.bay j := rfl
@[simp] theorem State.setSprout_get_dp (s : State) (rg : Nat) (x : Sprout) (j : Nat) : (s.setSprout rg x).dp j = s.dp j := rfl
@[simp] theorem State.setSprout_get_port (s : State) (rg : Nat) (x : Sprout) (j : Nat) : (s.setSprout rg x).port j = s.port j := rfl
@[simp] theorem State.setSprout_get_ses (s : State) (rg : Nat) (x : Sprout) (j : Nat) : (s.setSprout rg x).ses j = s.ses j := rfl
@[simp] theorem State.setSprout_get_chan (s : State) (rg : Nat) (x : Sprout) (j : Nat) : (s.setSprout rg x).chan j = s.chan j := rfl
@[simp] theorem State.setRgn_get_mb (s : State) (rg : Nat) (x : Region) (j : Nat) : (s.setRgn rg x).mb j = s.mb j := rfl
@[simp] theorem State.setRgn_get_fn (s : State) (rg : Nat) (x : Region) (j : Nat) : (s.setRgn rg x).fn j = s.fn j := rfl
@[simp] theorem State.setRgn_get_pt (s : State) (rg : Nat) (x : Region) (j : Nat) : (s.setRgn rg x).pt j = s.pt j := rfl
@[simp] theorem State.setRgn_get_pod (s : State) (rg : Nat) (x : Region) (j : Nat) : (s.setRgn rg x).pod j = s.pod j := rfl
@[simp] theorem State.setRgn_get_sprout (s : State) (rg : Nat) (x : Region) (j : Nat) : (s.setRgn rg x).sprout j = s.sprout j := rfl
@[simp] theorem State.setRgn_get_feed (s : State) (rg : Nat) (x : Region) (j : Nat) : (s.setRgn rg x).feed j = s.feed j := rfl
@[simp] theorem State.setRgn_get_bay (s : State) (rg : Nat) (x : Region) (j : Nat) : (s.setRgn rg x).bay j = s.bay j := rfl
@[simp] theorem State.setRgn_get_dp (s : State) (rg : Nat) (x : Region) (j : Nat) : (s.setRgn rg x).dp j = s.dp j := rfl
@[simp] theorem State.setRgn_get_port (s : State) (rg : Nat) (x : Region) (j : Nat) : (s.setRgn rg x).port j = s.port j := rfl
@[simp] theorem State.setRgn_get_ses (s : State) (rg : Nat) (x : Region) (j : Nat) : (s.setRgn rg x).ses j = s.ses j := rfl
@[simp] theorem State.setRgn_get_chan (s : State) (rg : Nat) (x : Region) (j : Nat) : (s.setRgn rg x).chan j = s.chan j := rfl
@[simp] theorem State.setFeed_get_mb (s : State) (f : Nat) (x : Feed) (j : Nat) : (s.setFeed f x).mb j = s.mb j := rfl
@[simp] theorem State.setFeed_get_fn (s : State) (f : Nat) (x : Feed) (j : Nat) : (s.setFeed f x).fn j = s.fn j := rfl
@[simp] theorem State.setFeed_get_pt (s : State) (f : Nat) (x : Feed) (j : Nat) : (s.setFeed f x).pt j = s.pt j := rfl
@[simp] theorem State.setFeed_get_pod (s : State) (f : Nat) (x : Feed) (j : Nat) : (s.setFeed f x).pod j = s.pod j := rfl
@[simp] theorem State.setFeed_get_sprout (s : State) (f : Nat) (x : Feed) (j : Nat) : (s.setFeed f x).sprout j = s.sprout j := rfl
@[simp] theorem State.setFeed_get_rgn (s : State) (f : Nat) (x : Feed) (j : Nat) : (s.setFeed f x).rgn j = s.rgn j := rfl
@[simp] theorem State.setFeed_get_bay (s : State) (f : Nat) (x : Feed) (j : Nat) : (s.setFeed f x).bay j = s.bay j := rfl
@[simp] theorem State.setFeed_get_dp (s : State) (f : Nat) (x : Feed) (j : Nat) : (s.setFeed f x).dp j = s.dp j := rfl
@[simp] theorem State.setFeed_get_port (s : State) (f : Nat) (x : Feed) (j : Nat) : (s.setFeed f x).port j = s.port j := rfl
@[simp] theorem State.setFeed_get_ses (s : State) (f : Nat) (x : Feed) (j : Nat) : (s.setFeed f x).ses j = s.ses j := rfl
@[simp] theorem State.setFeed_get_chan (s : State) (f : Nat) (x : Feed) (j : Nat) : (s.setFeed f x).chan j = s.chan j := rfl
@[simp] theorem State.setBay_get_mb (s : State) (n : Nat) (b : BayState) (j : Nat) : (s.setBay n b).mb j = s.mb j := rfl
@[simp] theorem State.setBay_get_fn (s : State) (n : Nat) (b : BayState) (j : Nat) : (s.setBay n b).fn j = s.fn j := rfl
@[simp] theorem State.setBay_get_pt (s : State) (n : Nat) (b : BayState) (j : Nat) : (s.setBay n b).pt j = s.pt j := rfl
@[simp] theorem State.setBay_get_pod (s : State) (n : Nat) (b : BayState) (j : Nat) : (s.setBay n b).pod j = s.pod j := rfl
@[simp] theorem State.setBay_get_sprout (s : State) (n : Nat) (b : BayState) (j : Nat) : (s.setBay n b).sprout j = s.sprout j := rfl
@[simp] theorem State.setBay_get_rgn (s : State) (n : Nat) (b : BayState) (j : Nat) : (s.setBay n b).rgn j = s.rgn j := rfl
@[simp] theorem State.setBay_get_feed (s : State) (n : Nat) (b : BayState) (j : Nat) : (s.setBay n b).feed j = s.feed j := rfl
@[simp] theorem State.setBay_get_dp (s : State) (n : Nat) (b : BayState) (j : Nat) : (s.setBay n b).dp j = s.dp j := rfl
@[simp] theorem State.setBay_get_port (s : State) (n : Nat) (b : BayState) (j : Nat) : (s.setBay n b).port j = s.port j := rfl
@[simp] theorem State.setBay_get_ses (s : State) (n : Nat) (b : BayState) (j : Nat) : (s.setBay n b).ses j = s.ses j := rfl
@[simp] theorem State.setBay_get_chan (s : State) (n : Nat) (b : BayState) (j : Nat) : (s.setBay n b).chan j = s.chan j := rfl
@[simp] theorem State.setChan_get_mb (s : State) (k : Nat) (c : Chan) (j : Nat) : (s.setChan k c).mb j = s.mb j := rfl
@[simp] theorem State.setChan_get_fn (s : State) (k : Nat) (c : Chan) (j : Nat) : (s.setChan k c).fn j = s.fn j := rfl
@[simp] theorem State.setChan_get_pt (s : State) (k : Nat) (c : Chan) (j : Nat) : (s.setChan k c).pt j = s.pt j := rfl
@[simp] theorem State.setChan_get_pod (s : State) (k : Nat) (c : Chan) (j : Nat) : (s.setChan k c).pod j = s.pod j := rfl
@[simp] theorem State.setChan_get_sprout (s : State) (k : Nat) (c : Chan) (j : Nat) : (s.setChan k c).sprout j = s.sprout j := rfl
@[simp] theorem State.setChan_get_rgn (s : State) (k : Nat) (c : Chan) (j : Nat) : (s.setChan k c).rgn j = s.rgn j := rfl
@[simp] theorem State.setChan_get_feed (s : State) (k : Nat) (c : Chan) (j : Nat) : (s.setChan k c).feed j = s.feed j := rfl
@[simp] theorem State.setChan_get_bay (s : State) (k : Nat) (c : Chan) (j : Nat) : (s.setChan k c).bay j = s.bay j := rfl
@[simp] theorem State.setChan_get_dp (s : State) (k : Nat) (c : Chan) (j : Nat) : (s.setChan k c).dp j = s.dp j := rfl
@[simp] theorem State.setChan_get_port (s : State) (k : Nat) (c : Chan) (j : Nat) : (s.setChan k c).port j = s.port j := rfl
@[simp] theorem State.setChan_get_ses (s : State) (k : Nat) (c : Chan) (j : Nat) : (s.setChan k c).ses j = s.ses j := rfl
@[simp] theorem State.freeChan_get_mb (s : State) (k : Nat) (j : Nat) : (s.freeChan k).mb j = s.mb j := rfl
@[simp] theorem State.freeChan_get_fn (s : State) (k : Nat) (j : Nat) : (s.freeChan k).fn j = s.fn j := rfl
@[simp] theorem State.freeChan_get_pt (s : State) (k : Nat) (j : Nat) : (s.freeChan k).pt j = s.pt j := rfl
@[simp] theorem State.freeChan_get_pod (s : State) (k : Nat) (j : Nat) : (s.freeChan k).pod j = s.pod j := rfl
@[simp] theorem State.freeChan_get_sprout (s : State) (k : Nat) (j : Nat) : (s.freeChan k).sprout j = s.sprout j := rfl
@[simp] theorem State.freeChan_get_rgn (s : State) (k : Nat) (j : Nat) : (s.freeChan k).rgn j = s.rgn j := rfl
@[simp] theorem State.freeChan_get_feed (s : State) (k : Nat) (j : Nat) : (s.freeChan k).feed j = s.feed j := rfl
@[simp] theorem State.freeChan_get_bay (s : State) (k : Nat) (j : Nat) : (s.freeChan k).bay j = s.bay j := rfl
@[simp] theorem State.freeChan_get_dp (s : State) (k : Nat) (j : Nat) : (s.freeChan k).dp j = s.dp j := rfl
@[simp] theorem State.freeChan_get_port (s : State) (k : Nat) (j : Nat) : (s.freeChan k).port j = s.port j := rfl
@[simp] theorem State.freeChan_get_ses (s : State) (k : Nat) (j : Nat) : (s.freeChan k).ses j = s.ses j := rfl
@[simp] theorem State.setPage_get_mb (s : State) (fn p : Nat) (x : PortPage) (j : Nat) : (s.setPage fn p x).mb j = s.mb j := rfl
@[simp] theorem State.setPage_get_fn (s : State) (fn p : Nat) (x : PortPage) (j : Nat) : (s.setPage fn p x).fn j = s.fn j := rfl
@[simp] theorem State.setPage_get_pt (s : State) (fn p : Nat) (x : PortPage) (j : Nat) : (s.setPage fn p x).pt j = s.pt j := rfl
@[simp] theorem State.setPage_get_pod (s : State) (fn p : Nat) (x : PortPage) (j : Nat) : (s.setPage fn p x).pod j = s.pod j := rfl
@[simp] theorem State.setPage_get_sprout (s : State) (fn p : Nat) (x : PortPage) (j : Nat) : (s.setPage fn p x).sprout j = s.sprout j := rfl
@[simp] theorem State.setPage_get_rgn (s : State) (fn p : Nat) (x : PortPage) (j : Nat) : (s.setPage fn p x).rgn j = s.rgn j := rfl
@[simp] theorem State.setPage_get_feed (s : State) (fn p : Nat) (x : PortPage) (j : Nat) : (s.setPage fn p x).feed j = s.feed j := rfl
@[simp] theorem State.setPage_get_bay (s : State) (fn p : Nat) (x : PortPage) (j : Nat) : (s.setPage fn p x).bay j = s.bay j := rfl
@[simp] theorem State.setPage_get_dp (s : State) (fn p : Nat) (x : PortPage) (j : Nat) : (s.setPage fn p x).dp j = s.dp j := rfl
@[simp] theorem State.setPage_get_port (s : State) (fn p : Nat) (x : PortPage) (j : Nat) : (s.setPage fn p x).port j = s.port j := rfl
@[simp] theorem State.setPage_get_ses (s : State) (fn p : Nat) (x : PortPage) (j : Nat) : (s.setPage fn p x).ses j = s.ses j := rfl
@[simp] theorem State.setPage_get_chan (s : State) (fn p : Nat) (x : PortPage) (j : Nat) : (s.setPage fn p x).chan j = s.chan j := rfl
@[simp] theorem State.setDp_get_mb (s : State) (n : Nat) (p : DPort) (j : Nat) : (s.setDp n p).mb j = s.mb j := rfl
@[simp] theorem State.setDp_get_fn (s : State) (n : Nat) (p : DPort) (j : Nat) : (s.setDp n p).fn j = s.fn j := rfl
@[simp] theorem State.setDp_get_pt (s : State) (n : Nat) (p : DPort) (j : Nat) : (s.setDp n p).pt j = s.pt j := rfl
@[simp] theorem State.setDp_get_pod (s : State) (n : Nat) (p : DPort) (j : Nat) : (s.setDp n p).pod j = s.pod j := rfl
@[simp] theorem State.setDp_get_sprout (s : State) (n : Nat) (p : DPort) (j : Nat) : (s.setDp n p).sprout j = s.sprout j := rfl
@[simp] theorem State.setDp_get_rgn (s : State) (n : Nat) (p : DPort) (j : Nat) : (s.setDp n p).rgn j = s.rgn j := rfl
@[simp] theorem State.setDp_get_feed (s : State) (n : Nat) (p : DPort) (j : Nat) : (s.setDp n p).feed j = s.feed j := rfl
@[simp] theorem State.setDp_get_bay (s : State) (n : Nat) (p : DPort) (j : Nat) : (s.setDp n p).bay j = s.bay j := rfl
@[simp] theorem State.setDp_get_port (s : State) (n : Nat) (p : DPort) (j : Nat) : (s.setDp n p).port j = s.port j := rfl
@[simp] theorem State.setDp_get_ses (s : State) (n : Nat) (p : DPort) (j : Nat) : (s.setDp n p).ses j = s.ses j := rfl
@[simp] theorem State.setDp_get_chan (s : State) (n : Nat) (p : DPort) (j : Nat) : (s.setDp n p).chan j = s.chan j := rfl
@[simp] theorem State.setPort_get_mb (s : State) (p : Nat) (x : Port) (j : Nat) : (s.setPort p x).mb j = s.mb j := rfl
@[simp] theorem State.setPort_get_fn (s : State) (p : Nat) (x : Port) (j : Nat) : (s.setPort p x).fn j = s.fn j := rfl
@[simp] theorem State.setPort_get_pt (s : State) (p : Nat) (x : Port) (j : Nat) : (s.setPort p x).pt j = s.pt j := rfl
@[simp] theorem State.setPort_get_pod (s : State) (p : Nat) (x : Port) (j : Nat) : (s.setPort p x).pod j = s.pod j := rfl
@[simp] theorem State.setPort_get_sprout (s : State) (p : Nat) (x : Port) (j : Nat) : (s.setPort p x).sprout j = s.sprout j := rfl
@[simp] theorem State.setPort_get_rgn (s : State) (p : Nat) (x : Port) (j : Nat) : (s.setPort p x).rgn j = s.rgn j := rfl
@[simp] theorem State.setPort_get_feed (s : State) (p : Nat) (x : Port) (j : Nat) : (s.setPort p x).feed j = s.feed j := rfl
@[simp] theorem State.setPort_get_bay (s : State) (p : Nat) (x : Port) (j : Nat) : (s.setPort p x).bay j = s.bay j := rfl
@[simp] theorem State.setPort_get_dp (s : State) (p : Nat) (x : Port) (j : Nat) : (s.setPort p x).dp j = s.dp j := rfl
@[simp] theorem State.setPort_get_ses (s : State) (p : Nat) (x : Port) (j : Nat) : (s.setPort p x).ses j = s.ses j := rfl
@[simp] theorem State.setPort_get_chan (s : State) (p : Nat) (x : Port) (j : Nat) : (s.setPort p x).chan j = s.chan j := rfl
@[simp] theorem State.setSes_get_mb (s : State) (fn : Nat) (x : Session) (j : Nat) : (s.setSes fn x).mb j = s.mb j := rfl
@[simp] theorem State.setSes_get_fn (s : State) (fn : Nat) (x : Session) (j : Nat) : (s.setSes fn x).fn j = s.fn j := rfl
@[simp] theorem State.setSes_get_pt (s : State) (fn : Nat) (x : Session) (j : Nat) : (s.setSes fn x).pt j = s.pt j := rfl
@[simp] theorem State.setSes_get_pod (s : State) (fn : Nat) (x : Session) (j : Nat) : (s.setSes fn x).pod j = s.pod j := rfl
@[simp] theorem State.setSes_get_sprout (s : State) (fn : Nat) (x : Session) (j : Nat) : (s.setSes fn x).sprout j = s.sprout j := rfl
@[simp] theorem State.setSes_get_rgn (s : State) (fn : Nat) (x : Session) (j : Nat) : (s.setSes fn x).rgn j = s.rgn j := rfl
@[simp] theorem State.setSes_get_feed (s : State) (fn : Nat) (x : Session) (j : Nat) : (s.setSes fn x).feed j = s.feed j := rfl
@[simp] theorem State.setSes_get_bay (s : State) (fn : Nat) (x : Session) (j : Nat) : (s.setSes fn x).bay j = s.bay j := rfl
@[simp] theorem State.setSes_get_dp (s : State) (fn : Nat) (x : Session) (j : Nat) : (s.setSes fn x).dp j = s.dp j := rfl
@[simp] theorem State.setSes_get_port (s : State) (fn : Nat) (x : Session) (j : Nat) : (s.setSes fn x).port j = s.port j := rfl
@[simp] theorem State.setSes_get_chan (s : State) (fn : Nat) (x : Session) (j : Nat) : (s.setSes fn x).chan j = s.chan j := rfl

end Sys2Proof.Machine
end

