-- ==== Sys2Proof/Laws/Told.lean ====
section
/-! SUPPORT. What telling the host can change: posting responses and events writes mailboxes and interrupt state, and nothing else. -/

namespace Sys2Proof.Machine

/-- `t` is `s` but for the mailboxes and the functions' registers. -/
def Told (s t : State) : Prop := t = { s with host := { s.host with mb := t.host.mb, fn := t.host.fn } }
/-- `t` is `s` but for the functions' registers. -/
def Flagged (s t : State) : Prop := t = { s with host := { s.host with fn := t.host.fn } }

theorem Told.refl (s : State) : Told s s := rfl
theorem Told.trans {s t u : State} (a : Told s t) (b : Told t u) : Told s u := by
  unfold Told at *; rw [b, a]
theorem Flagged.refl (s : State) : Flagged s s := rfl
theorem Flagged.trans {s t u : State} (a : Flagged s t) (b : Flagged t u) : Flagged s u := by
  unfold Flagged at *; rw [b, a]
theorem Flagged.told {s t : State} (a : Flagged s t) : Told s t := by
  unfold Flagged at a; unfold Told; rw [a]
theorem told_foldl {α : Type} {f : State → α → State} (h : ∀ s a, Told s (f s a)) : ∀ (l : List α) (s : State), Told s (l.foldl f s)
  | [], s => Told.refl s
  | a :: r, s => (h s a).trans (told_foldl h r (f s a))
theorem flagged_foldl {α : Type} {f : State → α → State} (h : ∀ s a, Flagged s (f s a)) : ∀ (l : List α) (s : State), Flagged s (l.foldl f s)
  | [], s => Flagged.refl s
  | a :: r, s => (h s a).trans (flagged_foldl h r (f s a))

theorem ite_told {c : Prop} [Decidable c] {s t u : State} (a : Told s t) (b : Told s u) : Told s (if c then t else u) := by
  split; exacts [a, b]
theorem setMb_told (s : State) (fn : Nat) (m : Mailbox) : Told s (s.setMb fn m) := rfl
theorem setFn_flagged (s : State) (fn : Nat) (r : FnRegs) : Flagged s (s.setFn fn r) := rfl
theorem raiseVec_flagged (s : State) (fn v : Nat) : Flagged s (raiseVec s fn v) := rfl
@[simp] theorem raiseVec_mb (s : State) (fn v j : Nat) : (raiseVec s fn v).mb j = s.mb j := rfl
@[simp] theorem noteStatus_mb (s0 s : State) (fn j : Nat) : (noteStatus s0 s fn).mb j = s.mb j := by unfold noteStatus; split <;> rfl
@[simp] theorem updMb_self (s : State) (fn : Nat) (m : Mailbox) : (updMb s fn m).mb fn = m := by simp [updMb]
theorem setInt_flagged (s : State) (fn b : Nat) : Flagged s (setInt s fn b) := by
  unfold setInt; split
  · exact Flagged.refl s
  · dsimp only; split <;> rfl
theorem setIntAll_flagged (s : State) (b : Nat) : Flagged s (setIntAll s b) := flagged_foldl (fun s fn => setInt_flagged s fn b) _ s
theorem setIntIf_flagged (s : State) (b : Nat) (fns : List Nat) (c : Nat → Bool) : Flagged s (setIntIf s b fns c) :=
  flagged_foldl (fun s fn => by split; exacts [setInt_flagged s fn b, Flagged.refl s]) _ s
theorem ite_flagged {c : Prop} [Decidable c] {s t u : State} (a : Flagged s t) (b : Flagged s u) : Flagged s (if c then t else u) := by
  split; exacts [a, b]
theorem note_flagged (s0 s : State) : Flagged s (note s0 s) := by
  unfold note; dsimp only
  have h1 : Flagged s (if (pwStatus s &&& 0xFF1F07#32) ≠ (pwStatus s0 &&& 0xFF1F07#32) then setIntAll s 1 else s) :=
    ite_flagged (setIntAll_flagged s 1) (Flagged.refl s)
  have h2 := h1.trans (setIntIf_flagged _ 2 (List.range 17) (fun fn => (hkStatus s fn &&& 0x40F#32) ≠ (hkStatus s0 fn &&& 0x40F#32)))
  have h3 := h2.trans (setIntIf_flagged _ 3 (List.range 17) (fun fn =>
    (trStatus s fn &&& 7) ≠ (trStatus s0 fn &&& 7) || ((trStatus s fn &&& ~~~ trStatus s0 fn) &&& 8) ≠ 0))
  have h4 := h3.trans (setIntIf_flagged _ 4 (0 :: ((List.range 16).filter (fun p => (fnPartStatus s p &&& 3) ≠ (fnPartStatus s0 p &&& 3))).map (· + 1))
    (fun fn => fn ≠ 0 || !((List.range 16).filter (fun p => (fnPartStatus s p &&& 3) ≠ (fnPartStatus s0 p &&& 3))).isEmpty
      || fnBlockStatus s ≠ fnBlockStatus s0))
  have h5 := h4.trans (setIntIf_flagged _ 5 (0 :: ((List.range 16).filter (auditRose s0 s)).map (· + 1))
    (fun fn => fn ≠ 0 || !((List.range 16).filter (auditRose s0 s)).isEmpty))
  exact ite_flagged ((ite_flagged (h5.trans (setInt_flagged _ 0 6)) h5).trans (setInt_flagged _ 0 7)) (ite_flagged (h5.trans (setInt_flagged _ 0 6)) h5)
theorem noteStatus_flagged (s0 s : State) (fn : Nat) : Flagged s (noteStatus s0 s fn) := by
  unfold noteStatus; split; exacts [raiseVec_flagged s fn 2, Flagged.refl s]
theorem noteStatusAll_flagged (s0 s : State) : Flagged s (noteStatusAll s0 s) := flagged_foldl (fun s fn => noteStatus_flagged s0 s fn) _ s

theorem updMb_told (s : State) (fn : Nat) (m : Mailbox) : Told s (updMb s fn m) :=
  (setMb_told s fn m).trans (noteStatus_flagged s _ fn).told
theorem ringFail_told (s : State) (fn : Nat) : Told s (ringFail s fn) := updMb_told s fn _
theorem postIrq_told (s : State) (fn : Nat) (evt : Bool) : Told s (postIrq s fn evt) := by
  unfold postIrq; dsimp only
  refine ite_told (Told.refl s) (ite_told ?_ ?_) <;> exact (raiseVec_flagged s fn _).told.trans (setMb_told _ fn _)
theorem postRsp_told (s : State) (fn : Nat) (a : Bool) (c : Consumed) (r : Result) : Told s (postRsp s fn a c r) := by
  unfold postRsp; dsimp only
  split
  · split; exacts [ringFail_told s fn, Told.refl s]
  · exact (setMb_told s fn _).trans (postIrq_told _ fn false)
theorem writeEvent_told (s : State) (fn : Nat) (q : W32) (e : Event) : Told s (writeEvent s fn q e) :=
  (setMb_told s fn _).trans (postIrq_told _ fn true)
theorem flushEvents_told : ∀ (n : Nat) (s : State) (fn : Nat), Told s (flushEvents n s fn)
  | 0, s, _ => Told.refl s
  | n + 1, s, fn => by
    unfold flushEvents; dsimp only
    split
    · exact Told.refl s
    · split
      · exact Told.refl s
      · exact (setMb_told s fn _).trans ((writeEvent_told _ fn _ _).trans (flushEvents_told n _ fn))
      · exact (setMb_told s fn _).trans ((writeEvent_told _ fn _ _).trans (flushEvents_told n _ fn))
theorem raiseAt_told (s : State) (fn : Nat) (e : Event) : Told s (raiseAt s fn e) := by
  unfold raiseAt; dsimp only; split
  · exact Told.refl s
  · exact (setMb_told s fn _).trans (flushEvents_told _ _ fn)
theorem eventPart_told (s : State) (p code : Nat) (payload : List Byte) : Told s (eventPart s p code payload) :=
  (raiseAt_told s 0 _).trans (raiseAt_told _ (p + 1) _)
theorem eventDev_told (s : State) (code : Nat) (payload : List Byte) : Told s (eventDev s code payload) := raiseAt_told s 0 _
theorem eventAll_told (s : State) (code : Nat) (payload : List Byte) : Told s (eventAll s code payload) :=
  told_foldl (fun s fn => raiseAt_told s fn _) _ s
theorem modCmd_told (s : State) (fn id : Nat) (f : Consumed → Consumed) : Told s (modCmd s fn id f) := setMb_told s fn _
theorem endCmd_told (s : State) (fn : Nat) (c : Consumed) (r : Result) : Told s (endCmd s fn c r) := by
  unfold endCmd; dsimp only; split
  · exact (setMb_told s fn _).trans (raiseAt_told _ fn _)
  · exact (setMb_told s fn _).trans (postRsp_told _ fn _ _ _)
theorem drainRefusals_told : ∀ (n : Nat) (s : State) (fn : Nat), Told s (drainRefusals n s fn)
  | 0, s, _ => Told.refl s
  | n + 1, s, fn => by
    unfold drainRefusals; dsimp only
    split
    · exact Told.refl s
    · exact (endCmd_told s fn _ _).trans (drainRefusals_told n _ fn)
theorem finish_told (s : State) (fn id : Nat) (r : Result) : Told s (finish s fn id r) := by
  unfold finish; split
  · exact Told.refl s
  · exact (endCmd_told s fn _ r).trans (drainRefusals_told _ _ fn)
theorem finishSt_told (s : State) (fn id st : Nat) : Told s (finishSt s fn id st) := finish_told s fn id _
theorem finishOk_told (s : State) (fn id : Nat) (p : List Byte) : Told s (finishOk s fn id p) := finish_told s fn id _
theorem accept_told (s : State) (fn id : Nat) : Told s (accept s fn id) := by
  unfold accept; split
  · exact Told.refl s
  · dsimp only; split
    · exact modCmd_told s fn id _
    · exact (modCmd_told s fn id _).trans (postRsp_told _ fn _ _ _)
theorem begun_told (s : State) (fn id : Nat) : Told s (begun s fn id) := modCmd_told s fn id _
theorem workDone_told (s : State) (fn id : Nat) (r : Result) : Told s (workDone s fn id r) := modCmd_told s fn id _

/-- `t` is `s` but for the trace unit. -/
def Traced (s t : State) : Prop := t = { s with trace := t.trace }
theorem traced_foldl {α : Type} {f : State → α → State} (h : ∀ s a, Traced s (f s a)) : ∀ (l : List α) (s : State), Traced s (l.foldl f s)
  | [], s => rfl
  | a :: r, s => by
    have h1 := h s a
    have h2 := traced_foldl h r (f s a)
    unfold Traced at *; rw [List.foldl_cons, h2, h1]
theorem traceThrottle_traced (s : State) : Traced s (traceThrottle s) :=
  traced_foldl (fun t fn => by dsimp only; split <;> rfl) _ s
theorem noteThrottle_traced (s0 s : State) : Traced s (noteThrottle s0 s) := by
  unfold noteThrottle; split; exacts [rfl, traceThrottle_traced s]

theorem Told.pending_eq {s t : State} (h : Told s t) : t.pending = s.pending := (congrArg State.pending h :)
theorem Told.free_eq {s t : State} (h : Told s t) : t.free = s.free := (congrArg State.free h :)
theorem Told.time_eq {s t : State} (h : Told s t) : t.time = s.time := (congrArg State.time h :)
theorem Told.rootPhase_eq {s t : State} (h : Told s t) : t.rootPhase = s.rootPhase := (congrArg State.rootPhase h :)
theorem Told.faults_eq {s t : State} (h : Told s t) : t.faults = s.faults := (congrArg State.faults h :)
theorem Told.comp_eq {s t : State} (h : Told s t) : t.comp = s.comp := (congrArg State.comp h :)
theorem Told.jtag_eq {s t : State} (h : Told s t) : t.jtag = s.jtag := (congrArg State.jtag h :)
theorem Told.clk_eq {s t : State} (h : Told s t) : t.clk = s.clk := (congrArg State.clk h :)
theorem Told.rst_eq {s t : State} (h : Told s t) : t.rst = s.rst := (congrArg State.rst h :)
theorem Told.boot_eq {s t : State} (h : Told s t) : t.boot = s.boot := (congrArg State.boot h :)
theorem Told.fab_eq {s t : State} (h : Told s t) : t.fab = s.fab := (congrArg State.fab h :)
theorem Told.part_eq {s t : State} (h : Told s t) : t.part = s.part := (congrArg State.part h :)
theorem Told.chans_eq {s t : State} (h : Told s t) : t.chans = s.chans := (congrArg State.chans h :)
theorem Told.hbm_eq {s t : State} (h : Told s t) : t.hbm = s.hbm := (congrArg State.hbm h :)
theorem Told.eng_eq {s t : State} (h : Told s t) : t.eng = s.eng := (congrArg State.eng h :)
theorem Told.link_eq {s t : State} (h : Told s t) : t.link = s.link := (congrArg State.link h :)
theorem Told.hub_eq {s t : State} (h : Told s t) : t.hub = s.hub := (congrArg State.hub h :)
theorem Told.husk_eq {s t : State} (h : Told s t) : t.husk = s.husk := (congrArg State.husk h :)
theorem Told.pow_eq {s t : State} (h : Told s t) : t.pow = s.pow := (congrArg State.pow h :)
theorem Told.trace_eq {s t : State} (h : Told s t) : t.trace = s.trace := (congrArg State.trace h :)
theorem Told.hostOut_eq {s t : State} (h : Told s t) : t.hostOut = s.hostOut := (congrArg State.hostOut h :)
theorem Flagged.pending_eq {s t : State} (h : Flagged s t) : t.pending = s.pending := (congrArg State.pending h :)
theorem Flagged.free_eq {s t : State} (h : Flagged s t) : t.free = s.free := (congrArg State.free h :)
theorem Flagged.time_eq {s t : State} (h : Flagged s t) : t.time = s.time := (congrArg State.time h :)
theorem Flagged.rootPhase_eq {s t : State} (h : Flagged s t) : t.rootPhase = s.rootPhase := (congrArg State.rootPhase h :)
theorem Flagged.faults_eq {s t : State} (h : Flagged s t) : t.faults = s.faults := (congrArg State.faults h :)
theorem Flagged.comp_eq {s t : State} (h : Flagged s t) : t.comp = s.comp := (congrArg State.comp h :)
theorem Flagged.jtag_eq {s t : State} (h : Flagged s t) : t.jtag = s.jtag := (congrArg State.jtag h :)
theorem Flagged.clk_eq {s t : State} (h : Flagged s t) : t.clk = s.clk := (congrArg State.clk h :)
theorem Flagged.rst_eq {s t : State} (h : Flagged s t) : t.rst = s.rst := (congrArg State.rst h :)
theorem Flagged.boot_eq {s t : State} (h : Flagged s t) : t.boot = s.boot := (congrArg State.boot h :)
theorem Flagged.fab_eq {s t : State} (h : Flagged s t) : t.fab = s.fab := (congrArg State.fab h :)
theorem Flagged.part_eq {s t : State} (h : Flagged s t) : t.part = s.part := (congrArg State.part h :)
theorem Flagged.chans_eq {s t : State} (h : Flagged s t) : t.chans = s.chans := (congrArg State.chans h :)
theorem Flagged.hbm_eq {s t : State} (h : Flagged s t) : t.hbm = s.hbm := (congrArg State.hbm h :)
theorem Flagged.eng_eq {s t : State} (h : Flagged s t) : t.eng = s.eng := (congrArg State.eng h :)
theorem Flagged.link_eq {s t : State} (h : Flagged s t) : t.link = s.link := (congrArg State.link h :)
theorem Flagged.hub_eq {s t : State} (h : Flagged s t) : t.hub = s.hub := (congrArg State.hub h :)
theorem Flagged.husk_eq {s t : State} (h : Flagged s t) : t.husk = s.husk := (congrArg State.husk h :)
theorem Flagged.pow_eq {s t : State} (h : Flagged s t) : t.pow = s.pow := (congrArg State.pow h :)
theorem Flagged.trace_eq {s t : State} (h : Flagged s t) : t.trace = s.trace := (congrArg State.trace h :)
theorem Flagged.hostOut_eq {s t : State} (h : Flagged s t) : t.hostOut = s.hostOut := (congrArg State.hostOut h :)
theorem Traced.pending_eq {s t : State} (h : Traced s t) : t.pending = s.pending := (congrArg State.pending h :)
theorem Traced.free_eq {s t : State} (h : Traced s t) : t.free = s.free := (congrArg State.free h :)
theorem Traced.time_eq {s t : State} (h : Traced s t) : t.time = s.time := (congrArg State.time h :)
theorem Traced.rootPhase_eq {s t : State} (h : Traced s t) : t.rootPhase = s.rootPhase := (congrArg State.rootPhase h :)
theorem Traced.host_eq {s t : State} (h : Traced s t) : t.host = s.host := (congrArg State.host h :)
theorem Traced.faults_eq {s t : State} (h : Traced s t) : t.faults = s.faults := (congrArg State.faults h :)
theorem Traced.comp_eq {s t : State} (h : Traced s t) : t.comp = s.comp := (congrArg State.comp h :)
theorem Traced.jtag_eq {s t : State} (h : Traced s t) : t.jtag = s.jtag := (congrArg State.jtag h :)
theorem Traced.clk_eq {s t : State} (h : Traced s t) : t.clk = s.clk := (congrArg State.clk h :)
theorem Traced.rst_eq {s t : State} (h : Traced s t) : t.rst = s.rst := (congrArg State.rst h :)
theorem Traced.boot_eq {s t : State} (h : Traced s t) : t.boot = s.boot := (congrArg State.boot h :)
theorem Traced.fab_eq {s t : State} (h : Traced s t) : t.fab = s.fab := (congrArg State.fab h :)
theorem Traced.part_eq {s t : State} (h : Traced s t) : t.part = s.part := (congrArg State.part h :)
theorem Traced.chans_eq {s t : State} (h : Traced s t) : t.chans = s.chans := (congrArg State.chans h :)
theorem Traced.hbm_eq {s t : State} (h : Traced s t) : t.hbm = s.hbm := (congrArg State.hbm h :)
theorem Traced.eng_eq {s t : State} (h : Traced s t) : t.eng = s.eng := (congrArg State.eng h :)
theorem Traced.link_eq {s t : State} (h : Traced s t) : t.link = s.link := (congrArg State.link h :)
theorem Traced.hub_eq {s t : State} (h : Traced s t) : t.hub = s.hub := (congrArg State.hub h :)
theorem Traced.husk_eq {s t : State} (h : Traced s t) : t.husk = s.husk := (congrArg State.husk h :)
theorem Traced.pow_eq {s t : State} (h : Traced s t) : t.pow = s.pow := (congrArg State.pow h :)
theorem Traced.hostOut_eq {s t : State} (h : Traced s t) : t.hostOut = s.hostOut := (congrArg State.hostOut h :)
theorem Told.upd_eq {s t : State} (h : Told s t) : t.host.upd = s.host.upd := (congrArg (fun u : State => u.host.upd) h :)
theorem Told.nextId_eq {s t : State} (h : Told s t) : t.host.nextId = s.host.nextId := (congrArg (fun u : State => u.host.nextId) h :)
theorem Told.turn_eq {s t : State} (h : Told s t) : t.host.turn = s.host.turn := (congrArg (fun u : State => u.host.turn) h :)
theorem Told.turnCount_eq {s t : State} (h : Told s t) : t.host.turnCount = s.host.turnCount := (congrArg (fun u : State => u.host.turnCount) h :)
theorem Told.readData_eq {s t : State} (h : Told s t) : t.host.readData = s.host.readData := (congrArg (fun u : State => u.host.readData) h :)
theorem Flagged.mb_eq {s t : State} (h : Flagged s t) : t.host.mb = s.host.mb := (congrArg (fun u : State => u.host.mb) h :)
theorem Flagged.upd_eq {s t : State} (h : Flagged s t) : t.host.upd = s.host.upd := (congrArg (fun u : State => u.host.upd) h :)
theorem Flagged.nextId_eq {s t : State} (h : Flagged s t) : t.host.nextId = s.host.nextId := (congrArg (fun u : State => u.host.nextId) h :)
theorem Flagged.turn_eq {s t : State} (h : Flagged s t) : t.host.turn = s.host.turn := (congrArg (fun u : State => u.host.turn) h :)
theorem Flagged.turnCount_eq {s t : State} (h : Flagged s t) : t.host.turnCount = s.host.turnCount := (congrArg (fun u : State => u.host.turnCount) h :)
theorem Flagged.readData_eq {s t : State} (h : Flagged s t) : t.host.readData = s.host.readData := (congrArg (fun u : State => u.host.readData) h :)
@[simp] theorem note_pending (s0 s : State) : (note s0 s).pending = s.pending := (note_flagged s0 s).pending_eq
@[simp] theorem note_free (s0 s : State) : (note s0 s).free = s.free := (note_flagged s0 s).free_eq
@[simp] theorem note_time (s0 s : State) : (note s0 s).time = s.time := (note_flagged s0 s).time_eq
@[simp] theorem note_rootPhase (s0 s : State) : (note s0 s).rootPhase = s.rootPhase := (note_flagged s0 s).rootPhase_eq
@[simp] theorem note_faults (s0 s : State) : (note s0 s).faults = s.faults := (note_flagged s0 s).faults_eq
@[simp] theorem note_comp (s0 s : State) : (note s0 s).comp = s.comp := (note_flagged s0 s).comp_eq
@[simp] theorem note_jtag (s0 s : State) : (note s0 s).jtag = s.jtag := (note_flagged s0 s).jtag_eq
@[simp] theorem note_clk (s0 s : State) : (note s0 s).clk = s.clk := (note_flagged s0 s).clk_eq
@[simp] theorem note_rst (s0 s : State) : (note s0 s).rst = s.rst := (note_flagged s0 s).rst_eq
@[simp] theorem note_boot (s0 s : State) : (note s0 s).boot = s.boot := (note_flagged s0 s).boot_eq
@[simp] theorem note_fab (s0 s : State) : (note s0 s).fab = s.fab := (note_flagged s0 s).fab_eq
@[simp] theorem note_part (s0 s : State) : (note s0 s).part = s.part := (note_flagged s0 s).part_eq
@[simp] theorem note_chans (s0 s : State) : (note s0 s).chans = s.chans := (note_flagged s0 s).chans_eq
@[simp] theorem note_hbm (s0 s : State) : (note s0 s).hbm = s.hbm := (note_flagged s0 s).hbm_eq
@[simp] theorem note_eng (s0 s : State) : (note s0 s).eng = s.eng := (note_flagged s0 s).eng_eq
@[simp] theorem note_link (s0 s : State) : (note s0 s).link = s.link := (note_flagged s0 s).link_eq
@[simp] theorem note_hub (s0 s : State) : (note s0 s).hub = s.hub := (note_flagged s0 s).hub_eq
@[simp] theorem note_husk (s0 s : State) : (note s0 s).husk = s.husk := (note_flagged s0 s).husk_eq
@[simp] theorem note_pow (s0 s : State) : (note s0 s).pow = s.pow := (note_flagged s0 s).pow_eq
@[simp] theorem note_trace (s0 s : State) : (note s0 s).trace = s.trace := (note_flagged s0 s).trace_eq
@[simp] theorem note_hostOut (s0 s : State) : (note s0 s).hostOut = s.hostOut := (note_flagged s0 s).hostOut_eq
@[simp] theorem note_host_mb (s0 s : State) : (note s0 s).host.mb = s.host.mb := (note_flagged s0 s).mb_eq
@[simp] theorem note_host_upd (s0 s : State) : (note s0 s).host.upd = s.host.upd := (note_flagged s0 s).upd_eq
@[simp] theorem note_host_nextId (s0 s : State) : (note s0 s).host.nextId = s.host.nextId := (note_flagged s0 s).nextId_eq
@[simp] theorem note_host_turn (s0 s : State) : (note s0 s).host.turn = s.host.turn := (note_flagged s0 s).turn_eq
@[simp] theorem note_host_turnCount (s0 s : State) : (note s0 s).host.turnCount = s.host.turnCount := (note_flagged s0 s).turnCount_eq
@[simp] theorem note_host_readData (s0 s : State) : (note s0 s).host.readData = s.host.readData := (note_flagged s0 s).readData_eq
@[simp] theorem note_get_mb (s0 s : State) (j : Nat) : (note s0 s).mb j = s.mb j := congrArg (tget Mailbox.init · j) (note_flagged s0 s).mb_eq
@[simp] theorem noteStatusAll_pending (s0 s : State) : (noteStatusAll s0 s).pending = s.pending := (noteStatusAll_flagged s0 s).pending_eq
@[simp] theorem noteStatusAll_free (s0 s : State) : (noteStatusAll s0 s).free = s.free := (noteStatusAll_flagged s0 s).free_eq
@[simp] theorem noteStatusAll_time (s0 s : State) : (noteStatusAll s0 s).time = s.time := (noteStatusAll_flagged s0 s).time_eq
@[simp] theorem noteStatusAll_rootPhase (s0 s : State) : (noteStatusAll s0 s).rootPhase = s.rootPhase := (noteStatusAll_flagged s0 s).rootPhase_eq
@[simp] theorem noteStatusAll_faults (s0 s : State) : (noteStatusAll s0 s).faults = s.faults := (noteStatusAll_flagged s0 s).faults_eq
@[simp] theorem noteStatusAll_comp (s0 s : State) : (noteStatusAll s0 s).comp = s.comp := (noteStatusAll_flagged s0 s).comp_eq
@[simp] theorem noteStatusAll_jtag (s0 s : State) : (noteStatusAll s0 s).jtag = s.jtag := (noteStatusAll_flagged s0 s).jtag_eq
@[simp] theorem noteStatusAll_clk (s0 s : State) : (noteStatusAll s0 s).clk = s.clk := (noteStatusAll_flagged s0 s).clk_eq
@[simp] theorem noteStatusAll_rst (s0 s : State) : (noteStatusAll s0 s).rst = s.rst := (noteStatusAll_flagged s0 s).rst_eq
@[simp] theorem noteStatusAll_boot (s0 s : State) : (noteStatusAll s0 s).boot = s.boot := (noteStatusAll_flagged s0 s).boot_eq
@[simp] theorem noteStatusAll_fab (s0 s : State) : (noteStatusAll s0 s).fab = s.fab := (noteStatusAll_flagged s0 s).fab_eq
@[simp] theorem noteStatusAll_part (s0 s : State) : (noteStatusAll s0 s).part = s.part := (noteStatusAll_flagged s0 s).part_eq
@[simp] theorem noteStatusAll_chans (s0 s : State) : (noteStatusAll s0 s).chans = s.chans := (noteStatusAll_flagged s0 s).chans_eq
@[simp] theorem noteStatusAll_hbm (s0 s : State) : (noteStatusAll s0 s).hbm = s.hbm := (noteStatusAll_flagged s0 s).hbm_eq
@[simp] theorem noteStatusAll_eng (s0 s : State) : (noteStatusAll s0 s).eng = s.eng := (noteStatusAll_flagged s0 s).eng_eq
@[simp] theorem noteStatusAll_link (s0 s : State) : (noteStatusAll s0 s).link = s.link := (noteStatusAll_flagged s0 s).link_eq
@[simp] theorem noteStatusAll_hub (s0 s : State) : (noteStatusAll s0 s).hub = s.hub := (noteStatusAll_flagged s0 s).hub_eq
@[simp] theorem noteStatusAll_husk (s0 s : State) : (noteStatusAll s0 s).husk = s.husk := (noteStatusAll_flagged s0 s).husk_eq
@[simp] theorem noteStatusAll_pow (s0 s : State) : (noteStatusAll s0 s).pow = s.pow := (noteStatusAll_flagged s0 s).pow_eq
@[simp] theorem noteStatusAll_trace (s0 s : State) : (noteStatusAll s0 s).trace = s.trace := (noteStatusAll_flagged s0 s).trace_eq
@[simp] theorem noteStatusAll_hostOut (s0 s : State) : (noteStatusAll s0 s).hostOut = s.hostOut := (noteStatusAll_flagged s0 s).hostOut_eq
@[simp] theorem noteStatusAll_host_mb (s0 s : State) : (noteStatusAll s0 s).host.mb = s.host.mb := (noteStatusAll_flagged s0 s).mb_eq
@[simp] theorem noteStatusAll_host_upd (s0 s : State) : (noteStatusAll s0 s).host.upd = s.host.upd := (noteStatusAll_flagged s0 s).upd_eq
@[simp] theorem noteStatusAll_host_nextId (s0 s : State) : (noteStatusAll s0 s).host.nextId = s.host.nextId := (noteStatusAll_flagged s0 s).nextId_eq
@[simp] theorem noteStatusAll_host_turn (s0 s : State) : (noteStatusAll s0 s).host.turn = s.host.turn := (noteStatusAll_flagged s0 s).turn_eq
@[simp] theorem noteStatusAll_host_turnCount (s0 s : State) : (noteStatusAll s0 s).host.turnCount = s.host.turnCount := (noteStatusAll_flagged s0 s).turnCount_eq
@[simp] theorem noteStatusAll_host_readData (s0 s : State) : (noteStatusAll s0 s).host.readData = s.host.readData := (noteStatusAll_flagged s0 s).readData_eq
@[simp] theorem noteStatusAll_get_mb (s0 s : State) (j : Nat) : (noteStatusAll s0 s).mb j = s.mb j := congrArg (tget Mailbox.init · j) (noteStatusAll_flagged s0 s).mb_eq
@[simp] theorem noteStatus_pending (s0 s : State) (fn : Nat) : (noteStatus s0 s fn).pending = s.pending := (noteStatus_flagged s0 s fn).pending_eq
@[simp] theorem noteStatus_free (s0 s : State) (fn : Nat) : (noteStatus s0 s fn).free = s.free := (noteStatus_flagged s0 s fn).free_eq
@[simp] theorem noteStatus_time (s0 s : State) (fn : Nat) : (noteStatus s0 s fn).time = s.time := (noteStatus_flagged s0 s fn).time_eq
@[simp] theorem noteStatus_rootPhase (s0 s : State) (fn : Nat) : (noteStatus s0 s fn).rootPhase = s.rootPhase := (noteStatus_flagged s0 s fn).rootPhase_eq
@[simp] theorem noteStatus_faults (s0 s : State) (fn : Nat) : (noteStatus s0 s fn).faults = s.faults := (noteStatus_flagged s0 s fn).faults_eq
@[simp] theorem noteStatus_comp (s0 s : State) (fn : Nat) : (noteStatus s0 s fn).comp = s.comp := (noteStatus_flagged s0 s fn).comp_eq
@[simp] theorem noteStatus_jtag (s0 s : State) (fn : Nat) : (noteStatus s0 s fn).jtag = s.jtag := (noteStatus_flagged s0 s fn).jtag_eq
@[simp] theorem noteStatus_clk (s0 s : State) (fn : Nat) : (noteStatus s0 s fn).clk = s.clk := (noteStatus_flagged s0 s fn).clk_eq
@[simp] theorem noteStatus_rst (s0 s : State) (fn : Nat) : (noteStatus s0 s fn).rst = s.rst := (noteStatus_flagged s0 s fn).rst_eq
@[simp] theorem noteStatus_boot (s0 s : State) (fn : Nat) : (noteStatus s0 s fn).boot = s.boot := (noteStatus_flagged s0 s fn).boot_eq
@[simp] theorem noteStatus_fab (s0 s : State) (fn : Nat) : (noteStatus s0 s fn).fab = s.fab := (noteStatus_flagged s0 s fn).fab_eq
@[simp] theorem noteStatus_part (s0 s : State) (fn : Nat) : (noteStatus s0 s fn).part = s.part := (noteStatus_flagged s0 s fn).part_eq
@[simp] theorem noteStatus_chans (s0 s : State) (fn : Nat) : (noteStatus s0 s fn).chans = s.chans := (noteStatus_flagged s0 s fn).chans_eq
@[simp] theorem noteStatus_hbm (s0 s : State) (fn : Nat) : (noteStatus s0 s fn).hbm = s.hbm := (noteStatus_flagged s0 s fn).hbm_eq
@[simp] theorem noteStatus_eng (s0 s : State) (fn : Nat) : (noteStatus s0 s fn).eng = s.eng := (noteStatus_flagged s0 s fn).eng_eq
@[simp] theorem noteStatus_link (s0 s : State) (fn : Nat) : (noteStatus s0 s fn).link = s.link := (noteStatus_flagged s0 s fn).link_eq
@[simp] theorem noteStatus_hub (s0 s : State) (fn : Nat) : (noteStatus s0 s fn).hub = s.hub := (noteStatus_flagged s0 s fn).hub_eq
@[simp] theorem noteStatus_husk (s0 s : State) (fn : Nat) : (noteStatus s0 s fn).husk = s.husk := (noteStatus_flagged s0 s fn).husk_eq
@[simp] theorem noteStatus_pow (s0 s : State) (fn : Nat) : (noteStatus s0 s fn).pow = s.pow := (noteStatus_flagged s0 s fn).pow_eq
@[simp] theorem noteStatus_trace (s0 s : State) (fn : Nat) : (noteStatus s0 s fn).trace = s.trace := (noteStatus_flagged s0 s fn).trace_eq
@[simp] theorem noteStatus_hostOut (s0 s : State) (fn : Nat) : (noteStatus s0 s fn).hostOut = s.hostOut := (noteStatus_flagged s0 s fn).hostOut_eq
@[simp] theorem noteStatus_host_mb (s0 s : State) (fn : Nat) : (noteStatus s0 s fn).host.mb = s.host.mb := (noteStatus_flagged s0 s fn).mb_eq
@[simp] theorem noteStatus_host_upd (s0 s : State) (fn : Nat) : (noteStatus s0 s fn).host.upd = s.host.upd := (noteStatus_flagged s0 s fn).upd_eq
@[simp] theorem noteStatus_host_nextId (s0 s : State) (fn : Nat) : (noteStatus s0 s fn).host.nextId = s.host.nextId := (noteStatus_flagged s0 s fn).nextId_eq
@[simp] theorem noteStatus_host_turn (s0 s : State) (fn : Nat) : (noteStatus s0 s fn).host.turn = s.host.turn := (noteStatus_flagged s0 s fn).turn_eq
@[simp] theorem noteStatus_host_turnCount (s0 s : State) (fn : Nat) : (noteStatus s0 s fn).host.turnCount = s.host.turnCount := (noteStatus_flagged s0 s fn).turnCount_eq
@[simp] theorem noteStatus_host_readData (s0 s : State) (fn : Nat) : (noteStatus s0 s fn).host.readData = s.host.readData := (noteStatus_flagged s0 s fn).readData_eq
@[simp] theorem noteStatus_get_mb (s0 s : State) (fn : Nat) (j : Nat) : (noteStatus s0 s fn).mb j = s.mb j := congrArg (tget Mailbox.init · j) (noteStatus_flagged s0 s fn).mb_eq
@[simp] theorem updMb_pending (s : State) (fn : Nat) (m : Mailbox) : (updMb s fn m).pending = s.pending := (updMb_told s fn m).pending_eq
@[simp] theorem updMb_free (s : State) (fn : Nat) (m : Mailbox) : (updMb s fn m).free = s.free := (updMb_told s fn m).free_eq
@[simp] theorem updMb_time (s : State) (fn : Nat) (m : Mailbox) : (updMb s fn m).time = s.time := (updMb_told s fn m).time_eq
@[simp] theorem updMb_rootPhase (s : State) (fn : Nat) (m : Mailbox) : (updMb s fn m).rootPhase = s.rootPhase := (updMb_told s fn m).rootPhase_eq
@[simp] theorem updMb_faults (s : State) (fn : Nat) (m : Mailbox) : (updMb s fn m).faults = s.faults := (updMb_told s fn m).faults_eq
@[simp] theorem updMb_comp (s : State) (fn : Nat) (m : Mailbox) : (updMb s fn m).comp = s.comp := (updMb_told s fn m).comp_eq
@[simp] theorem updMb_jtag (s : State) (fn : Nat) (m : Mailbox) : (updMb s fn m).jtag = s.jtag := (updMb_told s fn m).jtag_eq
@[simp] theorem updMb_clk (s : State) (fn : Nat) (m : Mailbox) : (updMb s fn m).clk = s.clk := (updMb_told s fn m).clk_eq
@[simp] theorem updMb_rst (s : State) (fn : Nat) (m : Mailbox) : (updMb s fn m).rst = s.rst := (updMb_told s fn m).rst_eq
@[simp] theorem updMb_boot (s : State) (fn : Nat) (m : Mailbox) : (updMb s fn m).boot = s.boot := (updMb_told s fn m).boot_eq
@[simp] theorem updMb_fab (s : State) (fn : Nat) (m : Mailbox) : (updMb s fn m).fab = s.fab := (updMb_told s fn m).fab_eq
@[simp] theorem updMb_part (s : State) (fn : Nat) (m : Mailbox) : (updMb s fn m).part = s.part := (updMb_told s fn m).part_eq
@[simp] theorem updMb_chans (s : State) (fn : Nat) (m : Mailbox) : (updMb s fn m).chans = s.chans := (updMb_told s fn m).chans_eq
@[simp] theorem updMb_hbm (s : State) (fn : Nat) (m : Mailbox) : (updMb s fn m).hbm = s.hbm := (updMb_told s fn m).hbm_eq
@[simp] theorem updMb_eng (s : State) (fn : Nat) (m : Mailbox) : (updMb s fn m).eng = s.eng := (updMb_told s fn m).eng_eq
@[simp] theorem updMb_link (s : State) (fn : Nat) (m : Mailbox) : (updMb s fn m).link = s.link := (updMb_told s fn m).link_eq
@[simp] theorem updMb_hub (s : State) (fn : Nat) (m : Mailbox) : (updMb s fn m).hub = s.hub := (updMb_told s fn m).hub_eq
@[simp] theorem updMb_husk (s : State) (fn : Nat) (m : Mailbox) : (updMb s fn m).husk = s.husk := (updMb_told s fn m).husk_eq
@[simp] theorem updMb_pow (s : State) (fn : Nat) (m : Mailbox) : (updMb s fn m).pow = s.pow := (updMb_told s fn m).pow_eq
@[simp] theorem updMb_trace (s : State) (fn : Nat) (m : Mailbox) : (updMb s fn m).trace = s.trace := (updMb_told s fn m).trace_eq
@[simp] theorem updMb_hostOut (s : State) (fn : Nat) (m : Mailbox) : (updMb s fn m).hostOut = s.hostOut := (updMb_told s fn m).hostOut_eq
@[simp] theorem updMb_host_upd (s : State) (fn : Nat) (m : Mailbox) : (updMb s fn m).host.upd = s.host.upd := (updMb_told s fn m).upd_eq
@[simp] theorem updMb_host_nextId (s : State) (fn : Nat) (m : Mailbox) : (updMb s fn m).host.nextId = s.host.nextId := (updMb_told s fn m).nextId_eq
@[simp] theorem updMb_host_turn (s : State) (fn : Nat) (m : Mailbox) : (updMb s fn m).host.turn = s.host.turn := (updMb_told s fn m).turn_eq
@[simp] theorem updMb_host_turnCount (s : State) (fn : Nat) (m : Mailbox) : (updMb s fn m).host.turnCount = s.host.turnCount := (updMb_told s fn m).turnCount_eq
@[simp] theorem updMb_host_readData (s : State) (fn : Nat) (m : Mailbox) : (updMb s fn m).host.readData = s.host.readData := (updMb_told s fn m).readData_eq
@[simp] theorem raiseAt_pending (s : State) (fn : Nat) (e : Event) : (raiseAt s fn e).pending = s.pending := (raiseAt_told s fn e).pending_eq
@[simp] theorem raiseAt_free (s : State) (fn : Nat) (e : Event) : (raiseAt s fn e).free = s.free := (raiseAt_told s fn e).free_eq
@[simp] theorem raiseAt_time (s : State) (fn : Nat) (e : Event) : (raiseAt s fn e).time = s.time := (raiseAt_told s fn e).time_eq
@[simp] theorem raiseAt_rootPhase (s : State) (fn : Nat) (e : Event) : (raiseAt s fn e).rootPhase = s.rootPhase := (raiseAt_told s fn e).rootPhase_eq
@[simp] theorem raiseAt_faults (s : State) (fn : Nat) (e : Event) : (raiseAt s fn e).faults = s.faults := (raiseAt_told s fn e).faults_eq
@[simp] theorem raiseAt_comp (s : State) (fn : Nat) (e : Event) : (raiseAt s fn e).comp = s.comp := (raiseAt_told s fn e).comp_eq
@[simp] theorem raiseAt_jtag (s : State) (fn : Nat) (e : Event) : (raiseAt s fn e).jtag = s.jtag := (raiseAt_told s fn e).jtag_eq
@[simp] theorem raiseAt_clk (s : State) (fn : Nat) (e : Event) : (raiseAt s fn e).clk = s.clk := (raiseAt_told s fn e).clk_eq
@[simp] theorem raiseAt_rst (s : State) (fn : Nat) (e : Event) : (raiseAt s fn e).rst = s.rst := (raiseAt_told s fn e).rst_eq
@[simp] theorem raiseAt_boot (s : State) (fn : Nat) (e : Event) : (raiseAt s fn e).boot = s.boot := (raiseAt_told s fn e).boot_eq
@[simp] theorem raiseAt_fab (s : State) (fn : Nat) (e : Event) : (raiseAt s fn e).fab = s.fab := (raiseAt_told s fn e).fab_eq
@[simp] theorem raiseAt_part (s : State) (fn : Nat) (e : Event) : (raiseAt s fn e).part = s.part := (raiseAt_told s fn e).part_eq
@[simp] theorem raiseAt_chans (s : State) (fn : Nat) (e : Event) : (raiseAt s fn e).chans = s.chans := (raiseAt_told s fn e).chans_eq
@[simp] theorem raiseAt_hbm (s : State) (fn : Nat) (e : Event) : (raiseAt s fn e).hbm = s.hbm := (raiseAt_told s fn e).hbm_eq
@[simp] theorem raiseAt_eng (s : State) (fn : Nat) (e : Event) : (raiseAt s fn e).eng = s.eng := (raiseAt_told s fn e).eng_eq
@[simp] theorem raiseAt_link (s : State) (fn : Nat) (e : Event) : (raiseAt s fn e).link = s.link := (raiseAt_told s fn e).link_eq
@[simp] theorem raiseAt_hub (s : State) (fn : Nat) (e : Event) : (raiseAt s fn e).hub = s.hub := (raiseAt_told s fn e).hub_eq
@[simp] theorem raiseAt_husk (s : State) (fn : Nat) (e : Event) : (raiseAt s fn e).husk = s.husk := (raiseAt_told s fn e).husk_eq
@[simp] theorem raiseAt_pow (s : State) (fn : Nat) (e : Event) : (raiseAt s fn e).pow = s.pow := (raiseAt_told s fn e).pow_eq
@[simp] theorem raiseAt_trace (s : State) (fn : Nat) (e : Event) : (raiseAt s fn e).trace = s.trace := (raiseAt_told s fn e).trace_eq
@[simp] theorem raiseAt_hostOut (s : State) (fn : Nat) (e : Event) : (raiseAt s fn e).hostOut = s.hostOut := (raiseAt_told s fn e).hostOut_eq
@[simp] theorem raiseAt_host_upd (s : State) (fn : Nat) (e : Event) : (raiseAt s fn e).host.upd = s.host.upd := (raiseAt_told s fn e).upd_eq
@[simp] theorem raiseAt_host_nextId (s : State) (fn : Nat) (e : Event) : (raiseAt s fn e).host.nextId = s.host.nextId := (raiseAt_told s fn e).nextId_eq
@[simp] theorem raiseAt_host_turn (s : State) (fn : Nat) (e : Event) : (raiseAt s fn e).host.turn = s.host.turn := (raiseAt_told s fn e).turn_eq
@[simp] theorem raiseAt_host_turnCount (s : State) (fn : Nat) (e : Event) : (raiseAt s fn e).host.turnCount = s.host.turnCount := (raiseAt_told s fn e).turnCount_eq
@[simp] theorem raiseAt_host_readData (s : State) (fn : Nat) (e : Event) : (raiseAt s fn e).host.readData = s.host.readData := (raiseAt_told s fn e).readData_eq
@[simp] theorem flushEvents_pending (n : Nat) (s : State) (fn : Nat) : (flushEvents n s fn).pending = s.pending := (flushEvents_told n s fn).pending_eq
@[simp] theorem flushEvents_free (n : Nat) (s : State) (fn : Nat) : (flushEvents n s fn).free = s.free := (flushEvents_told n s fn).free_eq
@[simp] theorem flushEvents_time (n : Nat) (s : State) (fn : Nat) : (flushEvents n s fn).time = s.time := (flushEvents_told n s fn).time_eq
@[simp] theorem flushEvents_rootPhase (n : Nat) (s : State) (fn : Nat) : (flushEvents n s fn).rootPhase = s.rootPhase := (flushEvents_told n s fn).rootPhase_eq
@[simp] theorem flushEvents_faults (n : Nat) (s : State) (fn : Nat) : (flushEvents n s fn).faults = s.faults := (flushEvents_told n s fn).faults_eq
@[simp] theorem flushEvents_comp (n : Nat) (s : State) (fn : Nat) : (flushEvents n s fn).comp = s.comp := (flushEvents_told n s fn).comp_eq
@[simp] theorem flushEvents_jtag (n : Nat) (s : State) (fn : Nat) : (flushEvents n s fn).jtag = s.jtag := (flushEvents_told n s fn).jtag_eq
@[simp] theorem flushEvents_clk (n : Nat) (s : State) (fn : Nat) : (flushEvents n s fn).clk = s.clk := (flushEvents_told n s fn).clk_eq
@[simp] theorem flushEvents_rst (n : Nat) (s : State) (fn : Nat) : (flushEvents n s fn).rst = s.rst := (flushEvents_told n s fn).rst_eq
@[simp] theorem flushEvents_boot (n : Nat) (s : State) (fn : Nat) : (flushEvents n s fn).boot = s.boot := (flushEvents_told n s fn).boot_eq
@[simp] theorem flushEvents_fab (n : Nat) (s : State) (fn : Nat) : (flushEvents n s fn).fab = s.fab := (flushEvents_told n s fn).fab_eq
@[simp] theorem flushEvents_part (n : Nat) (s : State) (fn : Nat) : (flushEvents n s fn).part = s.part := (flushEvents_told n s fn).part_eq
@[simp] theorem flushEvents_chans (n : Nat) (s : State) (fn : Nat) : (flushEvents n s fn).chans = s.chans := (flushEvents_told n s fn).chans_eq
@[simp] theorem flushEvents_hbm (n : Nat) (s : State) (fn : Nat) : (flushEvents n s fn).hbm = s.hbm := (flushEvents_told n s fn).hbm_eq
@[simp] theorem flushEvents_eng (n : Nat) (s : State) (fn : Nat) : (flushEvents n s fn).eng = s.eng := (flushEvents_told n s fn).eng_eq
@[simp] theorem flushEvents_link (n : Nat) (s : State) (fn : Nat) : (flushEvents n s fn).link = s.link := (flushEvents_told n s fn).link_eq
@[simp] theorem flushEvents_hub (n : Nat) (s : State) (fn : Nat) : (flushEvents n s fn).hub = s.hub := (flushEvents_told n s fn).hub_eq
@[simp] theorem flushEvents_husk (n : Nat) (s : State) (fn : Nat) : (flushEvents n s fn).husk = s.husk := (flushEvents_told n s fn).husk_eq
@[simp] theorem flushEvents_pow (n : Nat) (s : State) (fn : Nat) : (flushEvents n s fn).pow = s.pow := (flushEvents_told n s fn).pow_eq
@[simp] theorem flushEvents_trace (n : Nat) (s : State) (fn : Nat) : (flushEvents n s fn).trace = s.trace := (flushEvents_told n s fn).trace_eq
@[simp] theorem flushEvents_hostOut (n : Nat) (s : State) (fn : Nat) : (flushEvents n s fn).hostOut = s.hostOut := (flushEvents_told n s fn).hostOut_eq
@[simp] theorem flushEvents_host_upd (n : Nat) (s : State) (fn : Nat) : (flushEvents n s fn).host.upd = s.host.upd := (flushEvents_told n s fn).upd_eq
@[simp] theorem flushEvents_host_nextId (n : Nat) (s : State) (fn : Nat) : (flushEvents n s fn).host.nextId = s.host.nextId := (flushEvents_told n s fn).nextId_eq
@[simp] theorem flushEvents_host_turn (n : Nat) (s : State) (fn : Nat) : (flushEvents n s fn).host.turn = s.host.turn := (flushEvents_told n s fn).turn_eq
@[simp] theorem flushEvents_host_turnCount (n : Nat) (s : State) (fn : Nat) : (flushEvents n s fn).host.turnCount = s.host.turnCount := (flushEvents_told n s fn).turnCount_eq
@[simp] theorem flushEvents_host_readData (n : Nat) (s : State) (fn : Nat) : (flushEvents n s fn).host.readData = s.host.readData := (flushEvents_told n s fn).readData_eq
@[simp] theorem eventPart_pending (s : State) (p code : Nat) (b : List Byte) : (eventPart s p code b).pending = s.pending := (eventPart_told s p code b).pending_eq
@[simp] theorem eventPart_free (s : State) (p code : Nat) (b : List Byte) : (eventPart s p code b).free = s.free := (eventPart_told s p code b).free_eq
@[simp] theorem eventPart_time (s : State) (p code : Nat) (b : List Byte) : (eventPart s p code b).time = s.time := (eventPart_told s p code b).time_eq
@[simp] theorem eventPart_rootPhase (s : State) (p code : Nat) (b : List Byte) : (eventPart s p code b).rootPhase = s.rootPhase := (eventPart_told s p code b).rootPhase_eq
@[simp] theorem eventPart_faults (s : State) (p code : Nat) (b : List Byte) : (eventPart s p code b).faults = s.faults := (eventPart_told s p code b).faults_eq
@[simp] theorem eventPart_comp (s : State) (p code : Nat) (b : List Byte) : (eventPart s p code b).comp = s.comp := (eventPart_told s p code b).comp_eq
@[simp] theorem eventPart_jtag (s : State) (p code : Nat) (b : List Byte) : (eventPart s p code b).jtag = s.jtag := (eventPart_told s p code b).jtag_eq
@[simp] theorem eventPart_clk (s : State) (p code : Nat) (b : List Byte) : (eventPart s p code b).clk = s.clk := (eventPart_told s p code b).clk_eq
@[simp] theorem eventPart_rst (s : State) (p code : Nat) (b : List Byte) : (eventPart s p code b).rst = s.rst := (eventPart_told s p code b).rst_eq
@[simp] theorem eventPart_boot (s : State) (p code : Nat) (b : List Byte) : (eventPart s p code b).boot = s.boot := (eventPart_told s p code b).boot_eq
@[simp] theorem eventPart_fab (s : State) (p code : Nat) (b : List Byte) : (eventPart s p code b).fab = s.fab := (eventPart_told s p code b).fab_eq
@[simp] theorem eventPart_part (s : State) (p code : Nat) (b : List Byte) : (eventPart s p code b).part = s.part := (eventPart_told s p code b).part_eq
@[simp] theorem eventPart_chans (s : State) (p code : Nat) (b : List Byte) : (eventPart s p code b).chans = s.chans := (eventPart_told s p code b).chans_eq
@[simp] theorem eventPart_hbm (s : State) (p code : Nat) (b : List Byte) : (eventPart s p code b).hbm = s.hbm := (eventPart_told s p code b).hbm_eq
@[simp] theorem eventPart_eng (s : State) (p code : Nat) (b : List Byte) : (eventPart s p code b).eng = s.eng := (eventPart_told s p code b).eng_eq
@[simp] theorem eventPart_link (s : State) (p code : Nat) (b : List Byte) : (eventPart s p code b).link = s.link := (eventPart_told s p code b).link_eq
@[simp] theorem eventPart_hub (s : State) (p code : Nat) (b : List Byte) : (eventPart s p code b).hub = s.hub := (eventPart_told s p code b).hub_eq
@[simp] theorem eventPart_husk (s : State) (p code : Nat) (b : List Byte) : (eventPart s p code b).husk = s.husk := (eventPart_told s p code b).husk_eq
@[simp] theorem eventPart_pow (s : State) (p code : Nat) (b : List Byte) : (eventPart s p code b).pow = s.pow := (eventPart_told s p code b).pow_eq
@[simp] theorem eventPart_trace (s : State) (p code : Nat) (b : List Byte) : (eventPart s p code b).trace = s.trace := (eventPart_told s p code b).trace_eq
@[simp] theorem eventPart_hostOut (s : State) (p code : Nat) (b : List Byte) : (eventPart s p code b).hostOut = s.hostOut := (eventPart_told s p code b).hostOut_eq
@[simp] theorem eventPart_host_upd (s : State) (p code : Nat) (b : List Byte) : (eventPart s p code b).host.upd = s.host.upd := (eventPart_told s p code b).upd_eq
@[simp] theorem eventPart_host_nextId (s : State) (p code : Nat) (b : List Byte) : (eventPart s p code b).host.nextId = s.host.nextId := (eventPart_told s p code b).nextId_eq
@[simp] theorem eventPart_host_turn (s : State) (p code : Nat) (b : List Byte) : (eventPart s p code b).host.turn = s.host.turn := (eventPart_told s p code b).turn_eq
@[simp] theorem eventPart_host_turnCount (s : State) (p code : Nat) (b : List Byte) : (eventPart s p code b).host.turnCount = s.host.turnCount := (eventPart_told s p code b).turnCount_eq
@[simp] theorem eventPart_host_readData (s : State) (p code : Nat) (b : List Byte) : (eventPart s p code b).host.readData = s.host.readData := (eventPart_told s p code b).readData_eq
@[simp] theorem eventDev_pending (s : State) (code : Nat) (b : List Byte) : (eventDev s code b).pending = s.pending := (eventDev_told s code b).pending_eq
@[simp] theorem eventDev_free (s : State) (code : Nat) (b : List Byte) : (eventDev s code b).free = s.free := (eventDev_told s code b).free_eq
@[simp] theorem eventDev_time (s : State) (code : Nat) (b : List Byte) : (eventDev s code b).time = s.time := (eventDev_told s code b).time_eq
@[simp] theorem eventDev_rootPhase (s : State) (code : Nat) (b : List Byte) : (eventDev s code b).rootPhase = s.rootPhase := (eventDev_told s code b).rootPhase_eq
@[simp] theorem eventDev_faults (s : State) (code : Nat) (b : List Byte) : (eventDev s code b).faults = s.faults := (eventDev_told s code b).faults_eq
@[simp] theorem eventDev_comp (s : State) (code : Nat) (b : List Byte) : (eventDev s code b).comp = s.comp := (eventDev_told s code b).comp_eq
@[simp] theorem eventDev_jtag (s : State) (code : Nat) (b : List Byte) : (eventDev s code b).jtag = s.jtag := (eventDev_told s code b).jtag_eq
@[simp] theorem eventDev_clk (s : State) (code : Nat) (b : List Byte) : (eventDev s code b).clk = s.clk := (eventDev_told s code b).clk_eq
@[simp] theorem eventDev_rst (s : State) (code : Nat) (b : List Byte) : (eventDev s code b).rst = s.rst := (eventDev_told s code b).rst_eq
@[simp] theorem eventDev_boot (s : State) (code : Nat) (b : List Byte) : (eventDev s code b).boot = s.boot := (eventDev_told s code b).boot_eq
@[simp] theorem eventDev_fab (s : State) (code : Nat) (b : List Byte) : (eventDev s code b).fab = s.fab := (eventDev_told s code b).fab_eq
@[simp] theorem eventDev_part (s : State) (code : Nat) (b : List Byte) : (eventDev s code b).part = s.part := (eventDev_told s code b).part_eq
@[simp] theorem eventDev_chans (s : State) (code : Nat) (b : List Byte) : (eventDev s code b).chans = s.chans := (eventDev_told s code b).chans_eq
@[simp] theorem eventDev_hbm (s : State) (code : Nat) (b : List Byte) : (eventDev s code b).hbm = s.hbm := (eventDev_told s code b).hbm_eq
@[simp] theorem eventDev_eng (s : State) (code : Nat) (b : List Byte) : (eventDev s code b).eng = s.eng := (eventDev_told s code b).eng_eq
@[simp] theorem eventDev_link (s : State) (code : Nat) (b : List Byte) : (eventDev s code b).link = s.link := (eventDev_told s code b).link_eq
@[simp] theorem eventDev_hub (s : State) (code : Nat) (b : List Byte) : (eventDev s code b).hub = s.hub := (eventDev_told s code b).hub_eq
@[simp] theorem eventDev_husk (s : State) (code : Nat) (b : List Byte) : (eventDev s code b).husk = s.husk := (eventDev_told s code b).husk_eq
@[simp] theorem eventDev_pow (s : State) (code : Nat) (b : List Byte) : (eventDev s code b).pow = s.pow := (eventDev_told s code b).pow_eq
@[simp] theorem eventDev_trace (s : State) (code : Nat) (b : List Byte) : (eventDev s code b).trace = s.trace := (eventDev_told s code b).trace_eq
@[simp] theorem eventDev_hostOut (s : State) (code : Nat) (b : List Byte) : (eventDev s code b).hostOut = s.hostOut := (eventDev_told s code b).hostOut_eq
@[simp] theorem eventDev_host_upd (s : State) (code : Nat) (b : List Byte) : (eventDev s code b).host.upd = s.host.upd := (eventDev_told s code b).upd_eq
@[simp] theorem eventDev_host_nextId (s : State) (code : Nat) (b : List Byte) : (eventDev s code b).host.nextId = s.host.nextId := (eventDev_told s code b).nextId_eq
@[simp] theorem eventDev_host_turn (s : State) (code : Nat) (b : List Byte) : (eventDev s code b).host.turn = s.host.turn := (eventDev_told s code b).turn_eq
@[simp] theorem eventDev_host_turnCount (s : State) (code : Nat) (b : List Byte) : (eventDev s code b).host.turnCount = s.host.turnCount := (eventDev_told s code b).turnCount_eq
@[simp] theorem eventDev_host_readData (s : State) (code : Nat) (b : List Byte) : (eventDev s code b).host.readData = s.host.readData := (eventDev_told s code b).readData_eq
@[simp] theorem eventAll_pending (s : State) (code : Nat) (b : List Byte) : (eventAll s code b).pending = s.pending := (eventAll_told s code b).pending_eq
@[simp] theorem eventAll_free (s : State) (code : Nat) (b : List Byte) : (eventAll s code b).free = s.free := (eventAll_told s code b).free_eq
@[simp] theorem eventAll_time (s : State) (code : Nat) (b : List Byte) : (eventAll s code b).time = s.time := (eventAll_told s code b).time_eq
@[simp] theorem eventAll_rootPhase (s : State) (code : Nat) (b : List Byte) : (eventAll s code b).rootPhase = s.rootPhase := (eventAll_told s code b).rootPhase_eq
@[simp] theorem eventAll_faults (s : State) (code : Nat) (b : List Byte) : (eventAll s code b).faults = s.faults := (eventAll_told s code b).faults_eq
@[simp] theorem eventAll_comp (s : State) (code : Nat) (b : List Byte) : (eventAll s code b).comp = s.comp := (eventAll_told s code b).comp_eq
@[simp] theorem eventAll_jtag (s : State) (code : Nat) (b : List Byte) : (eventAll s code b).jtag = s.jtag := (eventAll_told s code b).jtag_eq
@[simp] theorem eventAll_clk (s : State) (code : Nat) (b : List Byte) : (eventAll s code b).clk = s.clk := (eventAll_told s code b).clk_eq
@[simp] theorem eventAll_rst (s : State) (code : Nat) (b : List Byte) : (eventAll s code b).rst = s.rst := (eventAll_told s code b).rst_eq
@[simp] theorem eventAll_boot (s : State) (code : Nat) (b : List Byte) : (eventAll s code b).boot = s.boot := (eventAll_told s code b).boot_eq
@[simp] theorem eventAll_fab (s : State) (code : Nat) (b : List Byte) : (eventAll s code b).fab = s.fab := (eventAll_told s code b).fab_eq
@[simp] theorem eventAll_part (s : State) (code : Nat) (b : List Byte) : (eventAll s code b).part = s.part := (eventAll_told s code b).part_eq
@[simp] theorem eventAll_chans (s : State) (code : Nat) (b : List Byte) : (eventAll s code b).chans = s.chans := (eventAll_told s code b).chans_eq
@[simp] theorem eventAll_hbm (s : State) (code : Nat) (b : List Byte) : (eventAll s code b).hbm = s.hbm := (eventAll_told s code b).hbm_eq
@[simp] theorem eventAll_eng (s : State) (code : Nat) (b : List Byte) : (eventAll s code b).eng = s.eng := (eventAll_told s code b).eng_eq
@[simp] theorem eventAll_link (s : State) (code : Nat) (b : List Byte) : (eventAll s code b).link = s.link := (eventAll_told s code b).link_eq
@[simp] theorem eventAll_hub (s : State) (code : Nat) (b : List Byte) : (eventAll s code b).hub = s.hub := (eventAll_told s code b).hub_eq
@[simp] theorem eventAll_husk (s : State) (code : Nat) (b : List Byte) : (eventAll s code b).husk = s.husk := (eventAll_told s code b).husk_eq
@[simp] theorem eventAll_pow (s : State) (code : Nat) (b : List Byte) : (eventAll s code b).pow = s.pow := (eventAll_told s code b).pow_eq
@[simp] theorem eventAll_trace (s : State) (code : Nat) (b : List Byte) : (eventAll s code b).trace = s.trace := (eventAll_told s code b).trace_eq
@[simp] theorem eventAll_hostOut (s : State) (code : Nat) (b : List Byte) : (eventAll s code b).hostOut = s.hostOut := (eventAll_told s code b).hostOut_eq
@[simp] theorem eventAll_host_upd (s : State) (code : Nat) (b : List Byte) : (eventAll s code b).host.upd = s.host.upd := (eventAll_told s code b).upd_eq
@[simp] theorem eventAll_host_nextId (s : State) (code : Nat) (b : List Byte) : (eventAll s code b).host.nextId = s.host.nextId := (eventAll_told s code b).nextId_eq
@[simp] theorem eventAll_host_turn (s : State) (code : Nat) (b : List Byte) : (eventAll s code b).host.turn = s.host.turn := (eventAll_told s code b).turn_eq
@[simp] theorem eventAll_host_turnCount (s : State) (code : Nat) (b : List Byte) : (eventAll s code b).host.turnCount = s.host.turnCount := (eventAll_told s code b).turnCount_eq
@[simp] theorem eventAll_host_readData (s : State) (code : Nat) (b : List Byte) : (eventAll s code b).host.readData = s.host.readData := (eventAll_told s code b).readData_eq
@[simp] theorem endCmd_pending (s : State) (fn : Nat) (c : Consumed) (r : Result) : (endCmd s fn c r).pending = s.pending := (endCmd_told s fn c r).pending_eq
@[simp] theorem endCmd_free (s : State) (fn : Nat) (c : Consumed) (r : Result) : (endCmd s fn c r).free = s.free := (endCmd_told s fn c r).free_eq
@[simp] theorem endCmd_time (s : State) (fn : Nat) (c : Consumed) (r : Result) : (endCmd s fn c r).time = s.time := (endCmd_told s fn c r).time_eq
@[simp] theorem endCmd_rootPhase (s : State) (fn : Nat) (c : Consumed) (r : Result) : (endCmd s fn c r).rootPhase = s.rootPhase := (endCmd_told s fn c r).rootPhase_eq
@[simp] theorem endCmd_faults (s : State) (fn : Nat) (c : Consumed) (r : Result) : (endCmd s fn c r).faults = s.faults := (endCmd_told s fn c r).faults_eq
@[simp] theorem endCmd_comp (s : State) (fn : Nat) (c : Consumed) (r : Result) : (endCmd s fn c r).comp = s.comp := (endCmd_told s fn c r).comp_eq
@[simp] theorem endCmd_jtag (s : State) (fn : Nat) (c : Consumed) (r : Result) : (endCmd s fn c r).jtag = s.jtag := (endCmd_told s fn c r).jtag_eq
@[simp] theorem endCmd_clk (s : State) (fn : Nat) (c : Consumed) (r : Result) : (endCmd s fn c r).clk = s.clk := (endCmd_told s fn c r).clk_eq
@[simp] theorem endCmd_rst (s : State) (fn : Nat) (c : Consumed) (r : Result) : (endCmd s fn c r).rst = s.rst := (endCmd_told s fn c r).rst_eq
@[simp] theorem endCmd_boot (s : State) (fn : Nat) (c : Consumed) (r : Result) : (endCmd s fn c r).boot = s.boot := (endCmd_told s fn c r).boot_eq
@[simp] theorem endCmd_fab (s : State) (fn : Nat) (c : Consumed) (r : Result) : (endCmd s fn c r).fab = s.fab := (endCmd_told s fn c r).fab_eq
@[simp] theorem endCmd_part (s : State) (fn : Nat) (c : Consumed) (r : Result) : (endCmd s fn c r).part = s.part := (endCmd_told s fn c r).part_eq
@[simp] theorem endCmd_chans (s : State) (fn : Nat) (c : Consumed) (r : Result) : (endCmd s fn c r).chans = s.chans := (endCmd_told s fn c r).chans_eq
@[simp] theorem endCmd_hbm (s : State) (fn : Nat) (c : Consumed) (r : Result) : (endCmd s fn c r).hbm = s.hbm := (endCmd_told s fn c r).hbm_eq
@[simp] theorem endCmd_eng (s : State) (fn : Nat) (c : Consumed) (r : Result) : (endCmd s fn c r).eng = s.eng := (endCmd_told s fn c r).eng_eq
@[simp] theorem endCmd_link (s : State) (fn : Nat) (c : Consumed) (r : Result) : (endCmd s fn c r).link = s.link := (endCmd_told s fn c r).link_eq
@[simp] theorem endCmd_hub (s : State) (fn : Nat) (c : Consumed) (r : Result) : (endCmd s fn c r).hub = s.hub := (endCmd_told s fn c r).hub_eq
@[simp] theorem endCmd_husk (s : State) (fn : Nat) (c : Consumed) (r : Result) : (endCmd s fn c r).husk = s.husk := (endCmd_told s fn c r).husk_eq
@[simp] theorem endCmd_pow (s : State) (fn : Nat) (c : Consumed) (r : Result) : (endCmd s fn c r).pow = s.pow := (endCmd_told s fn c r).pow_eq
@[simp] theorem endCmd_trace (s : State) (fn : Nat) (c : Consumed) (r : Result) : (endCmd s fn c r).trace = s.trace := (endCmd_told s fn c r).trace_eq
@[simp] theorem endCmd_hostOut (s : State) (fn : Nat) (c : Consumed) (r : Result) : (endCmd s fn c r).hostOut = s.hostOut := (endCmd_told s fn c r).hostOut_eq
@[simp] theorem endCmd_host_upd (s : State) (fn : Nat) (c : Consumed) (r : Result) : (endCmd s fn c r).host.upd = s.host.upd := (endCmd_told s fn c r).upd_eq
@[simp] theorem endCmd_host_nextId (s : State) (fn : Nat) (c : Consumed) (r : Result) : (endCmd s fn c r).host.nextId = s.host.nextId := (endCmd_told s fn c r).nextId_eq
@[simp] theorem endCmd_host_turn (s : State) (fn : Nat) (c : Consumed) (r : Result) : (endCmd s fn c r).host.turn = s.host.turn := (endCmd_told s fn c r).turn_eq
@[simp] theorem endCmd_host_turnCount (s : State) (fn : Nat) (c : Consumed) (r : Result) : (endCmd s fn c r).host.turnCount = s.host.turnCount := (endCmd_told s fn c r).turnCount_eq
@[simp] theorem endCmd_host_readData (s : State) (fn : Nat) (c : Consumed) (r : Result) : (endCmd s fn c r).host.readData = s.host.readData := (endCmd_told s fn c r).readData_eq
@[simp] theorem drainRefusals_pending (n : Nat) (s : State) (fn : Nat) : (drainRefusals n s fn).pending = s.pending := (drainRefusals_told n s fn).pending_eq
@[simp] theorem drainRefusals_free (n : Nat) (s : State) (fn : Nat) : (drainRefusals n s fn).free = s.free := (drainRefusals_told n s fn).free_eq
@[simp] theorem drainRefusals_time (n : Nat) (s : State) (fn : Nat) : (drainRefusals n s fn).time = s.time := (drainRefusals_told n s fn).time_eq
@[simp] theorem drainRefusals_rootPhase (n : Nat) (s : State) (fn : Nat) : (drainRefusals n s fn).rootPhase = s.rootPhase := (drainRefusals_told n s fn).rootPhase_eq
@[simp] theorem drainRefusals_faults (n : Nat) (s : State) (fn : Nat) : (drainRefusals n s fn).faults = s.faults := (drainRefusals_told n s fn).faults_eq
@[simp] theorem drainRefusals_comp (n : Nat) (s : State) (fn : Nat) : (drainRefusals n s fn).comp = s.comp := (drainRefusals_told n s fn).comp_eq
@[simp] theorem drainRefusals_jtag (n : Nat) (s : State) (fn : Nat) : (drainRefusals n s fn).jtag = s.jtag := (drainRefusals_told n s fn).jtag_eq
@[simp] theorem drainRefusals_clk (n : Nat) (s : State) (fn : Nat) : (drainRefusals n s fn).clk = s.clk := (drainRefusals_told n s fn).clk_eq
@[simp] theorem drainRefusals_rst (n : Nat) (s : State) (fn : Nat) : (drainRefusals n s fn).rst = s.rst := (drainRefusals_told n s fn).rst_eq
@[simp] theorem drainRefusals_boot (n : Nat) (s : State) (fn : Nat) : (drainRefusals n s fn).boot = s.boot := (drainRefusals_told n s fn).boot_eq
@[simp] theorem drainRefusals_fab (n : Nat) (s : State) (fn : Nat) : (drainRefusals n s fn).fab = s.fab := (drainRefusals_told n s fn).fab_eq
@[simp] theorem drainRefusals_part (n : Nat) (s : State) (fn : Nat) : (drainRefusals n s fn).part = s.part := (drainRefusals_told n s fn).part_eq
@[simp] theorem drainRefusals_chans (n : Nat) (s : State) (fn : Nat) : (drainRefusals n s fn).chans = s.chans := (drainRefusals_told n s fn).chans_eq
@[simp] theorem drainRefusals_hbm (n : Nat) (s : State) (fn : Nat) : (drainRefusals n s fn).hbm = s.hbm := (drainRefusals_told n s fn).hbm_eq
@[simp] theorem drainRefusals_eng (n : Nat) (s : State) (fn : Nat) : (drainRefusals n s fn).eng = s.eng := (drainRefusals_told n s fn).eng_eq
@[simp] theorem drainRefusals_link (n : Nat) (s : State) (fn : Nat) : (drainRefusals n s fn).link = s.link := (drainRefusals_told n s fn).link_eq
@[simp] theorem drainRefusals_hub (n : Nat) (s : State) (fn : Nat) : (drainRefusals n s fn).hub = s.hub := (drainRefusals_told n s fn).hub_eq
@[simp] theorem drainRefusals_husk (n : Nat) (s : State) (fn : Nat) : (drainRefusals n s fn).husk = s.husk := (drainRefusals_told n s fn).husk_eq
@[simp] theorem drainRefusals_pow (n : Nat) (s : State) (fn : Nat) : (drainRefusals n s fn).pow = s.pow := (drainRefusals_told n s fn).pow_eq
@[simp] theorem drainRefusals_trace (n : Nat) (s : State) (fn : Nat) : (drainRefusals n s fn).trace = s.trace := (drainRefusals_told n s fn).trace_eq
@[simp] theorem drainRefusals_hostOut (n : Nat) (s : State) (fn : Nat) : (drainRefusals n s fn).hostOut = s.hostOut := (drainRefusals_told n s fn).hostOut_eq
@[simp] theorem drainRefusals_host_upd (n : Nat) (s : State) (fn : Nat) : (drainRefusals n s fn).host.upd = s.host.upd := (drainRefusals_told n s fn).upd_eq
@[simp] theorem drainRefusals_host_nextId (n : Nat) (s : State) (fn : Nat) : (drainRefusals n s fn).host.nextId = s.host.nextId := (drainRefusals_told n s fn).nextId_eq
@[simp] theorem drainRefusals_host_turn (n : Nat) (s : State) (fn : Nat) : (drainRefusals n s fn).host.turn = s.host.turn := (drainRefusals_told n s fn).turn_eq
@[simp] theorem drainRefusals_host_turnCount (n : Nat) (s : State) (fn : Nat) : (drainRefusals n s fn).host.turnCount = s.host.turnCount := (drainRefusals_told n s fn).turnCount_eq
@[simp] theorem drainRefusals_host_readData (n : Nat) (s : State) (fn : Nat) : (drainRefusals n s fn).host.readData = s.host.readData := (drainRefusals_told n s fn).readData_eq
@[simp] theorem finish_pending (s : State) (fn id : Nat) (r : Result) : (finish s fn id r).pending = s.pending := (finish_told s fn id r).pending_eq
@[simp] theorem finish_free (s : State) (fn id : Nat) (r : Result) : (finish s fn id r).free = s.free := (finish_told s fn id r).free_eq
@[simp] theorem finish_time (s : State) (fn id : Nat) (r : Result) : (finish s fn id r).time = s.time := (finish_told s fn id r).time_eq
@[simp] theorem finish_rootPhase (s : State) (fn id : Nat) (r : Result) : (finish s fn id r).rootPhase = s.rootPhase := (finish_told s fn id r).rootPhase_eq
@[simp] theorem finish_faults (s : State) (fn id : Nat) (r : Result) : (finish s fn id r).faults = s.faults := (finish_told s fn id r).faults_eq
@[simp] theorem finish_comp (s : State) (fn id : Nat) (r : Result) : (finish s fn id r).comp = s.comp := (finish_told s fn id r).comp_eq
@[simp] theorem finish_jtag (s : State) (fn id : Nat) (r : Result) : (finish s fn id r).jtag = s.jtag := (finish_told s fn id r).jtag_eq
@[simp] theorem finish_clk (s : State) (fn id : Nat) (r : Result) : (finish s fn id r).clk = s.clk := (finish_told s fn id r).clk_eq
@[simp] theorem finish_rst (s : State) (fn id : Nat) (r : Result) : (finish s fn id r).rst = s.rst := (finish_told s fn id r).rst_eq
@[simp] theorem finish_boot (s : State) (fn id : Nat) (r : Result) : (finish s fn id r).boot = s.boot := (finish_told s fn id r).boot_eq
@[simp] theorem finish_fab (s : State) (fn id : Nat) (r : Result) : (finish s fn id r).fab = s.fab := (finish_told s fn id r).fab_eq
@[simp] theorem finish_part (s : State) (fn id : Nat) (r : Result) : (finish s fn id r).part = s.part := (finish_told s fn id r).part_eq
@[simp] theorem finish_chans (s : State) (fn id : Nat) (r : Result) : (finish s fn id r).chans = s.chans := (finish_told s fn id r).chans_eq
@[simp] theorem finish_hbm (s : State) (fn id : Nat) (r : Result) : (finish s fn id r).hbm = s.hbm := (finish_told s fn id r).hbm_eq
@[simp] theorem finish_eng (s : State) (fn id : Nat) (r : Result) : (finish s fn id r).eng = s.eng := (finish_told s fn id r).eng_eq
@[simp] theorem finish_link (s : State) (fn id : Nat) (r : Result) : (finish s fn id r).link = s.link := (finish_told s fn id r).link_eq
@[simp] theorem finish_hub (s : State) (fn id : Nat) (r : Result) : (finish s fn id r).hub = s.hub := (finish_told s fn id r).hub_eq
@[simp] theorem finish_husk (s : State) (fn id : Nat) (r : Result) : (finish s fn id r).husk = s.husk := (finish_told s fn id r).husk_eq
@[simp] theorem finish_pow (s : State) (fn id : Nat) (r : Result) : (finish s fn id r).pow = s.pow := (finish_told s fn id r).pow_eq
@[simp] theorem finish_trace (s : State) (fn id : Nat) (r : Result) : (finish s fn id r).trace = s.trace := (finish_told s fn id r).trace_eq
@[simp] theorem finish_hostOut (s : State) (fn id : Nat) (r : Result) : (finish s fn id r).hostOut = s.hostOut := (finish_told s fn id r).hostOut_eq
@[simp] theorem finish_host_upd (s : State) (fn id : Nat) (r : Result) : (finish s fn id r).host.upd = s.host.upd := (finish_told s fn id r).upd_eq
@[simp] theorem finish_host_nextId (s : State) (fn id : Nat) (r : Result) : (finish s fn id r).host.nextId = s.host.nextId := (finish_told s fn id r).nextId_eq
@[simp] theorem finish_host_turn (s : State) (fn id : Nat) (r : Result) : (finish s fn id r).host.turn = s.host.turn := (finish_told s fn id r).turn_eq
@[simp] theorem finish_host_turnCount (s : State) (fn id : Nat) (r : Result) : (finish s fn id r).host.turnCount = s.host.turnCount := (finish_told s fn id r).turnCount_eq
@[simp] theorem finish_host_readData (s : State) (fn id : Nat) (r : Result) : (finish s fn id r).host.readData = s.host.readData := (finish_told s fn id r).readData_eq
@[simp] theorem finishSt_pending (s : State) (fn id st : Nat) : (finishSt s fn id st).pending = s.pending := (finishSt_told s fn id st).pending_eq
@[simp] theorem finishSt_free (s : State) (fn id st : Nat) : (finishSt s fn id st).free = s.free := (finishSt_told s fn id st).free_eq
@[simp] theorem finishSt_time (s : State) (fn id st : Nat) : (finishSt s fn id st).time = s.time := (finishSt_told s fn id st).time_eq
@[simp] theorem finishSt_rootPhase (s : State) (fn id st : Nat) : (finishSt s fn id st).rootPhase = s.rootPhase := (finishSt_told s fn id st).rootPhase_eq
@[simp] theorem finishSt_faults (s : State) (fn id st : Nat) : (finishSt s fn id st).faults = s.faults := (finishSt_told s fn id st).faults_eq
@[simp] theorem finishSt_comp (s : State) (fn id st : Nat) : (finishSt s fn id st).comp = s.comp := (finishSt_told s fn id st).comp_eq
@[simp] theorem finishSt_jtag (s : State) (fn id st : Nat) : (finishSt s fn id st).jtag = s.jtag := (finishSt_told s fn id st).jtag_eq
@[simp] theorem finishSt_clk (s : State) (fn id st : Nat) : (finishSt s fn id st).clk = s.clk := (finishSt_told s fn id st).clk_eq
@[simp] theorem finishSt_rst (s : State) (fn id st : Nat) : (finishSt s fn id st).rst = s.rst := (finishSt_told s fn id st).rst_eq
@[simp] theorem finishSt_boot (s : State) (fn id st : Nat) : (finishSt s fn id st).boot = s.boot := (finishSt_told s fn id st).boot_eq
@[simp] theorem finishSt_fab (s : State) (fn id st : Nat) : (finishSt s fn id st).fab = s.fab := (finishSt_told s fn id st).fab_eq
@[simp] theorem finishSt_part (s : State) (fn id st : Nat) : (finishSt s fn id st).part = s.part := (finishSt_told s fn id st).part_eq
@[simp] theorem finishSt_chans (s : State) (fn id st : Nat) : (finishSt s fn id st).chans = s.chans := (finishSt_told s fn id st).chans_eq
@[simp] theorem finishSt_hbm (s : State) (fn id st : Nat) : (finishSt s fn id st).hbm = s.hbm := (finishSt_told s fn id st).hbm_eq
@[simp] theorem finishSt_eng (s : State) (fn id st : Nat) : (finishSt s fn id st).eng = s.eng := (finishSt_told s fn id st).eng_eq
@[simp] theorem finishSt_link (s : State) (fn id st : Nat) : (finishSt s fn id st).link = s.link := (finishSt_told s fn id st).link_eq
@[simp] theorem finishSt_hub (s : State) (fn id st : Nat) : (finishSt s fn id st).hub = s.hub := (finishSt_told s fn id st).hub_eq
@[simp] theorem finishSt_husk (s : State) (fn id st : Nat) : (finishSt s fn id st).husk = s.husk := (finishSt_told s fn id st).husk_eq
@[simp] theorem finishSt_pow (s : State) (fn id st : Nat) : (finishSt s fn id st).pow = s.pow := (finishSt_told s fn id st).pow_eq
@[simp] theorem finishSt_trace (s : State) (fn id st : Nat) : (finishSt s fn id st).trace = s.trace := (finishSt_told s fn id st).trace_eq
@[simp] theorem finishSt_hostOut (s : State) (fn id st : Nat) : (finishSt s fn id st).hostOut = s.hostOut := (finishSt_told s fn id st).hostOut_eq
@[simp] theorem finishSt_host_upd (s : State) (fn id st : Nat) : (finishSt s fn id st).host.upd = s.host.upd := (finishSt_told s fn id st).upd_eq
@[simp] theorem finishSt_host_nextId (s : State) (fn id st : Nat) : (finishSt s fn id st).host.nextId = s.host.nextId := (finishSt_told s fn id st).nextId_eq
@[simp] theorem finishSt_host_turn (s : State) (fn id st : Nat) : (finishSt s fn id st).host.turn = s.host.turn := (finishSt_told s fn id st).turn_eq
@[simp] theorem finishSt_host_turnCount (s : State) (fn id st : Nat) : (finishSt s fn id st).host.turnCount = s.host.turnCount := (finishSt_told s fn id st).turnCount_eq
@[simp] theorem finishSt_host_readData (s : State) (fn id st : Nat) : (finishSt s fn id st).host.readData = s.host.readData := (finishSt_told s fn id st).readData_eq
@[simp] theorem finishOk_pending (s : State) (fn id : Nat) (b : List Byte) : (finishOk s fn id b).pending = s.pending := (finishOk_told s fn id b).pending_eq
@[simp] theorem finishOk_free (s : State) (fn id : Nat) (b : List Byte) : (finishOk s fn id b).free = s.free := (finishOk_told s fn id b).free_eq
@[simp] theorem finishOk_time (s : State) (fn id : Nat) (b : List Byte) : (finishOk s fn id b).time = s.time := (finishOk_told s fn id b).time_eq
@[simp] theorem finishOk_rootPhase (s : State) (fn id : Nat) (b : List Byte) : (finishOk s fn id b).rootPhase = s.rootPhase := (finishOk_told s fn id b).rootPhase_eq
@[simp] theorem finishOk_faults (s : State) (fn id : Nat) (b : List Byte) : (finishOk s fn id b).faults = s.faults := (finishOk_told s fn id b).faults_eq
@[simp] theorem finishOk_comp (s : State) (fn id : Nat) (b : List Byte) : (finishOk s fn id b).comp = s.comp := (finishOk_told s fn id b).comp_eq
@[simp] theorem finishOk_jtag (s : State) (fn id : Nat) (b : List Byte) : (finishOk s fn id b).jtag = s.jtag := (finishOk_told s fn id b).jtag_eq
@[simp] theorem finishOk_clk (s : State) (fn id : Nat) (b : List Byte) : (finishOk s fn id b).clk = s.clk := (finishOk_told s fn id b).clk_eq
@[simp] theorem finishOk_rst (s : State) (fn id : Nat) (b : List Byte) : (finishOk s fn id b).rst = s.rst := (finishOk_told s fn id b).rst_eq
@[simp] theorem finishOk_boot (s : State) (fn id : Nat) (b : List Byte) : (finishOk s fn id b).boot = s.boot := (finishOk_told s fn id b).boot_eq
@[simp] theorem finishOk_fab (s : State) (fn id : Nat) (b : List Byte) : (finishOk s fn id b).fab = s.fab := (finishOk_told s fn id b).fab_eq
@[simp] theorem finishOk_part (s : State) (fn id : Nat) (b : List Byte) : (finishOk s fn id b).part = s.part := (finishOk_told s fn id b).part_eq
@[simp] theorem finishOk_chans (s : State) (fn id : Nat) (b : List Byte) : (finishOk s fn id b).chans = s.chans := (finishOk_told s fn id b).chans_eq
@[simp] theorem finishOk_hbm (s : State) (fn id : Nat) (b : List Byte) : (finishOk s fn id b).hbm = s.hbm := (finishOk_told s fn id b).hbm_eq
@[simp] theorem finishOk_eng (s : State) (fn id : Nat) (b : List Byte) : (finishOk s fn id b).eng = s.eng := (finishOk_told s fn id b).eng_eq
@[simp] theorem finishOk_link (s : State) (fn id : Nat) (b : List Byte) : (finishOk s fn id b).link = s.link := (finishOk_told s fn id b).link_eq
@[simp] theorem finishOk_hub (s : State) (fn id : Nat) (b : List Byte) : (finishOk s fn id b).hub = s.hub := (finishOk_told s fn id b).hub_eq
@[simp] theorem finishOk_husk (s : State) (fn id : Nat) (b : List Byte) : (finishOk s fn id b).husk = s.husk := (finishOk_told s fn id b).husk_eq
@[simp] theorem finishOk_pow (s : State) (fn id : Nat) (b : List Byte) : (finishOk s fn id b).pow = s.pow := (finishOk_told s fn id b).pow_eq
@[simp] theorem finishOk_trace (s : State) (fn id : Nat) (b : List Byte) : (finishOk s fn id b).trace = s.trace := (finishOk_told s fn id b).trace_eq
@[simp] theorem finishOk_hostOut (s : State) (fn id : Nat) (b : List Byte) : (finishOk s fn id b).hostOut = s.hostOut := (finishOk_told s fn id b).hostOut_eq
@[simp] theorem finishOk_host_upd (s : State) (fn id : Nat) (b : List Byte) : (finishOk s fn id b).host.upd = s.host.upd := (finishOk_told s fn id b).upd_eq
@[simp] theorem finishOk_host_nextId (s : State) (fn id : Nat) (b : List Byte) : (finishOk s fn id b).host.nextId = s.host.nextId := (finishOk_told s fn id b).nextId_eq
@[simp] theorem finishOk_host_turn (s : State) (fn id : Nat) (b : List Byte) : (finishOk s fn id b).host.turn = s.host.turn := (finishOk_told s fn id b).turn_eq
@[simp] theorem finishOk_host_turnCount (s : State) (fn id : Nat) (b : List Byte) : (finishOk s fn id b).host.turnCount = s.host.turnCount := (finishOk_told s fn id b).turnCount_eq
@[simp] theorem finishOk_host_readData (s : State) (fn id : Nat) (b : List Byte) : (finishOk s fn id b).host.readData = s.host.readData := (finishOk_told s fn id b).readData_eq
@[simp] theorem accept_pending (s : State) (fn id : Nat) : (accept s fn id).pending = s.pending := (accept_told s fn id).pending_eq
@[simp] theorem accept_free (s : State) (fn id : Nat) : (accept s fn id).free = s.free := (accept_told s fn id).free_eq
@[simp] theorem accept_time (s : State) (fn id : Nat) : (accept s fn id).time = s.time := (accept_told s fn id).time_eq
@[simp] theorem accept_rootPhase (s : State) (fn id : Nat) : (accept s fn id).rootPhase = s.rootPhase := (accept_told s fn id).rootPhase_eq
@[simp] theorem accept_faults (s : State) (fn id : Nat) : (accept s fn id).faults = s.faults := (accept_told s fn id).faults_eq
@[simp] theorem accept_comp (s : State) (fn id : Nat) : (accept s fn id).comp = s.comp := (accept_told s fn id).comp_eq
@[simp] theorem accept_jtag (s : State) (fn id : Nat) : (accept s fn id).jtag = s.jtag := (accept_told s fn id).jtag_eq
@[simp] theorem accept_clk (s : State) (fn id : Nat) : (accept s fn id).clk = s.clk := (accept_told s fn id).clk_eq
@[simp] theorem accept_rst (s : State) (fn id : Nat) : (accept s fn id).rst = s.rst := (accept_told s fn id).rst_eq
@[simp] theorem accept_boot (s : State) (fn id : Nat) : (accept s fn id).boot = s.boot := (accept_told s fn id).boot_eq
@[simp] theorem accept_fab (s : State) (fn id : Nat) : (accept s fn id).fab = s.fab := (accept_told s fn id).fab_eq
@[simp] theorem accept_part (s : State) (fn id : Nat) : (accept s fn id).part = s.part := (accept_told s fn id).part_eq
@[simp] theorem accept_chans (s : State) (fn id : Nat) : (accept s fn id).chans = s.chans := (accept_told s fn id).chans_eq
@[simp] theorem accept_hbm (s : State) (fn id : Nat) : (accept s fn id).hbm = s.hbm := (accept_told s fn id).hbm_eq
@[simp] theorem accept_eng (s : State) (fn id : Nat) : (accept s fn id).eng = s.eng := (accept_told s fn id).eng_eq
@[simp] theorem accept_link (s : State) (fn id : Nat) : (accept s fn id).link = s.link := (accept_told s fn id).link_eq
@[simp] theorem accept_hub (s : State) (fn id : Nat) : (accept s fn id).hub = s.hub := (accept_told s fn id).hub_eq
@[simp] theorem accept_husk (s : State) (fn id : Nat) : (accept s fn id).husk = s.husk := (accept_told s fn id).husk_eq
@[simp] theorem accept_pow (s : State) (fn id : Nat) : (accept s fn id).pow = s.pow := (accept_told s fn id).pow_eq
@[simp] theorem accept_trace (s : State) (fn id : Nat) : (accept s fn id).trace = s.trace := (accept_told s fn id).trace_eq
@[simp] theorem accept_hostOut (s : State) (fn id : Nat) : (accept s fn id).hostOut = s.hostOut := (accept_told s fn id).hostOut_eq
@[simp] theorem accept_host_upd (s : State) (fn id : Nat) : (accept s fn id).host.upd = s.host.upd := (accept_told s fn id).upd_eq
@[simp] theorem accept_host_nextId (s : State) (fn id : Nat) : (accept s fn id).host.nextId = s.host.nextId := (accept_told s fn id).nextId_eq
@[simp] theorem accept_host_turn (s : State) (fn id : Nat) : (accept s fn id).host.turn = s.host.turn := (accept_told s fn id).turn_eq
@[simp] theorem accept_host_turnCount (s : State) (fn id : Nat) : (accept s fn id).host.turnCount = s.host.turnCount := (accept_told s fn id).turnCount_eq
@[simp] theorem accept_host_readData (s : State) (fn id : Nat) : (accept s fn id).host.readData = s.host.readData := (accept_told s fn id).readData_eq
@[simp] theorem begun_pending (s : State) (fn id : Nat) : (begun s fn id).pending = s.pending := (begun_told s fn id).pending_eq
@[simp] theorem begun_free (s : State) (fn id : Nat) : (begun s fn id).free = s.free := (begun_told s fn id).free_eq
@[simp] theorem begun_time (s : State) (fn id : Nat) : (begun s fn id).time = s.time := (begun_told s fn id).time_eq
@[simp] theorem begun_rootPhase (s : State) (fn id : Nat) : (begun s fn id).rootPhase = s.rootPhase := (begun_told s fn id).rootPhase_eq
@[simp] theorem begun_faults (s : State) (fn id : Nat) : (begun s fn id).faults = s.faults := (begun_told s fn id).faults_eq
@[simp] theorem begun_comp (s : State) (fn id : Nat) : (begun s fn id).comp = s.comp := (begun_told s fn id).comp_eq
@[simp] theorem begun_jtag (s : State) (fn id : Nat) : (begun s fn id).jtag = s.jtag := (begun_told s fn id).jtag_eq
@[simp] theorem begun_clk (s : State) (fn id : Nat) : (begun s fn id).clk = s.clk := (begun_told s fn id).clk_eq
@[simp] theorem begun_rst (s : State) (fn id : Nat) : (begun s fn id).rst = s.rst := (begun_told s fn id).rst_eq
@[simp] theorem begun_boot (s : State) (fn id : Nat) : (begun s fn id).boot = s.boot := (begun_told s fn id).boot_eq
@[simp] theorem begun_fab (s : State) (fn id : Nat) : (begun s fn id).fab = s.fab := (begun_told s fn id).fab_eq
@[simp] theorem begun_part (s : State) (fn id : Nat) : (begun s fn id).part = s.part := (begun_told s fn id).part_eq
@[simp] theorem begun_chans (s : State) (fn id : Nat) : (begun s fn id).chans = s.chans := (begun_told s fn id).chans_eq
@[simp] theorem begun_hbm (s : State) (fn id : Nat) : (begun s fn id).hbm = s.hbm := (begun_told s fn id).hbm_eq
@[simp] theorem begun_eng (s : State) (fn id : Nat) : (begun s fn id).eng = s.eng := (begun_told s fn id).eng_eq
@[simp] theorem begun_link (s : State) (fn id : Nat) : (begun s fn id).link = s.link := (begun_told s fn id).link_eq
@[simp] theorem begun_hub (s : State) (fn id : Nat) : (begun s fn id).hub = s.hub := (begun_told s fn id).hub_eq
@[simp] theorem begun_husk (s : State) (fn id : Nat) : (begun s fn id).husk = s.husk := (begun_told s fn id).husk_eq
@[simp] theorem begun_pow (s : State) (fn id : Nat) : (begun s fn id).pow = s.pow := (begun_told s fn id).pow_eq
@[simp] theorem begun_trace (s : State) (fn id : Nat) : (begun s fn id).trace = s.trace := (begun_told s fn id).trace_eq
@[simp] theorem begun_hostOut (s : State) (fn id : Nat) : (begun s fn id).hostOut = s.hostOut := (begun_told s fn id).hostOut_eq
@[simp] theorem begun_host_upd (s : State) (fn id : Nat) : (begun s fn id).host.upd = s.host.upd := (begun_told s fn id).upd_eq
@[simp] theorem begun_host_nextId (s : State) (fn id : Nat) : (begun s fn id).host.nextId = s.host.nextId := (begun_told s fn id).nextId_eq
@[simp] theorem begun_host_turn (s : State) (fn id : Nat) : (begun s fn id).host.turn = s.host.turn := (begun_told s fn id).turn_eq
@[simp] theorem begun_host_turnCount (s : State) (fn id : Nat) : (begun s fn id).host.turnCount = s.host.turnCount := (begun_told s fn id).turnCount_eq
@[simp] theorem begun_host_readData (s : State) (fn id : Nat) : (begun s fn id).host.readData = s.host.readData := (begun_told s fn id).readData_eq
@[simp] theorem workDone_pending (s : State) (fn id : Nat) (r : Result) : (workDone s fn id r).pending = s.pending := (workDone_told s fn id r).pending_eq
@[simp] theorem workDone_free (s : State) (fn id : Nat) (r : Result) : (workDone s fn id r).free = s.free := (workDone_told s fn id r).free_eq
@[simp] theorem workDone_time (s : State) (fn id : Nat) (r : Result) : (workDone s fn id r).time = s.time := (workDone_told s fn id r).time_eq
@[simp] theorem workDone_rootPhase (s : State) (fn id : Nat) (r : Result) : (workDone s fn id r).rootPhase = s.rootPhase := (workDone_told s fn id r).rootPhase_eq
@[simp] theorem workDone_faults (s : State) (fn id : Nat) (r : Result) : (workDone s fn id r).faults = s.faults := (workDone_told s fn id r).faults_eq
@[simp] theorem workDone_comp (s : State) (fn id : Nat) (r : Result) : (workDone s fn id r).comp = s.comp := (workDone_told s fn id r).comp_eq
@[simp] theorem workDone_jtag (s : State) (fn id : Nat) (r : Result) : (workDone s fn id r).jtag = s.jtag := (workDone_told s fn id r).jtag_eq
@[simp] theorem workDone_clk (s : State) (fn id : Nat) (r : Result) : (workDone s fn id r).clk = s.clk := (workDone_told s fn id r).clk_eq
@[simp] theorem workDone_rst (s : State) (fn id : Nat) (r : Result) : (workDone s fn id r).rst = s.rst := (workDone_told s fn id r).rst_eq
@[simp] theorem workDone_boot (s : State) (fn id : Nat) (r : Result) : (workDone s fn id r).boot = s.boot := (workDone_told s fn id r).boot_eq
@[simp] theorem workDone_fab (s : State) (fn id : Nat) (r : Result) : (workDone s fn id r).fab = s.fab := (workDone_told s fn id r).fab_eq
@[simp] theorem workDone_part (s : State) (fn id : Nat) (r : Result) : (workDone s fn id r).part = s.part := (workDone_told s fn id r).part_eq
@[simp] theorem workDone_chans (s : State) (fn id : Nat) (r : Result) : (workDone s fn id r).chans = s.chans := (workDone_told s fn id r).chans_eq
@[simp] theorem workDone_hbm (s : State) (fn id : Nat) (r : Result) : (workDone s fn id r).hbm = s.hbm := (workDone_told s fn id r).hbm_eq
@[simp] theorem workDone_eng (s : State) (fn id : Nat) (r : Result) : (workDone s fn id r).eng = s.eng := (workDone_told s fn id r).eng_eq
@[simp] theorem workDone_link (s : State) (fn id : Nat) (r : Result) : (workDone s fn id r).link = s.link := (workDone_told s fn id r).link_eq
@[simp] theorem workDone_hub (s : State) (fn id : Nat) (r : Result) : (workDone s fn id r).hub = s.hub := (workDone_told s fn id r).hub_eq
@[simp] theorem workDone_husk (s : State) (fn id : Nat) (r : Result) : (workDone s fn id r).husk = s.husk := (workDone_told s fn id r).husk_eq
@[simp] theorem workDone_pow (s : State) (fn id : Nat) (r : Result) : (workDone s fn id r).pow = s.pow := (workDone_told s fn id r).pow_eq
@[simp] theorem workDone_trace (s : State) (fn id : Nat) (r : Result) : (workDone s fn id r).trace = s.trace := (workDone_told s fn id r).trace_eq
@[simp] theorem workDone_hostOut (s : State) (fn id : Nat) (r : Result) : (workDone s fn id r).hostOut = s.hostOut := (workDone_told s fn id r).hostOut_eq
@[simp] theorem workDone_host_upd (s : State) (fn id : Nat) (r : Result) : (workDone s fn id r).host.upd = s.host.upd := (workDone_told s fn id r).upd_eq
@[simp] theorem workDone_host_nextId (s : State) (fn id : Nat) (r : Result) : (workDone s fn id r).host.nextId = s.host.nextId := (workDone_told s fn id r).nextId_eq
@[simp] theorem workDone_host_turn (s : State) (fn id : Nat) (r : Result) : (workDone s fn id r).host.turn = s.host.turn := (workDone_told s fn id r).turn_eq
@[simp] theorem workDone_host_turnCount (s : State) (fn id : Nat) (r : Result) : (workDone s fn id r).host.turnCount = s.host.turnCount := (workDone_told s fn id r).turnCount_eq
@[simp] theorem workDone_host_readData (s : State) (fn id : Nat) (r : Result) : (workDone s fn id r).host.readData = s.host.readData := (workDone_told s fn id r).readData_eq
@[simp] theorem noteThrottle_pending (s0 s : State) : (noteThrottle s0 s).pending = s.pending := (noteThrottle_traced s0 s).pending_eq
@[simp] theorem noteThrottle_free (s0 s : State) : (noteThrottle s0 s).free = s.free := (noteThrottle_traced s0 s).free_eq
@[simp] theorem noteThrottle_time (s0 s : State) : (noteThrottle s0 s).time = s.time := (noteThrottle_traced s0 s).time_eq
@[simp] theorem noteThrottle_rootPhase (s0 s : State) : (noteThrottle s0 s).rootPhase = s.rootPhase := (noteThrottle_traced s0 s).rootPhase_eq
@[simp] theorem noteThrottle_host (s0 s : State) : (noteThrottle s0 s).host = s.host := (noteThrottle_traced s0 s).host_eq
@[simp] theorem noteThrottle_faults (s0 s : State) : (noteThrottle s0 s).faults = s.faults := (noteThrottle_traced s0 s).faults_eq
@[simp] theorem noteThrottle_comp (s0 s : State) : (noteThrottle s0 s).comp = s.comp := (noteThrottle_traced s0 s).comp_eq
@[simp] theorem noteThrottle_jtag (s0 s : State) : (noteThrottle s0 s).jtag = s.jtag := (noteThrottle_traced s0 s).jtag_eq
@[simp] theorem noteThrottle_clk (s0 s : State) : (noteThrottle s0 s).clk = s.clk := (noteThrottle_traced s0 s).clk_eq
@[simp] theorem noteThrottle_rst (s0 s : State) : (noteThrottle s0 s).rst = s.rst := (noteThrottle_traced s0 s).rst_eq
@[simp] theorem noteThrottle_boot (s0 s : State) : (noteThrottle s0 s).boot = s.boot := (noteThrottle_traced s0 s).boot_eq
@[simp] theorem noteThrottle_fab (s0 s : State) : (noteThrottle s0 s).fab = s.fab := (noteThrottle_traced s0 s).fab_eq
@[simp] theorem noteThrottle_part (s0 s : State) : (noteThrottle s0 s).part = s.part := (noteThrottle_traced s0 s).part_eq
@[simp] theorem noteThrottle_chans (s0 s : State) : (noteThrottle s0 s).chans = s.chans := (noteThrottle_traced s0 s).chans_eq
@[simp] theorem noteThrottle_hbm (s0 s : State) : (noteThrottle s0 s).hbm = s.hbm := (noteThrottle_traced s0 s).hbm_eq
@[simp] theorem noteThrottle_eng (s0 s : State) : (noteThrottle s0 s).eng = s.eng := (noteThrottle_traced s0 s).eng_eq
@[simp] theorem noteThrottle_link (s0 s : State) : (noteThrottle s0 s).link = s.link := (noteThrottle_traced s0 s).link_eq
@[simp] theorem noteThrottle_hub (s0 s : State) : (noteThrottle s0 s).hub = s.hub := (noteThrottle_traced s0 s).hub_eq
@[simp] theorem noteThrottle_husk (s0 s : State) : (noteThrottle s0 s).husk = s.husk := (noteThrottle_traced s0 s).husk_eq
@[simp] theorem noteThrottle_pow (s0 s : State) : (noteThrottle s0 s).pow = s.pow := (noteThrottle_traced s0 s).pow_eq
@[simp] theorem noteThrottle_hostOut (s0 s : State) : (noteThrottle s0 s).hostOut = s.hostOut := (noteThrottle_traced s0 s).hostOut_eq

end Sys2Proof.Machine
end

