-- ==== Sys2Proof/Laws/Chan.lean ====
section
/-! SUPPORT. What the loss of channel ends can change: the channels, the link's queues, mailboxes and interrupt state. -/

namespace Sys2Proof.Machine

/-- `t` is `s` but for the channels, the link, the mailboxes and the functions' registers. -/
def Parted (s t : State) : Prop :=
  t = { s with host := { s.host with mb := t.host.mb, fn := t.host.fn }, chans := t.chans, link := t.link }
theorem Parted.refl (s : State) : Parted s s := rfl
theorem Parted.trans {s t u : State} (a : Parted s t) (b : Parted t u) : Parted s u := by
  unfold Parted at *; rw [b, a]
theorem Told.parted {s t : State} (a : Told s t) : Parted s t := by
  unfold Told at a; unfold Parted; rw [a]
theorem parted_foldl {α : Type} {f : State → α → State} (h : ∀ s a, Parted s (f s a)) : ∀ (l : List α) (s : State), Parted s (l.foldl f s)
  | [], s => Parted.refl s
  | a :: r, s => (h s a).trans (parted_foldl h r (f s a))
theorem ite_parted {c : Prop} [Decidable c] {s t u : State} (a : Parted s t) (b : Parted s u) : Parted s (if c then t else u) := by
  split; exacts [a, b]
theorem sendMsg_parted (s : State) (dst part chan : Nat) (b : List Byte) : Parted s (sendMsg s dst part chan b) := by
  unfold sendMsg; split
  · exact Parted.refl s
  · dsimp only; split; exacts [Parted.refl s, rfl]
theorem chanEvent_told (s : State) (k code : Nat) (c : Chan) (b : List Byte) : Told s (chanEvent s k code c b) :=
  told_foldl (fun s fn => raiseAt_told s fn _) _ s
theorem closedEvent_told (s : State) (k : Nat) (c : Chan) (cause st : Nat) : Told s (closedEvent s k c cause st) := chanEvent_told s k _ c _
theorem portIrq_told (s : State) (e : Endpoint) (b : Nat) : Told s (portIrq s e b) := by
  unfold portIrq; split; exacts [(raiseVec_flagged s _ 3).told, Told.refl s]
theorem loseEnds_parted (s : State) (k : Nat) (gs gr : Bool) (cause : Nat) : Parted s (loseEnds s k gs gr cause) := by
  unfold loseEnds; dsimp only
  have h : ∀ (b : Bool) (c : Chan), Parted s (if b = true then sendClose s k c cause else s) := fun b c => by
    split; exacts [sendMsg_parted s _ _ _ _, Parted.refl s]
  have g : ∀ (t : State) (c : Chan), Parted s t → Parted s (t.setChan k c) := fun t c a => a.trans rfl
  refine ite_parted (Parted.refl s) (ite_parted ((h _ _).trans rfl) (ite_parted (g _ _ (h _ _)) ?_))
  exact (g _ _ (h _ _)).trans ((portIrq_told _ _ _).trans (closedEvent_told _ _ _ _ _)).parted
theorem loseWhere_parted (s : State) (p : Endpoint → Bool) (cause : Nat) : Parted s (loseWhere s p cause) :=
  parted_foldl (fun s _ => loseEnds_parted s _ _ _ cause) _ s
theorem Parted.pending_eq {s t : State} (h : Parted s t) : t.pending = s.pending := (congrArg State.pending h :)
@[simp] theorem loseWhere_pending (s : State) (p : Endpoint → Bool) (cause : Nat) : (loseWhere s p cause).pending = s.pending := (loseWhere_parted s p cause).pending_eq
theorem Parted.free_eq {s t : State} (h : Parted s t) : t.free = s.free := (congrArg State.free h :)
@[simp] theorem loseWhere_free (s : State) (p : Endpoint → Bool) (cause : Nat) : (loseWhere s p cause).free = s.free := (loseWhere_parted s p cause).free_eq
theorem Parted.time_eq {s t : State} (h : Parted s t) : t.time = s.time := (congrArg State.time h :)
@[simp] theorem loseWhere_time (s : State) (p : Endpoint → Bool) (cause : Nat) : (loseWhere s p cause).time = s.time := (loseWhere_parted s p cause).time_eq
theorem Parted.rootPhase_eq {s t : State} (h : Parted s t) : t.rootPhase = s.rootPhase := (congrArg State.rootPhase h :)
@[simp] theorem loseWhere_rootPhase (s : State) (p : Endpoint → Bool) (cause : Nat) : (loseWhere s p cause).rootPhase = s.rootPhase := (loseWhere_parted s p cause).rootPhase_eq
theorem Parted.faults_eq {s t : State} (h : Parted s t) : t.faults = s.faults := (congrArg State.faults h :)
@[simp] theorem loseWhere_faults (s : State) (p : Endpoint → Bool) (cause : Nat) : (loseWhere s p cause).faults = s.faults := (loseWhere_parted s p cause).faults_eq
theorem Parted.comp_eq {s t : State} (h : Parted s t) : t.comp = s.comp := (congrArg State.comp h :)
@[simp] theorem loseWhere_comp (s : State) (p : Endpoint → Bool) (cause : Nat) : (loseWhere s p cause).comp = s.comp := (loseWhere_parted s p cause).comp_eq
theorem Parted.jtag_eq {s t : State} (h : Parted s t) : t.jtag = s.jtag := (congrArg State.jtag h :)
@[simp] theorem loseWhere_jtag (s : State) (p : Endpoint → Bool) (cause : Nat) : (loseWhere s p cause).jtag = s.jtag := (loseWhere_parted s p cause).jtag_eq
theorem Parted.clk_eq {s t : State} (h : Parted s t) : t.clk = s.clk := (congrArg State.clk h :)
@[simp] theorem loseWhere_clk (s : State) (p : Endpoint → Bool) (cause : Nat) : (loseWhere s p cause).clk = s.clk := (loseWhere_parted s p cause).clk_eq
theorem Parted.rst_eq {s t : State} (h : Parted s t) : t.rst = s.rst := (congrArg State.rst h :)
@[simp] theorem loseWhere_rst (s : State) (p : Endpoint → Bool) (cause : Nat) : (loseWhere s p cause).rst = s.rst := (loseWhere_parted s p cause).rst_eq
theorem Parted.boot_eq {s t : State} (h : Parted s t) : t.boot = s.boot := (congrArg State.boot h :)
@[simp] theorem loseWhere_boot (s : State) (p : Endpoint → Bool) (cause : Nat) : (loseWhere s p cause).boot = s.boot := (loseWhere_parted s p cause).boot_eq
theorem Parted.fab_eq {s t : State} (h : Parted s t) : t.fab = s.fab := (congrArg State.fab h :)
@[simp] theorem loseWhere_fab (s : State) (p : Endpoint → Bool) (cause : Nat) : (loseWhere s p cause).fab = s.fab := (loseWhere_parted s p cause).fab_eq
theorem Parted.part_eq {s t : State} (h : Parted s t) : t.part = s.part := (congrArg State.part h :)
@[simp] theorem loseWhere_part (s : State) (p : Endpoint → Bool) (cause : Nat) : (loseWhere s p cause).part = s.part := (loseWhere_parted s p cause).part_eq
theorem Parted.hbm_eq {s t : State} (h : Parted s t) : t.hbm = s.hbm := (congrArg State.hbm h :)
@[simp] theorem loseWhere_hbm (s : State) (p : Endpoint → Bool) (cause : Nat) : (loseWhere s p cause).hbm = s.hbm := (loseWhere_parted s p cause).hbm_eq
theorem Parted.eng_eq {s t : State} (h : Parted s t) : t.eng = s.eng := (congrArg State.eng h :)
@[simp] theorem loseWhere_eng (s : State) (p : Endpoint → Bool) (cause : Nat) : (loseWhere s p cause).eng = s.eng := (loseWhere_parted s p cause).eng_eq
theorem Parted.hub_eq {s t : State} (h : Parted s t) : t.hub = s.hub := (congrArg State.hub h :)
@[simp] theorem loseWhere_hub (s : State) (p : Endpoint → Bool) (cause : Nat) : (loseWhere s p cause).hub = s.hub := (loseWhere_parted s p cause).hub_eq
theorem Parted.husk_eq {s t : State} (h : Parted s t) : t.husk = s.husk := (congrArg State.husk h :)
@[simp] theorem loseWhere_husk (s : State) (p : Endpoint → Bool) (cause : Nat) : (loseWhere s p cause).husk = s.husk := (loseWhere_parted s p cause).husk_eq
theorem Parted.pow_eq {s t : State} (h : Parted s t) : t.pow = s.pow := (congrArg State.pow h :)
@[simp] theorem loseWhere_pow (s : State) (p : Endpoint → Bool) (cause : Nat) : (loseWhere s p cause).pow = s.pow := (loseWhere_parted s p cause).pow_eq
theorem Parted.trace_eq {s t : State} (h : Parted s t) : t.trace = s.trace := (congrArg State.trace h :)
@[simp] theorem loseWhere_trace (s : State) (p : Endpoint → Bool) (cause : Nat) : (loseWhere s p cause).trace = s.trace := (loseWhere_parted s p cause).trace_eq
theorem Parted.hostOut_eq {s t : State} (h : Parted s t) : t.hostOut = s.hostOut := (congrArg State.hostOut h :)
@[simp] theorem loseWhere_hostOut (s : State) (p : Endpoint → Bool) (cause : Nat) : (loseWhere s p cause).hostOut = s.hostOut := (loseWhere_parted s p cause).hostOut_eq

end Sys2Proof.Machine
end

