-- ==== Sys2Proof/Laws/Commands.lean ====
section
/-! SUPPORT. How a mailbox command's row answers, once the request that it acts on is known. -/

namespace Sys2Proof.Machine

theorem withCmd_some {s : State} {fn cls verb : Nat} {c : Consumed} {k : Consumed → State → State} (h : startable s fn cls verb = some c) :
    withCmd s fn cls verb k = .next (k c s) := by simp [withCmd, h]

theorem withPart_some {s : State} {fn cls verb : Nat} {c : Consumed} {k : Nat → Consumed → State → State} (h : startable s fn cls verb = some c)
    (h1 : (s.pt (target fn c)).state ≠ .free) (h2 : (s.pt (target fn c)).state ≠ .draining) (h3 : restoring s (target fn c) = false) :
    withPart s fn cls verb k = nextN s (k (target fn c) c s) := by simp [withPart, h, h1, h2, h3]

theorem withPart_run {s : State} {fn cls verb p : Nat} {c : Consumed} {k : Nat → Consumed → State → State} (h : startable s fn cls verb = some c)
    (e : target fn c = p) (h1 : (s.pt p).state ≠ .free) (h2 : (s.pt p).state ≠ .draining) (h3 : restoring s p = false) :
    withPart s fn cls verb k = .next (note s (k p c s)) := by subst e; exact withPart_some h h1 h2 h3

theorem forPart_run {s : State} {fn cls verb p : Nat} {c : Consumed} {k : Nat → Consumed → State → State} (h : forPart s fn cls verb p c = true) :
    withPart s fn cls verb k = .next (note s (k p c s)) := by
  simp only [forPart, Bool.and_eq_true, decide_eq_true_eq, Bool.not_eq_true', ne_eq] at h
  exact withPart_run h.1.1.1.1 h.1.1.1.2 h.1.1.2 h.1.2 h.2

theorem flashRow_now {s : State} {fn cls verb : Nat} {c : Consumed} {want : Consumed → Bool} {refuses late : Consumed → State → Option Result}
    {run : Consumed → State → Result × State} (h : startable s fn cls verb = some c) (hw : want c = true) (hj : s.boot.jobs = [])
    (hf : flashFree s = true) (hr : refuses c s = none) (hl : late c s = none) :
    flashRow fn cls verb want refuses late run s = .next (workDone (run c (accept s fn c.id)).2 fn c.id (run c (accept s fn c.id)).1) := by
  have ht : flashTurn s fn cls verb want = none := by simp [flashTurn, hj]
  have hs : (startable s fn cls verb).filter want = some c := by rw [h]; simp [Option.filter, hw]
  simp only [flashRow, ht, hs, hr, hf, hj, hl, List.isEmpty_nil, Bool.and_self, if_true]

end Sys2Proof.Machine
end

