-- ==== Sys2Proof/Laws/Drive.lean ====
section
/-! SUPPORT. What a change of a drive's or a slot's state can change. -/

namespace Sys2Proof.Machine

/-- `t` is `s` but for the hub, the Husk engine's volumes, the traces, the companion's bays, the mailboxes and the functions' registers. -/
def Driven (s t : State) : Prop :=
  t = { s with host := { s.host with mb := t.host.mb, fn := t.host.fn }, hub := t.hub, husk := t.husk, trace := t.trace, comp := t.comp }
theorem Driven.refl (s : State) : Driven s s := rfl
theorem Driven.trans {s t u : State} (a : Driven s t) (b : Driven t u) : Driven s u := by
  unfold Driven at *; rw [b, a]
theorem Told.driven {s t : State} (a : Told s t) : Driven s t := by
  unfold Told at a; unfold Driven; rw [a]
theorem driven_foldl {α : Type} {f : State → α → State} (h : ∀ s a, Driven s (f s a)) : ∀ (l : List α) (s : State), Driven s (l.foldl f s)
  | [], s => Driven.refl s
  | a :: r, s => (h s a).trans (driven_foldl h r (f s a))
theorem ite_driven {c : Prop} [Decidable c] {s t u : State} (a : Driven s t) (b : Driven s u) : Driven s (if c then t else u) := by
  split; exacts [a, b]
theorem modDp_driven (s : State) (n : Nat) (f : DPort → DPort) : Driven s (modDp s n f) := rfl
theorem modDrive_driven (s : State) (n : Nat) (f : Drive → Drive) : Driven s (modDrive s n f) := rfl
theorem noteVolume_driven (s : State) (k : Nat) : Driven s (noteVolume s k) := by
  unfold noteVolume; split
  · exact Driven.refl s
  · dsimp only
    exact ite_driven (Driven.refl s)
      (Driven.trans (t := { s with husk := { s.husk with volumes := _ } }) rfl (eventDev_told _ _ _).driven)
theorem noteVolumes_driven (s : State) : Driven s (noteVolumes s) := driven_foldl noteVolume_driven _ s
theorem sesState_driven (s : State) (fn : Nat) (x : Session) (new : TraceState) (cause : Nat) : Driven s (sesState s fn x new cause) := by
  unfold sesState; dsimp only
  exact ite_driven rfl (Driven.trans (t := s.setSes fn { x with state := new }) rfl (raiseAt_told _ fn _).driven)
theorem loseSink_driven (s : State) (fn : Nat) : Driven s (loseSink s fn) := by
  unfold loseSink; dsimp only
  refine ite_driven (Driven.refl s) ?_
  split
  · exact (finishSt_told s _ _ _).driven.trans (sesState_driven _ fn _ _ _)
  · exact sesState_driven s fn _ _ _
theorem loseDriveSinks_driven (s : State) (n : Nat) (nsid : Option Nat) : Driven s (loseDriveSinks s n nsid) :=
  driven_foldl (fun s fn => by dsimp only; exact ite_driven (loseSink_driven s fn) (Driven.refl s)) _ s
theorem driveState_driven (s : State) (n : Nat) (new : DriveState) (cause : Nat) : Driven s (driveState s n new cause) := by
  unfold driveState; dsimp only
  have h : ∀ l : List Nat, Driven s (forFns (modDrive s n fun d => { d with state := new }) l (fun t fn =>
      raiseAt t fn { partition := ownPart fn, code := 0x0901, tag := 0, time := s.time
                     payload := fields 40 [(0, le 1 n), (1, le 1 (s.dp n).drive.state.code), (2, le 1 new.code), (3, le 1 cause)] })) := fun l =>
    (modDrive_driven s n _).trans (driven_foldl (fun s fn => (raiseAt_told s fn _).driven) l _)
  exact ite_driven (modDrive_driven s n _) ((ite_driven ((h _).trans (loseDriveSinks_driven _ n none)) (h _)).trans (noteVolumes_driven _))
theorem slotOn_driven (s : State) (n : Nat) : Driven s (slotOn s n) := rfl
theorem powerOn_driven (s : State) (n cause : Nat) : Driven s (powerOn s n cause) :=
  (Driven.trans (t := modDrive (slotOn s n) n _) rfl (driveState_driven _ n _ cause))
theorem autoPowerAll_driven (s : State) : Driven s (autoPowerAll s) :=
  driven_foldl (fun t n => by dsimp only; exact ite_driven (powerOn_driven t n 1) (Driven.refl t)) _ s
theorem Driven.pending_eq {s t : State} (h : Driven s t) : t.pending = s.pending := (congrArg State.pending h :)
@[simp] theorem modDp_pending (s : State) (n : Nat) (g : DPort → DPort) : (modDp s n g).pending = s.pending := (modDp_driven s n g).pending_eq
@[simp] theorem modDrive_pending (s : State) (n : Nat) (g : Drive → Drive) : (modDrive s n g).pending = s.pending := (modDrive_driven s n g).pending_eq
@[simp] theorem noteVolumes_pending (s : State) : (noteVolumes s).pending = s.pending := (noteVolumes_driven s).pending_eq
@[simp] theorem driveState_pending (s : State) (n : Nat) (new : DriveState) (cause : Nat) : (driveState s n new cause).pending = s.pending := (driveState_driven s n new cause).pending_eq
@[simp] theorem powerOn_pending (s : State) (n cause : Nat) : (powerOn s n cause).pending = s.pending := (powerOn_driven s n cause).pending_eq
@[simp] theorem autoPowerAll_pending (s : State) : (autoPowerAll s).pending = s.pending := (autoPowerAll_driven s).pending_eq
@[simp] theorem loseDriveSinks_pending (s : State) (n : Nat) (i : Option Nat) : (loseDriveSinks s n i).pending = s.pending := (loseDriveSinks_driven s n i).pending_eq
@[simp] theorem loseSink_pending (s : State) (n : Nat) : (loseSink s n).pending = s.pending := (loseSink_driven s n).pending_eq
theorem Driven.free_eq {s t : State} (h : Driven s t) : t.free = s.free := (congrArg State.free h :)
@[simp] theorem modDp_free (s : State) (n : Nat) (g : DPort → DPort) : (modDp s n g).free = s.free := (modDp_driven s n g).free_eq
@[simp] theorem modDrive_free (s : State) (n : Nat) (g : Drive → Drive) : (modDrive s n g).free = s.free := (modDrive_driven s n g).free_eq
@[simp] theorem noteVolumes_free (s : State) : (noteVolumes s).free = s.free := (noteVolumes_driven s).free_eq
@[simp] theorem driveState_free (s : State) (n : Nat) (new : DriveState) (cause : Nat) : (driveState s n new cause).free = s.free := (driveState_driven s n new cause).free_eq
@[simp] theorem powerOn_free (s : State) (n cause : Nat) : (powerOn s n cause).free = s.free := (powerOn_driven s n cause).free_eq
@[simp] theorem autoPowerAll_free (s : State) : (autoPowerAll s).free = s.free := (autoPowerAll_driven s).free_eq
@[simp] theorem loseDriveSinks_free (s : State) (n : Nat) (i : Option Nat) : (loseDriveSinks s n i).free = s.free := (loseDriveSinks_driven s n i).free_eq
@[simp] theorem loseSink_free (s : State) (n : Nat) : (loseSink s n).free = s.free := (loseSink_driven s n).free_eq
theorem Driven.time_eq {s t : State} (h : Driven s t) : t.time = s.time := (congrArg State.time h :)
@[simp] theorem modDp_time (s : State) (n : Nat) (g : DPort → DPort) : (modDp s n g).time = s.time := (modDp_driven s n g).time_eq
@[simp] theorem modDrive_time (s : State) (n : Nat) (g : Drive → Drive) : (modDrive s n g).time = s.time := (modDrive_driven s n g).time_eq
@[simp] theorem noteVolumes_time (s : State) : (noteVolumes s).time = s.time := (noteVolumes_driven s).time_eq
@[simp] theorem driveState_time (s : State) (n : Nat) (new : DriveState) (cause : Nat) : (driveState s n new cause).time = s.time := (driveState_driven s n new cause).time_eq
@[simp] theorem powerOn_time (s : State) (n cause : Nat) : (powerOn s n cause).time = s.time := (powerOn_driven s n cause).time_eq
@[simp] theorem autoPowerAll_time (s : State) : (autoPowerAll s).time = s.time := (autoPowerAll_driven s).time_eq
@[simp] theorem loseDriveSinks_time (s : State) (n : Nat) (i : Option Nat) : (loseDriveSinks s n i).time = s.time := (loseDriveSinks_driven s n i).time_eq
@[simp] theorem loseSink_time (s : State) (n : Nat) : (loseSink s n).time = s.time := (loseSink_driven s n).time_eq
theorem Driven.rootPhase_eq {s t : State} (h : Driven s t) : t.rootPhase = s.rootPhase := (congrArg State.rootPhase h :)
@[simp] theorem modDp_rootPhase (s : State) (n : Nat) (g : DPort → DPort) : (modDp s n g).rootPhase = s.rootPhase := (modDp_driven s n g).rootPhase_eq
@[simp] theorem modDrive_rootPhase (s : State) (n : Nat) (g : Drive → Drive) : (modDrive s n g).rootPhase = s.rootPhase := (modDrive_driven s n g).rootPhase_eq
@[simp] theorem noteVolumes_rootPhase (s : State) : (noteVolumes s).rootPhase = s.rootPhase := (noteVolumes_driven s).rootPhase_eq
@[simp] theorem driveState_rootPhase (s : State) (n : Nat) (new : DriveState) (cause : Nat) : (driveState s n new cause).rootPhase = s.rootPhase := (driveState_driven s n new cause).rootPhase_eq
@[simp] theorem powerOn_rootPhase (s : State) (n cause : Nat) : (powerOn s n cause).rootPhase = s.rootPhase := (powerOn_driven s n cause).rootPhase_eq
@[simp] theorem autoPowerAll_rootPhase (s : State) : (autoPowerAll s).rootPhase = s.rootPhase := (autoPowerAll_driven s).rootPhase_eq
@[simp] theorem loseDriveSinks_rootPhase (s : State) (n : Nat) (i : Option Nat) : (loseDriveSinks s n i).rootPhase = s.rootPhase := (loseDriveSinks_driven s n i).rootPhase_eq
@[simp] theorem loseSink_rootPhase (s : State) (n : Nat) : (loseSink s n).rootPhase = s.rootPhase := (loseSink_driven s n).rootPhase_eq
theorem Driven.faults_eq {s t : State} (h : Driven s t) : t.faults = s.faults := (congrArg State.faults h :)
@[simp] theorem modDp_faults (s : State) (n : Nat) (g : DPort → DPort) : (modDp s n g).faults = s.faults := (modDp_driven s n g).faults_eq
@[simp] theorem modDrive_faults (s : State) (n : Nat) (g : Drive → Drive) : (modDrive s n g).faults = s.faults := (modDrive_driven s n g).faults_eq
@[simp] theorem noteVolumes_faults (s : State) : (noteVolumes s).faults = s.faults := (noteVolumes_driven s).faults_eq
@[simp] theorem driveState_faults (s : State) (n : Nat) (new : DriveState) (cause : Nat) : (driveState s n new cause).faults = s.faults := (driveState_driven s n new cause).faults_eq
@[simp] theorem powerOn_faults (s : State) (n cause : Nat) : (powerOn s n cause).faults = s.faults := (powerOn_driven s n cause).faults_eq
@[simp] theorem autoPowerAll_faults (s : State) : (autoPowerAll s).faults = s.faults := (autoPowerAll_driven s).faults_eq
@[simp] theorem loseDriveSinks_faults (s : State) (n : Nat) (i : Option Nat) : (loseDriveSinks s n i).faults = s.faults := (loseDriveSinks_driven s n i).faults_eq
@[simp] theorem loseSink_faults (s : State) (n : Nat) : (loseSink s n).faults = s.faults := (loseSink_driven s n).faults_eq
theorem Driven.jtag_eq {s t : State} (h : Driven s t) : t.jtag = s.jtag := (congrArg State.jtag h :)
@[simp] theorem modDp_jtag (s : State) (n : Nat) (g : DPort → DPort) : (modDp s n g).jtag = s.jtag := (modDp_driven s n g).jtag_eq
@[simp] theorem modDrive_jtag (s : State) (n : Nat) (g : Drive → Drive) : (modDrive s n g).jtag = s.jtag := (modDrive_driven s n g).jtag_eq
@[simp] theorem noteVolumes_jtag (s : State) : (noteVolumes s).jtag = s.jtag := (noteVolumes_driven s).jtag_eq
@[simp] theorem driveState_jtag (s : State) (n : Nat) (new : DriveState) (cause : Nat) : (driveState s n new cause).jtag = s.jtag := (driveState_driven s n new cause).jtag_eq
@[simp] theorem powerOn_jtag (s : State) (n cause : Nat) : (powerOn s n cause).jtag = s.jtag := (powerOn_driven s n cause).jtag_eq
@[simp] theorem autoPowerAll_jtag (s : State) : (autoPowerAll s).jtag = s.jtag := (autoPowerAll_driven s).jtag_eq
@[simp] theorem loseDriveSinks_jtag (s : State) (n : Nat) (i : Option Nat) : (loseDriveSinks s n i).jtag = s.jtag := (loseDriveSinks_driven s n i).jtag_eq
@[simp] theorem loseSink_jtag (s : State) (n : Nat) : (loseSink s n).jtag = s.jtag := (loseSink_driven s n).jtag_eq
theorem Driven.clk_eq {s t : State} (h : Driven s t) : t.clk = s.clk := (congrArg State.clk h :)
@[simp] theorem modDp_clk (s : State) (n : Nat) (g : DPort → DPort) : (modDp s n g).clk = s.clk := (modDp_driven s n g).clk_eq
@[simp] theorem modDrive_clk (s : State) (n : Nat) (g : Drive → Drive) : (modDrive s n g).clk = s.clk := (modDrive_driven s n g).clk_eq
@[simp] theorem noteVolumes_clk (s : State) : (noteVolumes s).clk = s.clk := (noteVolumes_driven s).clk_eq
@[simp] theorem driveState_clk (s : State) (n : Nat) (new : DriveState) (cause : Nat) : (driveState s n new cause).clk = s.clk := (driveState_driven s n new cause).clk_eq
@[simp] theorem powerOn_clk (s : State) (n cause : Nat) : (powerOn s n cause).clk = s.clk := (powerOn_driven s n cause).clk_eq
@[simp] theorem autoPowerAll_clk (s : State) : (autoPowerAll s).clk = s.clk := (autoPowerAll_driven s).clk_eq
@[simp] theorem loseDriveSinks_clk (s : State) (n : Nat) (i : Option Nat) : (loseDriveSinks s n i).clk = s.clk := (loseDriveSinks_driven s n i).clk_eq
@[simp] theorem loseSink_clk (s : State) (n : Nat) : (loseSink s n).clk = s.clk := (loseSink_driven s n).clk_eq
theorem Driven.rst_eq {s t : State} (h : Driven s t) : t.rst = s.rst := (congrArg State.rst h :)
@[simp] theorem modDp_rst (s : State) (n : Nat) (g : DPort → DPort) : (modDp s n g).rst = s.rst := (modDp_driven s n g).rst_eq
@[simp] theorem modDrive_rst (s : State) (n : Nat) (g : Drive → Drive) : (modDrive s n g).rst = s.rst := (modDrive_driven s n g).rst_eq
@[simp] theorem noteVolumes_rst (s : State) : (noteVolumes s).rst = s.rst := (noteVolumes_driven s).rst_eq
@[simp] theorem driveState_rst (s : State) (n : Nat) (new : DriveState) (cause : Nat) : (driveState s n new cause).rst = s.rst := (driveState_driven s n new cause).rst_eq
@[simp] theorem powerOn_rst (s : State) (n cause : Nat) : (powerOn s n cause).rst = s.rst := (powerOn_driven s n cause).rst_eq
@[simp] theorem autoPowerAll_rst (s : State) : (autoPowerAll s).rst = s.rst := (autoPowerAll_driven s).rst_eq
@[simp] theorem loseDriveSinks_rst (s : State) (n : Nat) (i : Option Nat) : (loseDriveSinks s n i).rst = s.rst := (loseDriveSinks_driven s n i).rst_eq
@[simp] theorem loseSink_rst (s : State) (n : Nat) : (loseSink s n).rst = s.rst := (loseSink_driven s n).rst_eq
theorem Driven.boot_eq {s t : State} (h : Driven s t) : t.boot = s.boot := (congrArg State.boot h :)
@[simp] theorem modDp_boot (s : State) (n : Nat) (g : DPort → DPort) : (modDp s n g).boot = s.boot := (modDp_driven s n g).boot_eq
@[simp] theorem modDrive_boot (s : State) (n : Nat) (g : Drive → Drive) : (modDrive s n g).boot = s.boot := (modDrive_driven s n g).boot_eq
@[simp] theorem noteVolumes_boot (s : State) : (noteVolumes s).boot = s.boot := (noteVolumes_driven s).boot_eq
@[simp] theorem driveState_boot (s : State) (n : Nat) (new : DriveState) (cause : Nat) : (driveState s n new cause).boot = s.boot := (driveState_driven s n new cause).boot_eq
@[simp] theorem powerOn_boot (s : State) (n cause : Nat) : (powerOn s n cause).boot = s.boot := (powerOn_driven s n cause).boot_eq
@[simp] theorem autoPowerAll_boot (s : State) : (autoPowerAll s).boot = s.boot := (autoPowerAll_driven s).boot_eq
@[simp] theorem loseDriveSinks_boot (s : State) (n : Nat) (i : Option Nat) : (loseDriveSinks s n i).boot = s.boot := (loseDriveSinks_driven s n i).boot_eq
@[simp] theorem loseSink_boot (s : State) (n : Nat) : (loseSink s n).boot = s.boot := (loseSink_driven s n).boot_eq
theorem Driven.fab_eq {s t : State} (h : Driven s t) : t.fab = s.fab := (congrArg State.fab h :)
@[simp] theorem modDp_fab (s : State) (n : Nat) (g : DPort → DPort) : (modDp s n g).fab = s.fab := (modDp_driven s n g).fab_eq
@[simp] theorem modDrive_fab (s : State) (n : Nat) (g : Drive → Drive) : (modDrive s n g).fab = s.fab := (modDrive_driven s n g).fab_eq
@[simp] theorem noteVolumes_fab (s : State) : (noteVolumes s).fab = s.fab := (noteVolumes_driven s).fab_eq
@[simp] theorem driveState_fab (s : State) (n : Nat) (new : DriveState) (cause : Nat) : (driveState s n new cause).fab = s.fab := (driveState_driven s n new cause).fab_eq
@[simp] theorem powerOn_fab (s : State) (n cause : Nat) : (powerOn s n cause).fab = s.fab := (powerOn_driven s n cause).fab_eq
@[simp] theorem autoPowerAll_fab (s : State) : (autoPowerAll s).fab = s.fab := (autoPowerAll_driven s).fab_eq
@[simp] theorem loseDriveSinks_fab (s : State) (n : Nat) (i : Option Nat) : (loseDriveSinks s n i).fab = s.fab := (loseDriveSinks_driven s n i).fab_eq
@[simp] theorem loseSink_fab (s : State) (n : Nat) : (loseSink s n).fab = s.fab := (loseSink_driven s n).fab_eq
theorem Driven.part_eq {s t : State} (h : Driven s t) : t.part = s.part := (congrArg State.part h :)
@[simp] theorem modDp_part (s : State) (n : Nat) (g : DPort → DPort) : (modDp s n g).part = s.part := (modDp_driven s n g).part_eq
@[simp] theorem modDrive_part (s : State) (n : Nat) (g : Drive → Drive) : (modDrive s n g).part = s.part := (modDrive_driven s n g).part_eq
@[simp] theorem noteVolumes_part (s : State) : (noteVolumes s).part = s.part := (noteVolumes_driven s).part_eq
@[simp] theorem driveState_part (s : State) (n : Nat) (new : DriveState) (cause : Nat) : (driveState s n new cause).part = s.part := (driveState_driven s n new cause).part_eq
@[simp] theorem powerOn_part (s : State) (n cause : Nat) : (powerOn s n cause).part = s.part := (powerOn_driven s n cause).part_eq
@[simp] theorem autoPowerAll_part (s : State) : (autoPowerAll s).part = s.part := (autoPowerAll_driven s).part_eq
@[simp] theorem loseDriveSinks_part (s : State) (n : Nat) (i : Option Nat) : (loseDriveSinks s n i).part = s.part := (loseDriveSinks_driven s n i).part_eq
@[simp] theorem loseSink_part (s : State) (n : Nat) : (loseSink s n).part = s.part := (loseSink_driven s n).part_eq
theorem Driven.chans_eq {s t : State} (h : Driven s t) : t.chans = s.chans := (congrArg State.chans h :)
@[simp] theorem modDp_chans (s : State) (n : Nat) (g : DPort → DPort) : (modDp s n g).chans = s.chans := (modDp_driven s n g).chans_eq
@[simp] theorem modDrive_chans (s : State) (n : Nat) (g : Drive → Drive) : (modDrive s n g).chans = s.chans := (modDrive_driven s n g).chans_eq
@[simp] theorem noteVolumes_chans (s : State) : (noteVolumes s).chans = s.chans := (noteVolumes_driven s).chans_eq
@[simp] theorem driveState_chans (s : State) (n : Nat) (new : DriveState) (cause : Nat) : (driveState s n new cause).chans = s.chans := (driveState_driven s n new cause).chans_eq
@[simp] theorem powerOn_chans (s : State) (n cause : Nat) : (powerOn s n cause).chans = s.chans := (powerOn_driven s n cause).chans_eq
@[simp] theorem autoPowerAll_chans (s : State) : (autoPowerAll s).chans = s.chans := (autoPowerAll_driven s).chans_eq
@[simp] theorem loseDriveSinks_chans (s : State) (n : Nat) (i : Option Nat) : (loseDriveSinks s n i).chans = s.chans := (loseDriveSinks_driven s n i).chans_eq
@[simp] theorem loseSink_chans (s : State) (n : Nat) : (loseSink s n).chans = s.chans := (loseSink_driven s n).chans_eq
theorem Driven.hbm_eq {s t : State} (h : Driven s t) : t.hbm = s.hbm := (congrArg State.hbm h :)
@[simp] theorem modDp_hbm (s : State) (n : Nat) (g : DPort → DPort) : (modDp s n g).hbm = s.hbm := (modDp_driven s n g).hbm_eq
@[simp] theorem modDrive_hbm (s : State) (n : Nat) (g : Drive → Drive) : (modDrive s n g).hbm = s.hbm := (modDrive_driven s n g).hbm_eq
@[simp] theorem noteVolumes_hbm (s : State) : (noteVolumes s).hbm = s.hbm := (noteVolumes_driven s).hbm_eq
@[simp] theorem driveState_hbm (s : State) (n : Nat) (new : DriveState) (cause : Nat) : (driveState s n new cause).hbm = s.hbm := (driveState_driven s n new cause).hbm_eq
@[simp] theorem powerOn_hbm (s : State) (n cause : Nat) : (powerOn s n cause).hbm = s.hbm := (powerOn_driven s n cause).hbm_eq
@[simp] theorem autoPowerAll_hbm (s : State) : (autoPowerAll s).hbm = s.hbm := (autoPowerAll_driven s).hbm_eq
@[simp] theorem loseDriveSinks_hbm (s : State) (n : Nat) (i : Option Nat) : (loseDriveSinks s n i).hbm = s.hbm := (loseDriveSinks_driven s n i).hbm_eq
@[simp] theorem loseSink_hbm (s : State) (n : Nat) : (loseSink s n).hbm = s.hbm := (loseSink_driven s n).hbm_eq
theorem Driven.eng_eq {s t : State} (h : Driven s t) : t.eng = s.eng := (congrArg State.eng h :)
@[simp] theorem modDp_eng (s : State) (n : Nat) (g : DPort → DPort) : (modDp s n g).eng = s.eng := (modDp_driven s n g).eng_eq
@[simp] theorem modDrive_eng (s : State) (n : Nat) (g : Drive → Drive) : (modDrive s n g).eng = s.eng := (modDrive_driven s n g).eng_eq
@[simp] theorem noteVolumes_eng (s : State) : (noteVolumes s).eng = s.eng := (noteVolumes_driven s).eng_eq
@[simp] theorem driveState_eng (s : State) (n : Nat) (new : DriveState) (cause : Nat) : (driveState s n new cause).eng = s.eng := (driveState_driven s n new cause).eng_eq
@[simp] theorem powerOn_eng (s : State) (n cause : Nat) : (powerOn s n cause).eng = s.eng := (powerOn_driven s n cause).eng_eq
@[simp] theorem autoPowerAll_eng (s : State) : (autoPowerAll s).eng = s.eng := (autoPowerAll_driven s).eng_eq
@[simp] theorem loseDriveSinks_eng (s : State) (n : Nat) (i : Option Nat) : (loseDriveSinks s n i).eng = s.eng := (loseDriveSinks_driven s n i).eng_eq
@[simp] theorem loseSink_eng (s : State) (n : Nat) : (loseSink s n).eng = s.eng := (loseSink_driven s n).eng_eq
theorem Driven.link_eq {s t : State} (h : Driven s t) : t.link = s.link := (congrArg State.link h :)
@[simp] theorem modDp_link (s : State) (n : Nat) (g : DPort → DPort) : (modDp s n g).link = s.link := (modDp_driven s n g).link_eq
@[simp] theorem modDrive_link (s : State) (n : Nat) (g : Drive → Drive) : (modDrive s n g).link = s.link := (modDrive_driven s n g).link_eq
@[simp] theorem noteVolumes_link (s : State) : (noteVolumes s).link = s.link := (noteVolumes_driven s).link_eq
@[simp] theorem driveState_link (s : State) (n : Nat) (new : DriveState) (cause : Nat) : (driveState s n new cause).link = s.link := (driveState_driven s n new cause).link_eq
@[simp] theorem powerOn_link (s : State) (n cause : Nat) : (powerOn s n cause).link = s.link := (powerOn_driven s n cause).link_eq
@[simp] theorem autoPowerAll_link (s : State) : (autoPowerAll s).link = s.link := (autoPowerAll_driven s).link_eq
@[simp] theorem loseDriveSinks_link (s : State) (n : Nat) (i : Option Nat) : (loseDriveSinks s n i).link = s.link := (loseDriveSinks_driven s n i).link_eq
@[simp] theorem loseSink_link (s : State) (n : Nat) : (loseSink s n).link = s.link := (loseSink_driven s n).link_eq
theorem Driven.pow_eq {s t : State} (h : Driven s t) : t.pow = s.pow := (congrArg State.pow h :)
@[simp] theorem modDp_pow (s : State) (n : Nat) (g : DPort → DPort) : (modDp s n g).pow = s.pow := (modDp_driven s n g).pow_eq
@[simp] theorem modDrive_pow (s : State) (n : Nat) (g : Drive → Drive) : (modDrive s n g).pow = s.pow := (modDrive_driven s n g).pow_eq
@[simp] theorem noteVolumes_pow (s : State) : (noteVolumes s).pow = s.pow := (noteVolumes_driven s).pow_eq
@[simp] theorem driveState_pow (s : State) (n : Nat) (new : DriveState) (cause : Nat) : (driveState s n new cause).pow = s.pow := (driveState_driven s n new cause).pow_eq
@[simp] theorem powerOn_pow (s : State) (n cause : Nat) : (powerOn s n cause).pow = s.pow := (powerOn_driven s n cause).pow_eq
@[simp] theorem autoPowerAll_pow (s : State) : (autoPowerAll s).pow = s.pow := (autoPowerAll_driven s).pow_eq
@[simp] theorem loseDriveSinks_pow (s : State) (n : Nat) (i : Option Nat) : (loseDriveSinks s n i).pow = s.pow := (loseDriveSinks_driven s n i).pow_eq
@[simp] theorem loseSink_pow (s : State) (n : Nat) : (loseSink s n).pow = s.pow := (loseSink_driven s n).pow_eq
theorem Driven.hostOut_eq {s t : State} (h : Driven s t) : t.hostOut = s.hostOut := (congrArg State.hostOut h :)
@[simp] theorem modDp_hostOut (s : State) (n : Nat) (g : DPort → DPort) : (modDp s n g).hostOut = s.hostOut := (modDp_driven s n g).hostOut_eq
@[simp] theorem modDrive_hostOut (s : State) (n : Nat) (g : Drive → Drive) : (modDrive s n g).hostOut = s.hostOut := (modDrive_driven s n g).hostOut_eq
@[simp] theorem noteVolumes_hostOut (s : State) : (noteVolumes s).hostOut = s.hostOut := (noteVolumes_driven s).hostOut_eq
@[simp] theorem driveState_hostOut (s : State) (n : Nat) (new : DriveState) (cause : Nat) : (driveState s n new cause).hostOut = s.hostOut := (driveState_driven s n new cause).hostOut_eq
@[simp] theorem powerOn_hostOut (s : State) (n cause : Nat) : (powerOn s n cause).hostOut = s.hostOut := (powerOn_driven s n cause).hostOut_eq
@[simp] theorem autoPowerAll_hostOut (s : State) : (autoPowerAll s).hostOut = s.hostOut := (autoPowerAll_driven s).hostOut_eq
@[simp] theorem loseDriveSinks_hostOut (s : State) (n : Nat) (i : Option Nat) : (loseDriveSinks s n i).hostOut = s.hostOut := (loseDriveSinks_driven s n i).hostOut_eq
@[simp] theorem loseSink_hostOut (s : State) (n : Nat) : (loseSink s n).hostOut = s.hostOut := (loseSink_driven s n).hostOut_eq

end Sys2Proof.Machine
end

