-- ==== Sys2Proof/Laws/Memory.lean ====
section
/-! SUPPORT. Sparse memories: reading after writing, and the canonical form under every operation. -/

namespace Sys2Proof.Machine

theorem mwfFrom_weaken {d : Byte} {lo hi : Option Nat} {m : List Host.Cell} (hlh : ∀ b, lo = some b → ∃ c, hi = some c ∧ b ≤ c)
    (h : mwfFrom d hi m = true) : mwfFrom d lo m = true := by
  cases m with
  | nil => rfl
  | cons x r =>
    obtain ⟨a, v⟩ := x
    simp only [mwfFrom, Bool.and_eq_true] at h ⊢
    refine ⟨⟨?_, h.1.2⟩, h.2⟩
    cases lo with
    | none => rfl
    | some b =>
      obtain ⟨c, rfl, hc⟩ := hlh b rfl
      have := h.1.1
      simp only [decide_eq_true_eq] at this ⊢
      omega
theorem mwfFrom_filter {d : Byte} (p : Host.Cell → Bool) : ∀ {lo : Option Nat} {m : List Host.Cell}, mwfFrom d lo m = true → mwfFrom d lo (m.filter p) = true
  | lo, [], _ => rfl
  | lo, (a, v) :: r, h => by
    simp only [mwfFrom, Bool.and_eq_true] at h
    simp only [List.filter]
    split
    · simp only [mwfFrom, Bool.and_eq_true]; exact ⟨h.1, mwfFrom_filter p h.2⟩
    · refine mwfFrom_filter p (mwfFrom_weaken ?_ h.2)
      rintro b rfl
      exact ⟨a, rfl, by have := h.1.1; simp only [decide_eq_true_eq] at this; omega⟩
theorem mwfFrom_mset {d : Byte} {a : Nat} {v : Byte} : ∀ {lo : Option Nat} {m : List Host.Cell}, (∀ b, lo = some b → b < a) → mwfFrom d lo m = true → mwfFrom d lo (mset d m a v) = true
  | lo, [], hl, h => by
    unfold mset
    split
    · rfl
    · simp only [mwfFrom, Bool.and_eq_true, Bool.and_true]
      refine ⟨?_, by simpa using ‹_›⟩
      cases lo <;> simp_all
  | lo, (b, w) :: r, hl, h => by
    simp only [mwfFrom, Bool.and_eq_true] at h
    have hb : mwfFrom d lo r = true := by
      refine mwfFrom_weaken ?_ h.2
      rintro c rfl
      exact ⟨b, rfl, by have := h.1.1; simp only [decide_eq_true_eq] at this; omega⟩
    unfold mset
    split
    · subst ‹a = b›
      split
      · exact hb
      · simp only [mwfFrom, Bool.and_eq_true]; exact ⟨⟨by cases lo <;> simp_all, by simpa using ‹_›⟩, h.2⟩
    · split
      · split
        · simp only [mwfFrom, Bool.and_eq_true]; exact h
        · simp only [mwfFrom, Bool.and_eq_true]; exact ⟨⟨by cases lo <;> simp_all, by simpa using ‹_›⟩, ⟨by simpa using ‹_›, h.1.2⟩, h.2⟩
      · simp only [mwfFrom, Bool.and_eq_true]
        refine ⟨h.1, mwfFrom_mset ?_ h.2⟩
        rintro c hc; cases hc; omega
theorem mset_wf {d : Byte} {m : List Host.Cell} {a : Nat} {v : Byte} (h : Memory.wf d m = true) : Memory.wf d (mset d m a v) = true :=
  mwfFrom_mset (by simp) h
theorem mwrite_wf {d : Byte} : ∀ {bs : List Byte} {m : List Host.Cell} {a : Nat}, Memory.wf d m = true → Memory.wf d (mwrite d m a bs) = true
  | [], _, _, h => h
  | _ :: _, _, _, h => mwrite_wf (m := mset _ _ _ _) (mset_wf h)
theorem filter_wf {d : Byte} {m : List Host.Cell} (p : Host.Cell → Bool) (h : Memory.wf d m = true) : Memory.wf d (m.filter p) = true := mwfFrom_filter p h
theorem mclear_wf {d : Byte} {m : List Host.Cell} {a n : Nat} (h : Memory.wf d m = true) : Memory.wf d (mclear m a n) = true := filter_wf _ h
theorem foldl_mset_wf {d : Byte} {α : Type} {g : α → Nat} {v : α → Byte} : ∀ {l : List α} {m : List Host.Cell}, Memory.wf d m = true →
    Memory.wf d (l.foldl (fun m c => mset d m (g c) (v c)) m) = true
  | [], _, h => h
  | _ :: l, _, h => foldl_mset_wf (l := l) (m := mset _ _ _ _) (mset_wf h)

/-- Nothing is listed at or below the bound of a canonical memory. -/
theorem mget_below {d : Byte} {c : Nat} : ∀ {lo : Nat} {m : List Host.Cell}, mwfFrom d (some lo) m = true → c ≤ lo → mget d m c = d
  | lo, [], _, _ => rfl
  | lo, (b, w) :: r, h, hc => by
    simp only [mwfFrom, Bool.and_eq_true, decide_eq_true_eq] at h
    simp only [mget, if_neg (show ¬c = b by omega)]
    exact mget_below h.2 (by omega)
/-- Reading the byte that was written. -/
theorem mget_mset_self {d : Byte} {a : Nat} {v : Byte} : ∀ {lo : Option Nat} {m : List Host.Cell}, mwfFrom d lo m = true → mget d (mset d m a v) a = v
  | lo, [], _ => by unfold mset; split <;> simp_all [mget]
  | lo, (b, w) :: r, h => by
    simp only [mwfFrom, Bool.and_eq_true] at h
    unfold mset
    split
    · subst ‹a = b›
      split
      · subst ‹v = d›; exact mget_below h.2 (Nat.le_refl _)
      · simp [mget]
    · split
      · split
        · subst ‹v = d›
          have hab := ‹a < b›
          simp only [mget, if_neg ‹¬a = b›]
          exact mget_below h.2 (Nat.le_of_lt hab)
        · simp [mget]
      · simp only [mget, if_neg ‹¬a = b›]; exact mget_mset_self h.2
/-- Reading another byte. -/
theorem mget_mset_other {d : Byte} {a c : Nat} {v : Byte} (hc : c ≠ a) : ∀ {lo : Option Nat} {m : List Host.Cell}, mwfFrom d lo m = true → mget d (mset d m a v) c = mget d m c
  | lo, [], _ => by unfold mset; split <;> simp_all [mget]
  | lo, (b, w) :: r, h => by
    simp only [mwfFrom, Bool.and_eq_true] at h
    unfold mset
    split
    · subst ‹a = b›
      split <;> simp [mget, hc]
    · split
      · split <;> simp [mget, hc]
      · simp only [mget, mget_mset_other hc h.2]

end Sys2Proof.Machine
end

