-- ==== Sys2Proof/Laws/Keep.lean ====
section
/-! SUPPORT. The relation that every meaning keeps to the state it is given: the same queue, and the invariant of Safety.lean. -/

namespace Sys2Proof.Machine

/-- ModuleInv, of the parts that it reads. -/
def InvF (d : Nat) (r : Option Nat) (h c f : List Host.Cell) (fc fl sl bt rp lc md fd : Nat) : Prop :=
  (legalDiv d = true ∧ (∀ x, r = some x → legalDiv x = true)) ∧
  (Memory.wf 0 h = true ∧ Memory.wf 0 c = true ∧ Memory.wf 0xFF f = true) ∧
  (400 ≤ fc ∧ fc ≤ 2000) ∧ (400 ≤ fl ∧ fl ≤ 1600) ∧ (1 ≤ sl ∧ sl ≤ 20) ∧ (1 ≤ bt ∧ bt ≤ 100) ∧ rp ≤ 7 ∧ (400 ≤ lc ∧ lc ≤ 1600) ∧ legalDiv md = true ∧
  [5, 6, 8, 12].contains fd = true

/-- Keep, of the parts that it reads. -/
def KeepF (s0 : State) (p : List Instr) (d : Nat) (r : Option Nat) (h c f : List Host.Cell) (fc fl sl bt rp lc md fd : Nat) : Prop :=
  p = s0.pending ∧ (ModuleInv s0 → InvF d r h c f fc fl sl bt rp lc md fd)
/-- The queue of `s` is that of `z`, and `s` keeps the invariant if `z` has it: what a meaning does to the state it is given. -/
@[irreducible] def Keep (z s : State) : Prop := KeepF z s.pending s.clk.div s.clk.divReq s.hbm.mem s.fab.cells s.boot.flash s.comp.fastcapLimit s.comp.floorShare s.comp.inrushSlew s.comp.breakerTime s.comp.retryPolicy s.pow.localCap s.pow.maxDiv s.pow.fastcapDiv

@[simp] theorem keep_mk {z : State} {pending free time rootPhase host faults comp jtag clk rst boot fab part chans hbm eng link hub husk pow trace hostOut} :
   Keep z (State.mk pending free time rootPhase host faults comp jtag clk rst boot fab part chans hbm eng link hub husk pow trace hostOut) ↔
   KeepF z pending clk.div clk.divReq hbm.mem fab.cells boot.flash comp.fastcapLimit comp.floorShare comp.inrushSlew comp.breakerTime comp.retryPolicy pow.localCap pow.maxDiv pow.fastcapDiv := by unfold Keep; exact Iff.rfl
@[simp] theorem keep_eta {z s : State} : KeepF z s.pending s.clk.div s.clk.divReq s.hbm.mem s.fab.cells s.boot.flash s.comp.fastcapLimit s.comp.floorShare s.comp.inrushSlew s.comp.breakerTime s.comp.retryPolicy s.pow.localCap s.pow.maxDiv s.pow.fastcapDiv ↔ Keep z s := by unfold Keep; exact Iff.rfl

theorem keepF_of {z s : State} {d r h c f fc fl sl bt rp lc md fd} (k : Keep z s)
    (ok : ModuleInv s → InvF d r h c f fc fl sl bt rp lc md fd) : KeepF z s.pending d r h c f fc fl sl bt rp lc md fd :=
  ⟨(keep_eta.2 k).1, fun i => ok ((keep_eta.2 k).2 i)⟩

/-- Keep, of a state that may be absent. -/
def KeepO (s0 : State) (o : Option State) : Prop := ∀ t, o = some t → Keep s0 t
/-- Keep, of the next state of an outcome. -/
def KeepOut (s0 : State) (o : Host.Outcome State Fault Refusal) : Prop := ∀ t, o = .next t → Keep s0 t
@[simp] theorem keepOut_next {z s : State} : KeepOut z (.next s) ↔ Keep z s := by simp [KeepOut]
@[simp] theorem keepOut_fault {z : State} {r : Fault} : KeepOut z (.fault r) := by simp [KeepOut]
@[simp] theorem keepO_none {z : State} : KeepO z none := by simp [KeepO]
@[simp] theorem keepO_some {z s : State} : KeepO z (some s) ↔ Keep z s := by simp [KeepO]
@[simp] theorem foldl_keep {α : Type} {s0 : State} {f : State → α → State} (hf : ∀ s a, Keep s0 s → Keep s0 (f s a)) :
   ∀ (l : List α) {s}, Keep s0 s → Keep s0 (l.foldl f s)
  | [], _, h => h
  | a :: r, _, h => foldl_keep hf r (hf _ a h)
theorem foldl1_keep {α β : Type} {s0 : State} {f : State × β → α → State × β} (hf : ∀ s b a, Keep s0 s → Keep s0 (f (s, b) a).1) :
   ∀ (l : List α) {x}, Keep s0 x.1 → Keep s0 (l.foldl f x).1
  | [], _, h => h
  | a :: r, (s, b), h => foldl1_keep hf r (hf s b a h)


theorem keepF_hbm {z s : State} {m} (k : Keep z s) (w : Memory.wf 0 s.hbm.mem = true → Memory.wf 0 m = true) :
    KeepF z s.pending s.clk.div s.clk.divReq m s.fab.cells s.boot.flash s.comp.fastcapLimit s.comp.floorShare s.comp.inrushSlew s.comp.breakerTime s.comp.retryPolicy s.pow.localCap s.pow.maxDiv s.pow.fastcapDiv :=
  keepF_of k (fun i => ⟨i.1, ⟨w i.2.1.1, i.2.1.2⟩, i.2.2⟩)
theorem keepF_cells {z s : State} {m} (k : Keep z s) (w : Memory.wf 0 s.fab.cells = true → Memory.wf 0 m = true) :
    KeepF z s.pending s.clk.div s.clk.divReq s.hbm.mem m s.boot.flash s.comp.fastcapLimit s.comp.floorShare s.comp.inrushSlew s.comp.breakerTime s.comp.retryPolicy s.pow.localCap s.pow.maxDiv s.pow.fastcapDiv :=
  keepF_of k (fun i => ⟨i.1, ⟨i.2.1.1, w i.2.1.2.1, i.2.1.2.2⟩, i.2.2⟩)
theorem keepF_flash {z s : State} {m} (k : Keep z s) (w : Memory.wf 0xFF s.boot.flash = true → Memory.wf 0xFF m = true) :
    KeepF z s.pending s.clk.div s.clk.divReq s.hbm.mem s.fab.cells m s.comp.fastcapLimit s.comp.floorShare s.comp.inrushSlew s.comp.breakerTime s.comp.retryPolicy s.pow.localCap s.pow.maxDiv s.pow.fastcapDiv :=
  keepF_of k (fun i => ⟨i.1, ⟨i.2.1.1, i.2.1.2.1, w i.2.1.2.2⟩, i.2.2⟩)
theorem keepF_pow {z s : State} {p : Power} (k : Keep z s) (w : p.localCap = s.pow.localCap ∧ p.maxDiv = s.pow.maxDiv ∧ p.fastcapDiv = s.pow.fastcapDiv) :
    KeepF z s.pending s.clk.div s.clk.divReq s.hbm.mem s.fab.cells s.boot.flash s.comp.fastcapLimit s.comp.floorShare s.comp.inrushSlew s.comp.breakerTime s.comp.retryPolicy p.localCap p.maxDiv p.fastcapDiv := by
  rw [w.1, w.2.1, w.2.2]; exact keep_eta.2 k
theorem mapIte_keep {α : Type} {z : State} {c : Prop} [Decidable c] {a b : Option α} {f : α → State} (ha : c → KeepO z (a.map f)) (hb : ¬c → KeepO z (b.map f)) :
    KeepO z ((if c then a else b).map f) := by
  split
  · exact ha ‹_›
  · exact hb ‹_›
theorem foldl_proj {α β γ : Type} {f : β → α → β} {g : β → γ} (hf : ∀ b a, g (f b a) = g b) : ∀ (l : List α) (b : β), g (l.foldl f b) = g b
  | [], _ => rfl
  | a :: r, b => (foldl_proj hf r (f b a)).trans (hf b a)
theorem elim_keep {α : Type} {z d : State} {o : Option α} {f : α → State} (hd : Keep z d) (hf : ∀ x, o = some x → Keep z (f x)) : Keep z (o.elim d f) := by
  cases o with
  | none => exact hd
  | some x => exact hf x rfl
theorem getD_keep {z d : State} {o : Option State} (hd : Keep z d) (hf : ∀ x, o = some x → Keep z x) : Keep z (o.getD d) := by
  cases o with
  | none => exact hd
  | some x => exact hf x rfl
theorem map_getD_keep {α : Type} {z d : State} {o : Option α} {f : α → State} (hd : Keep z d) (hf : ∀ x, o = some x → Keep z (f x)) : Keep z ((o.map f).getD d) := by
  cases o with
  | none => exact hd
  | some x => exact hf x rfl
theorem keep_ite {z a b : State} {c : Prop} [Decidable c] (ha : c → Keep z a) (hb : ¬c → Keep z b) : Keep z (if c then a else b) := by
  split
  · exact ha ‹_›
  · exact hb ‹_›
theorem foldl_pred {α β : Type} {f : β → α → β} (P : β → Prop) (hf : ∀ b a, P b → P (f b a)) : ∀ (l : List α) (b : β), P b → P (l.foldl f b)
  | [], _, h => h
  | a :: r, b, h => foldl_pred P hf r (f b a) (hf b a h)
end Sys2Proof.Machine
end

