-- ==== Sys2Proof/Laws/Keep1.lean ====
section
/-! SUPPORT. Keep, of the operations and meanings of Ops, Mailbox, Status, LinkOps, BarrierOps, ChanOps, DevMem, TraceOps, EngOps, HuskOps, PartOps, RegionOps, ResetOps, Records, Faults. -/

namespace Sys2Proof.Machine

@[simp] theorem State_setMb_keep {z : State} {s : State} {fn : Nat} {m : Mailbox} (hz : Keep z s) :
    Keep z (State.setMb s fn m) := by
  unfold State.setMb; simp [hz]
@[simp] theorem State_setFn_keep {z : State} {s : State} {fn : Nat} {r : FnRegs} (hz : Keep z s) :
    Keep z (State.setFn s fn r) := by
  unfold State.setFn; simp [hz]
@[simp] theorem State_setPt_keep {z : State} {s : State} {p : Nat} {x : Part} (hz : Keep z s) :
    Keep z (State.setPt s p x) := by
  unfold State.setPt; simp [hz]
@[simp] theorem State_setPod_keep {z : State} {s : State} {k : Nat} {x : Pod} (hz : Keep z s) :
    Keep z (State.setPod s k x) := by
  unfold State.setPod; simp [hz]
@[simp] theorem State_setSprout_keep {z : State} {s : State} {rg : Nat} {x : Sprout} (hz : Keep z s) :
    Keep z (State.setSprout s rg x) := by
  unfold State.setSprout; simp [hz]
@[simp] theorem State_setFeed_keep {z : State} {s : State} {f : Nat} {x : Feed} (hz : Keep z s) :
    Keep z (State.setFeed s f x) := by
  unfold State.setFeed; simp [hz]
@[simp] theorem State_takeFree_keep {z : State} {s : State} {n : Nat} (hz : Keep z s) :
    Keep z (State.takeFree s n).2 := by
  unfold State.takeFree; simp [hz]
theorem State_takeFree_keepE {z : State} {s : State} {n : Nat} {u9 : _} {w9 : State} (hz : Keep z s)
    (e9 : State.takeFree s n = (u9, w9)) : Keep z w9 := by
  have h := State_takeFree_keep (z := z) (s := s) (n := n) hz; rw [e9] at h; simpa using h
@[simp] theorem raiseVec_keep {z : State} {s : State} {fn v : Nat} (hz : Keep z s) :
    Keep z (raiseVec s fn v) := by
  unfold raiseVec; simp [hz]
@[simp] theorem setInt_keep {z : State} {s : State} {fn b : Nat} (hz : Keep z s) :
    Keep z (setInt s fn b) := by
  unfold setInt; (repeat' split) <;> simp [*]
@[simp] theorem setIntAll_keep {z : State} {s : State} {b : Nat} (hz : Keep z s) :
    Keep z (setIntAll s b) := by
  unfold setIntAll; try dsimp only
  (repeat' first
    | with_reducible assumption
    | (with_reducible refine foldl_keep (fun _ _ _ => ?_) _ ?_; try dsimp only)
    | split
    | with_reducible refine setInt_keep ?_)
@[simp] theorem forFns_keep {z s : State} {l : List Nat} {f : State → Nat → State} (hf : ∀ s a, Keep z s → Keep z (f s a)) (hz : Keep z s) :
    Keep z (forFns s l f) := foldl_keep hf l hz
@[simp] theorem noteStatus_keep {z : State} {s0 s : State} {fn : Nat} (hz : Keep z s) :
    Keep z (noteStatus s0 s fn) := by
  unfold noteStatus; (repeat' split) <;> simp [*]
@[simp] theorem updMb_keep {z : State} {s : State} {fn : Nat} {m : Mailbox} (hz : Keep z s) :
    Keep z (updMb s fn m) := by
  unfold updMb; simp [hz]
@[simp] theorem noteStatusAll_keep {z : State} {s0 s : State} (hz : Keep z s) :
    Keep z (noteStatusAll s0 s) := by
  unfold noteStatusAll; try dsimp only
  (repeat' first
    | with_reducible assumption
    | (with_reducible refine foldl_keep (fun _ _ _ => ?_) _ ?_; try dsimp only)
    | split
    | with_reducible refine noteStatus_keep ?_)
@[simp] theorem ringFail_keep {z : State} {s : State} {fn : Nat} (hz : Keep z s) :
    Keep z (ringFail s fn) := by
  unfold ringFail; simp [hz]
@[simp] theorem postIrq_keep {z : State} {s : State} {fn : Nat} {evt : Bool} (hz : Keep z s) :
    Keep z (postIrq s fn evt) := by
  unfold postIrq; try dsimp only
  (repeat' first
    | with_reducible assumption
    | split
    | with_reducible refine raiseVec_keep ?_
    | with_reducible refine State_setMb_keep ?_)
@[simp] theorem postRsp_keep {z : State} {s : State} {fn : Nat} {accepted : Bool} {c : Consumed} {r : Result} (hz : Keep z s) :
    Keep z (postRsp s fn accepted c r) := by
  unfold postRsp; try dsimp only
  (repeat' first
    | with_reducible assumption
    | split
    | with_reducible refine ringFail_keep ?_
    | with_reducible refine postIrq_keep ?_
    | with_reducible refine State_setMb_keep ?_)
@[simp] theorem writeEvent_keep {z : State} {s : State} {fn : Nat} {q : W32} {e : Event} (hz : Keep z s) :
    Keep z (writeEvent s fn q e) := by
  unfold writeEvent; simp [hz]
@[simp] theorem flushEvents_keep {z : State} {n : Nat} {s : State} {fn : Nat} (hz : Keep z s) :
    Keep z (flushEvents n s fn) := by
  induction n generalizing s with
  | zero => simpa [flushEvents]
  | succ n ih => unfold flushEvents; dsimp only; (repeat' split) <;> (try apply ih) <;> simp [*]
@[simp] theorem raiseAt_keep {z : State} {s : State} {fn : Nat} {e : Event} (hz : Keep z s) :
    Keep z (raiseAt s fn e) := by
  unfold raiseAt; (repeat' split) <;> simp [*]
@[simp] theorem eventPart_keep {z : State} {s : State} {p code : Nat} {payload : List Byte} (hz : Keep z s) :
    Keep z (eventPart s p code payload) := by
  unfold eventPart; simp [hz]
@[simp] theorem eventDev_keep {z : State} {s : State} {code : Nat} {payload : List Byte} (hz : Keep z s) :
    Keep z (eventDev s code payload) := by
  unfold eventDev; simp [hz]
@[simp] theorem eventAll_keep {z : State} {s : State} {code : Nat} {payload : List Byte} (hz : Keep z s) :
    Keep z (eventAll s code payload) := by
  unfold eventAll; try dsimp only
  (repeat' first
    | with_reducible assumption
    | (with_reducible refine forFns_keep (fun _ _ _ => ?_) ?_; try dsimp only)
    | split
    | with_reducible refine forFns_keep ?_
    | with_reducible refine raiseAt_keep ?_)
@[simp] theorem modCmd_keep {z : State} {s : State} {fn id : Nat} {f : Consumed → Consumed} (hz : Keep z s) :
    Keep z (modCmd s fn id f) := by
  unfold modCmd; simp [hz]
@[simp] theorem endCmd_keep {z : State} {s : State} {fn : Nat} {c : Consumed} {r : Result} (hz : Keep z s) :
    Keep z (endCmd s fn c r) := by
  unfold endCmd; try dsimp only
  (repeat' first
    | with_reducible assumption
    | split
    | with_reducible refine State_setMb_keep ?_
    | with_reducible refine raiseAt_keep ?_
    | with_reducible refine postRsp_keep ?_)
@[simp] theorem drainRefusals_keep {z : State} {n : Nat} {s : State} {fn : Nat} (hz : Keep z s) :
    Keep z (drainRefusals n s fn) := by
  induction n generalizing s with
  | zero => simpa [drainRefusals]
  | succ n ih => unfold drainRefusals; dsimp only; split <;> (try apply ih) <;> simp [*]
@[simp] theorem finish_keep {z : State} {s : State} {fn id : Nat} {r : Result} (hz : Keep z s) :
    Keep z (finish s fn id r) := by
  unfold finish; (repeat' split) <;> simp [*]
@[simp] theorem finishSt_keep {z : State} {s : State} {fn id status : Nat} (hz : Keep z s) :
    Keep z (finishSt s fn id status) := by
  unfold finishSt; simp [hz]
@[simp] theorem finishOk_keep {z : State} {s : State} {fn id : Nat} {payload : List Byte} (hz : Keep z s) :
    Keep z (finishOk s fn id payload) := by
  unfold finishOk; simp [hz]
@[simp] theorem accept_keep {z : State} {s : State} {fn id : Nat} (hz : Keep z s) :
    Keep z (accept s fn id) := by
  unfold accept; (repeat' split) <;> simp [*]
@[simp] theorem begun_keep {z : State} {s : State} {fn id : Nat} (hz : Keep z s) :
    Keep z (begun s fn id) := by
  unfold begun; simp [hz]
@[simp] theorem workDone_keep {z : State} {s : State} {fn id : Nat} {r : Result} (hz : Keep z s) :
    Keep z (workDone s fn id r) := by
  unfold workDone; simp [hz]
theorem withCmd_keep {z s : State} {fn cls verb : Nat} {k : Consumed → State → State} (hk : ∀ c t, Keep z t → Keep z (k c t)) (hz : Keep z s) :
    KeepOut z (withCmd s fn cls verb k) := by
  unfold withCmd; split
  · simpa using hz
  · simpa using hk _ _ hz
@[simp] theorem serveEnable_keep {z : State} {s : State} {fn : Nat} (hz : Keep z s) :
    Keep z (serveEnable s fn) := by
  unfold serveEnable; try dsimp only
  (repeat' first
    | with_reducible assumption
    | split
    | with_reducible refine updMb_keep ?_
    | with_reducible refine writeEvent_keep ?_
    | with_reducible refine ringFail_keep ?_)
@[simp] theorem setIntIf_keep {z : State} {s : State} {b : Nat} {fns : List Nat} {c : Nat → Bool} (hz : Keep z s) :
    Keep z (setIntIf s b fns c) := by
  unfold setIntIf; try dsimp only
  (repeat' first
    | with_reducible assumption
    | (with_reducible refine foldl_keep (fun _ _ _ => ?_) _ ?_; try dsimp only)
    | split
    | with_reducible refine setInt_keep ?_)
@[simp] theorem note_keep {z : State} {s0 s : State} (hz : Keep z s) :
    Keep z (note s0 s) := by
  unfold note; try dsimp only
  (repeat' first
    | with_reducible assumption
    | split
    | with_reducible refine setIntAll_keep ?_
    | with_reducible refine setIntIf_keep ?_
    | with_reducible refine setInt_keep ?_)
theorem nextN_keep {z : State} {s0 s : State} (hz : Keep z s) :
    KeepOut z (nextN s0 s) := by
  unfold nextN; simp [hz]
@[simp] theorem State_setPort_keep {z : State} {s : State} {p : Nat} {x : Port} (hz : Keep z s) :
    Keep z (State.setPort s p x) := by
  unfold State.setPort; simp [hz]
@[simp] theorem portPump_keep {z : State} {s : State} {p : Nat} (hz : Keep z s) :
    Keep z (portPump s p) := by
  unfold portPump; simp [hz]
@[simp] theorem enqueueFlits_keep {z : State} {s : State} {p vc : Nat} {l : List OutFlit} (hz : Keep z s) :
    Keep z (enqueueFlits s p vc l) := by
  unfold enqueueFlits; simp [hz]
@[simp] theorem sendMgmtAt_keep {z : State} {s : State} {p dst dstPart srcPart mtype : Nat} {body : List Byte} (hz : Keep z s) :
    Keep z (sendMgmtAt s p dst dstPart srcPart mtype body) := by
  unfold sendMgmtAt; simp [hz]
@[simp] theorem sendMgmt_keep {z : State} {s : State} {dst dstPart srcPart mtype : Nat} {body : List Byte} (hz : Keep z s) :
    Keep z (sendMgmt s dst dstPart srcPart mtype body) := by
  unfold sendMgmt; (repeat' split) <;> simp [*]
@[simp] theorem sendSync_keep {z : State} {s : State} {dst kind dstPart srcPart : Nat} {body : List Byte} (hz : Keep z s) :
    Keep z (sendSync s dst kind dstPart srcPart body) := by
  unfold sendSync; (repeat' split) <;> simp [*]
@[simp] theorem sendMsg_keep {z : State} {s : State} {dst part chan : Nat} {b : List Byte} (hz : Keep z s) :
    Keep z (sendMsg s dst part chan b) := by
  unfold sendMsg; try dsimp only
  (repeat' first
    | with_reducible assumption
    | split
    | with_reducible refine State_setPort_keep ?_)
@[simp] theorem sendBulk_keep {z : State} {s : State} {dst kind dstPart srcPart xfer off engine status key : Nat} {content : List Byte} {poison : List Nat} (hz : Keep z s) :
    Keep z (sendBulk s dst kind dstPart srcPart xfer off engine status key content poison) := by
  unfold sendBulk; (repeat' split) <;> simp [*]
@[simp] theorem sendComplete_keep {z : State} {s : State} {b : Bulk} {status : Nat} (hz : Keep z s) :
    Keep z (sendComplete s b status) := by
  unfold sendComplete; simp [hz]
@[simp] theorem sendXfer_keep {z : State} {s : State} {use : XferUse} {dst dstPart part kind off engine key : Nat} {content : List Byte} {poison : List Nat} (hz : Keep z s) :
    KeepO z ((sendXfer s use dst dstPart part kind off engine key content poison).map (fun x => x.2)) := by
  unfold sendXfer; try dsimp only
  (repeat' first
    | with_reducible assumption
    | split
    | with_reducible refine sendBulk_keep ?_
    | simp only [keep_mk, keep_eta, keepO_none, keepO_some, keepOut_next, keepOut_fault]) <;> simp [*]
theorem sendXfer_keepE {z : State} {s : State} {use : XferUse} {dst dstPart part kind off engine key : Nat} {content : List Byte} {poison : List Nat} {u9 : _} {w9 : State} (hz : Keep z s)
    (e9 : sendXfer s use dst dstPart part kind off engine key content poison = some (u9, w9)) : Keep z w9 := by
  have h := sendXfer_keep (z := z) (s := s) (use := use) (dst := dst) (dstPart := dstPart) (part := part) (kind := kind) (off := off) (engine := engine) (key := key) (content := content) (poison := poison) hz; simp only [KeepO] at h; rw [e9] at h; simpa using h
@[simp] theorem releaseLinks_keep {z : State} {s : State} (hz : Keep z s) :
    Keep z (releaseLinks s) := by
  unfold releaseLinks; try dsimp only
  (repeat' first
    | with_reducible assumption
    | (with_reducible refine foldl_keep (fun _ _ _ => ?_) _ ?_; try dsimp only)
    | split
    | with_reducible refine State_setPort_keep ?_
    | simp only [keep_mk, keep_eta])
@[simp] theorem releaseTo_keep {z : State} {s : State} {dst dstPart srcPart : Nat} {b : W64} {m : BitVec 128} {v0 v1 : W32} {result : Nat} (hz : Keep z s) :
    Keep z (releaseTo s dst dstPart srcPart b m v0 v1 result) := by
  unfold releaseTo; (repeat' split) <;> simp [*]
@[simp] theorem ownValues_keep {z : State} {s : State} {b : Option Barrier} (hz : Keep z s) :
    Keep z (ownValues s b).2 := by
  unfold ownValues; (repeat' split) <;> simp [*]
theorem ownValues_keepE {z : State} {s : State} {b : Option Barrier} {u9 : _} {w9 : State} (hz : Keep z s)
    (e9 : ownValues s b = (u9, w9)) : Keep z w9 := by
  have h := ownValues_keep (z := z) (s := s) (b := b) hz; rw [e9] at h; simpa using h
@[simp] theorem arriveAtRoot_keep {z : State} {s : State} {r : SyncRec} (hz : Keep z s) :
    Keep z (arriveAtRoot s r) := by
  have hf : ∀ b p o, Keep z (arriveAtRoot.finishOrHold s b p o) := by
    intro b p o
    unfold arriveAtRoot.finishOrHold
    split
    · exact foldl_keep (fun _ _ h => releaseTo_keep h) _ (by simpa)
    · simpa
  unfold arriveAtRoot; dsimp only
  (repeat' split) <;> first | exact hf _ _ _ | exact hz | exact releaseTo_keep (ownValues_keep hz)
@[simp] theorem arrive_keep {z : State} {s : State} {part : Nat} {barrier : W64} {members : List (Nat × Nat)} {v0 v1 : W32} (hz : Keep z s) :
    Keep z (arrive s part barrier members v0 v1) := by
  unfold arrive; try dsimp only
  (repeat' first
    | with_reducible assumption
    | split
    | with_reducible refine arriveAtRoot_keep ?_
    | with_reducible refine sendSync_keep ?_)
@[simp] theorem State_setChan_keep {z : State} {s : State} {k : Nat} {c : Chan} (hz : Keep z s) :
    Keep z (State.setChan s k c) := by
  unfold State.setChan; simp [hz]
@[simp] theorem State_freeChan_keep {z : State} {s : State} {k : Nat} (hz : Keep z s) :
    Keep z (State.freeChan s k) := by
  unfold State.freeChan; simp [hz]
@[simp] theorem State_setPage_keep {z : State} {s : State} {fn p : Nat} {x : PortPage} (hz : Keep z s) :
    Keep z (State.setPage s fn p x) := by
  unfold State.setPage; simp [hz]
@[simp] theorem chanEvent_keep {z : State} {s : State} {k code : Nat} {c : Chan} {payload : List Byte} (hz : Keep z s) :
    Keep z (chanEvent s k code c payload) := by
  unfold chanEvent; try dsimp only
  (repeat' first
    | with_reducible assumption
    | (with_reducible refine map_getD_keep ?_ (fun _ _ => ?_))
    | (with_reducible refine getD_keep ?_ (fun _ _ => ?_))
    | (with_reducible refine forFns_keep (fun _ _ _ => ?_) ?_; try dsimp only)
    | split
    | with_reducible refine forFns_keep ?_
    | with_reducible refine raiseAt_keep ?_)
@[simp] theorem closedEvent_keep {z : State} {s : State} {k : Nat} {c : Chan} {cause status : Nat} (hz : Keep z s) :
    Keep z (closedEvent s k c cause status) := by
  unfold closedEvent; simp [hz]
@[simp] theorem portIrq_keep {z : State} {s : State} {e : Endpoint} {b : Nat} (hz : Keep z s) :
    Keep z (portIrq s e b) := by
  unfold portIrq; (repeat' split) <;> simp [*]
@[simp] theorem msgRecord_keep {z : State} {s : State} {c : Chan} {k kind : Nat} {tail : List Byte} {words : List W64} (hz : Keep z s) :
    Keep z (msgRecord s c k kind tail words) := by
  unfold msgRecord; simp [hz]
@[simp] theorem sendClose_keep {z : State} {s : State} {k : Nat} {c : Chan} {cause : Nat} (hz : Keep z s) :
    Keep z (sendClose s k c cause) := by
  unfold sendClose; simp [hz]
@[simp] theorem loseEnds_keep {z : State} {s : State} {k : Nat} {gs gr : Bool} {cause : Nat} (hz : Keep z s) :
    Keep z (loseEnds s k gs gr cause) := by
  unfold loseEnds; try dsimp only
  (repeat' first
    | with_reducible assumption
    | split
    | with_reducible refine sendClose_keep ?_
    | with_reducible refine State_freeChan_keep ?_
    | with_reducible refine State_setChan_keep ?_
    | with_reducible refine closedEvent_keep ?_
    | with_reducible refine portIrq_keep ?_)
@[simp] theorem loseWhere_keep {z : State} {s : State} {p : Endpoint → Bool} {cause : Nat} (hz : Keep z s) :
    Keep z (loseWhere s p cause) := by
  unfold loseWhere; try dsimp only
  (repeat' first
    | with_reducible assumption
    | (with_reducible refine foldl_keep (fun _ _ _ => ?_) _ ?_; try dsimp only)
    | split
    | with_reducible refine loseEnds_keep ?_)
@[simp] theorem nackTo_keep {z : State} {s : State} {e : Endpoint} {tag : W16} (hz : Keep z s) :
    Keep z (nackTo s e tag) := by
  unfold nackTo; try dsimp only
  (repeat' first
    | with_reducible assumption
    | split
    | with_reducible refine raiseVec_keep ?_
    | simp only [keep_mk, keep_eta])
@[simp] theorem enterQueue_keep {z : State} {s : State} {k : Nat} {m : Message} (hz : Keep z s) :
    Keep z (enterQueue s k m) := by
  unfold enterQueue; try dsimp only
  (repeat' first
    | with_reducible assumption
    | split
    | with_reducible refine State_setChan_keep ?_
    | with_reducible refine portIrq_keep ?_)
@[simp] theorem giveCredit_keep {z : State} {s : State} {k : Nat} (hz : Keep z s) :
    Keep z (giveCredit s k) := by
  unfold giveCredit; try dsimp only
  (repeat' first
    | with_reducible assumption
    | split
    | with_reducible refine State_setChan_keep ?_)
@[simp] theorem popMessage_keep {z : State} {s : State} {k : Nat} (hz : Keep z s) :
    KeepO z ((popMessage s k).map (fun x => x.2)) := by
  unfold popMessage; try dsimp only
  (repeat' first
    | with_reducible assumption
    | split
    | with_reducible refine giveCredit_keep ?_
    | with_reducible refine State_setChan_keep ?_
    | simp only [keep_mk, keep_eta, keepO_none, keepO_some, keepOut_next, keepOut_fault]) <;> simp [*]
theorem popMessage_keepE {z : State} {s : State} {k : Nat} {u9 : _} {w9 : State} (hz : Keep z s)
    (e9 : popMessage s k = some (u9, w9)) : Keep z w9 := by
  have h := popMessage_keep (z := z) (s := s) (k := k) hz; simp only [KeepO] at h; rw [e9] at h; simpa using h
@[simp] theorem relay_keep {z : State} {n : Nat} {s : State} {k : Nat} (hz : Keep z s) :
    Keep z (relay n s k) := by
  induction n generalizing s with
  | zero => simpa [relay]
  | succ n ih =>
    unfold relay; dsimp only
    split
    · exact hz
    · split
      · exact hz
      · exact ih (raiseAt_keep (popMessage_keepE hz ‹_›))
@[simp] theorem relayAll_keep {z : State} {s : State} {fn : Nat} (hz : Keep z s) :
    Keep z (relayAll s fn) := by
  unfold relayAll; try dsimp only
  (repeat' first
    | with_reducible assumption
    | (with_reducible refine foldl_keep (fun _ _ _ => ?_) _ ?_; try dsimp only)
    | split
    | with_reducible refine relay_keep ?_)
@[simp] theorem chanSend_keep {z : State} {s : State} {k : Nat} {m : Message} (hz : Keep z s) :
    Keep z (chanSend s k m) := by
  unfold chanSend; try dsimp only
  (repeat' first
    | with_reducible assumption
    | split
    | with_reducible refine msgRecord_keep ?_
    | with_reducible refine State_setChan_keep ?_)
theorem hbmPut_mem {h : Hbm} {a : Nat} {d : List Byte} {p : Nat → Nat → Bool} : (hbmPut h a d p).mem = mwrite 0 h.mem a d := by
  unfold hbmPut; refine (foldl_proj (g := Hbm.mem) ?_ _ _).trans rfl; intros; rfl
theorem cellPut_cells {h : Fabric} {a : Nat} {d : List Byte} {p : Nat → Nat → Bool} : (cellPut h a d p).cells = mwrite 0 h.cells (a - cellBase) d := by
  unfold cellPut; refine (foldl_proj (g := Fabric.cells) ?_ _ _).trans rfl; intros; rfl
@[simp] theorem poisonRange_keep {z : State} {s : State} {a n : Nat} (hz : Keep z s) :
    Keep z (poisonRange s a n) := by
  unfold poisonRange; try dsimp only
  (repeat' first
    | with_reducible assumption
    | (with_reducible refine foldl_keep (fun _ _ _ => ?_) _ ?_)
    | split
    | simp only [keep_mk, keep_eta])
@[simp] theorem epochEvent_keep {z : State} {s : State} {mask code : Nat} {payload : List Byte} (hz : Keep z s) :
    Keep z (epochEvent s mask code payload) := by
  unfold epochEvent; try dsimp only
  (repeat' first
    | with_reducible assumption
    | (with_reducible refine forFns_keep (fun _ _ _ => ?_) ?_; try dsimp only)
    | split
    | with_reducible refine forFns_keep ?_
    | with_reducible refine raiseAt_keep ?_)
@[simp] theorem reserveFull_keep {z : State} {s : State} (hz : Keep z s) :
    Keep z (reserveFull s) := by
  unfold reserveFull; (repeat' split) <;> simp [*]
@[simp] theorem cowClaim_keep {z : State} {s : State} {part g : Nat} (hz : Keep z s) :
    Keep z (cowClaim s part g) := by
  unfold cowClaim; (repeat' split) <;> simp [*]
@[simp] theorem applyTracked_keep {z : State} {s : State} {a : Nat} {data : List Byte} {pois : Nat → Nat → Bool} (hz : Keep z s) :
    Keep z (applyTracked s a data pois) := by
  unfold applyTracked; rw [keep_mk, hbmPut_mem]; exact keepF_hbm hz mwrite_wf
@[simp] theorem trackedPiece_keep {z : State} {s : State} {part a : Nat} {data : List Byte} {pois : Nat → Nat → Bool} (hz : Keep z s) :
    Keep z (trackedPiece s part a data pois) := by
  unfold trackedPiece; try dsimp only
  (repeat' first
    | with_reducible assumption
    | split
    | with_reducible refine cowClaim_keep ?_
    | with_reducible refine applyTracked_keep ?_
    | simp only [keep_mk, keep_eta])
@[simp] theorem trackedWrite_keep {z : State} {s : State} {part a : Nat} {data : List Byte} {pois : Nat → Nat → Bool} (hz : Keep z s) :
    Keep z (trackedWrite s part a data pois) := by
  unfold trackedWrite; try dsimp only
  (repeat' first
    | with_reducible assumption
    | (with_reducible refine foldl_keep (fun _ _ _ => ?_) _ ?_; try dsimp only)
    | split
    | with_reducible refine trackedPiece_keep ?_)
@[simp] theorem engineWrite_keep {z : State} {s : State} {part a : Nat} {data : List Byte} {pois : Nat → Nat → Bool} (hz : Keep z s) :
    Keep z (engineWrite s part a data pois) := by
  unfold engineWrite; split
  · rw [keep_mk, cellPut_cells]; exact keepF_cells hz mwrite_wf
  · simp [hz]
@[simp] theorem windowWrite_keep {z : State} {s : State} {part o : Nat} {data : List Byte} {pois : Nat → Nat → Bool} (hz : Keep z s) :
    Keep z (windowWrite s part o data pois) := by
  unfold windowWrite; split
  · exact hz
  · refine foldl_pred (fun x : State × Nat => Keep z x.1) ?_ _ _ hz
    intro b a h; dsimp only; with_reducible exact trackedWrite_keep h
@[simp] theorem State_setSes_keep {z : State} {s : State} {fn : Nat} {x : Session} (hz : Keep z s) :
    Keep z (State.setSes s fn x) := by
  unfold State.setSes; simp [hz]
@[simp] theorem sesState_keep {z : State} {s : State} {fn : Nat} {x : Session} {new : TraceState} {cause : Nat} (hz : Keep z s) :
    Keep z (sesState s fn x new cause) := by
  unfold sesState; (repeat' split) <;> simp [*]
@[simp] theorem releaseSink_keep {z : State} {s : State} {x : Session} (hz : Keep z s) :
    Keep z (releaseSink s x) := by
  unfold releaseSink; simp [hz]
@[simp] theorem clearSession_keep {z : State} {s : State} {fn cause status : Nat} (hz : Keep z s) :
    Keep z (clearSession s fn cause status) := by
  unfold clearSession; try dsimp only
  (repeat' first
    | with_reducible assumption
    | split
    | with_reducible refine finishSt_keep ?_
    | with_reducible refine sesState_keep ?_
    | with_reducible refine releaseSink_keep ?_
    | with_reducible refine State_setSes_keep ?_)
@[simp] theorem loseSink_keep {z : State} {s : State} {fn : Nat} (hz : Keep z s) :
    Keep z (loseSink s fn) := by
  unfold loseSink; try dsimp only
  (repeat' first
    | with_reducible assumption
    | split
    | with_reducible refine finishSt_keep ?_
    | with_reducible refine sesState_keep ?_)
@[simp] theorem grantEvent_keep {z : State} {s : State} {id what : Nat} {g : TraceGrant} (hz : Keep z s) :
    Keep z (grantEvent s id what g) := by
  unfold grantEvent; try dsimp only
  (repeat' first
    | with_reducible assumption
    | (with_reducible refine forFns_keep (fun _ _ _ => ?_) ?_; try dsimp only)
    | split
    | with_reducible refine forFns_keep ?_
    | with_reducible refine raiseAt_keep ?_)
@[simp] theorem endGrant_keep {z : State} {s : State} {id what : Nat} (hz : Keep z s) :
    Keep z (endGrant s id what) := by
  unfold endGrant; (repeat' split) <;> simp [*]
@[simp] theorem endGrants_keep {z : State} {s : State} {p : TraceGrant → Bool} (hz : Keep z s) :
    Keep z (endGrants s p) := by
  unfold endGrants; try dsimp only
  (repeat' first
    | with_reducible assumption
    | (with_reducible refine foldl_keep (fun _ _ _ => ?_) _ ?_; try dsimp only)
    | split
    | with_reducible refine endGrant_keep ?_)
@[simp] theorem traceReset_keep {z : State} {s : State} {p : Nat} (hz : Keep z s) :
    Keep z (traceReset s p) := by
  unfold traceReset; simp [hz]
@[simp] theorem tracePart_keep {z : State} {s : State} {p src : Nat} {hdr : Byte} {rest : List Byte} (hz : Keep z s) :
    Keep z (tracePart s p src hdr rest) := by
  unfold tracePart; try dsimp only
  (repeat' first
    | with_reducible assumption
    | (with_reducible refine forFns_keep (fun _ _ _ => ?_) ?_; try dsimp only)
    | split
    | with_reducible refine forFns_keep ?_
    | with_reducible refine State_setSes_keep ?_)
@[simp] theorem traceDev_keep {z : State} {s : State} {src : Nat} {hdr : Byte} {rest : List Byte} {privileged : Bool} (hz : Keep z s) :
    Keep z (traceDev s src hdr rest privileged) := by
  unfold traceDev; try dsimp only
  (repeat' first
    | with_reducible assumption
    | split
    | with_reducible refine State_setSes_keep ?_)
@[simp] theorem traceThrottle_keep {z : State} {s : State} (hz : Keep z s) :
    Keep z (traceThrottle s) := by
  unfold traceThrottle; try dsimp only
  (repeat' first
    | with_reducible assumption
    | (with_reducible refine forFns_keep (fun _ _ _ => ?_) ?_; try dsimp only)
    | split
    | with_reducible refine forFns_keep ?_
    | with_reducible refine State_setSes_keep ?_)
@[simp] theorem traceBranch_keep {z : State} {s : State} {p : Nat} {taken : Bool} (hz : Keep z s) :
    Keep z (traceBranch s p taken) := by
  unfold traceBranch; try dsimp only
  (repeat' first
    | with_reducible assumption
    | (with_reducible refine forFns_keep (fun _ _ _ => ?_) ?_; try dsimp only)
    | split
    | with_reducible refine forFns_keep ?_
    | with_reducible refine State_setSes_keep ?_)
@[simp] theorem traceTarget_keep {z : State} {s : State} {p : Nat} {pc : W32} (hz : Keep z s) :
    Keep z (traceTarget s p pc) := by
  unfold traceTarget; simp [hz]
@[simp] theorem traceSprout_keep {z : State} {s : State} {p what : Nat} {pc : W32} (hz : Keep z s) :
    Keep z (traceSprout s p what pc) := by
  unfold traceSprout; simp [hz]
@[simp] theorem traceStall_keep {z : State} {s : State} {p : Nat} (hz : Keep z s) :
    Keep z (traceStall s p) := by
  unfold traceStall; try dsimp only
  (repeat' first
    | with_reducible assumption
    | split
    | with_reducible refine tracePart_keep ?_)
@[simp] theorem traceEng_keep {z : State} {s : State} {p engine : Nat} {sched : Bool} {job tag : W32} {status : Option Nat} (hz : Keep z s) :
    Keep z (traceEng s p engine sched job tag status) := by
  unfold traceEng; (repeat' split) <;> simp [*]
@[simp] theorem traceHusk_keep {z : State} {s : State} {p what state epoch : Nat} (hz : Keep z s) :
    Keep z (traceHusk s p what state epoch) := by
  unfold traceHusk; simp [hz]
@[simp] theorem poisonRest_keep {z : State} {s : State} {j : Job} (hz : Keep z s) :
    Keep z (poisonRest s j) := by
  unfold poisonRest; try dsimp only
  (repeat' first
    | with_reducible assumption
    | (with_reducible refine foldl_keep (fun _ _ _ => ?_) _ ?_; try dsimp only)
    | split
    | with_reducible refine poisonRange_keep ?_)
@[simp] theorem endLists_keep {z : State} {s : State} (hz : Keep z s) :
    Keep z (endLists s) := by
  unfold endLists; try dsimp only
  (repeat' first
    | with_reducible assumption
    | (with_reducible refine foldl_keep (fun _ _ _ => ?_) _ ?_; try dsimp only)
    | split
    | with_reducible refine traceEng_keep ?_
    | with_reducible refine workDone_keep ?_
    | simp only [keep_mk, keep_eta])
@[simp] theorem modList_keep {z : State} {s : State} {id : Nat} {f : JobList → JobList} (hz : Keep z s) :
    Keep z (modList s id f) := by
  unfold modList; simp [hz]
@[simp] theorem modJob_keep {z : State} {s : State} {id : Nat} {f : Job → Job} (hz : Keep z s) :
    Keep z (modJob s id f) := by
  unfold modJob; simp [hz]
@[simp] theorem retireJobs_keep {z : State} {s : State} {which : Job → Bool} {status : Nat} {power : Bool} (hz : Keep z s) :
    Keep z (retireJobs s which status power) := by
  unfold retireJobs; try dsimp only
  (repeat' first
    | with_reducible assumption
    | (with_reducible refine foldl_keep (fun _ _ _ => ?_) _ ?_; try dsimp only)
    | split
    | with_reducible refine poisonRest_keep ?_
    | with_reducible refine modList_keep ?_
    | simp only [keep_mk, keep_eta])
@[simp] theorem retireEmb_keep {z : State} {s : State} {which : EmbJob → Bool} {status : Nat} {power : Bool} (hz : Keep z s) :
    Keep z (retireEmb s which status power) := by
  unfold retireEmb; try dsimp only
  (repeat' first
    | with_reducible assumption
    | (with_reducible refine foldl_keep (fun _ _ _ => ?_) _ ?_; try dsimp only)
    | split
    | with_reducible refine poisonRange_keep ?_
    | with_reducible refine modList_keep ?_
    | simp only [keep_mk, keep_eta])
@[simp] theorem retireMigrations_keep {z : State} {s : State} {p status : Nat} (hz : Keep z s) :
    Keep z (retireMigrations s p status) := by
  unfold retireMigrations; try dsimp only
  (repeat' first
    | with_reducible assumption
    | (with_reducible refine foldl_keep (fun _ _ _ => ?_) _ ?_; try dsimp only)
    | split
    | with_reducible refine workDone_keep ?_
    | simp only [keep_mk, keep_eta])
@[simp] theorem retireColls_keep {z : State} {s : State} {p status : Nat} (hz : Keep z s) :
    Keep z (retireColls s p status) := by
  unfold retireColls; try dsimp only
  (repeat' first
    | with_reducible assumption
    | (with_reducible refine foldl_keep (fun _ _ _ => ?_) _ ?_; try dsimp only)
    | split
    | with_reducible refine workDone_keep ?_
    | simp only [keep_mk, keep_eta])
@[simp] theorem dropDriveQueue_keep {z : State} {s : State} {p : Nat} (hz : Keep z s) :
    Keep z (dropDriveQueue s p) := by
  unfold dropDriveQueue; simp [hz]
@[simp] theorem retirePart_keep {z : State} {s : State} {p status outer : Nat} {power : Bool} (hz : Keep z s) :
    Keep z (retirePart s p status outer power) := by
  unfold retirePart; try dsimp only
  (repeat' first
    | with_reducible assumption
    | split
    | with_reducible refine retireJobs_keep ?_
    | with_reducible refine retireEmb_keep ?_
    | with_reducible refine endLists_keep ?_
    | with_reducible refine retireColls_keep ?_
    | with_reducible refine retireMigrations_keep ?_)
@[simp] theorem setEpochState_keep {z : State} {s : State} {new : EpochState} {cause : Nat} (hz : Keep z s) :
    Keep z (setEpochState s new cause) := by
  unfold setEpochState; try dsimp only
  (repeat' first
    | with_reducible assumption
    | (with_reducible refine foldl_keep (fun _ _ _ => ?_) _ ?_; try dsimp only)
    | split
    | with_reducible refine traceHusk_keep ?_
    | with_reducible refine epochEvent_keep ?_
    | simp only [keep_mk, keep_eta])
@[simp] theorem sendOutcome_keep {z : State} {s : State} {key : W32} {members : List (Nat × Nat)} {self outcome cause epoch : Nat} (hz : Keep z s) :
    Keep z (sendOutcome s key members self outcome cause epoch) := by
  unfold sendOutcome; try dsimp only
  (repeat' first
    | with_reducible assumption
    | (with_reducible refine foldl_keep (fun _ _ _ => ?_) _ ?_; try dsimp only)
    | split
    | with_reducible refine sendMgmt_keep ?_)
@[simp] theorem answerSys_keep {z : State} {s : State} {w : SysWait} {status sys : Nat} (hz : Keep z s) :
    Keep z (answerSys s w status sys) := by
  unfold answerSys; (repeat' split) <;> simp [*]
@[simp] theorem snapEnded_keep {z : State} {s : State} {ok : Bool} (hz : Keep z s) :
    Keep z (snapEnded s ok) := by
  unfold snapEnded; try dsimp only
  (repeat' first
    | with_reducible assumption
    | split
    | with_reducible refine workDone_keep ?_
    | with_reducible refine answered_keep ?_
    | with_reducible refine sendOutcome_keep ?_
    | with_reducible refine arrive_keep ?_
    | with_reducible refine answerSys_keep ?_
    | simp only [keep_mk, keep_eta])
@[simp] theorem applyHeld_keep {z : State} {s : State} {which : HeldWrite → Bool} (hz : Keep z s) :
    Keep z (applyHeld s which) := by
  unfold applyHeld; try dsimp only
  (repeat' first
    | with_reducible assumption
    | (with_reducible refine foldl_keep (fun _ _ _ => ?_) _ ?_; try dsimp only)
    | split
    | with_reducible refine applyTracked_keep ?_
    | simp only [keep_mk, keep_eta])
@[simp] theorem endPause_keep {z : State} {s : State} {p : Nat} (hz : Keep z s) :
    Keep z (endPause s p) := by
  unfold endPause; try dsimp only
  (repeat' first
    | with_reducible assumption
    | split
    | with_reducible refine State_setPt_keep ?_
    | with_reducible refine traceSprout_keep ?_)
@[simp] theorem unpause_keep {z : State} {s : State} (hz : Keep z s) :
    Keep z (unpause s) := by
  unfold unpause; try dsimp only
  (repeat' first
    | with_reducible assumption
    | (with_reducible refine foldl_keep (fun _ _ _ => ?_) _ ?_; try dsimp only)
    | split
    | with_reducible refine endPause_keep ?_)
@[simp] theorem dropEpochWrites_keep {z : State} {s : State} {v : Nat} (hz : Keep z s) :
    Keep z (dropEpochWrites s v) := by
  unfold dropEpochWrites; simp [hz]
@[simp] theorem epochIncomplete_keep {z : State} {s : State} {cause : Nat} (hz : Keep z s) :
    Keep z (epochIncomplete s cause) := by
  unfold epochIncomplete; try dsimp only
  (repeat' first
    | with_reducible assumption
    | (with_reducible refine foldl_keep (fun _ _ _ => ?_) _ ?_)
    | (with_reducible refine map_getD_keep ?_ (fun _ _ => ?_))
    | (with_reducible refine getD_keep ?_ (fun _ _ => ?_))
    | split
    | with_reducible refine dropEpochWrites_keep ?_
    | with_reducible refine unpause_keep ?_
    | with_reducible refine setEpochState_keep ?_
    | with_reducible refine snapEnded_keep ?_
    | with_reducible refine applyHeld_keep ?_
    | simp only [keep_mk, keep_eta])
@[simp] theorem dropReads_keep {z : State} {s : State} {i : Nat} (hz : Keep z s) :
    Keep z (dropReads s i) := by
  unfold dropReads; simp [hz]
@[simp] theorem endRestore_keep {z : State} {s : State} {status : Nat} (hz : Keep z s) :
    Keep z (endRestore s status) := by
  unfold endRestore; try dsimp only
  (repeat' first
    | with_reducible assumption
    | (with_reducible refine map_getD_keep ?_ (fun _ _ => ?_))
    | (with_reducible refine getD_keep ?_ (fun _ _ => ?_))
    | (with_reducible refine forFns_keep (fun _ _ _ => ?_) ?_; try dsimp only)
    | split
    | with_reducible refine dropReads_keep ?_
    | with_reducible refine workDone_keep ?_
    | with_reducible refine forFns_keep ?_
    | with_reducible refine raiseAt_keep ?_
    | simp only [keep_mk, keep_eta])
@[simp] theorem snapshotLoses_keep {z : State} {s : State} {p cause : Nat} (hz : Keep z s) :
    Keep z (snapshotLoses s p cause) := by
  unfold snapshotLoses; (repeat' split) <;> simp [*]
@[simp] theorem partState_keep {z : State} {s : State} {p : Nat} {new : PartState} {cause : Nat} (hz : Keep z s) :
    Keep z (partState s p new cause) := by
  unfold partState; try dsimp only
  (repeat' first
    | with_reducible assumption
    | split
    | with_reducible refine State_setPt_keep ?_
    | with_reducible refine eventPart_keep ?_)
@[simp] theorem fenceTo_keep {z : State} {s : State} {p : Nat} {st : FenceState} {reason : Nat} (hz : Keep z s) :
    Keep z (fenceTo s p st reason) := by
  unfold fenceTo; simp [hz]
@[simp] theorem fenceOpen_keep {z : State} {s : State} {p : Nat} (hz : Keep z s) :
    Keep z (fenceOpen s p) := by
  unfold fenceOpen; simp [hz]
@[simp] theorem zeroCells_keep {z : State} {s : State} {rg : Nat} (hz : Keep z s) :
    Keep z (zeroCells s rg) := by
  unfold zeroCells; rw [keep_mk]; exact keepF_cells hz (filter_wf _)
@[simp] theorem clearRegion_keep {z : State} {s : State} {rg : Nat} (hz : Keep z s) :
    Keep z (clearRegion s rg) := by
  unfold clearRegion; simp [hz]
@[simp] theorem beginZeroing_keep {z : State} {s : State} {rgs : List Nat} (hz : Keep z s) :
    Keep z (beginZeroing s rgs) := by
  unfold beginZeroing; try dsimp only
  (repeat' first
    | with_reducible assumption
    | (with_reducible refine foldl_keep (fun _ _ _ => ?_) _ ?_)
    | split
    | simp only [keep_mk, keep_eta])
@[simp] theorem haltLeader_keep {z : State} {s : State} {p : Nat} (hz : Keep z s) :
    Keep z (haltLeader s p) := by
  unfold haltLeader; try dsimp only
  (repeat' first
    | with_reducible assumption
    | split
    | with_reducible refine State_setSprout_keep ?_
    | with_reducible refine traceSprout_keep ?_)
@[simp] theorem addTerminated_keep {z : State} {s : State} {p n : Nat} (hz : Keep z s) :
    Keep z (addTerminated s p n) := by
  unfold addTerminated; try dsimp only
  (repeat' first
    | with_reducible assumption
    | (with_reducible refine forFns_keep (fun _ _ _ => ?_) ?_; try dsimp only)
    | split
    | with_reducible refine forFns_keep ?_
    | with_reducible refine State_setFn_keep ?_)
@[simp] theorem endLoads_keep {z : State} {s : State} {p status : Nat} (hz : Keep z s) :
    Keep z (endLoads s p status) := by
  unfold endLoads; try dsimp only
  (repeat' first
    | with_reducible assumption
    | (with_reducible refine foldl_keep (fun _ _ _ => ?_) _ ?_; try dsimp only)
    | (with_reducible refine map_getD_keep ?_ (fun _ _ => ?_))
    | (with_reducible refine getD_keep ?_ (fun _ _ => ?_))
    | split
    | with_reducible refine workDone_keep ?_
    | with_reducible refine State_setPt_keep ?_)
@[simp] theorem endSave_keep {z : State} {s0 : State} {p status : Nat} (hz : Keep z s0) :
    Keep z (endSave s0 p status) := by
  unfold endSave; try dsimp only
  (repeat' first
    | with_reducible assumption
    | split
    | with_reducible refine endRestore_keep ?_
    | with_reducible refine workDone_keep ?_
    | with_reducible refine State_setPt_keep ?_
    | with_reducible refine finishSt_keep ?_)
@[simp] theorem contain_keep {z : State} {s : State} {p status outer cause : Nat} {power : Bool} (hz : Keep z s) :
    Keep z (contain s p status outer cause power) := by
  unfold contain; try dsimp only
  (repeat' first
    | with_reducible assumption
    | split
    | with_reducible refine retirePart_keep ?_
    | with_reducible refine dropDriveQueue_keep ?_
    | with_reducible refine addTerminated_keep ?_
    | with_reducible refine loseWhere_keep ?_
    | with_reducible refine eventPart_keep ?_)
@[simp] theorem revokeUnits_keep {z : State} {s : State} {us : List Nat} (hz : Keep z s) :
    Keep z (revokeUnits s us) := by
  unfold revokeUnits; try dsimp only
  (repeat' first
    | with_reducible assumption
    | (with_reducible refine foldl_keep (fun _ _ _ => ?_) _ ?_)
    | split
    | simp only [keep_mk, keep_eta])
@[simp] theorem releaseNamespaces_keep {z : State} {s : State} {p : Nat} (hz : Keep z s) :
    Keep z (releaseNamespaces s p) := by
  unfold releaseNamespaces; simp [hz]
@[simp] theorem freePart_keep {z : State} {s : State} {p : Nat} (hz : Keep z s) :
    Keep z (freePart s p) := by
  unfold freePart; try dsimp only
  (repeat' first
    | with_reducible assumption
    | (with_reducible refine map_getD_keep ?_ (fun _ _ => ?_))
    | (with_reducible refine getD_keep ?_ (fun _ _ => ?_))
    | split
    | with_reducible refine releaseNamespaces_keep ?_
    | with_reducible refine revokeUnits_keep ?_
    | with_reducible refine partState_keep ?_
    | simp only [keep_mk, keep_eta])
@[simp] theorem finishReset_keep {z : State} {s : State} {p : Nat} (hz : Keep z s) :
    Keep z (finishReset s p) := by
  unfold finishReset; try dsimp only
  (repeat' first
    | with_reducible assumption
    | split
    | with_reducible refine finish_keep ?_
    | with_reducible refine State_reset_keep ?_
    | with_reducible refine finishOk_keep ?_
    | with_reducible refine freePart_keep ?_
    | with_reducible refine fenceTo_keep ?_
    | with_reducible refine fenceOpen_keep ?_
    | with_reducible refine partState_keep ?_
    | with_reducible refine State_setPt_keep ?_)
@[simp] theorem beginReset_keep {z : State} {s : State} {p fn id : Nat} {destroy : Bool} {reason cause : Nat} (hz : Keep z s) :
    Keep z (beginReset s p fn id destroy reason cause) := by
  unfold beginReset; try dsimp only
  (repeat' first
    | with_reducible assumption
    | (with_reducible refine foldl_keep (fun _ _ _ => ?_) _ ?_; try dsimp only)
    | split
    | with_reducible refine endSave_keep ?_
    | with_reducible refine endLoads_keep ?_
    | with_reducible refine fenceTo_keep ?_
    | with_reducible refine partState_keep ?_
    | with_reducible refine haltLeader_keep ?_
    | with_reducible refine epochIncomplete_keep ?_
    | with_reducible refine snapshotLoses_keep ?_
    | with_reducible refine traceReset_keep ?_
    | with_reducible refine contain_keep ?_
    | with_reducible refine finish_keep ?_
    | with_reducible refine State_reset_keep ?_
    | with_reducible refine State_setPt_keep ?_
    | with_reducible refine fault_keep ?_
    | with_reducible refine clearRegion_keep ?_
    | with_reducible refine finishReset_keep ?_
    | with_reducible refine beginZeroing_keep ?_)
@[simp] theorem resetFrom_keep {z : State} {s : State} {p reason cause : Nat} (hz : Keep z s) :
    Keep z (resetFrom s p reason cause) := by
  unfold resetFrom; try dsimp only
  (repeat' first
    | with_reducible assumption
    | split
    | with_reducible refine beginReset_keep ?_
    | with_reducible refine finish_keep ?_
    | with_reducible refine State_reset_keep ?_
    | with_reducible refine finishSt_keep ?_
    | with_reducible refine State_setPt_keep ?_)
@[simp] theorem makeFaulted_keep {z : State} {s : State} {p code : Nat} (hz : Keep z s) :
    Keep z (makeFaulted s p code) := by
  unfold makeFaulted; try dsimp only
  (repeat' first
    | with_reducible assumption
    | split
    | with_reducible refine finishSt_keep ?_
    | with_reducible refine State_setPt_keep ?_
    | with_reducible refine endSave_keep ?_
    | with_reducible refine fault_keep ?_
    | with_reducible refine fenceTo_keep ?_
    | with_reducible refine partState_keep ?_
    | with_reducible refine contain_keep ?_
    | with_reducible refine haltLeader_keep ?_
    | with_reducible refine snapshotLoses_keep ?_
    | with_reducible refine traceStall_keep ?_)
@[simp] theorem settleFence_keep {z : State} {s : State} {p : Nat} (hz : Keep z s) :
    Keep z (settleFence s p) := by
  unfold settleFence; try dsimp only
  (repeat' first
    | with_reducible assumption
    | split
    | with_reducible refine fenceTo_keep ?_)
@[simp] theorem discardFabric_keep {z : State} {s : State} {p : Nat} (hz : Keep z s) :
    Keep z (discardFabric s p) := by
  unfold discardFabric; simp [hz]
@[simp] theorem gateRegions_keep {z : State} {s : State} {rgs : List Nat} (hz : Keep z s) :
    Keep z (gateRegions s rgs) := by
  unfold gateRegions; try dsimp only
  (repeat' first
    | with_reducible assumption
    | (with_reducible refine foldl_keep (fun _ _ _ => ?_) _ ?_; try dsimp only)
    | split
    | with_reducible refine clearRegion_keep ?_
    | simp only [keep_mk, keep_eta])
@[simp] theorem ungateRegions_keep {z : State} {s : State} {rgs : List Nat} (hz : Keep z s) :
    Keep z (ungateRegions s rgs) := by
  unfold ungateRegions; try dsimp only
  (repeat' first
    | with_reducible assumption
    | (with_reducible refine foldl_keep (fun _ _ _ => ?_) _ ?_; try dsimp only)
    | split
    | with_reducible refine clearRegion_keep ?_
    | simp only [keep_mk, keep_eta])
@[simp] theorem endPowerDrain_keep {z : State} {s : State} {p : Nat} (hz : Keep z s) :
    Keep z (endPowerDrain s p) := by
  unfold endPowerDrain; try dsimp only
  (repeat' first
    | with_reducible assumption
    | split
    | with_reducible refine finish_keep ?_
    | with_reducible refine contain_keep ?_
    | with_reducible refine fenceTo_keep ?_
    | with_reducible refine endLoads_keep ?_
    | with_reducible refine haltLeader_keep ?_
    | with_reducible refine State_setPt_keep ?_
    | with_reducible refine partState_keep ?_
    | with_reducible refine gateRegions_keep ?_
    | with_reducible refine finishOk_keep ?_)
@[simp] theorem State_setRgn_keep {z : State} {s : State} {rg : Nat} {x : Region} (hz : Keep z s) :
    Keep z (State.setRgn s rg x) := by
  unfold State.setRgn; simp [hz]
@[simp] theorem podState_keep {z : State} {s : State} {rg slot : Nat} {new : PodState} {cause : Nat} (hz : Keep z s) :
    Keep z (podState s rg slot new cause) := by
  unfold podState; try dsimp only
  (repeat' first
    | with_reducible assumption
    | split
    | with_reducible refine State_setRgn_keep ?_
    | with_reducible refine eventPart_keep ?_
    | with_reducible refine eventDev_keep ?_)
@[simp] theorem dueStore_keep {z : State} {s : State} {rg : Nat} (hz : Keep z s) :
    Keep z (dueStore s rg) := by
  unfold dueStore; (repeat' split) <;> simp [*]
@[simp] theorem quarantine_keep {z : State} {s : State} {rg slot cause : Nat} (hz : Keep z s) :
    Keep z (quarantine s rg slot cause) := by
  unfold quarantine; simp [hz]
@[simp] theorem dieReset_keep {z : State} {k : ResetKind} {lost : Bool} {s : State} (hz : Keep z s) :
    Keep z (dieReset k lost s) := by
  unfold dieReset; dsimp only; rw [keep_mk]
  refine keepF_of hz (fun i => ?_)
  obtain ⟨⟨_, h2⟩, ⟨h3, _, h5⟩, hr⟩ := i
  have hp : ∀ fl e, ([4, 5, 6, 8, 12].contains (resetPower k fl e s.pow).maxDiv = true) ∧ [5, 6, 8, 12].contains (resetPower k fl e s.pow).fastcapDiv = true ∧
      400 ≤ (resetPower k fl e s.pow).localCap ∧ (resetPower k fl e s.pow).localCap ≤ 1600 := by
    intro fl e
    unfold resetPower; dsimp only
    split
    · exact ⟨rfl, rfl, (by decide : 400 ≤ 1600), (by decide : 1600 ≤ 1600)⟩
    · exact ⟨hr.2.2.2.2.2.2.1, hr.2.2.2.2.2.2.2, hr.2.2.2.2.2.1⟩
  refine ⟨?_, ⟨?_, rfl, h5⟩, hr.1, hr.2.1, hr.2.2.1, hr.2.2.2.1, hr.2.2.2.2.1, (hp _ _).2.2, (hp _ _).1, (hp _ _).2.1⟩
  · split
    · exact ⟨rfl, fun x hx => by simp [Clocks.init] at hx⟩
    · exact ⟨rfl, fun x hx => by simp at hx⟩
  · split
    · rfl
    · exact h3
@[simp] theorem dieUnpowered_keep {z : State} {s : State} (hz : Keep z s) :
    Keep z (dieUnpowered s) := by
  unfold dieUnpowered; simp [hz]
@[simp] theorem writeCause_keep {z : State} {s : State} {cause : Nat} (hz : Keep z s) :
    Keep z (writeCause s cause) := by
  unfold writeCause; simp [hz]
@[simp] theorem companionAppend_keep {z : State} {s : State} {code cls unit : Nat} {detail : List Byte} (hz : Keep z s) :
    Keep z (companionAppend s code cls unit detail) := by
  unfold companionAppend; simp [hz]
@[simp] theorem cpRaise_keep {z : State} {s : State} {bits : W32} (hz : Keep z s) :
    Keep z (cpRaise s bits) := by
  unfold cpRaise; simp [hz]
@[simp] theorem commitRecord_keep {z : State} {s : State} {r : Rec} (hz : Keep z s) :
    Keep z (commitRecord s r) := by
  unfold commitRecord; (repeat' split) <;> simp [*]
@[simp] theorem tellRecorded_keep {z : State} {s : State} {fn : Nat} {seq : W32} {cls : Nat} (hz : Keep z s) :
    Keep z (tellRecorded s fn seq cls) := by
  unfold tellRecorded; try dsimp only
  (repeat' first
    | with_reducible assumption
    | split
    | with_reducible refine State_setFn_keep ?_
    | with_reducible refine raiseAt_keep ?_)
@[simp] theorem countFault_keep {z : State} {s : State} {fn code cls : Nat} (hz : Keep z s) :
    Keep z (countFault s fn code cls) := by
  unfold countFault; (repeat' split) <;> simp [*]
@[simp] theorem reportAer_keep {z : State} {s : State} {p cls : Nat} (hz : Keep z s) :
    Keep z (reportAer s p cls) := by
  unfold reportAer; (repeat' split) <;> simp [*]
@[simp] theorem appendRec_keep {z : State} {s : State} {r : Rec} (hz : Keep z s) :
    Keep z (appendRec s r) := by
  unfold appendRec; try dsimp only
  (repeat' first
    | with_reducible assumption
    | (with_reducible refine forFns_keep (fun _ _ _ => ?_) ?_; try dsimp only)
    | split
    | with_reducible refine forFns_keep ?_
    | with_reducible refine countFault_keep ?_
    | with_reducible refine commitRecord_keep ?_
    | with_reducible refine tellRecorded_keep ?_
    | simp only [keep_mk, keep_eta])
@[simp] theorem corrected_keep {z : State} {s : State} {r : Rec} (hz : Keep z s) :
    Keep z (corrected s r) := by
  unfold corrected; try dsimp only
  (repeat' first
    | with_reducible assumption
    | (with_reducible refine forFns_keep (fun _ _ _ => ?_) ?_; try dsimp only)
    | split
    | with_reducible refine forFns_keep ?_
    | with_reducible refine tellRecorded_keep ?_
    | with_reducible refine appendRec_keep ?_
    | simp only [keep_mk, keep_eta])
@[simp] theorem enterStopped_keep {z : State} {s : State} {code : Nat} (hz : Keep z s) :
    Keep z (enterStopped s code) := by
  unfold enterStopped; try dsimp only
  (repeat' first
    | with_reducible assumption
    | (with_reducible refine foldl_keep (fun _ _ _ => ?_) _ ?_; try dsimp only)
    | split
    | with_reducible refine makeFaulted_keep ?_
    | simp only [keep_mk, keep_eta])
@[simp] theorem fatalAction_keep {z : State} {s : State} {code : Nat} (hz : Keep z s) :
    Keep z (fatalAction s code) := by
  unfold fatalAction; (repeat' split) <;> simp [*]
@[simp] theorem partitionFault_keep {z : State} {s : State} {r : Rec} (hz : Keep z s) :
    Keep z (partitionFault s r) := by
  unfold partitionFault; (repeat' split) <;> simp [*]
@[simp] theorem raiseFault_keep {z : State} {s : State} {f : Flaw} (hz : Keep z s) :
    Keep z (raiseFault s f) := by
  unfold raiseFault; try dsimp only
  (repeat' first
    | with_reducible assumption
    | split
    | with_reducible refine corrected_keep ?_
    | with_reducible refine appendRec_keep ?_
    | with_reducible refine reportAer_keep ?_
    | with_reducible refine partitionFault_keep ?_
    | with_reducible refine fatalAction_keep ?_
    | simp only [keep_mk, keep_eta])
@[simp] theorem quarantineOnFault_keep {z : State} {s : State} {k n : Nat} (hz : Keep z s) :
    Keep z (quarantineOnFault s k n) := by
  unfold quarantineOnFault; simp [hz]
@[simp] theorem podFaultCount_keep {z : State} {s : State} {k : Nat} (hz : Keep z s) :
    Keep z (podFaultCount s k).2 := by
  unfold podFaultCount; try dsimp only
  (repeat' first
    | with_reducible assumption
    | (with_reducible refine foldl_keep (fun _ _ _ => ?_) _ ?_)
    | split
    | simp only [keep_mk, keep_eta])
theorem podFaultCount_keepE {z : State} {s : State} {k : Nat} {u9 : _} {w9 : State} (hz : Keep z s)
    (e9 : podFaultCount s k = (u9, w9)) : Keep z w9 := by
  have h := podFaultCount_keep (z := z) (s := s) (k := k) hz; rw [e9] at h; simpa using h
@[simp] theorem fault_keep {z : State} {s : State} {f : Flaw} (hz : Keep z s) :
    Keep z (fault s f) := by
  unfold fault; try dsimp only
  (repeat' first
    | with_reducible assumption
    | split
    | with_reducible refine raiseFault_keep ?_
    | with_reducible refine podFaultCount_keepE ?_ ‹_›
    | with_reducible refine podFaultCount_keep ?_
    | with_reducible refine quarantineOnFault_keep ?_)
@[simp] theorem readCellWord_keep {z : State} {s : State} {a : Nat} (hz : Keep z s) :
    Keep z (readCellWord s a) := by
  unfold readCellWord; try dsimp only
  (repeat' first
    | with_reducible assumption
    | split
    | with_reducible refine fault_keep ?_
    | with_reducible refine injected_keep ?_
    | simp only [keep_mk, keep_eta])
@[simp] theorem readHbmWord_keep {z : State} {s : State} {a : Nat} (hz : Keep z s) :
    Keep z (readHbmWord s a) := by
  unfold readHbmWord; try dsimp only
  (repeat' first
    | with_reducible assumption
    | split
    | with_reducible refine injected_keep ?_
    | with_reducible refine fault_keep ?_
    | with_reducible refine corrected_keep ?_
    | simp only [keep_mk, keep_eta])
@[simp] theorem engineRead_keep {z : State} {s : State} {a n : Nat} (hz : Keep z s) :
    Keep z (engineRead s a n).2.2 := by
  unfold engineRead; try dsimp only
  (repeat' first
    | with_reducible assumption
    | (with_reducible refine foldl_keep (fun _ _ _ => ?_) _ ?_; try dsimp only)
    | split
    | with_reducible refine readCellWord_keep ?_
    | with_reducible refine readHbmWord_keep ?_)
theorem engineRead_keepE {z : State} {s : State} {a n : Nat} {u9 : _} {v9 : _} {w9 : State} (hz : Keep z s)
    (e9 : engineRead s a n = (u9, v9, w9)) : Keep z w9 := by
  have h := engineRead_keep (z := z) (s := s) (a := a) (n := n) hz; rw [e9] at h; simpa using h

end Sys2Proof.Machine
end

