-- ==== Sys2Proof/Laws/Keep2.lean ====
section
/-! SUPPORT. Keep, of the operations and meanings of DriveOps, HuskLog, HuskWrite, CellOps, VecOps, SeqOps, MoverOps, ImageOps, FaultCmds, BootOps, Flash. -/

namespace Sys2Proof.Machine

@[simp] theorem State_setDp_keep {z : State} {s : State} {n : Nat} {p : DPort} (hz : Keep z s) :
    Keep z (State.setDp s n p) := by
  unfold State.setDp; simp [hz]
@[simp] theorem modDp_keep {z : State} {s : State} {n : Nat} {f : DPort → DPort} (hz : Keep z s) :
    Keep z (modDp s n f) := by
  unfold modDp; simp [hz]
@[simp] theorem modDrive_keep {z : State} {s : State} {n : Nat} {f : Drive → Drive} (hz : Keep z s) :
    Keep z (modDrive s n f) := by
  unfold modDrive; simp [hz]
@[simp] theorem setNs_keep {z : State} {s : State} {x : NsRecord} (hz : Keep z s) :
    Keep z (setNs s x) := by
  unfold setNs; simp [hz]
@[simp] theorem ownNs_keep {z : State} {s : State} {serial : List Byte} {nsid owner : Nat} (hz : Keep z s) :
    Keep z (ownNs s serial nsid owner) := by
  unfold ownNs; simp [hz]
@[simp] theorem noteVolume_keep {z : State} {s : State} {k : Nat} (hz : Keep z s) :
    Keep z (noteVolume s k) := by
  unfold noteVolume; try dsimp only
  (repeat' first
    | with_reducible assumption
    | split
    | with_reducible refine eventDev_keep ?_
    | simp only [keep_mk, keep_eta])
@[simp] theorem noteVolumes_keep {z : State} {s : State} (hz : Keep z s) :
    Keep z (noteVolumes s) := by
  unfold noteVolumes; try dsimp only
  (repeat' first
    | with_reducible assumption
    | (with_reducible refine foldl_keep (fun _ _ _ => ?_) _ ?_; try dsimp only)
    | split
    | with_reducible refine noteVolume_keep ?_)
@[simp] theorem loseDriveSinks_keep {z : State} {s : State} {n : Nat} {nsid : Option Nat} (hz : Keep z s) :
    Keep z (loseDriveSinks s n nsid) := by
  unfold loseDriveSinks; try dsimp only
  (repeat' first
    | with_reducible assumption
    | (with_reducible refine forFns_keep (fun _ _ _ => ?_) ?_; try dsimp only)
    | split
    | with_reducible refine forFns_keep ?_
    | with_reducible refine loseSink_keep ?_)
@[simp] theorem driveState_keep {z : State} {s : State} {n : Nat} {new : DriveState} {cause : Nat} (hz : Keep z s) :
    Keep z (driveState s n new cause) := by
  unfold driveState; try dsimp only
  (repeat' first
    | with_reducible assumption
    | (with_reducible refine forFns_keep (fun _ _ _ => ?_) ?_; try dsimp only)
    | split
    | with_reducible refine modDrive_keep ?_
    | with_reducible refine forFns_keep ?_
    | with_reducible refine raiseAt_keep ?_
    | with_reducible refine noteVolumes_keep ?_
    | with_reducible refine loseDriveSinks_keep ?_)
@[simp] theorem slotOn_keep {z : State} {s : State} {n : Nat} (hz : Keep z s) :
    Keep z (slotOn s n) := by
  unfold slotOn; dsimp only; simp only [keep_mk, keep_eta]; exact modDp_keep hz
@[simp] theorem slotOff_keep {z : State} {s : State} {n : Nat} (hz : Keep z s) :
    Keep z (slotOff s n) := by
  unfold slotOff; dsimp only; simp only [keep_mk, keep_eta]; exact modDp_keep hz
@[simp] theorem stageData_keep {z : State} {s : State} {a : Nat} {data : List Byte} (hz : Keep z s) :
    Keep z (stageData s a data) := by
  unfold stageData; rw [keep_mk, hbmPut_mem]; exact keepF_hbm hz mwrite_wf
@[simp] theorem submit_keep {z : State} {s : State} {n : Nat} {c : NvmeCmd} (hz : Keep z s) :
    KeepO z (submit s n c) := by
  unfold submit; try dsimp only
  (repeat' first
    | with_reducible assumption
    | split
    | with_reducible refine modDrive_keep ?_
    | simp only [keepO_none, keepO_some])
theorem submit_keepE {z : State} {s : State} {n : Nat} {c : NvmeCmd}  {w9 : State} (hz : Keep z s)
    (e9 : submit s n c = some w9) : Keep z w9 := by
  have h := submit_keep (z := z) (s := s) (n := n) (c := c) hz; simp only [KeepO] at h; rw [e9] at h; simpa using h
@[simp] theorem sendAdmin_keep {z : State} {s : State} {n : Nat} {c : NvmeCmd} (hz : Keep z s) :
    Keep z (sendAdmin s n c) := by
  unfold sendAdmin; simp [hz]
@[simp] theorem dropCmd_keep {z : State} {s : State} {n cid : Nat} (hz : Keep z s) :
    Keep z (dropCmd s n cid) := by
  unfold dropCmd; simp [hz]
@[simp] theorem poisonReads_keep {z : State} {s : State} {l : List NvmeCmd} (hz : Keep z s) :
    Keep z (poisonReads s l) := by
  unfold poisonReads; try dsimp only
  (repeat' first
    | with_reducible assumption
    | (with_reducible refine foldl_keep (fun _ _ _ => ?_) _ ?_; try dsimp only)
    | split
    | with_reducible refine poisonRange_keep ?_)
@[simp] theorem setVol_keep {z : State} {s : State} {k : Nat} {v : Volume} (hz : Keep z s) :
    Keep z (setVol s k v) := by
  unfold setVol; simp [hz]
@[simp] theorem modMember_keep {z : State} {s : State} {k m : Nat} {f : Member → Member} (hz : Keep z s) :
    Keep z (modMember s k m f) := by
  unfold modMember; simp [hz]
@[simp] theorem supersede_keep {z : State} {s : State} {k : Nat} (hz : Keep z s) :
    Keep z (supersede s k) := by
  unfold supersede; try dsimp only
  (repeat' first
    | with_reducible assumption
    | (with_reducible refine foldl_keep (fun _ _ _ => ?_) _ ?_; try dsimp only)
    | split
    | with_reducible refine committed_keep ?_
    | with_reducible refine setVol_keep ?_
    | with_reducible refine epochEvent_keep ?_
    | simp only [keep_mk, keep_eta])
@[simp] theorem writeMember_keep {z : State} {s : State} {k m off : Nat} {data : List Byte} {fua : Bool} {use : NvmeUse} {owner : Nat} {job : W32} (hz : Keep z s) :
    KeepO z (writeMember s k m off data fua use owner job) := by
  unfold writeMember; dsimp only; split
  · simp
  · rintro t ht
    simp only [Option.map_eq_some_iff] at ht
    obtain ⟨u, hu, rfl⟩ := ht
    exact stageData_keep (submit_keepE hz hu)
theorem writeMember_keepE {z : State} {s : State} {k m off : Nat} {data : List Byte} {fua : Bool} {use : NvmeUse} {owner : Nat} {job : W32}  {w9 : State} (hz : Keep z s)
    (e9 : writeMember s k m off data fua use owner job = some w9) : Keep z w9 := by
  have h := writeMember_keep (z := z) (s := s) (k := k) (m := m) (off := off) (data := data) (fua := fua) (use := use) (owner := owner) (job := job) hz; simp only [KeepO] at h; rw [e9] at h; simpa using h
@[simp] theorem tryWrite_keep {z : State} {s : State} {k m off : Nat} {data : List Byte} {use : NvmeUse} {job : W32} (hz : Keep z s) :
    Keep z (tryWrite s k m off data use job) := by
  unfold tryWrite
  cases h : writeMember s k m off data true use 16 job with
  | none => exact hz
  | some t => exact writeMember_keepE hz h
@[simp] theorem freeSegments_keep {z : State} {s : State} {k m : Nat} (hz : Keep z s) :
    Keep z (freeSegments s k m) := by
  unfold freeSegments; try dsimp only
  (repeat' first
    | with_reducible assumption
    | (with_reducible refine foldl_keep (fun _ _ _ => ?_) _ ?_; try dsimp only)
    | split
    | with_reducible refine modMember_keep ?_
    | with_reducible refine tryWrite_keep ?_)
@[simp] theorem reclaim_keep {z : State} {s : State} {k : Nat} (hz : Keep z s) :
    Keep z (reclaim s k) := by
  unfold reclaim; try dsimp only
  (repeat' first
    | with_reducible assumption
    | (with_reducible refine foldl_keep (fun _ _ _ => ?_) _ ?_; try dsimp only)
    | split
    | with_reducible refine supersede_keep ?_
    | with_reducible refine freeSegments_keep ?_)
@[simp] theorem modWriter_keep {z : State} {s : State} {k : Nat} {f : Writer → Writer} (hz : Keep z s) :
    Keep z (modWriter s k f) := by
  unfold modWriter; (repeat' split) <;> simp [*]
@[simp] theorem dropWriter_keep {z : State} {s : State} {k : Nat} (hz : Keep z s) :
    Keep z (dropWriter s k) := by
  unfold dropWriter; simp [hz]
@[simp] theorem entryWritten_keep {z : State} {s : State} {q : Nat} (hz : Keep z s) :
    Keep z (entryWritten s q) := by
  unfold entryWritten; simp [hz]
@[simp] theorem markLost_keep {z : State} {s : State} {k m : Nat} {byError : Bool} (hz : Keep z s) :
    Keep z (markLost s k m byError) := by
  unfold markLost; try dsimp only
  (repeat' first
    | with_reducible assumption
    | (with_reducible refine foldl_keep (fun _ _ _ => ?_) _ ?_; try dsimp only)
    | split
    | with_reducible refine entryWritten_keep ?_
    | with_reducible refine modWriter_keep ?_
    | simp only [keep_mk, keep_eta])
@[simp] theorem epochWrite_keep {z : State} {s : State} {k m off : Nat} {data : List Byte} {fua : Bool} {use : NvmeUse} {owner : Nat} (hz : Keep z s) :
    Keep z (epochWrite s k m off data fua use owner) := by
  unfold epochWrite; try dsimp only
  (repeat' first
    | with_reducible assumption
    | split
    | with_reducible refine writeMember_keepE ?_ ‹_›
    | with_reducible refine markLost_keep ?_
    | with_reducible refine modWriter_keep ?_)
@[simp] theorem closeExtent_keep {z s : State} {k m : Nat} {put : State → Nat → List Byte → State} (hp : ∀ t o b, Keep z t → Keep z (put t o b))
    (hz : Keep z s) : Keep z (closeExtent s k m put) := by
  unfold closeExtent; dsimp only
  (repeat' split) <;> first | exact hz | exact hp _ _ _ (modMember_keep hz)
theorem openSegment_keepE {z s t : State} {k m epoch : Nat} {put : State → Nat → List Byte → State} (hp : ∀ t o b, Keep z t → Keep z (put t o b))
    (hz : Keep z s) (e : openSegment s k m epoch put = some t) : Keep z t := by
  unfold openSegment at e
  have hf : Keep z (if (freeSegment ((s.vol k).member m)).isSome then s else freeSegments s k m) := by split; exact hz; exact freeSegments_keep hz
  generalize (if (freeSegment ((s.vol k).member m)).isSome then s else freeSegments s k m) = t0 at e hf
  simp only [Option.map_eq_some_iff] at e
  obtain ⟨i, _, rfl⟩ := e
  exact hp _ _ _ (modMember_keep hf)
theorem placeRecord_keepE {z s t : State} {k m epoch n : Nat} {moved : Bool} {pe ps : State → Nat → List Byte → State}
    (he : ∀ t o b, Keep z t → Keep z (pe t o b)) (hs : ∀ t o b, Keep z t → Keep z (ps t o b))
    (hz : Keep z s) (e : placeRecord s k m epoch moved pe ps = some (n, t)) : Keep z t := by
  unfold placeRecord at e
  dsimp only at e
  split at e
  · cases e; exact hz
  · split at e
    · simp only [Option.bind_eq_some_iff] at e
      obtain ⟨g, _, e⟩ := e
      cases e
      exact modMember_keep (closeExtent_keep he hz)
    · simp only [Option.bind_eq_some_iff] at e
      obtain ⟨u, hu, g, _, e⟩ := e
      cases e
      exact modMember_keep (openSegment_keepE hs (closeExtent_keep he hz) hu)
@[simp] theorem addRecord_keep {z : State} {s : State} {k m : Nat} {r : LogRec} (hz : Keep z s) :
    Keep z (addRecord s k m r) := by
  unfold addRecord; simp [hz]
@[simp] theorem putRecord_keep {z : State} {s : State} {k m : Nat} {r : LogRec} {data : List Byte} {fua : Bool} {use : NvmeUse} {owner : Nat} (hz : Keep z s) :
    KeepO z (putRecord s k m r data fua use owner) := by
  rintro t e
  unfold putRecord at e
  simp only [Option.map_eq_some_iff] at e
  obtain ⟨⟨n, u⟩, hu, rfl⟩ := e
  exact epochWrite_keep (addRecord_keep (placeRecord_keepE (fun _ _ _ h => epochWrite_keep h) (fun _ _ _ h => epochWrite_keep h) hz hu))
theorem putRecord_keepE {z : State} {s : State} {k m : Nat} {r : LogRec} {data : List Byte} {fua : Bool} {use : NvmeUse} {owner : Nat}  {w9 : State} (hz : Keep z s)
    (e9 : putRecord s k m r data fua use owner = some w9) : Keep z w9 := by
  have h := putRecord_keep (z := z) (s := s) (k := k) (m := m) (r := r) (data := data) (fua := fua) (use := use) (owner := owner) hz; simp only [KeepO] at h; rw [e9] at h; simpa using h
@[simp] theorem writeData_keep {z : State} {s : State} {k : Nat} {r : LogRec} {data : List Byte} {owner : Nat} (hz : Keep z s) :
    KeepO z (writeData s k r data owner) := by
  unfold writeData; try dsimp only
  (repeat' first
    | with_reducible assumption
    | (with_reducible refine map_getD_keep ?_ (fun _ _ => ?_))
    | (with_reducible refine getD_keep ?_ (fun _ _ => ?_))
    | split
    | with_reducible refine modWriter_keep ?_
    | with_reducible refine putRecord_keepE ?_ ‹_›
    | simp only [keepO_some]) <;> simp [*]
theorem writeData_keepE {z : State} {s : State} {k : Nat} {r : LogRec} {data : List Byte} {owner : Nat}  {w9 : State} (hz : Keep z s)
    (e9 : writeData s k r data owner = some w9) : Keep z w9 := by
  have h := writeData_keep (z := z) (s := s) (k := k) (r := r) (data := data) (owner := owner) hz; simp only [KeepO] at h; rw [e9] at h; simpa using h
@[simp] theorem writeParity_keep {z : State} {s : State} {k : Nat} {row : Nat × List Byte × Nat × Nat} (hz : Keep z s) :
    KeepO z (writeParity s k row) := by
  unfold writeParity; (repeat' split) <;> simp [*]
theorem writeParity_keepE {z : State} {s : State} {k : Nat} {row : Nat × List Byte × Nat × Nat}  {w9 : State} (hz : Keep z s)
    (e9 : writeParity s k row = some w9) : Keep z w9 := by
  have h := writeParity_keep (z := z) (s := s) (k := k) (row := row) hz; simp only [KeepO] at h; rw [e9] at h; simpa using h
theorem eachOpt_keepE {α : Type} {z s t : State} {l : List α} {f : State → α → Option State} (hf : ∀ s a t, Keep z s → f s a = some t → Keep z t)
    (hz : Keep z s) (e : eachOpt l f s = some t) : Keep z t := by
  have h : ∀ (l : List α) (o : Option State), (∀ u, o = some u → Keep z u) → ∀ t, l.foldl (fun o x => o.bind (fun t => f t x)) o = some t → Keep z t := by
    intro l
    induction l with
    | nil => intro o ho t e; exact ho t e
    | cons a r ih =>
      intro o ho t e
      refine ih _ ?_ t e
      intro u hu
      simp only [Option.bind_eq_some_iff] at hu
      obtain ⟨v, hv, hu⟩ := hu
      exact hf v a u (ho v hv) hu
  exact h l (some s) (by rintro u hu; cases hu; exact hz) t e
@[simp] theorem writeIndex_keep {z : State} {s : State} {k : Nat} (hz : Keep z s) :
    KeepO z (writeIndex s k) := by
  rintro t e
  unfold writeIndex at e
  split at e
  · cases e; exact hz
  · simp only [Option.map_eq_some_iff] at e
    obtain ⟨u, hu, rfl⟩ := e
    refine foldl_keep (fun _ _ h => closeExtent_keep (fun _ _ _ h => epochWrite_keep h) h) _ ?_
    exact eachOpt_keepE (fun _ _ _ h e => eachOpt_keepE (fun _ _ _ h e => putRecord_keepE h e) h e) hz hu
theorem writeIndex_keepE {z : State} {s : State} {k : Nat}  {w9 : State} (hz : Keep z s)
    (e9 : writeIndex s k = some w9) : Keep z w9 := by
  have h := writeIndex_keep (z := z) (s := s) (k := k) hz; simp only [KeepO] at h; rw [e9] at h; simpa using h
@[simp] theorem epochFlush_keep {z : State} {s : State} {k m : Nat} (hz : Keep z s) :
    Keep z (epochFlush s k m) := by
  unfold epochFlush; dsimp only
  split
  · exact hz
  · split
    · exact hz
    · split
      · exact markLost_keep hz
      · have h := ‹_ = some _›
        simp only [Option.bind_eq_some_iff] at h
        obtain ⟨n, _, h⟩ := h
        exact submit_keepE hz h
@[simp] theorem writeSuperblocks_keep {z : State} {s : State} {k : Nat} (hz : Keep z s) :
    Keep z (writeSuperblocks s k) := by
  unfold writeSuperblocks; try dsimp only
  (repeat' first
    | with_reducible assumption
    | (with_reducible refine foldl_keep (fun _ _ _ => ?_) _ ?_; try dsimp only)
    | split
    | with_reducible refine modMember_keep ?_
    | with_reducible refine epochWrite_keep ?_)
@[simp] theorem beginWriter_keep {z : State} {s : State} {k epoch : Nat} {parity : Bool} {job : W32} (hz : Keep z s) :
    Keep z (beginWriter s k epoch parity job) := by
  unfold beginWriter; simp [hz]
@[simp] theorem writeCommit_keep {z : State} {s : State} {k : Nat} {guest : Bool} {e : Epoch} (hz : Keep z s) :
    KeepO z (writeCommit s k guest e) := by
  rintro t ht
  unfold writeCommit at ht
  dsimp only at ht
  refine eachOpt_keepE (f := fun t m => (putRecord t k m { epoch := e.number, kind := 6, whole := false, poison := 0, partition := 255, seq := 0, address := 0, crc := crc32c (commitBytes guest e), member := m }
        (commitBytes guest e) true (.commit k m) 16).map (fun u => closeExtent u k m (fun u o b => epochWrite u k m o b true (.commit k m) 16))) ?_ hz ht
  intro s a t h e
  simp only [Option.map_eq_some_iff] at e
  obtain ⟨u, hu, rfl⟩ := e
  exact closeExtent_keep (fun _ _ _ h => epochWrite_keep h) (putRecord_keepE h hu)
theorem writeCommit_keepE {z : State} {s : State} {k : Nat} {guest : Bool} {e : Epoch}  {w9 : State} (hz : Keep z s)
    (e9 : writeCommit s k guest e = some w9) : Keep z w9 := by
  have h := writeCommit_keep (z := z) (s := s) (k := k) (guest := guest) (e := e) hz; simp only [KeepO] at h; rw [e9] at h; simpa using h
@[simp] theorem buddyAck_keep {z : State} {s : State} {k epoch step status : Nat} (hz : Keep z s) :
    Keep z (buddyAck s k epoch step status) := by
  unfold buddyAck; simp [hz]
@[simp] theorem committed_keep {z : State} {s : State} {k : Nat} {e : Epoch} (hz : Keep z s) :
    Keep z (committed s k e) := by
  unfold committed; try dsimp only
  (repeat' first
    | with_reducible assumption
    | split
    | with_reducible refine setVol_keep ?_
    | with_reducible refine reclaim_keep ?_
    | with_reducible refine setEpochState_keep ?_
    | with_reducible refine applyHeld_keep ?_
    | simp only [keep_mk, keep_eta])
@[simp] theorem writerFails_keep {z : State} {s : State} {k cause status : Nat} (hz : Keep z s) :
    Keep z (writerFails s k cause status) := by
  unfold writerFails; (repeat' split) <;> simp [*]
@[simp] theorem judge_keep {z : State} {s : State} {k : Nat} (hz : Keep z s) :
    Keep z (judge s k) := by
  unfold judge; try dsimp only
  (repeat' first
    | with_reducible assumption
    | (with_reducible refine map_getD_keep ?_ (fun _ _ => ?_))
    | (with_reducible refine getD_keep ?_ (fun _ _ => ?_))
    | split
    | with_reducible refine writerFails_keep ?_
    | with_reducible refine epochIncomplete_keep ?_)
@[simp] theorem volumeFull_keep {z : State} {s : State} {k : Nat} (hz : Keep z s) :
    Keep z (volumeFull s k) := by
  unfold volumeFull; simp [hz]
@[simp] theorem beginCommit_keep {z : State} {s : State} {k : Nat} {w : Writer} (hz : Keep z s) :
    KeepO z (beginCommit s k w) := by
  unfold beginCommit; (repeat' split) <;> simp [*]
theorem beginCommit_keepE {z : State} {s : State} {k : Nat} {w : Writer}  {w9 : State} (hz : Keep z s)
    (e9 : beginCommit s k w = some w9) : Keep z w9 := by
  have h := beginCommit_keep (z := z) (s := s) (k := k) (w := w) hz; simp only [KeepO] at h; rw [e9] at h; simpa using h
@[simp] theorem writerMove_keep {z : State} {s : State} {k : Nat} (hz : Keep z s) :
    KeepO z (writerMove s k) := by
  rintro t e
  unfold writerMove at e
  dsimp only at e
  split at e
  · cases e; exact hz
  split at e
  · split at e
    · cases e; exact hz
    · cases e; split
      · exact modWriter_keep hz
      · exact buddyAck_keep (modWriter_keep hz)
  · simp only [Option.bind_eq_some_iff] at e
    obtain ⟨u, hu, e⟩ := e
    have ku := eachOpt_keepE (fun _ _ _ h e => writeParity_keepE h e) hz hu
    split at e
    · cases e; exact ku
    · split at e
      · cases e; exact ku
      · simp only [Option.map_eq_some_iff] at e
        obtain ⟨v, hv, rfl⟩ := e
        exact modWriter_keep (writeIndex_keepE ku hv)
  · split at e
    · cases e; exact hz
    · cases e; exact foldl_keep (fun _ _ h => epochFlush_keep h) _ (modWriter_keep hz)
  · split at e
    · cases e; exact hz
    · cases e; exact modWriter_keep hz
  · split at e
    · cases e; exact hz
    · exact beginCommit_keepE (modWriter_keep hz) e
  · cases e; exact hz
theorem writerMove_keepE {z : State} {s : State} {k : Nat}  {w9 : State} (hz : Keep z s)
    (e9 : writerMove s k = some w9) : Keep z w9 := by
  have h := writerMove_keep (z := z) (s := s) (k := k) hz; simp only [KeepO] at h; rw [e9] at h; simpa using h
@[simp] theorem writerOn_keep {z : State} {n : Nat} {s : State} {k : Nat} (hz : Keep z s) :
    Keep z (writerOn n s k) := by
  induction n generalizing s with
  | zero => simpa only [writerOn]
  | succ n ih =>
    unfold writerOn; dsimp only
    split
    · exact volumeFull_keep hz
    · have h := judge_keep (k := k) (writerMove_keepE hz ‹_›)
      split
      · exact h
      · exact ih h
@[simp] theorem writeSystem_keep {z : State} {s : State} {e : Epoch} {key : W32} {n : Nat} (hz : Keep z s) :
    Keep z (writeSystem s e key n) := by
  unfold writeSystem; dsimp only
  refine foldl_keep (fun t m h => ?_) _ hz
  have hp : ∀ t o b, Keep z t → Keep z (tryWrite t 0 m o b (.system 0 e.number) 0) := fun _ _ _ h => tryWrite_keep h
  generalize hq : placeRecord t 0 m e.number false _ _ = q
  cases q with
  | none => exact h
  | some p =>
    obtain ⟨o, u⟩ := p
    exact closeExtent_keep hp (hp _ _ _ (addRecord_keep (placeRecord_keepE hp hp h hq)))
@[simp] theorem commitCopy_keep {z : State} {s : State} {k m : Nat} {ok : Bool} (hz : Keep z s) :
    Keep z (commitCopy s k m ok) := by
  unfold commitCopy; try dsimp only
  (repeat' first
    | with_reducible assumption
    | split
    | with_reducible refine modWriter_keep ?_
    | with_reducible refine markLost_keep ?_
    | with_reducible refine committed_keep ?_
    | with_reducible refine writerFails_keep ?_
    | with_reducible refine snapEnded_keep ?_
    | with_reducible refine buddyAck_keep ?_
    | with_reducible refine dropWriter_keep ?_
    | simp only [keep_mk, keep_eta])
@[simp] theorem memberLost_keep {z : State} {s : State} {k m : Nat} {byError : Bool} (hz : Keep z s) :
    Keep z (memberLost s k m byError) := by
  have hd : Keep z (memberLost.dropEpochMember s k m) := by unfold memberLost.dropEpochMember; simp [hz]
  unfold memberLost
  split
  · exact hz
  · split
    · exact commitCopy_keep hd
    · exact writerOn_keep (judge_keep (markLost_keep hz))
@[simp] theorem fly_keep {z : State} {s : State} {k due : Nat} {d : Dest} {w : PLine} (hz : Keep z s) :
    Keep z (fly s k due d w) := by
  unfold fly; simp [hz]
@[simp] theorem moveOutput_keep {z : State} {s : State} {p k a fc o : Nat} (hz : Keep z s) :
    Keep z (moveOutput s p k a fc o) := by
  unfold moveOutput; try dsimp only
  (repeat' first
    | with_reducible assumption
    | split
    | with_reducible refine fly_keep ?_)
@[simp] theorem moveSwitch_keep {z : State} {s : State} {p k a fc : Nat} (hz : Keep z s) :
    Keep z (moveSwitch s p k a fc) := by
  unfold moveSwitch; try dsimp only
  (repeat' first
    | with_reducible assumption
    | (with_reducible refine foldl_keep (fun _ _ _ => ?_) _ ?_; try dsimp only)
    | split
    | with_reducible refine moveOutput_keep ?_)
@[simp] theorem cellReadAt_keep {z : State} {s : State} {k m w a : Nat} (hz : Keep z s) :
    Keep z (cellReadAt s k m w a) := by
  unfold cellReadAt; simp [hz]
@[simp] theorem cellWriteAt_keep {z : State} {s : State} {k m w a : Nat} (hz : Keep z s) :
    Keep z (cellWriteAt s k m w a) := by
  unfold cellWriteAt; try dsimp only
  (repeat' first
    | with_reducible assumption
    | split
    | with_reducible refine State_setPod_keep ?_)
@[simp] theorem macAt_keep {z : State} {s : State} {k mode bank row : Nat} {half acc : Bool} {a : Nat} (hz : Keep z s) :
    Keep z (macAt s k mode bank row half acc a) := by
  unfold macAt; (repeat' split) <;> simp [*]
@[simp] theorem clearAt_keep {z : State} {s : State} {k bank : Nat} (hz : Keep z s) :
    Keep z (clearAt s k bank) := by
  unfold clearAt; simp [hz]
@[simp] theorem wloadAt_keep {z : State} {s : State} {k mode row : Nat} {half : Bool} {a : Nat} (hz : Keep z s) :
    Keep z (wloadAt s k mode row half a) := by
  unfold wloadAt; simp [hz]
@[simp] theorem wswapAt_keep {z : State} {s : State} {k : Nat} (hz : Keep z s) :
    Keep z (wswapAt s k) := by
  unfold wswapAt; simp [hz]
@[simp] theorem drainAt_keep {z : State} {s : State} {k : Nat} {c : PodCfg} {bank row a : Nat} (hz : Keep z s) :
    Keep z (drainAt s k c bank row a) := by
  unfold drainAt; try dsimp only
  (repeat' first
    | with_reducible assumption
    | (with_reducible refine foldl_keep (fun _ _ _ => ?_) _ ?_; try dsimp only)
    | (with_reducible refine map_getD_keep ?_ (fun _ _ => ?_))
    | (with_reducible refine getD_keep ?_ (fun _ _ => ?_))
    | split
    | with_reducible refine fly_keep ?_)
@[simp] theorem endWrites_keep {z : State} {s : State} {k a : Nat} (hz : Keep z s) :
    Keep z (endWrites s k a) := by
  have hc : ∀ (l : List CellWrite) (f : Fabric), Memory.wf 0 f.cells = true →
      Memory.wf 0 (l.foldl (fun f w => cellPut f (cellBase + 64 * w.wordNo) (le 64 w.word.toNat) (fun _ _ => w.poison)) f).cells = true := by
    intro l
    induction l with
    | nil => intro f h; exact h
    | cons w r ih => intro f h; exact ih _ (by rw [cellPut_cells]; exact mwrite_wf h)
  unfold endWrites; dsimp only; split
  · exact hz
  · rw [keep_mk]; exact keepF_cells hz (hc _ _)
@[simp] theorem addResult_keep {z : State} {s : State} {k issued due : Nat} {w : VxWrite} (hz : Keep z s) :
    Keep z (addResult s k issued due w) := by
  unfold addResult; simp [hz]
@[simp] theorem emitAt_keep {z : State} {s : State} {p k : Nat} {v : VInstr} (hz : Keep z s) :
    Keep z (emitAt s p k v) := by
  unfold emitAt; simp [hz]
@[simp] theorem vecIssue_keep {z : State} {s : State} {p k op : Nat} {v : VInstr} {a : Nat} (hz : Keep z s) :
    Keep z (vecIssue s p k op v a) := by
  unfold vecIssue; try dsimp only
  (repeat' first
    | with_reducible assumption
    | (with_reducible refine map_getD_keep ?_ (fun _ _ => ?_))
    | (with_reducible refine getD_keep ?_ (fun _ _ => ?_))
    | split
    | with_reducible refine addResult_keep ?_
    | with_reducible refine fly_keep ?_
    | with_reducible refine emitAt_keep ?_
    | simp only [keep_mk, keep_eta])
@[simp] theorem runState_keep {z : State} {s : State} {p : Nat} {new : PartState} {cause : Nat} (hz : Keep z s) :
    Keep z (runState s p new cause) := by
  unfold runState; (repeat' split) <;> simp [*]
@[simp] theorem setStall_keep {z : State} {s : State} {p : Nat} {c : StallCause} (hz : Keep z s) :
    Keep z (setStall s p c) := by
  unfold setStall; simp [hz]
@[simp] theorem endStall_keep {z : State} {s : State} {p : Nat} (hz : Keep z s) :
    Keep z (endStall s p) := by
  unfold endStall; try dsimp only
  (repeat' first
    | with_reducible assumption
    | split
    | with_reducible refine traceStall_keep ?_
    | with_reducible refine State_setPt_keep ?_
    | with_reducible refine runState_keep ?_)
@[simp] theorem consumeSteers_keep {z : State} {s : State} {p : Nat} (hz : Keep z s) :
    Keep z (consumeSteers s p) := by
  unfold consumeSteers; try dsimp only
  (repeat' first
    | with_reducible assumption
    | (with_reducible refine foldl_keep (fun _ _ _ => ?_) _ ?_; try dsimp only)
    | split
    | with_reducible refine setStall_keep ?_
    | with_reducible refine fault_keep ?_
    | with_reducible refine tracePart_keep ?_
    | with_reducible refine State_setPt_keep ?_)
@[simp] theorem memoryStep_keep {z : State} {s : State} {k c : Nat} {b : List Byte} {q : Seq} {op a : Nat} (hz : Keep z s) :
    Keep z (memoryStep s k c b q op a) := by
  unfold memoryStep; (repeat' split) <;> simp [*]
@[simp] theorem matrixStep_keep {z : State} {s : State} {p k : Nat} {b : List Byte} {q : Seq} {op a : Nat} (hz : Keep z s) :
    Keep z (matrixStep s p k b q op a) := by
  unfold matrixStep; try dsimp only
  (repeat' first
    | with_reducible assumption
    | split
    | with_reducible refine drainAt_keep ?_
    | with_reducible refine wloadAt_keep ?_
    | with_reducible refine wswapAt_keep ?_
    | with_reducible refine macAt_keep ?_
    | with_reducible refine clearAt_keep ?_)
@[simp] theorem vectorStep_keep {z : State} {s : State} {p k : Nat} {b : List Byte} {q : Seq} {op a : Nat} (hz : Keep z s) :
    Keep z (vectorStep s p k b q op a) := by
  unfold vectorStep; (repeat' split) <;> simp [*]
@[simp] theorem stepEffect_keep {z : State} {s : State} {p k c : Nat} {b : List Byte} {q : Seq} {op : Nat} (hz : Keep z s) :
    Keep z (stepEffect s p k c b q op) := by
  unfold stepEffect; (repeat' split) <;> simp [*]
@[simp] theorem advanceSeq_keep {z : State} {s : State} {k c : Nat} {wait fc : Nat} (hz : Keep z s) :
    Keep z (advanceSeq s k c wait fc) := by
  unfold advanceSeq; simp [hz]
@[simp] theorem issueStep_keep {z : State} {s : State} {p k c : Nat} (hz : Keep z s) :
    Keep z (issueStep s p k c) := by
  unfold issueStep; try dsimp only
  (repeat' first
    | with_reducible assumption
    | split
    | with_reducible refine step_keep ?_
    | with_reducible refine advanceSeq_keep ?_
    | with_reducible refine State_setPod_keep ?_
    | with_reducible refine consumeSteers_keep ?_
    | with_reducible refine stepEffect_keep ?_)
@[simp] theorem endPasses_keep {z : State} {s : State} {p k fc : Nat} (hz : Keep z s) :
    Keep z (endPasses s p k fc) := by
  unfold endPasses; try dsimp only
  (repeat' first
    | with_reducible assumption
    | (with_reducible refine foldl_keep (fun _ _ _ => ?_) _ ?_)
    | split
    | with_reducible refine step_keep ?_
    | with_reducible refine State_setPod_keep ?_
    | with_reducible refine State_setPt_keep ?_)
@[simp] theorem endCells_keep {z : State} {s : State} {k a : Nat} (hz : Keep z s) :
    Keep z (endCells s k a) := by
  unfold endCells; (repeat' split) <;> simp [*]
@[simp] theorem countFc_keep {z : State} {s : State} {p : Nat} (hz : Keep z s) :
    Keep z (countFc s p) := by
  unfold countFc; try dsimp only
  (repeat' first
    | with_reducible assumption
    | split
    | with_reducible refine State_setPt_keep ?_)
@[simp] theorem endFc_keep {z : State} {s : State} {p : Nat} (hz : Keep z s) :
    Keep z (endFc s p) := by
  unfold endFc; try dsimp only
  (repeat' first
    | with_reducible assumption
    | (with_reducible refine foldl_keep (fun _ _ _ => ?_) _ ?_; try dsimp only)
    | split
    | with_reducible refine moveSwitch_keep ?_
    | with_reducible refine endCells_keep ?_
    | with_reducible refine State_setPt_keep ?_
    | with_reducible refine countFc_keep ?_
    | with_reducible refine endPasses_keep ?_)
@[simp] theorem enterContext_keep {z : State} {s : State} {p slot : Nat} (hz : Keep z s) :
    Keep z (enterContext s p slot) := by
  unfold enterContext; try dsimp only
  (repeat' first
    | with_reducible assumption
    | (with_reducible refine foldl_keep (fun _ _ _ => ?_) _ ?_; try dsimp only)
    | (with_reducible refine map_getD_keep ?_ (fun _ _ => ?_))
    | (with_reducible refine getD_keep ?_ (fun _ _ => ?_))
    | split
    | with_reducible refine State_setPod_keep ?_
    | with_reducible refine traceStall_keep ?_
    | with_reducible refine State_setPt_keep ?_
    | with_reducible refine runState_keep ?_)
@[simp] theorem settleCells_keep {z : State} {s : State} {p : Nat} (hz : Keep z s) :
    Keep z (settleCells s p) := by
  unfold settleCells; try dsimp only
  (repeat' first
    | with_reducible assumption
    | (with_reducible refine foldl_keep (fun _ _ _ => ?_) _ ?_; try dsimp only)
    | split
    | with_reducible refine endWrites_keep ?_
    | with_reducible refine State_setPod_keep ?_)
@[simp] theorem snapReach_keep {z : State} {s : State} {p : Nat} (hz : Keep z s) :
    Keep z (snapReach s p) := by
  unfold snapReach; simp [hz]
@[simp] theorem endRun_keep {z : State} {s0 : State} {p last : Nat} (hz : Keep z s0) :
    Keep z (endRun s0 p last) := by
  unfold endRun; try dsimp only
  (repeat' first
    | with_reducible assumption
    | split
    | with_reducible refine settleCells_keep ?_
    | with_reducible refine haltLeader_keep ?_
    | with_reducible refine State_setPt_keep ?_
    | with_reducible refine eventPart_keep ?_
    | with_reducible refine runState_keep ?_
    | with_reducible refine snapReach_keep ?_)
@[simp] theorem goTo_keep {z : State} {s : State} {p slot : Nat} (hz : Keep z s) :
    Keep z (goTo s p slot) := by
  unfold goTo; try dsimp only
  (repeat' first
    | with_reducible assumption
    | split
    | with_reducible refine committed_keep ?_
    | with_reducible refine enterContext_keep ?_
    | with_reducible refine fault_keep ?_
    | with_reducible refine setStall_keep ?_
    | with_reducible refine State_setPt_keep ?_)
@[simp] theorem deliverSummaries_keep {z : State} {s : State} {p : Nat} {all : Bool} (hz : Keep z s) :
    Keep z (deliverSummaries s p all) := by
  unfold deliverSummaries; try dsimp only
  (repeat' first
    | with_reducible assumption
    | split
    | with_reducible refine State_setPt_keep ?_
    | with_reducible refine fault_keep ?_)
@[simp] theorem deliverSteers_keep {z : State} {s : State} {p : Nat} (hz : Keep z s) :
    Keep z (deliverSteers s p) := by
  unfold deliverSteers; simp [hz]
@[simp] theorem discardWords_keep {z : State} {s : State} {p slot : Nat} (hz : Keep z s) :
    Keep z (discardWords s p slot) := by
  unfold discardWords; try dsimp only
  (repeat' first
    | with_reducible assumption
    | (with_reducible refine foldl_keep (fun _ _ _ => ?_) _ ?_; try dsimp only)
    | split
    | with_reducible refine fault_keep ?_
    | with_reducible refine State_setPod_keep ?_)
@[simp] theorem auditFold_keep {z : State} {s : State} {p slot : Nat} {steered : Bool} (hz : Keep z s) :
    Keep z (auditFold s p slot steered) := by
  unfold auditFold; try dsimp only
  (repeat' first
    | with_reducible assumption
    | (with_reducible refine map_getD_keep ?_ (fun _ _ => ?_))
    | (with_reducible refine getD_keep ?_ (fun _ _ => ?_))
    | split
    | with_reducible refine State_setPt_keep ?_
    | with_reducible refine fault_keep ?_)
@[simp] theorem pauseAt_keep {z : State} {s : State} {p slot : Nat} (hz : Keep z s) :
    Keep z (pauseAt s p slot) := by
  unfold pauseAt; try dsimp only
  (repeat' first
    | with_reducible assumption
    | split
    | with_reducible refine deliverSummaries_keep ?_
    | with_reducible refine State_setPt_keep ?_
    | with_reducible refine traceSprout_keep ?_
    | with_reducible refine State_setSprout_keep ?_
    | with_reducible refine runState_keep ?_)
@[simp] theorem foldBoundary_keep {z : State} {s : State} {p : Nat} (hz : Keep z s) :
    Keep z (foldBoundary s p) := by
  unfold foldBoundary; try dsimp only
  (repeat' first
    | with_reducible assumption
    | (with_reducible refine map_getD_keep ?_ (fun _ _ => ?_))
    | (with_reducible refine getD_keep ?_ (fun _ _ => ?_))
    | split
    | with_reducible refine committed_keep ?_
    | with_reducible refine tracePart_keep ?_
    | with_reducible refine discardWords_keep ?_
    | with_reducible refine auditFold_keep ?_
    | with_reducible refine State_setPt_keep ?_
    | with_reducible refine endRun_keep ?_
    | with_reducible refine snapReach_keep ?_
    | with_reducible refine pauseAt_keep ?_
    | with_reducible refine goTo_keep ?_)
@[simp] theorem pushList_keep {z : State} {s : State} {cmd : Option (Nat × Nat)} {p : Nat} {jobId : W32} {entry : Nat} {memFill : Bool} {fn : Nat} {ds : List Desc} (hz : Keep z s) :
    Keep z (pushList s cmd p jobId entry memFill fn ds) := by
  unfold pushList; simp [hz]
@[simp] theorem pushEmb_keep {z : State} {s : State} {p : Nat} {jobId : W32} {entry : Nat} {d : EmbDesc} (hz : Keep z s) :
    Keep z (pushEmb s p jobId entry d) := by
  unfold pushEmb; simp [hz]
@[simp] theorem issueEntry_keep {z : State} {s : State} {p i : Nat} (hz : Keep z s) :
    Keep z (issueEntry s p i) := by
  unfold issueEntry; dsimp only
  split
  · exact hz
  · have h := State_setPt_keep (p := p) (x := s.pt p) hz
    (repeat' split)
    · exact State_setPt_keep hz
    · generalize placeEmb _ _ _ = o; cases o with
      | none => exact State_setPt_keep hz
      | some d => exact pushEmb_keep (State_setPt_keep hz)
    · generalize placeDesc _ _ _ = o; cases o with
      | none => exact State_setPt_keep hz
      | some d => exact pushList_keep (State_setPt_keep hz)
@[simp] theorem entryStep_keep {z : State} {s : State} {p i : Nat} (hz : Keep z s) :
    Keep z (entryStep s p i) := by
  unfold entryStep; (repeat' split) <;> simp [*]
@[simp] theorem readSettings_keep {z : State} {s : State} (hz : Keep z s) :
    Keep z (readSettings s) := by
  unfold readSettings; simp [hz]
theorem execFaultReadLog_keep {z : State} {fn : Fn} {stopAt : Option Nat} {s : State} (hz : Keep z s) :
    KeepOut z (execFaultReadLog fn stopAt s) := by
  unfold execFaultReadLog; try dsimp only
  (repeat' first
    | with_reducible assumption
    | (with_reducible refine map_getD_keep ?_ (fun _ _ => ?_))
    | (with_reducible refine getD_keep ?_ (fun _ _ => ?_))
    | split
    | ((with_reducible refine withCmd_keep (fun _ _ _ => ?_) ?_); try dsimp only)
    | with_reducible refine finishSt_keep ?_
    | with_reducible refine finish_keep ?_
    | simp only [keep_mk, keep_eta])
theorem execFaultClear_keep {z : State} {fn : Fn} {s : State} (hz : Keep z s) :
    KeepOut z (execFaultClear fn s) := by
  unfold execFaultClear; try dsimp only
  (repeat' first
    | with_reducible assumption
    | split
    | ((with_reducible refine withCmd_keep (fun _ _ _ => ?_) ?_); try dsimp only)
    | with_reducible refine finishOk_keep ?_
    | with_reducible refine State_setFn_keep ?_)
theorem execFaultPolicy_keep {z : State} {fn : Fn} {s : State} (hz : Keep z s) :
    KeepOut z (execFaultPolicy fn s) := by
  unfold execFaultPolicy; try dsimp only
  (repeat' first
    | with_reducible assumption
    | split
    | ((with_reducible refine withCmd_keep (fun _ _ _ => ?_) ?_); try dsimp only)
    | with_reducible refine finishSt_keep ?_
    | with_reducible refine finishOk_keep ?_
    | simp only [keep_mk, keep_eta])
theorem withInject_keep {z s : State} {fn : Fn} {ty : Nat} {k : Consumed → State → State} (hk : ∀ c t, Keep z t → Keep z (k c t)) (hz : Keep z s) :
    KeepOut z (withInject fn ty s k) := by
  unfold withInject; split
  · simpa using hz
  · (repeat' split)
    · exact nextN_keep (finishSt_keep hz)
    · exact nextN_keep (hk _ _ hz)
    · simpa using hz
@[simp] theorem injected_keep {z : State} {s : State} {fn : Fn} {c : Consumed} {seq : W32} (hz : Keep z s) :
    Keep z (injected s fn c seq) := by
  unfold injected; simp [hz]
theorem execFaultInjectRecord_keep {z : State} {fn : Fn} {s : State} (hz : Keep z s) :
    KeepOut z (execFaultInjectRecord fn s) := by
  unfold execFaultInjectRecord; try dsimp only
  (repeat' first
    | with_reducible assumption
    | split
    | ((with_reducible refine withInject_keep (fun _ _ _ => ?_) ?_); try dsimp only)
    | with_reducible refine finishSt_keep ?_
    | with_reducible refine fault_keep ?_
    | with_reducible refine injected_keep ?_)
theorem execFaultInjectCellEcc_keep {z : State} {fn : Fn} {s : State} (hz : Keep z s) :
    KeepOut z (execFaultInjectCellEcc fn s) := by
  unfold execFaultInjectCellEcc; try dsimp only
  (repeat' first
    | with_reducible assumption
    | split
    | ((with_reducible refine withInject_keep (fun _ _ _ => ?_) ?_); try dsimp only)
    | with_reducible refine finishSt_keep ?_
    | with_reducible refine injected_keep ?_
    | simp only [keep_mk, keep_eta])
theorem execFaultInjectHbmEcc_keep {z : State} {fn : Fn} {s : State} (hz : Keep z s) :
    KeepOut z (execFaultInjectHbmEcc fn s) := by
  unfold execFaultInjectHbmEcc; try dsimp only
  (repeat' first
    | with_reducible assumption
    | split
    | ((with_reducible refine withInject_keep (fun _ _ _ => ?_) ?_); try dsimp only)
    | with_reducible refine finishSt_keep ?_
    | with_reducible refine injected_keep ?_
    | simp only [keep_mk, keep_eta])
theorem execFaultInjectLinkCrc_keep {z : State} {fn : Fn} {s : State} (hz : Keep z s) :
    KeepOut z (execFaultInjectLinkCrc fn s) := by
  unfold execFaultInjectLinkCrc; try dsimp only
  (repeat' first
    | with_reducible assumption
    | split
    | ((with_reducible refine withInject_keep (fun _ _ _ => ?_) ?_); try dsimp only)
    | with_reducible refine finishSt_keep ?_
    | with_reducible refine injected_keep ?_
    | with_reducible refine State_setPort_keep ?_)
theorem execErrlogCommitDrain_keep {z : State} {s : State} (hz : Keep z s) :
    KeepOut z (execErrlogCommitDrain s) := by
  unfold execErrlogCommitDrain; (repeat' split) <;> simp [*]
@[simp] theorem takeCompanionLog_keep {z : State} {s : State} {live : Bool} (hz : Keep z s) :
    Keep z (takeCompanionLog s live) := by
  unfold takeCompanionLog; try dsimp only
  (repeat' first
    | with_reducible assumption
    | (with_reducible refine foldl_keep (fun _ _ _ => ?_) _ ?_; try dsimp only)
    | split
    | with_reducible refine appendRec_keep ?_
    | with_reducible refine reportAer_keep ?_
    | with_reducible refine fatalAction_keep ?_)
theorem execCompanionLogPoll_keep {z : State} {s : State} (hz : Keep z s) :
    KeepOut z (execCompanionLogPoll s) := by
  unfold execCompanionLogPoll; try dsimp only
  (repeat' first
    | with_reducible assumption
    | split
    | with_reducible refine nextN_keep ?_
    | with_reducible refine takeCompanionLog_keep ?_
    | simp only [keepOut_next])
theorem execCompanionIrq_keep {z : State} {s : State} (hz : Keep z s) :
    KeepOut z (execCompanionIrq s) := by
  unfold execCompanionIrq; try dsimp only
  (repeat' first
    | with_reducible assumption
    | split
    | with_reducible refine nextN_keep ?_
    | with_reducible refine takeCompanionLog_keep ?_
    | simp only [keepOut_next])
theorem execErrorRecordedHoldoff_keep {z : State} {fn : Fn} {s : State} (hz : Keep z s) :
    KeepOut z (execErrorRecordedHoldoff fn s) := by
  unfold execErrorRecordedHoldoff; try dsimp only
  (repeat' first
    | with_reducible assumption
    | split
    | with_reducible refine State_setFn_keep ?_
    | with_reducible refine raiseAt_keep ?_
    | simp only [keepOut_next])
@[simp] theorem hostReadFails_keep {z : State} {s : State} {fn : Nat} {id : Nat} (hz : Keep z s) :
    Keep z (hostReadFails s fn id) := by
  unfold hostReadFails; (repeat' split) <;> simp [*]
theorem execPoisonedTlpReceive_keep {z : State} {fn : Fn} {ended : Option Nat} {s : State} (hz : Keep z s) :
    KeepOut z (execPoisonedTlpReceive fn ended s) := by
  unfold execPoisonedTlpReceive; (repeat' split) <;> simp [*]
theorem execHostCompletionTimeout_keep {z : State} {fn : Fn} {ended : Option Nat} {s : State} (hz : Keep z s) :
    KeepOut z (execHostCompletionTimeout fn ended s) := by
  unfold execHostCompletionTimeout; (repeat' split) <;> simp [*]
theorem execFenceStuck_keep {z : State} {fence : Fin 40} {s : State} (hz : Keep z s) :
    KeepOut z (execFenceStuck fence s) := by
  unfold execFenceStuck; try dsimp only
  (repeat' first
    | with_reducible assumption
    | split
    | with_reducible refine nextN_keep ?_
    | with_reducible refine fault_keep ?_
    | simp only [keepOut_next])
theorem execHazelSramUe_keep {z : State} {offset : W32} {s : State} (hz : Keep z s) :
    KeepOut z (execHazelSramUe offset s) := by
  unfold execHazelSramUe; try dsimp only
  (repeat' first
    | with_reducible assumption
    | split
    | with_reducible refine nextN_keep ?_
    | with_reducible refine fault_keep ?_
    | simp only [keepOut_next])
@[simp] theorem fillCause_keep {z : State} {s : State} (hz : Keep z s) :
    Keep z (fillCause s) := by
  unfold fillCause; simp [hz]
@[simp] theorem hotSources_keep {z : State} {s : State} (hz : Keep z s) :
    Keep z (hotSources s) := by
  unfold hotSources; simp [hz]
@[simp] theorem tryFill_keep {z : State} {s : State} (hz : Keep z s) :
    Keep z (tryFill s) := by
  unfold tryFill; (repeat' split) <;> simp [*]
@[simp] theorem loadMaps_keep {z : State} {s : State} (hz : Keep z s) :
    Keep z (loadMaps s) := by
  unfold loadMaps; try dsimp only
  (repeat' first
    | with_reducible assumption
    | (with_reducible refine foldl_keep (fun _ _ _ => ?_) _ ?_; try dsimp only)
    | split
    | with_reducible refine State_setRgn_keep ?_)
@[simp] theorem enterRecovery_keep {z : State} {s : State} (hz : Keep z s) :
    Keep z (enterRecovery s) := by
  unfold enterRecovery; simp [hz]
@[simp] theorem startHazel_keep {z : State} {s : State} {slot : Nat} (hz : Keep z s) :
    Keep z (startHazel s slot) := by
  unfold startHazel; try dsimp only
  (repeat' first
    | with_reducible assumption
    | (with_reducible refine foldl_keep (fun _ _ _ => ?_) _ ?_; try dsimp only)
    | split
    | with_reducible refine loadMaps_keep ?_
    | with_reducible refine reportAer_keep ?_
    | with_reducible refine appendRec_keep ?_
    | simp only [keep_mk, keep_eta])
@[simp] theorem romFails_keep {z : State} {s : State} {slot code : Nat} (hz : Keep z s) :
    Keep z (romFails s slot code) := by
  unfold romFails; (repeat' split) <;> simp [*]
@[simp] theorem romStep_keep {z : State} {s : State} (hz : Keep z s) :
    Keep z (romStep s) := by
  unfold romStep; try dsimp only
  (repeat' first
    | with_reducible assumption
    | split
    | with_reducible refine romFails_keep ?_
    | with_reducible refine startHazel_keep ?_
    | simp only [keep_mk, keep_eta])
@[simp] theorem phase2_keep {z : State} {s : State} (hz : Keep z s) :
    Keep z (phase2 s) := by
  unfold phase2; simp [hz]
@[simp] theorem requeue_keep {z : State} {s : State} (hz : Keep z s) :
    Keep z (requeue s) := by
  unfold requeue; try dsimp only
  (repeat' first
    | with_reducible assumption
    | (with_reducible refine foldl_keep (fun _ _ _ => ?_) _ ?_)
    | split
    | with_reducible refine committed_keep ?_
    | simp only [keep_mk, keep_eta])
@[simp] theorem startupRecords_keep {z : State} {s : State} (hz : Keep z s) :
    Keep z (startupRecords s) := by
  unfold startupRecords; try dsimp only
  (repeat' first
    | with_reducible assumption
    | split
    | with_reducible refine fault_keep ?_
    | with_reducible refine takeCompanionLog_keep ?_
    | with_reducible refine requeue_keep ?_)
@[simp] theorem startupEpoch_keep {z : State} {s : State} (hz : Keep z s) :
    Keep z (startupEpoch s) := by
  unfold startupEpoch; (repeat' split) <;> simp [*]
@[simp] theorem startupDone_keep {z : State} {s : State} (hz : Keep z s) :
    Keep z (startupDone s) := by
  unfold startupDone; try dsimp only
  (repeat' first
    | with_reducible assumption
    | (with_reducible refine foldl_keep (fun _ _ _ => ?_) _ ?_; try dsimp only)
    | split
    | with_reducible refine startupRecords_keep ?_
    | with_reducible refine startupEpoch_keep ?_
    | with_reducible refine dueStore_keep ?_
    | with_reducible refine fault_keep ?_
    | with_reducible refine tryFill_keep ?_
    | with_reducible refine noteStatusAll_keep ?_
    | with_reducible refine hotSources_keep ?_
    | simp only [keep_mk, keep_eta])
@[simp] theorem stepDone_keep {z : State} {s : State} (hz : Keep z s) :
    Keep z (stepDone s) := by
  unfold stepDone; try dsimp only
  (repeat' first
    | with_reducible assumption
    | split
    | with_reducible refine startupDone_keep ?_
    | simp only [keep_mk, keep_eta])
@[simp] theorem stepFails_keep {z : State} {s : State} {code : Nat} (hz : Keep z s) :
    Keep z (stepFails s code) := by
  unfold stepFails; simp [hz]
@[simp] theorem flashPut_keep {z : State} {s : State} {a : Nat} {b : List Byte} (hz : Keep z s) :
    Keep z (flashPut s a b) := by
  unfold flashPut; rw [keep_mk]; exact keepF_flash hz mwrite_wf
@[simp] theorem openBytes_keep {z : State} {s : State} {n : Nat} (hz : Keep z s) :
    Keep z (openBytes s n).2 := by
  unfold openBytes; simp [hz]
theorem openBytes_keepE {z : State} {s : State} {n : Nat} {u9 : _} {w9 : State} (hz : Keep z s)
    (e9 : openBytes s n = (u9, w9)) : Keep z w9 := by
  have h := openBytes_keep (z := z) (s := s) (n := n) hz; rw [e9] at h; simpa using h
theorem runUnits_keep {z s : State} {us : List (Nat × Nat)} {failAt : Option Nat} {act : State → Nat × Nat → State}
    (ha : ∀ t u, Keep z t → Keep z (act t u)) (hz : Keep z s) : Keep z (runUnits us failAt act s).1 := by
  unfold runUnits; dsimp only
  split
  · exact foldl_keep ha _ hz
  · exact flashPut_keep (openBytes_keep (foldl_keep ha _ hz))
theorem flashRow_keep {z s : State} {fn cls verb : Nat} {want : Consumed → Bool} {refuses late : Consumed → State → Option Result}
    {run : Consumed → State → Result × State} (hr : ∀ c t, Keep z t → Keep z (run c t).2) (hz : Keep z s) :
    KeepOut z (flashRow fn cls verb want refuses late run s) := by
  have h0 : Keep z { s with boot := { s.boot with jobs := s.boot.jobs.drop 1 } } := keep_mk.2 (keepF_of hz (fun i => i))
  unfold flashRow; dsimp only
  split
  · split
    · exact keepOut_next.2 (workDone_keep h0)
    · exact keepOut_next.2 (workDone_keep (hr _ _ h0))
  · split
    · exact keepOut_next.2 hz
    · split
      · exact keepOut_next.2 (finish_keep hz)
      · split
        · split
          · exact keepOut_next.2 (finish_keep hz)
          · exact keepOut_next.2 (workDone_keep (hr _ _ (accept_keep hz)))
        · exact keepOut_next.2 (keep_mk.2 (keepF_of (accept_keep hz) (fun i => i)))
theorem execFlashErase_keep {z : State} {fn : Fn} {failAt : Option Nat} {s : State} (hz : Keep z s) :
    KeepOut z (execFlashErase fn failAt s) := by
  unfold execFlashErase
  refine flashRow_keep (fun c t h => ?_) hz
  dsimp only
  exact runUnits_keep (fun t u h => keep_mk.2 (keepF_flash h mclear_wf)) h
theorem execFlashProgram_keep {z : State} {fn : Fn} {buf : Option (List Byte)} {failAt : Option Nat} {s : State} (hz : Keep z s) :
    KeepOut z (execFlashProgram fn buf failAt s) := by
  unfold execFlashProgram; try dsimp only
  (repeat' first
    | with_reducible assumption
    | (with_reducible refine map_getD_keep ?_ (fun _ _ => ?_))
    | (with_reducible refine getD_keep ?_ (fun _ _ => ?_))
    | split
    | ((with_reducible refine flashRow_keep (fun _ _ _ => ?_) ?_); try dsimp only)
    | with_reducible refine flashPut_keep ?_
    | ((with_reducible refine runUnits_keep (fun _ _ _ => ?_) ?_); try dsimp only))
theorem execFlashRead_keep {z : State} {fn : Fn} {s : State} (hz : Keep z s) :
    KeepOut z (execFlashRead fn s) := by
  unfold execFlashRead; try dsimp only
  (repeat' first
    | with_reducible assumption
    | split
    | ((with_reducible refine flashRow_keep (fun _ _ _ => ?_) ?_); try dsimp only)
    | simp only [keep_mk, keep_eta])
theorem execFlashVerifyCrc_keep {z : State} {fn : Fn} {s : State} (hz : Keep z s) :
    KeepOut z (execFlashVerifyCrc fn s) := by
  unfold execFlashVerifyCrc; try dsimp only
  (repeat' first
    | with_reducible assumption
    | split
    | ((with_reducible refine flashRow_keep (fun _ _ _ => ?_) ?_); try dsimp only))
theorem execFlashVerifyCompare_keep {z : State} {fn : Fn} {buf : Option (List Byte)} {s : State} (hz : Keep z s) :
    KeepOut z (execFlashVerifyCompare fn buf s) := by
  unfold execFlashVerifyCompare; try dsimp only
  (repeat' first
    | with_reducible assumption
    | (with_reducible refine map_getD_keep ?_ (fun _ _ => ?_))
    | (with_reducible refine getD_keep ?_ (fun _ _ => ?_))
    | split
    | ((with_reducible refine flashRow_keep (fun _ _ _ => ?_) ?_); try dsimp only))
theorem execFlashVerifyImage_keep {z : State} {fn : Fn} {s : State} (hz : Keep z s) :
    KeepOut z (execFlashVerifyImage fn s) := by
  unfold execFlashVerifyImage; try dsimp only
  (repeat' first
    | with_reducible assumption
    | split
    | ((with_reducible refine flashRow_keep (fun _ _ _ => ?_) ?_); try dsimp only)
    | with_reducible refine State_takeFree_keepE ?_ ‹_›
    | with_reducible refine State_takeFree_keep ?_)
theorem execFlashUnlock_keep {z : State} {fn : Fn} {s : State} (hz : Keep z s) :
    KeepOut z (execFlashUnlock fn s) := by
  unfold execFlashUnlock; try dsimp only
  (repeat' first
    | with_reducible assumption
    | split
    | ((with_reducible refine withCmd_keep (fun _ _ _ => ?_) ?_); try dsimp only)
    | with_reducible refine finishSt_keep ?_
    | with_reducible refine finishOk_keep ?_
    | simp only [keep_mk, keep_eta])
theorem execFlashLock_keep {z : State} {fn : Fn} {s : State} (hz : Keep z s) :
    KeepOut z (execFlashLock fn s) := by
  unfold execFlashLock; try dsimp only
  (repeat' first
    | with_reducible assumption
    | split
    | ((with_reducible refine withCmd_keep (fun _ _ _ => ?_) ?_); try dsimp only)
    | with_reducible refine finishOk_keep ?_
    | simp only [keep_mk, keep_eta])
theorem execGoldenUnlockExpiry_keep {z : State} {s : State} (hz : Keep z s) :
    KeepOut z (execGoldenUnlockExpiry s) := by
  unfold execGoldenUnlockExpiry; simp [hz]
@[simp] theorem writeStore_keep {z : State} {s : State} (hz : Keep z s) :
    Keep z (writeStore s) := by
  unfold writeStore; simp [hz]
theorem execMapStoreWriteComplete_keep {z : State} {rg : Fin 16} {s : State} (hz : Keep z s) :
    KeepOut z (execMapStoreWriteComplete rg s) := by
  unfold execMapStoreWriteComplete; try dsimp only
  (repeat' first
    | with_reducible assumption
    | split
    | with_reducible refine writeStore_keep ?_
    | with_reducible refine State_setRgn_keep ?_
    | with_reducible refine eventDev_keep ?_
    | simp only [keep_mk, keep_eta, keepOut_next])

end Sys2Proof.Machine
end

