-- ==== Sys2Proof/Laws/Keep3.lean ====
section
/-! SUPPORT. Keep, of the operations and meanings of LoadOps, SaveOps, HuskDrain, HuskRead, HuskJobs, TraceSink, MoverRun, DriveEnd, SlotOps. -/

namespace Sys2Proof.Machine

theorem withPart_keep {z s : State} {fn cls verb : Nat} {k : Nat → Consumed → State → State} (hk : ∀ p c t, Keep z t → Keep z (k p c t)) (hz : Keep z s) :
    KeepOut z (withPart s fn cls verb k) := by
  unfold withPart; split
  · simpa using hz
  · dsimp only
    (repeat' split)
    · exact nextN_keep (finishSt_keep hz)
    · exact nextN_keep (finishSt_keep hz)
    · exact nextN_keep (hk _ _ _ hz)
@[simp] theorem windowRead_keep {z : State} {s : State} {p o n : Nat} (hz : Keep z s) :
    Keep z (windowRead s p o n).2.2 := by
  unfold windowRead
  refine foldl_pred (fun x : List Byte × Bool × State => Keep z x.2.2) ?_ _ _ hz
  intro b a h; dsimp only; with_reducible exact engineRead_keep h
theorem windowRead_keepE {z : State} {s : State} {p o n : Nat} {u9 : _} {v9 : _} {w9 : State} (hz : Keep z s)
    (e9 : windowRead s p o n = (u9, v9, w9)) : Keep z w9 := by
  have h := windowRead_keep (z := z) (s := s) (p := p) (o := o) (n := n) hz; rw [e9] at h; simpa using h
@[simp] theorem setSlot_keep {z : State} {s : State} {p slot : Nat} {v : Slot} (hz : Keep z s) :
    Keep z (setSlot s p slot v) := by
  unfold setSlot; simp [hz]
@[simp] theorem settleBinding_keep {z : State} {s : State} {p : Nat} (hz : Keep z s) :
    Keep z (settleBinding s p) := by
  unfold settleBinding; try dsimp only
  (repeat' first
    | with_reducible assumption
    | split
    | with_reducible refine partState_keep ?_
    | with_reducible refine State_setPt_keep ?_)
@[simp] theorem emptySlot_keep {z : State} {s : State} {p slot : Nat} (hz : Keep z s) :
    Keep z (emptySlot s p slot) := by
  unfold emptySlot; try dsimp only
  (repeat' first
    | with_reducible assumption
    | split
    | with_reducible refine setSlot_keep ?_
    | with_reducible refine fault_keep ?_
    | with_reducible refine settleBinding_keep ?_)
@[simp] theorem shiftRecords_keep {z s : State} {p : Nat} {h : Handle} {recs : Tab (Nat × Nat)} {first second : List Nat} (hz : Keep z s) :
    Keep z (shiftRecords s p h recs first second).state := by
  unfold shiftRecords
  refine foldl_pred (fun x : Shift => Keep z x.state) ?_ _ _ hz
  intro b a h; dsimp only
  split
  · exact h
  · split <;> exact windowRead_keep h
@[simp] theorem sowSlot_keep {z : State} {s : State} {p slot : Nat} {cfgs : Tab PodCfg} (hz : Keep z s) :
    Keep z (sowSlot s p slot cfgs) := by
  unfold sowSlot; try dsimp only
  (repeat' first
    | with_reducible assumption
    | (with_reducible refine foldl_keep (fun _ _ _ => ?_) _ ?_; try dsimp only)
    | split
    | with_reducible refine State_setPod_keep ?_)
@[simp] theorem configCrc_keep {z : State} {s : State} {p slot handle r : Nat} (hz : Keep z s) :
    Keep z (configCrc s p slot handle r) := by
  unfold configCrc; simp [hz]
@[simp] theorem shiftDone_keep {z : State} {s : State} {p : Nat} {first second : List Nat} (hz : Keep z s) :
    Keep z (shiftDone s p first second) := by
  unfold shiftDone; dsimp only
  split
  · exact hz
  · split
    · exact hz
    · have h : ∀ hd recs f g, Keep z (shiftRecords s p hd recs f g).state := fun hd recs f g => shiftRecords_keep hz
      split
      · exact emptySlot_keep (workDone_keep (configCrc_keep (State_setPt_keep (h _ _ _ _))))
      · split
        · exact setSlot_keep (workDone_keep (sowSlot_keep (State_setPt_keep (h _ _ _ _))))
        · exact eventPart_keep (setSlot_keep (workDone_keep (sowSlot_keep (State_setPt_keep (h _ _ _ _)))))
@[simp] theorem startRun_keep {z : State} {s : State} {p : Nat} {h : Handle} {slot : Nat} {job : W32} (hz : Keep z s) :
    Keep z (startRun s p h slot job) := by
  unfold startRun; try dsimp only
  (repeat' first
    | with_reducible assumption
    | (with_reducible refine foldl_keep (fun _ _ _ => ?_) _ ?_; try dsimp only)
    | (with_reducible refine map_getD_keep ?_ (fun _ _ => ?_))
    | (with_reducible refine getD_keep ?_ (fun _ _ => ?_))
    | split
    | with_reducible refine State_setPt_keep ?_
    | with_reducible refine State_setSprout_keep ?_
    | with_reducible refine windowRead_keepE ?_ ‹_›
    | with_reducible refine windowRead_keep ?_
    | with_reducible refine goTo_keep ?_
    | with_reducible refine traceSprout_keep ?_)
@[simp] theorem stopRun_keep {z : State} {s : State} {p fn id : Nat} (hz : Keep z s) :
    Keep z (stopRun s p fn id) := by
  unfold stopRun; try dsimp only
  (repeat' first
    | with_reducible assumption
    | (with_reducible refine elim_keep ?_ (fun _ _ => ?_))
    | (with_reducible refine map_getD_keep ?_ (fun _ _ => ?_))
    | (with_reducible refine getD_keep ?_ (fun _ _ => ?_))
    | split
    | with_reducible refine discardFabric_keep ?_
    | with_reducible refine haltLeader_keep ?_
    | with_reducible refine traceStall_keep ?_
    | with_reducible refine State_setPt_keep ?_)
@[simp] theorem settleAbort_keep {z : State} {s : State} {p : Nat} (hz : Keep z s) :
    Keep z (settleAbort s p) := by
  unfold settleAbort; try dsimp only
  (repeat' first
    | with_reducible assumption
    | (with_reducible refine foldl_keep (fun _ _ _ => ?_) _ ?_; try dsimp only)
    | split
    | with_reducible refine State_setPod_keep ?_
    | with_reducible refine State_setPt_keep ?_
    | with_reducible refine finishOk_keep ?_
    | with_reducible refine partState_keep ?_)
@[simp] theorem readAllCells_keep {z : State} {s : State} {p : Nat} (hz : Keep z s) :
    Keep z (readAllCells s p) := by
  unfold readAllCells; try dsimp only
  (repeat' first
    | with_reducible assumption
    | (with_reducible refine foldl_keep (fun _ _ _ => ?_) _ ?_; try dsimp only)
    | split
    | with_reducible refine readCellWord_keep ?_)
@[simp] theorem writeArea_keep {z : State} {s : State} {addr n : Nat} (hz : Keep z s) :
    Keep z (writeArea s addr n) := by
  unfold writeArea; dsimp only
  rw [keep_mk, hbmPut_mem]; exact keepF_hbm (openBytes_keep hz) mwrite_wf
@[simp] theorem doSave_keep {z : State} {s0 : State} {p : Nat} (hz : Keep z s0) :
    Keep z (doSave s0 p) := by
  unfold doSave; try dsimp only
  (repeat' first
    | with_reducible assumption
    | (with_reducible refine foldl_keep (fun _ _ _ => ?_) _ ?_; try dsimp only)
    | split
    | with_reducible refine readAllCells_keep ?_
    | with_reducible refine State_takeFree_keepE ?_ ‹_›
    | with_reducible refine State_takeFree_keep ?_
    | with_reducible refine writeArea_keep ?_
    | with_reducible refine State_setPt_keep ?_
    | with_reducible refine fenceTo_keep ?_
    | with_reducible refine beginZeroing_keep ?_
    | with_reducible refine clearRegion_keep ?_
    | with_reducible refine workDone_keep ?_
    | with_reducible refine partState_keep ?_)
@[simp] theorem restoreCells_keep {z : State} {s : State} {p : Nat} {v : Saved} (hz : Keep z s) :
    Keep z (restoreCells s p v) := by
  unfold restoreCells; dsimp only
  have h : Keep z ((s.pt p).regions.foldl zeroCells s) := foldl_keep (fun _ _ h => zeroCells_keep h) _ hz
  rw [keep_mk]; exact keepF_cells h (fun w => foldl_mset_wf w)
@[simp] theorem resow_keep {z : State} {s : State} {p : Nat} {v : Saved} (hz : Keep z s) :
    Keep z (resow s p v).2 := by
  unfold resow
  refine foldl_pred (fun x : Nat × State => Keep z x.2) ?_ _ _ hz
  intro b a h; dsimp only
  split
  · exact h
  · split
    · exact configCrc_keep (shiftRecords_keep h)
    · exact setSlot_keep (sowSlot_keep (shiftRecords_keep h))
theorem resow_keepE {z : State} {s : State} {p : Nat} {v : Saved} {u9 : _} {w9 : State} (hz : Keep z s)
    (e9 : resow s p v = (u9, w9)) : Keep z w9 := by
  have h := resow_keep (z := z) (s := s) (p := p) (v := v) hz; rw [e9] at h; simpa using h
@[simp] theorem doResume_keep {z : State} {s : State} {p fn id : Nat} {job : W32} (hz : Keep z s) :
    Keep z (doResume s p fn id job) := by
  unfold doResume; try dsimp only
  (repeat' first
    | with_reducible assumption
    | (with_reducible refine foldl_keep (fun _ _ _ => ?_) _ ?_; try dsimp only)
    | (with_reducible refine map_getD_keep ?_ (fun _ _ => ?_))
    | (with_reducible refine getD_keep ?_ (fun _ _ => ?_))
    | split
    | with_reducible refine fenceOpen_keep ?_
    | with_reducible refine State_setPt_keep ?_
    | with_reducible refine resow_keepE ?_ ‹_›
    | with_reducible refine resow_keep ?_
    | with_reducible refine restoreCells_keep ?_
    | with_reducible refine State_setSprout_keep ?_
    | with_reducible refine traceSprout_keep ?_
    | with_reducible refine goTo_keep ?_
    | with_reducible refine partState_keep ?_
    | with_reducible refine workDone_keep ?_)
@[simp] theorem modSnap_keep {z : State} {s : State} {f : Snap → Snap} (hz : Keep z s) :
    Keep z (modSnap s f) := by
  unfold modSnap; simp [hz]
@[simp] theorem setPhase_keep {z : State} {s : State} {p n : Nat} (hz : Keep z s) :
    Keep z (setPhase s p n) := by
  unfold setPhase; simp [hz]
@[simp] theorem buddyFails_keep {z : State} {s : State} {status : Nat} (hz : Keep z s) :
    Keep z (buddyFails s status) := by
  unfold buddyFails; try dsimp only
  (repeat' first
    | with_reducible assumption
    | split
    | with_reducible refine modSnap_keep ?_
    | with_reducible refine writerOn_keep ?_
    | with_reducible refine judge_keep ?_
    | simp only [keep_mk, keep_eta])
@[simp] theorem buddyOpen_keep {z : State} {s : State} {e : Epoch} {n : Nat} (hz : Keep z s) :
    Keep z (buddyOpen s e n) := by
  unfold buddyOpen; (repeat' split) <;> simp [*]
@[simp] theorem freeze_keep {z : State} {s : State} (hz : Keep z s) :
    Keep z (freeze s) := by
  unfold freeze; try dsimp only
  (repeat' first
    | with_reducible assumption
    | split
    | with_reducible refine setEpochState_keep ?_
    | with_reducible refine modSnap_keep ?_
    | with_reducible refine beginWriter_keep ?_
    | with_reducible refine writerOn_keep ?_
    | with_reducible refine judge_keep ?_
    | with_reducible refine buddyOpen_keep ?_)
@[simp] theorem flip_keep {z : State} {s : State} {p : Nat} (hz : Keep z s) :
    Keep z (flip s p) := by
  unfold flip; try dsimp only
  (repeat' first
    | with_reducible assumption
    | (with_reducible refine foldl_keep (fun _ _ _ => ?_) _ ?_)
    | split
    | with_reducible refine freeze_keep ?_
    | with_reducible refine traceHusk_keep ?_
    | with_reducible refine setPhase_keep ?_
    | simp only [keep_mk, keep_eta])
@[simp] theorem snapCopy_keep {z : State} {s0 : State} {p : Nat} (hz : Keep z s0) :
    Keep z (snapCopy s0 p) := by
  have hw : ∀ (ks : List Nat) (m : List Host.Cell) (g : Nat → Nat) (n : Nat), Memory.wf 0 m = true → Memory.wf 0 (ks.foldl (fun m k => mclear m (g k) n) m) = true := by
    intro ks
    induction ks with
    | nil => intro m g n h; exact h
    | cons a r ih => intro m g n h; exact ih _ g n (mclear_wf h)
  have h0 : Keep z (readAllCells s0 p) := readAllCells_keep hz
  unfold snapCopy; dsimp only
  rw [keep_mk, hbmPut_mem]
  refine keepF_hbm (openBytes_keep ?_) mwrite_wf
  rw [keep_mk]
  exact keepF_hbm h0 (fun w => foldl_mset_wf (hw _ _ (fun k => areaBase (readAllCells s0 p) + k * 0x100000) _ w))
@[simp] theorem pauseEnd_keep {z : State} {s : State} {p : Nat} (hz : Keep z s) :
    Keep z (pauseEnd s p) := by
  unfold pauseEnd; try dsimp only
  (repeat' first
    | with_reducible assumption
    | (with_reducible refine map_getD_keep ?_ (fun _ _ => ?_))
    | (with_reducible refine getD_keep ?_ (fun _ _ => ?_))
    | split
    | with_reducible refine endPause_keep ?_
    | with_reducible refine traceHusk_keep ?_
    | with_reducible refine setPhase_keep ?_
    | with_reducible refine snapCopy_keep ?_
    | with_reducible refine modSnap_keep ?_
    | with_reducible refine eventPart_keep ?_
    | simp only [keep_mk, keep_eta])
@[simp] theorem streamRecord_keep {z : State} {s : State} {r : LogRec} {off : Nat} {data : List Byte} (hz : Keep z s) :
    Keep z (streamRecord s r off data) := by
  unfold streamRecord; try dsimp only
  (repeat' first
    | with_reducible assumption
    | split
    | with_reducible refine sendXfer_keepE ?_ ‹_›
    | with_reducible refine buddyFails_keep ?_
    | with_reducible refine modSnap_keep ?_)
@[simp] theorem streamEnd_keep {z : State} {s : State} (hz : Keep z s) :
    Keep z (streamEnd s) := by
  unfold streamEnd; (repeat' split) <;> simp [*]
@[simp] theorem buddyCommit_keep {z : State} {s : State} (hz : Keep z s) :
    Keep z (buddyCommit s) := by
  unfold buddyCommit; (repeat' split) <;> simp [*]
@[simp] theorem drainSegment_keep {z : State} {s : State} (hz : Keep z s) :
    Keep z (drainSegment s) := by
  unfold drainSegment; try dsimp only
  (repeat' first
    | with_reducible assumption
    | (with_reducible refine map_getD_keep ?_ (fun _ _ => ?_))
    | (with_reducible refine getD_keep ?_ (fun _ _ => ?_))
    | split
    | with_reducible refine modSnap_keep ?_
    | with_reducible refine setEpochState_keep ?_
    | with_reducible refine engineRead_keepE ?_ ‹_›
    | with_reducible refine engineRead_keep ?_
    | with_reducible refine applyHeld_keep ?_
    | with_reducible refine writeData_keepE ?_ ‹_›
    | with_reducible refine volumeFull_keep ?_
    | with_reducible refine streamRecord_keep ?_
    | with_reducible refine entryWritten_keep ?_
    | with_reducible refine streamEnd_keep ?_
    | with_reducible refine modWriter_keep ?_
    | with_reducible refine writerOn_keep ?_
    | with_reducible refine judge_keep ?_
    | simp only [keep_mk, keep_eta])
@[simp] theorem modReader_keep {z : State} {s : State} {i : Nat} {f : Reader → Reader} (hz : Keep z s) :
    Keep z (modReader s i f) := by
  unfold modReader; (repeat' split) <;> simp [*]
@[simp] theorem readRecord_keep {z : State} {s : State} {i : Nat} {d : Reader} {r : LogRec} {place : Nat} (hz : Keep z s) :
    KeepO z (readRecord s i d r place) := by
  unfold readRecord; try dsimp only
  (repeat' first
    | with_reducible assumption
    | (with_reducible refine map_getD_keep ?_ (fun _ _ => ?_))
    | (with_reducible refine getD_keep ?_ (fun _ _ => ?_))
    | split
    | with_reducible refine submit_keepE ?_ ‹_›
    | simp only [keepO_none]) <;> simp [*]
theorem readRecord_keepE {z : State} {s : State} {i : Nat} {d : Reader} {r : LogRec} {place : Nat}  {w9 : State} (hz : Keep z s)
    (e9 : readRecord s i d r place = some w9) : Keep z w9 := by
  have h := readRecord_keep (z := z) (s := s) (i := i) (d := d) (r := r) (place := place) hz; simp only [KeepO] at h; rw [e9] at h; simpa using h
@[simp] theorem beginRebuild_keep {z : State} {s : State} {i : Nat} {d : Reader} {p : PlanItem} (hz : Keep z s) :
    KeepO z (beginRebuild s i d p) := by
  rintro t ht
  unfold beginRebuild at ht
  dsimp only at ht
  split at ht
  · cases ht
  · split at ht
    · cases ht
    · rename_i e _ _
      refine eachOpt_keepE (f := fun u j => ((rowOthers e p.item)[j]?).bind (fun r => readRecord u i d r (j + 1))) ?_ (modReader_keep hz) ht
      intro s a t h e
      simp only [Option.bind_eq_some_iff] at e
      obtain ⟨r, _, e⟩ := e
      exact readRecord_keepE h e
theorem beginRebuild_keepE {z : State} {s : State} {i : Nat} {d : Reader} {p : PlanItem}  {w9 : State} (hz : Keep z s)
    (e9 : beginRebuild s i d p = some w9) : Keep z w9 := by
  have h := beginRebuild_keep (z := z) (s := s) (i := i) (d := d) (p := p) hz; simp only [KeepO] at h; rw [e9] at h; simpa using h
@[simp] theorem placeRead_keep {z : State} {s : State} {r : LogRec} {data : List Byte} {poison : Nat} (hz : Keep z s) :
    Keep z (placeRead s r data poison) := by
  have h : Keep z { s with hbm := hbmPut s.hbm (if r.kind = 1 then r.address else areaBase s + r.address) data (poisonOf poison) } := by
    rw [keep_mk, hbmPut_mem]; exact keepF_hbm hz mwrite_wf
  unfold placeRead; dsimp only
  exact keep_ite (fun _ => keep_mk.2 (keep_mk.1 h)) (fun _ => h)
@[simp] theorem restoreLost_keep {z : State} {s : State} {r : LogRec} (hz : Keep z s) :
    Keep z (restoreLost s r) := by
  unfold restoreLost; (repeat' split) <;> simp [*]
@[simp] theorem fetchDone_keep {z : State} {s : State} {k dst : Nat} {volume epoch sent status : Nat} (hz : Keep z s) :
    Keep z (fetchDone s k dst volume epoch sent status) := by
  unfold fetchDone; simp [hz]
@[simp] theorem fetchSend_keep {z : State} {s : State} {k : Nat} {r : LogRec} {off : Nat} {data : List Byte} (hz : Keep z s) :
    Keep z (fetchSend s k r off data) := by
  unfold fetchSend; try dsimp only
  (repeat' first
    | with_reducible assumption
    | split
    | with_reducible refine sendXfer_keepE ?_ ‹_›
    | with_reducible refine fetchDone_keep ?_
    | simp only [keep_mk, keep_eta])
@[simp] theorem itemDone_keep {z : State} {s : State} {i : Nat} {p : PlanItem} {data : Option (List Byte)} {rebuilt : Bool} (hz : Keep z s) :
    Keep z (itemDone s i p data rebuilt) := by
  unfold itemDone; try dsimp only
  (repeat' first
    | with_reducible assumption
    | split
    | with_reducible refine modReader_keep ?_
    | with_reducible refine placeRead_keep ?_
    | with_reducible refine fetchSend_keep ?_
    | with_reducible refine restoreLost_keep ?_
    | with_reducible refine fetchDone_keep ?_)
@[simp] theorem cellsBack_keep {z : State} {s : State} {e : Epoch} {p : Nat} (hz : Keep z s) :
    Keep z (cellsBack s e p) := by
  unfold cellsBack; dsimp only
  split
  · exact hz
  · have h : Keep z ((s.pt p).regions.foldl zeroCells s) := foldl_keep (fun _ _ h => zeroCells_keep h) _ hz
    rw [keep_mk]; exact keepF_cells h (fun w => foldl_mset_wf w)
@[simp] theorem installState_keep {z : State} {s : State} {p : Nat} {v0 : Saved} {state : PartState} (hz : Keep z s) :
    Keep z (installState s p v0 state).2 := by
  unfold installState; try dsimp only
  (repeat' first
    | with_reducible assumption
    | split
    | with_reducible refine State_setPt_keep ?_
    | with_reducible refine resow_keepE ?_ ‹_›
    | with_reducible refine resow_keep ?_
    | with_reducible refine partState_keep ?_)
theorem installState_keepE {z : State} {s : State} {p : Nat} {v0 : Saved} {state : PartState} {u9 : _} {w9 : State} (hz : Keep z s)
    (e9 : installState s p v0 state = (u9, w9)) : Keep z w9 := by
  have h := installState_keep (z := z) (s := s) (p := p) (v0 := v0) (state := state) hz; rw [e9] at h; simpa using h
@[simp] theorem restoreFinish_keep {z : State} {s : State} (hz : Keep z s) :
    Keep z (restoreFinish s) := by
  unfold restoreFinish
  split
  · exact hz
  · split
    · exact hz
    · dsimp only
      refine endRestore_keep ?_
      refine foldl_pred (fun x : Bool × State => Keep z x.2) ?_ _ _ (foldl_keep (fun _ _ h => cellsBack_keep h) _ hz)
      intro b a h; try dsimp only
      split
      · exact h
      · exact installState_keep h
@[simp] theorem fetchEnd_keep {z : State} {s : State} {k : Nat} (hz : Keep z s) :
    Keep z (fetchEnd s k) := by
  unfold fetchEnd; (repeat' split) <;> simp [*]
@[simp] theorem readerOn_keep {z : State} {n : Nat} {s : State} {i : Nat} (hz : Keep z s) :
    Keep z (readerOn n s i) := by
  induction n generalizing s with
  | zero => simpa only [readerOn]
  | succ n ih =>
    unfold readerOn
    split
    · exact hz
    · split
      · split
        · exact restoreFinish_keep hz
        · exact fetchEnd_keep hz
      · split
        · exact readRecord_keepE hz ‹_›
        · split
          · exact beginRebuild_keepE hz ‹_›
          · exact ih (itemDone_keep hz)
@[simp] theorem readDone_keep {z : State} {s : State} {i pos place : Nat} {data : Option (List Byte)} (hz : Keep z s) :
    Keep z (readDone s i pos place data) := by
  unfold readDone; try dsimp only
  (repeat' first
    | with_reducible assumption
    | split
    | with_reducible refine readerOn_keep ?_
    | with_reducible refine itemDone_keep ?_
    | with_reducible refine beginRebuild_keepE ?_ ‹_›
    | with_reducible refine modReader_keep ?_)
@[simp] theorem restoreBegin_keep {z : State} {s : State} {e : Epoch} {d : Reader} (hz : Keep z s) :
    Keep z (restoreBegin s e d) := by
  unfold restoreBegin; try dsimp only
  (repeat' first
    | with_reducible assumption
    | (with_reducible refine foldl_keep (fun _ _ _ => ?_) _ ?_; try dsimp only)
    | split
    | with_reducible refine loseWhere_keep ?_
    | simp only [keep_mk, keep_eta])
@[simp] theorem modCompact_keep {z : State} {s : State} {f : Compact → Compact} (hz : Keep z s) :
    Keep z (modCompact s f) := by
  unfold modCompact; simp [hz]
@[simp] theorem compactEnd_keep {z : State} {s : State} {status : Nat} (hz : Keep z s) :
    Keep z (compactEnd s status) := by
  unfold compactEnd; (repeat' split) <;> simp [*]
@[simp] theorem moveWrite_keep {z : State} {k : Nat} {m : Nat} {s : State} {off : Nat} {data : List Byte} (hz : Keep z s) :
    Keep z (moveWrite k m s off data) := by
  unfold moveWrite
  exact getD_keep (compactEnd_keep hz) (fun _ e => writeMember_keepE hz e)
@[simp] theorem moveReads_keep {z : State} {s : State} {k m : Nat} {g : Segment} {x : Extent} (hz : Keep z s) :
    KeepO z (moveReads s k m g x) := by
  rintro t ht
  unfold moveReads at ht
  dsimp only at ht
  split at ht
  · cases ht
  · rename_i n _
    exact eachOpt_keepE (f := fun t i => submit t n
        (huskCmd nvmRead ((s.vol k).member m).nsid (segmentAt g.index + x.at_ + 0x1000 + i * 0x10000) 0x10000 (freeBuffer t 1) false (.moveRead m i) 16 0))
      (fun _ _ _ h e => submit_keepE h e) hz ht
theorem moveReads_keepE {z : State} {s : State} {k m : Nat} {g : Segment} {x : Extent}  {w9 : State} (hz : Keep z s)
    (e9 : moveReads s k m g x = some w9) : Keep z w9 := by
  have h := moveReads_keep (z := z) (s := s) (k := k) (m := m) (g := g) (x := x) hz; simp only [KeepO] at h; rw [e9] at h; simpa using h
@[simp] theorem compactOn_keep {z : State} {n : Nat} {s : State} (hz : Keep z s) :
    Keep z (compactOn n s) := by
  induction n generalizing s with
  | zero => simpa only [compactOn]
  | succ n ih =>
    unfold compactOn; dsimp only
    split
    · exact hz
    refine keep_ite (fun _ => hz) (fun _ => ?_)
    refine keep_ite (fun _ => ?_) (fun _ => ?_)
    · split
      · exact hz
      · exact ih (closeExtent_keep (fun _ _ _ h => moveWrite_keep h) (modCompact_keep hz))
    refine keep_ite (fun _ => ih (modCompact_keep hz)) (fun _ => ?_)
    refine keep_ite (fun _ => ?_) (fun _ => ?_)
    · split
      · exact hz
      · exact ih (moveWrite_keep (modCompact_keep (modMember_keep hz)))
    refine keep_ite (fun _ => compactEnd_keep hz) (fun _ => ?_)
    refine keep_ite (fun _ => hz) (fun _ => ?_)
    split
    · exact ih (modCompact_keep hz)
    · split
      · exact compactEnd_keep hz
      · have h := ‹_ = some _›
        simp only [Option.bind_eq_some_iff] at h
        obtain ⟨n, _, h⟩ := h
        exact modCompact_keep (submit_keepE hz h)
    · refine keep_ite (fun _ => ih (modCompact_keep hz)) (fun _ => ?_)
      split
      · exact compactEnd_keep hz
      · exact modCompact_keep (moveReads_keepE hz ‹_›)
@[simp] theorem moveRecord_keep {z : State} {s : State} {m place buffer : Nat} (hz : Keep z s) :
    Keep z (moveRecord s m place buffer) := by
  unfold moveRecord; dsimp only
  split
  · split
    · exact hz
    · split
      · exact compactEnd_keep hz
      · have h := placeRecord_keepE (fun _ _ _ h => moveWrite_keep h) (fun _ _ _ h => moveWrite_keep h) hz ‹_›
        refine getD_keep (compactEnd_keep (addRecord_keep (modCompact_keep h))) (fun t e => ?_)
        simp only [Option.bind_eq_some_iff] at e
        obtain ⟨n, _, e⟩ := e
        exact submit_keepE (addRecord_keep (modCompact_keep h)) e
  · exact hz
@[simp] theorem formatOn_keep {z : State} {s : State} (hz : Keep z s) :
    Keep z (formatOn s) := by
  unfold formatOn; try dsimp only
  (repeat' first
    | with_reducible assumption
    | (with_reducible refine foldl_keep (fun _ _ _ => ?_) _ ?_)
    | split
    | with_reducible refine noteVolume_keep ?_
    | with_reducible refine workDone_keep ?_
    | simp only [keep_mk, keep_eta])
@[simp] theorem formatMember_keep {z : State} {s : State} {k m : Nat} (hz : Keep z s) :
    Keep z (formatMember s k m) := by
  unfold formatMember; try dsimp only
  (repeat' first
    | with_reducible assumption
    | (with_reducible refine foldl_keep (fun _ _ _ => ?_) _ ?_; try dsimp only)
    | split
    | with_reducible refine modMember_keep ?_
    | with_reducible refine writeMember_keepE ?_ ‹_›
    | simp only [keep_mk, keep_eta])
@[simp] theorem completeCommits_keep {z : State} {s : State} {k : Nat} (hz : Keep z s) :
    Keep z (completeCommits s k) := by
  unfold completeCommits; dsimp only
  refine foldl_keep (fun _ e h => foldl_keep (fun t m h => ?_) _ h) _ hz
  refine keep_ite (fun _ => h) (fun _ => ?_)
  have hp : ∀ t o b, Keep z t → Keep z (tryWrite t k m o b (.segment k m) 0) := fun _ _ _ h => tryWrite_keep h
  exact map_getD_keep h (fun x e => closeExtent_keep hp (hp _ _ _ (addRecord_keep (placeRecord_keepE (n := x.1) hp hp h e))))
@[simp] theorem mountVolume_keep {z : State} {s : State} {k : Nat} {b : Superblock} {info : MountInfo} (hz : Keep z s) :
    Keep z (mountVolume s k b info) := by
  unfold mountVolume; try dsimp only
  (repeat' first
    | with_reducible assumption
    | (with_reducible refine foldl_keep (fun _ _ _ => ?_) _ ?_)
    | split
    | with_reducible refine noteVolume_keep ?_
    | with_reducible refine reclaim_keep ?_
    | with_reducible refine completeCommits_keep ?_
    | with_reducible refine setVol_keep ?_
    | simp only [keep_mk, keep_eta])
@[simp] theorem ringWrite_keep {z : State} {s : State} {x : Session} {o : Nat} {data : List Byte} (hz : Keep z s) :
    Keep z (ringWrite s x o data) := by
  have hp : ∀ (t : State) (a : Nat) (b : List Byte), Keep z t → Keep z { t with hbm := hbmPut t.hbm a b clean } := by
    intro t a b h; rw [keep_mk, hbmPut_mem]; exact keepF_hbm h mwrite_wf
  unfold ringWrite; dsimp only
  (repeat' split)
  · exact hp _ _ _ hz
  · exact hz
  · refine foldl_pred (fun x : State × Nat => Keep z x.1) ?_ _ _ hz
    intro b a h; exact hp _ _ _ h
@[simp] theorem traceIssue_keep {z : State} {s : State} {fn : Nat} (hz : Keep z s) :
    Keep z (traceIssue s fn) := by
  unfold traceIssue; try dsimp only
  (repeat' first
    | with_reducible assumption
    | split
    | with_reducible refine submit_keepE ?_ ‹_›
    | with_reducible refine stageData_keep ?_
    | with_reducible refine State_setSes_keep ?_)
@[simp] theorem stopEnd_keep {z : State} {s : State} {fn : Nat} (hz : Keep z s) :
    Keep z (stopEnd s fn) := by
  unfold stopEnd; try dsimp only
  (repeat' first
    | with_reducible assumption
    | split
    | with_reducible refine State_setSes_keep ?_
    | with_reducible refine finishOk_keep ?_
    | with_reducible refine clearSession_keep ?_
    | with_reducible refine sesState_keep ?_)
@[simp] theorem stopOn_keep {z : State} {s : State} {fn : Nat} (hz : Keep z s) :
    Keep z (stopOn s fn) := by
  unfold stopOn; dsimp only
  (repeat' split)
  all_goals first | exact hz | exact stopEnd_keep hz | exact traceIssue_keep hz | skip
  generalize he : submit s _ _ = o
  cases o with
  | none => exact loseSink_keep hz
  | some t => exact submit_keepE hz he
@[simp] theorem traceDone_keep {z : State} {s : State} {fn : Nat} {c : NvmeCmd} {ok : Bool} (hz : Keep z s) :
    Keep z (traceDone s fn c ok) := by
  unfold traceDone; (repeat' split) <;> simp [*]
@[simp] theorem checkFull_keep {z : State} {s : State} {fn : Nat} (hz : Keep z s) :
    Keep z (checkFull s fn) := by
  unfold checkFull; try dsimp only
  (repeat' first
    | with_reducible assumption
    | split
    | with_reducible refine stopEnd_keep ?_
    | with_reducible refine State_setSes_keep ?_
    | with_reducible refine sesState_keep ?_)
@[simp] theorem sinkDrain_keep {z : State} {s : State} {fn n : Nat} (hz : Keep z s) :
    Keep z (sinkDrain s fn n).2 := by
  unfold sinkDrain; try dsimp only
  (repeat' first
    | with_reducible assumption
    | split
    | with_reducible refine State_setSes_keep ?_
    | with_reducible refine stopOn_keep ?_
    | with_reducible refine checkFull_keep ?_
    | with_reducible refine traceIssue_keep ?_
    | with_reducible refine ringWrite_keep ?_)
theorem sinkDrain_keepE {z : State} {s : State} {fn n : Nat} {u9 : _} {w9 : State} (hz : Keep z s)
    (e9 : sinkDrain s fn n = (u9, w9)) : Keep z w9 := by
  have h := sinkDrain_keep (z := z) (s := s) (fn := fn) (n := n) hz; rw [e9] at h; simpa using h
@[simp] theorem overflowEnd_keep {z : State} {s : State} {fn : Nat} (hz : Keep z s) :
    Keep z (overflowEnd s fn) := by
  unfold overflowEnd; try dsimp only
  (repeat' first
    | with_reducible assumption
    | split
    | with_reducible refine State_setSes_keep ?_)
@[simp] theorem segmentData_keep {z : State} {s : State} {j : Job} {n : Nat} {buf : Option (List Byte)} (hz : Keep z s) :
    KeepO z ((segmentData s j n buf).map (fun x => x.2.2)) := by
  rintro t ht
  unfold segmentData at ht
  dsimp only at ht
  (repeat' split at ht) <;> simp only [Option.map_some, Option.some.injEq, Option.map_eq_some_iff] at ht
  · subst ht; exact hz
  · obtain ⟨_, ⟨_, _, rfl⟩, rfl⟩ := ht; exact hz
  · subst ht; exact engineRead_keep hz
  · subst ht; exact modJob_keep (engineRead_keep hz)
  · subst ht; exact hz
theorem segmentData_keepE {z : State} {s : State} {j : Job} {n : Nat} {buf : Option (List Byte)} {u9 : _} {v9 : _} {w9 : State} (hz : Keep z s)
    (e9 : segmentData s j n buf = some (u9, v9, w9)) : Keep z w9 := by
  have h := segmentData_keep (z := z) (s := s) (j := j) (n := n) (buf := buf) hz; simp only [KeepO] at h; rw [e9] at h; simpa using h
@[simp] theorem setFlag_keep {z : State} {s : State} {k place : Nat} (hz : Keep z s) :
    Keep z (setFlag s k place) := by
  unfold setFlag; try dsimp only
  (repeat' first
    | with_reducible assumption
    | (with_reducible refine map_getD_keep ?_ (fun _ _ => ?_))
    | (with_reducible refine getD_keep ?_ (fun _ _ => ?_))
    | split
    | with_reducible refine fault_keep ?_
    | with_reducible refine State_setPod_keep ?_)
@[simp] theorem setFlags_keep {z : State} {s : State} {d : Desc} {banks : List (Nat × Nat)} (hz : Keep z s) :
    Keep z (setFlags s d banks) := by
  unfold setFlags; try dsimp only
  (repeat' first
    | with_reducible assumption
    | (with_reducible refine foldl_keep (fun _ _ _ => ?_) _ ?_; try dsimp only)
    | split
    | with_reducible refine setFlag_keep ?_)
@[simp] theorem remoteSegment_keep {z : State} {s : State} {j : Job} {data : List Byte} {bad : List Nat} (hz : Keep z s) :
    Keep z (remoteSegment s j data bad) := by
  unfold remoteSegment; try dsimp only
  (repeat' first
    | with_reducible assumption
    | (with_reducible refine foldl_keep (fun _ _ _ => ?_) _ ?_)
    | split
    | with_reducible refine sendXfer_keepE ?_ ‹_›
    | with_reducible refine modJob_keep ?_)
@[simp] theorem moverSegment_keep {z : State} {s : State} {j : Job} {buf : Option (List Byte)} (hz : Keep z s) :
    Keep z (moverSegment s j buf) := by
  unfold moverSegment; try dsimp only
  (repeat' first
    | with_reducible assumption
    | split
    | with_reducible refine modJob_keep ?_
    | with_reducible refine segmentData_keepE ?_ ‹_›
    | with_reducible refine modList_keep ?_
    | with_reducible refine remoteSegment_keep ?_
    | with_reducible refine engineWrite_keep ?_
    | with_reducible refine setFlags_keep ?_
    | simp only [keep_mk, keep_eta])
@[simp] theorem dropJob_keep {z : State} {s : State} {j : Job} (hz : Keep z s) :
    Keep z (dropJob s j) := by
  unfold dropJob; simp [hz]
@[simp] theorem engineFault_keep {z : State} {s : State} {member : Nat} {jobId : W32} {code : Nat} {detail : List Byte} (hz : Keep z s) :
    Keep z (engineFault s member jobId code detail) := by
  unfold engineFault; simp [hz]
@[simp] theorem driveReady_keep {z : State} {s : State} {n : Nat} (hz : Keep z s) :
    Keep z (driveReady s n) := by
  unfold driveReady; try dsimp only
  (repeat' first
    | with_reducible assumption
    | (with_reducible refine foldl_keep (fun _ _ _ => ?_) _ ?_; try dsimp only)
    | split
    | with_reducible refine setNs_keep ?_
    | with_reducible refine driveState_keep ?_
    | with_reducible refine modDp_keep ?_)
@[simp] theorem setupStep_keep {z : State} {s : State} {n k : Nat} (hz : Keep z s) :
    Keep z (setupStep s n k) := by
  unfold setupStep; try dsimp only
  (repeat' first
    | with_reducible assumption
    | (with_reducible refine map_getD_keep ?_ (fun _ _ => ?_))
    | (with_reducible refine getD_keep ?_ (fun _ _ => ?_))
    | split
    | with_reducible refine sendAdmin_keep ?_
    | with_reducible refine driveReady_keep ?_)
@[simp] theorem unsuitable_keep {z : State} {s : State} {n : Nat} (hz : Keep z s) :
    Keep z (unsuitable s n) := by
  unfold unsuitable; simp [hz]
@[simp] theorem setupDone_keep {z : State} {s : State} {n k : Nat} {c : NvmeCmd} {e : NvmeEnd} {info : DriveInfo} (hz : Keep z s) :
    Keep z (setupDone s n k c e info) := by
  unfold setupDone; try dsimp only
  (repeat' first
    | with_reducible assumption
    | split
    | with_reducible refine setupStep_keep ?_
    | with_reducible refine modDrive_keep ?_
    | with_reducible refine unsuitable_keep ?_)
@[simp] theorem markClean_keep {z : State} {s : State} {serial : List Byte} {nsid : Nat} (hz : Keep z s) :
    Keep z (markClean s serial nsid) := by
  unfold markClean; simp [hz]
@[simp] theorem cleanMarks_keep {z : State} {s : State} {n : Nat} {c : NvmeCmd} {dw0 : Nat} (hz : Keep z s) :
    Keep z (cleanMarks s n c dw0) := by
  unfold cleanMarks; try dsimp only
  (repeat' first
    | with_reducible assumption
    | (with_reducible refine foldl_keep (fun _ _ _ => ?_) _ ?_; try dsimp only)
    | split
    | with_reducible refine markClean_keep ?_)
@[simp] theorem adminDone_keep {z : State} {s : State} {n fn id host : Nat} {c : NvmeCmd} {e : NvmeEnd} (hz : Keep z s) :
    Keep z (adminDone s n fn id host c e) := by
  unfold adminDone; try dsimp only
  (repeat' first
    | with_reducible assumption
    | split
    | with_reducible refine workDone_keep ?_
    | with_reducible refine cleanMarks_keep ?_
    | with_reducible refine engineRead_keepE ?_ ‹_›
    | with_reducible refine engineRead_keep ?_
    | with_reducible refine setupStep_keep ?_
    | simp only [keep_mk, keep_eta])
@[simp] theorem systemDurable_keep {z : State} {s : State} {k epoch : Nat} (hz : Keep z s) :
    Keep z (systemDurable s k epoch) := by
  unfold systemDurable; simp [hz]
@[simp] theorem endDriveCmd_keep {z : State} {s : State} {n : Nat} {c : NvmeCmd} {e : NvmeEnd} {info : DriveInfo} (hz : Keep z s) :
    Keep z (endDriveCmd s n c e info) := by
  unfold endDriveCmd; try dsimp only
  (repeat' first
    | with_reducible assumption
    | split
    | with_reducible refine writerOn_keep ?_
    | with_reducible refine memberLost_keep ?_
    | with_reducible refine adminDone_keep ?_
    | with_reducible refine setupDone_keep ?_
    | with_reducible refine entryWritten_keep ?_
    | with_reducible refine commitCopy_keep ?_
    | with_reducible refine systemDurable_keep ?_
    | with_reducible refine readDone_keep ?_
    | with_reducible refine moveRecord_keep ?_
    | with_reducible refine compactEnd_keep ?_
    | with_reducible refine compactOn_keep ?_
    | with_reducible refine moveWrite_keep ?_
    | with_reducible refine formatOn_keep ?_
    | with_reducible refine traceDone_keep ?_
    | simp only [keep_mk, keep_eta])
@[simp] theorem endCommands_keep {z : State} {s : State} {n : Nat} {l : List NvmeCmd} {status : Nat} (hz : Keep z s) :
    Keep z (endCommands s n l status) := by
  unfold endCommands; try dsimp only
  (repeat' first
    | with_reducible assumption
    | (with_reducible refine foldl_keep (fun _ _ _ => ?_) _ ?_; try dsimp only)
    | split
    | with_reducible refine modDrive_keep ?_
    | with_reducible refine endDriveCmd_keep ?_
    | with_reducible refine poisonReads_keep ?_)
@[simp] theorem endAll_keep {z : State} {s : State} {n status : Nat} (hz : Keep z s) :
    Keep z (endAll s n status) := by
  unfold endAll; try dsimp only
  (repeat' first
    | with_reducible assumption
    | (with_reducible refine foldl_keep (fun _ _ _ => ?_) _ ?_; try dsimp only)
    | split
    | with_reducible refine endCommands_keep ?_
    | with_reducible refine memberLost_keep ?_)
@[simp] theorem driveFails_keep {z : State} {s : State} {n cause : Nat} (hz : Keep z s) :
    Keep z (driveFails s n cause) := by
  unfold driveFails; try dsimp only
  (repeat' first
    | with_reducible assumption
    | split
    | with_reducible refine driveState_keep ?_
    | with_reducible refine modDrive_keep ?_
    | with_reducible refine step_keep ?_
    | with_reducible refine endAll_keep ?_)
@[simp] theorem driveFault_keep {z : State} {s : State} {n code cls : Nat} {detail : List Byte} (hz : Keep z s) :
    Keep z (driveFault s n code cls detail) := by
  unfold driveFault; simp [hz]
@[simp] theorem recover2_keep {z : State} {s : State} {n : Nat} (hz : Keep z s) :
    Keep z (recover2 s n) := by
  unfold recover2; try dsimp only
  (repeat' first
    | with_reducible assumption
    | split
    | with_reducible refine modDrive_keep ?_
    | with_reducible refine step_keep ?_
    | with_reducible refine driveFails_keep ?_
    | with_reducible refine driveState_keep ?_
    | with_reducible refine endCommands_keep ?_)
@[simp] theorem recover3_keep {z : State} {s : State} {n cause : Nat} (hz : Keep z s) :
    Keep z (recover3 s n cause) := by
  unfold recover3; try dsimp only
  (repeat' first
    | with_reducible assumption
    | split
    | with_reducible refine modDp_keep ?_
    | with_reducible refine step_keep ?_
    | with_reducible refine driveState_keep ?_
    | with_reducible refine endCommands_keep ?_)
@[simp] theorem recover4_keep {z : State} {s : State} {n : Nat} (hz : Keep z s) :
    Keep z (recover4 s n) := by
  unfold recover4; try dsimp only
  (repeat' first
    | with_reducible assumption
    | split
    | with_reducible refine slotOff_keep ?_
    | with_reducible refine modDrive_keep ?_
    | with_reducible refine step_keep ?_
    | with_reducible refine driveState_keep ?_
    | with_reducible refine endCommands_keep ?_)
@[simp] theorem driveStepFails_keep {z : State} {s : State} {n qid : Nat} (hz : Keep z s) :
    Keep z (driveStepFails s n qid) := by
  unfold driveStepFails; try dsimp only
  (repeat' first
    | with_reducible assumption
    | split
    | with_reducible refine driveFault_keep ?_
    | with_reducible refine step_keep ?_
    | with_reducible refine recover2_keep ?_
    | with_reducible refine recover3_keep ?_
    | with_reducible refine recover4_keep ?_
    | with_reducible refine driveFails_keep ?_)
@[simp] theorem State_setBay_keep {z : State} {s : State} {n : Nat} {b : BayState} (hz : Keep z s) :
    Keep z (State.setBay s n b) := by
  unfold State.setBay; simp [hz]
@[simp] theorem powerOn_keep {z : State} {s : State} {n cause : Nat} (hz : Keep z s) :
    Keep z (powerOn s n cause) := by
  unfold powerOn; try dsimp only
  (repeat' first
    | with_reducible assumption
    | split
    | with_reducible refine driveState_keep ?_
    | with_reducible refine modDrive_keep ?_
    | with_reducible refine slotOn_keep ?_)
@[simp] theorem wakeDrive_keep {z : State} {s : State} {n cause : Nat} (hz : Keep z s) :
    Keep z (wakeDrive s n cause) := by
  unfold wakeDrive; try dsimp only
  (repeat' first
    | with_reducible assumption
    | split
    | with_reducible refine driveState_keep ?_
    | with_reducible refine modDrive_keep ?_
    | with_reducible refine slotOn_keep ?_)
@[simp] theorem autoPowerAll_keep {z : State} {s : State} (hz : Keep z s) :
    Keep z (autoPowerAll s) := by
  unfold autoPowerAll; try dsimp only
  (repeat' first
    | with_reducible assumption
    | (with_reducible refine foldl_keep (fun _ _ _ => ?_) _ ?_; try dsimp only)
    | split
    | with_reducible refine powerOn_keep ?_)
@[simp] theorem slotIsOff_keep {z : State} {s : State} {n : Nat} (hz : Keep z s) :
    Keep z (slotIsOff s n) := by
  unfold slotIsOff; try dsimp only
  (repeat' first
    | with_reducible assumption
    | split
    | with_reducible refine endAll_keep ?_
    | with_reducible refine driveState_keep ?_
    | with_reducible refine step_keep ?_
    | with_reducible refine slotOn_keep ?_)
@[simp] theorem bayFault_keep {z : State} {s : State} {n : Nat} (hz : Keep z s) :
    Keep z (bayFault s n) := by
  unfold bayFault; try dsimp only
  (repeat' first
    | with_reducible assumption
    | split
    | with_reducible refine cpRaise_keep ?_
    | with_reducible refine State_setBay_keep ?_
    | with_reducible refine setBay_keep ?_
    | with_reducible refine companionAppend_keep ?_
    | with_reducible refine modDp_keep ?_
    | with_reducible refine slotOff_keep ?_
    | with_reducible refine driveFails_keep ?_
    | with_reducible refine unsuitable_keep ?_
    | with_reducible refine endAll_keep ?_
    | with_reducible refine driveState_keep ?_
    | simp only [keep_mk, keep_eta])
theorem execBayPowerGood_keep {z : State} {bay : Fin 8} {s : State} (hz : Keep z s) :
    KeepOut z (execBayPowerGood bay s) := by
  unfold execBayPowerGood; try dsimp only
  (repeat' first
    | with_reducible assumption
    | split
    | with_reducible refine cpRaise_keep ?_
    | with_reducible refine State_setBay_keep ?_
    | with_reducible refine setBay_keep ?_
    | with_reducible refine nextN_keep ?_
    | with_reducible refine modDp_keep ?_
    | simp only [keepOut_next])
theorem execBayRampTimeout_keep {z : State} {bay : Fin 8} {s : State} (hz : Keep z s) :
    KeepOut z (execBayRampTimeout bay s) := by
  unfold execBayRampTimeout; try dsimp only
  (repeat' first
    | with_reducible assumption
    | split
    | with_reducible refine nextN_keep ?_
    | with_reducible refine bayFault_keep ?_
    | simp only [keepOut_next])
theorem execBayOvercurrentTrip_keep {z : State} {bay : Fin 8} {s : State} (hz : Keep z s) :
    KeepOut z (execBayOvercurrentTrip bay s) := by
  unfold execBayOvercurrentTrip; try dsimp only
  (repeat' first
    | with_reducible assumption
    | split
    | with_reducible refine nextN_keep ?_
    | with_reducible refine bayFault_keep ?_
    | simp only [keepOut_next])
theorem execBayDischarged_keep {z : State} {bay : Fin 8} {s : State} (hz : Keep z s) :
    KeepOut z (execBayDischarged bay s) := by
  unfold execBayDischarged; try dsimp only
  (repeat' first
    | with_reducible assumption
    | split
    | with_reducible refine cpRaise_keep ?_
    | with_reducible refine State_setBay_keep ?_
    | with_reducible refine setBay_keep ?_
    | with_reducible refine modDp_keep ?_
    | with_reducible refine nextN_keep ?_
    | with_reducible refine slotIsOff_keep ?_
    | simp only [keepOut_next])
@[simp] theorem presenceLost_keep {z : State} {s : State} {n : Nat} (hz : Keep z s) :
    Keep z (presenceLost s n) := by
  unfold presenceLost; try dsimp only
  (repeat' first
    | with_reducible assumption
    | split
    | with_reducible refine eventDev_keep ?_
    | with_reducible refine modDp_keep ?_
    | with_reducible refine slotOff_keep ?_
    | with_reducible refine driveState_keep ?_
    | with_reducible refine endAll_keep ?_)
theorem execPresenceChange_keep {z : State} {dp : Fin 8} {present : Bool} {s : State} (hz : Keep z s) :
    KeepOut z (execPresenceChange dp present s) := by
  unfold execPresenceChange; try dsimp only
  (repeat' first
    | with_reducible assumption
    | split
    | with_reducible refine nextN_keep ?_
    | with_reducible refine modDp_keep ?_
    | with_reducible refine presenceLost_keep ?_
    | with_reducible refine eventDev_keep ?_
    | with_reducible refine driveState_keep ?_
    | with_reducible refine powerOn_keep ?_
    | simp only [keepOut_next])
theorem execDriveSurpriseRemoval_keep {z : State} {dp : Fin 8} {s : State} (hz : Keep z s) :
    KeepOut z (execDriveSurpriseRemoval dp s) := by
  unfold execDriveSurpriseRemoval; try dsimp only
  (repeat' first
    | with_reducible assumption
    | split
    | with_reducible refine nextN_keep ?_
    | with_reducible refine presenceLost_keep ?_
    | simp only [keepOut_next])
theorem execPowerControllerControlWrite_keep {z : State} {dp : Fin 8} {off : Bool} {s : State} (hz : Keep z s) :
    KeepOut z (execPowerControllerControlWrite dp off s) := by
  unfold execPowerControllerControlWrite; try dsimp only
  (repeat' first
    | with_reducible assumption
    | split
    | with_reducible refine nextN_keep ?_
    | with_reducible refine modDp_keep ?_
    | with_reducible refine slotOff_keep ?_
    | with_reducible refine slotOn_keep ?_
    | simp only [keepOut_next])
theorem execDpPerstRelease_keep {z : State} {dp : Fin 8} {s : State} (hz : Keep z s) :
    KeepOut z (execDpPerstRelease dp s) := by
  unfold execDpPerstRelease; try dsimp only
  (repeat' first
    | with_reducible assumption
    | split
    | with_reducible refine modDp_keep ?_
    | with_reducible refine nextN_keep ?_
    | with_reducible refine driveState_keep ?_
    | simp only [keepOut_next])
theorem execDownstreamLinkUp_keep {z : State} {dp : Fin 8} {speed : Fin 7} {width : Fin 16} {flit suitable : Bool} {s : State} (hz : Keep z s) :
    KeepOut z (execDownstreamLinkUp dp speed width flit suitable s) := by
  unfold execDownstreamLinkUp; try dsimp only
  (repeat' first
    | with_reducible assumption
    | split
    | with_reducible refine modDp_keep ?_
    | with_reducible refine nextN_keep ?_
    | with_reducible refine unsuitable_keep ?_
    | with_reducible refine modDrive_keep ?_
    | simp only [keepOut_next])
theorem execControllerReady_keep {z : State} {dp : Fin 8} {s : State} (hz : Keep z s) :
    KeepOut z (execControllerReady dp s) := by
  unfold execControllerReady; try dsimp only
  (repeat' first
    | with_reducible assumption
    | split
    | with_reducible refine nextN_keep ?_
    | with_reducible refine setupStep_keep ?_
    | with_reducible refine modDrive_keep ?_
    | simp only [keepOut_next])
theorem execControllerReadyTimeout_keep {z : State} {dp : Fin 8} {s : State} (hz : Keep z s) :
    KeepOut z (execControllerReadyTimeout dp s) := by
  unfold execControllerReadyTimeout; try dsimp only
  (repeat' first
    | with_reducible assumption
    | split
    | with_reducible refine modDrive_keep ?_
    | with_reducible refine nextN_keep ?_
    | with_reducible refine driveStepFails_keep ?_
    | with_reducible refine driveFails_keep ?_
    | simp only [keepOut_next])
theorem execClkreqAssert_keep {z : State} {dp : Fin 8} {s : State} (hz : Keep z s) :
    KeepOut z (execClkreqAssert dp s) := by
  unfold execClkreqAssert; try dsimp only
  (repeat' first
    | with_reducible assumption
    | split
    | with_reducible refine nextN_keep ?_
    | with_reducible refine modDp_keep ?_
    | simp only [keepOut_next])
theorem execClkreqRelease_keep {z : State} {dp : Fin 8} {s : State} (hz : Keep z s) :
    KeepOut z (execClkreqRelease dp s) := by
  unfold execClkreqRelease; try dsimp only
  (repeat' first
    | with_reducible assumption
    | split
    | with_reducible refine nextN_keep ?_
    | with_reducible refine modDp_keep ?_
    | simp only [keepOut_next])
theorem execDriveIdleTimeout_keep {z : State} {dp : Fin 8} {s : State} (hz : Keep z s) :
    KeepOut z (execDriveIdleTimeout dp s) := by
  unfold execDriveIdleTimeout; try dsimp only
  (repeat' first
    | with_reducible assumption
    | split
    | with_reducible refine nextN_keep ?_
    | with_reducible refine driveState_keep ?_
    | with_reducible refine modDrive_keep ?_
    | simp only [keepOut_next])
@[simp] theorem shutdownOver_keep {z : State} {s : State} {n : Nat} (hz : Keep z s) :
    Keep z (shutdownOver s n) := by
  unfold shutdownOver; (repeat' split) <;> simp [*]
theorem execShutdownComplete_keep {z : State} {dp : Fin 8} {s : State} (hz : Keep z s) :
    KeepOut z (execShutdownComplete dp s) := by
  unfold execShutdownComplete; try dsimp only
  (repeat' first
    | with_reducible assumption
    | split
    | with_reducible refine nextN_keep ?_
    | with_reducible refine shutdownOver_keep ?_)
theorem execShutdownTimeout_keep {z : State} {dp : Fin 8} {s : State} (hz : Keep z s) :
    KeepOut z (execShutdownTimeout dp s) := by
  unfold execShutdownTimeout; try dsimp only
  (repeat' first
    | with_reducible assumption
    | split
    | with_reducible refine nextN_keep ?_
    | with_reducible refine shutdownOver_keep ?_)
theorem execDriveWake_keep {z : State} {dp : Fin 8} {s : State} (hz : Keep z s) :
    KeepOut z (execDriveWake dp s) := by
  unfold execDriveWake; try dsimp only
  (repeat' first
    | with_reducible assumption
    | split
    | with_reducible refine nextN_keep ?_
    | with_reducible refine wakeDrive_keep ?_
    | simp only [keepOut_next])
theorem execDriveWakeTimeout_keep {z : State} {dp : Fin 8} {s : State} (hz : Keep z s) :
    KeepOut z (execDriveWakeTimeout dp s) := by
  unfold execDriveWakeTimeout; try dsimp only
  (repeat' first
    | with_reducible assumption
    | split
    | with_reducible refine nextN_keep ?_
    | with_reducible refine driveFails_keep ?_
    | simp only [keepOut_next])

end Sys2Proof.Machine
end

