-- ==== Sys2Proof/Laws/Keep4.lean ====
section
/-! SUPPORT. Keep, of the operations and meanings of Boot, Companion, PowerOps, Budget, BulkOps, EmbOps, FenceOps, BundleOps, Emb. -/

namespace Sys2Proof.Machine

theorem execFlashReadTimeout_keep {z : State} {s : State} (hz : Keep z s) :
    KeepOut z (execFlashReadTimeout s) := by
  unfold execFlashReadTimeout; (repeat' split) <;> simp [*]
theorem execWdogStreakClear_keep {z : State} {s : State} (hz : Keep z s) :
    KeepOut z (execWdogStreakClear s) := by
  unfold execWdogStreakClear; (repeat' split) <;> simp [*]
theorem execPllLock_keep {z : State} {s : State} (hz : Keep z s) :
    KeepOut z (execPllLock s) := by
  unfold execPllLock; (repeat' split) <;> simp [*]
theorem execPllLockAchieved_keep {z : State} {s : State} (hz : Keep z s) :
    KeepOut z (execPllLockAchieved s) := by
  unfold execPllLockAchieved; (repeat' split) <;> simp [*]
theorem execPllLockTimeout_keep {z : State} {s : State} (hz : Keep z s) :
    KeepOut z (execPllLockTimeout s) := by
  unfold execPllLockTimeout; try dsimp only
  (repeat' first
    | with_reducible assumption
    | split
    | with_reducible refine stepFails_keep ?_
    | simp only [keep_mk, keep_eta, keepOut_next])
theorem execClockLossDetected_keep {z : State} {pll : Bool} {s : State} (hz : Keep z s) :
    KeepOut z (execClockLossDetected pll s) := by
  unfold execClockLossDetected; dsimp only
  split
  · exact keepOut_next.2 hz
  · exact nextN_keep (fault_keep (keep_mk.2 (keepF_of hz (fun i => ⟨⟨i.1.1, by simp⟩, i.2⟩))))
theorem execOutputRelease_keep {z : State} {s : State} (hz : Keep z s) :
    KeepOut z (execOutputRelease s) := by
  unfold execOutputRelease; (repeat' split) <;> simp [*]
theorem execSrRelease_keep {z : State} {bad : List (Fin 6)} {s : State} (hz : Keep z s) :
    KeepOut z (execSrRelease bad s) := by
  unfold execSrRelease; (repeat' split) <;> simp [*]
theorem execWriteEnable_keep {z : State} {s : State} (hz : Keep z s) :
    KeepOut z (execWriteEnable s) := by
  unfold execWriteEnable; (repeat' split) <;> simp [*]
theorem execSectionDeployment_keep {z : State} {s : State} (hz : Keep z s) :
    KeepOut z (execSectionDeployment s) := by
  unfold execSectionDeployment; (repeat' split) <;> simp [*]
@[simp] theorem proceed_keep {z : State} {s : State} {d : DoneState} (hz : Keep z s) :
    Keep z (proceed s d) := by
  unfold proceed; simp [hz]
theorem execModuleReady_keep {z : State} {s : State} (hz : Keep z s) :
    KeepOut z (execModuleReady s) := by
  unfold execModuleReady; try dsimp only
  (repeat' first
    | with_reducible assumption
    | split
    | with_reducible refine autoPowerAll_keep ?_
    | with_reducible refine nextN_keep ?_
    | with_reducible refine releaseLinks_keep ?_
    | with_reducible refine proceed_keep ?_
    | simp only [keep_mk, keep_eta, keepOut_next])
theorem execDoneHigh_keep {z : State} {s : State} (hz : Keep z s) :
    KeepOut z (execDoneHigh s) := by
  unfold execDoneHigh; try dsimp only
  (repeat' first
    | with_reducible assumption
    | split
    | with_reducible refine nextN_keep ?_
    | with_reducible refine proceed_keep ?_
    | with_reducible refine eventDev_keep ?_
    | simp only [keep_mk, keep_eta, keepOut_next])
theorem execDoneTimeout_keep {z : State} {s : State} (hz : Keep z s) :
    KeepOut z (execDoneTimeout s) := by
  unfold execDoneTimeout; try dsimp only
  (repeat' first
    | with_reducible assumption
    | split
    | with_reducible refine nextN_keep ?_
    | with_reducible refine eventDev_keep ?_
    | with_reducible refine proceed_keep ?_
    | simp only [keepOut_next])
@[simp] theorem removePower_keep {z : State} {s : State} (hz : Keep z s) :
    Keep z (removePower s) := by
  unfold removePower; split
  · exact hz
  · have hd := dieUnpowered_keep hz
    rw [keep_mk]
    have hd := keep_eta.2 hd
    have hz := keep_eta.2 hz
    refine ⟨hd.1, fun iz => ?_⟩
    have a := hz.2 iz
    have b := hd.2 iz
    exact ⟨b.1, b.2.1, a.2.2.1, a.2.2.2.1, a.2.2.2.2.1, a.2.2.2.2.2.1, a.2.2.2.2.2.2.1, b.2.2.2.2.2.2.2⟩
@[simp] theorem tripFeed_keep {z : State} {s : State} {f : Nat} {cause : TripCause} (hz : Keep z s) :
    Keep z (tripFeed s f cause) := by
  unfold tripFeed; try dsimp only
  (repeat' first
    | with_reducible assumption
    | split
    | with_reducible refine State_setFeed_keep ?_
    | with_reducible refine cpRaise_keep ?_
    | with_reducible refine companionAppend_keep ?_
    | with_reducible refine removePower_keep ?_
    | simp only [keep_mk, keep_eta])
theorem execFeedQualify_keep {z : State} {f : Fin 2} {vin : Nat} {s : State} (hz : Keep z s) :
    KeepOut z (execFeedQualify f vin s) := by
  unfold execFeedQualify; try dsimp only
  (repeat' first
    | with_reducible assumption
    | split
    | with_reducible refine State_setFeed_keep ?_
    | simp only [keepOut_next])
theorem execQualifyWindowExpiry_keep {z : State} {f : Fin 2} {s : State} (hz : Keep z s) :
    KeepOut z (execQualifyWindowExpiry f s) := by
  unfold execQualifyWindowExpiry; try dsimp only
  (repeat' first
    | with_reducible assumption
    | split
    | with_reducible refine State_setFeed_keep ?_
    | simp only [keepOut_next])
theorem execVinOutOfWindow_keep {z : State} {f : Fin 2} {vin : Nat} {s : State} (hz : Keep z s) :
    KeepOut z (execVinOutOfWindow f vin s) := by
  unfold execVinOutOfWindow; try dsimp only
  (repeat' first
    | with_reducible assumption
    | split
    | with_reducible refine State_setFeed_keep ?_
    | simp only [keepOut_next])
theorem execFeedPowerGood_keep {z : State} {f : Fin 2} {node vin : Nat} {s : State} (hz : Keep z s) :
    KeepOut z (execFeedPowerGood f node vin s) := by
  unfold execFeedPowerGood; try dsimp only
  (repeat' first
    | with_reducible assumption
    | split
    | with_reducible refine State_setFeed_keep ?_
    | simp only [keep_mk, keep_eta, keepOut_next])
theorem execRampTimeout_keep {z : State} {f : Fin 2} {s : State} (hz : Keep z s) :
    KeepOut z (execRampTimeout f s) := by
  unfold execRampTimeout; (repeat' split) <;> simp [*]
theorem execVinUvFall_keep {z : State} {f : Fin 2} {vin : Nat} {s : State} (hz : Keep z s) :
    KeepOut z (execVinUvFall f vin s) := by
  unfold execVinUvFall; try dsimp only
  (repeat' first
    | with_reducible assumption
    | split
    | with_reducible refine cpRaise_keep ?_
    | with_reducible refine State_setFeed_keep ?_
    | simp only [keepOut_next])
theorem execOvTrip_keep {z : State} {f : Fin 2} {vin : Nat} {fast : Bool} {s : State} (hz : Keep z s) :
    KeepOut z (execOvTrip f vin fast s) := by
  unfold execOvTrip; try dsimp only
  (repeat' first
    | with_reducible assumption
    | split
    | with_reducible refine tripFeed_keep ?_
    | with_reducible refine cpRaise_keep ?_
    | simp only [keepOut_next])
theorem execOcTimerTrip_keep {z : State} {f : Fin 2} {iin : Int} {s : State} (hz : Keep z s) :
    KeepOut z (execOcTimerTrip f iin s) := by
  unfold execOcTimerTrip; try dsimp only
  (repeat' first
    | with_reducible assumption
    | split
    | with_reducible refine tripFeed_keep ?_
    | simp only [keepOut_next])
theorem execOcFastTrip_keep {z : State} {f : Fin 2} {iin : Int} {s : State} (hz : Keep z s) :
    KeepOut z (execOcFastTrip f iin s) := by
  unfold execOcFastTrip; try dsimp only
  (repeat' first
    | with_reducible assumption
    | split
    | with_reducible refine tripFeed_keep ?_
    | simp only [keepOut_next])
theorem execOcWarn_keep {z : State} {f : Fin 2} {iin : Int} {s : State} (hz : Keep z s) :
    KeepOut z (execOcWarn f iin s) := by
  unfold execOcWarn; try dsimp only
  (repeat' first
    | with_reducible assumption
    | split
    | with_reducible refine cpRaise_keep ?_
    | with_reducible refine State_setFeed_keep ?_
    | simp only [keepOut_next])
theorem execRetryTimerExpiry_keep {z : State} {who : Fin 3} {s : State} (hz : Keep z s) :
    KeepOut z (execRetryTimerExpiry who s) := by
  unfold execRetryTimerExpiry; try dsimp only
  (repeat' first
    | with_reducible assumption
    | split
    | with_reducible refine State_setFeed_keep ?_
    | simp only [keep_mk, keep_eta, keepOut_next])
theorem execRetryCountRestore_keep {z : State} {f : Fin 2} {s : State} (hz : Keep z s) :
    KeepOut z (execRetryCountRestore f s) := by
  unfold execRetryCountRestore; try dsimp only
  (repeat' first
    | with_reducible assumption
    | split
    | with_reducible refine State_setFeed_keep ?_
    | simp only [keepOut_next])
theorem execInrushSlewAdjust_keep {z : State} {f : Fin 2} {slew : Nat} {s : State} (hz : Keep z s) :
    KeepOut z (execInrushSlewAdjust f slew s) := by
  unfold execInrushSlewAdjust; try dsimp only
  (repeat' first
    | with_reducible assumption
    | split
    | with_reducible refine State_setFeed_keep ?_
    | simp only [keepOut_next])
theorem execReverseCurrentTrip_keep {z : State} {f : Fin 2} {iin : Int} {s : State} (hz : Keep z s) :
    KeepOut z (execReverseCurrentTrip f iin s) := by
  unfold execReverseCurrentTrip; try dsimp only
  (repeat' first
    | with_reducible assumption
    | split
    | with_reducible refine State_setFeed_keep ?_
    | simp only [keep_mk, keep_eta, keepOut_next])
theorem execOringModeApply_keep {z : State} {s : State} (hz : Keep z s) :
    KeepOut z (execOringModeApply s) := by
  unfold execOringModeApply; try dsimp only
  (repeat' first
    | with_reducible assumption
    | split
    | with_reducible refine State_setFeed_keep ?_
    | simp only [keep_mk, keep_eta, keepOut_next])
@[simp] theorem setBay_keep {z : State} {s : State} {n : Nat} {b : Bay} (hz : Keep z s) :
    Keep z (setBay s n b) := by
  unfold setBay; simp [hz]
theorem execSlotOnRequest_keep {z : State} {bay : Fin 8} {s : State} (hz : Keep z s) :
    KeepOut z (execSlotOnRequest bay s) := by
  unfold execSlotOnRequest; try dsimp only
  (repeat' first
    | with_reducible assumption
    | split
    | with_reducible refine State_setBay_keep ?_
    | with_reducible refine setBay_keep ?_
    | simp only [keepOut_next])
theorem execSlotOffRequest_keep {z : State} {bay : Fin 8} {s : State} (hz : Keep z s) :
    KeepOut z (execSlotOffRequest bay s) := by
  unfold execSlotOffRequest; try dsimp only
  (repeat' first
    | with_reducible assumption
    | split
    | with_reducible refine State_setBay_keep ?_
    | with_reducible refine setBay_keep ?_
    | simp only [keepOut_next])
theorem execBayRampStart_keep {z : State} {s : State} (hz : Keep z s) :
    KeepOut z (execBayRampStart s) := by
  unfold execBayRampStart; (repeat' split) <;> simp [*]
@[simp] theorem auxGone_keep {z : State} {s : State} (hz : Keep z s) :
    Keep z (auxGone s) := by
  unfold auxGone
  have hd := dieUnpowered_keep hz
  rw [keep_mk]
  have hd := keep_eta.2 hd
  have hz := keep_eta.2 hz
  refine ⟨hd.1, fun iz => ?_⟩
  have b := hd.2 iz
  exact ⟨b.1, b.2.1, (by decide : 400 ≤ 1800 ∧ 1800 ≤ 2000), (by decide : 400 ≤ 800 ∧ 800 ≤ 1600), (by decide : 1 ≤ 4 ∧ 4 ≤ 20), (by decide : 1 ≤ 24 ∧ 24 ≤ 100), (by decide : 3 ≤ 7), b.2.2.2.2.2.2.2⟩
theorem execAuxLoss_keep {z : State} {s : State} (hz : Keep z s) :
    KeepOut z (execAuxLoss s) := by
  unfold execAuxLoss; (repeat' split) <;> simp [*]
@[simp] theorem recoverCounter_keep {z : State} {s : State} (hz : Keep z s) :
    Keep z (recoverCounter s) := by
  unfold recoverCounter; try dsimp only
  (repeat' first
    | with_reducible assumption
    | split
    | with_reducible refine companionAppend_keep ?_
    | simp only [keep_mk, keep_eta])
@[simp] theorem countReset_keep {z : State} {s : State} {cause : Nat} (hz : Keep z s) :
    Keep z (countReset s cause) := by
  unfold countReset; simp [hz]
theorem execCompanionStart_keep {z : State} {addr : Fin 8} {s : State} (hz : Keep z s) :
    KeepOut z (execCompanionStart addr s) := by
  unfold execCompanionStart; (repeat' split) <;> simp [*]
theorem execDieRstoutFall_keep {z : State} {cut : Option Nat} {s : State} (hz : Keep z s) :
    KeepOut z (execDieRstoutFall cut s) := by
  unfold execDieRstoutFall; (repeat' split) <;> simp [*]
theorem execDieRstoutRise_keep {z : State} {s : State} (hz : Keep z s) :
    KeepOut z (execDieRstoutRise s) := by
  unfold execDieRstoutRise; (repeat' split) <;> simp [*]
theorem execDieRailGood_keep {z : State} {s : State} (hz : Keep z s) :
    KeepOut z (execDieRailGood s) := by
  unfold execDieRailGood; (repeat' split) <;> simp [*]
theorem execDieRailTimeout_keep {z : State} {s : State} (hz : Keep z s) :
    KeepOut z (execDieRailTimeout s) := by
  unfold execDieRailTimeout; (repeat' split) <;> simp [*]
theorem execFeedsLost_keep {z : State} {s : State} (hz : Keep z s) :
    KeepOut z (execFeedsLost s) := by
  unfold execFeedsLost; (repeat' split) <;> simp [*]
@[simp] theorem vregWrite_keep {z : State} {s : State} {mv : Nat} {seq : W16} (hz : Keep z s) :
    Keep z (vregWrite s mv seq) := by
  unfold vregWrite; (repeat' split) <;> simp [*]
theorem execVregRequest_keep {z : State} {mv : Nat} {seq : W16} {s : State} (hz : Keep z s) :
    KeepOut z (execVregRequest mv seq s) := by
  unfold execVregRequest; simp [hz]
theorem execVregSettled_keep {z : State} {vout : Nat} {s : State} (hz : Keep z s) :
    KeepOut z (execVregSettled vout s) := by
  unfold execVregSettled; try dsimp only
  (repeat' first
    | with_reducible assumption
    | split
    | with_reducible refine fault_keep ?_
    | with_reducible refine cpRaise_keep ?_
    | simp only [keep_mk, keep_eta, keepOut_next])
theorem execRegFaultDetected_keep {z : State} {noAck : Bool} {statusWord : W16} {s : State} (hz : Keep z s) :
    KeepOut z (execRegFaultDetected noAck statusWord s) := by
  unfold execRegFaultDetected; try dsimp only
  (repeat' first
    | with_reducible assumption
    | split
    | with_reducible refine fault_keep ?_
    | with_reducible refine companionAppend_keep ?_
    | with_reducible refine cpRaise_keep ?_
    | simp only [keep_mk, keep_eta, keepOut_next])
theorem execTelemetryRefresh_keep {z : State} {t : Telemetry} {s : State} (hz : Keep z s) :
    KeepOut z (execTelemetryRefresh t s) := by
  unfold execTelemetryRefresh; try dsimp only
  (repeat' first
    | with_reducible assumption
    | split
    | with_reducible refine State_setFeed_keep ?_
    | simp only [keep_mk, keep_eta, keepOut_next])
theorem execFastcapThresholdReload_keep {z : State} {s : State} (hz : Keep z s) :
    KeepOut z (execFastcapThresholdReload s) := by
  unfold execFastcapThresholdReload; try dsimp only
  (repeat' first
    | with_reducible assumption
    | split
    | simp only [keep_mk, keep_eta, keepOut_next])
theorem execErrlogCommit_keep {z : State} {s : State} (hz : Keep z s) :
    KeepOut z (execErrlogCommit s) := by
  unfold execErrlogCommit; (repeat' split) <;> simp [*]
theorem legal_divOf (i : Nat) : legalDiv (divOf i) = true := by
  unfold divOf
  rcases i with _ | _ | _ | _ | _ | i <;> rfl
theorem keepF_ask {z s : State} (d : Option Nat) (hd : ∀ x, d = some x → legalDiv x = true) (k : Keep z s) :
    Keep z { s with clk := { s.clk with divReq := d } } :=
  keep_mk.2 (keepF_of k (fun i => ⟨⟨i.1.1, hd⟩, i.2⟩))
@[simp] theorem noteThrottle_keep {z : State} {s0 s : State} (hz : Keep z s) :
    Keep z (noteThrottle s0 s) := by
  unfold noteThrottle; (repeat' split) <;> simp [*]
theorem nextPow_keep {z : State} {s0 s : State} (hz : Keep z s) :
    KeepOut z (nextPow s0 s) := by
  unfold nextPow; try dsimp only
  (repeat' first
    | with_reducible assumption
    | split
    | with_reducible refine nextN_keep ?_
    | with_reducible refine noteThrottle_keep ?_)
@[simp] theorem tellCap_keep {z : State} {s : State} (hz : Keep z s) :
    Keep z (tellCap s) := by
  unfold tellCap; try dsimp only
  (repeat' first
    | with_reducible assumption
    | split
    | with_reducible refine eventAll_keep ?_
    | simp only [keep_mk, keep_eta])
@[simp] theorem evaluateCeiling_keep {z : State} {s : State} (hz : Keep z s) :
    Keep z (evaluateCeiling s) := by
  unfold evaluateCeiling; dsimp only
  have h0 : ∀ t, Keep z t → Keep z { t with clk := { t.clk with divReq := none } } := fun t h => keepF_ask none (by simp) h
  have h1 : ∀ n, Keep z { s with clk := { s.clk with divReq := some (divOf n) } } :=
    fun n => keepF_ask _ (by rintro x hx; cases hx; exact legal_divOf n) hz
  (repeat' split) <;> first | exact hz | exact h0 _ (vregWrite_keep hz) | exact h0 _ hz | exact h1 _
@[simp] theorem noteSteward_keep {z : State} {s : State} (hz : Keep z s) :
    Keep z (noteSteward s) := by
  unfold noteSteward; try dsimp only
  (repeat' first
    | with_reducible assumption
    | (with_reducible refine map_getD_keep ?_ (fun _ _ => ?_))
    | (with_reducible refine getD_keep ?_ (fun _ _ => ?_))
    | split
    | with_reducible refine eventDev_keep ?_
    | simp only [keep_mk, keep_eta])
@[simp] theorem adoptBudget_keep {z : State} {s : State} {b : Budget} (hz : Keep z s) :
    Keep z (adoptBudget s b) := by
  unfold adoptBudget; (repeat' split) <;> simp [*]
@[simp] theorem takeBudget_keep {z : State} {s : State} {value source : Nat} (hz : Keep z s) :
    Keep z (takeBudget s value source) := by
  unfold takeBudget; try dsimp only
  (repeat' first
    | with_reducible assumption
    | (with_reducible refine foldl_keep (fun _ _ _ => ?_) _ ?_; try dsimp only)
    | split
    | with_reducible refine sendMgmt_keep ?_
    | with_reducible refine adoptBudget_keep ?_)
@[simp] theorem hearDemand_keep {z : State} {s : State} {d : Demand} (hz : Keep z s) :
    Keep z (hearDemand s d) := by
  unfold hearDemand; (repeat' split) <;> simp [*]
@[simp] theorem sendDemand_keep {z : State} {s : State} {w : Nat} {leaving : Bool} (hz : Keep z s) :
    Keep z (sendDemand s w leaving) := by
  unfold sendDemand; try dsimp only
  (repeat' first
    | with_reducible assumption
    | (with_reducible refine foldl_keep (fun _ _ _ => ?_) _ ?_; try dsimp only)
    | split
    | with_reducible refine hearDemand_keep ?_
    | with_reducible refine sendMgmt_keep ?_)
@[simp] theorem takeGrant_keep {z : State} {s : State} {g : Grant} (hz : Keep z s) :
    Keep z (takeGrant s g) := by
  unfold takeGrant; try dsimp only
  (repeat' first
    | with_reducible assumption
    | split
    | with_reducible refine tellCap_keep ?_
    | simp only [keep_mk, keep_eta])
theorem execRackBudgetTake_keep {z : State} {s : State} (hz : Keep z s) :
    KeepOut z (execRackBudgetTake s) := by
  unfold execRackBudgetTake; try dsimp only
  (repeat' first
    | with_reducible assumption
    | split
    | with_reducible refine nextN_keep ?_
    | with_reducible refine takeBudget_keep ?_
    | simp only [keep_mk, keep_eta, keepOut_next])
theorem execBudgetReceive_keep {z : State} {src : Fin 128} {domain value stamp : Nat} {s : State} (hz : Keep z s) :
    KeepOut z (execBudgetReceive src domain value stamp s) := by
  unfold execBudgetReceive; (repeat' split) <;> simp [*]
theorem execDemandTransmit_keep {z : State} {pFab mean : Nat} {s : State} (hz : Keep z s) :
    KeepOut z (execDemandTransmit pFab mean s) := by
  unfold execDemandTransmit; try dsimp only
  (repeat' first
    | with_reducible assumption
    | split
    | with_reducible refine nextN_keep ?_
    | with_reducible refine sendDemand_keep ?_
    | simp only [keep_mk, keep_eta, keepOut_next])
theorem execDemandReceive_keep {z : State} {d : Demand} {s : State} (hz : Keep z s) :
    KeepOut z (execDemandReceive d s) := by
  unfold execDemandReceive; try dsimp only
  (repeat' first
    | with_reducible assumption
    | split
    | with_reducible refine nextN_keep ?_
    | with_reducible refine hearDemand_keep ?_
    | simp only [keepOut_next])
theorem execGrantCompute_keep {z : State} {s : State} (hz : Keep z s) :
    KeepOut z (execGrantCompute s) := by
  unfold execGrantCompute; try dsimp only
  (repeat' first
    | with_reducible assumption
    | (with_reducible refine foldl_keep (fun _ _ _ => ?_) _ ?_; try dsimp only)
    | split
    | with_reducible refine noteSteward_keep ?_
    | with_reducible refine nextN_keep ?_
    | with_reducible refine eventDev_keep ?_
    | with_reducible refine nextPow_keep ?_
    | with_reducible refine takeGrant_keep ?_
    | with_reducible refine sendMgmt_keep ?_
    | simp only [keepOut_next])
theorem execGrantReceive_keep {z : State} {src : Fin 128} {g : Grant} {s : State} (hz : Keep z s) :
    KeepOut z (execGrantReceive src g s) := by
  unfold execGrantReceive; try dsimp only
  (repeat' first
    | with_reducible assumption
    | split
    | with_reducible refine nextPow_keep ?_
    | with_reducible refine takeGrant_keep ?_
    | simp only [keepOut_next])
theorem execGrantRaiseApply_keep {z : State} {s : State} (hz : Keep z s) :
    KeepOut z (execGrantRaiseApply s) := by
  unfold execGrantRaiseApply; try dsimp only
  (repeat' first
    | with_reducible assumption
    | split
    | with_reducible refine nextPow_keep ?_
    | with_reducible refine tellCap_keep ?_
    | simp only [keep_mk, keep_eta, keepOut_next])
theorem execGrantSilenceTimeout_keep {z : State} {s : State} (hz : Keep z s) :
    KeepOut z (execGrantSilenceTimeout s) := by
  unfold execGrantSilenceTimeout; try dsimp only
  (repeat' first
    | with_reducible assumption
    | split
    | with_reducible refine nextPow_keep ?_
    | with_reducible refine tellCap_keep ?_
    | simp only [keep_mk, keep_eta, keepOut_next])
theorem execPowerQuery_keep {z : State} {fn : Fn} {s : State} (hz : Keep z s) :
    KeepOut z (execPowerQuery fn s) := by
  unfold execPowerQuery; try dsimp only
  (repeat' first
    | with_reducible assumption
    | (with_reducible refine map_getD_keep ?_ (fun _ _ => ?_))
    | (with_reducible refine getD_keep ?_ (fun _ _ => ?_))
    | split
    | ((with_reducible refine withCmd_keep (fun _ _ _ => ?_) ?_); try dsimp only)
    | with_reducible refine fault_keep ?_
    | with_reducible refine finishOk_keep ?_)
theorem execPowerCap_keep {z : State} {fn : Fn} {s : State} (hz : Keep z s) :
    KeepOut z (execPowerCap fn s) := by
  unfold execPowerCap; dsimp only
  split
  · exact keepOut_next.2 hz
  · split
    · exact keepOut_next.2 (finishSt_keep hz)
    · have h := ‹¬_›
      simp only [Bool.or_eq_true, decide_eq_true_eq, Bool.not_eq_true', not_or, Nat.not_lt, Bool.not_eq_false] at h
      refine nextPow_keep (finishOk_keep (tellCap_keep ?_))
      exact keep_mk.2 (keepF_of hz (fun i => ⟨i.1, i.2.1, i.2.2.1, i.2.2.2.1, i.2.2.2.2.1, i.2.2.2.2.2.1, i.2.2.2.2.2.2.1, ⟨h.1.1, h.1.2⟩, h.2, i.2.2.2.2.2.2.2.2.2⟩))
theorem execPowerBudgetConfig_keep {z : State} {fn : Fn} {s : State} (hz : Keep z s) :
    KeepOut z (execPowerBudgetConfig fn s) := by
  unfold execPowerBudgetConfig; dsimp only
  split
  · exact keepOut_next.2 hz
  · rename_i c _
    split
    · exact keepOut_next.2 (finishSt_keep hz)
    · have h := ‹¬_›
      unfold budgetConfigBad at h
      simp only [Bool.or_eq_true, Bool.and_eq_true, decide_eq_true_eq, Bool.not_eq_true', not_or, Nat.not_lt, Bool.not_eq_false, not_and] at h
      refine nextPow_keep (finishOk_keep (tellCap_keep (noteSteward_keep ?_)))
      have hk : ∀ b : Bool, Keep z { s with
          pow := { s.pow with eligible := bitOf (c.u8 0) 0, domain := c.u8 1, expected := c.u8 2, fastcapDiv := c.u8 3 }
          comp := { s.comp with
            floorShare := if (bitOf (c.u8 0) 2 && b) = true then c.u16 6 else s.comp.floorShare
            fastcapLimit := if (bitOf (c.u8 0) 3 && b) = true then c.u16 8 else s.comp.fastcapLimit } } := by
        intro b
        refine keep_mk.2 (keepF_of hz (fun i => ⟨i.1, i.2.1, ?_, ?_, i.2.2.2.2.1, i.2.2.2.2.2.1, i.2.2.2.2.2.2.1, i.2.2.2.2.2.2.2.1, i.2.2.2.2.2.2.2.2.1, h.1.1.2⟩))
        · show 400 ≤ (if (bitOf (c.u8 0) 3 && b) = true then c.u16 8 else s.comp.fastcapLimit) ∧ (if (bitOf (c.u8 0) 3 && b) = true then c.u16 8 else s.comp.fastcapLimit) ≤ 2000
          split
          · have hb := ‹_ = true›
            simp only [Bool.and_eq_true] at hb
            exact h.2 hb.1
          · exact i.2.2.1
        · show 400 ≤ (if (bitOf (c.u8 0) 2 && b) = true then c.u16 6 else s.comp.floorShare) ∧ (if (bitOf (c.u8 0) 2 && b) = true then c.u16 6 else s.comp.floorShare) ≤ 1600
          split
          · have hb := ‹_ = true›
            simp only [Bool.and_eq_true] at hb
            exact h.1.2 hb.1
          · exact i.2.2.2.1
      exact keep_ite (fun _ => takeBudget_keep (hk _)) (fun _ => hk _)
@[simp] theorem chargeWrite_keep {z : State} {s : State} {p n : Nat} (hz : Keep z s) :
    Keep z (chargeWrite s p n) := by
  unfold chargeWrite; try dsimp only
  (repeat' first
    | with_reducible assumption
    | split
    | with_reducible refine State_setPt_keep ?_)
@[simp] theorem claimRanges_keep {z : State} {s : State} {part : Nat} {rs : List (Nat × Nat)} (hz : Keep z s) :
    Keep z (claimRanges s part rs) := by
  unfold claimRanges; try dsimp only
  (repeat' first
    | with_reducible assumption
    | (with_reducible refine foldl_keep (fun _ _ _ => ?_) _ ?_; try dsimp only)
    | split
    | with_reducible refine cowClaim_keep ?_)
@[simp] theorem dropXfer_keep {z : State} {s : State} {id : Nat} (hz : Keep z s) :
    Keep z (dropXfer s id) := by
  unfold dropXfer; simp [hz]
@[simp] theorem setTable_keep {z : State} {s : State} {key : Nat} {t : EmbTable} (hz : Keep z s) :
    Keep z (setTable s key t) := by
  unfold setTable; simp [hz]
@[simp] theorem modTable_keep {z : State} {s : State} {key : Nat} {f : EmbTable → EmbTable} (hz : Keep z s) :
    Keep z (modTable s key f) := by
  unfold modTable; try dsimp only
  (repeat' first
    | with_reducible assumption
    | (with_reducible refine elim_keep ?_ (fun _ _ => ?_))
    | split
    | with_reducible refine setTable_keep ?_)
@[simp] theorem applyUpdate_keep {z : State} {s : State} {key : Nat} {t : EmbTable} {row : Nat} {x : List Nat} {poison : Bool} (hz : Keep z s) :
    Keep z (applyUpdate s key t row x poison) := by
  unfold applyUpdate; try dsimp only
  (repeat' first
    | with_reducible assumption
    | (with_reducible refine map_getD_keep ?_ (fun _ _ => ?_))
    | (with_reducible refine getD_keep ?_ (fun _ _ => ?_))
    | split
    | with_reducible refine engineRead_keepE ?_ ‹_›
    | with_reducible refine engineRead_keep ?_
    | with_reducible refine engineWrite_keep ?_
    | with_reducible refine modTable_keep ?_)
@[simp] theorem chargeLink_keep {z : State} {s : State} {p n : Nat} (hz : Keep z s) :
    Keep z (chargeLink s p n) := by
  unfold chargeLink; try dsimp only
  (repeat' first
    | with_reducible assumption
    | split
    | with_reducible refine State_setPt_keep ?_)
@[simp] theorem sendBundle_keep {z : State} {s : State} {key job m kind seq count step off : Nat} {body : List Byte} {poison : List Nat} (hz : Keep z s) :
    KeepO z ((sendBundle s key job m kind seq count step off body poison).map (fun x => x.2)) := by
  rintro t ht
  unfold sendBundle at ht
  split at ht
  · cases ht
  · dsimp only at ht
    simp only [Option.map_map, Option.map_eq_some_iff] at ht
    obtain ⟨⟨a, b⟩, h, rfl⟩ := ht
    exact chargeLink_keep (modTable_keep (sendXfer_keepE hz h))
theorem sendBundle_keepE {z : State} {s : State} {key job m kind seq count step off : Nat} {body : List Byte} {poison : List Nat} {u9 : _} {w9 : State} (hz : Keep z s)
    (e9 : sendBundle s key job m kind seq count step off body poison = some (u9, w9)) : Keep z w9 := by
  have h := sendBundle_keep (z := z) (s := s) (key := key) (job := job) (m := m) (kind := kind) (seq := seq) (count := count) (step := step) (off := off) (body := body) (poison := poison) hz; simp only [KeepO] at h; rw [e9] at h; simpa using h
@[simp] theorem takeSeq_keep {z : State} {s : State} {key : Nat} (hz : Keep z s) :
    Keep z (takeSeq s key).2 := by
  unfold takeSeq; (repeat' split) <;> simp [*]
theorem takeSeq_keepE {z : State} {s : State} {key : Nat} {u9 : _} {w9 : State} (hz : Keep z s)
    (e9 : takeSeq s key = (u9, w9)) : Keep z w9 := by
  have h := takeSeq_keep (z := z) (s := s) (key := key) hz; rw [e9] at h; simpa using h
@[simp] theorem modEmb_keep {z : State} {s : State} {id : Nat} {f : EmbJob → EmbJob} (hz : Keep z s) :
    Keep z (modEmb s id f) := by
  unfold modEmb; simp [hz]
@[simp] theorem embFail_keep {z : State} {s : State} {id status cause : Nat} (hz : Keep z s) :
    Keep z (embFail s id status cause) := by
  unfold embFail; simp [hz]
@[simp] theorem sendEntries_keep {z : State} {s : State} {j : EmbJob} {m kind entryBytes : Nat} {entries : List (Nat × List Byte)} (hz : Keep z s) :
    Keep z (sendEntries s j m kind entryBytes entries) := by
  unfold sendEntries; try dsimp only
  (repeat' first
    | with_reducible assumption
    | (with_reducible refine foldl_keep (fun _ _ _ => ?_) _ ?_; try dsimp only)
    | split
    | with_reducible refine takeSeq_keepE ?_ ‹_›
    | with_reducible refine takeSeq_keep ?_
    | with_reducible refine sendBundle_keepE ?_ ‹_›
    | with_reducible refine step_keep ?_
    | with_reducible refine embFail_keep ?_
    | with_reducible refine modEmb_keep ?_)
@[simp] theorem readBags_keep {z : State} {s : State} {d : EmbDesc} (hz : Keep z s) :
    Keep z (readBags s d).2 := by
  unfold readBags; try dsimp only
  (repeat' first
    | with_reducible assumption
    | split
    | with_reducible refine engineRead_keepE ?_ ‹_›
    | with_reducible refine engineRead_keep ?_)
theorem readBags_keepE {z : State} {s : State} {d : EmbDesc} {u9 : _} {w9 : State} (hz : Keep z s)
    (e9 : readBags s d = (u9, w9)) : Keep z w9 := by
  have h := readBags_keep (z := z) (s := s) (d := d) hz; rw [e9] at h; simpa using h
@[simp] theorem countLookup_keep {z : State} {s : State} {key row : Nat} (hz : Keep z s) :
    Keep z (countLookup s key row) := by
  unfold countLookup; try dsimp only
  (repeat' first
    | with_reducible assumption
    | split
    | with_reducible refine engineRead_keepE ?_ ‹_›
    | with_reducible refine engineRead_keep ?_
    | with_reducible refine engineWrite_keep ?_
    | with_reducible refine modTable_keep ?_)
@[simp] theorem rangeFault_keep {z : State} {s : State} {j : EmbJob} {t : EmbTable} {bags : List (List (Nat × W32))} (hz : Keep z s) :
    Keep z (rangeFault s j t bags) := by
  unfold rangeFault; (repeat' split) <;> simp [*]
@[simp] theorem startBags_keep {z : State} {s : State} {j : EmbJob} (hz : Keep z s) :
    Keep z (startBags s j) := by
  unfold startBags; try dsimp only
  (repeat' first
    | with_reducible assumption
    | (with_reducible refine map_getD_keep ?_ (fun _ _ => ?_))
    | (with_reducible refine getD_keep ?_ (fun _ _ => ?_))
    | split
    | with_reducible refine embFail_keep ?_
    | with_reducible refine modEmb_keep ?_
    | with_reducible refine readBags_keepE ?_ ‹_›
    | with_reducible refine readBags_keep ?_
    | with_reducible refine rangeFault_keep ?_)
@[simp] theorem embFlags_keep {z : State} {s : State} {j : EmbJob} (hz : Keep z s) :
    Keep z (embFlags s j) := by
  unfold embFlags; try dsimp only
  (repeat' first
    | with_reducible assumption
    | (with_reducible refine foldl_keep (fun _ _ _ => ?_) _ ?_; try dsimp only)
    | (with_reducible refine map_getD_keep ?_ (fun _ _ => ?_))
    | (with_reducible refine getD_keep ?_ (fun _ _ => ?_))
    | split
    | with_reducible refine setFlag_keep ?_)
@[simp] theorem dropEmb_keep {z : State} {s : State} {j : EmbJob} (hz : Keep z s) :
    Keep z (dropEmb s j) := by
  unfold dropEmb; simp [hz]
@[simp] theorem bagRows_keep {z : State} {s : State} {t : EmbTable} {j : EmbJob} {bag : List (Nat × W32)} (hz : Keep z s) :
    Keep z (bagRows s t j bag).2.2 := by
  unfold bagRows
  refine foldl_pred (fun x : List (List Byte × W32) × Bool × State => Keep z x.2.2) ?_ _ _ hz
  intro b a h; dsimp only
  split
  · exact h
  · split
    · exact engineRead_keep h
    · exact engineRead_keep h
    · exact h
theorem bagRows_keepE {z : State} {s : State} {t : EmbTable} {j : EmbJob} {bag : List (Nat × W32)} {u9 : _} {v9 : _} {w9 : State} (hz : Keep z s)
    (e9 : bagRows s t j bag = (u9, v9, w9)) : Keep z w9 := by
  have h := bagRows_keep (z := z) (s := s) (t := t) (j := j) (bag := bag) hz; rw [e9] at h; simpa using h
@[simp] theorem gatherSegment_keep {z : State} {s : State} {j : EmbJob} {t : EmbTable} (hz : Keep z s) :
    Keep z (gatherSegment s j t) := by
  unfold gatherSegment; try dsimp only
  (repeat' first
    | with_reducible assumption
    | (with_reducible refine foldl_keep (fun _ _ _ => ?_) _ ?_; try dsimp only)
    | (with_reducible refine map_getD_keep ?_ (fun _ _ => ?_))
    | (with_reducible refine getD_keep ?_ (fun _ _ => ?_))
    | split
    | with_reducible refine bagRows_keepE ?_ ‹_›
    | with_reducible refine bagRows_keep ?_
    | with_reducible refine engineWrite_keep ?_
    | with_reducible refine modEmb_keep ?_)
@[simp] theorem sendUpdates_keep {z : State} {s : State} {j : EmbJob} {t : EmbTable} (hz : Keep z s) :
    Keep z (sendUpdates s j t) := by
  unfold sendUpdates; dsimp only
  refine modEmb_keep (foldl_keep (fun _ _ h => modTable_keep (sendEntries_keep h)) _ (foldl_keep (fun _ _ h => elim_keep h (fun _ _ => applyUpdate_keep h)) _ hz))
@[simp] theorem scatterSegment_keep {z : State} {s : State} {j : EmbJob} {t : EmbTable} (hz : Keep z s) :
    Keep z (scatterSegment s j t) := by
  unfold scatterSegment; dsimp only
  have h : ∀ (l : List Nat) (x : Tab (List Nat × Bool) × State), Keep z x.2 → ∀ f : (Tab (List Nat × Bool) × State) → Nat → (Tab (List Nat × Bool) × State),
      (∀ b a, Keep z b.2 → Keep z (f b a).2) → Keep z (l.foldl f x).2 := by
    intro l x hx f hf
    exact foldl_pred (fun x : Tab (List Nat × Bool) × State => Keep z x.2) hf l x hx
  refine keep_ite (fun _ => elim_keep (modEmb_keep ?_) (fun _ _ => sendUpdates_keep (modEmb_keep ?_))) (fun _ => modEmb_keep ?_)
  all_goals
    refine h _ _ hz _ ?_
    intro b a hb; dsimp only; with_reducible exact engineRead_keep hb
@[simp] theorem embSegment_keep {z : State} {s : State} {j : EmbJob} (hz : Keep z s) :
    Keep z (embSegment s j) := by
  unfold embSegment; (repeat' split) <;> simp [*]
@[simp] theorem beginFence_keep {z : State} {s : State} {j : EmbJob} {t : EmbTable} {subs : List (Nat × Nat)} (hz : Keep z s) :
    Keep z (beginFence s j t subs) := by
  unfold beginFence; try dsimp only
  (repeat' first
    | with_reducible assumption
    | split
    | with_reducible refine step_keep ?_
    | with_reducible refine setTable_keep ?_
    | with_reducible refine modEmb_keep ?_
    | with_reducible refine arrive_keep ?_)
@[simp] theorem sgdRow_keep {z : State} {s : State} {key : Nat} {t : EmbTable} {row : Nat} (hz : Keep z s) :
    Keep z (sgdRow s key t row) := by
  unfold sgdRow; try dsimp only
  (repeat' first
    | with_reducible assumption
    | split
    | with_reducible refine engineRead_keepE ?_ ‹_›
    | with_reducible refine engineRead_keep ?_
    | with_reducible refine engineWrite_keep ?_)
@[simp] theorem applySgd_keep {z : State} {s : State} {key : Nat} {t : EmbTable} (hz : Keep z s) :
    Keep z (applySgd s key t) := by
  unfold applySgd; try dsimp only
  (repeat' first
    | with_reducible assumption
    | (with_reducible refine foldl_keep (fun _ _ _ => ?_) _ ?_; try dsimp only)
    | split
    | with_reducible refine sgdRow_keep ?_
    | with_reducible refine modTable_keep ?_)
@[simp] theorem blockRead_keep {z : State} {s : State} {t : EmbTable} {k : Nat} (hz : Keep z s) :
    Keep z (blockRead s t k).2.2 := by
  unfold blockRead; simp [hz]
theorem blockRead_keepE {z : State} {s : State} {t : EmbTable} {k : Nat} {u9 : _} {v9 : _} {w9 : State} (hz : Keep z s)
    (e9 : blockRead s t k = (u9, v9, w9)) : Keep z w9 := by
  have h := blockRead_keep (z := z) (s := s) (t := t) (k := k) hz; rw [e9] at h; simpa using h
@[simp] theorem blockWrite_keep {z : State} {s : State} {key : Nat} {t : EmbTable} {k o : Nat} {data : List Byte} {bad : List Nat} (hz : Keep z s) :
    Keep z (blockWrite s key t k o data bad) := by
  unfold blockWrite; try dsimp only
  (repeat' first
    | with_reducible assumption
    | split
    | with_reducible refine engineWrite_keep ?_)
@[simp] theorem sendBlock_keep {z : State} {s : State} {key job step : Nat} {t : EmbTable} {b slot m : Nat} (hz : Keep z s) :
    Keep z (sendBlock s key job step t b slot m) := by
  unfold sendBlock; dsimp only
  refine foldl_keep (fun _ _ h => ?_) _ (blockRead_keep hz)
  refine map_getD_keep (takeSeq_keep h) (fun x e => ?_)
  exact sendBundle_keepE (u9 := x.1) (takeSeq_keep h) e
@[simp] theorem runMoves_keep {z : State} {s : State} {key job step : Nat} {t : EmbTable} {moves : List (Nat × W32)} (hz : Keep z s) :
    Keep z (runMoves s key job step t moves) := by
  unfold runMoves; dsimp only
  refine modTable_keep ?_
  refine foldl_pred (fun x : List (Nat × Nat) × State => Keep z x.2) ?_ _ _ hz
  intro b a h; try dsimp only
  (repeat' split) <;> try dsimp only
  · exact blockWrite_keep (blockRead_keep h)
  · exact sendBlock_keep h
  · exact h
  · exact h
@[simp] theorem pushRow_keep {z : State} {s : State} {key job step : Nat} {m row : Nat} (hz : Keep z s) :
    Keep z (pushRow s key job step m row) := by
  unfold pushRow; dsimp only
  split
  · exact hz
  · split
    · exact hz
    · split
      · exact hz
      · refine map_getD_keep (takeSeq_keep (engineRead_keep hz)) (fun x e => ?_)
        exact sendBundle_keepE (u9 := x.1) (takeSeq_keep (engineRead_keep hz)) e
@[simp] theorem installRow_keep {z : State} {s : State} {key row : Nat} {data : List Byte} {bad : Nat → Nat → Bool} (hz : Keep z s) :
    Keep z (installRow s key row data bad) := by
  unfold installRow; (repeat' split) <;> simp [*]
@[simp] theorem installOwn_keep {z : State} {s : State} {key : Nat} {rows : List Nat} (hz : Keep z s) :
    Keep z (installOwn s key rows) := by
  unfold installOwn; try dsimp only
  (repeat' first
    | with_reducible assumption
    | (with_reducible refine foldl_keep (fun _ _ _ => ?_) _ ?_; try dsimp only)
    | split
    | with_reducible refine engineRead_keepE ?_ ‹_›
    | with_reducible refine engineRead_keep ?_
    | with_reducible refine installRow_keep ?_)
@[simp] theorem fenceOn_keep {z : State} {s : State} {key : Nat} (hz : Keep z s) :
    Keep z (fenceOn s key) := by
  unfold fenceOn; (repeat' split) <;> simp [*]
@[simp] theorem endMigration_keep {z : State} {s : State} {key status moved : Nat} (hz : Keep z s) :
    Keep z (endMigration s key status moved) := by
  unfold endMigration; (repeat' split) <;> simp [*]
@[simp] theorem fenceApply_keep {z : State} {s : State} {key : Nat} (hz : Keep z s) :
    Keep z (fenceApply s key) := by
  unfold fenceApply; try dsimp only
  (repeat' first
    | with_reducible assumption
    | (with_reducible refine foldl_keep (fun _ _ _ => ?_) _ ?_; try dsimp only)
    | split
    | with_reducible refine setTable_keep ?_
    | with_reducible refine applySgd_keep ?_
    | with_reducible refine runMoves_keep ?_
    | with_reducible refine step_keep ?_
    | with_reducible refine pushRow_keep ?_
    | with_reducible refine fenceOn_keep ?_
    | with_reducible refine installOwn_keep ?_)
@[simp] theorem fenceEnd_keep {z : State} {s : State} {key : Nat} (hz : Keep z s) :
    Keep z (fenceEnd s key) := by
  unfold fenceEnd; try dsimp only
  (repeat' first
    | with_reducible assumption
    | (with_reducible refine foldl_keep (fun _ _ _ => ?_) _ ?_; try dsimp only)
    | (with_reducible refine map_getD_keep ?_ (fun _ _ => ?_))
    | (with_reducible refine getD_keep ?_ (fun _ _ => ?_))
    | split
    | with_reducible refine engineWrite_keep ?_
    | with_reducible refine endMigration_keep ?_
    | with_reducible refine modTable_keep ?_
    | with_reducible refine step_keep ?_
    | with_reducible refine pushRow_keep ?_
    | with_reducible refine installOwn_keep ?_
    | with_reducible refine modEmb_keep ?_)
@[simp] theorem fenceFail_keep {z : State} {s : State} {key status code moveStatus : Nat} {detail : List Byte} (hz : Keep z s) :
    Keep z (fenceFail s key status code moveStatus detail) := by
  unfold fenceFail; try dsimp only
  (repeat' first
    | with_reducible assumption
    | split
    | with_reducible refine endMigration_keep ?_
    | with_reducible refine modTable_keep ?_
    | with_reducible refine engineFault_keep ?_
    | with_reducible refine embFlags_keep ?_
    | with_reducible refine step_keep ?_
    | with_reducible refine dropEmb_keep ?_
    | with_reducible refine modList_keep ?_)
@[simp] theorem fenceRelease_keep {z : State} {s : State} {p : Nat} {r : SyncRec} (hz : Keep z s) :
    Keep z (fenceRelease s p r) := by
  unfold fenceRelease; try dsimp only
  (repeat' first
    | with_reducible assumption
    | split
    | with_reducible refine step_keep ?_
    | with_reducible refine fenceEnd_keep ?_
    | with_reducible refine fenceApply_keep ?_
    | with_reducible refine fenceFail_keep ?_
    | with_reducible refine modTable_keep ?_
    | with_reducible refine endMigration_keep ?_)
@[simp] theorem sendReply_keep {z : State} {s : State} {b : Bulk} {t : EmbTable} {key : Nat} {sts : List Nat} {rows : List Byte} (hz : Keep z s) :
    Keep z (sendReply s b t key sts rows) := by
  unfold sendReply; dsimp only
  refine map_getD_keep hz (fun x e => ?_)
  exact chargeLink_keep (modTable_keep (sendXfer_keepE (u9 := x.1) hz e))
@[simp] theorem serveRow_keep {z : State} {s : State} {t : EmbTable} {row : Nat} (hz : Keep z s) :
    Keep z (serveRow s t row).2.2 := by
  unfold serveRow; try dsimp only
  (repeat' first
    | with_reducible assumption
    | split
    | with_reducible refine engineRead_keepE ?_ ‹_›
    | with_reducible refine engineRead_keep ?_)
theorem serveRow_keepE {z : State} {s : State} {t : EmbTable} {row : Nat} {u9 : _} {v9 : _} {w9 : State} (hz : Keep z s)
    (e9 : serveRow s t row = (u9, v9, w9)) : Keep z w9 := by
  have h := serveRow_keep (z := z) (s := s) (t := t) (row := row) hz; rw [e9] at h; simpa using h
@[simp] theorem bundleRequest_keep {z : State} {s : State} {b : Bulk} (hz : Keep z s) :
    Keep z (bundleRequest s b) := by
  unfold bundleRequest; dsimp only
  split
  · exact sendReply_keep hz
  · refine foldl_keep (fun u part h => sendReply_keep ?_) _ hz
    refine foldl_pred (fun x : List Nat × List Byte × State => Keep z x.2.2) ?_ _ _ h
    intro b a h; dsimp only; with_reducible exact serveRow_keep h
@[simp] theorem bundleReply_keep {z : State} {s : State} {b : Bulk} (hz : Keep z s) :
    Keep z (bundleReply s b) := by
  unfold bundleReply; try dsimp only
  (repeat' first
    | with_reducible assumption
    | (with_reducible refine foldl_keep (fun _ _ _ => ?_) _ ?_)
    | (with_reducible refine map_getD_keep ?_ (fun _ _ => ?_))
    | (with_reducible refine getD_keep ?_ (fun _ _ => ?_))
    | split
    | with_reducible refine modEmb_keep ?_)
@[simp] theorem bundleUpdate_keep {z : State} {s : State} {b : Bulk} (hz : Keep z s) :
    Keep z (bundleUpdate s b) := by
  unfold bundleUpdate; dsimp only
  split
  · exact hz
  · rename_i key t _
    have h := foldl_keep (s0 := z) (s := s) (f := fun u i => (tableOf u key).elim u (fun t' => applyUpdate u key t' (rd 4 b.content (64 + i * (8 + t.gradBytes)))
      ((List.range t.dim).map (fun e => rd 4 b.content (64 + i * (8 + t.gradBytes) + 8 + 4 * e))) (bitOf (rd 4 b.content (64 + i * (8 + t.gradBytes) + 4)) 0)))
      (fun u i h => elim_keep h (fun _ _ => applyUpdate_keep h))
      (List.range (min (bdlCount b) ((b.content.length - 64) / (8 + t.gradBytes)))) hz
    refine map_getD_keep h (fun x e => ?_)
    exact chargeLink_keep (modTable_keep (sendXfer_keepE (u9 := x.1) h e))
@[simp] theorem bundleAck_keep {z : State} {s : State} {b : Bulk} (hz : Keep z s) :
    Keep z (bundleAck s b) := by
  unfold bundleAck; try dsimp only
  (repeat' first
    | with_reducible assumption
    | split
    | with_reducible refine modEmb_keep ?_)
@[simp] theorem bundlePush_keep {z : State} {s : State} {b : Bulk} (hz : Keep z s) :
    Keep z (bundlePush s b) := by
  unfold bundlePush; try dsimp only
  (repeat' first
    | with_reducible assumption
    | (with_reducible refine foldl_keep (fun _ _ _ => ?_) _ ?_; try dsimp only)
    | split
    | with_reducible refine installRow_keep ?_)
@[simp] theorem bundleMove_keep {z : State} {s : State} {b : Bulk} (hz : Keep z s) :
    Keep z (bundleMove s b) := by
  unfold bundleMove; try dsimp only
  (repeat' first
    | with_reducible assumption
    | split
    | with_reducible refine blockWrite_keep ?_
    | with_reducible refine modTable_keep ?_
    | with_reducible refine fenceOn_keep ?_)
@[simp] theorem bundle_keep {z : State} {s : State} {b : Bulk} (hz : Keep z s) :
    Keep z (bundle s b) := by
  unfold bundle; (repeat' split) <;> simp [*]
@[simp] theorem receiveBundle_keep {z : State} {s : State} {b : Bulk} {kind : Nat} (hz : Keep z s) :
    Keep z (receiveBundle s b kind) := by
  unfold receiveBundle; (repeat' split) <;> simp [*]
theorem execEmbTableCreate_keep {z : State} {fn : Fn} {s : State} (hz : Keep z s) :
    KeepOut z (execEmbTableCreate fn s) := by
  unfold execEmbTableCreate; try dsimp only
  (repeat' first
    | with_reducible assumption
    | split
    | ((with_reducible refine withPart_keep (fun _ _ _ _ => ?_) ?_); try dsimp only)
    | with_reducible refine finishSt_keep ?_
    | with_reducible refine engineRead_keepE ?_ ‹_›
    | with_reducible refine engineRead_keep ?_
    | with_reducible refine finishOk_keep ?_
    | with_reducible refine setTable_keep ?_)
theorem withTable_keep {z s : State} {fn verb : Nat} {bad : Consumed → Bool} {k : Nat → EmbTable → Consumed → State → State}
    (hk : ∀ a b c t, Keep z t → Keep z (k a b c t)) (hz : Keep z s) : KeepOut z (withTable s fn verb bad k) := by
  unfold withTable
  refine withPart_keep (fun p c t h => ?_) hz
  (repeat' split)
  · exact finishSt_keep h
  · exact finishSt_keep h
  · exact hk _ _ _ _ h
theorem execEmbTableDestroy_keep {z : State} {fn : Fn} {s : State} (hz : Keep z s) :
    KeepOut z (execEmbTableDestroy fn s) := by
  unfold execEmbTableDestroy; try dsimp only
  (repeat' first
    | with_reducible assumption
    | split
    | ((with_reducible refine withTable_keep (fun _ _ _ _ _ => ?_) ?_); try dsimp only)
    | with_reducible refine finishSt_keep ?_
    | with_reducible refine endMigration_keep ?_
    | simp only [keep_mk, keep_eta])
theorem execEmbCounters_keep {z : State} {fn : Fn} {s : State} (hz : Keep z s) :
    KeepOut z (execEmbCounters fn s) := by
  unfold execEmbCounters; try dsimp only
  (repeat' first
    | with_reducible assumption
    | (with_reducible refine map_getD_keep ?_ (fun _ _ => ?_))
    | (with_reducible refine getD_keep ?_ (fun _ _ => ?_))
    | split
    | ((with_reducible refine withTable_keep (fun _ _ _ _ _ => ?_) ?_); try dsimp only)
    | with_reducible refine setTable_keep ?_
    | with_reducible refine finishOk_keep ?_)
theorem execEmbMigrate_keep {z : State} {fn : Fn} {s : State} (hz : Keep z s) :
    KeepOut z (execEmbMigrate fn s) := by
  unfold execEmbMigrate; try dsimp only
  (repeat' first
    | with_reducible assumption
    | split
    | ((with_reducible refine withTable_keep (fun _ _ _ _ _ => ?_) ?_); try dsimp only)
    | with_reducible refine finishSt_keep ?_
    | with_reducible refine engineRead_keepE ?_ ‹_›
    | with_reducible refine engineRead_keep ?_
    | with_reducible refine setTable_keep ?_
    | with_reducible refine accept_keep ?_)
@[simp] theorem setReplicas_keep {z : State} {s : State} {fn : Fn} {id key : Nat} {t : EmbTable} {l : List Nat} (hz : Keep z s) :
    Keep z (setReplicas s fn id key t l) := by
  unfold setReplicas; (repeat' split) <;> simp [*]
theorem replicaRows_keep {z s : State} {fn : Fn} {key : Nat} {t : EmbTable} {c : Consumed} {k : List Nat → State → State}
    (hk : ∀ l t, Keep z t → Keep z (k l t)) (hz : Keep z s) : Keep z (replicaRows s fn key t c k) := by
  unfold replicaRows; dsimp only
  split
  · exact finishSt_keep hz
  · exact keep_ite (fun _ => finishSt_keep (engineRead_keep hz)) (fun _ => hk _ _ (engineRead_keep hz))
theorem withReplicate_keep {z s : State} {fn : Fn} {op : Nat} {k : Nat → EmbTable → Consumed → State → State}
    (hk : ∀ a b c t, Keep z t → Keep z (k a b c t)) (hz : Keep z s) : KeepOut z (withReplicate s fn op k) := by
  unfold withReplicate
  split
  · simpa using hz
  · dsimp only; split
    · simpa using hz
    · exact withTable_keep hk hz
theorem execEmbReplicateAdd_keep {z : State} {fn : Fn} {s : State} (hz : Keep z s) :
    KeepOut z (execEmbReplicateAdd fn s) := by
  unfold execEmbReplicateAdd; try dsimp only
  (repeat' first
    | with_reducible assumption
    | (with_reducible refine foldl_keep (fun _ _ _ => ?_) _ ?_)
    | split
    | ((with_reducible refine withReplicate_keep (fun _ _ _ _ _ => ?_) ?_); try dsimp only)
    | ((with_reducible refine replicaRows_keep (fun _ _ _ => ?_) ?_); try dsimp only)
    | with_reducible refine setReplicas_keep ?_)
theorem execEmbReplicateRemove_keep {z : State} {fn : Fn} {s : State} (hz : Keep z s) :
    KeepOut z (execEmbReplicateRemove fn s) := by
  unfold execEmbReplicateRemove; try dsimp only
  (repeat' first
    | with_reducible assumption
    | (with_reducible refine foldl_keep (fun _ _ _ => ?_) _ ?_)
    | split
    | ((with_reducible refine withReplicate_keep (fun _ _ _ _ _ => ?_) ?_); try dsimp only)
    | ((with_reducible refine replicaRows_keep (fun _ _ _ => ?_) ?_); try dsimp only)
    | with_reducible refine setReplicas_keep ?_)
theorem execEmbReplicateClear_keep {z : State} {fn : Fn} {s : State} (hz : Keep z s) :
    KeepOut z (execEmbReplicateClear fn s) := by
  unfold execEmbReplicateClear; try dsimp only
  (repeat' first
    | with_reducible assumption
    | split
    | ((with_reducible refine withReplicate_keep (fun _ _ _ _ _ => ?_) ?_); try dsimp only)
    | with_reducible refine setReplicas_keep ?_)
theorem execEmbGather_keep {z : State} {job : Nat} {s : State} (hz : Keep z s) :
    KeepOut z (execEmbGather job s) := by
  unfold execEmbGather; try dsimp only
  (repeat' first
    | with_reducible assumption
    | (with_reducible refine foldl_keep (fun _ _ _ => ?_) _ ?_; try dsimp only)
    | split
    | with_reducible refine startBags_keep ?_
    | with_reducible refine nextN_keep ?_
    | with_reducible refine countLookup_keep ?_
    | with_reducible refine sendEntries_keep ?_
    | simp only [keepOut_next])
theorem execEmbScatter_keep {z : State} {job : Nat} {s : State} (hz : Keep z s) :
    KeepOut z (execEmbScatter job s) := by
  unfold execEmbScatter; try dsimp only
  (repeat' first
    | with_reducible assumption
    | split
    | with_reducible refine nextN_keep ?_
    | with_reducible refine startBags_keep ?_
    | simp only [keepOut_next])
theorem execEmbStep_keep {z : State} {job : Nat} {subs : List (Nat × Nat)} {s : State} (hz : Keep z s) :
    KeepOut z (execEmbStep job subs s) := by
  unfold execEmbStep; try dsimp only
  (repeat' first
    | with_reducible assumption
    | split
    | with_reducible refine nextN_keep ?_
    | with_reducible refine embFail_keep ?_
    | with_reducible refine modEmb_keep ?_
    | with_reducible refine beginFence_keep ?_
    | simp only [keepOut_next])
theorem execBundleRequestReceive_keep {z : State} {b : Bulk} {s : State} (hz : Keep z s) :
    KeepOut z (execBundleRequestReceive b s) := by
  unfold execBundleRequestReceive; try dsimp only
  (repeat' first
    | with_reducible assumption
    | split
    | with_reducible refine nextN_keep ?_
    | with_reducible refine receiveBundle_keep ?_)
theorem execBundleReplyReceive_keep {z : State} {b : Bulk} {s : State} (hz : Keep z s) :
    KeepOut z (execBundleReplyReceive b s) := by
  unfold execBundleReplyReceive; try dsimp only
  (repeat' first
    | with_reducible assumption
    | split
    | with_reducible refine nextN_keep ?_
    | with_reducible refine receiveBundle_keep ?_)
theorem execBundleUpdateReceive_keep {z : State} {b : Bulk} {s : State} (hz : Keep z s) :
    KeepOut z (execBundleUpdateReceive b s) := by
  unfold execBundleUpdateReceive; try dsimp only
  (repeat' first
    | with_reducible assumption
    | split
    | with_reducible refine nextN_keep ?_
    | with_reducible refine receiveBundle_keep ?_)
theorem execBundleUpdateAckReceive_keep {z : State} {b : Bulk} {s : State} (hz : Keep z s) :
    KeepOut z (execBundleUpdateAckReceive b s) := by
  unfold execBundleUpdateAckReceive; try dsimp only
  (repeat' first
    | with_reducible assumption
    | split
    | with_reducible refine nextN_keep ?_
    | with_reducible refine receiveBundle_keep ?_)
theorem execBundleRowsPushReceive_keep {z : State} {b : Bulk} {s : State} (hz : Keep z s) :
    KeepOut z (execBundleRowsPushReceive b s) := by
  unfold execBundleRowsPushReceive; try dsimp only
  (repeat' first
    | with_reducible assumption
    | split
    | with_reducible refine nextN_keep ?_
    | with_reducible refine receiveBundle_keep ?_)
theorem execBundleBlockMoveReceive_keep {z : State} {b : Bulk} {s : State} (hz : Keep z s) :
    KeepOut z (execBundleBlockMoveReceive b s) := by
  unfold execBundleBlockMoveReceive; try dsimp only
  (repeat' first
    | with_reducible assumption
    | split
    | with_reducible refine nextN_keep ?_
    | with_reducible refine receiveBundle_keep ?_)
theorem execEmbFenceTimeout_keep {z : State} {p : Fin 16} {table : Fin 64} {s : State} (hz : Keep z s) :
    KeepOut z (execEmbFenceTimeout p table s) := by
  unfold execEmbFenceTimeout; try dsimp only
  (repeat' first
    | with_reducible assumption
    | split
    | with_reducible refine nextN_keep ?_
    | with_reducible refine fenceFail_keep ?_
    | simp only [keepOut_next])

end Sys2Proof.Machine
end

