-- ==== Sys2Proof/Laws/Keep5.lean ====
section
/-! SUPPORT. Keep, of the operations and meanings of Movers, CollOps, HuskCmds, Husk, Engines, Bulk, Cells, Channels. -/

namespace Sys2Proof.Machine

@[simp] theorem copyList_keep {z : State} {s : State} {c : Consumed} (hz : Keep z s) :
    Keep z (copyList s c).2 := by
  unfold copyList; (repeat' split) <;> simp [*]
theorem copyList_keepE {z : State} {s : State} {c : Consumed} {u9 : _} {w9 : State} (hz : Keep z s)
    (e9 : copyList s c = (u9, w9)) : Keep z w9 := by
  have h := copyList_keep (z := z) (s := s) (c := c) hz; rw [e9] at h; simpa using h
theorem execMemCopy_keep {z : State} {fn : Fn} {s : State} (hz : Keep z s) :
    KeepOut z (execMemCopy fn s) := by
  unfold execMemCopy; try dsimp only
  (repeat' first
    | with_reducible assumption
    | split
    | ((with_reducible refine withCmd_keep (fun _ _ _ => ?_) ?_); try dsimp only)
    | with_reducible refine finishSt_keep ?_
    | with_reducible refine copyList_keepE ?_ ‹_›
    | with_reducible refine copyList_keep ?_
    | with_reducible refine finish_keep ?_
    | with_reducible refine pushList_keep ?_
    | with_reducible refine accept_keep ?_)
theorem execMemFill_keep {z : State} {fn : Fn} {s : State} (hz : Keep z s) :
    KeepOut z (execMemFill fn s) := by
  unfold execMemFill; try dsimp only
  (repeat' first
    | with_reducible assumption
    | split
    | ((with_reducible refine withCmd_keep (fun _ _ _ => ?_) ?_); try dsimp only)
    | with_reducible refine finishSt_keep ?_
    | with_reducible refine setFlag_keep ?_
    | with_reducible refine pushList_keep ?_
    | with_reducible refine accept_keep ?_)
theorem execMemQuery_keep {z : State} {fn : Fn} {s : State} (hz : Keep z s) :
    KeepOut z (execMemQuery fn s) := by
  unfold execMemQuery; try dsimp only
  (repeat' first
    | with_reducible assumption
    | split
    | ((with_reducible refine withCmd_keep (fun _ _ _ => ?_) ?_); try dsimp only)
    | with_reducible refine finishSt_keep ?_
    | with_reducible refine finishOk_keep ?_)
@[simp] theorem startJob_keep {z : State} {s : State} {job : Nat} {fill : Bool} (hz : Keep z s) :
    Keep z (startJob s job fill) := by
  unfold startJob; (repeat' split) <;> simp [*]
theorem execMoverCopy_keep {z : State} {job : Nat} {s : State} (hz : Keep z s) :
    KeepOut z (execMoverCopy job s) := by
  unfold execMoverCopy; simp [hz]
theorem execMoverFill_keep {z : State} {job : Nat} {s : State} (hz : Keep z s) :
    KeepOut z (execMoverFill job s) := by
  unfold execMoverFill; simp [hz]
theorem execPatrolScrub_keep {z : State} {word : Fin 2415919104} {s : State} (hz : Keep z s) :
    KeepOut z (execPatrolScrub word s) := by
  unfold execPatrolScrub; try dsimp only
  (repeat' first
    | with_reducible assumption
    | split
    | with_reducible refine readHbmWord_keep ?_
    | with_reducible refine nextN_keep ?_
    | simp only [keep_mk, keep_eta, keepOut_next])
theorem execCopyOnWrite_keep {z : State} {part : Fin 17} {addr : Nat} {data : List Byte} {poison : Bool} {s : State} (hz : Keep z s) :
    KeepOut z (execCopyOnWrite part addr data poison s) := by
  unfold execCopyOnWrite; try dsimp only
  (repeat' first
    | with_reducible assumption
    | split
    | with_reducible refine nextN_keep ?_
    | with_reducible refine trackedWrite_keep ?_
    | simp only [keepOut_next])
@[simp] theorem claimWaiting_keep {z : State} {s : State} (hz : Keep z s) :
    Keep z (claimWaiting s) := by
  unfold claimWaiting; try dsimp only
  (repeat' first
    | with_reducible assumption
    | (with_reducible refine foldl_keep (fun _ _ _ => ?_) _ ?_; try dsimp only)
    | split
    | with_reducible refine cowClaim_keep ?_)
theorem execCowCopyComplete_keep {z : State} {entry : Nat} {s : State} (hz : Keep z s) :
    KeepOut z (execCowCopyComplete entry s) := by
  unfold execCowCopyComplete; dsimp only
  split
  · refine nextN_keep (applyHeld_keep ?_)
    rw [keep_mk, hbmPut_mem]; exact keepF_hbm hz mwrite_wf
  · exact keepOut_next.2 hz
theorem execReserveEntryFreed_keep {z : State} {entry : Nat} {s : State} (hz : Keep z s) :
    KeepOut z (execReserveEntryFreed entry s) := by
  unfold execReserveEntryFreed; try dsimp only
  (repeat' first
    | with_reducible assumption
    | (with_reducible refine foldl_keep (fun _ _ _ => ?_) _ ?_; try dsimp only)
    | split
    | with_reducible refine claimWaiting_keep ?_
    | with_reducible refine nextN_keep ?_
    | with_reducible refine endStall_keep ?_
    | simp only [keep_mk, keep_eta, keepOut_next])
@[simp] theorem modColl_keep {z : State} {s : State} {p : Nat} {key : W32} {f : Coll → Coll} (hz : Keep z s) :
    Keep z (modColl s p key f) := by
  unfold modColl; simp [hz]
@[simp] theorem collFail_keep {z : State} {s : State} {c : Coll} {status : Nat} (hz : Keep z s) :
    Keep z (collFail s c status) := by
  unfold collFail; try dsimp only
  (repeat' first
    | with_reducible assumption
    | split
    | with_reducible refine openBytes_keepE ?_ ‹_›
    | with_reducible refine openBytes_keep ?_
    | with_reducible refine engineWrite_keep ?_
    | with_reducible refine workDone_keep ?_
    | with_reducible refine step_keep ?_
    | simp only [keep_mk, keep_eta])
@[simp] theorem collSend_keep {z : State} {s : State} {c : Coll} (hz : Keep z s) :
    Keep z (collSend s c) := by
  unfold collSend; try dsimp only
  (repeat' first
    | with_reducible assumption
    | (with_reducible refine foldl_keep (fun _ _ _ => ?_) _ ?_)
    | (with_reducible refine map_getD_keep ?_ (fun _ _ => ?_))
    | (with_reducible refine getD_keep ?_ (fun _ _ => ?_))
    | split
    | with_reducible refine step_keep ?_
    | with_reducible refine engineRead_keepE ?_ ‹_›
    | with_reducible refine engineRead_keep ?_
    | with_reducible refine sendXfer_keepE ?_ ‹_›
    | with_reducible refine collFail_keep ?_
    | with_reducible refine modColl_keep ?_)
@[simp] theorem collGot_keep {z : State} {s : State} {p : Nat} {key : W32} {step n : Nat} (hz : Keep z s) :
    Keep z (collGot s p key step n) := by
  unfold collGot; simp [hz]
@[simp] theorem collReduce_keep {z : State} {s : State} {c : Coll} {a : CollIn} (hz : Keep z s) :
    Keep z (collReduce s c a) := by
  unfold collReduce; try dsimp only
  (repeat' first
    | with_reducible assumption
    | split
    | with_reducible refine engineRead_keepE ?_ ‹_›
    | with_reducible refine engineRead_keep ?_
    | with_reducible refine step_keep ?_
    | with_reducible refine engineWrite_keep ?_
    | with_reducible refine collGot_keep ?_
    | with_reducible refine modColl_keep ?_
    | with_reducible refine sendBulk_keep ?_)
@[simp] theorem collSegment_keep {z : State} {s : State} {c : Coll} (hz : Keep z s) :
    Keep z (collSegment s c) := by
  unfold collSegment; (repeat' split) <;> simp [*]
@[simp] theorem collArrive_keep {z : State} {s : State} {b : Bulk} (hz : Keep z s) :
    Keep z (collArrive s b) := by
  unfold collArrive; try dsimp only
  (repeat' first
    | with_reducible assumption
    | split
    | with_reducible refine sendComplete_keep ?_
    | with_reducible refine step_keep ?_
    | with_reducible refine engineWrite_keep ?_
    | with_reducible refine modColl_keep ?_
    | with_reducible refine collGot_keep ?_)
@[simp] theorem collNext_keep {z : State} {s : State} {c : Coll} (hz : Keep z s) :
    Keep z (collNext s c) := by
  unfold collNext; try dsimp only
  (repeat' first
    | with_reducible assumption
    | split
    | with_reducible refine step_keep ?_
    | with_reducible refine modColl_keep ?_
    | with_reducible refine workDone_keep ?_
    | simp only [keep_mk, keep_eta])
@[simp] theorem collRelease_keep {z : State} {s : State} {p : Nat} {r : SyncRec} (hz : Keep z s) :
    Keep z (collRelease s p r) := by
  unfold collRelease; (repeat' split) <;> simp [*]
@[simp] theorem linkCollective_keep {z : State} {s : State} {fn : Fn} {p : Nat} {c : Consumed} (hz : Keep z s) :
    Keep z (linkCollective s fn p c) := by
  unfold linkCollective; try dsimp only
  (repeat' first
    | with_reducible assumption
    | (with_reducible refine map_getD_keep ?_ (fun _ _ => ?_))
    | (with_reducible refine getD_keep ?_ (fun _ _ => ?_))
    | split
    | with_reducible refine finishSt_keep ?_
    | with_reducible refine engineRead_keepE ?_ ‹_›
    | with_reducible refine engineRead_keep ?_
    | with_reducible refine accept_keep ?_
    | with_reducible refine arrive_keep ?_
    | simp only [keep_mk, keep_eta])
theorem execHuskConfig_keep {z : State} {fn : Fn} {s : State} (hz : Keep z s) :
    KeepOut z (execHuskConfig fn s) := by
  unfold execHuskConfig; try dsimp only
  (repeat' first
    | with_reducible assumption
    | (with_reducible refine foldl_keep (fun _ _ _ => ?_) _ ?_)
    | (with_reducible refine map_getD_keep ?_ (fun _ _ => ?_))
    | (with_reducible refine getD_keep ?_ (fun _ _ => ?_))
    | split
    | ((with_reducible refine withCmd_keep (fun _ _ _ => ?_) ?_); try dsimp only)
    | with_reducible refine finishSt_keep ?_
    | with_reducible refine note_keep ?_
    | with_reducible refine finishOk_keep ?_
    | simp only [keep_mk, keep_eta])
@[simp] theorem snapBegin_keep {z : State} {s : State} {fn : Nat} {c : Consumed} {q : SnapReq} (hz : Keep z s) :
    Keep z (snapBegin s fn c q) := by
  unfold snapBegin; try dsimp only
  (repeat' first
    | with_reducible assumption
    | (with_reducible refine foldl_keep (fun _ _ _ => ?_) _ ?_; try dsimp only)
    | (with_reducible refine map_getD_keep ?_ (fun _ _ => ?_))
    | (with_reducible refine getD_keep ?_ (fun _ _ => ?_))
    | split
    | with_reducible refine traceHusk_keep ?_
    | with_reducible refine epochEvent_keep ?_
    | with_reducible refine snapReach_keep ?_
    | simp only [keep_mk, keep_eta])
@[simp] theorem snapMissed_keep {z : State} {s : State} {fn : Nat} {c : Consumed} {q : SnapReq} (hz : Keep z s) :
    Keep z (snapMissed s fn c q) := by
  unfold snapMissed; try dsimp only
  (repeat' first
    | with_reducible assumption
    | (with_reducible refine map_getD_keep ?_ (fun _ _ => ?_))
    | (with_reducible refine getD_keep ?_ (fun _ _ => ?_))
    | split
    | with_reducible refine arrive_keep ?_
    | with_reducible refine workDone_keep ?_
    | with_reducible refine sendOutcome_keep ?_)
theorem execHuskSnap_keep {z : State} {fn : Fn} {s : State} (hz : Keep z s) :
    KeepOut z (execHuskSnap fn s) := by
  unfold execHuskSnap; try dsimp only
  (repeat' first
    | with_reducible assumption
    | split
    | ((with_reducible refine withCmd_keep (fun _ _ _ => ?_) ?_); try dsimp only)
    | with_reducible refine finishSt_keep ?_
    | with_reducible refine accept_keep ?_
    | with_reducible refine note_keep ?_
    | with_reducible refine snapMissed_keep ?_
    | with_reducible refine snapBegin_keep ?_)
theorem execHuskQuery_keep {z : State} {fn : Fn} {s : State} (hz : Keep z s) :
    KeepOut z (execHuskQuery fn s) := by
  unfold execHuskQuery; try dsimp only
  (repeat' first
    | with_reducible assumption
    | (with_reducible refine map_getD_keep ?_ (fun _ _ => ?_))
    | (with_reducible refine getD_keep ?_ (fun _ _ => ?_))
    | split
    | ((with_reducible refine withCmd_keep (fun _ _ _ => ?_) ?_); try dsimp only)
    | with_reducible refine finishOk_keep ?_)
theorem execHuskFlip_keep {z : State} {p : Fin 16} {s : State} (hz : Keep z s) :
    KeepOut z (execHuskFlip p s) := by
  unfold execHuskFlip; try dsimp only
  (repeat' first
    | with_reducible assumption
    | split
    | with_reducible refine nextN_keep ?_
    | with_reducible refine flip_keep ?_
    | simp only [keepOut_next])
theorem execHuskPauseEnd_keep {z : State} {p : Fin 16} {s : State} (hz : Keep z s) :
    KeepOut z (execHuskPauseEnd p s) := by
  unfold execHuskPauseEnd; try dsimp only
  (repeat' first
    | with_reducible assumption
    | split
    | with_reducible refine nextN_keep ?_
    | with_reducible refine pauseEnd_keep ?_
    | simp only [keepOut_next])
theorem execSnapWaitTimeout_keep {z : State} {s : State} (hz : Keep z s) :
    KeepOut z (execSnapWaitTimeout s) := by
  unfold execSnapWaitTimeout; try dsimp only
  (repeat' first
    | with_reducible assumption
    | split
    | with_reducible refine nextN_keep ?_
    | with_reducible refine epochIncomplete_keep ?_
    | simp only [keepOut_next])
theorem execDrainSegmentIssue_keep {z : State} {s : State} (hz : Keep z s) :
    KeepOut z (execDrainSegmentIssue s) := by
  unfold execDrainSegmentIssue; try dsimp only
  (repeat' first
    | with_reducible assumption
    | split
    | with_reducible refine nextN_keep ?_
    | with_reducible refine drainSegment_keep ?_)
theorem execSnapOutcomeReceive_keep {z : State} {src : Fin 128} {key : W32} {outcome : Byte} {s : State} (hz : Keep z s) :
    KeepOut z (execSnapOutcomeReceive src key outcome s) := by
  unfold execSnapOutcomeReceive; try dsimp only
  (repeat' first
    | with_reducible assumption
    | split
    | with_reducible refine modSnap_keep ?_
    | with_reducible refine answered_keep ?_
    | with_reducible refine nextN_keep ?_
    | with_reducible refine answerSys_keep ?_
    | simp only [keepOut_next])
theorem execSystemWaitTimeout_keep {z : State} {epoch : Nat} {s : State} (hz : Keep z s) :
    KeepOut z (execSystemWaitTimeout epoch s) := by
  unfold execSystemWaitTimeout; try dsimp only
  (repeat' first
    | with_reducible assumption
    | split
    | with_reducible refine answered_keep ?_
    | with_reducible refine nextN_keep ?_
    | with_reducible refine answerSys_keep ?_
    | simp only [keepOut_next])
@[simp] theorem snapRelease_keep {z : State} {s : State} {r : SyncRec} (hz : Keep z s) :
    Keep z (snapRelease s r) := by
  unfold snapRelease; try dsimp only
  (repeat' first
    | with_reducible assumption
    | split
    | with_reducible refine writeSystem_keep ?_
    | with_reducible refine answerSys_keep ?_
    | with_reducible refine eventPart_keep ?_
    | simp only [keep_mk, keep_eta])
theorem execVolumeMount_keep {z : State} {k : Fin 5} {info : MountInfo} {s : State} (hz : Keep z s) :
    KeepOut z (execVolumeMount k info s) := by
  unfold execVolumeMount; try dsimp only
  (repeat' first
    | with_reducible assumption
    | split
    | with_reducible refine nextN_keep ?_
    | with_reducible refine mountVolume_keep ?_
    | simp only [keepOut_next])
theorem withFormat_keep {z s : State} {fn : Fn} {mode : Nat} {k : Consumed → State → State} (hk : ∀ c t, Keep z t → Keep z (k c t)) (hz : Keep z s) :
    KeepOut z (withFormat s fn mode k) := by
  unfold withFormat
  split
  · simpa using hz
  · split
    · simpa using hz
    · split
      · exact nextN_keep (finishSt_keep hz)
      · exact nextN_keep (hk _ _ (accept_keep hz))
@[simp] theorem formatRun_keep {z : State} {s : State} {fn : Fn} {id k owner : Nat} {ms : List Nat} (hz : Keep z s) :
    Keep z (formatRun s fn id k owner ms) := by
  unfold formatRun; try dsimp only
  (repeat' first
    | with_reducible assumption
    | (with_reducible refine foldl_keep (fun _ _ _ => ?_) _ ?_; try dsimp only)
    | split
    | with_reducible refine ownNs_keep ?_
    | with_reducible refine formatOn_keep ?_
    | with_reducible refine formatMember_keep ?_
    | simp only [keep_mk, keep_eta])
@[simp] theorem freshVolume_keep {z : State} {s : State} {c : Consumed} {guest : Bool} (hz : Keep z s) :
    Keep z (freshVolume s c guest).2 := by
  unfold freshVolume; simp [hz]
theorem freshVolume_keepE {z : State} {s : State} {c : Consumed} {guest : Bool} {u9 : _} {w9 : State} (hz : Keep z s)
    (e9 : freshVolume s c guest = (u9, w9)) : Keep z w9 := by
  have h := freshVolume_keep (z := z) (s := s) (c := c) (guest := guest) hz; rw [e9] at h; simpa using h
theorem execHuskVolumeFormatCreate_keep {z : State} {fn : Fn} {s : State} (hz : Keep z s) :
    KeepOut z (execHuskVolumeFormatCreate fn s) := by
  unfold execHuskVolumeFormatCreate; try dsimp only
  (repeat' first
    | with_reducible assumption
    | (with_reducible refine foldl_keep (fun _ _ _ => ?_) _ ?_; try dsimp only)
    | split
    | ((with_reducible refine withFormat_keep (fun _ _ _ => ?_) ?_); try dsimp only)
    | with_reducible refine freshVolume_keepE ?_ ‹_›
    | with_reducible refine freshVolume_keep ?_
    | with_reducible refine ownNs_keep ?_
    | with_reducible refine formatRun_keep ?_
    | with_reducible refine setVol_keep ?_)
theorem execHuskVolumeFormatGuest_keep {z : State} {fn : Fn} {s : State} (hz : Keep z s) :
    KeepOut z (execHuskVolumeFormatGuest fn s) := by
  unfold execHuskVolumeFormatGuest; try dsimp only
  (repeat' first
    | with_reducible assumption
    | (with_reducible refine map_getD_keep ?_ (fun _ _ => ?_))
    | (with_reducible refine getD_keep ?_ (fun _ _ => ?_))
    | split
    | ((with_reducible refine withFormat_keep (fun _ _ _ => ?_) ?_); try dsimp only)
    | with_reducible refine freshVolume_keepE ?_ ‹_›
    | with_reducible refine freshVolume_keep ?_
    | with_reducible refine formatRun_keep ?_
    | with_reducible refine setVol_keep ?_)
theorem execHuskVolumeFormatReplace_keep {z : State} {fn : Fn} {s : State} (hz : Keep z s) :
    KeepOut z (execHuskVolumeFormatReplace fn s) := by
  unfold execHuskVolumeFormatReplace; try dsimp only
  (repeat' first
    | with_reducible assumption
    | (with_reducible refine foldl_keep (fun _ _ _ => ?_) _ ?_)
    | split
    | ((with_reducible refine withFormat_keep (fun _ _ _ => ?_) ?_); try dsimp only)
    | with_reducible refine modMember_keep ?_
    | with_reducible refine ownNs_keep ?_
    | with_reducible refine formatRun_keep ?_
    | simp only [keep_mk, keep_eta])
theorem execHuskVolumeFormatRelease_keep {z : State} {fn : Fn} {s : State} (hz : Keep z s) :
    KeepOut z (execHuskVolumeFormatRelease fn s) := by
  unfold execHuskVolumeFormatRelease; try dsimp only
  (repeat' first
    | with_reducible assumption
    | (with_reducible refine foldl_keep (fun _ _ _ => ?_) _ ?_; try dsimp only)
    | split
    | ((with_reducible refine withFormat_keep (fun _ _ _ => ?_) ?_); try dsimp only)
    | with_reducible refine ownNs_keep ?_
    | with_reducible refine dropWriter_keep ?_
    | with_reducible refine noteVolume_keep ?_
    | with_reducible refine setVol_keep ?_
    | with_reducible refine workDone_keep ?_
    | simp only [keep_mk, keep_eta])
theorem execHuskCompact_keep {z : State} {fn : Fn} {s : State} (hz : Keep z s) :
    KeepOut z (execHuskCompact fn s) := by
  unfold execHuskCompact; try dsimp only
  (repeat' first
    | with_reducible assumption
    | split
    | with_reducible refine note_keep ?_
    | with_reducible refine compactOn_keep ?_
    | ((with_reducible refine withCmd_keep (fun _ _ _ => ?_) ?_); try dsimp only)
    | with_reducible refine finishSt_keep ?_
    | with_reducible refine accept_keep ?_
    | simp only [keep_mk, keep_eta])
@[simp] theorem sendFetch_keep {z : State} {s : State} {dst : Nat} {volume : W64} {q : EpochWish} (hz : Keep z s) :
    Keep z (sendFetch s dst volume q) := by
  unfold sendFetch; simp [hz]
theorem execHuskRestore_keep {z : State} {fn : Fn} {s : State} (hz : Keep z s) :
    KeepOut z (execHuskRestore fn s) := by
  unfold execHuskRestore; try dsimp only
  (repeat' first
    | with_reducible assumption
    | split
    | ((with_reducible refine withCmd_keep (fun _ _ _ => ?_) ?_); try dsimp only)
    | with_reducible refine finishSt_keep ?_
    | with_reducible refine accept_keep ?_
    | with_reducible refine note_keep ?_
    | with_reducible refine sendFetch_keep ?_
    | with_reducible refine restoreBegin_keep ?_
    | with_reducible refine readerOn_keep ?_
    | simp only [keep_mk, keep_eta])
theorem execRestoreResume_keep {z : State} {s : State} (hz : Keep z s) :
    KeepOut z (execRestoreResume s) := by
  unfold execRestoreResume; try dsimp only
  (repeat' first
    | with_reducible assumption
    | split
    | with_reducible refine nextN_keep ?_
    | with_reducible refine readerOn_keep ?_
    | with_reducible refine sendFetch_keep ?_
    | simp only [keep_mk, keep_eta, keepOut_next])
@[simp] theorem nackOpen_keep {z : State} {s : State} {dst volume epoch status : Nat} (hz : Keep z s) :
    Keep z (nackOpen s dst volume epoch status) := by
  unfold nackOpen; simp [hz]
theorem execBuddyOpen_keep {z : State} {src : Fin 128} {volume epoch _n : Nat} {s : State} (hz : Keep z s) :
    KeepOut z (execBuddyOpen src volume epoch _n s) := by
  unfold execBuddyOpen; try dsimp only
  (repeat' first
    | with_reducible assumption
    | split
    | with_reducible refine nextN_keep ?_
    | with_reducible refine nackOpen_keep ?_
    | with_reducible refine beginWriter_keep ?_
    | with_reducible refine dropWriter_keep ?_
    | with_reducible refine writerOn_keep ?_
    | with_reducible refine judge_keep ?_)
theorem execBuddyCommit_keep {z : State} {src : Fin 128} {volume epoch n : Nat} {s : State} (hz : Keep z s) :
    KeepOut z (execBuddyCommit src volume epoch n s) := by
  unfold execBuddyCommit; try dsimp only
  (repeat' first
    | with_reducible assumption
    | split
    | with_reducible refine nextN_keep ?_
    | with_reducible refine writerFails_keep ?_
    | with_reducible refine modWriter_keep ?_
    | with_reducible refine writerOn_keep ?_
    | simp only [keepOut_next])
theorem execBuddyAck_keep {z : State} {src : Fin 128} {volume epoch : Nat} {step : Fin 2} {status : Nat} {s : State} (hz : Keep z s) :
    KeepOut z (execBuddyAck src volume epoch step status s) := by
  unfold execBuddyAck; try dsimp only
  (repeat' first
    | with_reducible assumption
    | split
    | with_reducible refine nextN_keep ?_
    | with_reducible refine buddyFails_keep ?_
    | with_reducible refine step_keep ?_
    | with_reducible refine writerOn_keep ?_
    | with_reducible refine modSnap_keep ?_
    | simp only [keepOut_next])
theorem execBuddyAckTimeout_keep {z : State} {s : State} (hz : Keep z s) :
    KeepOut z (execBuddyAckTimeout s) := by
  unfold execBuddyAckTimeout; try dsimp only
  (repeat' first
    | with_reducible assumption
    | split
    | with_reducible refine nextN_keep ?_
    | with_reducible refine buddyFails_keep ?_
    | simp only [keepOut_next])
theorem execBuddyFetch_keep {z : State} {src : Fin 128} {volume epoch key mask : Nat} {sysOnly : Bool} {s : State} (hz : Keep z s) :
    KeepOut z (execBuddyFetch src volume epoch key mask sysOnly s) := by
  unfold execBuddyFetch; try dsimp only
  (repeat' first
    | with_reducible assumption
    | split
    | with_reducible refine sendMgmt_keep ?_
    | with_reducible refine nextN_keep ?_
    | with_reducible refine fetchSend_keep ?_
    | with_reducible refine readerOn_keep ?_
    | simp only [keep_mk, keep_eta])
@[simp] theorem refuseRestore_keep {z : State} {s : State} {status : Nat} (hz : Keep z s) :
    Keep z (refuseRestore s status) := by
  unfold refuseRestore; (repeat' split) <;> simp [*]
theorem execBuddyFetchDone_keep {z : State} {src : Fin 128} {volume epoch sent status : Nat} {s : State} (hz : Keep z s) :
    KeepOut z (execBuddyFetchDone src volume epoch sent status s) := by
  unfold execBuddyFetchDone; try dsimp only
  (repeat' first
    | with_reducible assumption
    | (with_reducible refine map_getD_keep ?_ (fun _ _ => ?_))
    | (with_reducible refine getD_keep ?_ (fun _ _ => ?_))
    | split
    | with_reducible refine nextN_keep ?_
    | with_reducible refine refuseRestore_keep ?_
    | with_reducible refine restoreFinish_keep ?_
    | with_reducible refine endRestore_keep ?_
    | simp only [keepOut_next])
theorem execBuddyFetchTimeout_keep {z : State} {s : State} (hz : Keep z s) :
    KeepOut z (execBuddyFetchTimeout s) := by
  unfold execBuddyFetchTimeout; try dsimp only
  (repeat' first
    | with_reducible assumption
    | split
    | with_reducible refine nextN_keep ?_
    | with_reducible refine refuseRestore_keep ?_
    | with_reducible refine endRestore_keep ?_
    | simp only [keepOut_next])
@[simp] theorem restoreRecord_keep {z : State} {s : State} {r : Restore} {d : LogRec} {data : List Byte} (hz : Keep z s) :
    Keep z (restoreRecord s r d data) := by
  unfold restoreRecord; try dsimp only
  (repeat' first
    | with_reducible assumption
    | split
    | with_reducible refine refuseRestore_keep ?_
    | with_reducible refine restoreBegin_keep ?_
    | with_reducible refine restoreLost_keep ?_
    | with_reducible refine placeRead_keep ?_
    | with_reducible refine modReader_keep ?_)
@[simp] theorem buddyRecord_keep {z : State} {s : State} {b : Bulk} (hz : Keep z s) :
    Keep z (buddyRecord s b) := by
  unfold buddyRecord; dsimp only
  split
  · exact sendComplete_keep (restoreRecord_keep hz)
  · exact sendComplete_keep hz
  · refine writerOn_keep (sendComplete_keep (keep_ite (fun _ => modWriter_keep hz) (fun _ => getD_keep (volumeFull_keep hz) (fun _ e => writeData_keepE hz e))))
@[simp] theorem charge_keep {z : State} {s : State} {m : Nat} {charges : List Nat} (hz : Keep z s) :
    Keep z (charge s m charges) := by
  unfold charge; try dsimp only
  (repeat' first
    | with_reducible assumption
    | (with_reducible refine foldl_keep (fun _ _ _ => ?_) _ ?_)
    | (with_reducible refine map_getD_keep ?_ (fun _ _ => ?_))
    | (with_reducible refine getD_keep ?_ (fun _ _ => ?_))
    | split
    | with_reducible refine State_setPt_keep ?_)
@[simp] theorem setArb_keep {z : State} {s : State} {e : Nat} {a : Arb} (hz : Keep z s) :
    Keep z (setArb s e a) := by
  unfold setArb; simp [hz]
@[simp] theorem issueDrive_keep {z : State} {s : State} {n cid : Nat} (hz : Keep z s) :
    Keep z (issueDrive s n cid) := by
  unfold issueDrive; (repeat' split) <;> simp [*]
@[simp] theorem runWork_keep {z : State} {s : State} {w : Work} {buf : Option (List Byte)} (hz : Keep z s) :
    Keep z (runWork s w buf) := by
  unfold runWork; try dsimp only
  (repeat' first
    | with_reducible assumption
    | (with_reducible refine elim_keep ?_ (fun _ _ => ?_))
    | split
    | with_reducible refine moverSegment_keep ?_
    | with_reducible refine embSegment_keep ?_
    | with_reducible refine collSegment_keep ?_
    | with_reducible refine issueDrive_keep ?_)
theorem execEngineSegmentComplete_keep {z : State} {e : Fin 5} {buf : Option (List Byte)} {s : State} (hz : Keep z s) :
    KeepOut z (execEngineSegmentComplete e buf s) := by
  unfold execEngineSegmentComplete; try dsimp only
  (repeat' first
    | with_reducible assumption
    | split
    | with_reducible refine nextN_keep ?_
    | with_reducible refine drainSegment_keep ?_
    | with_reducible refine setArb_keep ?_
    | with_reducible refine runWork_keep ?_
    | with_reducible refine charge_keep ?_
    | simp only [keepOut_next])
@[simp] theorem moverComplete_keep {z : State} {s : State} {j : Job} (hz : Keep z s) :
    Keep z (moverComplete s j) := by
  unfold moverComplete; try dsimp only
  (repeat' first
    | with_reducible assumption
    | split
    | with_reducible refine dropJob_keep ?_
    | with_reducible refine modList_keep ?_
    | with_reducible refine setFlags_keep ?_)
@[simp] theorem embComplete_keep {z : State} {s : State} {j : EmbJob} (hz : Keep z s) :
    Keep z (embComplete s j) := by
  unfold embComplete; try dsimp only
  (repeat' first
    | with_reducible assumption
    | split
    | with_reducible refine dropEmb_keep ?_
    | with_reducible refine modList_keep ?_
    | with_reducible refine embFlags_keep ?_)
theorem execMoverDescriptorComplete_keep {z : State} {job : Nat} {s : State} (hz : Keep z s) :
    KeepOut z (execMoverDescriptorComplete job s) := by
  unfold execMoverDescriptorComplete; try dsimp only
  (repeat' first
    | with_reducible assumption
    | split
    | with_reducible refine nextN_keep ?_
    | with_reducible refine moverComplete_keep ?_
    | with_reducible refine embComplete_keep ?_
    | simp only [keepOut_next])
@[simp] theorem moverFail_keep {z : State} {s : State} {j : Job} {status cause : Nat} (hz : Keep z s) :
    Keep z (moverFail s j status cause) := by
  unfold moverFail; try dsimp only
  (repeat' first
    | with_reducible assumption
    | split
    | with_reducible refine poisonRest_keep ?_
    | with_reducible refine setFlag_keep ?_
    | with_reducible refine setFlags_keep ?_
    | with_reducible refine engineFault_keep ?_
    | with_reducible refine dropJob_keep ?_
    | with_reducible refine modList_keep ?_
    | simp only [keep_mk, keep_eta])
@[simp] theorem embFails_keep {z : State} {s : State} {j : EmbJob} {status cause : Nat} (hz : Keep z s) :
    Keep z (embFails s j status cause) := by
  unfold embFails; try dsimp only
  (repeat' first
    | with_reducible assumption
    | (with_reducible refine foldl_keep (fun _ _ _ => ?_) _ ?_; try dsimp only)
    | split
    | with_reducible refine poisonRange_keep ?_
    | with_reducible refine State_takeFree_keepE ?_ ‹_›
    | with_reducible refine State_takeFree_keep ?_
    | with_reducible refine engineFault_keep ?_
    | with_reducible refine embFlags_keep ?_
    | with_reducible refine dropEmb_keep ?_
    | with_reducible refine modList_keep ?_)
theorem execMoverDescriptorFail_keep {z : State} {job : Nat} {s : State} (hz : Keep z s) :
    KeepOut z (execMoverDescriptorFail job s) := by
  unfold execMoverDescriptorFail; try dsimp only
  (repeat' first
    | with_reducible assumption
    | split
    | with_reducible refine nextN_keep ?_
    | with_reducible refine moverFail_keep ?_
    | with_reducible refine embFails_keep ?_
    | simp only [keepOut_next])
theorem execBulkWriteReceive_keep {z : State} {b : Bulk} {s : State} (hz : Keep z s) :
    KeepOut z (execBulkWriteReceive b s) := by
  unfold execBulkWriteReceive; try dsimp only
  (repeat' first
    | with_reducible assumption
    | split
    | with_reducible refine nextN_keep ?_
    | with_reducible refine sendComplete_keep ?_
    | with_reducible refine claimRanges_keep ?_
    | with_reducible refine chargeWrite_keep ?_
    | with_reducible refine windowWrite_keep ?_
    | simp only [keepOut_next])
theorem execBulkEngineReceive_keep {z : State} {b : Bulk} {s : State} (hz : Keep z s) :
    KeepOut z (execBulkEngineReceive b s) := by
  unfold execBulkEngineReceive; try dsimp only
  (repeat' first
    | with_reducible assumption
    | split
    | with_reducible refine nextN_keep ?_
    | with_reducible refine sendComplete_keep ?_
    | with_reducible refine bundle_keep ?_
    | with_reducible refine collArrive_keep ?_
    | with_reducible refine chargeWrite_keep ?_
    | with_reducible refine buddyRecord_keep ?_
    | simp only [keepOut_next])
@[simp] theorem transferEnd_keep {z : State} {s : State} {x : Xfer} {status : Nat} (hz : Keep z s) :
    Keep z (transferEnd s x status) := by
  unfold transferEnd; try dsimp only
  (repeat' first
    | with_reducible assumption
    | (with_reducible refine map_getD_keep ?_ (fun _ _ => ?_))
    | (with_reducible refine getD_keep ?_ (fun _ _ => ?_))
    | split
    | with_reducible refine dropXfer_keep ?_
    | with_reducible refine modJob_keep ?_
    | with_reducible refine embFail_keep ?_
    | with_reducible refine fenceOn_keep ?_
    | with_reducible refine modColl_keep ?_
    | with_reducible refine collFail_keep ?_
    | with_reducible refine buddyCommit_keep ?_
    | with_reducible refine buddyFails_keep ?_
    | with_reducible refine fetchEnd_keep ?_
    | with_reducible refine fetchDone_keep ?_)
theorem execBulkCompleteReceive_keep {z : State} {xfer status : Nat} {s : State} (hz : Keep z s) :
    KeepOut z (execBulkCompleteReceive xfer status s) := by
  unfold execBulkCompleteReceive; try dsimp only
  (repeat' first
    | with_reducible assumption
    | split
    | with_reducible refine nextN_keep ?_
    | with_reducible refine transferEnd_keep ?_
    | simp only [keepOut_next])
theorem execBulkCompleteTimeout_keep {z : State} {xfer : Nat} {s : State} (hz : Keep z s) :
    KeepOut z (execBulkCompleteTimeout xfer s) := by
  unfold execBulkCompleteTimeout; try dsimp only
  (repeat' first
    | with_reducible assumption
    | split
    | with_reducible refine nextN_keep ?_
    | with_reducible refine transferEnd_keep ?_
    | simp only [keepOut_next])
theorem execBarrierArrive_keep {z : State} {r : SyncRec} {s : State} (hz : Keep z s) :
    KeepOut z (execBarrierArrive r s) := by
  unfold execBarrierArrive; try dsimp only
  (repeat' first
    | with_reducible assumption
    | split
    | with_reducible refine nextN_keep ?_
    | with_reducible refine arriveAtRoot_keep ?_)
@[simp] theorem released_keep {z : State} {s : State} {r : SyncRec} (hz : Keep z s) :
    Keep z (released s r) := by
  unfold released; try dsimp only
  (repeat' first
    | with_reducible assumption
    | split
    | with_reducible refine fenceRelease_keep ?_
    | with_reducible refine collRelease_keep ?_
    | with_reducible refine snapRelease_keep ?_)
theorem execBarrierRelease_keep {z : State} {r : Option SyncRec} {s : State} (hz : Keep z s) :
    KeepOut z (execBarrierRelease r s) := by
  unfold execBarrierRelease; try dsimp only
  (repeat' first
    | with_reducible assumption
    | split
    | with_reducible refine nextN_keep ?_
    | with_reducible refine released_keep ?_
    | simp only [keep_mk, keep_eta, keepOut_next])
theorem onPod_keep {z s : State} {k : Nat} {f : Nat → Nat → State → State} (hf : ∀ a b t, Keep z t → Keep z (f a b t)) (hz : Keep z s) :
    KeepOut z (onPod k s f) := by
  unfold onPod; split
  · simpa using hz
  · exact nextN_keep (hf _ _ _ hz)
theorem execCellRead_keep {z : State} {pod : Fin 640} {m : Fin 2} {addr : Fin 8192} {s : State} (hz : Keep z s) :
    KeepOut z (execCellRead pod m addr s) := by
  unfold execCellRead; try dsimp only
  (repeat' first
    | with_reducible assumption
    | split
    | ((with_reducible refine onPod_keep (fun _ _ _ _ => ?_) ?_); try dsimp only)
    | with_reducible refine cellReadAt_keep ?_)
theorem execCellWrite_keep {z : State} {pod : Fin 640} {m : Fin 2} {addr : Fin 8192} {s : State} (hz : Keep z s) :
    KeepOut z (execCellWrite pod m addr s) := by
  unfold execCellWrite; try dsimp only
  (repeat' first
    | with_reducible assumption
    | split
    | ((with_reducible refine onPod_keep (fun _ _ _ _ => ?_) ?_); try dsimp only)
    | with_reducible refine cellWriteAt_keep ?_)
theorem execEccWriteBack_keep {z : State} {pod : Fin 640} {m : Fin 2} {addr : Fin 8192} {s : State} (hz : Keep z s) :
    KeepOut z (execEccWriteBack pod m addr s) := by
  unfold execEccWriteBack; try dsimp only
  (repeat' first
    | with_reducible assumption
    | split
    | simp only [keep_mk, keep_eta, keepOut_next])
theorem execMacNew_keep {z : State} {pod : Fin 640} {bank : Fin 2} {row : Fin 32} {half : Bool} {s : State} (hz : Keep z s) :
    KeepOut z (execMacNew pod bank row half s) := by
  unfold execMacNew; try dsimp only
  (repeat' first
    | with_reducible assumption
    | split
    | with_reducible refine fault_keep ?_
    | ((with_reducible refine onPod_keep (fun _ _ _ _ => ?_) ?_); try dsimp only)
    | with_reducible refine macAt_keep ?_
    | simp only [keepOut_fault])
theorem execMacAcc_keep {z : State} {pod : Fin 640} {bank : Fin 2} {row : Fin 32} {half : Bool} {s : State} (hz : Keep z s) :
    KeepOut z (execMacAcc pod bank row half s) := by
  unfold execMacAcc; try dsimp only
  (repeat' first
    | with_reducible assumption
    | split
    | with_reducible refine fault_keep ?_
    | ((with_reducible refine onPod_keep (fun _ _ _ _ => ?_) ?_); try dsimp only)
    | with_reducible refine macAt_keep ?_
    | simp only [keepOut_fault])
theorem execMatClear_keep {z : State} {pod : Fin 640} {bank : Fin 2} {s : State} (hz : Keep z s) :
    KeepOut z (execMatClear pod bank s) := by
  unfold execMatClear; try dsimp only
  (repeat' first
    | with_reducible assumption
    | split
    | ((with_reducible refine onPod_keep (fun _ _ _ _ => ?_) ?_); try dsimp only)
    | with_reducible refine clearAt_keep ?_)
theorem execWload_keep {z : State} {pod : Fin 640} {row : Fin 32} {half : Bool} {s : State} (hz : Keep z s) :
    KeepOut z (execWload pod row half s) := by
  unfold execWload; try dsimp only
  (repeat' first
    | with_reducible assumption
    | split
    | with_reducible refine fault_keep ?_
    | ((with_reducible refine onPod_keep (fun _ _ _ _ => ?_) ?_); try dsimp only)
    | with_reducible refine wloadAt_keep ?_
    | simp only [keepOut_fault])
theorem execWswap_keep {z : State} {pod : Fin 640} {s : State} (hz : Keep z s) :
    KeepOut z (execWswap pod s) := by
  unfold execWswap; try dsimp only
  (repeat' first
    | with_reducible assumption
    | split
    | ((with_reducible refine onPod_keep (fun _ _ _ _ => ?_) ?_); try dsimp only)
    | with_reducible refine wswapAt_keep ?_)
theorem execMatDrain_keep {z : State} {pod : Fin 640} {bank : Fin 2} {row : Fin 32} {s : State} (hz : Keep z s) :
    KeepOut z (execMatDrain pod bank row s) := by
  unfold execMatDrain; try dsimp only
  (repeat' first
    | with_reducible assumption
    | split
    | ((with_reducible refine onPod_keep (fun _ _ _ _ => ?_) ?_); try dsimp only)
    | with_reducible refine drainAt_keep ?_)
theorem vecRun_keep {z : State} {op k : Nat} {v : VInstr} {s : State} (hz : Keep z s) :
    KeepOut z (vecRun op k v s) := by
  unfold vecRun; try dsimp only
  (repeat' first
    | with_reducible assumption
    | split
    | with_reducible refine fault_keep ?_
    | ((with_reducible refine onPod_keep (fun _ _ _ _ => ?_) ?_); try dsimp only)
    | with_reducible refine vecIssue_keep ?_
    | simp only [keepOut_fault])
theorem execVNop_keep {z : State} {pod : Fin 640} {v : VInstr} {s : State} (hz : Keep z s) :
    KeepOut z (execVNop pod v s) := by
  unfold execVNop; try dsimp only
  (repeat' first
    | with_reducible assumption
    | split
    | with_reducible refine vecRun_keep ?_)
theorem execVAdd_keep {z : State} {pod : Fin 640} {v : VInstr} {s : State} (hz : Keep z s) :
    KeepOut z (execVAdd pod v s) := by
  unfold execVAdd; try dsimp only
  (repeat' first
    | with_reducible assumption
    | split
    | with_reducible refine vecRun_keep ?_)
theorem execVSub_keep {z : State} {pod : Fin 640} {v : VInstr} {s : State} (hz : Keep z s) :
    KeepOut z (execVSub pod v s) := by
  unfold execVSub; try dsimp only
  (repeat' first
    | with_reducible assumption
    | split
    | with_reducible refine vecRun_keep ?_)
theorem execVMul_keep {z : State} {pod : Fin 640} {v : VInstr} {s : State} (hz : Keep z s) :
    KeepOut z (execVMul pod v s) := by
  unfold execVMul; try dsimp only
  (repeat' first
    | with_reducible assumption
    | split
    | with_reducible refine vecRun_keep ?_)
theorem execVFma_keep {z : State} {pod : Fin 640} {v : VInstr} {s : State} (hz : Keep z s) :
    KeepOut z (execVFma pod v s) := by
  unfold execVFma; try dsimp only
  (repeat' first
    | with_reducible assumption
    | split
    | with_reducible refine vecRun_keep ?_)
theorem execVFms_keep {z : State} {pod : Fin 640} {v : VInstr} {s : State} (hz : Keep z s) :
    KeepOut z (execVFms pod v s) := by
  unfold execVFms; try dsimp only
  (repeat' first
    | with_reducible assumption
    | split
    | with_reducible refine vecRun_keep ?_)
theorem execVMax_keep {z : State} {pod : Fin 640} {v : VInstr} {s : State} (hz : Keep z s) :
    KeepOut z (execVMax pod v s) := by
  unfold execVMax; try dsimp only
  (repeat' first
    | with_reducible assumption
    | split
    | with_reducible refine vecRun_keep ?_)
theorem execVMin_keep {z : State} {pod : Fin 640} {v : VInstr} {s : State} (hz : Keep z s) :
    KeepOut z (execVMin pod v s) := by
  unfold execVMin; try dsimp only
  (repeat' first
    | with_reducible assumption
    | split
    | with_reducible refine vecRun_keep ?_)
theorem execVAbs_keep {z : State} {pod : Fin 640} {v : VInstr} {s : State} (hz : Keep z s) :
    KeepOut z (execVAbs pod v s) := by
  unfold execVAbs; try dsimp only
  (repeat' first
    | with_reducible assumption
    | split
    | with_reducible refine vecRun_keep ?_)
theorem execVScaleb_keep {z : State} {pod : Fin 640} {v : VInstr} {s : State} (hz : Keep z s) :
    KeepOut z (execVScaleb pod v s) := by
  unfold execVScaleb; try dsimp only
  (repeat' first
    | with_reducible assumption
    | split
    | with_reducible refine vecRun_keep ?_)
theorem execVAnd_keep {z : State} {pod : Fin 640} {v : VInstr} {s : State} (hz : Keep z s) :
    KeepOut z (execVAnd pod v s) := by
  unfold execVAnd; try dsimp only
  (repeat' first
    | with_reducible assumption
    | split
    | with_reducible refine vecRun_keep ?_)
theorem execVOr_keep {z : State} {pod : Fin 640} {v : VInstr} {s : State} (hz : Keep z s) :
    KeepOut z (execVOr pod v s) := by
  unfold execVOr; try dsimp only
  (repeat' first
    | with_reducible assumption
    | split
    | with_reducible refine vecRun_keep ?_)
theorem execVXor_keep {z : State} {pod : Fin 640} {v : VInstr} {s : State} (hz : Keep z s) :
    KeepOut z (execVXor pod v s) := by
  unfold execVXor; try dsimp only
  (repeat' first
    | with_reducible assumption
    | split
    | with_reducible refine vecRun_keep ?_)
theorem execVShl_keep {z : State} {pod : Fin 640} {v : VInstr} {s : State} (hz : Keep z s) :
    KeepOut z (execVShl pod v s) := by
  unfold execVShl; try dsimp only
  (repeat' first
    | with_reducible assumption
    | split
    | with_reducible refine vecRun_keep ?_)
theorem execVShr_keep {z : State} {pod : Fin 640} {v : VInstr} {s : State} (hz : Keep z s) :
    KeepOut z (execVShr pod v s) := by
  unfold execVShr; try dsimp only
  (repeat' first
    | with_reducible assumption
    | split
    | with_reducible refine vecRun_keep ?_)
theorem execVSra_keep {z : State} {pod : Fin 640} {v : VInstr} {s : State} (hz : Keep z s) :
    KeepOut z (execVSra pod v s) := by
  unfold execVSra; try dsimp only
  (repeat' first
    | with_reducible assumption
    | split
    | with_reducible refine vecRun_keep ?_)
theorem execVMovi_keep {z : State} {pod : Fin 640} {v : VInstr} {s : State} (hz : Keep z s) :
    KeepOut z (execVMovi pod v s) := by
  unfold execVMovi; try dsimp only
  (repeat' first
    | with_reducible assumption
    | split
    | with_reducible refine vecRun_keep ?_)
theorem execVSplat_keep {z : State} {pod : Fin 640} {v : VInstr} {s : State} (hz : Keep z s) :
    KeepOut z (execVSplat pod v s) := by
  unfold execVSplat; try dsimp only
  (repeat' first
    | with_reducible assumption
    | split
    | with_reducible refine vecRun_keep ?_)
theorem execVCmp_keep {z : State} {pod : Fin 640} {v : VInstr} {s : State} (hz : Keep z s) :
    KeepOut z (execVCmp pod v s) := by
  unfold execVCmp; try dsimp only
  (repeat' first
    | with_reducible assumption
    | split
    | with_reducible refine vecRun_keep ?_)
theorem execVSel_keep {z : State} {pod : Fin 640} {v : VInstr} {s : State} (hz : Keep z s) :
    KeepOut z (execVSel pod v s) := by
  unfold execVSel; try dsimp only
  (repeat' first
    | with_reducible assumption
    | split
    | with_reducible refine vecRun_keep ?_)
theorem execVCvt_keep {z : State} {pod : Fin 640} {v : VInstr} {s : State} (hz : Keep z s) :
    KeepOut z (execVCvt pod v s) := by
  unfold execVCvt; try dsimp only
  (repeat' first
    | with_reducible assumption
    | split
    | with_reducible refine vecRun_keep ?_)
theorem execVUnpack_keep {z : State} {pod : Fin 640} {v : VInstr} {s : State} (hz : Keep z s) :
    KeepOut z (execVUnpack pod v s) := by
  unfold execVUnpack; try dsimp only
  (repeat' first
    | with_reducible assumption
    | split
    | with_reducible refine vecRun_keep ?_)
theorem execVRsum_keep {z : State} {pod : Fin 640} {v : VInstr} {s : State} (hz : Keep z s) :
    KeepOut z (execVRsum pod v s) := by
  unfold execVRsum; try dsimp only
  (repeat' first
    | with_reducible assumption
    | split
    | with_reducible refine vecRun_keep ?_)
theorem execVRmax_keep {z : State} {pod : Fin 640} {v : VInstr} {s : State} (hz : Keep z s) :
    KeepOut z (execVRmax pod v s) := by
  unfold execVRmax; try dsimp only
  (repeat' first
    | with_reducible assumption
    | split
    | with_reducible refine vecRun_keep ?_)
theorem execVRmin_keep {z : State} {pod : Fin 640} {v : VInstr} {s : State} (hz : Keep z s) :
    KeepOut z (execVRmin pod v s) := by
  unfold execVRmin; try dsimp only
  (repeat' first
    | with_reducible assumption
    | split
    | with_reducible refine vecRun_keep ?_)
theorem execVRargmax_keep {z : State} {pod : Fin 640} {v : VInstr} {s : State} (hz : Keep z s) :
    KeepOut z (execVRargmax pod v s) := by
  unfold execVRargmax; try dsimp only
  (repeat' first
    | with_reducible assumption
    | split
    | with_reducible refine vecRun_keep ?_)
theorem execVExp2_keep {z : State} {pod : Fin 640} {v : VInstr} {s : State} (hz : Keep z s) :
    KeepOut z (execVExp2 pod v s) := by
  unfold execVExp2; try dsimp only
  (repeat' first
    | with_reducible assumption
    | split
    | with_reducible refine vecRun_keep ?_)
theorem execVLog2_keep {z : State} {pod : Fin 640} {v : VInstr} {s : State} (hz : Keep z s) :
    KeepOut z (execVLog2 pod v s) := by
  unfold execVLog2; try dsimp only
  (repeat' first
    | with_reducible assumption
    | split
    | with_reducible refine vecRun_keep ?_)
theorem execVRcp_keep {z : State} {pod : Fin 640} {v : VInstr} {s : State} (hz : Keep z s) :
    KeepOut z (execVRcp pod v s) := by
  unfold execVRcp; try dsimp only
  (repeat' first
    | with_reducible assumption
    | split
    | with_reducible refine vecRun_keep ?_)
theorem execVRsqrt_keep {z : State} {pod : Fin 640} {v : VInstr} {s : State} (hz : Keep z s) :
    KeepOut z (execVRsqrt pod v s) := by
  unfold execVRsqrt; try dsimp only
  (repeat' first
    | with_reducible assumption
    | split
    | with_reducible refine vecRun_keep ?_)
theorem execVTanh_keep {z : State} {pod : Fin 640} {v : VInstr} {s : State} (hz : Keep z s) :
    KeepOut z (execVTanh pod v s) := by
  unfold execVTanh; try dsimp only
  (repeat' first
    | with_reducible assumption
    | split
    | with_reducible refine vecRun_keep ?_)
theorem execVErf_keep {z : State} {pod : Fin 640} {v : VInstr} {s : State} (hz : Keep z s) :
    KeepOut z (execVErf pod v s) := by
  unfold execVErf; try dsimp only
  (repeat' first
    | with_reducible assumption
    | split
    | with_reducible refine vecRun_keep ?_)
theorem execVPerm_keep {z : State} {pod : Fin 640} {v : VInstr} {s : State} (hz : Keep z s) :
    KeepOut z (execVPerm pod v s) := by
  unfold execVPerm; try dsimp only
  (repeat' first
    | with_reducible assumption
    | split
    | with_reducible refine vecRun_keep ?_)
theorem execVRot_keep {z : State} {pod : Fin 640} {v : VInstr} {s : State} (hz : Keep z s) :
    KeepOut z (execVRot pod v s) := by
  unfold execVRot; try dsimp only
  (repeat' first
    | with_reducible assumption
    | split
    | with_reducible refine vecRun_keep ?_)
theorem execVFunnel_keep {z : State} {pod : Fin 640} {v : VInstr} {s : State} (hz : Keep z s) :
    KeepOut z (execVFunnel pod v s) := by
  unfold execVFunnel; try dsimp only
  (repeat' first
    | with_reducible assumption
    | split
    | with_reducible refine vecRun_keep ?_)
theorem execVZip_keep {z : State} {pod : Fin 640} {v : VInstr} {s : State} (hz : Keep z s) :
    KeepOut z (execVZip pod v s) := by
  unfold execVZip; try dsimp only
  (repeat' first
    | with_reducible assumption
    | split
    | with_reducible refine vecRun_keep ?_)
theorem execVUnzip_keep {z : State} {pod : Fin 640} {v : VInstr} {s : State} (hz : Keep z s) :
    KeepOut z (execVUnzip pod v s) := by
  unfold execVUnzip; try dsimp only
  (repeat' first
    | with_reducible assumption
    | split
    | with_reducible refine vecRun_keep ?_)
theorem execVRecv_keep {z : State} {pod : Fin 640} {v : VInstr} {s : State} (hz : Keep z s) :
    KeepOut z (execVRecv pod v s) := by
  unfold execVRecv; try dsimp only
  (repeat' first
    | with_reducible assumption
    | split
    | with_reducible refine vecRun_keep ?_)
theorem execVSend_keep {z : State} {pod : Fin 640} {v : VInstr} {s : State} (hz : Keep z s) :
    KeepOut z (execVSend pod v s) := by
  unfold execVSend; try dsimp only
  (repeat' first
    | with_reducible assumption
    | split
    | with_reducible refine vecRun_keep ?_)
theorem execVEmit_keep {z : State} {pod : Fin 640} {v : VInstr} {s : State} (hz : Keep z s) :
    KeepOut z (execVEmit pod v s) := by
  unfold execVEmit; try dsimp only
  (repeat' first
    | with_reducible assumption
    | split
    | with_reducible refine vecRun_keep ?_)
@[simp] theorem sendPair_keep {z : State} {s : State} {k : Nat} {c : Chan} (hz : Keep z s) :
    Keep z (sendPair s k c) := by
  unfold sendPair; simp [hz]
theorem execChanOpen_keep {z : State} {fn : Fn} {s : State} (hz : Keep z s) :
    KeepOut z (execChanOpen fn s) := by
  unfold execChanOpen; try dsimp only
  (repeat' first
    | with_reducible assumption
    | (with_reducible refine map_getD_keep ?_ (fun _ _ => ?_))
    | (with_reducible refine getD_keep ?_ (fun _ _ => ?_))
    | split
    | ((with_reducible refine withCmd_keep (fun _ _ _ => ?_) ?_); try dsimp only)
    | with_reducible refine finish_keep ?_
    | with_reducible refine finishOk_keep ?_
    | with_reducible refine sendPair_keep ?_
    | with_reducible refine State_setChan_keep ?_
    | with_reducible refine chanEvent_keep ?_)
theorem execChanClose_keep {z : State} {fn : Fn} {s : State} (hz : Keep z s) :
    KeepOut z (execChanClose fn s) := by
  unfold execChanClose; try dsimp only
  (repeat' first
    | with_reducible assumption
    | split
    | ((with_reducible refine withCmd_keep (fun _ _ _ => ?_) ?_); try dsimp only)
    | with_reducible refine finishSt_keep ?_
    | with_reducible refine sendClose_keep ?_
    | with_reducible refine raiseAt_keep ?_
    | with_reducible refine State_freeChan_keep ?_
    | with_reducible refine finishOk_keep ?_)
theorem execChanQuery_keep {z : State} {fn : Fn} {s : State} (hz : Keep z s) :
    KeepOut z (execChanQuery fn s) := by
  unfold execChanQuery; try dsimp only
  (repeat' first
    | with_reducible assumption
    | split
    | ((with_reducible refine withCmd_keep (fun _ _ _ => ?_) ?_); try dsimp only)
    | with_reducible refine finishOk_keep ?_
    | with_reducible refine finishSt_keep ?_)
theorem execPairRecordRepeat_keep {z : State} {chan : Fin 256} {s : State} (hz : Keep z s) :
    KeepOut z (execPairRecordRepeat chan s) := by
  unfold execPairRecordRepeat; try dsimp only
  (repeat' first
    | with_reducible assumption
    | split
    | with_reducible refine sendPair_keep ?_
    | simp only [keepOut_next])
theorem execPairRecordReceive_keep {z : State} {m : MsgRec} {s : State} (hz : Keep z s) :
    KeepOut z (execPairRecordReceive m s) := by
  unfold execPairRecordReceive; try dsimp only
  (repeat' first
    | with_reducible assumption
    | split
    | with_reducible refine sendPair_keep ?_
    | with_reducible refine chanEvent_keep ?_
    | with_reducible refine State_setChan_keep ?_
    | with_reducible refine closedEvent_keep ?_
    | simp only [keepOut_next])
@[simp] theorem remoteNack_keep {z : State} {s : State} {k : Nat} {tag : W16} {seq : W16} (hz : Keep z s) :
    Keep z (remoteNack s k tag seq) := by
  unfold remoteNack; simp [hz]
@[simp] theorem takeRecord_keep {z : State} {s : State} {k : Nat} {m : Message} (hz : Keep z s) :
    Keep z (takeRecord s k m) := by
  unfold takeRecord; try dsimp only
  (repeat' first
    | with_reducible assumption
    | split
    | with_reducible refine State_setChan_keep ?_
    | with_reducible refine remoteNack_keep ?_
    | with_reducible refine enterQueue_keep ?_)
@[simp] theorem takeEarly_keep {z : State} {n : Nat} {s : State} {k : Nat} (hz : Keep z s) :
    Keep z (takeEarly n s k) := by
  induction n generalizing s with
  | zero => simpa [takeEarly]
  | succ n ih => unfold takeEarly; dsimp only; split <;> (try apply ih) <;> simp [*]
theorem execMessageRecordReceive_keep {z : State} {m : MsgRec} {s : State} (hz : Keep z s) :
    KeepOut z (execMessageRecordReceive m s) := by
  unfold execMessageRecordReceive; try dsimp only
  (repeat' first
    | with_reducible assumption
    | split
    | with_reducible refine takeEarly_keep ?_
    | with_reducible refine takeRecord_keep ?_
    | with_reducible refine State_setChan_keep ?_
    | simp only [keepOut_next])
theorem execCreditRecordReceive_keep {z : State} {m : MsgRec} {s : State} (hz : Keep z s) :
    KeepOut z (execCreditRecordReceive m s) := by
  unfold execCreditRecordReceive; try dsimp only
  (repeat' first
    | with_reducible assumption
    | split
    | with_reducible refine State_setChan_keep ?_
    | simp only [keepOut_next])
theorem execNackFullReceive_keep {z : State} {m : MsgRec} {s : State} (hz : Keep z s) :
    KeepOut z (execNackFullReceive m s) := by
  unfold execNackFullReceive; try dsimp only
  (repeat' first
    | with_reducible assumption
    | split
    | with_reducible refine nackTo_keep ?_
    | with_reducible refine State_setChan_keep ?_
    | simp only [keepOut_next])
theorem execCloseRecordReceive_keep {z : State} {m : MsgRec} {s : State} (hz : Keep z s) :
    KeepOut z (execCloseRecordReceive m s) := by
  unfold execCloseRecordReceive; try dsimp only
  (repeat' first
    | with_reducible assumption
    | split
    | with_reducible refine loseEnds_keep ?_
    | simp only [keepOut_next])
@[simp] theorem hostSend_keep {z : State} {s : State} {fn port : Nat} {value : W32} (hz : Keep z s) :
    Keep z (hostSend s fn port value) := by
  unfold hostSend; try dsimp only
  (repeat' first
    | with_reducible assumption
    | split
    | with_reducible refine State_setPage_keep ?_
    | with_reducible refine chanSend_keep ?_
    | with_reducible refine State_setChan_keep ?_)
theorem execChTxSend_keep {z : State} {fn : Fn} {port : Fin 16} {value : W32} {s : State} (hz : Keep z s) :
    KeepOut z (execChTxSend fn port value s) := by
  unfold execChTxSend; simp [hz]
@[simp] theorem readOut_keep {z : State} {s : State} {v : W32} (hz : Keep z s) :
    Keep z (readOut s v) := by
  unfold readOut; simp [hz]
@[simp] theorem hostPop_keep {z : State} {s : State} {fn port : Nat} (hz : Keep z s) :
    Keep z (hostPop s fn port) := by
  unfold hostPop; try dsimp only
  (repeat' first
    | with_reducible assumption
    | split
    | with_reducible refine popMessage_keepE ?_ ‹_›
    | with_reducible refine readOut_keep ?_
    | with_reducible refine State_setPage_keep ?_)
@[simp] theorem hostNackPop_keep {z : State} {s : State} {fn : Nat} (hz : Keep z s) :
    Keep z (hostNackPop s fn) := by
  unfold hostNackPop; simp [hz]
theorem execChRxPop_keep {z : State} {fn : Fn} {port : Fin 16} {s : State} (hz : Keep z s) :
    KeepOut z (execChRxPop fn port s) := by
  unfold execChRxPop; simp [hz]
theorem execChNackPop_keep {z : State} {fn : Fn} {s : State} (hz : Keep z s) :
    KeepOut z (execChNackPop fn s) := by
  unfold execChNackPop; simp [hz]
@[simp] theorem sproutChSend_keep {z : State} {s : State} {rg p : Nat} {value : W32} (hz : Keep z s) :
    KeepO z (sproutChSend s rg p value) := by
  unfold sproutChSend; try dsimp only
  (repeat' first
    | with_reducible assumption
    | split
    | with_reducible refine State_setSprout_keep ?_
    | with_reducible refine State_setChan_keep ?_
    | with_reducible refine chanSend_keep ?_
    | simp only [keepO_none, keepO_some])
theorem sproutChSend_keepE {z : State} {s : State} {rg p : Nat} {value : W32}  {w9 : State} (hz : Keep z s)
    (e9 : sproutChSend s rg p value = some w9) : Keep z w9 := by
  have h := sproutChSend_keep (z := z) (s := s) (rg := rg) (p := p) (value := value) hz; simp only [KeepO] at h; rw [e9] at h; simpa using h
@[simp] theorem setX_keep {z : State} {s : State} {rg rd : Nat} {v : W32} (hz : Keep z s) :
    Keep z (setX s rg rd v) := by
  unfold setX; (repeat' split) <;> simp [*]
@[simp] theorem retireTo_keep {z : State} {s : State} {rg : Nat} {pc : W32} {ac : Nat} (hz : Keep z s) :
    Keep z (retireTo s rg pc ac) := by
  unfold retireTo; simp [hz]
@[simp] theorem retireSp_keep {z : State} {s : State} {rg : Nat} (hz : Keep z s) :
    Keep z (retireSp s rg) := by
  unfold retireSp; simp [hz]
theorem execSpChSend_keep {z : State} {rg : Fin 16} {value : W32} {s : State} (hz : Keep z s) :
    KeepOut z (execSpChSend rg value s) := by
  unfold execSpChSend; try dsimp only
  (repeat' first
    | with_reducible assumption
    | split
    | with_reducible refine sproutChSend_keepE ?_ ‹_›
    | with_reducible refine retireSp_keep ?_
    | with_reducible refine State_setSprout_keep ?_
    | simp only [keepOut_next])
theorem execSpChSendUnblock_keep {z : State} {rg : Fin 16} {s : State} (hz : Keep z s) :
    KeepOut z (execSpChSendUnblock rg s) := by
  unfold execSpChSendUnblock; try dsimp only
  (repeat' first
    | with_reducible assumption
    | split
    | with_reducible refine sproutChSend_keepE ?_ ‹_›
    | with_reducible refine retireSp_keep ?_
    | with_reducible refine setX_keep ?_
    | simp only [keepOut_next])
@[simp] theorem sproutChRx_keep {z : State} {s : State} {rg p : Nat} (hz : Keep z s) :
    Keep z (sproutChRx s rg p).2 := by
  unfold sproutChRx; try dsimp only
  (repeat' first
    | with_reducible assumption
    | split
    | with_reducible refine popMessage_keepE ?_ ‹_›
    | with_reducible refine State_setSprout_keep ?_)
theorem sproutChRx_keepE {z : State} {s : State} {rg p : Nat} {u9 : _} {w9 : State} (hz : Keep z s)
    (e9 : sproutChRx s rg p = (u9, w9)) : Keep z w9 := by
  have h := sproutChRx_keep (z := z) (s := s) (rg := rg) (p := p) hz; rw [e9] at h; simpa using h
theorem execSpChRx_keep {z : State} {rg : Fin 16} {rd : Fin 32} {s : State} (hz : Keep z s) :
    KeepOut z (execSpChRx rg rd s) := by
  unfold execSpChRx; try dsimp only
  (repeat' first
    | with_reducible assumption
    | split
    | with_reducible refine sproutChRx_keepE ?_ ‹_›
    | with_reducible refine sproutChRx_keep ?_
    | with_reducible refine retireSp_keep ?_
    | with_reducible refine setX_keep ?_
    | simp only [keepOut_next])
@[simp] theorem sproutChNack_keep {z : State} {s : State} {p : Nat} (hz : Keep z s) :
    Keep z (sproutChNack s p).2 := by
  unfold sproutChNack; simp [hz]
theorem sproutChNack_keepE {z : State} {s : State} {p : Nat} {u9 : _} {w9 : State} (hz : Keep z s)
    (e9 : sproutChNack s p = (u9, w9)) : Keep z w9 := by
  have h := sproutChNack_keep (z := z) (s := s) (p := p) hz; rw [e9] at h; simpa using h
theorem execSpChNack_keep {z : State} {rg : Fin 16} {rd : Fin 32} {s : State} (hz : Keep z s) :
    KeepOut z (execSpChNack rg rd s) := by
  unfold execSpChNack; try dsimp only
  (repeat' first
    | with_reducible assumption
    | split
    | with_reducible refine sproutChNack_keepE ?_ ‹_›
    | with_reducible refine sproutChNack_keep ?_
    | with_reducible refine retireSp_keep ?_
    | with_reducible refine setX_keep ?_
    | simp only [keepOut_next])
theorem execMessageDelivery_keep {z : State} {chan : Fin 256} {s : State} (hz : Keep z s) :
    KeepOut z (execMessageDelivery chan s) := by
  unfold execMessageDelivery; try dsimp only
  (repeat' first
    | with_reducible assumption
    | split
    | with_reducible refine relay_keep ?_
    | with_reducible refine State_setChan_keep ?_
    | with_reducible refine nackTo_keep ?_
    | with_reducible refine enterQueue_keep ?_
    | simp only [keepOut_next])
theorem execCreditReturn_keep {z : State} {chan : Fin 256} {s : State} (hz : Keep z s) :
    KeepOut z (execCreditReturn chan s) := by
  unfold execCreditReturn; try dsimp only
  (repeat' first
    | with_reducible assumption
    | split
    | with_reducible refine State_setChan_keep ?_
    | with_reducible refine portIrq_keep ?_
    | simp only [keepOut_next])
theorem execMsgRecordTransmit_keep {z : State} {port : Fin 16} {s : State} (hz : Keep z s) :
    KeepOut z (execMsgRecordTransmit port s) := by
  unfold execMsgRecordTransmit; try dsimp only
  (repeat' first
    | with_reducible assumption
    | split
    | with_reducible refine State_setPort_keep ?_
    | with_reducible refine State_setPt_keep ?_
    | with_reducible refine enqueueFlits_keep ?_
    | simp only [keepOut_next])
theorem execCreditRecordTimer_keep {z : State} {chan : Fin 256} {s : State} (hz : Keep z s) :
    KeepOut z (execCreditRecordTimer chan s) := by
  unfold execCreditRecordTimer; try dsimp only
  (repeat' first
    | with_reducible assumption
    | split
    | with_reducible refine State_setChan_keep ?_
    | with_reducible refine msgRecord_keep ?_
    | simp only [keepOut_next])
theorem execChannelRouteTimeout_keep {z : State} {chan : Fin 256} {s : State} (hz : Keep z s) :
    KeepOut z (execChannelRouteTimeout chan s) := by
  unfold execChannelRouteTimeout; try dsimp only
  (repeat' first
    | with_reducible assumption
    | split
    | with_reducible refine loseEnds_keep ?_
    | simp only [keepOut_next])
theorem execMsgGapTimeout_keep {z : State} {chan : Fin 256} {s : State} (hz : Keep z s) :
    KeepOut z (execMsgGapTimeout chan s) := by
  unfold execMsgGapTimeout; try dsimp only
  (repeat' first
    | with_reducible assumption
    | split
    | with_reducible refine loseEnds_keep ?_
    | with_reducible refine sendClose_keep ?_
    | simp only [keepOut_next])

end Sys2Proof.Machine
end

