-- ==== Sys2Proof/Laws/Keep6.lean ====
section
/-! SUPPORT. Keep, of the operations and meanings of Clocks, CompanionSpi, Energy, Partitions, Regions, Gating, Hub, Images, Jtag, LinkPorts, Link. -/

namespace Sys2Proof.Machine

theorem execFclkDividerChange_keep {z : State} {s : State} (hz : Keep z s) :
    KeepOut z (execFclkDividerChange s) := by
  unfold execFclkDividerChange; dsimp only
  split
  · exact keepOut_next.2 hz
  · rename_i d hd
    split
    · exact keepOut_next.2 hz
    · have h1 : Keep z { s with clk := { s.clk with div := d, divReq := none, phase := 0 } } :=
        keep_mk.2 (keepF_of hz (fun i => ⟨⟨i.1.2 d hd, by simp⟩, i.2⟩))
      have h2 : Keep z { s with clk := { s.clk with div := d, divReq := none, phase := 0 }, pow := { s.pow with lastRise := s.time } } :=
        keep_mk.2 (keepF_of hz (fun i => ⟨⟨i.1.2 d hd, by simp⟩, i.2⟩))
      refine nextPow_keep (keep_ite (fun _ => vregWrite_keep ?_) (fun _ => ?_))
      · exact keep_ite (fun _ => h2) (fun _ => h1)
      · exact keep_ite (fun _ => h2) (fun _ => h1)
theorem execDroopStretchStart_keep {z : State} {s : State} (hz : Keep z s) :
    KeepOut z (execDroopStretchStart s) := by
  unfold execDroopStretchStart; try dsimp only
  (repeat' first
    | with_reducible assumption
    | split
    | with_reducible refine nextPow_keep ?_
    | simp only [keep_mk, keep_eta, keepOut_next])
theorem execDroopStretchEnd_keep {z : State} {s : State} (hz : Keep z s) :
    KeepOut z (execDroopStretchEnd s) := by
  unfold execDroopStretchEnd; try dsimp only
  (repeat' first
    | with_reducible assumption
    | split
    | with_reducible refine nextPow_keep ?_
    | simp only [keep_mk, keep_eta])
theorem execDroopHold_keep {z : State} {s : State} (hz : Keep z s) :
    KeepOut z (execDroopHold s) := by
  unfold execDroopHold; try dsimp only
  (repeat' first
    | with_reducible assumption
    | split
    | with_reducible refine nextPow_keep ?_
    | with_reducible refine evaluateCeiling_keep ?_
    | simp only [keep_mk, keep_eta, keepOut_next])
theorem execDroopHoldExpiry_keep {z : State} {s : State} (hz : Keep z s) :
    KeepOut z (execDroopHoldExpiry s) := by
  unfold execDroopHoldExpiry; try dsimp only
  (repeat' first
    | with_reducible assumption
    | split
    | with_reducible refine nextPow_keep ?_
    | with_reducible refine evaluateCeiling_keep ?_
    | simp only [keep_mk, keep_eta, keepOut_next])
theorem execFastcapAssert_keep {z : State} {iinA iinB : Int} {s : State} (hz : Keep z s) :
    KeepOut z (execFastcapAssert iinA iinB s) := by
  unfold execFastcapAssert; try dsimp only
  (repeat' first
    | with_reducible assumption
    | split
    | with_reducible refine nextPow_keep ?_
    | with_reducible refine evaluateCeiling_keep ?_
    | simp only [keep_mk, keep_eta, keepOut_next])
theorem execFastcapRelease_keep {z : State} {iinA iinB : Int} {s : State} (hz : Keep z s) :
    KeepOut z (execFastcapRelease iinA iinB s) := by
  unfold execFastcapRelease; try dsimp only
  (repeat' first
    | with_reducible assumption
    | split
    | with_reducible refine nextPow_keep ?_
    | with_reducible refine evaluateCeiling_keep ?_
    | simp only [keep_mk, keep_eta, keepOut_next])
theorem execFclkCeilingEvaluation_keep {z : State} {pFab mean : Nat} {s : State} (hz : Keep z s) :
    KeepOut z (execFclkCeilingEvaluation pFab mean s) := by
  unfold execFclkCeilingEvaluation; try dsimp only
  (repeat' first
    | with_reducible assumption
    | split
    | with_reducible refine nextPow_keep ?_
    | with_reducible refine evaluateCeiling_keep ?_
    | with_reducible refine tellCap_keep ?_
    | simp only [keep_mk, keep_eta, keepOut_next])
@[simp] theorem thermalLimit_keep {z : State} {s : State} {which n : Nat} {t : Int} (hz : Keep z s) :
    Keep z (thermalLimit s which n t) := by
  unfold thermalLimit; (repeat' split) <;> simp [*]
theorem execThermalCeilingUpdate_keep {z : State} {die hbm : Int} {s : State} (hz : Keep z s) :
    KeepOut z (execThermalCeilingUpdate die hbm s) := by
  unfold execThermalCeilingUpdate; try dsimp only
  (repeat' first
    | with_reducible assumption
    | split
    | with_reducible refine nextPow_keep ?_
    | with_reducible refine thermalLimit_keep ?_
    | simp only [keep_mk, keep_eta, keepOut_next])
@[simp] theorem cpLatch_keep {z : State} {s : State} {a : Nat} (hz : Keep z s) :
    Keep z (cpLatch s a) := by
  unfold cpLatch; (repeat' split) <;> simp [*]
@[simp] theorem spiWords_keep {z : State} {n : Nat} {s : State} {a : Nat} {acc : List W32} (hz : Keep z s) :
    Keep z (spiWords n s a acc).1 := by
  induction n generalizing s a acc with
  | zero => simpa only [spiWords]
  | succ n ih => unfold spiWords; exact ih (cpLatch_keep hz)
theorem execCompanionSpiRead_keep {z : State} {addr count : Nat} {s : State} (hz : Keep z s) :
    KeepOut z (execCompanionSpiRead addr count s) := by
  unfold execCompanionSpiRead; (repeat' split) <;> simp [*]
@[simp] theorem cpWrite_keep {z : State} {s : State} {a : Nat} {v : W32} (hz : Keep z s) :
    Keep z (cpWrite s a v) := by
  unfold cpWrite; dsimp only
  refine keep_ite (fun _ => by rw [keep_mk]; exact keepF_of hz (fun i => i)) (fun _ => ?_)
  refine keep_ite (fun _ => by rw [keep_mk]; exact keepF_of hz (fun i => i)) (fun _ => ?_)
  refine keep_ite (fun _ => by rw [keep_mk]; exact keepF_of hz (fun i => i)) (fun _ => ?_)
  refine keep_ite (fun _ => by rw [keep_mk]; exact keepF_of hz (fun i => i)) (fun _ => ?_)
  refine keep_ite (fun _ => by rw [keep_mk]; exact keepF_of hz (fun i => i)) (fun _ => ?_)
  refine keep_ite (fun _ => keep_ite (fun h => by rw [keep_mk]; exact keepF_of hz (fun i => ⟨i.1, i.2.1, h, i.2.2.2⟩)) (fun _ => hz)) (fun _ => ?_)
  refine keep_ite (fun _ => keep_ite (fun h => by rw [keep_mk]; exact keepF_of hz (fun i => ⟨i.1, i.2.1, i.2.2.1, h, i.2.2.2.2⟩)) (fun _ => hz)) (fun _ => ?_)
  refine keep_ite (fun _ => keep_ite (fun h => by rw [keep_mk]; exact keepF_of hz (fun i => i)) (fun _ => hz)) (fun _ => ?_)
  exact keep_ite (fun _ => by rw [keep_mk]; exact keepF_of hz (fun i => i)) (fun _ => hz)
theorem execCompanionSpiWrite_keep {z : State} {addr : Nat} {data : List W32} {crcGood : Bool} {s : State} (hz : Keep z s) :
    KeepOut z (execCompanionSpiWrite addr data crcGood s) := by
  unfold execCompanionSpiWrite; try dsimp only
  (repeat' first
    | with_reducible assumption
    | (with_reducible refine foldl_keep (fun _ _ _ => ?_) _ ?_; try dsimp only)
    | split
    | with_reducible refine cpWrite_keep ?_
    | simp only [keep_mk, keep_eta, keepOut_next])
theorem addEstimate_settings (a b : Nat) : ∀ (l : List Estimate) (p : Power), (l.foldl (addEstimate a b) p).localCap = p.localCap ∧
    (l.foldl (addEstimate a b) p).maxDiv = p.maxDiv ∧ (l.foldl (addEstimate a b) p).fastcapDiv = p.fastcapDiv
  | [], _ => ⟨rfl, rfl, rfl⟩
  | x :: r, p => by
    have h : (addEstimate a b p x).localCap = p.localCap ∧ (addEstimate a b p x).maxDiv = p.maxDiv ∧ (addEstimate a b p x).fastcapDiv = p.fastcapDiv := by
      unfold addEstimate addJob; dsimp only; (repeat' split) <;> exact ⟨rfl, rfl, rfl⟩
    have := addEstimate_settings a b r (addEstimate a b p x)
    exact ⟨this.1.trans h.1, this.2.1.trans h.2.1, this.2.2.trans h.2.2⟩
theorem drawEnergy_settings (s : State) (l) : (drawEnergy s l).localCap = s.pow.localCap ∧ (drawEnergy s l).maxDiv = s.pow.maxDiv ∧ (drawEnergy s l).fastcapDiv = s.pow.fastcapDiv := by
  unfold drawEnergy; dsimp only
  split <;> exact addEstimate_settings _ _ _ _
theorem execEnergyAttribution_keep {z : State} {slice : EnergySlice} {s : State} (hz : Keep z s) :
    KeepOut z (execEnergyAttribution slice s) := by
  unfold execEnergyAttribution; split
  · exact keepOut_next.2 (keep_mk.2 (keepF_pow hz (drawEnergy_settings s _)))
  · exact keepOut_next.2 hz
theorem execPowerEnergy_keep {z : State} {fn : Fn} {s : State} (hz : Keep z s) :
    KeepOut z (execPowerEnergy fn s) := by
  unfold execPowerEnergy; try dsimp only
  (repeat' first
    | with_reducible assumption
    | (with_reducible refine foldl_keep (fun _ _ _ => ?_) _ ?_)
    | split
    | ((with_reducible refine withCmd_keep (fun _ _ _ => ?_) ?_); try dsimp only)
    | with_reducible refine finishSt_keep ?_
    | with_reducible refine finishOk_keep ?_
    | simp only [keep_mk, keep_eta])
@[simp] theorem powerRegions_keep {z : State} {s : State} {rgs : List Nat} (hz : Keep z s) :
    Keep z (powerRegions s rgs) := by
  unfold powerRegions; simp [hz]
@[simp] theorem whenZeroed_keep {z : State} {s : State} {fn id : Nat} {rgs parts : List Nat} {payload : List Byte} (hz : Keep z s) :
    Keep z (whenZeroed s fn id rgs parts payload) := by
  unfold whenZeroed; try dsimp only
  (repeat' first
    | with_reducible assumption
    | (with_reducible refine foldl_keep (fun _ _ _ => ?_) _ ?_; try dsimp only)
    | split
    | with_reducible refine finishOk_keep ?_
    | with_reducible refine fenceOpen_keep ?_
    | with_reducible refine begun_keep ?_
    | simp only [keep_mk, keep_eta])
theorem execPartCreate_keep {z : State} {fn : Fn} {s : State} (hz : Keep z s) :
    KeepOut z (execPartCreate fn s) := by
  unfold execPartCreate; try dsimp only
  (repeat' first
    | with_reducible assumption
    | split
    | ((with_reducible refine withCmd_keep (fun _ _ _ => ?_) ?_); try dsimp only)
    | with_reducible refine finishSt_keep ?_
    | with_reducible refine partState_keep ?_
    | with_reducible refine powerRegions_keep ?_
    | with_reducible refine State_setPt_keep ?_
    | with_reducible refine whenZeroed_keep ?_)
theorem execPartDestroy_keep {z : State} {fn : Fn} {s : State} (hz : Keep z s) :
    KeepOut z (execPartDestroy fn s) := by
  unfold execPartDestroy; try dsimp only
  (repeat' first
    | with_reducible assumption
    | split
    | ((with_reducible refine withPart_keep (fun _ _ _ _ => ?_) ?_); try dsimp only)
    | with_reducible refine finishSt_keep ?_
    | with_reducible refine beginReset_keep ?_
    | with_reducible refine begun_keep ?_)
theorem execPartAssign_keep {z : State} {fn : Fn} {s : State} (hz : Keep z s) :
    KeepOut z (execPartAssign fn s) := by
  unfold execPartAssign; try dsimp only
  (repeat' first
    | with_reducible assumption
    | split
    | ((with_reducible refine withPart_keep (fun _ _ _ _ => ?_) ?_); try dsimp only)
    | with_reducible refine finishSt_keep ?_
    | with_reducible refine finishOk_keep ?_
    | with_reducible refine State_setPt_keep ?_)
theorem execPartQuery_keep {z : State} {fn : Fn} {s : State} (hz : Keep z s) :
    KeepOut z (execPartQuery fn s) := by
  unfold execPartQuery; try dsimp only
  (repeat' first
    | with_reducible assumption
    | split
    | ((with_reducible refine withCmd_keep (fun _ _ _ => ?_) ?_); try dsimp only)
    | with_reducible refine finishOk_keep ?_)
theorem execPartSetShare_keep {z : State} {fn : Fn} {s : State} (hz : Keep z s) :
    KeepOut z (execPartSetShare fn s) := by
  unfold execPartSetShare; try dsimp only
  (repeat' first
    | with_reducible assumption
    | (with_reducible refine foldl_keep (fun _ _ _ => ?_) _ ?_)
    | (with_reducible refine map_getD_keep ?_ (fun _ _ => ?_))
    | (with_reducible refine getD_keep ?_ (fun _ _ => ?_))
    | split
    | ((with_reducible refine withCmd_keep (fun _ _ _ => ?_) ?_); try dsimp only)
    | with_reducible refine finishSt_keep ?_
    | with_reducible refine finishOk_keep ?_
    | with_reducible refine State_setPt_keep ?_)
theorem execPartSave_keep {z : State} {fn : Fn} {s : State} (hz : Keep z s) :
    KeepOut z (execPartSave fn s) := by
  unfold execPartSave; try dsimp only
  (repeat' first
    | with_reducible assumption
    | split
    | with_reducible refine nextN_keep ?_
    | with_reducible refine doSave_keep ?_
    | ((with_reducible refine withPart_keep (fun _ _ _ _ => ?_) ?_); try dsimp only)
    | with_reducible refine finishSt_keep ?_
    | with_reducible refine accept_keep ?_
    | with_reducible refine State_setPt_keep ?_)
theorem execPartResume_keep {z : State} {fn : Fn} {s : State} (hz : Keep z s) :
    KeepOut z (execPartResume fn s) := by
  unfold execPartResume; try dsimp only
  (repeat' first
    | with_reducible assumption
    | (with_reducible refine map_getD_keep ?_ (fun _ _ => ?_))
    | (with_reducible refine getD_keep ?_ (fun _ _ => ?_))
    | split
    | with_reducible refine nextN_keep ?_
    | with_reducible refine doResume_keep ?_
    | ((with_reducible refine withPart_keep (fun _ _ _ _ => ?_) ?_); try dsimp only)
    | with_reducible refine finishSt_keep ?_
    | with_reducible refine accept_keep ?_
    | with_reducible refine powerRegions_keep ?_
    | with_reducible refine State_setPt_keep ?_
    | simp only [keepOut_next])
theorem execPartReset_keep {z : State} {fn : Fn} {s : State} (hz : Keep z s) :
    KeepOut z (execPartReset fn s) := by
  unfold execPartReset; try dsimp only
  (repeat' first
    | with_reducible assumption
    | split
    | ((with_reducible refine withPart_keep (fun _ _ _ _ => ?_) ?_); try dsimp only)
    | with_reducible refine beginReset_keep ?_
    | with_reducible refine begun_keep ?_)
@[simp] theorem powerDrain_keep {z : State} {s : State} {p fn id : Nat} (hz : Keep z s) :
    Keep z (powerDrain s p fn id) := by
  unfold powerDrain; try dsimp only
  (repeat' first
    | with_reducible assumption
    | split
    | with_reducible refine endSave_keep ?_
    | with_reducible refine fenceTo_keep ?_
    | with_reducible refine partState_keep ?_
    | with_reducible refine State_setPt_keep ?_)
theorem execPartPowerOff_keep {z : State} {fn : Fn} {s : State} (hz : Keep z s) :
    KeepOut z (execPartPowerOff fn s) := by
  unfold execPartPowerOff; try dsimp only
  (repeat' first
    | with_reducible assumption
    | split
    | ((with_reducible refine withPart_keep (fun _ _ _ _ => ?_) ?_); try dsimp only)
    | with_reducible refine finishSt_keep ?_
    | with_reducible refine finishOk_keep ?_
    | with_reducible refine powerDrain_keep ?_
    | with_reducible refine epochIncomplete_keep ?_
    | with_reducible refine begun_keep ?_
    | simp only [keepOut_next])
theorem execPartPowerOn_keep {z : State} {fn : Fn} {s : State} (hz : Keep z s) :
    KeepOut z (execPartPowerOn fn s) := by
  unfold execPartPowerOn; try dsimp only
  (repeat' first
    | with_reducible assumption
    | split
    | ((with_reducible refine withPart_keep (fun _ _ _ _ => ?_) ?_); try dsimp only)
    | with_reducible refine finishSt_keep ?_
    | with_reducible refine finishOk_keep ?_
    | with_reducible refine powerRegions_keep ?_
    | with_reducible refine State_setPt_keep ?_
    | with_reducible refine whenZeroed_keep ?_
    | simp only [keepOut_next])
theorem execMemWindowGrant_keep {z : State} {fn : Fn} {s : State} (hz : Keep z s) :
    KeepOut z (execMemWindowGrant fn s) := by
  unfold execMemWindowGrant; try dsimp only
  (repeat' first
    | with_reducible assumption
    | (with_reducible refine foldl_keep (fun _ _ _ => ?_) _ ?_)
    | split
    | ((with_reducible refine withPart_keep (fun _ _ _ _ => ?_) ?_); try dsimp only)
    | with_reducible refine finishSt_keep ?_
    | with_reducible refine State_setPt_keep ?_
    | with_reducible refine finishOk_keep ?_
    | simp only [keep_mk, keep_eta])
@[simp] theorem loseRings_keep {z : State} {s : State} {p o : Nat} (hz : Keep z s) :
    Keep z (loseRings s p o) := by
  unfold loseRings; try dsimp only
  (repeat' first
    | with_reducible assumption
    | (with_reducible refine forFns_keep (fun _ _ _ => ?_) ?_; try dsimp only)
    | split
    | with_reducible refine forFns_keep ?_
    | with_reducible refine loseSink_keep ?_)
theorem execMemWindowRevoke_keep {z : State} {fn : Fn} {s : State} (hz : Keep z s) :
    KeepOut z (execMemWindowRevoke fn s) := by
  unfold execMemWindowRevoke; try dsimp only
  (repeat' first
    | with_reducible assumption
    | split
    | ((with_reducible refine withPart_keep (fun _ _ _ _ => ?_) ?_); try dsimp only)
    | with_reducible refine finishSt_keep ?_
    | with_reducible refine revokeUnits_keep ?_
    | with_reducible refine State_setPt_keep ?_
    | with_reducible refine finishOk_keep ?_
    | with_reducible refine loseRings_keep ?_)
theorem execWindowZeroingComplete_keep {z : State} {unit : Fin 576} {s : State} (hz : Keep z s) :
    KeepOut z (execWindowZeroingComplete unit s) := by
  unfold execWindowZeroingComplete; dsimp only
  split
  · exact keepOut_next.2 (keep_mk.2 (keepF_hbm hz mclear_wf))
  · exact keepOut_next.2 hz
theorem execDrainWindowExpiry_keep {z : State} {p : Fin 16} {s : State} (hz : Keep z s) :
    KeepOut z (execDrainWindowExpiry p s) := by
  unfold execDrainWindowExpiry; try dsimp only
  (repeat' first
    | with_reducible assumption
    | split
    | with_reducible refine nextN_keep ?_
    | with_reducible refine endPowerDrain_keep ?_
    | simp only [keepOut_next])
theorem execRegulatorRefillTick_keep {z : State} {s : State} (hz : Keep z s) :
    KeepOut z (execRegulatorRefillTick s) := by
  unfold execRegulatorRefillTick; simp [hz]
theorem execRegionQuery_keep {z : State} {fn : Fn} {s : State} (hz : Keep z s) :
    KeepOut z (execRegionQuery fn s) := by
  unfold execRegionQuery; try dsimp only
  (repeat' first
    | with_reducible assumption
    | (with_reducible refine map_getD_keep ?_ (fun _ _ => ?_))
    | (with_reducible refine getD_keep ?_ (fun _ _ => ?_))
    | split
    | ((with_reducible refine withCmd_keep (fun _ _ _ => ?_) ?_); try dsimp only)
    | with_reducible refine finishSt_keep ?_
    | with_reducible refine finishOk_keep ?_)
@[simp] theorem applyMap_keep {z : State} {s : State} {rg s1 s3 : Nat} (hz : Keep z s) :
    Keep z (applyMap s rg s1 s3) := by
  unfold applyMap; try dsimp only
  (repeat' first
    | with_reducible assumption
    | (with_reducible refine foldl_keep (fun _ _ _ => ?_) _ ?_; try dsimp only)
    | split
    | with_reducible refine State_setRgn_keep ?_
    | with_reducible refine podState_keep ?_
    | with_reducible refine writeStore_keep ?_)
theorem execRegionApplyMap_keep {z : State} {fn : Fn} {flashOk : Bool} {s : State} (hz : Keep z s) :
    KeepOut z (execRegionApplyMap fn flashOk s) := by
  unfold execRegionApplyMap; try dsimp only
  (repeat' first
    | with_reducible assumption
    | split
    | ((with_reducible refine flashRow_keep (fun _ _ _ => ?_) ?_); try dsimp only)
    | with_reducible refine applyMap_keep ?_)
theorem execPodQuarantine_keep {z : State} {fn : Fn} {s : State} (hz : Keep z s) :
    KeepOut z (execPodQuarantine fn s) := by
  unfold execPodQuarantine; try dsimp only
  (repeat' first
    | with_reducible assumption
    | (with_reducible refine map_getD_keep ?_ (fun _ _ => ?_))
    | (with_reducible refine getD_keep ?_ (fun _ _ => ?_))
    | split
    | with_reducible refine nextN_keep ?_
    | with_reducible refine finishOk_keep ?_
    | with_reducible refine finishSt_keep ?_
    | with_reducible refine quarantine_keep ?_
    | with_reducible refine raiseFault_keep ?_
    | simp only [keepOut_next])
theorem execPodReturn_keep {z : State} {fn : Fn} {failTest : Option W32} {s : State} (hz : Keep z s) :
    KeepOut z (execPodReturn fn failTest s) := by
  unfold execPodReturn; try dsimp only
  (repeat' first
    | with_reducible assumption
    | split
    | ((with_reducible refine withCmd_keep (fun _ _ _ => ?_) ?_); try dsimp only)
    | with_reducible refine finishSt_keep ?_
    | with_reducible refine accept_keep ?_
    | with_reducible refine dueStore_keep ?_
    | with_reducible refine podState_keep ?_
    | with_reducible refine workDone_keep ?_
    | simp only [keep_mk, keep_eta])
@[simp] theorem forceEpoch_keep {z : State} {s : State} {ps : List Nat} (hz : Keep z s) :
    Keep z (forceEpoch s ps) := by
  unfold forceEpoch; (repeat' split) <;> simp [*]
theorem execPowerRegionGateOn_keep {z : State} {fn : Fn} {s : State} (hz : Keep z s) :
    KeepOut z (execPowerRegionGateOn fn s) := by
  unfold execPowerRegionGateOn; try dsimp only
  (repeat' first
    | with_reducible assumption
    | (with_reducible refine foldl_keep (fun _ _ _ => ?_) _ ?_; try dsimp only)
    | split
    | ((with_reducible refine withCmd_keep (fun _ _ _ => ?_) ?_); try dsimp only)
    | with_reducible refine finishSt_keep ?_
    | with_reducible refine powerRegions_keep ?_
    | with_reducible refine forceEpoch_keep ?_
    | with_reducible refine State_setPt_keep ?_
    | with_reducible refine note_keep ?_
    | with_reducible refine whenZeroed_keep ?_
    | simp only [keepOut_next])
@[simp] theorem retireRegions_keep {z : State} {s : State} {rgs : List Nat} (hz : Keep z s) :
    Keep z (retireRegions s rgs) := by
  unfold retireRegions; simp [hz]
@[simp] theorem gateEnd_keep {z : State} {s : State} {j : GateJob} (hz : Keep z s) :
    Keep z (gateEnd s j) := by
  unfold gateEnd; try dsimp only
  (repeat' first
    | with_reducible assumption
    | split
    | with_reducible refine gateRegions_keep ?_
    | with_reducible refine retireRegions_keep ?_
    | with_reducible refine finishOk_keep ?_
    | simp only [keep_mk, keep_eta])
theorem execPowerRegionGateOff_keep {z : State} {fn : Fn} {s : State} (hz : Keep z s) :
    KeepOut z (execPowerRegionGateOff fn s) := by
  unfold execPowerRegionGateOff; try dsimp only
  (repeat' first
    | with_reducible assumption
    | (with_reducible refine foldl_keep (fun _ _ _ => ?_) _ ?_; try dsimp only)
    | split
    | with_reducible refine nextN_keep ?_
    | with_reducible refine gateEnd_keep ?_
    | ((with_reducible refine withCmd_keep (fun _ _ _ => ?_) ?_); try dsimp only)
    | with_reducible refine finishSt_keep ?_
    | with_reducible refine powerDrain_keep ?_
    | with_reducible refine forceEpoch_keep ?_
    | with_reducible refine begun_keep ?_
    | with_reducible refine note_keep ?_
    | simp only [keep_mk, keep_eta, keepOut_next])
@[simp] theorem runOrIdle_keep {z : State} {s : State} (hz : Keep z s) :
    Keep z (runOrIdle s) := by
  unfold runOrIdle; (repeat' split) <;> simp [*]
theorem execRegionClockUngate_keep {z : State} {rg : Fin 16} {s : State} (hz : Keep z s) :
    KeepOut z (execRegionClockUngate rg s) := by
  unfold execRegionClockUngate; try dsimp only
  (repeat' first
    | with_reducible assumption
    | split
    | with_reducible refine nextN_keep ?_
    | with_reducible refine runOrIdle_keep ?_
    | with_reducible refine State_setRgn_keep ?_
    | simp only [keepOut_next])
theorem execTlpForward_keep {z : State} {ingress : Fin 9} {arrive : Option (Fin 9 × Tlp)} {crcGood credit : Bool} {s : State} (hz : Keep z s) :
    KeepOut z (execTlpForward ingress arrive crcGood credit s) := by
  unfold execTlpForward; try dsimp only
  (repeat' first
    | with_reducible assumption
    | split
    | with_reducible refine arrive_keep ?_
    | simp only [keep_mk, keep_eta, keepOut_next])
theorem execDpcTrigger_keep {z : State} {dp : Fin 8} {s : State} (hz : Keep z s) :
    KeepOut z (execDpcTrigger dp s) := by
  unfold execDpcTrigger; try dsimp only
  (repeat' first
    | with_reducible assumption
    | split
    | with_reducible refine modDp_keep ?_
    | with_reducible refine nextN_keep ?_
    | simp only [keep_mk, keep_eta, keepOut_next])
theorem execNvmeCompletionReceive_keep {z : State} {dp : Fin 8} {cid nvme dw0 dw1 : Nat} {info : DriveInfo} {s : State} (hz : Keep z s) :
    KeepOut z (execNvmeCompletionReceive dp cid nvme dw0 dw1 info s) := by
  unfold execNvmeCompletionReceive; try dsimp only
  (repeat' first
    | with_reducible assumption
    | split
    | with_reducible refine nextN_keep ?_
    | with_reducible refine sendAdmin_keep ?_
    | with_reducible refine modDrive_keep ?_
    | with_reducible refine dropCmd_keep ?_
    | with_reducible refine step_keep ?_
    | with_reducible refine endDriveCmd_keep ?_
    | simp only [keepOut_next])
theorem execNvmeCommandTimeout_keep {z : State} {dp : Fin 8} {cid : Nat} {s : State} (hz : Keep z s) :
    KeepOut z (execNvmeCommandTimeout dp cid s) := by
  unfold execNvmeCommandTimeout; try dsimp only
  (repeat' first
    | with_reducible assumption
    | split
    | with_reducible refine step_keep ?_
    | with_reducible refine nextN_keep ?_
    | with_reducible refine sendAdmin_keep ?_
    | with_reducible refine modDrive_keep ?_
    | with_reducible refine driveStepFails_keep ?_
    | simp only [keepOut_next])
@[simp] theorem answered_keep {z : State} {s : State} {b : List Byte} {ok : Bool} (hz : Keep z s) :
    Keep z (answered s b ok) := by
  unfold answered; simp [hz]
@[simp] theorem cutCmd_keep {z : State} {s : State} {n : Nat} {c : NvmeCmd} {status detail : Nat} (hz : Keep z s) :
    Keep z (cutCmd s n c status detail) := by
  unfold cutCmd; simp [hz]
@[simp] theorem dmaViolation_keep {z : State} {s : State} {n a : Nat} {who : Option Nat} (hz : Keep z s) :
    Keep z (dmaViolation s n a who) := by
  unfold dmaViolation; try dsimp only
  (repeat' first
    | with_reducible assumption
    | split
    | with_reducible refine driveFault_keep ?_
    | with_reducible refine answered_keep ?_
    | with_reducible refine cutCmd_keep ?_)
theorem execDriveMemoryRequest_keep {z : State} {dp : Fin 8} {r : DriveReq} {who : Option Nat} {s : State} (hz : Keep z s) :
    KeepOut z (execDriveMemoryRequest dp r who s) := by
  have hw : ∀ a d (p : Bool), Keep z { s with hbm := hbmPut s.hbm a d (fun _ _ => p) } := by
    intro a d p; rw [keep_mk, hbmPut_mem]; exact keepF_hbm hz mwrite_wf
  unfold execDriveMemoryRequest; dsimp only
  (repeat' split) <;> first | exact keepOut_next.2 hz | exact nextN_keep (dmaViolation_keep hz) | exact keepOut_next.2 (answered_keep hz) | exact nextN_keep (answered_keep (hw _ _ _)) | exact keepOut_next.2 (answered_keep (openBytes_keep hz)) | exact nextN_keep (answered_keep (engineRead_keep hz)) | exact nextN_keep (cutCmd_keep (answered_keep (engineRead_keep hz)))
theorem execCaptiveLinkError_keep {z : State} {dp : Fin 8} {correctable : Bool} {status : W32} {s : State} (hz : Keep z s) :
    KeepOut z (execCaptiveLinkError dp correctable status s) := by
  unfold execCaptiveLinkError; try dsimp only
  (repeat' first
    | with_reducible assumption
    | split
    | with_reducible refine nextN_keep ?_
    | with_reducible refine driveFault_keep ?_
    | with_reducible refine recover3_keep ?_
    | simp only [keepOut_next])
theorem execNvmeAdminTimeout_keep {z : State} {dp : Fin 8} {cid : Nat} {s : State} (hz : Keep z s) :
    KeepOut z (execNvmeAdminTimeout dp cid s) := by
  unfold execNvmeAdminTimeout; try dsimp only
  (repeat' first
    | with_reducible assumption
    | split
    | with_reducible refine workDone_keep ?_
    | with_reducible refine modDrive_keep ?_
    | simp only [keepOut_next])
theorem execHubQuery_keep {z : State} {fn : Fn} {s : State} (hz : Keep z s) :
    KeepOut z (execHubQuery fn s) := by
  unfold execHubQuery; try dsimp only
  (repeat' first
    | with_reducible assumption
    | split
    | ((with_reducible refine withCmd_keep (fun _ _ _ => ?_) ?_); try dsimp only)
    | with_reducible refine finishSt_keep ?_
    | with_reducible refine finishOk_keep ?_)
theorem execHubPortMode_keep {z : State} {fn : Fn} {s : State} (hz : Keep z s) :
    KeepOut z (execHubPortMode fn s) := by
  unfold execHubPortMode; try dsimp only
  (repeat' first
    | with_reducible assumption
    | split
    | ((with_reducible refine withCmd_keep (fun _ _ _ => ?_) ?_); try dsimp only)
    | with_reducible refine finishSt_keep ?_
    | with_reducible refine modDp_keep ?_
    | with_reducible refine endAll_keep ?_
    | with_reducible refine driveState_keep ?_
    | with_reducible refine eventDev_keep ?_
    | with_reducible refine note_keep ?_
    | with_reducible refine finishOk_keep ?_)
theorem execHubSlotPowerOn_keep {z : State} {fn : Fn} {s : State} (hz : Keep z s) :
    KeepOut z (execHubSlotPowerOn fn s) := by
  unfold execHubSlotPowerOn; try dsimp only
  (repeat' first
    | with_reducible assumption
    | split
    | ((with_reducible refine withCmd_keep (fun _ _ _ => ?_) ?_); try dsimp only)
    | with_reducible refine finishSt_keep ?_
    | with_reducible refine slotOn_keep ?_
    | with_reducible refine wakeDrive_keep ?_
    | with_reducible refine powerOn_keep ?_
    | with_reducible refine note_keep ?_
    | with_reducible refine finishOk_keep ?_)
@[simp] theorem slotPowerOff_keep {z : State} {s : State} {n fn id : Nat} (hz : Keep z s) :
    Keep z (slotPowerOff s n fn id) := by
  unfold slotPowerOff; try dsimp only
  (repeat' first
    | with_reducible assumption
    | (with_reducible refine foldl_keep (fun _ _ _ => ?_) _ ?_; try dsimp only)
    | split
    | with_reducible refine modDp_keep ?_
    | with_reducible refine endCommands_keep ?_
    | with_reducible refine memberLost_keep ?_
    | with_reducible refine driveState_keep ?_
    | with_reducible refine modDrive_keep ?_
    | with_reducible refine step_keep ?_
    | with_reducible refine endAll_keep ?_
    | with_reducible refine slotOff_keep ?_
    | with_reducible refine finishOk_keep ?_)
theorem execHubSlotPowerOff_keep {z : State} {fn : Fn} {s : State} (hz : Keep z s) :
    KeepOut z (execHubSlotPowerOff fn s) := by
  unfold execHubSlotPowerOff; try dsimp only
  (repeat' first
    | with_reducible assumption
    | split
    | with_reducible refine nextN_keep ?_
    | with_reducible refine slotPowerOff_keep ?_
    | ((with_reducible refine withCmd_keep (fun _ _ _ => ?_) ?_); try dsimp only)
    | with_reducible refine finishSt_keep ?_
    | with_reducible refine note_keep ?_
    | with_reducible refine modDp_keep ?_
    | with_reducible refine slotOff_keep ?_
    | with_reducible refine finishOk_keep ?_
    | with_reducible refine begun_keep ?_)
theorem execHubNsAssign_keep {z : State} {fn : Fn} {s : State} (hz : Keep z s) :
    KeepOut z (execHubNsAssign fn s) := by
  unfold execHubNsAssign; try dsimp only
  (repeat' first
    | with_reducible assumption
    | (with_reducible refine map_getD_keep ?_ (fun _ _ => ?_))
    | (with_reducible refine getD_keep ?_ (fun _ _ => ?_))
    | split
    | ((with_reducible refine withCmd_keep (fun _ _ _ => ?_) ?_); try dsimp only)
    | with_reducible refine finishSt_keep ?_
    | with_reducible refine ownNs_keep ?_
    | with_reducible refine loseDriveSinks_keep ?_
    | with_reducible refine note_keep ?_
    | with_reducible refine finishOk_keep ?_)
theorem execHubNvmeAdmin_keep {z : State} {fn : Fn} {buf : Option (List Byte)} {s : State} (hz : Keep z s) :
    KeepOut z (execHubNvmeAdmin fn buf s) := by
  unfold execHubNvmeAdmin; try dsimp only
  (repeat' first
    | with_reducible assumption
    | (with_reducible refine map_getD_keep ?_ (fun _ _ => ?_))
    | (with_reducible refine getD_keep ?_ (fun _ _ => ?_))
    | split
    | ((with_reducible refine withCmd_keep (fun _ _ _ => ?_) ?_); try dsimp only)
    | with_reducible refine finishSt_keep ?_
    | with_reducible refine accept_keep ?_
    | with_reducible refine note_keep ?_
    | with_reducible refine sendAdmin_keep ?_
    | with_reducible refine submit_keepE ?_ ‹_›
    | with_reducible refine workDone_keep ?_
    | with_reducible refine stageData_keep ?_)
theorem execImageStage_keep {z : State} {fn : Fn} {buf : Option (List Byte)} {s : State} (hz : Keep z s) :
    KeepOut z (execImageStage fn buf s) := by
  unfold execImageStage; try dsimp only
  (repeat' first
    | with_reducible assumption
    | split
    | ((with_reducible refine withPart_keep (fun _ _ _ _ => ?_) ?_); try dsimp only)
    | with_reducible refine finishSt_keep ?_
    | with_reducible refine accept_keep ?_
    | with_reducible refine workDone_keep ?_
    | with_reducible refine windowWrite_keep ?_
    | with_reducible refine State_setPt_keep ?_)
theorem execImageCheck_keep {z : State} {fn : Fn} {s : State} (hz : Keep z s) :
    KeepOut z (execImageCheck fn s) := by
  unfold execImageCheck; try dsimp only
  (repeat' first
    | with_reducible assumption
    | (with_reducible refine map_getD_keep ?_ (fun _ _ => ?_))
    | (with_reducible refine getD_keep ?_ (fun _ _ => ?_))
    | split
    | ((with_reducible refine withPart_keep (fun _ _ _ _ => ?_) ?_); try dsimp only)
    | with_reducible refine finishSt_keep ?_
    | with_reducible refine finishOk_keep ?_)
theorem execImageDrop_keep {z : State} {fn : Fn} {s : State} (hz : Keep z s) :
    KeepOut z (execImageDrop fn s) := by
  unfold execImageDrop; try dsimp only
  (repeat' first
    | with_reducible assumption
    | split
    | ((with_reducible refine withPart_keep (fun _ _ _ _ => ?_) ?_); try dsimp only)
    | with_reducible refine finishSt_keep ?_
    | with_reducible refine finishOk_keep ?_
    | with_reducible refine State_setPt_keep ?_)
theorem execPartLoad_keep {z : State} {fn : Fn} {s : State} (hz : Keep z s) :
    KeepOut z (execPartLoad fn s) := by
  unfold execPartLoad; try dsimp only
  (repeat' first
    | with_reducible assumption
    | (with_reducible refine map_getD_keep ?_ (fun _ _ => ?_))
    | (with_reducible refine getD_keep ?_ (fun _ _ => ?_))
    | split
    | ((with_reducible refine withPart_keep (fun _ _ _ _ => ?_) ?_); try dsimp only)
    | with_reducible refine finish_keep ?_
    | with_reducible refine accept_keep ?_
    | with_reducible refine State_setPt_keep ?_
    | with_reducible refine partState_keep ?_)
theorem execPartLoadCancel_keep {z : State} {fn : Fn} {s : State} (hz : Keep z s) :
    KeepOut z (execPartLoadCancel fn s) := by
  unfold execPartLoadCancel; try dsimp only
  (repeat' first
    | with_reducible assumption
    | (with_reducible refine foldl_keep (fun _ _ _ => ?_) _ ?_; try dsimp only)
    | split
    | ((with_reducible refine withPart_keep (fun _ _ _ _ => ?_) ?_); try dsimp only)
    | with_reducible refine finishSt_keep ?_
    | with_reducible refine workDone_keep ?_
    | with_reducible refine State_setPt_keep ?_
    | with_reducible refine emptySlot_keep ?_
    | with_reducible refine finishOk_keep ?_)
theorem execPartStart_keep {z : State} {fn : Fn} {s : State} (hz : Keep z s) :
    KeepOut z (execPartStart fn s) := by
  unfold execPartStart; try dsimp only
  (repeat' first
    | with_reducible assumption
    | (with_reducible refine map_getD_keep ?_ (fun _ _ => ?_))
    | (with_reducible refine getD_keep ?_ (fun _ _ => ?_))
    | split
    | ((with_reducible refine withPart_keep (fun _ _ _ _ => ?_) ?_); try dsimp only)
    | with_reducible refine finishSt_keep ?_
    | with_reducible refine committed_keep ?_
    | with_reducible refine finish_keep ?_
    | with_reducible refine startRun_keep ?_
    | with_reducible refine finishOk_keep ?_)
theorem execPartAbort_keep {z : State} {fn : Fn} {s : State} (hz : Keep z s) :
    KeepOut z (execPartAbort fn s) := by
  unfold execPartAbort; try dsimp only
  (repeat' first
    | with_reducible assumption
    | split
    | with_reducible refine nextN_keep ?_
    | with_reducible refine settleAbort_keep ?_
    | ((with_reducible refine withPart_keep (fun _ _ _ _ => ?_) ?_); try dsimp only)
    | with_reducible refine finishOk_keep ?_
    | with_reducible refine finishSt_keep ?_
    | with_reducible refine stopRun_keep ?_
    | with_reducible refine begun_keep ?_)
theorem execSlotShiftStart_keep {z : State} {p : Fin 16} {s : State} (hz : Keep z s) :
    KeepOut z (execSlotShiftStart p s) := by
  unfold execSlotShiftStart; try dsimp only
  (repeat' first
    | with_reducible assumption
    | split
    | with_reducible refine setSlot_keep ?_
    | with_reducible refine State_setPt_keep ?_
    | simp only [keepOut_next])
theorem execSlotShiftComplete_keep {z : State} {p : Fin 16} {first second : List Nat} {s : State} (hz : Keep z s) :
    KeepOut z (execSlotShiftComplete p first second s) := by
  unfold execSlotShiftComplete; try dsimp only
  (repeat' first
    | with_reducible assumption
    | split
    | with_reducible refine nextN_keep ?_
    | with_reducible refine shiftDone_keep ?_
    | simp only [keepOut_next])
theorem execMoverScheduleIssue_keep {z : State} {p : Fin 16} {k : Nat} {s : State} (hz : Keep z s) :
    KeepOut z (execMoverScheduleIssue p k s) := by
  unfold execMoverScheduleIssue; try dsimp only
  (repeat' first
    | with_reducible assumption
    | split
    | with_reducible refine nextN_keep ?_
    | with_reducible refine entryStep_keep ?_
    | simp only [keepOut_next])
theorem jtagRun_keep {z : State} {i : JtagInstr} {dev : Fin 2} {pins tdi : List Bool} {s : State} (hz : Keep z s) :
    KeepOut z (jtagRun i dev pins tdi s) := by
  unfold jtagRun; try dsimp only
  (repeat' first
    | with_reducible assumption
    | split
    | simp only [keep_mk, keep_eta, keepOut_next])
theorem execJtagBypass_keep {z : State} {dev : Fin 2} {pins tdi : List Bool} {s : State} (hz : Keep z s) :
    KeepOut z (execJtagBypass dev pins tdi s) := by
  unfold execJtagBypass; try dsimp only
  (repeat' first
    | with_reducible assumption
    | split
    | with_reducible refine jtagRun_keep ?_)
theorem execJtagSamplePreload_keep {z : State} {dev : Fin 2} {pins tdi : List Bool} {s : State} (hz : Keep z s) :
    KeepOut z (execJtagSamplePreload dev pins tdi s) := by
  unfold execJtagSamplePreload; try dsimp only
  (repeat' first
    | with_reducible assumption
    | split
    | with_reducible refine jtagRun_keep ?_)
theorem execJtagExtest_keep {z : State} {dev : Fin 2} {pins tdi : List Bool} {s : State} (hz : Keep z s) :
    KeepOut z (execJtagExtest dev pins tdi s) := by
  unfold execJtagExtest; try dsimp only
  (repeat' first
    | with_reducible assumption
    | split
    | with_reducible refine jtagRun_keep ?_)
theorem execJtagIdcode_keep {z : State} {dev : Fin 2} {pins tdi : List Bool} {s : State} (hz : Keep z s) :
    KeepOut z (execJtagIdcode dev pins tdi s) := by
  unfold execJtagIdcode; try dsimp only
  (repeat' first
    | with_reducible assumption
    | split
    | with_reducible refine jtagRun_keep ?_)
theorem execJtagClamp_keep {z : State} {dev : Fin 2} {pins tdi : List Bool} {s : State} (hz : Keep z s) :
    KeepOut z (execJtagClamp dev pins tdi s) := by
  unfold execJtagClamp; try dsimp only
  (repeat' first
    | with_reducible assumption
    | split
    | with_reducible refine jtagRun_keep ?_)
theorem execJtagHighz_keep {z : State} {dev : Fin 2} {pins tdi : List Bool} {s : State} (hz : Keep z s) :
    KeepOut z (execJtagHighz dev pins tdi s) := by
  unfold execJtagHighz; try dsimp only
  (repeat' first
    | with_reducible assumption
    | split
    | with_reducible refine jtagRun_keep ?_)
theorem execTrstNAssert_keep {z : State} {s : State} (hz : Keep z s) :
    KeepOut z (execTrstNAssert s) := by
  unfold execTrstNAssert; simp [hz]
@[simp] theorem settleTrain_keep {z : State} {s : State} (hz : Keep z s) :
    Keep z (settleTrain s) := by
  unfold settleTrain; (repeat' split) <;> simp [*]
@[simp] theorem portTo_keep {z : State} {s : State} {p : Nat} {new : PortState} {cause : Nat} (hz : Keep z s) :
    Keep z (portTo s p new cause) := by
  unfold portTo; try dsimp only
  (repeat' first
    | with_reducible assumption
    | split
    | with_reducible refine State_setPort_keep ?_
    | with_reducible refine eventDev_keep ?_
    | with_reducible refine settleTrain_keep ?_)
@[simp] theorem portDown_keep {z : State} {s : State} {p : Nat} {new : PortState} {cause : Nat} (hz : Keep z s) :
    Keep z (portDown s p new cause) := by
  unfold portDown; simp [hz]
@[simp] theorem portReset_keep {z : State} {s : State} {p : Nat} {new : PortState} {cause : Nat} (hz : Keep z s) :
    Keep z (portReset s p new cause) := by
  unfold portReset; try dsimp only
  (repeat' first
    | with_reducible assumption
    | split
    | with_reducible refine portDown_keep ?_
    | with_reducible refine State_setPort_keep ?_
    | with_reducible refine fault_keep ?_)
@[simp] theorem portRise_keep {z : State} {s : State} {p : Nat} {tx rx : Byte} (hz : Keep z s) :
    Keep z (portRise s p tx rx) := by
  unfold portRise; simp [hz]
@[simp] theorem takeNak_keep {z : State} {s : State} {p : Nat} (hz : Keep z s) :
    Keep z (takeNak s p) := by
  unfold takeNak; try dsimp only
  (repeat' first
    | with_reducible assumption
    | split
    | with_reducible refine portReset_keep ?_
    | with_reducible refine State_setPort_keep ?_)
@[simp] theorem takeAckNak_keep {z : State} {s : State} {p : Nat} {f : Flit} (hz : Keep z s) :
    Keep z (takeAckNak s p f) := by
  unfold takeAckNak; (repeat' split) <;> simp [*]
@[simp] theorem flitIn_keep {z : State} {s : State} {p : Nat} {f : Flit} {crcGood : Bool} (hz : Keep z s) :
    Keep z (flitIn s p f crcGood) := by
  unfold flitIn; try dsimp only
  (repeat' first
    | with_reducible assumption
    | split
    | with_reducible refine portPump_keep ?_
    | with_reducible refine takeAckNak_keep ?_
    | with_reducible refine State_setPort_keep ?_)
@[simp] theorem laneChange_keep {z : State} {s : State} {p dir : Nat} {old new : Byte} (hz : Keep z s) :
    Keep z (laneChange s p dir old new) := by
  unfold laneChange; (repeat' split) <;> simp [*]
@[simp] theorem markerIn_keep {z : State} {s : State} {p : Nat} {m : Marker} (hz : Keep z s) :
    Keep z (markerIn s p m) := by
  unfold markerIn; simp [hz]
@[simp] theorem adoptMaster_keep {z : State} {s : State} (hz : Keep z s) :
    Keep z (adoptMaster s) := by
  unfold adoptMaster; (repeat' split) <;> simp [*]
@[simp] theorem followTime_keep {z : State} {s : State} {ref : Nat} (hz : Keep z s) :
    Keep z (followTime s ref) := by
  unfold followTime; try dsimp only
  (repeat' first
    | with_reducible assumption
    | split
    | simp only [keep_mk, keep_eta])
@[simp] theorem judgeNeighbour_keep {z : State} {s : State} {p : Nat} (hz : Keep z s) :
    Keep z (judgeNeighbour s p) := by
  unfold judgeNeighbour; try dsimp only
  (repeat' first
    | with_reducible assumption
    | split
    | with_reducible refine State_setPort_keep ?_
    | with_reducible refine eventDev_keep ?_
    | with_reducible refine portPump_keep ?_)
@[simp] theorem loadRoutes_keep {z : State} {s : State} {b : List Byte} (hz : Keep z s) :
    Keep z (loadRoutes s b) := by
  unfold loadRoutes; try dsimp only
  (repeat' first
    | with_reducible assumption
    | (with_reducible refine foldl_keep (fun _ _ _ => ?_) _ ?_; try dsimp only)
    | split
    | with_reducible refine judgeNeighbour_keep ?_
    | with_reducible refine portDown_keep ?_
    | with_reducible refine adoptMaster_keep ?_
    | simp only [keep_mk, keep_eta])
theorem execFlitReceive_keep {z : State} {port : Fin 16} {f : Flit} {crcGood : Bool} {s : State} (hz : Keep z s) :
    KeepOut z (execFlitReceive port f crcGood s) := by
  unfold execFlitReceive; try dsimp only
  (repeat' first
    | with_reducible assumption
    | split
    | with_reducible refine nextN_keep ?_
    | with_reducible refine flitIn_keep ?_
    | simp only [keepOut_next])
theorem execMarkerBlockReceive_keep {z : State} {port : Fin 16} {m : Marker} {crcGood : Bool} {s : State} (hz : Keep z s) :
    KeepOut z (execMarkerBlockReceive port m crcGood s) := by
  unfold execMarkerBlockReceive; try dsimp only
  (repeat' first
    | with_reducible assumption
    | split
    | with_reducible refine nextN_keep ?_
    | with_reducible refine markerIn_keep ?_
    | simp only [keepOut_next])
theorem execLaneEpochMarker_keep {z : State} {port : Fin 16} {s : State} (hz : Keep z s) :
    KeepOut z (execLaneEpochMarker port s) := by
  unfold execLaneEpochMarker; try dsimp only
  (repeat' first
    | with_reducible assumption
    | split
    | with_reducible refine nextN_keep ?_
    | with_reducible refine laneChange_keep ?_
    | with_reducible refine State_setPort_keep ?_
    | simp only [keepOut_next])
theorem execLaneFailure_keep {z : State} {port : Fin 16} {lane : Fin 8} {s : State} (hz : Keep z s) :
    KeepOut z (execLaneFailure port lane s) := by
  unfold execLaneFailure; try dsimp only
  (repeat' first
    | with_reducible assumption
    | split
    | with_reducible refine State_setPort_keep ?_
    | with_reducible refine nextN_keep ?_
    | with_reducible refine fault_keep ?_
    | simp only [keepOut_next])
theorem execLaneSetApply_keep {z : State} {port : Fin 16} {s : State} (hz : Keep z s) :
    KeepOut z (execLaneSetApply port s) := by
  unfold execLaneSetApply; try dsimp only
  (repeat' first
    | with_reducible assumption
    | split
    | with_reducible refine nextN_keep ?_
    | with_reducible refine portDown_keep ?_
    | with_reducible refine laneChange_keep ?_
    | with_reducible refine State_setPort_keep ?_
    | simp only [keepOut_next])
theorem execLaneRetrainComplete_keep {z : State} {port : Fin 16} {lane : Fin 8} {ok : Bool} {s : State} (hz : Keep z s) :
    KeepOut z (execLaneRetrainComplete port lane ok s) := by
  unfold execLaneRetrainComplete; try dsimp only
  (repeat' first
    | with_reducible assumption
    | split
    | with_reducible refine nextN_keep ?_
    | with_reducible refine State_setPort_keep ?_
    | simp only [keepOut_next])
theorem execHelloTransmit_keep {z : State} {port : Fin 16} {s : State} (hz : Keep z s) :
    KeepOut z (execHelloTransmit port s) := by
  unfold execHelloTransmit; try dsimp only
  (repeat' first
    | with_reducible assumption
    | (with_reducible refine map_getD_keep ?_ (fun _ _ => ?_))
    | (with_reducible refine getD_keep ?_ (fun _ _ => ?_))
    | split
    | with_reducible refine nextN_keep ?_
    | with_reducible refine sendMgmtAt_keep ?_
    | simp only [keepOut_next])
theorem execHelloReceive_keep {z : State} {port : Fin 16} {id : Byte} {nport : Fin 16} {s : State} (hz : Keep z s) :
    KeepOut z (execHelloReceive port id nport s) := by
  unfold execHelloReceive; try dsimp only
  (repeat' first
    | with_reducible assumption
    | split
    | with_reducible refine nextN_keep ?_
    | with_reducible refine judgeNeighbour_keep ?_
    | with_reducible refine State_setPort_keep ?_
    | simp only [keepOut_next])
theorem execTimeRecordTransmit_keep {z : State} {port : Fin 16} {s : State} (hz : Keep z s) :
    KeepOut z (execTimeRecordTransmit port s) := by
  unfold execTimeRecordTransmit; try dsimp only
  (repeat' first
    | with_reducible assumption
    | (with_reducible refine map_getD_keep ?_ (fun _ _ => ?_))
    | (with_reducible refine getD_keep ?_ (fun _ _ => ?_))
    | split
    | with_reducible refine nextN_keep ?_
    | with_reducible refine enqueueFlits_keep ?_
    | simp only [keepOut_next])
theorem execTimeRecordReceive_keep {z : State} {port : Fin 16} {r : TimeRec} {s : State} (hz : Keep z s) :
    KeepOut z (execTimeRecordReceive port r s) := by
  unfold execTimeRecordReceive; try dsimp only
  (repeat' first
    | with_reducible assumption
    | split
    | with_reducible refine adoptMaster_keep ?_
    | with_reducible refine nextN_keep ?_
    | with_reducible refine followTime_keep ?_
    | simp only [keep_mk, keep_eta, keepOut_next])
theorem execTimeMasterTimeout_keep {z : State} {s : State} (hz : Keep z s) :
    KeepOut z (execTimeMasterTimeout s) := by
  unfold execTimeMasterTimeout; try dsimp only
  (repeat' first
    | with_reducible assumption
    | (with_reducible refine map_getD_keep ?_ (fun _ _ => ?_))
    | (with_reducible refine getD_keep ?_ (fun _ _ => ?_))
    | split
    | with_reducible refine adoptMaster_keep ?_
    | with_reducible refine nextN_keep ?_
    | with_reducible refine eventDev_keep ?_
    | simp only [keep_mk, keep_eta, keepOut_next])
theorem execTransitForward_keep {z : State} {port : Fin 16} {vc : Fin 4} {cls : Fin 2} {b : List Byte} {s : State} (hz : Keep z s) :
    KeepOut z (execTransitForward port vc cls b s) := by
  unfold execTransitForward; try dsimp only
  (repeat' first
    | with_reducible assumption
    | split
    | with_reducible refine nextN_keep ?_
    | with_reducible refine State_setPort_keep ?_
    | with_reducible refine portPump_keep ?_
    | simp only [keepOut_next])
theorem execPortTrainingComplete_keep {z : State} {port : Fin 16} {tx rx : Byte} {s : State} (hz : Keep z s) :
    KeepOut z (execPortTrainingComplete port tx rx s) := by
  unfold execPortTrainingComplete; try dsimp only
  (repeat' first
    | with_reducible assumption
    | split
    | with_reducible refine nextN_keep ?_
    | with_reducible refine portDown_keep ?_
    | with_reducible refine portRise_keep ?_
    | simp only [keepOut_next])
theorem execPortRetryTimer_keep {z : State} {port : Fin 16} {s : State} (hz : Keep z s) :
    KeepOut z (execPortRetryTimer port s) := by
  unfold execPortRetryTimer; try dsimp only
  (repeat' first
    | with_reducible assumption
    | split
    | with_reducible refine nextN_keep ?_
    | with_reducible refine portTo_keep ?_
    | simp only [keepOut_next])
theorem execPortLoss_keep {z : State} {port : Fin 16} {reset : Bool} {s : State} (hz : Keep z s) :
    KeepOut z (execPortLoss port reset s) := by
  unfold execPortLoss; try dsimp only
  (repeat' first
    | with_reducible assumption
    | split
    | with_reducible refine nextN_keep ?_
    | with_reducible refine State_reset_keep ?_
    | with_reducible refine portReset_keep ?_
    | with_reducible refine portDown_keep ?_
    | simp only [keepOut_next])
theorem execLinkQuery_keep {z : State} {fn : Fn} {s : State} (hz : Keep z s) :
    KeepOut z (execLinkQuery fn s) := by
  unfold execLinkQuery; try dsimp only
  (repeat' first
    | with_reducible assumption
    | (with_reducible refine map_getD_keep ?_ (fun _ _ => ?_))
    | (with_reducible refine getD_keep ?_ (fun _ _ => ?_))
    | split
    | ((with_reducible refine withCmd_keep (fun _ _ _ => ?_) ?_); try dsimp only)
    | with_reducible refine finishOk_keep ?_
    | with_reducible refine finishSt_keep ?_)
theorem execLinkTrain_keep {z : State} {fn : Fn} {s : State} (hz : Keep z s) :
    KeepOut z (execLinkTrain fn s) := by
  unfold execLinkTrain; try dsimp only
  (repeat' first
    | with_reducible assumption
    | (with_reducible refine foldl_keep (fun _ _ _ => ?_) _ ?_; try dsimp only)
    | split
    | ((with_reducible refine withCmd_keep (fun _ _ _ => ?_) ?_); try dsimp only)
    | with_reducible refine finishSt_keep ?_
    | with_reducible refine accept_keep ?_
    | with_reducible refine State_setPort_keep ?_
    | with_reducible refine portTo_keep ?_
    | with_reducible refine settleTrain_keep ?_
    | simp only [keep_mk, keep_eta])
theorem execLinkReset_keep {z : State} {fn : Fn} {s : State} (hz : Keep z s) :
    KeepOut z (execLinkReset fn s) := by
  unfold execLinkReset; try dsimp only
  (repeat' first
    | with_reducible assumption
    | split
    | ((with_reducible refine withCmd_keep (fun _ _ _ => ?_) ?_); try dsimp only)
    | with_reducible refine finishSt_keep ?_
    | with_reducible refine finishOk_keep ?_
    | with_reducible refine portReset_keep ?_)
theorem withRoute_keep {z s : State} {fn : Fn} {mode : Nat} {k : Consumed → State → State} (hk : ∀ c t, Keep z t → Keep z (k c t)) (hz : Keep z s) :
    KeepOut z (withRoute s fn mode k) := by
  unfold withRoute; split
  · simpa using hz
  · split
    · simpa using hz
    · exact nextN_keep (hk _ _ hz)
theorem execRouteSetRoutingImage_keep {z : State} {fn : Fn} {buf : Option (List Byte)} {s : State} (hz : Keep z s) :
    KeepOut z (execRouteSetRoutingImage fn buf s) := by
  unfold execRouteSetRoutingImage; try dsimp only
  (repeat' first
    | with_reducible assumption
    | split
    | ((with_reducible refine withRoute_keep (fun _ _ _ => ?_) ?_); try dsimp only)
    | with_reducible refine finishSt_keep ?_
    | with_reducible refine loadRoutes_keep ?_)
theorem execRouteSetPeerTable_keep {z : State} {fn : Fn} {buf : Option (List Byte)} {s : State} (hz : Keep z s) :
    KeepOut z (execRouteSetPeerTable fn buf s) := by
  unfold execRouteSetPeerTable; try dsimp only
  (repeat' first
    | with_reducible assumption
    | split
    | ((with_reducible refine withRoute_keep (fun _ _ _ => ?_) ?_); try dsimp only)
    | with_reducible refine finishSt_keep ?_
    | simp only [keep_mk, keep_eta])
theorem execLinkCollective_keep {z : State} {fn : Fn} {s : State} (hz : Keep z s) :
    KeepOut z (execLinkCollective fn s) := by
  unfold execLinkCollective; try dsimp only
  (repeat' first
    | with_reducible assumption
    | split
    | ((with_reducible refine withPart_keep (fun _ _ _ _ => ?_) ?_); try dsimp only)
    | with_reducible refine linkCollective_keep ?_)
theorem execCollectiveStepComplete_keep {z : State} {p : Fin 16} {key : W32} {s : State} (hz : Keep z s) :
    KeepOut z (execCollectiveStepComplete p key s) := by
  unfold execCollectiveStepComplete; try dsimp only
  (repeat' first
    | with_reducible assumption
    | split
    | with_reducible refine stepDone_keep ?_
    | with_reducible refine nextN_keep ?_
    | with_reducible refine collNext_keep ?_
    | simp only [keepOut_next])
theorem execCollectiveTimeoutExpiry_keep {z : State} {p : Fin 16} {key : W32} {s : State} (hz : Keep z s) :
    KeepOut z (execCollectiveTimeoutExpiry p key s) := by
  unfold execCollectiveTimeoutExpiry; try dsimp only
  (repeat' first
    | with_reducible assumption
    | split
    | with_reducible refine nextN_keep ?_
    | with_reducible refine collFail_keep ?_
    | simp only [keepOut_next])

end Sys2Proof.Machine
end

