-- ==== Sys2Proof/Laws/Keep7.lean ====
section
/-! SUPPORT. Keep, of the operations and meanings of MailboxCmds, Pmbus, Resets, Regs, PowerStates, SproutOps. -/

namespace Sys2Proof.Machine

@[simp] theorem tellFallback_keep {z : State} {s : State} {fn : Nat} (hz : Keep z s) :
    Keep z (tellFallback s fn) := by
  unfold tellFallback; (repeat' split) <;> simp [*]
@[simp] theorem enableNow_keep {z : State} {s : State} {fn : Nat} (hz : Keep z s) :
    Keep z (enableNow s fn) := by
  unfold enableNow; try dsimp only
  (repeat' first
    | with_reducible assumption
    | split
    | with_reducible refine tellFallback_keep ?_
    | with_reducible refine serveEnable_keep ?_
    | with_reducible refine flushEvents_keep ?_)
@[simp] theorem writeEnable_keep {z : State} {s : State} {fn : Nat} (hz : Keep z s) :
    Keep z (writeEnable s fn) := by
  unfold writeEnable; try dsimp only
  (repeat' first
    | with_reducible assumption
    | split
    | with_reducible refine State_setMb_keep ?_
    | with_reducible refine enableNow_keep ?_)
@[simp] theorem writeDisable_keep {z : State} {s : State} {fn : Nat} (hz : Keep z s) :
    Keep z (writeDisable s fn) := by
  unfold writeDisable; simp [hz]
theorem execMailboxEnable_keep {z : State} {fn : Fn} {s : State} (hz : Keep z s) :
    KeepOut z (execMailboxEnable fn s) := by
  unfold execMailboxEnable; (repeat' split) <;> simp [*]
theorem execMailboxDisable_keep {z : State} {fn : Fn} {s : State} (hz : Keep z s) :
    KeepOut z (execMailboxDisable fn s) := by
  unfold execMailboxDisable; (repeat' split) <;> simp [*]
theorem execMailboxStopped_keep {z : State} {fn : Fn} {s : State} (hz : Keep z s) :
    KeepOut z (execMailboxStopped fn s) := by
  unfold execMailboxStopped; try dsimp only
  (repeat' first
    | with_reducible assumption
    | split
    | with_reducible refine updMb_keep ?_
    | with_reducible refine enableNow_keep ?_
    | simp only [keepOut_next])
@[simp] theorem indexFail_keep {z : State} {s : State} {fn : Nat} {m : Mailbox} (hz : Keep z s) :
    Keep z (indexFail s fn m) := by
  unfold indexFail; simp [hz]
@[simp] theorem doorbell_keep {z : State} {s : State} {fn : Nat} {pi : W16} (hz : Keep z s) :
    Keep z (doorbell s fn pi) := by
  unfold doorbell; try dsimp only
  (repeat' first
    | with_reducible assumption
    | split
    | with_reducible refine indexFail_keep ?_
    | with_reducible refine State_setMb_keep ?_)
@[simp] theorem writeRspCi_keep {z : State} {s : State} {fn : Nat} {ci : W16} (hz : Keep z s) :
    Keep z (writeRspCi s fn ci) := by
  unfold writeRspCi; try dsimp only
  (repeat' first
    | with_reducible assumption
    | split
    | with_reducible refine indexFail_keep ?_
    | with_reducible refine State_setMb_keep ?_)
@[simp] theorem writeEvtCi_keep {z : State} {s : State} {fn : Nat} {ci : W16} (hz : Keep z s) :
    Keep z (writeEvtCi s fn ci) := by
  unfold writeEvtCi; try dsimp only
  (repeat' first
    | with_reducible assumption
    | split
    | with_reducible refine indexFail_keep ?_
    | with_reducible refine State_setMb_keep ?_)
theorem execRequestDoorbell_keep {z : State} {fn : Fn} {pi : W16} {s : State} (hz : Keep z s) :
    KeepOut z (execRequestDoorbell fn pi s) := by
  unfold execRequestDoorbell; (repeat' split) <;> simp [*]
theorem execResponseCiWrite_keep {z : State} {fn : Fn} {ci : W16} {s : State} (hz : Keep z s) :
    KeepOut z (execResponseCiWrite fn ci s) := by
  unfold execResponseCiWrite; (repeat' split) <;> simp [*]
theorem execEventCiWrite_keep {z : State} {fn : Fn} {ci : W16} {s : State} (hz : Keep z s) :
    KeepOut z (execEventCiWrite fn ci s) := by
  unfold execEventCiWrite; (repeat' split) <;> simp [*]
@[simp] theorem consume_keep {z : State} {s : State} {fn : Nat} {r : Req} (hz : Keep z s) :
    Keep z (consume s fn r) := by
  unfold consume; simp [hz]
theorem execRequestConsume_keep {z : State} {fn : Fn} {r : Req} {s : State} (hz : Keep z s) :
    KeepOut z (execRequestConsume fn r s) := by
  unfold execRequestConsume; (repeat' split) <;> simp [*]
theorem execPendingEventPost_keep {z : State} {fn : Fn} {s : State} (hz : Keep z s) :
    KeepOut z (execPendingEventPost fn s) := by
  unfold execPendingEventPost; (repeat' split) <;> simp [*]
theorem execRingAccessFail_keep {z : State} {fn : Fn} {s : State} (hz : Keep z s) :
    KeepOut z (execRingAccessFail fn s) := by
  unfold execRingAccessFail; try dsimp only
  (repeat' first
    | with_reducible assumption
    | split
    | with_reducible refine ringFail_keep ?_
    | simp only [keepOut_next])
theorem execInterruptHoldoffExpiry_keep {z : State} {fn : Fn} {evt : Bool} {s : State} (hz : Keep z s) :
    KeepOut z (execInterruptHoldoffExpiry fn evt s) := by
  unfold execInterruptHoldoffExpiry; try dsimp only
  (repeat' first
    | with_reducible assumption
    | split
    | with_reducible refine State_setMb_keep ?_
    | with_reducible refine postIrq_keep ?_
    | simp only [keepOut_next])
theorem execProgressReport_keep {z : State} {fn : Fn} {id : Nat} {unitsDone unitsTotal : W32} {s : State} (hz : Keep z s) :
    KeepOut z (execProgressReport fn id unitsDone unitsTotal s) := by
  unfold execProgressReport; try dsimp only
  (repeat' first
    | with_reducible assumption
    | split
    | with_reducible refine raiseAt_keep ?_
    | simp only [keepOut_next])
theorem execLongCommandComplete_keep {z : State} {fn : Fn} {id : Nat} {s : State} (hz : Keep z s) :
    KeepOut z (execLongCommandComplete fn id s) := by
  unfold execLongCommandComplete; (repeat' split) <;> simp [*]
theorem execSysInfo_keep {z : State} {fn : Fn} {s : State} (hz : Keep z s) :
    KeepOut z (execSysInfo fn s) := by
  unfold execSysInfo; try dsimp only
  (repeat' first
    | with_reducible assumption
    | split
    | ((with_reducible refine withCmd_keep (fun _ _ _ => ?_) ?_); try dsimp only)
    | with_reducible refine finishOk_keep ?_)
theorem execSysReset_keep {z : State} {fn : Fn} {s : State} (hz : Keep z s) :
    KeepOut z (execSysReset fn s) := by
  unfold execSysReset; try dsimp only
  (repeat' first
    | with_reducible assumption
    | split
    | ((with_reducible refine withCmd_keep (fun _ _ _ => ?_) ?_); try dsimp only)
    | with_reducible refine finishSt_keep ?_
    | with_reducible refine finishOk_keep ?_
    | simp only [keep_mk, keep_eta])
theorem execSysEventMask_keep {z : State} {fn : Fn} {s : State} (hz : Keep z s) :
    KeepOut z (execSysEventMask fn s) := by
  unfold execSysEventMask; try dsimp only
  (repeat' first
    | with_reducible assumption
    | split
    | ((with_reducible refine withCmd_keep (fun _ _ _ => ?_) ?_); try dsimp only)
    | with_reducible refine finishOk_keep ?_
    | with_reducible refine State_setMb_keep ?_)
theorem execSysEcho_keep {z : State} {fn : Fn} {s : State} (hz : Keep z s) :
    KeepOut z (execSysEcho fn s) := by
  unfold execSysEcho; try dsimp only
  (repeat' first
    | with_reducible assumption
    | split
    | ((with_reducible refine withCmd_keep (fun _ _ _ => ?_) ?_); try dsimp only)
    | with_reducible refine finishOk_keep ?_)
theorem orDiscard_keep {z s : State} {k : State → State} (hk : Keep z (k s)) (hz : Keep z s) : Keep z (orDiscard s k) := by
  unfold orDiscard; split
  · unfold setPmb; simp [hz]
  · exact hk
theorem pmCml_keep' {z s : State} {b : Byte} (hz : Keep z s) : Keep z (pmCml s b) := by unfold pmCml setPmb; simpa using hz
theorem writeSetting_keep {z s : State} {lo hi v : Nat} {k : Nat → State → State} (hk : lo ≤ v → v ≤ hi → Keep z (k v s)) (hz : Keep z s) :
    Keep z (writeSetting lo hi k v s) := by
  unfold writeSetting; split
  · exact pmCml_keep' hz
  · exact hk (by omega) (by omega)
theorem pmRun_keep {z s : State} {a : PmAccess} {code : Nat} {r : List Byte} {w : Nat → State → State} (hw : ∀ v, Keep z (w v s)) (hz : Keep z s) :
    KeepOut z (pmRun a code s r w) := by
  unfold pmRun pmAnswer pmWrite setPmb; dsimp only
  (repeat' split) <;> simp [*, pmCml_keep']
theorem pmWrite_keep {z s : State} {code v : Nat} {pec : Bool} {k : Nat → State → State} (hk : Keep z (k v s)) (hz : Keep z s) : Keep z (pmWrite s code v pec k) := by
  unfold pmWrite
  exact keep_ite (fun _ => pmCml_keep' hz) (fun _ => keep_ite (fun _ => pmCml_keep' hz) (fun _ => hk))
@[simp] theorem setPmb_keep {z : State} {s : State} {p : Pmbus} (hz : Keep z s) :
    Keep z (setPmb s p) := by
  unfold setPmb; simp [hz]
@[simp] theorem pmAnswer_keep {z : State} {s : State} {b : List Byte} (hz : Keep z s) :
    Keep z (pmAnswer s b) := by
  unfold pmAnswer; simp [hz]
@[simp] theorem pmCml_keep {z : State} {s : State} {b : Byte} (hz : Keep z s) :
    Keep z (pmCml s b) := by
  unfold pmCml; simp [hz]
@[simp] theorem pmInvalid_keep {z : State} {u0 : Nat} {s : State} (hz : Keep z s) :
    Keep z (pmInvalid u0 s) := by
  unfold pmInvalid; simp [hz]
theorem pmReadOnly_keep {z : State} {a : PmAccess} {code : Nat} {s : State} {r : List Byte} (hz : Keep z s) :
    KeepOut z (pmReadOnly a code s r) := by
  unfold pmReadOnly; try dsimp only
  (repeat' first
    | with_reducible assumption
    | split
    | ((with_reducible refine pmRun_keep (fun _ => ?_) ?_); try dsimp only)
    | with_reducible refine pmInvalid_keep ?_)
@[simp] theorem writeLimit_keep {z : State} {code lo hi grid : Nat} {put : Feed → Nat → Feed} {w : Nat} {s : State} (hz : Keep z s) :
    Keep z (writeLimit code lo hi grid put w s) := by
  unfold writeLimit
  refine orDiscard_keep ?_ hz
  dsimp only; split
  · exact pmCml_keep hz
  · exact foldl_keep (fun t f h => setPmb_keep (State_setFeed_keep h)) _ hz
theorem execPmPage_keep {z : State} {a : PmAccess} {s : State} (hz : Keep z s) :
    KeepOut z (execPmPage a s) := by
  unfold execPmPage; try dsimp only
  (repeat' first
    | with_reducible assumption
    | split
    | ((with_reducible refine pmRun_keep (fun _ => ?_) ?_); try dsimp only)
    | with_reducible refine setPmb_keep ?_
    | with_reducible refine pmCml_keep ?_)
@[simp] theorem operationOff_keep {z : State} {s : State} {f : Nat} (hz : Keep z s) :
    Keep z (operationOff s f) := by
  unfold operationOff; try dsimp only
  (repeat' first
    | with_reducible assumption
    | split
    | with_reducible refine pmCml_keep ?_
    | with_reducible refine State_setFeed_keep ?_
    | with_reducible refine cpRaise_keep ?_)
@[simp] theorem operationOn_keep {z : State} {s : State} {f : Nat} (hz : Keep z s) :
    Keep z (operationOn s f) := by
  unfold operationOn; try dsimp only
  (repeat' first
    | with_reducible assumption
    | split
    | with_reducible refine State_setFeed_keep ?_)
theorem execPmOperation_keep {z : State} {a : PmAccess} {s : State} (hz : Keep z s) :
    KeepOut z (execPmOperation a s) := by
  unfold execPmOperation; try dsimp only
  (repeat' first
    | with_reducible assumption
    | (with_reducible refine foldl_keep (fun _ _ _ => ?_) _ ?_; try dsimp only)
    | split
    | ((with_reducible refine pmRun_keep (fun _ => ?_) ?_); try dsimp only)
    | with_reducible refine operationOn_keep ?_
    | with_reducible refine operationOff_keep ?_
    | with_reducible refine pmCml_keep ?_)
theorem execPmOnOffConfig_keep {z : State} {a : PmAccess} {s : State} (hz : Keep z s) :
    KeepOut z (execPmOnOffConfig a s) := by
  unfold execPmOnOffConfig; try dsimp only
  (repeat' first
    | with_reducible assumption
    | split
    | with_reducible refine pmReadOnly_keep ?_)
theorem execPmClearFaults_keep {z : State} {a : PmAccess} {s : State} (hz : Keep z s) :
    KeepOut z (execPmClearFaults a s) := by
  unfold execPmClearFaults; dsimp only
  split
  · exact keepOut_next.2 hz
  · split
    · exact keepOut_next.2 (pmCml_keep hz)
    · refine keepOut_next.2 (pmWrite_keep ?_ hz)
      have h := foldl_keep (s0 := z) (s := s) (f := fun t f => t.setFeed f (if (t.feed f).state = .latched then { t.feed f with statusInput := 0, state := .qualify, cause := .none } else { t.feed f with statusInput := 0 }))
        (fun _ _ h => State_setFeed_keep h) (pages s) hz
      exact keep_mk.2 (keepF_of h (fun i => i))
theorem execPmWriteProtect_keep {z : State} {a : PmAccess} {s : State} (hz : Keep z s) :
    KeepOut z (execPmWriteProtect a s) := by
  unfold execPmWriteProtect; try dsimp only
  (repeat' first
    | with_reducible assumption
    | split
    | ((with_reducible refine pmRun_keep (fun _ => ?_) ?_); try dsimp only)
    | with_reducible refine setPmb_keep ?_
    | with_reducible refine pmCml_keep ?_)
theorem execPmCapability_keep {z : State} {a : PmAccess} {s : State} (hz : Keep z s) :
    KeepOut z (execPmCapability a s) := by
  unfold execPmCapability; try dsimp only
  (repeat' first
    | with_reducible assumption
    | split
    | with_reducible refine pmReadOnly_keep ?_)
theorem execPmVinOvFaultLimit_keep {z : State} {a : PmAccess} {s : State} (hz : Keep z s) :
    KeepOut z (execPmVinOvFaultLimit a s) := by
  unfold execPmVinOvFaultLimit; try dsimp only
  (repeat' first
    | with_reducible assumption
    | split
    | ((with_reducible refine pmRun_keep (fun _ => ?_) ?_); try dsimp only)
    | with_reducible refine writeLimit_keep ?_)
theorem execPmVinUvFaultLimit_keep {z : State} {a : PmAccess} {s : State} (hz : Keep z s) :
    KeepOut z (execPmVinUvFaultLimit a s) := by
  unfold execPmVinUvFaultLimit; try dsimp only
  (repeat' first
    | with_reducible assumption
    | split
    | ((with_reducible refine pmRun_keep (fun _ => ?_) ?_); try dsimp only)
    | with_reducible refine writeLimit_keep ?_)
theorem execPmIinOcFaultLimit_keep {z : State} {a : PmAccess} {s : State} (hz : Keep z s) :
    KeepOut z (execPmIinOcFaultLimit a s) := by
  unfold execPmIinOcFaultLimit; try dsimp only
  (repeat' first
    | with_reducible assumption
    | split
    | ((with_reducible refine pmRun_keep (fun _ => ?_) ?_); try dsimp only)
    | with_reducible refine writeLimit_keep ?_)
theorem execPmIinOcWarnLimit_keep {z : State} {a : PmAccess} {s : State} (hz : Keep z s) :
    KeepOut z (execPmIinOcWarnLimit a s) := by
  unfold execPmIinOcWarnLimit; try dsimp only
  (repeat' first
    | with_reducible assumption
    | split
    | ((with_reducible refine pmRun_keep (fun _ => ?_) ?_); try dsimp only)
    | with_reducible refine writeLimit_keep ?_)
theorem execPmStatusByte_keep {z : State} {a : PmAccess} {s : State} (hz : Keep z s) :
    KeepOut z (execPmStatusByte a s) := by
  unfold execPmStatusByte; try dsimp only
  (repeat' first
    | with_reducible assumption
    | split
    | with_reducible refine pmReadOnly_keep ?_)
theorem execPmStatusWord_keep {z : State} {a : PmAccess} {s : State} (hz : Keep z s) :
    KeepOut z (execPmStatusWord a s) := by
  unfold execPmStatusWord; try dsimp only
  (repeat' first
    | with_reducible assumption
    | split
    | with_reducible refine pmReadOnly_keep ?_)
theorem execPmStatusInput_keep {z : State} {a : PmAccess} {s : State} (hz : Keep z s) :
    KeepOut z (execPmStatusInput a s) := by
  unfold execPmStatusInput; try dsimp only
  (repeat' first
    | with_reducible assumption
    | (with_reducible refine foldl_keep (fun _ _ _ => ?_) _ ?_; try dsimp only)
    | split
    | ((with_reducible refine pmRun_keep (fun _ => ?_) ?_); try dsimp only)
    | with_reducible refine State_setFeed_keep ?_)
theorem execPmStatusTemperature_keep {z : State} {a : PmAccess} {s : State} (hz : Keep z s) :
    KeepOut z (execPmStatusTemperature a s) := by
  unfold execPmStatusTemperature; try dsimp only
  (repeat' first
    | with_reducible assumption
    | split
    | ((with_reducible refine pmRun_keep (fun _ => ?_) ?_); try dsimp only)
    | with_reducible refine setPmb_keep ?_)
theorem execPmStatusCml_keep {z : State} {a : PmAccess} {s : State} (hz : Keep z s) :
    KeepOut z (execPmStatusCml a s) := by
  unfold execPmStatusCml; try dsimp only
  (repeat' first
    | with_reducible assumption
    | split
    | ((with_reducible refine pmRun_keep (fun _ => ?_) ?_); try dsimp only)
    | with_reducible refine setPmb_keep ?_)
theorem execPmStatusMfrSpecific_keep {z : State} {a : PmAccess} {s : State} (hz : Keep z s) :
    KeepOut z (execPmStatusMfrSpecific a s) := by
  unfold execPmStatusMfrSpecific; try dsimp only
  (repeat' first
    | with_reducible assumption
    | split
    | ((with_reducible refine pmRun_keep (fun _ => ?_) ?_); try dsimp only)
    | with_reducible refine setPmb_keep ?_)
theorem execPmReadEin_keep {z : State} {a : PmAccess} {s : State} (hz : Keep z s) :
    KeepOut z (execPmReadEin a s) := by
  unfold execPmReadEin; try dsimp only
  (repeat' first
    | with_reducible assumption
    | (with_reducible refine foldl_keep (fun _ _ _ => ?_) _ ?_)
    | split
    | with_reducible refine pmReadOnly_keep ?_)
theorem execPmReadVin_keep {z : State} {a : PmAccess} {s : State} (hz : Keep z s) :
    KeepOut z (execPmReadVin a s) := by
  unfold execPmReadVin; try dsimp only
  (repeat' first
    | with_reducible assumption
    | split
    | with_reducible refine pmReadOnly_keep ?_)
theorem execPmReadIin_keep {z : State} {a : PmAccess} {s : State} (hz : Keep z s) :
    KeepOut z (execPmReadIin a s) := by
  unfold execPmReadIin; try dsimp only
  (repeat' first
    | with_reducible assumption
    | split
    | with_reducible refine pmReadOnly_keep ?_)
theorem execPmReadTemperature1_keep {z : State} {a : PmAccess} {s : State} (hz : Keep z s) :
    KeepOut z (execPmReadTemperature1 a s) := by
  unfold execPmReadTemperature1; try dsimp only
  (repeat' first
    | with_reducible assumption
    | split
    | with_reducible refine pmReadOnly_keep ?_)
theorem execPmReadTemperature2_keep {z : State} {a : PmAccess} {s : State} (hz : Keep z s) :
    KeepOut z (execPmReadTemperature2 a s) := by
  unfold execPmReadTemperature2; try dsimp only
  (repeat' first
    | with_reducible assumption
    | split
    | with_reducible refine pmReadOnly_keep ?_)
theorem execPmReadPin_keep {z : State} {a : PmAccess} {s : State} (hz : Keep z s) :
    KeepOut z (execPmReadPin a s) := by
  unfold execPmReadPin; try dsimp only
  (repeat' first
    | with_reducible assumption
    | split
    | with_reducible refine pmReadOnly_keep ?_)
theorem execPmPmbusRevision_keep {z : State} {a : PmAccess} {s : State} (hz : Keep z s) :
    KeepOut z (execPmPmbusRevision a s) := by
  unfold execPmPmbusRevision; try dsimp only
  (repeat' first
    | with_reducible assumption
    | split
    | with_reducible refine pmReadOnly_keep ?_)
theorem execPmMfrId_keep {z : State} {a : PmAccess} {s : State} (hz : Keep z s) :
    KeepOut z (execPmMfrId a s) := by
  unfold execPmMfrId; try dsimp only
  (repeat' first
    | with_reducible assumption
    | split
    | with_reducible refine pmReadOnly_keep ?_)
theorem execPmMfrModel_keep {z : State} {a : PmAccess} {s : State} (hz : Keep z s) :
    KeepOut z (execPmMfrModel a s) := by
  unfold execPmMfrModel; try dsimp only
  (repeat' first
    | with_reducible assumption
    | split
    | with_reducible refine pmReadOnly_keep ?_)
theorem execPmMfrRevision_keep {z : State} {a : PmAccess} {s : State} (hz : Keep z s) :
    KeepOut z (execPmMfrRevision a s) := by
  unfold execPmMfrRevision; try dsimp only
  (repeat' first
    | with_reducible assumption
    | split
    | with_reducible refine pmReadOnly_keep ?_)
theorem execPmMfrSerial_keep {z : State} {a : PmAccess} {s : State} (hz : Keep z s) :
    KeepOut z (execPmMfrSerial a s) := by
  unfold execPmMfrSerial; try dsimp only
  (repeat' first
    | with_reducible assumption
    | split
    | with_reducible refine pmReadOnly_keep ?_)
theorem execPmMfrRackBudget_keep {z : State} {a : PmAccess} {s : State} (hz : Keep z s) :
    KeepOut z (execPmMfrRackBudget a s) := by
  unfold execPmMfrRackBudget; try dsimp only
  (repeat' first
    | with_reducible assumption
    | split
    | ((with_reducible refine pmRun_keep (fun _ => ?_) ?_); try dsimp only)
    | ((with_reducible refine orDiscard_keep ?_ ?_); try dsimp only)
    | with_reducible refine cpRaise_keep ?_
    | simp only [keep_mk, keep_eta])
theorem execPmMfrFloorShare_keep {z : State} {a : PmAccess} {s : State} (hz : Keep z s) :
    KeepOut z (execPmMfrFloorShare a s) := by
  unfold execPmMfrFloorShare
  refine pmRun_keep (fun v => orDiscard_keep (writeSetting_keep (fun h1 h2 => ?_) hz) hz) hz
  exact keep_mk.2 (keepF_of hz (fun i => ⟨i.1, i.2.1, i.2.2.1, ⟨h1, h2⟩, i.2.2.2.2⟩))
theorem execPmMfrModuleCap_keep {z : State} {a : PmAccess} {s : State} (hz : Keep z s) :
    KeepOut z (execPmMfrModuleCap a s) := by
  unfold execPmMfrModuleCap; try dsimp only
  (repeat' first
    | with_reducible assumption
    | split
    | with_reducible refine pmReadOnly_keep ?_)
theorem execPmMfrDemand_keep {z : State} {a : PmAccess} {s : State} (hz : Keep z s) :
    KeepOut z (execPmMfrDemand a s) := by
  unfold execPmMfrDemand; try dsimp only
  (repeat' first
    | with_reducible assumption
    | split
    | with_reducible refine pmReadOnly_keep ?_)
theorem execPmMfrSteward_keep {z : State} {a : PmAccess} {s : State} (hz : Keep z s) :
    KeepOut z (execPmMfrSteward a s) := by
  unfold execPmMfrSteward; try dsimp only
  (repeat' first
    | with_reducible assumption
    | split
    | with_reducible refine pmReadOnly_keep ?_)
theorem execPmMfrOringMode_keep {z : State} {a : PmAccess} {s : State} (hz : Keep z s) :
    KeepOut z (execPmMfrOringMode a s) := by
  unfold execPmMfrOringMode; try dsimp only
  (repeat' first
    | with_reducible assumption
    | split
    | ((with_reducible refine pmRun_keep (fun _ => ?_) ?_); try dsimp only)
    | ((with_reducible refine writeSetting_keep (fun _ _ => ?_) ?_); try dsimp only)
    | simp only [keep_mk, keep_eta])
theorem execPmMfrInrushSlew_keep {z : State} {a : PmAccess} {s : State} (hz : Keep z s) :
    KeepOut z (execPmMfrInrushSlew a s) := by
  unfold execPmMfrInrushSlew
  refine pmRun_keep (fun v => writeSetting_keep (fun h1 h2 => ?_) hz) hz
  exact keep_mk.2 (keepF_of hz (fun i => ⟨i.1, i.2.1, i.2.2.1, i.2.2.2.1, ⟨h1, h2⟩, i.2.2.2.2.2⟩))
theorem execPmMfrBreakerTime_keep {z : State} {a : PmAccess} {s : State} (hz : Keep z s) :
    KeepOut z (execPmMfrBreakerTime a s) := by
  unfold execPmMfrBreakerTime
  refine pmRun_keep (fun v => writeSetting_keep (fun h1 h2 => ?_) hz) hz
  exact keep_mk.2 (keepF_of hz (fun i => ⟨i.1, i.2.1, i.2.2.1, i.2.2.2.1, i.2.2.2.2.1, ⟨h1, h2⟩, i.2.2.2.2.2.2⟩))
theorem execPmMfrRetryPolicy_keep {z : State} {a : PmAccess} {s : State} (hz : Keep z s) :
    KeepOut z (execPmMfrRetryPolicy a s) := by
  unfold execPmMfrRetryPolicy
  refine pmRun_keep (fun v => writeSetting_keep (fun h1 h2 => ?_) hz) hz
  exact keep_mk.2 (keepF_of hz (fun i => ⟨i.1, i.2.1, i.2.2.1, i.2.2.2.1, i.2.2.2.2.1, i.2.2.2.2.2.1, h2, i.2.2.2.2.2.2.2⟩))
theorem execPmMfrResetCount_keep {z : State} {a : PmAccess} {s : State} (hz : Keep z s) :
    KeepOut z (execPmMfrResetCount a s) := by
  unfold execPmMfrResetCount; try dsimp only
  (repeat' first
    | with_reducible assumption
    | split
    | with_reducible refine pmReadOnly_keep ?_)
theorem execPmMfrLastResetCause_keep {z : State} {a : PmAccess} {s : State} (hz : Keep z s) :
    KeepOut z (execPmMfrLastResetCause a s) := by
  unfold execPmMfrLastResetCause; try dsimp only
  (repeat' first
    | with_reducible assumption
    | split
    | with_reducible refine pmReadOnly_keep ?_)
theorem execPmMfrFastcapLimit_keep {z : State} {a : PmAccess} {s : State} (hz : Keep z s) :
    KeepOut z (execPmMfrFastcapLimit a s) := by
  unfold execPmMfrFastcapLimit
  refine pmRun_keep (fun v => orDiscard_keep (writeSetting_keep (fun h1 h2 => ?_) hz) hz) hz
  exact keep_mk.2 (keepF_of hz (fun i => ⟨i.1, i.2.1, ⟨h1, h2⟩, i.2.2.2⟩))
theorem railsBack_keep {z s : State} (hz : Keep z s) : Keep z { s with comp := railsBack s.comp } := by
  unfold railsBack; exact keep_mk.2 (keepF_of hz (fun i => i))
@[simp] theorem clearHost_keep {z : State} {s : State} (hz : Keep z s) :
    Keep z (clearHost s) := by
  unfold clearHost; simp [hz]
@[simp] theorem hotClears_keep {z : State} {s : State} (hz : Keep z s) :
    Keep z (hotClears s) := by
  unfold hotClears; simp [hz]
@[simp] theorem startReset_keep {z : State} {s : State} {k : ResetKind} {srFail : List Nat} (hz : Keep z s) :
    Keep z (startReset s k srFail) := by
  unfold startReset; try dsimp only
  (repeat' first
    | with_reducible assumption
    | split
    | with_reducible refine dieReset_keep ?_
    | with_reducible refine noteStatusAll_keep ?_
    | simp only [keep_mk, keep_eta])
theorem execPowerOnReset_keep {z : State} {s : State} (hz : Keep z s) :
    KeepOut z (execPowerOnReset s) := by
  unfold execPowerOnReset; try dsimp only
  (repeat' first
    | with_reducible assumption
    | split
    | with_reducible refine powerOn_keep ?_
    | with_reducible refine startReset_keep ?_
    | with_reducible refine writeCause_keep ?_
    | with_reducible refine countReset_keep ?_
    | simp only [keep_mk, keep_eta, keepOut_next])
theorem execColdReset_keep {z : State} {lowNs : Nat} {taken : Bool} {s : State} (hz : Keep z s) :
    KeepOut z (execColdReset lowNs taken s) := by
  unfold execColdReset; (repeat' split) <;> simp [*]
theorem execPerstDeassert_keep {z : State} {s : State} (hz : Keep z s) :
    KeepOut z (execPerstDeassert s) := by
  unfold execPerstDeassert; (repeat' split) <;> simp [*]
theorem execHotReset_keep {z : State} {s : State} (hz : Keep z s) :
    KeepOut z (execHotReset s) := by
  unfold execHotReset; try dsimp only
  (repeat' first
    | with_reducible assumption
    | split
    | with_reducible refine clearHost_keep ?_
    | with_reducible refine hotClears_keep ?_
    | with_reducible refine nextN_keep ?_
    | with_reducible refine noteStatusAll_keep ?_
    | with_reducible refine hotSources_keep ?_
    | simp only [keep_mk, keep_eta, keepOut_next])
theorem execWarmReset_keep {z : State} {srFail : List (Fin 6)} {s : State} (hz : Keep z s) :
    KeepOut z (execWarmReset srFail s) := by
  unfold execWarmReset; (repeat' split) <;> simp [*]
theorem execWatchdogExpiry_keep {z : State} {srFail : List (Fin 6)} {s : State} (hz : Keep z s) :
    KeepOut z (execWatchdogExpiry srFail s) := by
  unfold execWatchdogExpiry; (repeat' split) <;> simp [*]
theorem execThermalTrip_keep {z : State} {sensor : Fin 4} {peak : Int} {srFail : List (Fin 6)} {s : State} (hz : Keep z s) :
    KeepOut z (execThermalTrip sensor peak srFail s) := by
  unfold execThermalTrip; dsimp only
  split
  · exact keepOut_next.2 hz
  · refine keepOut_next.2 (keep_mk.2 (keepF_of (startReset_keep (keep_ite (fun _ => railsBack_keep hz) (fun _ => hz))) (fun i => i)))
theorem execThermalHoldEnd_keep {z : State} {s : State} (hz : Keep z s) :
    KeepOut z (execThermalHoldEnd s) := by
  unfold execThermalHoldEnd; simp [hz]
theorem execResetReleasePhase1_keep {z : State} {goldWe dpw flash : Bool} {s : State} (hz : Keep z s) :
    KeepOut z (execResetReleasePhase1 goldWe dpw flash s) := by
  unfold execResetReleasePhase1; try dsimp only
  (repeat' first
    | with_reducible assumption
    | split
    | with_reducible refine readSettings_keep ?_
    | simp only [keep_mk, keep_eta, keepOut_next])
@[simp] theorem endZeroWaits_keep {z : State} {s : State} (hz : Keep z s) :
    Keep z (endZeroWaits s) := by
  unfold endZeroWaits; try dsimp only
  (repeat' first
    | with_reducible assumption
    | (with_reducible refine foldl_keep (fun _ _ _ => ?_) _ ?_; try dsimp only)
    | split
    | with_reducible refine finishOk_keep ?_
    | with_reducible refine fenceOpen_keep ?_
    | simp only [keep_mk, keep_eta])
theorem execCellZeroingDone_keep {z : State} {rg : Fin 16} {s : State} (hz : Keep z s) :
    KeepOut z (execCellZeroingDone rg s) := by
  unfold execCellZeroingDone; try dsimp only
  (repeat' first
    | with_reducible assumption
    | split
    | with_reducible refine clearRegion_keep ?_
    | with_reducible refine finishReset_keep ?_
    | with_reducible refine nextN_keep ?_
    | with_reducible refine endZeroWaits_keep ?_
    | simp only [keep_mk, keep_eta, keepOut_next])
@[simp] theorem flrVf_keep {z : State} {s : State} {vf : Nat} (hz : Keep z s) :
    Keep z (flrVf s vf) := by
  unfold flrVf; try dsimp only
  (repeat' first
    | with_reducible assumption
    | split
    | with_reducible refine State_setMb_keep ?_
    | with_reducible refine loseWhere_keep ?_
    | with_reducible refine State_setFn_keep ?_
    | with_reducible refine resetFrom_keep ?_)
@[simp] theorem vfsGone_keep {z : State} {s : State} (hz : Keep z s) :
    Keep z (vfsGone s) := by
  unfold vfsGone; try dsimp only
  (repeat' first
    | with_reducible assumption
    | (with_reducible refine foldl_keep (fun _ _ _ => ?_) _ ?_; try dsimp only)
    | split
    | with_reducible refine flrVf_keep ?_
    | simp only [keep_mk, keep_eta])
theorem execFlrPf0_keep {z : State} {s : State} (hz : Keep z s) :
    KeepOut z (execFlrPf0 s) := by
  unfold execFlrPf0; try dsimp only
  (repeat' first
    | with_reducible assumption
    | (with_reducible refine forFns_keep (fun _ _ _ => ?_) ?_; try dsimp only)
    | split
    | with_reducible refine State_setMb_keep ?_
    | with_reducible refine loseWhere_keep ?_
    | with_reducible refine State_setFn_keep ?_
    | with_reducible refine endGrants_keep ?_
    | with_reducible refine clearSession_keep ?_
    | with_reducible refine forFns_keep ?_
    | with_reducible refine vfsGone_keep ?_
    | with_reducible refine nextN_keep ?_
    | simp only [keep_mk, keep_eta, keepOut_next])
theorem execFlrVf_keep {z : State} {vf : Fin 16} {s : State} (hz : Keep z s) :
    KeepOut z (execFlrVf vf s) := by
  unfold execFlrVf; try dsimp only
  (repeat' first
    | with_reducible assumption
    | split
    | with_reducible refine nextN_keep ?_
    | with_reducible refine flrVf_keep ?_
    | simp only [keepOut_next])
theorem execSecondaryBusReset_keep {z : State} {dp : Fin 8} {s : State} (hz : Keep z s) :
    KeepOut z (execSecondaryBusReset dp s) := by
  unfold execSecondaryBusReset; try dsimp only
  (repeat' first
    | with_reducible assumption
    | split
    | with_reducible refine nextN_keep ?_
    | simp only [keep_mk, keep_eta, keepOut_next])
@[simp] theorem cfgEffect_keep {z : State} {s : State} {k : Nat} {q : CfgReq} (hz : Keep z s) :
    Keep z (cfgEffect s k q) := by
  unfold cfgEffect; try dsimp only
  (repeat' first
    | with_reducible assumption
    | split
    | with_reducible refine State_setFn_keep ?_
    | with_reducible refine ringFail_keep ?_
    | with_reducible refine vfsGone_keep ?_
    | simp only [keep_mk, keep_eta])
theorem execConfigRequest_keep {z : State} {target : Fin 27} {q : CfgReq} {s : State} (hz : Keep z s) :
    KeepOut z (execConfigRequest target q s) := by
  unfold execConfigRequest; try dsimp only
  (repeat' first
    | with_reducible assumption
    | split
    | with_reducible refine nextN_keep ?_
    | with_reducible refine cfgEffect_keep ?_
    | simp only [keep_mk, keep_eta, keepOut_next])
@[simp] theorem tellOff_keep {z : State} {s : State} {fn : Nat} (hz : Keep z s) :
    Keep z (tellOff s fn) := by
  unfold tellOff; simp [hz]
@[simp] theorem clearRc_keep {z : State} {s : State} {fn : Nat} {pl : Place} (hz : Keep z s) :
    Keep z (clearRc s fn pl) := by
  unfold clearRc; (repeat' split) <;> simp [*]
@[simp] theorem latch_keep {z : State} {s : State} {fn off : Nat} {v : W64} (hz : Keep z s) :
    Keep z (latch s fn off v) := by
  unfold latch; simp [hz]
@[simp] theorem read32_keep {z : State} {s : State} {fn off : Nat} (hz : Keep z s) :
    Keep z (read32 s fn off) := by
  unfold read32; try dsimp only
  (repeat' first
    | with_reducible assumption
    | split
    | with_reducible refine readOut_keep ?_
    | with_reducible refine tellOff_keep ?_
    | with_reducible refine latch_keep ?_
    | with_reducible refine clearRc_keep ?_
    | with_reducible refine hostPop_keep ?_
    | with_reducible refine hostNackPop_keep ?_)
@[simp] theorem read64_keep {z : State} {s : State} {fn off : Nat} (hz : Keep z s) :
    Keep z (read64 s fn off) := by
  unfold read64; simp [hz]
@[simp] theorem regRead_keep {z : State} {s : State} {fn off bytes : Nat} (hz : Keep z s) :
    Keep z (regRead s fn off bytes) := by
  unfold regRead; try dsimp only
  (repeat' first
    | with_reducible assumption
    | split
    | with_reducible refine readOut_keep ?_
    | with_reducible refine read32_keep ?_
    | with_reducible refine read64_keep ?_
    | simp only [keep_mk, keep_eta])
@[simp] theorem writeIntEnable_keep {z : State} {s : State} {fn : Nat} {v : W32} (hz : Keep z s) :
    Keep z (writeIntEnable s fn v) := by
  unfold writeIntEnable; try dsimp only
  (repeat' first
    | with_reducible assumption
    | (with_reducible refine foldl_keep (fun _ _ _ => ?_) _ ?_; try dsimp only)
    | split
    | with_reducible refine raiseVec_keep ?_
    | with_reducible refine State_setFn_keep ?_)
@[simp] theorem writeBlock_keep {z : State} {s : State} {fn o : Nat} {v : W32} (hz : Keep z s) :
    Keep z (writeBlock s fn o v) := by
  unfold writeBlock; dsimp only
  refine keep_ite (fun _ => keep_ite (fun _ => writeEnable_keep hz) (fun _ => writeDisable_keep hz)) (fun _ => ?_)
  refine keep_ite (fun _ => State_setMb_keep hz) (fun _ => ?_)
  refine keep_ite (fun _ => State_setMb_keep hz) (fun _ => ?_)
  refine keep_ite (fun _ => keep_ite (fun _ => hz) (fun _ => State_setMb_keep hz)) (fun _ => ?_)
  refine keep_ite (fun _ => keep_ite (fun _ => hz) (fun _ => State_setMb_keep hz)) (fun _ => ?_)
  refine keep_ite (fun _ => keep_ite (fun _ => hz) (fun _ => State_setMb_keep hz)) (fun _ => ?_)
  refine keep_ite (fun _ => doorbell_keep hz) (fun _ => ?_)
  refine keep_ite (fun _ => writeRspCi_keep hz) (fun _ => ?_)
  refine keep_ite (fun _ => writeEvtCi_keep hz) (fun _ => ?_)
  refine keep_ite (fun _ => State_setFn_keep hz) (fun _ => ?_)
  refine keep_ite (fun _ => writeIntEnable_keep hz) (fun _ => ?_)
  exact keep_ite (fun _ => keep_ite (fun _ => State_setSes_keep hz) (fun _ => hz)) (fun _ => hz)
@[simp] theorem writePort_keep {z : State} {s : State} {fn n o : Nat} {v : W32} (hz : Keep z s) :
    Keep z (writePort s fn n o v) := by
  unfold writePort; (repeat' split) <;> simp [*]
@[simp] theorem writeResetReq_keep {z : State} {s : State} {v : W32} (hz : Keep z s) :
    Keep z (writeResetReq s v) := by
  unfold writeResetReq; (repeat' split) <;> simp [*]
@[simp] theorem writeDevice_keep {z : State} {s : State} {o : Nat} {v : W32} (hz : Keep z s) :
    Keep z (writeDevice s o v) := by
  unfold writeDevice; (repeat' split) <;> simp [*]
@[simp] theorem write32_keep {z : State} {s : State} {fn off : Nat} {v : W32} (hz : Keep z s) :
    Keep z (write32 s fn off v) := by
  unfold write32; try dsimp only
  (repeat' first
    | with_reducible assumption
    | split
    | with_reducible refine tellOff_keep ?_
    | with_reducible refine writeBlock_keep ?_
    | with_reducible refine writePort_keep ?_
    | with_reducible refine writeDevice_keep ?_)
@[simp] theorem bar2Write_keep {z : State} {s : State} {fn off : Nat} {v : W32} (hz : Keep z s) :
    Keep z (bar2Write s fn off v) := by
  unfold bar2Write; (repeat' split) <;> simp [*]
@[simp] theorem regWrite_keep {z : State} {s : State} {fn off bytes : Nat} {v : W64} (hz : Keep z s) :
    Keep z (regWrite s fn off bytes v) := by
  unfold regWrite; try dsimp only
  (repeat' first
    | with_reducible assumption
    | split
    | with_reducible refine bar2Write_keep ?_
    | with_reducible refine write32_keep ?_)
theorem execRlLowHalfRead_keep {z : State} {fn : Fn} {off bytes : Nat} {s : State} (hz : Keep z s) :
    KeepOut z (execRlLowHalfRead fn off bytes s) := by
  unfold execRlLowHalfRead; (repeat' split) <;> simp [*]
theorem execRcFieldRead_keep {z : State} {fn : Fn} {off bytes : Nat} {s : State} (hz : Keep z s) :
    KeepOut z (execRcFieldRead fn off bytes s) := by
  unfold execRcFieldRead; (repeat' split) <;> simp [*]
theorem execRegisterWrite_keep {z : State} {fn : Fn} {off bytes : Nat} {value : W64} {s : State} (hz : Keep z s) :
    KeepOut z (execRegisterWrite fn off bytes value s) := by
  unfold execRegisterWrite; try dsimp only
  (repeat' first
    | with_reducible assumption
    | split
    | with_reducible refine nextN_keep ?_
    | with_reducible refine regWrite_keep ?_
    | simp only [keepOut_next])
theorem execHzIntEnableWrite_keep {z : State} {fn : Fn} {value : W32} {s : State} (hz : Keep z s) :
    KeepOut z (execHzIntEnableWrite fn value s) := by
  unfold execHzIntEnableWrite; (repeat' split) <;> simp [*]
theorem execHzResetReq_keep {z : State} {fn : Fn} {value : W32} {s : State} (hz : Keep z s) :
    KeepOut z (execHzResetReq fn value s) := by
  unfold execHzResetReq; (repeat' split) <;> simp [*]
@[simp] theorem endTraces_keep {z : State} {s : State} (hz : Keep z s) :
    Keep z (endTraces s) := by
  unfold endTraces; try dsimp only
  (repeat' first
    | with_reducible assumption
    | (with_reducible refine forFns_keep (fun _ _ _ => ?_) ?_; try dsimp only)
    | split
    | with_reducible refine endGrants_keep ?_
    | with_reducible refine forFns_keep ?_
    | with_reducible refine clearSession_keep ?_)
@[simp] theorem serveHeld_keep {z : State} {s : State} {q : BarReq} (hz : Keep z s) :
    Keep z (serveHeld s q) := by
  unfold serveHeld; (repeat' split) <;> simp [*]
@[simp] theorem idlePorts_keep {z : State} {s : State} (hz : Keep z s) :
    Keep z (idlePorts s) := by
  unfold idlePorts; try dsimp only
  (repeat' first
    | with_reducible assumption
    | (with_reducible refine foldl_keep (fun _ _ _ => ?_) _ ?_; try dsimp only)
    | split
    | with_reducible refine State_setPort_keep ?_
    | with_reducible refine settleTrain_keep ?_
    | simp only [keep_mk, keep_eta])
@[simp] theorem wakePorts_keep {z : State} {s : State} (hz : Keep z s) :
    Keep z (wakePorts s) := by
  unfold wakePorts; try dsimp only
  (repeat' first
    | with_reducible assumption
    | (with_reducible refine foldl_keep (fun _ _ _ => ?_) _ ?_; try dsimp only)
    | split
    | with_reducible refine State_setPort_keep ?_
    | simp only [keep_mk, keep_eta])
@[simp] theorem passthroughOff_keep {z : State} {s : State} (hz : Keep z s) :
    Keep z (passthroughOff s) := by
  unfold passthroughOff; try dsimp only
  (repeat' first
    | with_reducible assumption
    | (with_reducible refine foldl_keep (fun _ _ _ => ?_) _ ?_; try dsimp only)
    | split
    | with_reducible refine modDp_keep ?_
    | with_reducible refine slotOff_keep ?_)
@[simp] theorem sleepPart_keep {z : State} {s : State} {p : Nat} (hz : Keep z s) :
    Keep z (sleepPart s p) := by
  unfold sleepPart; try dsimp only
  (repeat' first
    | with_reducible assumption
    | split
    | with_reducible refine endLoads_keep ?_
    | with_reducible refine State_setPt_keep ?_)
@[simp] theorem asleep_keep {z : State} {s : State} (hz : Keep z s) :
    Keep z (asleep s) := by
  have h : Keep z ((List.range 16).foldl sleepPart s) := foldl_keep (fun _ _ h => sleepPart_keep h) _ hz
  unfold asleep
  generalize (List.range 16).foldl sleepPart s = t at h
  dsimp only
  rw [keep_mk]
  refine keepF_of h (fun i => ⟨⟨rfl, ?_⟩, ⟨i.2.1.1, rfl, i.2.1.2.2⟩, i.2.2⟩)
  simp
@[simp] theorem wakeUp_keep {z : State} {s : State} {cause : Nat} (hz : Keep z s) :
    Keep z (wakeUp s cause) := by
  unfold wakeUp; dsimp only
  refine eventAll_keep (foldl_keep (fun _ _ h => serveHeld_keep h) _ (wakePorts_keep (phase2_keep ?_)))
  rw [keep_mk]; exact keepF_pow hz (drawEnergy_settings s [])
@[simp] theorem wakeDeep_keep {z : State} {s : State} {cause : Nat} (hz : Keep z s) :
    Keep z (wakeDeep s cause) := by
  unfold wakeDeep clearHost railsBack; dsimp only
  have h : ∀ u : State, Keep z u → Keep z { u with comp := { u.comp with railsGood := 6 } } := fun u hu => keep_mk.2 (keepF_of hu (fun i => i))
  rw [keep_mk]
  refine keepF_of (wakeUp_keep ?_) (fun i => i)
  rw [keep_mk]; exact keepF_of hz (fun i => i)
@[simp] theorem wakeOff_keep {z : State} {s : State} (hz : Keep z s) :
    Keep z (wakeOff s) := by
  unfold wakeOff; simp [hz]
@[simp] theorem sleepNow_keep {z : State} {s : State} {e : Entering} (hz : Keep z s) :
    Keep z (sleepNow s e) := by
  unfold sleepNow; try dsimp only
  (repeat' first
    | with_reducible assumption
    | split
    | with_reducible refine finishOk_keep ?_
    | with_reducible refine passthroughOff_keep ?_
    | with_reducible refine idlePorts_keep ?_
    | with_reducible refine asleep_keep ?_
    | with_reducible refine wakeUp_keep ?_
    | simp only [keep_mk, keep_eta])
@[simp] theorem enterState_keep {z : State} {s : State} {fn : Nat} {c : Consumed} {target : PowerState} (hz : Keep z s) :
    Keep z (enterState s fn c target) := by
  unfold enterState; try dsimp only
  (repeat' first
    | with_reducible assumption
    | (with_reducible refine foldl_keep (fun _ _ _ => ?_) _ ?_; try dsimp only)
    | split
    | with_reducible refine accept_keep ?_
    | with_reducible refine epochIncomplete_keep ?_
    | with_reducible refine eventAll_keep ?_
    | with_reducible refine endTraces_keep ?_
    | with_reducible refine loseWhere_keep ?_
    | with_reducible refine sendDemand_keep ?_
    | with_reducible refine driveState_keep ?_
    | with_reducible refine modDrive_keep ?_
    | with_reducible refine sleepNow_keep ?_
    | simp only [keep_mk, keep_eta])
theorem powerState_keep {z : State} {fn : Fn} {target : PowerState} {mine : Nat → Bool} {s : State} (hz : Keep z s) :
    KeepOut z (powerState fn target mine s) := by
  unfold powerState; try dsimp only
  (repeat' first
    | with_reducible assumption
    | split
    | with_reducible refine nextN_keep ?_
    | with_reducible refine noteStatusAll_keep ?_
    | with_reducible refine sleepNow_keep ?_
    | with_reducible refine finishSt_keep ?_
    | with_reducible refine enterState_keep ?_
    | simp only [keepOut_next])
theorem execPowerStateSleep_keep {z : State} {fn : Fn} {s : State} (hz : Keep z s) :
    KeepOut z (execPowerStateSleep fn s) := by
  unfold execPowerStateSleep; try dsimp only
  (repeat' first
    | with_reducible assumption
    | split
    | with_reducible refine powerState_keep ?_)
theorem execPowerStateDeep_keep {z : State} {fn : Fn} {s : State} (hz : Keep z s) :
    KeepOut z (execPowerStateDeep fn s) := by
  unfold execPowerStateDeep; try dsimp only
  (repeat' first
    | with_reducible assumption
    | split
    | with_reducible refine powerState_keep ?_)
theorem execPowerStateOff_keep {z : State} {fn : Fn} {s : State} (hz : Keep z s) :
    KeepOut z (execPowerStateOff fn s) := by
  unfold execPowerStateOff; try dsimp only
  (repeat' first
    | with_reducible assumption
    | split
    | with_reducible refine powerState_keep ?_)
theorem execPmeTurnOff_keep {z : State} {s : State} (hz : Keep z s) :
    KeepOut z (execPmeTurnOff s) := by
  unfold execPmeTurnOff; try dsimp only
  (repeat' first
    | with_reducible assumption
    | split
    | with_reducible refine passthroughOff_keep ?_
    | with_reducible refine nextN_keep ?_
    | simp only [keep_mk, keep_eta, keepOut_next])
theorem execPmeWaitTimeout_keep {z : State} {s : State} (hz : Keep z s) :
    KeepOut z (execPmeWaitTimeout s) := by
  unfold execPmeWaitTimeout; (repeat' split) <;> simp [*]
theorem execOffRailRemoval_keep {z : State} {s : State} (hz : Keep z s) :
    KeepOut z (execOffRailRemoval s) := by
  unfold execOffRailRemoval; dsimp only
  split
  · have hd := keep_eta.2 (dieUnpowered_keep hz)
    have hs := keep_eta.2 hz
    refine keepOut_next.2 (keep_mk.2 ⟨hd.1, fun iz => ?_⟩)
    have a := hs.2 iz
    have b := hd.2 iz
    exact ⟨b.1, b.2.1, a.2.2.1, a.2.2.2.1, a.2.2.2.2.1, a.2.2.2.2.2.1, a.2.2.2.2.2.2.1, b.2.2.2.2.2.2.2⟩
  · exact keepOut_next.2 hz
theorem execHostAccessWake_keep {z : State} {q : BarReq} {s : State} (hz : Keep z s) :
    KeepOut z (execHostAccessWake q s) := by
  unfold execHostAccessWake; try dsimp only
  (repeat' first
    | with_reducible assumption
    | split
    | with_reducible refine nextN_keep ?_
    | with_reducible refine noteStatusAll_keep ?_
    | with_reducible refine wakeUp_keep ?_
    | simp only [keep_mk, keep_eta, keepOut_next])
theorem execPerstWake_keep {z : State} {s : State} (hz : Keep z s) :
    KeepOut z (execPerstWake s) := by
  unfold execPerstWake; try dsimp only
  (repeat' first
    | with_reducible assumption
    | split
    | with_reducible refine nextN_keep ?_
    | with_reducible refine noteStatusAll_keep ?_
    | with_reducible refine wakeDeep_keep ?_
    | simp only [keep_mk, keep_eta, keepOut_next])
theorem wakeAny_keep {z : State} {s : State} {cause : Nat} (hz : Keep z s) :
    KeepOut z (wakeAny s cause) := by
  unfold wakeAny; try dsimp only
  (repeat' first
    | with_reducible assumption
    | split
    | with_reducible refine nextN_keep ?_
    | with_reducible refine noteStatusAll_keep ?_
    | with_reducible refine wakeUp_keep ?_
    | with_reducible refine wakeDeep_keep ?_
    | simp only [keep_mk, keep_eta, keepOut_next])
theorem execWakeTimerExpiry_keep {z : State} {s : State} (hz : Keep z s) :
    KeepOut z (execWakeTimerExpiry s) := by
  unfold execWakeTimerExpiry; try dsimp only
  (repeat' first
    | with_reducible assumption
    | split
    | with_reducible refine wakeAny_keep ?_
    | simp only [keepOut_next])
theorem execCompanionFaultWake_keep {z : State} {s : State} (hz : Keep z s) :
    KeepOut z (execCompanionFaultWake s) := by
  unfold execCompanionFaultWake; try dsimp only
  (repeat' first
    | with_reducible assumption
    | split
    | with_reducible refine wakeAny_keep ?_
    | simp only [keepOut_next])
theorem execWakeInRecognised_keep {z : State} {s : State} (hz : Keep z s) :
    KeepOut z (execWakeInRecognised s) := by
  unfold execWakeInRecognised; try dsimp only
  (repeat' first
    | with_reducible assumption
    | split
    | with_reducible refine wakeOff_keep ?_
    | with_reducible refine wakeAny_keep ?_
    | simp only [keep_mk, keep_eta, keepOut_next])
@[simp] theorem coreTrap_keep {z : State} {s : State} {rg p : Nat} {cause tval : Nat} (hz : Keep z s) :
    Keep z (coreTrap s rg p cause tval) := by
  unfold coreTrap; try dsimp only
  (repeat' first
    | with_reducible assumption
    | split
    | with_reducible refine State_setSprout_keep ?_
    | with_reducible refine fault_keep ?_
    | with_reducible refine traceSprout_keep ?_)
@[simp] theorem touchMem_keep {z : State} {s : State} {rg p a n : Nat} (hz : Keep z s) :
    Keep z (touchMem s rg p a n).2 := by
  unfold touchMem; try dsimp only
  (repeat' first
    | with_reducible assumption
    | split
    | with_reducible refine injected_keep ?_
    | with_reducible refine State_setSprout_keep ?_
    | with_reducible refine fault_keep ?_
    | with_reducible refine traceSprout_keep ?_)
theorem touchMem_keepE {z : State} {s : State} {rg p a n : Nat} {u9 : _} {w9 : State} (hz : Keep z s)
    (e9 : touchMem s rg p a n = (u9, w9)) : Keep z w9 := by
  have h := touchMem_keep (z := z) (s := s) (rg := rg) (p := p) (a := a) (n := n) hz; rw [e9] at h; simpa using h
@[simp] theorem pushSteer_keep {z : State} {s : State} {p : Nat} {w : W32} (hz : Keep z s) :
    Keep z (pushSteer s p w) := by
  unfold pushSteer; simp [hz]
@[simp] theorem popInbox_keep {z : State} {s : State} {rg p : Nat} (hz : Keep z s) :
    KeepO z ((popInbox s rg p).map (fun x => x.2)) := by
  unfold popInbox; try dsimp only
  (repeat' first
    | with_reducible assumption
    | split
    | with_reducible refine State_setPt_keep ?_
    | with_reducible refine State_setSprout_keep ?_
    | simp only [keep_mk, keep_eta, keepO_none, keepO_some, keepOut_next, keepOut_fault]) <;> simp [*]
theorem popInbox_keepE {z : State} {s : State} {rg p : Nat} {u9 : _} {w9 : State} (hz : Keep z s)
    (e9 : popInbox s rg p = some (u9, w9)) : Keep z w9 := by
  have h := popInbox_keep (z := z) (s := s) (rg := rg) (p := p) hz; simp only [KeepO] at h; rw [e9] at h; simpa using h
@[simp] theorem readSched_keep {z : State} {s : State} {rg p : Nat} (hz : Keep z s) :
    Keep z (readSched s rg p).2 := by
  unfold readSched; simp [hz]
theorem readSched_keepE {z : State} {s : State} {rg p : Nat} {u9 : _} {w9 : State} (hz : Keep z s)
    (e9 : readSched s rg p = (u9, w9)) : Keep z w9 := by
  have h := readSched_keep (z := z) (s := s) (rg := rg) (p := p) hz; rw [e9] at h; simpa using h
@[simp] theorem csrRead_keep {z : State} {s : State} {rg p n : Nat} (hz : Keep z s) :
    KeepO z ((csrRead s rg p n).map (fun x => x.2)) := by
  have h0 : ∀ (v : W32) (t : State), Keep z t → KeepO z ((some (v, t)).map (fun x => x.2)) := by intro v t h; simpa using h
  unfold csrRead; dsimp only
  repeat' with_reducible refine mapIte_keep (fun _ => ?_) (fun _ => ?_)
  all_goals first | with_reducible exact h0 _ _ hz | with_reducible exact popInbox_keep hz | with_reducible exact h0 _ _ (readSched_keep hz) | with_reducible exact h0 _ _ (sproutChRx_keep hz) | with_reducible exact h0 _ _ (sproutChNack_keep hz)
theorem csrRead_keepE {z : State} {s : State} {rg p n : Nat} {u9 : _} {w9 : State} (hz : Keep z s)
    (e9 : csrRead s rg p n = some (u9, w9)) : Keep z w9 := by
  have h := csrRead_keep (z := z) (s := s) (rg := rg) (p := p) (n := n) hz; simp only [KeepO] at h; rw [e9] at h; simpa using h
@[simp] theorem clearOverrun_keep {z : State} {s : State} {p : Nat} {v : W32} (hz : Keep z s) :
    Keep z (clearOverrun s p v) := by
  unfold clearOverrun; (repeat' split) <;> simp [*]
@[simp] theorem csrWrite_keep {z : State} {s : State} {rg p n : Nat} {v : W32} (hz : Keep z s) :
    KeepO z (csrWrite s rg p n v) := by
  unfold csrWrite; (repeat' split) <;> simp [*]
theorem csrWrite_keepE {z : State} {s : State} {rg p n : Nat} {v : W32}  {w9 : State} (hz : Keep z s)
    (e9 : csrWrite s rg p n v = some w9) : Keep z w9 := by
  have h := csrWrite_keep (z := z) (s := s) (rg := rg) (p := p) (n := n) (v := v) hz; simp only [KeepO] at h; rw [e9] at h; simpa using h
@[simp] theorem csrInstr_keep {z : State} {s : State} {rg p word : Nat} (hz : Keep z s) :
    Keep z (csrInstr s rg p word) := by
  unfold csrInstr; dsimp only
  refine keep_ite (fun _ => coreTrap_keep hz) (fun _ => ?_)
  split
  · exact State_setSprout_keep hz
  · have h := ‹_ = some (_, _)›
    rename_i t _
    have ht : Keep z t := by
      split at h
      · exact csrRead_keepE hz h
      · cases h; exact hz
    split
    · exact State_setSprout_keep ht
    · have h := ‹_ = some _›
      refine retireTo_keep (setX_keep ?_)
      split at h
      · exact csrWrite_keepE ht h
      · cases h; exact ht
@[simp] theorem setF_keep {z : State} {s : State} {rg rd : Nat} {v flags : Nat} (hz : Keep z s) :
    Keep z (setF s rg rd v flags) := by
  unfold setF; simp [hz]
@[simp] theorem raiseFlags_keep {z : State} {s : State} {rg flags : Nat} (hz : Keep z s) :
    Keep z (raiseFlags s rg flags) := by
  unfold raiseFlags; simp [hz]
@[simp] theorem fpOp_keep {z : State} {s : State} {rg word : Nat} {rm : Option Rm} (hz : Keep z s) :
    KeepO z ((fpOp s rg word rm).map (fun x => x.2)) := by
  have h1 : ∀ (n v fl : Nat), KeepO z ((some (n, setF s rg (bitsOf word 11 7) v fl)).map (fun x => x.2)) := by
    intro n v fl; simpa using setF_keep hz
  have h2 : ∀ (n : Nat) (v : W32) (fl : Nat), KeepO z ((some (n, raiseFlags (setX s rg (bitsOf word 11 7) v) rg fl)).map (fun x => x.2)) := by
    intro n v fl; simpa using raiseFlags_keep (setX_keep hz)
  have h3 : KeepO z ((none : Option (Nat × State)).map (fun x => x.2)) := by simp
  unfold fpOp; dsimp only
  repeat' with_reducible refine mapIte_keep (fun _ => ?_) (fun _ => ?_)
  all_goals first | with_reducible exact h1 _ _ _ | with_reducible exact h2 _ _ _ | with_reducible exact h3 | skip
  split
  · exact h3
  · repeat' with_reducible refine mapIte_keep (fun _ => ?_) (fun _ => ?_)
    all_goals first | with_reducible exact h1 _ _ _ | with_reducible exact h2 _ _ _ | with_reducible exact h3
theorem fpOp_keepE {z : State} {s : State} {rg word : Nat} {rm : Option Rm} {u9 : _} {w9 : State} (hz : Keep z s)
    (e9 : fpOp s rg word rm = some (u9, w9)) : Keep z w9 := by
  have h := fpOp_keep (z := z) (s := s) (rg := rg) (word := word) (rm := rm) hz; simp only [KeepO] at h; rw [e9] at h; simpa using h
@[simp] theorem coreLoad_keep {z : State} {s : State} {rg p : Nat} {addr n : Nat} {signed flt : Bool} {rd : Nat} {next : W32} (hz : Keep z s) :
    Keep z (coreLoad s rg p addr n signed flt rd next) := by
  unfold coreLoad; try dsimp only
  (repeat' first
    | with_reducible assumption
    | split
    | with_reducible refine coreTrap_keep ?_
    | with_reducible refine touchMem_keepE ?_ ‹_›
    | with_reducible refine touchMem_keep ?_
    | with_reducible refine retireTo_keep ?_
    | with_reducible refine setF_keep ?_
    | with_reducible refine setX_keep ?_)
@[simp] theorem coreStore_keep {z : State} {s : State} {rg p : Nat} {addr n v : Nat} {ac : Nat} {next : W32} (hz : Keep z s) :
    Keep z (coreStore s rg p addr n v ac next) := by
  unfold coreStore; try dsimp only
  (repeat' first
    | with_reducible assumption
    | split
    | with_reducible refine coreTrap_keep ?_
    | with_reducible refine State_setSprout_keep ?_
    | with_reducible refine touchMem_keepE ?_ ‹_›
    | with_reducible refine touchMem_keep ?_
    | with_reducible refine retireTo_keep ?_)
@[simp] theorem coreSystem_keep {z : State} {s : State} {rg p word raw : Nat} (hz : Keep z s) :
    Keep z (coreSystem s rg p word raw) := by
  unfold coreSystem; (repeat' split) <;> simp [*]
@[simp] theorem coreExec_keep {z : State} {s : State} {rg p word len raw : Nat} (hz : Keep z s) :
    Keep z (coreExec s rg p word len raw) := by
  have ha : ∀ (t : State) (v pc : W32) (ac : Nat), Keep z t → Keep z (retireTo (setX t rg (bitsOf word 11 7) v) rg pc ac) :=
    fun t v pc ac h => retireTo_keep (setX_keep h)
  have hi : Keep z (coreTrap s rg p 2 raw) := coreTrap_keep hz
  unfold coreExec; dsimp only
  repeat' with_reducible refine keep_ite (fun _ => ?_) (fun _ => ?_)
  all_goals first | with_reducible exact ha _ _ _ _ hz | with_reducible exact hi | with_reducible exact ha _ _ _ _ (traceTarget_keep hz) | with_reducible exact retireTo_keep (traceBranch_keep hz) | with_reducible exact coreLoad_keep hz | with_reducible exact coreStore_keep hz | with_reducible exact retireTo_keep hz | with_reducible exact coreSystem_keep hz | skip
  · split
    · exact keep_ite (fun _ => hi) (fun _ => retireTo_keep (setF_keep hz))
    · exact hi
  · split
    · exact retireTo_keep (fpOp_keepE hz ‹_›)
    · exact hi
@[simp] theorem coreStep_keep {z : State} {s : State} {rg p : Nat} (hz : Keep z s) :
    Keep z (coreStep s rg p) := by
  unfold coreStep; try dsimp only
  (repeat' first
    | with_reducible assumption
    | split
    | with_reducible refine coreTrap_keep ?_
    | with_reducible refine touchMem_keepE ?_ ‹_›
    | with_reducible refine touchMem_keep ?_
    | with_reducible refine coreExec_keep ?_)

end Sys2Proof.Machine
end

