-- ==== Sys2Proof/Laws/Keep8.lean ====
section
/-! SUPPORT. Keep, of the operations and meanings of Sequencing, Trace, Update, Tick. -/

namespace Sys2Proof.Machine

@[simp] theorem issueOrStall_keep {z : State} {s : State} {p k c : Nat} (hz : Keep z s) :
    Keep z (issueOrStall s p k c) := by
  unfold issueOrStall; (repeat' split) <;> simp [*]
theorem execSequencerStepIssue_keep {z : State} {pod : Fin 640} {cell : Fin 4} {s : State} (hz : Keep z s) :
    KeepOut z (execSequencerStepIssue pod cell s) := by
  unfold execSequencerStepIssue; try dsimp only
  (repeat' first
    | with_reducible assumption
    | split
    | with_reducible refine nextN_keep ?_
    | with_reducible refine issueOrStall_keep ?_
    | simp only [keepOut_next])
theorem stallEnds_keep {z : State} {s : State} {p : Nat} {c : StallCause} (hz : Keep z s) :
    KeepOut z (stallEnds s p c) := by
  unfold stallEnds; try dsimp only
  (repeat' first
    | with_reducible assumption
    | split
    | with_reducible refine nextN_keep ?_
    | with_reducible refine endStall_keep ?_
    | with_reducible refine setStall_keep ?_
    | simp only [keepOut_next])
theorem execAwaitStallEnd_keep {z : State} {p : Fin 16} {s : State} (hz : Keep z s) :
    KeepOut z (execAwaitStallEnd p s) := by
  unfold execAwaitStallEnd; try dsimp only
  (repeat' first
    | with_reducible assumption
    | split
    | with_reducible refine stallEnds_keep ?_)
theorem execDecideStallEnd_keep {z : State} {p : Fin 16} {s : State} (hz : Keep z s) :
    KeepOut z (execDecideStallEnd p s) := by
  unfold execDecideStallEnd; try dsimp only
  (repeat' first
    | with_reducible assumption
    | split
    | with_reducible refine stallEnds_keep ?_)
theorem execNaturalFold_keep {z : State} {p : Fin 16} {s : State} (hz : Keep z s) :
    KeepOut z (execNaturalFold p s) := by
  unfold execNaturalFold; try dsimp only
  (repeat' first
    | with_reducible assumption
    | split
    | with_reducible refine nextN_keep ?_
    | with_reducible refine foldBoundary_keep ?_
    | simp only [keepOut_next])
theorem execDecisionPoint_keep {z : State} {p : Fin 16} {s : State} (hz : Keep z s) :
    KeepOut z (execDecisionPoint p s) := by
  unfold execDecisionPoint; try dsimp only
  (repeat' first
    | with_reducible assumption
    | split
    | with_reducible refine nextN_keep ?_
    | with_reducible refine issueOrStall_keep ?_
    | simp only [keepOut_next])
theorem execFoldWaitEnd_keep {z : State} {p : Fin 16} {s : State} (hz : Keep z s) :
    KeepOut z (execFoldWaitEnd p s) := by
  unfold execFoldWaitEnd; try dsimp only
  (repeat' first
    | with_reducible assumption
    | split
    | with_reducible refine committed_keep ?_
    | with_reducible refine nextN_keep ?_
    | with_reducible refine enterContext_keep ?_
    | simp only [keepOut_next])
theorem execSteerDelivery_keep {z : State} {p : Fin 16} {s : State} (hz : Keep z s) :
    KeepOut z (execSteerDelivery p s) := by
  unfold execSteerDelivery; (repeat' split) <;> simp [*]
theorem execSummaryArrival_keep {z : State} {p : Fin 16} {s : State} (hz : Keep z s) :
    KeepOut z (execSummaryArrival p s) := by
  unfold execSummaryArrival; try dsimp only
  (repeat' first
    | with_reducible assumption
    | split
    | with_reducible refine nextN_keep ?_
    | with_reducible refine deliverSummaries_keep ?_
    | simp only [keepOut_next])
theorem onCore_keep {z s : State} {rg : Nat} {f : Nat → State → State} (hf : ∀ a t, Keep z t → Keep z (f a t)) (hz : Keep z s) :
    KeepOut z (onCore rg s f) := by
  unfold onCore; split
  · simpa using hz
  · split
    · exact nextN_keep (hf _ _ hz)
    · simpa using hz
theorem execSproutInstruction_keep {z : State} {rg : Fin 16} {s : State} (hz : Keep z s) :
    KeepOut z (execSproutInstruction rg s) := by
  unfold execSproutInstruction; try dsimp only
  (repeat' first
    | with_reducible assumption
    | split
    | ((with_reducible refine onCore_keep (fun _ _ _ => ?_) ?_); try dsimp only)
    | with_reducible refine coreStep_keep ?_)
theorem execSpSteer_keep {z : State} {rg : Fin 16} {w : W32} {s : State} (hz : Keep z s) :
    KeepOut z (execSpSteer rg w s) := by
  unfold execSpSteer; try dsimp only
  (repeat' first
    | with_reducible assumption
    | split
    | ((with_reducible refine onCore_keep (fun _ _ _ => ?_) ?_); try dsimp only)
    | with_reducible refine State_setSprout_keep ?_
    | with_reducible refine retireSp_keep ?_
    | with_reducible refine pushSteer_keep ?_)
theorem execSpSteerUnblock_keep {z : State} {rg : Fin 16} {s : State} (hz : Keep z s) :
    KeepOut z (execSpSteerUnblock rg s) := by
  unfold execSpSteerUnblock; try dsimp only
  (repeat' first
    | with_reducible assumption
    | split
    | with_reducible refine retireSp_keep ?_
    | with_reducible refine setX_keep ?_
    | with_reducible refine pushSteer_keep ?_
    | simp only [keepOut_next])
theorem execSpInboxLo_keep {z : State} {rg : Fin 16} {rd : Fin 32} {s : State} (hz : Keep z s) :
    KeepOut z (execSpInboxLo rg rd s) := by
  unfold execSpInboxLo; try dsimp only
  (repeat' first
    | with_reducible assumption
    | split
    | with_reducible refine popInbox_keepE ?_ ‹_›
    | with_reducible refine retireSp_keep ?_
    | with_reducible refine setX_keep ?_
    | with_reducible refine State_setSprout_keep ?_
    | simp only [keepOut_next])
theorem execSpInboxCtrl_keep {z : State} {rg : Fin 16} {v : W32} {s : State} (hz : Keep z s) :
    KeepOut z (execSpInboxCtrl rg v s) := by
  unfold execSpInboxCtrl; try dsimp only
  (repeat' first
    | with_reducible assumption
    | split
    | ((with_reducible refine onCore_keep (fun _ _ _ => ?_) ?_); try dsimp only)
    | with_reducible refine retireSp_keep ?_
    | with_reducible refine clearOverrun_keep ?_)
theorem execSpSchedFcLo_keep {z : State} {rg : Fin 16} {rd : Fin 32} {s : State} (hz : Keep z s) :
    KeepOut z (execSpSchedFcLo rg rd s) := by
  unfold execSpSchedFcLo; try dsimp only
  (repeat' first
    | with_reducible assumption
    | split
    | ((with_reducible refine onCore_keep (fun _ _ _ => ?_) ?_); try dsimp only)
    | with_reducible refine readSched_keepE ?_ ‹_›
    | with_reducible refine readSched_keep ?_
    | with_reducible refine retireSp_keep ?_
    | with_reducible refine setX_keep ?_)
theorem execWfiWake_keep {z : State} {rg : Fin 16} {s : State} (hz : Keep z s) :
    KeepOut z (execWfiWake rg s) := by
  unfold execWfiWake; (repeat' split) <;> simp [*]
theorem execTraceConfig_keep {z : State} {fn : Fn} {s : State} (hz : Keep z s) :
    KeepOut z (execTraceConfig fn s) := by
  unfold execTraceConfig; try dsimp only
  (repeat' first
    | with_reducible assumption
    | (with_reducible refine foldl_keep (fun _ _ _ => ?_) _ ?_)
    | split
    | ((with_reducible refine withCmd_keep (fun _ _ _ => ?_) ?_); try dsimp only)
    | with_reducible refine finishSt_keep ?_
    | with_reducible refine releaseSink_keep ?_
    | with_reducible refine sesState_keep ?_
    | with_reducible refine finishOk_keep ?_
    | simp only [keep_mk, keep_eta])
theorem execTraceStart_keep {z : State} {fn : Fn} {s : State} (hz : Keep z s) :
    KeepOut z (execTraceStart fn s) := by
  unfold execTraceStart; try dsimp only
  (repeat' first
    | with_reducible assumption
    | split
    | ((with_reducible refine withCmd_keep (fun _ _ _ => ?_) ?_); try dsimp only)
    | with_reducible refine finishSt_keep ?_
    | with_reducible refine sesState_keep ?_
    | with_reducible refine finishOk_keep ?_
    | simp only [keep_mk, keep_eta])
theorem execTraceStop_keep {z : State} {fn : Fn} {s : State} (hz : Keep z s) :
    KeepOut z (execTraceStop fn s) := by
  unfold execTraceStop; try dsimp only
  (repeat' first
    | with_reducible assumption
    | split
    | ((with_reducible refine withCmd_keep (fun _ _ _ => ?_) ?_); try dsimp only)
    | with_reducible refine finishSt_keep ?_
    | with_reducible refine stopOn_keep ?_
    | with_reducible refine begun_keep ?_
    | with_reducible refine State_setSes_keep ?_
    | with_reducible refine finishOk_keep ?_
    | with_reducible refine clearSession_keep ?_)
theorem execTraceAuthorise_keep {z : State} {fn : Fn} {s : State} (hz : Keep z s) :
    KeepOut z (execTraceAuthorise fn s) := by
  unfold execTraceAuthorise; try dsimp only
  (repeat' first
    | with_reducible assumption
    | split
    | ((with_reducible refine withCmd_keep (fun _ _ _ => ?_) ?_); try dsimp only)
    | with_reducible refine finishSt_keep ?_
    | with_reducible refine finishOk_keep ?_
    | with_reducible refine grantEvent_keep ?_
    | simp only [keep_mk, keep_eta])
theorem execTraceRevoke_keep {z : State} {fn : Fn} {s : State} (hz : Keep z s) :
    KeepOut z (execTraceRevoke fn s) := by
  unfold execTraceRevoke; try dsimp only
  (repeat' first
    | with_reducible assumption
    | split
    | ((with_reducible refine withCmd_keep (fun _ _ _ => ?_) ?_); try dsimp only)
    | with_reducible refine finishSt_keep ?_
    | with_reducible refine finishOk_keep ?_
    | with_reducible refine endGrant_keep ?_)
theorem execTraceGrantExpiry_keep {z : State} {id : Fin 32} {s : State} (hz : Keep z s) :
    KeepOut z (execTraceGrantExpiry id s) := by
  unfold execTraceGrantExpiry; (repeat' split) <;> simp [*]
theorem execBranchBufferTimeout_keep {z : State} {fn : Fn} {p : Fin 16} {s : State} (hz : Keep z s) :
    KeepOut z (execBranchBufferTimeout fn p s) := by
  unfold execBranchBufferTimeout; try dsimp only
  (repeat' first
    | with_reducible assumption
    | split
    | with_reducible refine State_setSes_keep ?_
    | simp only [keepOut_next])
theorem execTraceOverflowRecovery_keep {z : State} {fn : Fn} {s : State} (hz : Keep z s) :
    KeepOut z (execTraceOverflowRecovery fn s) := by
  unfold execTraceOverflowRecovery; simp [hz]
@[simp] theorem startCompanion_keep {z : State} {s : State} {d : List Byte} (hz : Keep z s) :
    Keep z (startCompanion s d) := by
  unfold startCompanion; simp [hz]
theorem execSysUpdate_keep {z : State} {fn : Fn} {buf : Option (List Byte)} {s : State} (hz : Keep z s) :
    KeepOut z (execSysUpdate fn buf s) := by
  unfold execSysUpdate; try dsimp only
  (repeat' first
    | with_reducible assumption
    | (with_reducible refine map_getD_keep ?_ (fun _ _ => ?_))
    | (with_reducible refine getD_keep ?_ (fun _ _ => ?_))
    | split
    | with_reducible refine nextN_keep ?_
    | with_reducible refine finishSt_keep ?_
    | with_reducible refine accept_keep ?_
    | with_reducible refine workDone_keep ?_
    | with_reducible refine eventAll_keep ?_
    | with_reducible refine startCompanion_keep ?_
    | simp only [keep_mk, keep_eta, keepOut_next])
@[simp] theorem cutShort_keep {z : State} {s : State} {fn : Nat} {c : Consumed} (hz : Keep z s) :
    Keep z (cutShort s fn c) := by
  unfold cutShort; try dsimp only
  (repeat' first
    | with_reducible assumption
    | split
    | with_reducible refine endCmd_keep ?_
    | with_reducible refine modCmd_keep ?_
    | with_reducible refine postRsp_keep ?_
    | simp only [keep_mk, keep_eta])
theorem execUpdateSwitch_keep {z : State} {s : State} (hz : Keep z s) :
    KeepOut z (execUpdateSwitch s) := by
  unfold execUpdateSwitch; try dsimp only
  (repeat' first
    | with_reducible assumption
    | (with_reducible refine foldl_keep (fun _ _ _ => ?_) _ ?_; try dsimp only)
    | (with_reducible refine forFns_keep (fun _ _ _ => ?_) ?_; try dsimp only)
    | split
    | with_reducible refine forFns_keep ?_
    | with_reducible refine cutShort_keep ?_
    | with_reducible refine nextN_keep ?_
    | with_reducible refine noteStatusAll_keep ?_
    | simp only [keep_mk, keep_eta, keepOut_next])
@[simp] theorem updateDone_keep {z : State} {s : State} {status : Nat} (hz : Keep z s) :
    Keep z (updateDone s status) := by
  unfold updateDone; try dsimp only
  (repeat' first
    | with_reducible assumption
    | (with_reducible refine forFns_keep (fun _ _ _ => ?_) ?_; try dsimp only)
    | split
    | with_reducible refine forFns_keep ?_
    | with_reducible refine raiseAt_keep ?_)
theorem execUpdateSelfcheckPass_keep {z : State} {s : State} (hz : Keep z s) :
    KeepOut z (execUpdateSelfcheckPass s) := by
  unfold execUpdateSelfcheckPass; try dsimp only
  (repeat' first
    | with_reducible assumption
    | split
    | with_reducible refine updateDone_keep ?_
    | with_reducible refine startCompanion_keep ?_
    | with_reducible refine workDone_keep ?_
    | with_reducible refine nextN_keep ?_
    | with_reducible refine noteStatusAll_keep ?_
    | simp only [keep_mk, keep_eta, keepOut_next])
theorem execUpdateSelfcheckTimeout_keep {z : State} {s : State} (hz : Keep z s) :
    KeepOut z (execUpdateSelfcheckTimeout s) := by
  unfold execUpdateSelfcheckTimeout; try dsimp only
  (repeat' first
    | with_reducible assumption
    | split
    | with_reducible refine updateDone_keep ?_
    | with_reducible refine nextN_keep ?_
    | with_reducible refine noteStatusAll_keep ?_
    | with_reducible refine workDone_keep ?_
    | simp only [keep_mk, keep_eta, keepOut_next])
theorem execCompanionUpdateEnd_keep {z : State} {pass : Bool} {s : State} (hz : Keep z s) :
    KeepOut z (execCompanionUpdateEnd pass s) := by
  unfold execCompanionUpdateEnd; try dsimp only
  (repeat' first
    | with_reducible assumption
    | split
    | with_reducible refine cpRaise_keep ?_
    | with_reducible refine workDone_keep ?_
    | simp only [keep_mk, keep_eta, keepOut_next])
@[simp] theorem endWaits_keep {z : State} {s : State} {p : Nat} {c : StallCause} (hz : Keep z s) :
    Keep z (endWaits s p c) := by
  unfold endWaits; (repeat' split) <;> simp [*]
@[simp] theorem beginFc_keep {z : State} {s : State} {p : Nat} (hz : Keep z s) :
    Keep z (beginFc s p) := by
  unfold beginFc; (repeat' split) <;> simp [*]
@[simp] theorem issueAll_keep {z : State} {s : State} {p : Nat} (hz : Keep z s) :
    Keep z (issueAll s p) := by
  unfold issueAll; try dsimp only
  (repeat' first
    | with_reducible assumption
    | (with_reducible refine foldl_keep (fun _ _ _ => ?_) _ ?_; try dsimp only)
    | split
    | with_reducible refine issueStep_keep ?_
    | with_reducible refine entryStep_keep ?_)
@[simp] theorem partFc_keep {z : State} {s : State} {p : Nat} (hz : Keep z s) :
    Keep z (partFc s p) := by
  unfold partFc; try dsimp only
  (repeat' first
    | with_reducible assumption
    | split
    | with_reducible refine deliverSteers_keep ?_
    | with_reducible refine deliverSummaries_keep ?_
    | with_reducible refine endWaits_keep ?_
    | with_reducible refine countFc_keep ?_
    | with_reducible refine beginFc_keep ?_
    | with_reducible refine setStall_keep ?_
    | with_reducible refine issueAll_keep ?_
    | with_reducible refine endFc_keep ?_)
@[simp] theorem gateClocks_keep {z : State} {s : State} (hz : Keep z s) :
    Keep z (gateClocks s) := by
  unfold gateClocks; try dsimp only
  (repeat' first
    | with_reducible assumption
    | (with_reducible refine foldl_keep (fun _ _ _ => ?_) _ ?_; try dsimp only)
    | split
    | with_reducible refine runOrIdle_keep ?_
    | with_reducible refine State_setRgn_keep ?_)
@[simp] theorem passTime_keep {z : State} {s : State} {cyc : Nat} (hz : Keep z s) :
    Keep z (passTime s cyc).2 := by
  unfold passTime; simp [hz]
theorem passTime_keepE {z : State} {s : State} {cyc : Nat} {u9 : _} {w9 : State} (hz : Keep z s)
    (e9 : passTime s cyc = (u9, w9)) : Keep z w9 := by
  have h := passTime_keep (z := z) (s := s) (cyc := cyc) hz; rw [e9] at h; simpa using h
@[simp] theorem passTimers_keep {z : State} {s : State} {reasons ns : Nat} (hz : Keep z s) :
    Keep z (passTimers s reasons ns) := by
  unfold passTimers; try dsimp only
  (repeat' first
    | with_reducible assumption
    | (with_reducible refine foldl_keep (fun _ _ _ => ?_) _ ?_)
    | split
    | simp only [keep_mk, keep_eta])
@[simp] theorem passHeld_keep {z : State} {s : State} (hz : Keep z s) :
    Keep z (passHeld s) := by
  unfold passHeld; (repeat' split) <;> simp [*]
@[simp] theorem passBuckets_keep {z : State} {s : State} {ns : Nat} (hz : Keep z s) :
    Keep z (passBuckets s ns) := by
  unfold passBuckets; simp [hz]
@[simp] theorem passSession_keep {z : State} {s : State} {fn n lcs : Nat} (hz : Keep z s) :
    Keep z (passSession s fn n lcs).2 := by
  unfold passSession; try dsimp only
  (repeat' first
    | with_reducible assumption
    | (with_reducible refine foldl_keep (fun _ _ _ => ?_) _ ?_)
    | split
    | with_reducible refine State_setSes_keep ?_
    | with_reducible refine sinkDrain_keepE ?_ ‹_›
    | with_reducible refine sinkDrain_keep ?_
    | with_reducible refine overflowEnd_keep ?_)
theorem passSession_keepE {z : State} {s : State} {fn n lcs : Nat} {u9 : _} {w9 : State} (hz : Keep z s)
    (e9 : passSession s fn n lcs = (u9, w9)) : Keep z w9 := by
  have h := passSession_keep (z := z) (s := s) (fn := fn) (n := n) (lcs := lcs) hz; rw [e9] at h; simpa using h
@[simp] theorem passTrace_keep {z : State} {s : State} {ns lcs : Nat} (hz : Keep z s) :
    Keep z (passTrace s ns lcs) := by
  unfold passTrace; dsimp only
  refine foldl_pred (fun x : Nat × State => Keep z x.2) ?_ _ _ (by simpa using hz)
  intro b a h; dsimp only; with_reducible exact passSession_keep h
@[simp] theorem fclkTick_keep {z : State} {s : State} (hz : Keep z s) :
    Keep z (fclkTick s) := by
  unfold fclkTick; try dsimp only
  (repeat' first
    | with_reducible assumption
    | (with_reducible refine foldl_keep (fun _ _ _ => ?_) _ ?_; try dsimp only)
    | split
    | with_reducible refine partFc_keep ?_
    | with_reducible refine gateClocks_keep ?_
    | with_reducible refine settleFence_keep ?_
    | with_reducible refine passTime_keepE ?_ ‹_›
    | with_reducible refine passTime_keep ?_
    | with_reducible refine passTrace_keep ?_
    | with_reducible refine passBuckets_keep ?_
    | with_reducible refine passHeld_keep ?_
    | with_reducible refine passTimers_keep ?_
    | simp only [keep_mk, keep_eta])
@[simp] theorem ioscTick_keep {z : State} {s : State} (hz : Keep z s) :
    Keep z (ioscTick s) := by
  unfold ioscTick; simp [hz]
theorem tick_keep {z : State} {s : State} (hz : Keep z s) :
    KeepOut z (tick s) := by
  unfold tick; try dsimp only
  (repeat' first
    | with_reducible assumption
    | split
    | with_reducible refine romStep_keep ?_
    | with_reducible refine nextN_keep ?_
    | with_reducible refine fclkTick_keep ?_
    | with_reducible refine ioscTick_keep ?_
    | simp only [keepOut_next])

end Sys2Proof.Machine
end

