-- ==== Sys2Proof/Laws/Rung.lean ====
section
/-! SUPPORT. What telling the host can change in the functions' registers: MSI-X state and the bits of HZ_INT_STATUS, and nothing else. -/

namespace Sys2Proof.Machine

/-- The registers of every function are as in `s`, but for their MSI-X state and HZ_INT_STATUS. -/
def Rung (s t : State) : Prop := ∀ j, t.fn j = { s.fn j with msix := (t.fn j).msix, intStatus := (t.fn j).intStatus }

theorem Rung.refl (s : State) : Rung s s := fun _ => rfl
theorem Rung.trans {s t u : State} (a : Rung s t) (b : Rung t u) : Rung s u := fun j => by rw [b j, a j]
theorem Rung.counts {s t : State} (h : Rung s t) (j : Nat) : (t.fn j).counts = (s.fn j).counts := by rw [h j]
theorem Rung.lastCode {s t : State} (h : Rung s t) (j : Nat) : (t.fn j).lastCode = (s.fn j).lastCode := by rw [h j]
theorem Rung.lastClass {s t : State} (h : Rung s t) (j : Nat) : (t.fn j).lastClass = (s.fn j).lastClass := by rw [h j]

theorem setFn_rung (s : State) (fn : Nat) (r : FnRegs) (h : r = { s.fn fn with msix := r.msix, intStatus := r.intStatus }) : Rung s (s.setFn fn r) := by
  intro j
  by_cases e : j = fn
  · subst e
    have : (s.setFn j r).fn j = r := tget_tset_self _ _ _ _
    rw [this]; exact h
  · have : (s.setFn fn r).fn j = s.fn j := tget_tset_other _ _ _ e
    rw [this]
theorem setMb_rung (s : State) (fn : Nat) (m : Mailbox) : Rung s (s.setMb fn m) := fun _ => rfl
theorem raiseVec_rung (s : State) (fn v : Nat) : Rung s (raiseVec s fn v) := setFn_rung s fn _ rfl
theorem noteStatus_rung (s0 s : State) (fn : Nat) : Rung s (noteStatus s0 s fn) := by
  unfold noteStatus; split; exacts [raiseVec_rung s fn 2, Rung.refl s]
theorem updMb_rung (s : State) (fn : Nat) (m : Mailbox) : Rung s (updMb s fn m) := (setMb_rung s fn m).trans (noteStatus_rung s _ fn)
theorem ite_rung {c : Prop} [Decidable c] {s t u : State} (a : Rung s t) (b : Rung s u) : Rung s (if c then t else u) := by
  split; exacts [a, b]
theorem postIrq_rung (s : State) (fn : Nat) (evt : Bool) : Rung s (postIrq s fn evt) := by
  unfold postIrq; dsimp only
  refine ite_rung (Rung.refl s) (ite_rung ?_ ?_) <;> exact (raiseVec_rung s fn _).trans (setMb_rung _ fn _)
theorem postRsp_rung (s : State) (fn : Nat) (a : Bool) (c : Consumed) (r : Result) : Rung s (postRsp s fn a c r) := by
  unfold postRsp; dsimp only
  split
  · split; exacts [updMb_rung s fn _, Rung.refl s]
  · exact (setMb_rung s fn _).trans (postIrq_rung _ fn false)
theorem writeEvent_rung (s : State) (fn : Nat) (q : W32) (e : Event) : Rung s (writeEvent s fn q e) :=
  (setMb_rung s fn _).trans (postIrq_rung _ fn true)
theorem flushEvents_rung : ∀ (n : Nat) (s : State) (fn : Nat), Rung s (flushEvents n s fn)
  | 0, s, _ => Rung.refl s
  | n + 1, s, fn => by
    unfold flushEvents; dsimp only
    split
    · exact Rung.refl s
    · split
      · exact Rung.refl s
      · exact (setMb_rung s fn _).trans ((writeEvent_rung _ fn _ _).trans (flushEvents_rung n _ fn))
      · exact (setMb_rung s fn _).trans ((writeEvent_rung _ fn _ _).trans (flushEvents_rung n _ fn))
theorem raiseAt_rung (s : State) (fn : Nat) (e : Event) : Rung s (raiseAt s fn e) := by
  unfold raiseAt; dsimp only; split
  · exact Rung.refl s
  · exact (setMb_rung s fn _).trans (flushEvents_rung _ _ fn)
theorem endCmd_rung (s : State) (fn : Nat) (c : Consumed) (r : Result) : Rung s (endCmd s fn c r) := by
  unfold endCmd; dsimp only; split
  · exact (setMb_rung s fn _).trans (raiseAt_rung _ fn _)
  · exact (setMb_rung s fn _).trans (postRsp_rung _ fn _ _ _)
theorem drainRefusals_rung : ∀ (n : Nat) (s : State) (fn : Nat), Rung s (drainRefusals n s fn)
  | 0, s, _ => Rung.refl s
  | n + 1, s, fn => by
    unfold drainRefusals; dsimp only
    split
    · exact Rung.refl s
    · exact (endCmd_rung s fn _ _).trans (drainRefusals_rung n _ fn)
theorem finish_rung (s : State) (fn id : Nat) (r : Result) : Rung s (finish s fn id r) := by
  unfold finish; split
  · exact Rung.refl s
  · exact (endCmd_rung s fn _ r).trans (drainRefusals_rung _ _ fn)

end Sys2Proof.Machine
end

