-- ==== Sys2Proof/WellFormed.lean ====
section
/-! DEFINITION. Well-formed commands: every operand lies within the width that the manual gives its field. -/

namespace Sys2Proof

/-- The number fits `n` bits. -/
def fits (n v : Nat) : Bool := v < 2 ^ n

/-- A register access names 1 to 8 bytes of a BAR (R3, R5). -/
def accessWf (off bytes : Nat) : Bool := 0 < bytes && bytes ≤ 8 && fits 32 off

/-- A request entry (R202): bytes for class, verb and partition, a 16-bit length and 224 payload bytes. -/
def Req.wf (r : Req) : Bool := fits 8 r.cls && fits 8 r.verb && fits 8 r.partition && fits 16 r.payloadLen && r.payload.length = 224

/-- The companion's measurements fit its 16-bit registers (R70). -/
def Telemetry.wf (t : Telemetry) : Bool := fits 16 t.vinA && fits 16 t.vinB

/-- A PMBus write carries at most a word of two bytes beside its command code, or a block of four. -/
def PmAccess.wf : PmAccess → Bool
  | .read => true
  | .write v _ => fits 32 v

/-- The fields of a vector instruction fit its 64 bits (R311). -/
def VInstr.wf (v : VInstr) : Bool := fits 3 v.ty && fits 2 v.pred && fits 9 v.dst && fits 9 v.a && fits 9 v.b && fits 9 v.c && fits 13 v.imm

/-- A host request to a BAR. -/
def BarReq.wf (q : BarReq) : Bool := q.fn < 17 && accessWf q.off q.bytes

/-- The fields of a flit (R551), and the 244 bytes of a payload. -/
def Flit.wf (f : Flit) : Bool :=
  fits 8 f.seq && fits 8 f.ackSeq && fits 2 f.vc && fits 1 f.cls && f.kind < 3 && fits 3 f.crVcc && fits 4 f.crCount && f.payload.length ≤ 244

/-- The fields of a marker block (R549). -/
def Marker.wf (m : Marker) : Bool := fits 16 m.epoch && fits 64 m.txTime && fits 64 m.echoTime && fits 32 m.echoDelay

/-- The fields of a BULK transaction (R561, R562). -/
def Bulk.wf (b : Bulk) : Bool :=
  fits 7 b.src && fits 8 b.srcPart && fits 8 b.dstPart && fits 32 b.xfer && fits 64 b.offset && fits 8 b.engine && fits 32 b.key
    && b.content.length ≤ 0x100000 && b.poison.all (fun w => w < b.content.length / 64 + 1)

/-- The fields of a SYNC record (R561, R567). -/
def SyncRec.wf (r : SyncRec) : Bool := fits 7 r.src && fits 8 r.srcPart && fits 8 r.dstPart && fits 8 r.result

/-- The fields of a TIME record (R567). -/
def TimeRec.wf (r : TimeRec) : Bool := fits 8 r.master && fits 8 r.hops

/-- The fields of a MSG record (R478, R561, R564). -/
def MsgRec.wf (m : MsgRec) : Bool :=
  fits 7 m.src && fits 8 m.srcPart && fits 8 m.dstPart && fits 8 m.chan && fits 8 m.peer && fits 8 m.a && fits 8 m.b && fits 8 m.c && m.words.length ≤ 4

/-- A transaction layer packet is posted, non-posted or a completion, with at most 4,096 bytes of data. -/
def Tlp.wf (t : Tlp) : Bool := t.kind < 3 && t.length ≤ 4096

/-- A drive's memory request has a 64-bit address. -/
def DriveReq.wf : DriveReq → Bool
  | .read a _ => fits 64 a
  | .write a _ _ => fits 64 a

/-- A drive's serial number has 20 characters, and each of its namespaces a number other than zero (R631, R632). -/
def DriveInfo.wf (d : DriveInfo) : Bool := d.serial.length = 20 && d.nss.all (fun n => n.nsid ≠ 0)

/-- The fields of a DEMAND, which names its sender by link-ID (R788). -/
def Demand.wf (d : Demand) : Bool :=
  fits 7 d.src && fits 8 d.domain && fits 16 d.demand && fits 16 d.floor && fits 16 d.power && fits 16 d.budget && fits 8 d.budgetLink && fits 64 d.budgetStamp && fits 32 d.round

/-- The fields of a GRANT (R788). -/
def Grant.wf (g : Grant) : Bool := fits 8 g.domain && fits 16 g.watts && fits 32 g.round && fits 16 g.budget && fits 8 g.heard

/-- Energy estimates name the regions 0 to 15, the engines 0 to 4 and the members 0 to 16 (R801). -/
def EnergySlice.wf (e : EnergySlice) : Bool := e.regions.all (fun r => r.1 < 16) && e.segments.all (fun x => x.1 < 5 && x.2.1 < 17)

/-- A node or input voltage in mV fits 16 bits. -/
def voltWf (v : Nat) : Bool := fits 16 v

/-- A companion address and a burst's length fit their fields. -/
def burstWf (addr n : Nat) : Bool := fits 16 addr && fits 16 n

/-- The operands of a command fit their fields. (DESIGN CHOICE: log entry 7.) -/
def Instr.wf : Instr → Bool
  | .rlLowHalfRead _ off bytes => accessWf off bytes
  | .rcFieldRead _ off bytes => accessWf off bytes
  | .registerWrite _ off bytes _ => accessWf off bytes
  | .feedQualify _ vin => voltWf vin
  | .qualifyWindowExpiry _ => true
  | .vinOutOfWindow _ vin => voltWf vin
  | .feedPowerGood _ node vin => voltWf node && voltWf vin
  | .rampTimeout _ => true
  | .vinUvFall _ vin => voltWf vin
  | .ovTrip _ vin _ => voltWf vin
  | .ocTimerTrip _ _ => true
  | .ocFastTrip _ _ => true
  | .ocWarn _ _ => true
  | .retryTimerExpiry _ => true
  | .retryCountRestore _ => true
  | .inrushSlewAdjust _ _ => true
  | .reverseCurrentTrip _ _ => true
  | .oringModeApply => true
  | .slotOnRequest _ => true
  | .slotOffRequest _ => true
  | .bayRampStart => true
  | .bayPowerGood _ => true
  | .bayRampTimeout _ => true
  | .bayOvercurrentTrip _ => true
  | .bayDischarged _ => true
  | .auxLoss => true
  | .companionStart _ => true
  | .dieRstoutFall _ => true
  | .dieRstoutRise => true
  | .wakeInRecognised => true
  | .errlogCommit => true
  | .companionSpiRead addr count => burstWf addr count
  | .companionSpiWrite addr data _ => burstWf addr data.length
  | .vregRequest mv _ => voltWf mv
  | .vregSettled vout => voltWf vout
  | .regFaultDetected _ _ => true
  | .telemetryRefresh t => t.wf
  | .fastcapThresholdReload => true
  | .fastcapAssert _ _ => true
  | .fastcapRelease _ _ => true
  | .companionIrq => true
  | .pmPage a => a.wf
  | .pmOperation a => a.wf
  | .pmOnOffConfig a => a.wf
  | .pmClearFaults a => a.wf
  | .pmWriteProtect a => a.wf
  | .pmCapability a => a.wf
  | .pmVinOvFaultLimit a => a.wf
  | .pmVinUvFaultLimit a => a.wf
  | .pmIinOcFaultLimit a => a.wf
  | .pmIinOcWarnLimit a => a.wf
  | .pmStatusByte a => a.wf
  | .pmStatusWord a => a.wf
  | .pmStatusInput a => a.wf
  | .pmStatusTemperature a => a.wf
  | .pmStatusCml a => a.wf
  | .pmStatusMfrSpecific a => a.wf
  | .pmReadEin a => a.wf
  | .pmReadVin a => a.wf
  | .pmReadIin a => a.wf
  | .pmReadTemperature1 a => a.wf
  | .pmReadTemperature2 a => a.wf
  | .pmReadPin a => a.wf
  | .pmPmbusRevision a => a.wf
  | .pmMfrId a => a.wf
  | .pmMfrModel a => a.wf
  | .pmMfrRevision a => a.wf
  | .pmMfrSerial a => a.wf
  | .pmMfrRackBudget a => a.wf
  | .pmMfrFloorShare a => a.wf
  | .pmMfrModuleCap a => a.wf
  | .pmMfrDemand a => a.wf
  | .pmMfrSteward a => a.wf
  | .pmMfrOringMode a => a.wf
  | .pmMfrInrushSlew a => a.wf
  | .pmMfrBreakerTime a => a.wf
  | .pmMfrRetryPolicy a => a.wf
  | .pmMfrResetCount a => a.wf
  | .pmMfrLastResetCause a => a.wf
  | .pmMfrFastcapLimit a => a.wf
  | .companionUpdateEnd _ => true
  | .pllLockAchieved => true
  | .clockLossDetected _ => true
  | .fclkDividerChange => true
  | .droopStretchStart => true
  | .droopStretchEnd => true
  | .droopHold => true
  | .droopHoldExpiry => true
  | .powerOnReset => true
  | .coldReset _ _ => true
  | .perstDeassert => true
  | .hotReset => true
  | .warmReset _ => true
  | .watchdogExpiry _ => true
  | .thermalTrip _ _ _ => true
  | .thermalHoldEnd => true
  | .flrPf0 => true
  | .flrVf _ => true
  | .secondaryBusReset _ => true
  | .resetReleasePhase1 _ _ _ => true
  | .cellZeroingDone _ => true
  | .configRequest _ _ => true
  | .wdogStreakClear => true
  | .flashReadTimeout => true
  | .pllLock => true
  | .outputRelease => true
  | .srRelease _ => true
  | .writeEnable => true
  | .sectionDeployment => true
  | .moduleReady => true
  | .doneHigh => true
  | .doneTimeout => true
  | .flashErase _ _ => true
  | .flashProgram _ _ _ => true
  | .flashRead _ => true
  | .flashVerifyCrc _ => true
  | .flashVerifyCompare _ _ => true
  | .flashVerifyImage _ => true
  | .flashUnlock _ => true
  | .flashLock _ => true
  | .goldenUnlockExpiry => true
  | .mailboxEnable _ => true
  | .mailboxDisable _ => true
  | .mailboxStopped _ => true
  | .requestDoorbell _ _ => true
  | .requestConsume _ r => r.wf
  | .responseCiWrite _ _ => true
  | .eventCiWrite _ _ => true
  | .pendingEventPost _ => true
  | .ringAccessFail _ => true
  | .interruptHoldoffExpiry _ _ => true
  | .progressReport _ _ _ _ => true
  | .longCommandComplete _ _ => true
  | .sysInfo _ => true
  | .sysReset _ => true
  | .sysUpdate _ _ => true
  | .sysEventMask _ => true
  | .sysEcho _ => true
  | .updateSwitch => true
  | .updateSelfcheckPass => true
  | .updateSelfcheckTimeout => true
  | .regionQuery _ => true
  | .regionApplyMap _ _ => true
  | .podQuarantine _ => true
  | .podReturn _ _ => true
  | .mapStoreWriteComplete _ => true
  | .cellRead _ _ _ => true
  | .cellWrite _ _ _ => true
  | .eccWriteBack _ _ _ => true
  | .macNew _ _ _ _ => true
  | .macAcc _ _ _ _ => true
  | .matClear _ _ => true
  | .wload _ _ _ => true
  | .wswap _ => true
  | .matDrain _ _ _ => true
  | .vNop _ v => v.wf
  | .vAdd _ v => v.wf
  | .vSub _ v => v.wf
  | .vMul _ v => v.wf
  | .vFma _ v => v.wf
  | .vFms _ v => v.wf
  | .vMax _ v => v.wf
  | .vMin _ v => v.wf
  | .vAbs _ v => v.wf
  | .vScaleb _ v => v.wf
  | .vAnd _ v => v.wf
  | .vOr _ v => v.wf
  | .vXor _ v => v.wf
  | .vShl _ v => v.wf
  | .vShr _ v => v.wf
  | .vSra _ v => v.wf
  | .vMovi _ v => v.wf
  | .vSplat _ v => v.wf
  | .vCmp _ v => v.wf
  | .vSel _ v => v.wf
  | .vCvt _ v => v.wf
  | .vUnpack _ v => v.wf
  | .vRsum _ v => v.wf
  | .vRmax _ v => v.wf
  | .vRmin _ v => v.wf
  | .vRargmax _ v => v.wf
  | .vExp2 _ v => v.wf
  | .vLog2 _ v => v.wf
  | .vRcp _ v => v.wf
  | .vRsqrt _ v => v.wf
  | .vTanh _ v => v.wf
  | .vErf _ v => v.wf
  | .vPerm _ v => v.wf
  | .vRot _ v => v.wf
  | .vFunnel _ v => v.wf
  | .vZip _ v => v.wf
  | .vUnzip _ v => v.wf
  | .vRecv _ v => v.wf
  | .vSend _ v => v.wf
  | .vEmit _ v => v.wf
  | .sequencerStepIssue _ _ => true
  | .awaitStallEnd _ => true
  | .naturalFold _ => true
  | .decisionPoint _ => true
  | .decideStallEnd _ => true
  | .foldWaitEnd _ => true
  | .steerDelivery _ => true
  | .summaryArrival _ => true
  | .sproutInstruction _ => true
  | .spSteer _ _ => true
  | .spSteerUnblock _ => true
  | .spInboxLo _ _ => true
  | .spInboxCtrl _ _ => true
  | .spSchedFcLo _ _ => true
  | .wfiWake _ => true
  | .imageStage _ _ => true
  | .imageCheck _ => true
  | .imageDrop _ => true
  | .partLoad _ => true
  | .partLoadCancel _ => true
  | .partStart _ => true
  | .partAbort _ => true
  | .slotShiftStart _ => true
  | .slotShiftComplete _ _ _ => true
  | .moverScheduleIssue _ _ => true
  | .partCreate _ => true
  | .partDestroy _ => true
  | .partAssign _ => true
  | .partQuery _ => true
  | .partSetShare _ => true
  | .partSave _ => true
  | .partResume _ => true
  | .partReset _ => true
  | .partPowerOff _ => true
  | .partPowerOn _ => true
  | .memWindowGrant _ => true
  | .memWindowRevoke _ => true
  | .windowZeroingComplete _ => true
  | .drainWindowExpiry _ => true
  | .fenceStuck _ => true
  | .regulatorRefillTick => true
  | .engineSegmentComplete _ _ => true
  | .chanOpen _ => true
  | .chanClose _ => true
  | .chanQuery _ => true
  | .pairRecordRepeat _ => true
  | .pairRecordReceive m => m.wf
  | .messageRecordReceive m => m.wf
  | .creditRecordReceive m => m.wf
  | .nackFullReceive m => m.wf
  | .closeRecordReceive m => m.wf
  | .chTxSend _ _ _ => true
  | .chRxPop _ _ => true
  | .chNackPop _ => true
  | .spChSend _ _ => true
  | .spChSendUnblock _ => true
  | .spChRx _ _ => true
  | .spChNack _ _ => true
  | .messageDelivery _ => true
  | .creditReturn _ => true
  | .msgRecordTransmit _ => true
  | .creditRecordTimer _ => true
  | .channelRouteTimeout _ => true
  | .msgGapTimeout _ => true
  | .memCopy _ => true
  | .memFill _ => true
  | .memQuery _ => true
  | .moverCopy _ => true
  | .moverFill _ => true
  | .moverDescriptorComplete _ => true
  | .moverDescriptorFail _ => true
  | .patrolScrub _ => true
  | .copyOnWrite _ _ _ _ => true
  | .cowCopyComplete _ => true
  | .reserveEntryFreed _ => true
  | .embTableCreate _ => true
  | .embTableDestroy _ => true
  | .embCounters _ => true
  | .embMigrate _ => true
  | .embReplicateAdd _ => true
  | .embReplicateRemove _ => true
  | .embReplicateClear _ => true
  | .embGather _ => true
  | .embScatter _ => true
  | .embStep _ _ => true
  | .bundleRequestReceive b => b.wf
  | .bundleReplyReceive b => b.wf
  | .bundleUpdateReceive b => b.wf
  | .bundleUpdateAckReceive b => b.wf
  | .bundleRowsPushReceive b => b.wf
  | .bundleBlockMoveReceive b => b.wf
  | .embFenceTimeout _ _ => true
  | .flitReceive _ f _ => f.wf
  | .markerBlockReceive _ m _ => m.wf
  | .laneEpochMarker _ => true
  | .laneFailure _ _ => true
  | .laneSetApply _ => true
  | .laneRetrainComplete _ _ _ => true
  | .bulkWriteReceive b => b.wf
  | .bulkEngineReceive b => b.wf
  | .bulkCompleteReceive _ status => fits 16 status
  | .bulkCompleteTimeout _ => true
  | .helloTransmit _ => true
  | .helloReceive _ _ _ => true
  | .timeRecordTransmit _ => true
  | .timeRecordReceive _ r => r.wf
  | .timeMasterTimeout => true
  | .barrierArrive r => r.wf
  | .barrierRelease r => r.all SyncRec.wf
  | .transitForward _ _ _ _ => true
  | .portTrainingComplete _ _ _ => true
  | .portRetryTimer _ => true
  | .portLoss _ _ => true
  | .linkQuery _ => true
  | .linkTrain _ => true
  | .linkReset _ => true
  | .routeSetRoutingImage _ _ => true
  | .routeSetPeerTable _ _ => true
  | .linkCollective _ => true
  | .collectiveStepComplete _ _ => true
  | .collectiveTimeoutExpiry _ _ => true
  | .tlpForward _ arrive _ _ => arrive.all (fun a => a.2.wf)
  | .powerControllerControlWrite _ _ => true
  | .presenceChange _ _ => true
  | .driveSurpriseRemoval _ => true
  | .dpPerstRelease _ => true
  | .downstreamLinkUp _ _ _ _ _ => true
  | .nvmeCompletionReceive _ cid nvme _ _ info => info.wf && fits 16 cid && fits 16 nvme
  | .clkreqAssert _ => true
  | .driveIdleTimeout _ => true
  | .driveWake _ => true
  | .driveWakeTimeout _ => true
  | .nvmeCommandTimeout _ cid => fits 16 cid
  | .driveMemoryRequest _ r _ => r.wf
  | .dpcTrigger _ => true
  | .captiveLinkError _ _ _ => true
  | .hubQuery _ => true
  | .hubPortMode _ => true
  | .hubSlotPowerOn _ => true
  | .hubSlotPowerOff _ => true
  | .hubNsAssign _ => true
  | .hubNvmeAdmin _ _ => true
  | .huskConfig _ => true
  | .huskSnap _ => true
  | .huskQuery _ => true
  | .huskFlip _ => true
  | .huskPauseEnd _ => true
  | .snapWaitTimeout => true
  | .drainSegmentIssue => true
  | .snapOutcomeReceive _ _ _ => true
  | .systemWaitTimeout epoch => fits 64 epoch
  | .volumeMount _ _ => true
  | .huskVolumeFormatCreate _ => true
  | .huskVolumeFormatGuest _ => true
  | .huskVolumeFormatReplace _ => true
  | .huskVolumeFormatRelease _ => true
  | .huskCompact _ => true
  | .huskRestore _ => true
  | .restoreResume => true
  | .buddyOpen _ volume epoch n => fits 64 volume && fits 64 epoch && fits 32 n
  | .buddyCommit _ volume epoch n => fits 64 volume && fits 64 epoch && fits 32 n
  | .buddyAck _ volume epoch _ status => fits 64 volume && fits 64 epoch && fits 16 status
  | .buddyFetch _ volume epoch key mask _ => fits 64 volume && fits 64 epoch && fits 32 key && fits 16 mask
  | .buddyFetchDone _ volume epoch sent status => fits 64 volume && fits 64 epoch && fits 32 sent && fits 16 status
  | .buddyAckTimeout => true
  | .buddyFetchTimeout => true
  | .powerQuery _ => true
  | .powerStateSleep _ => true
  | .powerStateDeep _ => true
  | .powerStateOff _ => true
  | .powerCap _ => true
  | .powerBudgetConfig _ => true
  | .powerRegionGateOn _ => true
  | .powerRegionGateOff _ => true
  | .powerEnergy _ => true
  | .regionClockUngate _ => true
  | .pmeTurnOff => true
  | .pmeWaitTimeout => true
  | .offRailRemoval => true
  | .hostAccessWake q => q.wf
  | .perstWake => true
  | .wakeTimerExpiry => true
  | .companionFaultWake => true
  | .fclkCeilingEvaluation _ _ => true
  | .thermalCeilingUpdate _ _ => true
  | .rackBudgetTake => true
  | .budgetReceive _ domain value stamp => fits 64 stamp && fits 8 domain && fits 16 value
  | .demandTransmit _ _ => true
  | .demandReceive d => d.wf
  | .grantCompute => true
  | .grantReceive _ g => g.wf
  | .grantRaiseApply => true
  | .grantSilenceTimeout => true
  | .energyAttribution slice => slice.wf
  | .traceConfig _ => true
  | .traceStart _ => true
  | .traceStop _ => true
  | .traceAuthorise _ => true
  | .traceRevoke _ => true
  | .traceGrantExpiry _ => true
  | .branchBufferTimeout _ _ => true
  | .traceOverflowRecovery _ => true
  | .faultReadLog _ _ => true
  | .faultClear _ => true
  | .faultPolicy _ => true
  | .faultInjectRecord _ => true
  | .faultInjectCellEcc _ => true
  | .faultInjectHbmEcc _ => true
  | .faultInjectLinkCrc _ => true
  | .errlogCommitDrain => true
  | .companionLogPoll => true
  | .errorRecordedHoldoff _ => true
  | .poisonedTlpReceive _ _ => true
  | .hostCompletionTimeout _ _ => true
  | .hzIntEnableWrite _ _ => true
  | .hzResetReq _ _ => true
  | .dieRailGood => true
  | .dieRailTimeout => true
  | .feedsLost => true
  | .jtagBypass _ _ _ => true
  | .jtagSamplePreload _ _ _ => true
  | .jtagExtest _ _ _ => true
  | .jtagIdcode _ _ _ => true
  | .jtagClamp _ _ _ => true
  | .jtagHighz _ _ _ => true
  | .hazelSramUe _ => true
  | .pllLockTimeout => true
  | .clkreqRelease _ => true
  | .controllerReady _ => true
  | .controllerReadyTimeout _ => true
  | .shutdownComplete _ => true
  | .shutdownTimeout _ => true
  | .nvmeAdminTimeout _ cid => fits 16 cid
  | .trstNAssert => true

end Sys2Proof
end

