-- ==== Sys2Proof/Tests/Slice0.lean ====
section
/-! SUPPORT. States that meet the hypotheses of each statement, and the model's own tests. -/

set_option linter.unusedVariables false

open Sys2Proof Sys2Proof.Machine

namespace Sys2Proof.Tests

/-- A state whose companion runs. -/
def comp0 : State := { State.reset with comp := { State.reset.comp with running := true } }
/-- The companion runs, and feed 0 is in a given state. -/
def feedIn (x : FeedState) : State := comp0.setFeed 0 { Feed.init with state := x }
/-- Both feeds are in ON. -/
def bothOn : State := (feedIn .on).setFeed 1 { Feed.init with state := .on }
/-- The die is up: rails good, out of reset, Hazel running, in RUN. -/
def live : State :=
  { bothOn with
    comp := { bothOn.comp with railsOn := true, railsGood := 6, modpwr := true, vreg := { Vreg.init with setpoint := 850, settled := true, lastSettled := 850 } }
    clk := { Clocks.init with root := true, pllEnabled := true, pllLocked := true, run := true }
    rst := { Resets.init with powered := true, hubOut := true, socOut := true, hbmOut := true, linkOut := true, epReady := true }
    boot := { Boot.init with hazel := .running }
    hbm := { Hbm.init with ready := true } }

end Sys2Proof.Tests

open Sys2Proof.Tests

namespace Sys2Proof.Tests

/-- A request as Hazel consumed it, not started. -/
def asking (cls verb timing part : Nat) (payload : List Byte) : Consumed :=
  { id := 1, req := { cls := cls, verb := verb, fence := false, reservedZero := true, partition := part, tag := 7, payloadLen := payload.length
                      jobId := 0, payload := payload }
    gen := 1, timing := timing, slots := if timing = 2 then 2 else 1, started := false, refusal := none, result := none, orphan := false }
/-- The state with that request as the one request of function `fn`'s mailbox, which is enabled. -/
def asked (s : State) (fn : Nat) (c : Consumed) : State :=
  { s with host := { s.host with
      mb := tset s.host.mb fn { s.mb fn with enable := true, enabled := true, gen := 1, reqPi := 1, reqCi := 1, consumed := [c] }
      fn := tset s.host.fn fn { s.fn fn with bme := true }, nextId := 1 } }
/-- The module is ready and past DONE, with flash contents to be read. -/
def ready : State := { live with boot := { live.boot with deployed := true, done := .passed, dieDone := false, stepsDone := 4, writeEnable := true }, rst := { live.rst with active := false, perst := false } }

end Sys2Proof.Tests
namespace Sys2Proof.Tests

/-- Every region is out of reset and its FCLK gate is open. -/
def fabUp : State :=
  { ready with
    rst := { ready.rst with fabOut := List.range 16 }
    fab := { ready.fab with regions := (List.range 16).map (fun r => (r, { Region.init with clocked := true })) } }
/-- Partition 0 holds region 0 in a given state, with PF0's and its own function's masters enabled. -/
def part0 (x : PartState) : State := fabUp.setPt 0 { Part.init with state := x, origin := 0, w := 1, h := 1, tenant := true, powered := true, windows := [(0, 1)] }
/-- Partition 0 runs, its context slot 0 active. -/
def running1 : State := fabUp.setPt 0 { (part0 .running).pt 0 with run := { Run.init with active := some 0 }, slots := [(0, { state := .committed, handle := 0, ctx := 0 })] }

end Sys2Proof.Tests
namespace Sys2Proof.Tests

/-- Partition 0 runs a context of image handle 0 whose cell 0 of pod 0 has a sequence of one step, due now. -/
def seq1 (step : List Byte) : State :=
  let x := running1.pt 0
  let img : Image := { length := 0, w := 1, h := 1, initial := 0, sproutEntry := 0, bounds := [], reportId := 0
                       ctxs := [{ slot := 0, next := 4, paceCell := 0, pacePod := 0, passFc := 0, reportFc := 0, records := [] }]
                       sprout := [], movers := [], fingerprints := [], sproutAt := (0, 0), reads := [] }
  let t := running1.setPt 0 { x with handles := [(0, { offset := 0, length := 0, image := img, recheck := false })] }
  t.setPod 0 { t.pod 0 with slots := [(0, { switch := [], seq := [(0, [1, 1] ++ List.replicate 94 0 ++ step)], mode := [], program := [] })] }
/-- The leader's core of partition 0 runs. -/
def core1 : State := running1.setSprout 0 { Sprout.init with run := .running }

end Sys2Proof.Tests
namespace Sys2Proof.Tests

/-- Partition 0 runs with pod 0 in a given matrix mode. -/
def macMode (m : Byte) : State := running1.setPod 0 { running1.pod 0 with slots := [(0, { switch := [], seq := [], mode := [m], program := [] })] }
def mac1 : State := macMode 2
def mac1w : State := macMode 6

end Sys2Proof.Tests
namespace Sys2Proof.Tests

/-- An image handle of one context for one region, with no records. -/
def handle1 : Handle :=
  { offset := 0, length := 4096, recheck := false
    image := { length := 4096, w := 1, h := 1, initial := 0, sproutEntry := 0, bounds := [], reportId := 0
               ctxs := [{ slot := 0, next := 4, paceCell := 0, pacePod := 0, passFc := 0, reportFc := 0, records := [] }]
               sprout := [], movers := [], fingerprints := activePrints (part0 .assigned) [0], sproutAt := (0, 16), reads := [] } }
/-- Partition 0 in a given state with that image as handle 0, bound, and one load of it queued or being shifted. -/
def image1 (x : PartState) (slot : SlotState) (shifting : Bool) : State :=
  let s := part0 x
  s.setPt 0 { s.pt 0 with handles := [(1, handle1)], bound := some 1, slots := [(0, { state := slot, handle := 1, ctx := 0 })], shifting := shifting
                          loads := if slot = .committed then [] else [{ handle := 1, ctx := 0, slot := 0, fn := 0, id := 1, shifted := 0, reshifted := 0 }] }

end Sys2Proof.Tests
namespace Sys2Proof.Tests

/-- The default shares as PART.SET_SHARE's payload. -/
def sharePayload : List Byte :=
  [16, 16, 16, 16, 16, 0, 0, 0] ++ (List.range 5).flatMap (fun _ => le 2 60) ++ le 2 0 ++ le 4 100
    ++ (List.range 5).flatMap (fun _ => le 4 0 ++ le 4 64 ++ le 8 0)

end Sys2Proof.Tests
namespace Sys2Proof.Tests

/-- Channel 3 is open from a host port of PF0 to a host port of VF 1, in a given mode and with a given queue. -/
def chan3 (nack : Bool) : Chan :=
  { Chan.free with state := .open, nack := nack, depth := 4, sender := { kind := .host, owner := 0, port := 2, linkId := 0 }
                   receiver := { kind := .host, owner := 2, port := 5, linkId := 0 }, credits := if nack then 0 else 4 }
/-- The module with that channel, changed as given. -/
def withChan (f : Chan → Chan) : State := ready.setChan 3 (f (chan3 false))
/-- The far sender, and the far receiver, of a cross-device channel whose local end is partition 0's Sprout core. -/
def fromFar (c : Chan) : Chan :=
  { c with sender := { kind := .remote, owner := 1, port := 6, linkId := 9 }, receiver := { kind := .sprout, owner := 0, port := 5, linkId := 0 }, credits := 0 }
def toFar (c : Chan) : Chan :=
  { c with receiver := { kind := .remote, owner := 1, port := 6, linkId := 9 }, sender := { kind := .sprout, owner := 0, port := 5, linkId := 0 } }

end Sys2Proof.Tests
namespace Sys2Proof.Tests

/-- CHAN.OPEN of a CREDIT channel of depth 4 from PF0's port 2 to VF 1's port 5, and from partition 0's port 5 to a far Sprout core. -/
def openPayload : List Byte := [0, 4, 0, 0, 0, 0, 0, 0, 1, 0, 2, 0, 0, 0, 0, 0, 1, 2, 5, 0, 0, 0, 0, 0]
def openFarPayload : List Byte := [0, 4, 0, 0, 0, 0, 0, 0, 1, 0, 2, 0, 0, 0, 0, 0, 3, 1, 6, 9, 0, 0, 0, 0]
/-- Partition 0's core runs, and channel 3 binds its port 5 as sender or as receiver. -/
def coreChan (sends : Bool) : State :=
  let e : Endpoint := { kind := .sprout, owner := 0, port := 5, linkId := 0 }
  let c := chan3 false
  (core1.setSprout 0 { core1.sprout 0 with chPort := 5 }).setChan 3 (if sends then { c with sender := e } else { c with receiver := e })

end Sys2Proof.Tests
namespace Sys2Proof.Tests

/-- A FILL, or a COPY within HBM, of 64 bytes. -/
def desc1 (fill : Bool) : Desc :=
  { fill := fill, setFlag := false, flagSet := 0, waitPrev := false, srcHost := false, dstHost := false, remote := false, remoteId := 0
    remotePart := 0, rows := 1, src := 0, dst := 0x1000, rowBytes := 64, srcStride := 0, dstStride := 0 }
/-- Partition 0 runs, and a descriptor of DEVICE waits in the movers' queue, changed as given. -/
def queued1 (fill : Bool) (f : Job → Job) : State :=
  let s := pushList fabUp none 16 0 0 true 0 [desc1 fill]
  { s with eng := { s.eng with jobs := s.eng.jobs.map f } }

end Sys2Proof.Tests
namespace Sys2Proof.Tests

/-- The Husk engine is configured: one unit of reserve, a staging area, no buddy. -/
def huskOn : State :=
  { ready with husk := { ready.husk with cfg := some { reserveFirst := 16, reserveUnits := 1, areaFirst := 20, parity := false, buddy := none, rateMax := 0 } } }

end Sys2Proof.Tests
namespace Sys2Proof.Tests

/-- An embedding table of 100 rows of 16 FP32 elements, whose one member is this device, or this device and a far one. -/
def table1 : EmbTable :=
  { absentTable 5 with fmt := 0, dim := 16, rows := 100, slots := 1, shard := 0x10000000, grad := 0x11000000, owner := 0x12000000
                       counter := 0x12001000, replica := 0x12002000, replicaRows := 4, members := [(9, 0), (10, 1)] }
/-- Partition 0 is ASSIGNED and has that table as table 0. -/
def embOn (x : PartState) : State :=
  let s := part0 x
  { s with eng := { s.eng with tables := [(0, table1)] }, link := { s.link with linkId := some 9, peers := [(0, [(10, 2)])] } }
def embDesc1 (op : Nat) : EmbDesc :=
  { op := op, setFlag := false, flagSet := 0, weighted := false, mean := false, sat := false, table := 0, outFmt := 0, bags := 1
    offsets := 0x10100000, indices := 0x10101000, weights := 0, out := 0x10102000, outStride := 64, step := 1 }
/-- An embedding descriptor of that table is queued. -/
def embJob1 (op : Nat) : State := pushEmb (embOn .running) 0 0 0 (embDesc1 op)
/-- Zero bytes. -/
def zeros (n : Nat) : List Byte := List.replicate n 0
theorem zeros_length (n : Nat) : (zeros n).length = n := List.length_replicate
/-- A bundle of a kind with no entries, of 4,096 bytes, from the far member. -/
def bundle1 (kind : Byte) : Bulk :=
  { src := 10, srcPart := 1, dstPart := 0, xfer := 3, offset := 0, engine := 1, key := 5, poison := []
    content := fields 64 [(0, le 4 0x42455256), (4, [kind]), (8, le 4 5)] ++ zeros 4032 }
theorem bundle1_length (k : Byte) : (bundle1 k).content.length = 4096 := by
  have h : (fields 64 [(0, le 4 0x42455256), (4, [k]), (8, le 4 5)]).length = 64 := by rfl
  simp [bundle1, h, zeros_length]
/-- A transfer of 4,096 bytes to partition 0 is taken where the peer is admitted, the fence open and HBM ready. -/
theorem taken {s : State} {b : Bulk} (h : b.content.length = 4096) (h2 : b.dstPart = 0) (h3 : admits s 0 b.src b.srcPart = true)
    (h4 : (s.pt 0).fence.state = .open) (h5 : s.hbm.ready = true) (h6 : s.faults.stopped = false := by decide) :
    bulkAdmission s b = .take := by
  simp [bulkAdmission, h, h2, h3, h4, h5, h6]
theorem bundle1_taken (k : Byte) : bulkAdmission (embOn .running) (bundle1 k) = .take :=
  taken (bundle1_length k) rfl (show admits (embOn .running) 0 10 1 = true by decide) (by decide) (by decide)

end Sys2Proof.Tests
namespace Sys2Proof.Tests

/-- EMB.TABLE_CREATE of a table of 100 rows with one member, this device, whose areas lie in the partition's window. -/
def tablePayload : List Byte :=
  [0, 0] ++ le 2 16 ++ le 4 100 ++ le 4 5 ++ [1, 0] ++ le 2 0 ++ le 4 1 ++ le 4 0 ++ le 8 0 ++ le 8 0x100000 ++ le 8 0x200000 ++ le 8 0x201000 ++ le 8 0x202000
    ++ le 4 4 ++ le 4 0 ++ le 8 0x300000
/-- A SCATTER of that table waits for an acknowledgement from the far member. -/
def embWait : State :=
  let s := embJob1 1
  { s with eng := { s.eng with emb := s.eng.emb.map (fun j => { j with started := true, sent := true, waits := [(0, 1, [], 7)] }) } }
theorem embWait_taken : bulkAdmission embWait (bundle1 3) = .take :=
  taken (bundle1_length 3) rfl (show admits embWait 0 10 1 = true by decide) (by decide) (by decide)

end Sys2Proof.Tests
namespace Sys2Proof.Tests

/-- Link port 2 is UP with its eight lanes, changed as given; the device's link-ID is 9. -/
def upPort : Port := { Port.init with state := .up, txLanes := 0xFF, rxLanes := 0xFF, rxOk := 0xFF, rxReq := 0xFF, peerReq := 0xFF }
def linkUp (f : Port → Port) : State :=
  let s := part0 .assigned
  let t := s.setPort 2 (f upPort)
  { t with link := { t.link with linkId := some 9, started := true, routes := [(10, 0x102)], peers := [(0, [(10, 2)])], attrs := [(2, 8)] } }
/-- A flit with a SEQ and no acknowledgement. -/
def flit1 (seq : Nat) : Flit :=
  { seq := seq, ackSeq := 0, ackValid := false, nak := false, vc := 1, cls := 0, kind := 1, sot := false, eot := false, crVcc := 0, crCount := 0, payload := [] }
def marker1 (tx req : Byte) : Marker :=
  { epoch := 0, epochMark := false, superframe := true, txLanes := tx, rxOk := 0xFF, rxReq := req, txTime := 5, echoTime := 0, echoDelay := 0 }

end Sys2Proof.Tests
namespace Sys2Proof.Tests

/-- A transfer of 4,096 zero bytes for partition 0 from a peer it admits. -/
def bulk1 (engine : Nat) : Bulk :=
  { src := 10, srcPart := 1, dstPart := 0, xfer := 3, offset := 0, engine := engine, key := 7, poison := [], content := zeros 4096 }
theorem bulk1_length {e : Nat} : (bulk1 e).content.length = 4096 := zeros_length _
theorem bulk1_pieces : bulkPieces (linkUp id) (bulk1 0) = some [(0, 4096)] := by
  unfold bulkPieces; rw [bulk1_length]; decide
/-- A collective of two members by the ring at a given step, with its transfers complete. -/
def coll1 (step : Nat) : Coll :=
  { part := 0, fn := 0, cmdId := 1, jobId := 0, op := 0, halving := false, dtype := 0, reduce := 0, n := 2, rank := 0, sat := false, key := 7, count := 2048
    buf := 0, scratch := 0x100000, members := [(9, 0), (10, 1)], started := true, step := step, bytesSent := 0, sendPos := 4096, sendBuf := []
    sendPoison := [], xfers := [], received := [(0, 4096), (1, 4096)], arrivals := [], reduced := 0 }
/-- LINK.COLLECTIVE of one ring step between this device's partition 0 and partition 1 of device 10, and a member list in HBM. -/
def collPayload1 : List Byte :=
  [0, 0, 0, 0, 2, 0, 0, 0] ++ le 4 7 ++ le 4 1000 ++ le 8 2048 ++ le 8 0x10000000 ++ le 8 0x10100000 ++ le 8 0x10200000
def collState : State :=
  let s := asked (linkUp id) 0 (asking 8 5 2 0 collPayload1)
  { s with hbm := { s.hbm with mem := [(0x10200000, 9), (0x10200002, 10), (0x10200003, 1)] } }

end Sys2Proof.Tests
namespace Sys2Proof.Tests

/-- A drive with one namespace, in a given state; and the module with it on captive port 2, its bay on and its link up, changed as given. -/
def drive1 (x : DriveState) : Drive :=
  { Drive.init with state := x, serial := [1], nss := [{ nsid := 1, size := 0x100000000, lba := 4096, metadata := false, superblock := none }] }
def withDrive (x : DriveState) (f : DPort → DPort) : State :=
  let s := (ready.setBay 2 .on).setDp 2 (f { DPort.init with present := true, refclk := true, perst := false, linkUp := true, fence := .open, drive := drive1 x })
  { s with comp := { s.comp with slotCtrl := 4 } }
/-- A read of 64 KiB for partition 0 that the drive has. -/
def read1 : NvmeCmd :=
  { cid := 7, qid := 2, opcode := 2, nsid := 1, offset := 0, length := 0x1000, buffer := 0x1000, fua := false, use := .log, member := 0, jobId := 0, entry := [] }

end Sys2Proof.Tests
namespace Sys2Proof.Tests

/-- An epoch of partition 0 in a given state, of a given number of member 0's; a husk volume that is READY holds it. -/
def epoch1 (x : EpochState) (n : Nat) : Epoch :=
  { number := n, state := x, cause := 0, base := true, sys := 0, partMask := 1, scope := 0, snapKey := 0, atFold := 0, units := [0], wholeUnits := [0], deltas := [(0, 0)]
    live := [], written := [], parityMember := none, d := 0, parity := false, degraded := false, localDegraded := false, mirrored := false, missing := false, volumeId := 1
    commitTime := 0, parts := [{ part := 0, origin := 0, w := 1, h := 1, state := .assigned, folds := 0, windows := [(0, 1)] }], states := [], recs := [], system := false }
def volume1 : Volume := { Volume.init with state := .ready, id := 1, epochs := [epoch1 .committed 1], mounted := true }
def huskCfg1 : HuskCfg := { reserveFirst := 16, reserveUnits := 4, areaFirst := 30, parity := false, buddy := none, rateMax := 0 }
def huskVol : State :=
  let s := part0 .assigned
  { s with husk := { s.husk with cfg := some huskCfg1, volumes := [(0, volume1)] } }
def huskPayload : List Byte := le 2 16 ++ le 2 4 ++ le 2 30 ++ [0, 0] ++ le 4 0 ++ le 4 0
/-- HUSK.SNAP of every partition of the device. -/
def snapPayload1 : List Byte := [1, 0] ++ le 2 0 ++ le 4 1000 ++ le 4 0 ++ le 4 0 ++ le 2 0 ++ le 2 0 ++ le 4 0 ++ le 8 0
/-- A snapshot of partition 0, which is in a given phase. -/
def snap1 (phase : Nat) : Snap :=
  { fn := 0, cmdId := 1, jobId := 0, scope := 1, full := false, atFold := 0, snapKey := 0, members := [], self := 255, parts := [{ part := 0, phase := phase, pausedAt := 0 }]
    wholeDue := [], images := [], total := 0, drained := 0, rateAt := 0, rateBytes := 0, cow := 0, startTime := 0, endTime := 0, heldSince := none, stallNs := 0
    buddy := 0, buddyStatus := 0, streamed := 0, abandoned := false, pauseMax := 0 }
def snapping (phase : Nat) (x : EpochState) : State :=
  { huskVol with husk := { huskVol.husk with current := some (epoch1 x 2), snap := some (snap1 phase) } }
def writer1 : Writer :=
  { epoch := 3, live := [0], parity := none, d := 1, next := 0, rows := [], recs := [], ended := false, lost := [], byError := false, stage := 1, bytes := 0, copies := []
    jobId := 0, source := some (epoch1 .committed 3) }
/-- An epoch that drains, with one granule marked. -/
def draining1 : State :=
  { huskVol with husk := { huskVol.husk with current := some { epoch1 .draining 2 with wholeUnits := [] }, snap := some (snap1 3), writers := [(0, writer1)], frozenMarks := [0x1005] } }
def wait1 : SysWait := { fn := 0, cmdId := 1, epoch := 1, partMask := 1, snapKey := 7, self := 0, n := 2, answered := false, undecided := false, payload := [] }
def waiting1 : State := { huskVol with husk := { huskVol.husk with waiting := [wait1] }, link := { huskVol.link with routes := [(10, 0x102)] } }
/-- HUSK.VOLUME_FORMAT with a mode, of namespace 1 on port 2. -/
def formatPayload (mode : Byte) : List Byte :=
  let n := if mode = 3 then 0 else 1
  [mode, if mode = 0 ∨ mode = 2 then 1 else 0, 0, 0] ++ le 4 0 ++ le 4 0 ++ le 4 0 ++ le 4 n ++ le 4 0 ++ le 4 0 ++ le 4 0 ++ le 4 0 ++ le 4 0
    ++ le 8 (if mode = 2 then 5 else 0) ++ le 12 0 ++ le 4 10
/-- The drive's namespace is clean; the husk volume has one member, whose drive is gone. -/
def cleanDrive : State :=
  let s := withDrive .ready id
  { s with hub := { s.hub with records := [{ serial := [1], nsid := 1, owner := 0, clean := true }] } }
def oneMember : State :=
  let s := withDrive .ready id
  { s with husk := { s.husk with volumes := [(0, { volume1 with members := [(0, { member0 with serial := [9], nsid := 1 })] })] } }
/-- HUSK.RESTORE of partition 0 from its own volume, and from module 10. -/
def restorePayload1 : List Byte := [0, 0] ++ le 2 1 ++ [0, 0, 0, 0] ++ le 8 0 ++ le 4 0 ++ le 4 0 ++ le 8 0
def buddyPayload1 : List Byte := [1, 0] ++ le 2 1 ++ [10, 0, 0, 0] ++ le 8 0 ++ le 4 0 ++ le 4 0 ++ le 8 1
def restore1 (b : Option Nat) : Restore :=
  { fn := 0, cmdId := 1, jobId := 0, buddy := b, allowPoison := false, mask := 1, volumeId := 1, epoch := none, deltas := 0, startTime := 0, lostState := [], silent := false }
/-- A guest volume of module 10's volume 5; an epoch of it is being written; a snapshot here that has got as far with its buddy, module 10. -/
def guestVol : State :=
  { huskVol with husk := { huskVol.husk with volumes := [(1, { volume1 with guest := true, sourceVolume := 5, sourceLink := 10 })] } }
def guestWriting : State := { guestVol with husk := { guestVol.husk with writers := [(1, writer1)] } }
def buddying (n : Nat) : State :=
  { draining1 with husk := { draining1.husk with cfg := some { huskCfg1 with buddy := some 10 }, snap := some { snap1 3 with buddy := n } } }
/-- The drive carries this module's superblock. -/
def block1 : Superblock :=
  { guest := false, gen := 1, volumeId := 1, module := ownSerial, source := [], sourceLink := 0, index := 0, members := 1, retain := 1, segments := 15, lbaSize := 4096, epochHigh := 0
    sourceVolume := 0, serials := [[1]], nsids := [1] }
def withBlock : State :=
  withDrive .ready (fun p => { p with drive := { p.drive with nss := [{ nsid := 1, size := 0x100000000, lba := 4096, metadata := false, superblock := some block1 }] } })
theorem withBlock_names : namingBlock withBlock 0 = some block1 := by
  have h : (List.range 8).filter (captive withBlock) = [0, 1, 2, 3, 4, 5, 6, 7] := by decide
  have h2 : (withBlock.dp 2).drive.nss = [{ nsid := 1, size := 0x100000000, lba := 4096, metadata := false, superblock := some block1 }] := rfl
  simp only [namingBlock, superblocks, h, List.flatMap_cons, List.flatMap_nil, h2, show (withBlock.dp 0).drive.nss = [] from rfl,
    show (withBlock.dp 1).drive.nss = [] from rfl, show (withBlock.dp 3).drive.nss = [] from rfl, show (withBlock.dp 4).drive.nss = [] from rfl,
    show (withBlock.dp 5).drive.nss = [] from rfl, show (withBlock.dp 6).drive.nss = [] from rfl, show (withBlock.dp 7).drive.nss = [] from rfl]
  simp [block1]

end Sys2Proof.Tests
namespace Sys2Proof.Tests

/-- The device is in SLEEP and waits for PME_Turn_Off. -/
def asleep1 : State := { ready with pow := { ready.pow with state := .sleep, deepWait := true } }
/-- The DEMAND of module 5. -/
def demand1 : Demand :=
  { src := 5, domain := 0, eligible := true, leaving := false, hold := false, floorMode := false, demand := 500, floor := 400, power := 450, budget := 0, budgetLink := 0
    budgetStamp := 0, round := 0 }

end Sys2Proof.Tests
namespace Sys2Proof.Tests

/-- TRACE.CONFIG of a ring in one HBM unit; PF0's session with it in a given state; a grant to VF 2. -/
def tracePayload : List Byte := [0, 0] ++ le 2 1 ++ le 4 4096 ++ le 2 1 ++ le 2 40 ++ le 2 1 ++ le 2 0 ++ le 8 0 ++ le 8 0 ++ le 4 0 ++ le 4 0
def traceSes (x : TraceState) : Session := { Session.init with state := x, sources := 1, mask := 1, firstUnit := 40, units := 1, size := 0x10000000 }
def tracing (x : TraceState) : State := { ready with trace := { ready.trace with sessions := [(0, traceSes x)] } }
def grant1 : TraceGrant := { requester := 3, scope := 1, sources := 1, expiry := 5 }
def fullGrants : State := { ready with trace := { ready.trace with grants := (List.range 32).map (fun i => (i, grant1)) } }
theorem grants32 : ∀ i < 32, (tfind (asked fullGrants 0 (asking 12 4 0 255 ([3, 0] ++ le 2 1 ++ le 2 1 ++ le 2 0 ++ le 4 60))).trace.grants i).isSome = true := by
  show ∀ i < 32, (tfind ((List.range 32).map (fun i => (i, grant1))) i).isSome = true
  set_option maxRecDepth 8000 in decide

end Sys2Proof.Tests
namespace Sys2Proof.Tests

/-- Region 1 is not SERVICEABLE. -/
def unserviceable1 : State := fabUp.setRgn 1 { fabUp.rgn 1 with pods := [(0, .quarantined)] }

end Sys2Proof.Tests
theorem test_meets_FrontCommandIsExecuted_front : ∃ (c : Instr) (r : List Instr) (s : State),
    s.pending = c :: r :=
  ⟨.droopStretchEnd, [], { State.reset with pending := [.droopStretchEnd] }, by decide⟩

theorem test_meets_FrontCommandIsExecuted_idle : ∃ (s : State),
    s.pending = [] :=
  ⟨State.reset, by decide⟩

theorem test_meets_QueueIsFirstInFirstOut_exec : ∃ (c : Instr) (s t : State),
    exec c s = .next t :=
  ⟨.droopStretchEnd, State.reset, { State.reset with clk := { State.reset.clk with stretch := false } }, rfl⟩

theorem test_meets_QueueIsFirstInFirstOut_step : ∃ (s t : State),
    step s = .next t :=
  ⟨{ State.reset with pending := [.droopStretchEnd] }, State.reset, rfl⟩

theorem test_meets_StepKeepsInvariant_step : ∃ (s t : State),
    ModuleInv s ∧ step s = .next t :=
  ⟨{ State.reset with pending := [.droopStretchEnd] }, State.reset, ⟨by simp [ModuleInv, State.reset, Clocks.init, Boot.init, Hbm.init, Fabric.init, Companion.init, Power.init, legalDiv, Memory.wf, mwfFrom], rfl⟩⟩

theorem test_meets_HbmReadsBackWhatWasWritten_inside : ∃ (h : Hbm) (a : Nat) (data : List Byte) (pois : Nat → Nat → Bool) (i : Nat),
    Memory.wf 0 h.mem = true ∧ i < data.length :=
  ⟨Hbm.init, 64, [1, 2], fun _ _ => false, 1, by decide⟩

theorem test_meets_HbmReadsBackWhatWasWritten_outside : ∃ (h : Hbm) (a : Nat) (data : List Byte) (pois : Nat → Nat → Bool) (b : Nat),
    Memory.wf 0 h.mem = true ∧ (b < a ∨ a + data.length ≤ b) :=
  ⟨Hbm.init, 64, [1, 2], fun _ _ => false, 66, by decide⟩

theorem test_meets_RegisterAccessesActAndShadow_rlLowHalfRead : ∃ (fn : Fn) (s : State),
    hostLive s = true :=
  ⟨3, live, by decide⟩

theorem test_meets_RegisterAccessesActAndShadow_highHalf : ∃ (fn : Fn) (s : State),
    hostLive s = true :=
  ⟨3, live, by decide⟩

theorem test_meets_RegisterAccessesActAndShadow_rcFieldRead : ∃ (fn : Fn) (s : State),
    hostLive s = true :=
  ⟨3, live, by decide⟩

theorem test_meets_RegisterAccessesActAndShadow_registerWrite : ∃ (fn : Fn) (v : W64) (s : State),
    hostLive s = true :=
  ⟨3, 0x1234, live, by decide⟩

theorem test_meets_RegisterAccessesActAndShadow_hzIntEnableWrite : ∃ (fn : Fn) (v : W32) (s : State),
    hostLive s = true ∧ (s.fn fn).intStatus = 0 :=
  ⟨3, 0x3F, live, by decide⟩

theorem test_meets_RegisterAccessesActAndShadow_newlyEnabled : ∃ (s : State),
    hostLive s = true ∧ (s.fn 0).intStatus = 0x10 ∧ (s.fn 0).intEnable = 0 :=
  ⟨live.setFn 0 { FnRegs.init with intStatus := 0x10 }, by decide⟩

theorem test_meets_RegisterAccessesActAndShadow_hzResetReq : ∃ (v : W32) (s : State),
    hostLive s = true ∧ s.rst.powered = true :=
  ⟨0x54535257, live, by decide⟩

theorem test_meets_FeedsQualifyRampAndTurnOn_feedQualify : ∃ (f : Fin 2) (vin : Nat) (s : State),
    s.comp.running = true ∧ (s.feed f).state = .off ∧ (s.feed f).operation = true ∧ (s.feed f).uvLimit + 2000 < vin :=
  ⟨0, 44001, comp0, by decide⟩

theorem test_meets_FeedsQualifyRampAndTurnOn_qualifyWindowExpiry : ∃ (f : Fin 2) (s : State),
    (s.feed f).state = .qualify :=
  ⟨0, feedIn .qualify, by decide⟩

theorem test_meets_FeedsQualifyRampAndTurnOn_vinOutOfWindow : ∃ (f : Fin 2) (vin : Nat) (s : State),
    (s.feed f).state = .qualify ∧ (vin < (s.feed f).uvLimit ∨ (s.feed f).ovLimit < vin) :=
  ⟨0, 58001, feedIn .qualify, by decide⟩

theorem test_meets_FeedsQualifyRampAndTurnOn_feedPowerGood : ∃ (f : Fin 2) (node vin : Nat) (s : State),
    (s.feed f).state = .ramp ∧ vin ≤ node + 1000 ∧ node ≤ vin + 1000 ∧ anyOn s = false :=
  ⟨0, 53000, 54000, feedIn .ramp, by decide⟩

theorem test_meets_FeedsQualifyRampAndTurnOn_secondFeed : ∃ (f : Fin 2) (node vin : Nat) (s : State),
    (s.feed f).state = .ramp ∧ vin ≤ node + 1000 ∧ node ≤ vin + 1000 ∧ anyOn s = true :=
  ⟨0, 54000, 54000, (feedIn .ramp).setFeed 1 { Feed.init with state := .on }, by decide⟩

theorem test_meets_FeedsQualifyRampAndTurnOn_vinUvFall : ∃ (f : Fin 2) (vin : Nat) (s : State),
    (s.feed f).state = .on ∧ vin < (s.feed f).uvLimit :=
  ⟨0, 41999, feedIn .on, by decide⟩

theorem test_meets_FeedsQualifyRampAndTurnOn_retryTimerExpiry : ∃ (f : Fin 2) (s : State),
    (s.feed f).state = .tripped :=
  ⟨0, feedIn .tripped, by decide⟩

theorem test_meets_FeedsQualifyRampAndTurnOn_retryCountRestore : ∃ (f : Fin 2) (s : State),
    (s.feed f).state = .on :=
  ⟨0, feedIn .on, by decide⟩

theorem test_meets_FeedsQualifyRampAndTurnOn_inrushSlewAdjust : ∃ (f : Fin 2) (slew : Nat) (s : State),
    (s.feed f).state = .ramp :=
  ⟨0, 2000, feedIn .ramp, by decide⟩

theorem test_meets_FeedsQualifyRampAndTurnOn_ocWarn : ∃ (f : Fin 2) (iin : Int) (s : State),
    (s.feed f).state = .on ∧ ((s.feed f).ocWarn : Int) < iin :=
  ⟨0, 36001, feedIn .on, by decide⟩

theorem test_meets_FeedsQualifyRampAndTurnOn_oringModeApply : ∃ (s : State),
    (s.feed 0).state = .on ∧ (s.feed 1).state = .on ∧ s.comp.oringStored = !s.comp.oringInForce :=
  ⟨{ bothOn with comp := { bothOn.comp with oringStored := true } }, by decide⟩

theorem test_meets_FeedsTrip_rampTimeout : ∃ (f : Fin 2) (s : State),
    (s.feed f).state = .ramp ∧ (s.feed (1 - f.val)).state = .on :=
  ⟨0, (feedIn .ramp).setFeed 1 { Feed.init with state := .on }, by decide⟩

theorem test_meets_FeedsTrip_ovTrip : ∃ (f : Fin 2) (vin : Nat) (s : State),
    (s.feed f).state = .on ∧ (s.feed f).ovLimit < vin ∧ (s.feed (1 - f.val)).state = .on :=
  ⟨0, 58001, bothOn, by decide⟩

theorem test_meets_FeedsTrip_ocTimerTrip : ∃ (f : Fin 2) (iin : Int) (s : State),
    (s.feed f).state = .on ∧ ((s.feed f).ocLimit : Int) < iin ∧ (s.feed (1 - f.val)).state = .on :=
  ⟨0, 40001, bothOn, by decide⟩

theorem test_meets_FeedsTrip_ocFastTrip : ∃ (f : Fin 2) (iin : Int) (s : State),
    (s.feed f).state = .on ∧ ((2 * (s.feed f).ocLimit : Nat) : Int) < iin ∧ (s.feed (1 - f.val)).state = .on :=
  ⟨0, 80001, bothOn, by decide⟩

theorem test_meets_FeedsTrip_lastFeed : ∃ (f : Fin 2) (iin : Int) (s : State),
    (s.feed f).state = .on ∧ ((s.feed f).ocLimit : Int) < iin ∧ (s.feed (1 - f.val)).state = .off :=
  ⟨0, 40001, feedIn .on, by decide⟩

theorem test_meets_FeedsTrip_reverseCurrentTrip : ∃ (f : Fin 2) (iin : Int) (s : State),
    (s.feed f).oring = true ∧ iin < -1000 :=
  ⟨0, -1001, comp0.setFeed 0 { Feed.init with oring := true }, by decide⟩

theorem test_meets_FeedsTrip_feedsLost : ∃ (s : State),
    s.comp.running = true ∧ anyOn s = false ∧ s.rst.powered = true :=
  ⟨{ comp0 with rst := { Resets.init with powered := true } }, by decide⟩

theorem test_meets_DriveBaysSwitchAndFault_slotOnRequest : ∃ (bay : Fin 8) (s : State),
    s.comp.running = true ∧ s.comp.updating = false ∧ anyOn s = true ∧ s.comp.slotCtrl.getLsbD bay = true ∧ tget Bay.init s.comp.bays bay = Bay.init ∧ ramping s < 2 ∧ queuedBay s = none :=
  ⟨1, { bothOn with comp := { bothOn.comp with slotCtrl := 2 } }, by decide⟩

theorem test_meets_DriveBaysSwitchAndFault_waits : ∃ (bay : Fin 8) (s : State),
    s.comp.running = true ∧ s.comp.updating = false ∧ anyOn s = true ∧ s.comp.slotCtrl.getLsbD bay = true ∧ tget Bay.init s.comp.bays bay = Bay.init ∧ 2 ≤ ramping s :=
  ⟨2, { bothOn with comp := { bothOn.comp with slotCtrl := 4, bays := [(0, ⟨.ramping, false⟩), (1, ⟨.ramping, false⟩)] } }, by decide⟩

theorem test_meets_DriveBaysSwitchAndFault_slotOffRequest : ∃ (bay : Fin 8) (s : State),
    s.comp.running = true ∧ s.comp.updating = false ∧ s.comp.slotCtrl.getLsbD bay = false ∧ (tget Bay.init s.comp.bays bay).state = .on :=
  ⟨1, { comp0 with comp := { comp0.comp with bays := [(1, ⟨.on, false⟩)] } }, by decide⟩

theorem test_meets_DriveBaysSwitchAndFault_bayRampStart : ∃ (n : Nat) (s : State),
    queuedBay s = some n ∧ ramping s < 2 :=
  ⟨3, { comp0 with comp := { comp0.comp with bays := [(3, ⟨.off, true⟩)] } }, by decide⟩

theorem test_meets_DriveBaysSwitchAndFault_bayPowerGood : ∃ (bay : Fin 8) (s : State),
    s.comp.running = true ∧ (tget Bay.init s.comp.bays bay).state = .ramping :=
  ⟨1, { comp0 with comp := { comp0.comp with bays := [(1, ⟨.ramping, false⟩)] } }, by decide⟩

theorem test_meets_DriveBaysSwitchAndFault_bayRampTimeout : ∃ (bay : Fin 8) (s : State),
    s.comp.running = true ∧ (tget Bay.init s.comp.bays bay).state = .ramping ∧ hubLive s bay = false :=
  ⟨1, { comp0 with comp := { comp0.comp with bays := [(1, ⟨.ramping, false⟩)] } }, by decide⟩

theorem test_meets_DriveBaysSwitchAndFault_bayOvercurrentTrip : ∃ (bay : Fin 8) (s : State),
    s.comp.running = true ∧ (tget Bay.init s.comp.bays bay).state = .on ∧ hubLive s bay = false :=
  ⟨1, { comp0 with comp := { comp0.comp with bays := [(1, ⟨.on, false⟩)] } }, by decide⟩

theorem test_meets_DriveBaysSwitchAndFault_bayDischarged : ∃ (bay : Fin 8) (s : State),
    s.comp.running = true ∧ (tget Bay.init s.comp.bays bay).state = .discharging ∧ (tget DPort.init s.hub.dp bay).falling = false :=
  ⟨1, { comp0 with comp := { comp0.comp with bays := [(1, ⟨.discharging, false⟩)] } }, by decide⟩

theorem test_meets_CompanionStartsCountsAndSequences_companionStart : ∃ (addr : Fin 8) (s : State),
    s.comp.running = false ∧ s.comp.aon.rcState = 0 ∧ s.comp.aon.cntA = s.comp.aon.cntB :=
  ⟨3, State.reset, by decide⟩

theorem test_meets_CompanionStartsCountsAndSequences_dieRstoutFall : ∃ (s : State),
    s.comp.running = true ∧ s.rst.powered = true ∧ s.rst.rstoutLow = true ∧ s.rst.sampled = false ∧ s.rst.kind = .warm :=
  ⟨{ live with rst := { live.rst with rstoutLow := true, sampled := false, kind := .warm } }, by decide⟩

theorem test_meets_CompanionStartsCountsAndSequences_dieRstoutRise : ∃ (s : State),
    s.comp.running = true ∧ s.rst.powered = true ∧ s.rst.rstoutLow = true ∧ s.rst.sampled = true ∧ s.rst.socOut = true ∧ s.comp.aon.cause = s.rst.kind.code :=
  ⟨{ live with rst := { live.rst with rstoutLow := true, sampled := true, kind := .powerOn } }, by decide⟩

theorem test_meets_CompanionStartsCountsAndSequences_dieRailGood : ∃ (s : State),
    s.comp.railsOn = true ∧ anyOn s = true ∧ s.comp.railsGood < 6 :=
  ⟨{ bothOn with comp := { bothOn.comp with railsOn := true, railsGood := 5 } }, by decide⟩

theorem test_meets_CompanionStartsCountsAndSequences_dieRailTimeout : ∃ (s : State),
    s.comp.railsOn = true ∧ anyOn s = true ∧ s.comp.railsGood < 6 :=
  ⟨{ bothOn with comp := { bothOn.comp with railsOn := true, railsGood := 3 } }, by decide⟩

theorem test_meets_CompanionStartsCountsAndSequences_railRetry : ∃ (s : State),
    s.comp.railWait = true ∧ anyOn s = true :=
  ⟨{ bothOn with comp := { bothOn.comp with railWait := true } }, by decide⟩

theorem test_meets_CompanionStartsCountsAndSequences_auxLoss : ∃ (s : State),
    s.comp.aux = true :=
  ⟨bothOn, by decide⟩

theorem test_meets_CompanionServesTheDie_companionSpiRead : ∃ (s : State),
    s.comp.running = true :=
  ⟨comp0, by decide⟩

theorem test_meets_CompanionServesTheDie_companionSpiWrite : ∃ (s : State) (v : W32),
    s.comp.running = true ∧ s.comp.updating = false :=
  ⟨comp0, 5, by decide⟩

theorem test_meets_CompanionServesTheDie_badCrc : ∃ (s : State) (a : Nat) (v : W32),
    s.comp.running = true :=
  ⟨comp0, 2, 5, by decide⟩

theorem test_meets_CompanionServesTheDie_vregRequest : ∃ (mv : Nat) (seq : W16) (s : State),
    s.comp.running = true ∧ s.comp.modpwr = true ∧ s.comp.updating = false ∧ s.comp.vreg.fault = false ∧ mv < 4096 :=
  ⟨800, 7, live, by decide⟩

theorem test_meets_CompanionServesTheDie_vregSettled : ∃ (vout : Nat) (s : State),
    s.comp.running = true ∧ s.comp.vreg.fault = false ∧ s.comp.vreg.settled = false ∧ s.comp.vreg.setpoint ≠ 0 ∧ vout ≤ s.comp.vreg.setpoint + 10 ∧ s.comp.vreg.setpoint ≤ vout + 10 :=
  ⟨790, { comp0 with comp := { comp0.comp with vreg := { Vreg.init with setpoint := 800 } } }, by decide⟩

theorem test_meets_CompanionServesTheDie_regFaultDetected : ∃ (w : W16) (s : State),
    s.comp.running = true ∧ s.comp.vreg.fault = false :=
  ⟨0x8000, live, by decide⟩

theorem test_meets_CompanionServesTheDie_telemetryRefresh : ∃ (x : Telemetry) (s : State),
    s.comp.running = true ∧ s.comp.updating = false :=
  ⟨{ vinA := 5400, vinB := 4850, iinA := 100, iinB := 0, einA := 1, einB := 0, board := 200, inlet := 180, pin := 54000 }, comp0, by decide⟩

theorem test_meets_CompanionServesTheDie_fastcapThresholdReload : ∃ (s : State),
    s.comp.running = true ∧ s.comp.updating = false ∧ presentVin s ≠ 0 :=
  ⟨comp0.setFeed 0 { Feed.init with state := .on, vin := 5400 }, by decide⟩

theorem test_meets_CompanionServesTheDie_fastcapAssert : ∃ (a b : Int) (s : State),
    s.comp.running = true ∧ anyOn s = true ∧ fastcapCondition s a b = true :=
  ⟨4000, 0, { bothOn with comp := { bothOn.comp with hwTotal := 3333, hwFeed := [(0, 3600), (1, 3600)] } }, by decide⟩

theorem test_meets_CompanionServesTheDie_fastcapRelease : ∃ (a b : Int) (s : State),
    s.comp.fastcap = true ∧ fastcapCondition s a b = false :=
  ⟨100, 0, { bothOn with comp := { bothOn.comp with hwTotal := 3333, hwFeed := [(0, 3600), (1, 3600)], fastcap := true } }, by decide⟩

theorem test_meets_CompanionServesTheDie_errlogCommit : ∃ (s : State),
    s.comp.running = true ∧ s.comp.updating = false :=
  ⟨comp0, by decide⟩

theorem test_meets_CompanionServesTheDie_companionIrq : ∃ (s : State),
    s.comp.status &&& s.comp.irqMask &&& 0x3F ≠ 0 ∧ s.ready = true ∧ s.comp.running = true :=
  ⟨{ live with comp := { live.comp with status := 1 } }, by decide⟩

theorem test_meets_PmbusReadsAnswer_pmPage : ∃ (s : State),
    s.comp.running = true :=
  ⟨comp0, by decide⟩

theorem test_meets_PmbusReadsAnswer_pmOnOffConfig : ∃ (s : State),
    s.comp.running = true :=
  ⟨comp0, by decide⟩

theorem test_meets_PmbusReadsAnswer_pmWriteProtect : ∃ (s : State),
    s.comp.running = true :=
  ⟨comp0, by decide⟩

theorem test_meets_PmbusReadsAnswer_pmCapability : ∃ (s : State),
    s.comp.running = true :=
  ⟨comp0, by decide⟩

theorem test_meets_PmbusReadsAnswer_pmOperation : ∃ (s : State),
    s.comp.running = true ∧ s.comp.pmb.page = 0 :=
  ⟨comp0, by decide⟩

theorem test_meets_PmbusReadsAnswer_pmStatusByte : ∃ (s : State),
    s.comp.running = true ∧ s.comp.pmb.page = 0 :=
  ⟨comp0, by decide⟩

theorem test_meets_PmbusReadsAnswer_pmStatusWord : ∃ (s : State),
    s.comp.running = true ∧ s.comp.pmb.page = 0 :=
  ⟨comp0, by decide⟩

theorem test_meets_PmbusReadsAnswer_pmStatusInput : ∃ (s : State),
    s.comp.running = true ∧ s.comp.pmb.page = 0 :=
  ⟨comp0, by decide⟩

theorem test_meets_PmbusReadsAnswer_pmStatusTemperature : ∃ (s : State),
    s.comp.running = true :=
  ⟨comp0, by decide⟩

theorem test_meets_PmbusReadsAnswer_pmStatusCml : ∃ (s : State),
    s.comp.running = true :=
  ⟨comp0, by decide⟩

theorem test_meets_PmbusReadsAnswer_pmStatusMfrSpecific : ∃ (s : State),
    s.comp.running = true :=
  ⟨comp0, by decide⟩

theorem test_meets_PmbusReadsAnswer_pmReadEin : ∃ (s : State),
    s.comp.running = true ∧ s.comp.pmb.page = 0 :=
  ⟨comp0, by decide⟩

theorem test_meets_PmbusReadsAnswer_pmReadVin : ∃ (s : State),
    s.comp.running = true ∧ s.comp.pmb.page = 0 :=
  ⟨comp0, by decide⟩

theorem test_meets_PmbusReadsAnswer_pmReadIin : ∃ (s : State),
    s.comp.running = true ∧ s.comp.pmb.page = 0 :=
  ⟨comp0, by decide⟩

theorem test_meets_PmbusReadsAnswer_pmReadTemperature1 : ∃ (s : State),
    s.comp.running = true :=
  ⟨comp0, by decide⟩

theorem test_meets_PmbusReadsAnswer_pmReadTemperature2 : ∃ (s : State),
    s.comp.running = true :=
  ⟨comp0, by decide⟩

theorem test_meets_PmbusReadsAnswer_pmReadPin : ∃ (s : State),
    s.comp.running = true ∧ s.comp.pmb.page = 0 :=
  ⟨comp0, by decide⟩

theorem test_meets_PmbusReadsAnswer_pmPmbusRevision : ∃ (s : State),
    s.comp.running = true :=
  ⟨comp0, by decide⟩

theorem test_meets_PmbusReadsAnswer_pmMfrId : ∃ (s : State),
    s.comp.running = true :=
  ⟨comp0, by decide⟩

theorem test_meets_PmbusReadsAnswer_pmMfrModel : ∃ (s : State),
    s.comp.running = true :=
  ⟨comp0, by decide⟩

theorem test_meets_PmbusReadsAnswer_pmMfrRevision : ∃ (s : State),
    s.comp.running = true :=
  ⟨comp0, by decide⟩

theorem test_meets_PmbusReadsAnswer_pmMfrSerial : ∃ (s : State),
    s.comp.running = true :=
  ⟨comp0, by decide⟩

theorem test_meets_PmbusReadsAnswer_pmMfrRackBudget : ∃ (s : State),
    s.comp.running = true :=
  ⟨comp0, by decide⟩

theorem test_meets_PmbusReadsAnswer_pmMfrFloorShare : ∃ (s : State),
    s.comp.running = true :=
  ⟨comp0, by decide⟩

theorem test_meets_PmbusReadsAnswer_pmMfrModuleCap : ∃ (s : State),
    s.comp.running = true :=
  ⟨comp0, by decide⟩

theorem test_meets_PmbusReadsAnswer_pmMfrDemand : ∃ (s : State),
    s.comp.running = true :=
  ⟨comp0, by decide⟩

theorem test_meets_PmbusReadsAnswer_pmMfrSteward : ∃ (s : State),
    s.comp.running = true :=
  ⟨comp0, by decide⟩

theorem test_meets_PmbusReadsAnswer_pmMfrResetCount : ∃ (s : State),
    s.comp.running = true :=
  ⟨comp0, by decide⟩

theorem test_meets_PmbusReadsAnswer_pmMfrLastResetCause : ∃ (s : State),
    s.comp.running = true :=
  ⟨comp0, by decide⟩

theorem test_meets_PmbusWritesSet_pmPage : ∃ (v : Nat) (s : State),
    s.comp.running = true ∧ s.comp.pmb.writeProtect = 0 ∧ (v = 0 ∨ v = 1 ∨ v = 255) :=
  ⟨255, comp0, by decide⟩

theorem test_meets_PmbusWritesSet_badPage : ∃ (v : Nat) (s : State),
    s.comp.running = true ∧ s.comp.pmb.writeProtect = 0 ∧ v ≠ 0 ∧ v ≠ 1 ∧ v ≠ 255 :=
  ⟨2, comp0, by decide⟩

theorem test_meets_PmbusWritesSet_pmWriteProtect : ∃ (v : Nat) (s : State),
    s.comp.running = true ∧ s.comp.pmb.writeProtect = 0 ∧ (v = 0 ∨ v = 0x40 ∨ v = 0x80) :=
  ⟨0x80, comp0, by decide⟩

theorem test_meets_PmbusWritesSet_pmOperation : ∃ (s : State),
    s.comp.running = true ∧ s.comp.pmb.writeProtect = 0 ∧ s.comp.pmb.page = 0 ∧ (s.feed 0).operation = true :=
  ⟨comp0, by decide⟩

theorem test_meets_PmbusWritesSet_operationOff : ∃ (s : State),
    s.comp.running = true ∧ s.comp.pmb.writeProtect = 0 ∧ s.comp.pmb.page = 0 ∧ (s.feed 0).state = .on ∧ (s.feed 1).state = .on ∧ ((s.feed 0).iin + (s.feed 1).iin) * 10 ≤ ((s.feed 1).ocLimit : Int) :=
  ⟨bothOn, by decide⟩

theorem test_meets_PmbusWritesSet_operationBoth : ∃ (s : State),
    s.comp.running = true ∧ s.comp.pmb.writeProtect = 0 ∧ s.comp.pmb.page = 255 :=
  ⟨{ comp0 with comp := { comp0.comp with pmb := { Pmbus.init with page := 255 } } }, by decide⟩

theorem test_meets_PmbusWritesSet_pmClearFaults : ∃ (s : State),
    s.comp.running = true ∧ s.comp.pmb.writeProtect = 0 ∧ s.comp.pmb.page = 0 ∧ (s.feed 0).state = .latched :=
  ⟨feedIn .latched, by decide⟩

theorem test_meets_PmbusWritesSet_pmVinOvFaultLimit : ∃ (w : Nat) (s : State),
    s.comp.running = true ∧ s.comp.pmb.writeProtect = 0 ∧ s.comp.updating = false ∧ s.comp.pmb.page = 0 ∧ (55000 : Int) ≤ linear11Milli w ∧ linear11Milli w ≤ (60000 : Int) :=
  ⟨58, comp0, by decide⟩

theorem test_meets_PmbusWritesSet_pmVinUvFaultLimit : ∃ (w : Nat) (s : State),
    s.comp.running = true ∧ s.comp.pmb.writeProtect = 0 ∧ s.comp.updating = false ∧ s.comp.pmb.page = 0 ∧ (39000 : Int) ≤ linear11Milli w ∧ linear11Milli w ≤ (45000 : Int) :=
  ⟨42, comp0, by decide⟩

theorem test_meets_PmbusWritesSet_pmIinOcFaultLimit : ∃ (w : Nat) (s : State),
    s.comp.running = true ∧ s.comp.pmb.writeProtect = 0 ∧ s.comp.updating = false ∧ s.comp.pmb.page = 0 ∧ (10000 : Int) ≤ linear11Milli w ∧ linear11Milli w ≤ (45000 : Int) :=
  ⟨30, comp0, by decide⟩

theorem test_meets_PmbusWritesSet_pmIinOcWarnLimit : ∃ (w : Nat) (s : State),
    s.comp.running = true ∧ s.comp.pmb.writeProtect = 0 ∧ s.comp.updating = false ∧ s.comp.pmb.page = 0 ∧ (5000 : Int) ≤ linear11Milli w ∧ linear11Milli w ≤ (45000 : Int) :=
  ⟨30, comp0, by decide⟩

theorem test_meets_PmbusWritesSet_limitOutside : ∃ (w : Nat) (s : State),
    s.comp.running = true ∧ s.comp.pmb.writeProtect = 0 ∧ s.comp.updating = false ∧ (linear11Milli w < (10000 : Int) ∨ (45000 : Int) < linear11Milli w) :=
  ⟨46, comp0, by decide⟩

theorem test_meets_PmbusWritesSet_pmStatusInput : ∃ (v : Nat) (s : State),
    s.comp.running = true ∧ s.comp.pmb.writeProtect = 0 ∧ s.comp.pmb.page = 0 :=
  ⟨2, comp0, by decide⟩

theorem test_meets_PmbusWritesSet_pmStatusTemperature : ∃ (v : Nat) (s : State),
    s.comp.running = true ∧ s.comp.pmb.writeProtect = 0 :=
  ⟨2, comp0, by decide⟩

theorem test_meets_PmbusWritesSet_pmStatusCml : ∃ (v : Nat) (s : State),
    s.comp.running = true ∧ s.comp.pmb.writeProtect = 0 :=
  ⟨2, comp0, by decide⟩

theorem test_meets_PmbusWritesSet_pmStatusMfrSpecific : ∃ (v : Nat) (s : State),
    s.comp.running = true ∧ s.comp.pmb.writeProtect = 0 ∧ s.comp.updating = false :=
  ⟨2, comp0, by decide⟩

theorem test_meets_PmbusWritesSet_pmMfrRackBudget : ∃ (v : Nat) (s : State),
    s.comp.running = true ∧ s.comp.pmb.writeProtect = 0 ∧ s.comp.updating = false :=
  ⟨3200, comp0, by decide⟩

theorem test_meets_PmbusWritesSet_pmMfrFloorShare : ∃ (v : Nat) (s : State),
    s.comp.running = true ∧ s.comp.pmb.writeProtect = 0 ∧ s.comp.updating = false ∧ 400 ≤ v ∧ v ≤ 1600 :=
  ⟨400, comp0, by decide⟩

theorem test_meets_PmbusWritesSet_pmMfrOringMode : ∃ (v : Nat) (s : State),
    s.comp.running = true ∧ s.comp.pmb.writeProtect = 0 ∧ 0 ≤ v ∧ v ≤ 1 :=
  ⟨1, comp0, by decide⟩

theorem test_meets_PmbusWritesSet_pmMfrInrushSlew : ∃ (v : Nat) (s : State),
    s.comp.running = true ∧ s.comp.pmb.writeProtect = 0 ∧ 1 ≤ v ∧ v ≤ 20 :=
  ⟨20, comp0, by decide⟩

theorem test_meets_PmbusWritesSet_pmMfrBreakerTime : ∃ (v : Nat) (s : State),
    s.comp.running = true ∧ s.comp.pmb.writeProtect = 0 ∧ 1 ≤ v ∧ v ≤ 100 :=
  ⟨100, comp0, by decide⟩

theorem test_meets_PmbusWritesSet_pmMfrRetryPolicy : ∃ (v : Nat) (s : State),
    s.comp.running = true ∧ s.comp.pmb.writeProtect = 0 ∧ 0 ≤ v ∧ v ≤ 7 :=
  ⟨7, comp0, by decide⟩

theorem test_meets_PmbusWritesSet_pmMfrFastcapLimit : ∃ (v : Nat) (s : State),
    s.comp.running = true ∧ s.comp.pmb.writeProtect = 0 ∧ s.comp.updating = false ∧ 400 ≤ v ∧ v ≤ 2000 :=
  ⟨2000, comp0, by decide⟩

theorem test_meets_PmbusWritesSet_settingOutside : ∃ (v : Nat) (s : State),
    s.comp.running = true ∧ s.comp.pmb.writeProtect = 0 ∧ s.comp.updating = false ∧ (v < 400 ∨ 1600 < v) :=
  ⟨1601, comp0, by decide⟩

theorem test_meets_ClocksLockLoseDivideAndStretch_pllLockAchieved : ∃ (s : State),
    nextStep s = some 0 ∧ s.clk.pllEnabled = true ∧ s.clk.pllLocked = false :=
  ⟨{ live with clk := { live.clk with pllLocked := false, root := false, run := false } }, by decide⟩

theorem test_meets_ClocksLockLoseDivideAndStretch_pllLockTimeout : ∃ (s : State),
    nextStep s = some 0 ∧ s.clk.pllEnabled = true ∧ s.clk.pllLocked = false ∧ s.clk.attempts < 2 :=
  ⟨{ live with clk := { live.clk with pllLocked := false, root := false, run := false } }, by decide⟩

theorem test_meets_ClocksLockLoseDivideAndStretch_thirdAttempt : ∃ (s : State),
    nextStep s = some 0 ∧ s.clk.pllEnabled = true ∧ s.clk.pllLocked = false ∧ s.clk.attempts = 2 :=
  ⟨{ live with clk := { live.clk with pllLocked := false, root := false, run := false, attempts := 2 } }, by decide⟩

theorem test_meets_ClocksLockLoseDivideAndStretch_clockLossDetected : ∃ (pll : Bool) (s : State),
    s.clk.root = true :=
  ⟨true, live, by decide⟩

theorem test_meets_ClocksLockLoseDivideAndStretch_fclkDividerChange : ∃ (d : Nat) (s : State),
    s.clk.divReq = some d ∧ s.clk.run = true ∧ d < s.clk.div :=
  ⟨4, { live with clk := { live.clk with divReq := some 4 } }, by decide⟩

theorem test_meets_ClocksLockLoseDivideAndStretch_slower : ∃ (d : Nat) (s : State),
    s.clk.divReq = some d ∧ s.clk.run = true ∧ s.clk.div < d :=
  ⟨12, { live with clk := { live.clk with div := 4, divReq := some 12 } }, by decide⟩

theorem test_meets_ClocksLockLoseDivideAndStretch_droopStretchStart : ∃ (s : State),
    s.clk.run = true :=
  ⟨live, by decide⟩

theorem test_meets_ClocksLockLoseDivideAndStretch_droopHold : ∃ (s : State),
    s.clk.run = true ∧ s.clk.stretch = true :=
  ⟨{ live with clk := { live.clk with stretch := true } }, by decide⟩

theorem test_meets_ClocksLockLoseDivideAndStretch_droopHoldExpiry : ∃ (s : State),
    s.pow.droopHold.isSome = true :=
  ⟨{ live with pow := { live.pow with droopHold := some 1 } }, by decide⟩

theorem test_meets_DieResetsBeginHoldAndRelease_powerOnReset : ∃ (s : State),
    s.comp.modpwr = true ∧ s.rst.powered = false :=
  ⟨{ bothOn with comp := { bothOn.comp with modpwr := true } }, by decide⟩

theorem test_meets_DieResetsBeginHoldAndRelease_coldReset : ∃ (n : Nat) (taken : Bool) (s : State),
    s.rst.powered = true ∧ s.pow.state ≠ .deep ∧ 100 ≤ n ∧ s.rst.active = false :=
  ⟨100, false, { live with rst := { live.rst with active := false } }, by decide⟩

theorem test_meets_DieResetsBeginHoldAndRelease_warmReset : ∃ (s : State),
    (s.rst.warmReq = 1 ∨ s.rst.warmReq = 2 ∨ s.rst.warmReq = 4) ∧ s.rst.powered = true ∧ s.rst.active = false :=
  ⟨{ live with rst := { live.rst with active := false, warmReq := 1 } }, by decide⟩

theorem test_meets_DieResetsBeginHoldAndRelease_watchdogExpiry : ∃ (s : State),
    s.rst.wdogRunning = true ∧ s.rst.wdogHalt = false ∧ s.rst.active = false :=
  ⟨{ live with rst := { live.rst with active := false, wdogRunning := true } }, by decide⟩

theorem test_meets_DieResetsBeginHoldAndRelease_watchdogHalt : ∃ (l : List (Fin 6)) (s : State),
    s.rst.wdogRunning = true ∧ s.rst.wdogHalt = true :=
  ⟨[], { live with rst := { live.rst with wdogRunning := true, wdogHalt := true } }, by decide⟩

theorem test_meets_DieResetsBeginHoldAndRelease_thermalTrip : ∃ (x : Fin 4) (peak : Int) (s : State),
    s.rst.powered = true ∧ 920 ≤ peak ∧ s.rst.active = false :=
  ⟨2, 930, { live with rst := { live.rst with active := false } }, by decide⟩

theorem test_meets_DieResetsBeginHoldAndRelease_perstDeassert : ∃ (s : State),
    s.pow.state ≠ .deep :=
  ⟨live, by decide⟩

theorem test_meets_DieResetsBeginHoldAndRelease_resetReleasePhase1 : ∃ (g d f : Bool) (s : State),
    s.rst.active = true ∧ s.rst.powered = true ∧ s.rst.thermalHold = false ∧ s.rst.perst = false :=
  ⟨true, true, true, { State.reset with rst := { State.reset.rst with powered := true, perst := false } }, by decide⟩

theorem test_meets_DieResetsBeginHoldAndRelease_wdogStreakClear : ∃ (s : State),
    s.boot.hazel = .running :=
  ⟨live, by decide⟩

theorem test_meets_DieResetsBeginHoldAndRelease_hazelSramUe : ∃ (off : W32) (s : State),
    s.boot.hazel ≠ .off :=
  ⟨8, live, by decide⟩

theorem test_meets_EndpointResetsAndConfiguration_hotReset : ∃ (s : State),
    s.rst.powered = true ∧ s.pow.state ≠ .deep ∧ s.pow.state ≠ .off ∧ s.rst.active = false ∧ s.rst.epReady = true :=
  ⟨{ live with rst := { live.rst with active := false } }, by decide⟩

theorem test_meets_EndpointResetsAndConfiguration_hotWhileReset : ∃ (s : State),
    s.rst.powered = true ∧ s.pow.state ≠ .deep ∧ s.pow.state ≠ .off ∧ s.rst.active = true :=
  ⟨{ live with rst := { live.rst with active := true } }, by decide⟩

theorem test_meets_EndpointResetsAndConfiguration_flrPf0 : ∃ (s : State),
    hostLive s = true ∧ s.hub.vfEnable = false ∧ s.trace.grants = [] ∧ (s.ses 0).stopping = none :=
  ⟨{ live with rst := { live.rst with active := false } }, by decide⟩

theorem test_meets_EndpointResetsAndConfiguration_flrVf : ∃ (vf : Fin 16) (s : State),
    hostLive s = true ∧ s.hub.vfEnable = true ∧ vf < s.hub.numVfs ∧ (s.pt vf).state = .free :=
  ⟨1, { live with hub := { live.hub with vfEnable := true, numVfs := 4 } }, by decide⟩

theorem test_meets_EndpointResetsAndConfiguration_secondaryBusReset : ∃ (dp : Fin 8) (s : State),
    s.rst.hubOut = true ∧ dpExists s dp = true ∧ (s.dp dp).passthrough = true :=
  ⟨0, { live with hub := { live.hub with dp := [(0, { DPort.init with passthrough := true })] } }, by decide⟩

theorem test_meets_EndpointResetsAndConfiguration_cellZeroingDone : ∃ (rg : Fin 16) (s : State),
    s.rst.zeroing.contains rg.val = true ∧ s.clk.run = true ∧ s.regionPart rg = none ∧ s.rst.zeroWaits = [] :=
  ⟨0, { live with rst := { live.rst with zeroing := [0, 1] } }, by decide⟩

theorem test_meets_EndpointResetsAndConfiguration_crs : ∃ (k : Fin 27) (q : CfgReq) (s : State),
    s.rst.hubOut = true ∧ s.pow.state = .run ∧ cfgExists s k = true ∧ k < 17 ∧ s.rst.epReady = false :=
  ⟨0, .readIds, { live with rst := { live.rst with epReady := false } }, by decide⟩

theorem test_meets_EndpointResetsAndConfiguration_ur : ∃ (k : Fin 27) (q : CfgReq) (s : State),
    s.rst.hubOut = true ∧ s.pow.state = .run ∧ cfgExists s k = false :=
  ⟨5, .readIds, live, by decide⟩

theorem test_meets_EndpointResetsAndConfiguration_command : ∃ (k : Fin 17) (mse bme : Bool) (s : State),
    s.rst.hubOut = true ∧ s.rst.epReady = true ∧ s.pow.state = .run ∧ cfgExists s k = true ∧ (s.mb k).enabled = false :=
  ⟨0, true, true, live, by decide⟩

theorem test_meets_BootStepsAndTheDoneHandshake_flashReadTimeout : ∃ (s : State),
    s.boot.hazel = .rom 0 :=
  ⟨{ live with boot := { live.boot with hazel := .rom 0 } }, by decide⟩

theorem test_meets_BootStepsAndTheDoneHandshake_pllLock : ∃ (s : State),
    nextStep s = some 0 ∧ s.clk.pllLocked = false ∧ s.clk.pllEnabled = false :=
  ⟨{ live with clk := { live.clk with pllLocked := false, pllEnabled := false } }, by decide⟩

theorem test_meets_BootStepsAndTheDoneHandshake_outputRelease : ∃ (s : State),
    nextStep s = some 1 ∧ s.boot.stepsDone < 3 :=
  ⟨{ live with boot := { live.boot with stepsDone := 1 } }, by decide⟩

theorem test_meets_BootStepsAndTheDoneHandshake_srRelease : ∃ (s : State),
    nextStep s = some 2 ∧ s.rst.hbmOut = true ∧ s.boot.stepsDone < 3 :=
  ⟨{ live with boot := { live.boot with stepsDone := 2 } }, by decide⟩

theorem test_meets_BootStepsAndTheDoneHandshake_writeEnable : ∃ (s : State),
    nextStep s = some 3 ∧ s.boot.stepsDone < 3 :=
  ⟨{ live with boot := { live.boot with stepsDone := 2, startupSeq := 0x80C14100#32 } }, by decide⟩

theorem test_meets_BootStepsAndTheDoneHandshake_lastStep : ∃ (s : State),
    nextStep s = some 3 ∧ s.boot.stepsDone = 3 :=
  ⟨{ live with boot := { live.boot with stepsDone := 3 } }, by decide⟩

theorem test_meets_BootStepsAndTheDoneHandshake_sectionDeployment : ∃ (ty off len : Nat) (digest : List Byte) (r : List (Nat × Nat × Nat × List Byte)) (s : State),
    s.boot.hazel = .running ∧ s.rst.epReady = true ∧ s.boot.toDeploy = (ty, off, len, digest) :: r ∧ Config.sha384 (flashRead s off len) = digest :=
  ⟨3, 0, 4, Config.sha384 (flashRead live 0 4), [], { live with boot := { live.boot with toDeploy := [(3, 0, 4, Config.sha384 (flashRead live 0 4))] } }, ⟨rfl, rfl, rfl, rfl⟩⟩

theorem test_meets_BootStepsAndTheDoneHandshake_moduleReady : ∃ (s : State),
    s.boot.hazel = .running ∧ s.rst.epReady = true ∧ s.boot.toDeploy = [] ∧ s.boot.deployed = false ∧ s.rst.warmReq = 0 ∧ s.boot.done = .holding ∧ s.boot.doneIgnore = false :=
  ⟨live, by decide⟩

theorem test_meets_BootStepsAndTheDoneHandshake_doneHigh : ∃ (s : State),
    s.boot.dieDone = false ∧ s.boot.compDone = false ∧ s.boot.deployed = true ∧ s.boot.done = .waiting :=
  ⟨{ live with boot := { live.boot with dieDone := false, deployed := true, done := .waiting } }, by decide⟩

theorem test_meets_BootStepsAndTheDoneHandshake_doneLate : ∃ (s : State),
    s.boot.dieDone = false ∧ s.boot.compDone = false ∧ s.boot.deployed = true ∧ s.boot.done = .timedOut ∧ s.boot.doneLate = false :=
  ⟨{ live with boot := { live.boot with dieDone := false, deployed := true, done := .timedOut } }, by decide⟩

theorem test_meets_BootStepsAndTheDoneHandshake_doneTimeout : ∃ (s : State),
    s.boot.done = .waiting ∧ s.boot.deployed = true :=
  ⟨{ live with boot := { live.boot with deployed := true, done := .waiting } }, by decide⟩

theorem test_meets_FlashCommandsRunInTurn_erase : ∃ (fn : Fn) (c : Consumed) (s : State),
    startable s fn 13 1 = some c ∧ flashFree s = true ∧ s.boot.jobs = [] ∧ c.u32 8 = 0 ∧ c.u32 0 + c.u32 4 ≤ flashSize ∧ c.u32 0 % 4096 = 0 ∧ c.u32 4 % 4096 = 0 ∧ areaRefusal s (c.u32 0) (c.u32 4) = none :=
  ⟨0, asking 13 1 2 255 (le 4 0x20000 ++ le 4 4096 ++ le 4 0), asked ready 0 (asking 13 1 2 255 (le 4 0x20000 ++ le 4 4096 ++ le 4 0)), by decide⟩

theorem test_meets_FlashCommandsRunInTurn_program : ∃ (fn : Fn) (c : Consumed) (b : List Byte) (s : State),
    startable s fn 13 2 = some c ∧ flashFree s = true ∧ s.boot.jobs = [] ∧ c.u32 8 ≤ 1 ∧ c.u32 4 ≠ 0 ∧ c.u32 4 ≤ 0x1000000 ∧ c.u32 0 + c.u32 4 ≤ flashSize ∧ areaRefusal s (c.u32 0) (c.u32 4) = none ∧ (c.u32 8 = 1 ∨ (flashRead s (c.u32 0) (c.u32 4)).all (fun x => x = 0xFF) = true) ∧ ((accept s fn c.id).fn fn).bme = true :=
  ⟨0, asking 13 2 2 255 (le 4 0x20000 ++ le 4 4 ++ le 4 1), [1, 2, 3, 4], asked ready 0 (asking 13 2 2 255 (le 4 0x20000 ++ le 4 4 ++ le 4 1)), by decide⟩

theorem test_meets_FlashCommandsRunInTurn_read : ∃ (fn : Fn) (c : Consumed) (s : State),
    startable s fn 13 3 = some c ∧ flashFree s = true ∧ s.boot.jobs = [] ∧ c.u32 4 ≠ 0 ∧ c.u32 4 ≤ 0x4000000 ∧ c.u32 0 + c.u32 4 ≤ flashSize ∧ ((accept s fn c.id).fn fn).bme = true :=
  ⟨0, asking 13 3 2 255 (le 4 0x20000 ++ le 4 4 ++ le 8 0 ++ le 8 0x1000), asked ready 0 (asking 13 3 2 255 (le 4 0x20000 ++ le 4 4 ++ le 8 0 ++ le 8 0x1000)), by decide⟩

theorem test_meets_FlashCommandsRunInTurn_verifyCrc : ∃ (fn : Fn) (c : Consumed) (s : State),
    startable s fn 13 4 = some c ∧ flashFree s = true ∧ s.boot.jobs = [] ∧ c.u32 8 % 4 = 0 ∧ c.u32 8 < 16 ∧ c.u32 0 + c.u32 4 ≤ flashSize :=
  ⟨0, asking 13 4 2 255 (le 4 0x20000 ++ le 4 4 ++ le 4 0 ++ le 4 0), asked ready 0 (asking 13 4 2 255 (le 4 0x20000 ++ le 4 4 ++ le 4 0 ++ le 4 0)), by decide⟩

theorem test_meets_FlashCommandsRunInTurn_verifyCompare : ∃ (fn : Fn) (c : Consumed) (b : List Byte) (s : State),
    startable s fn 13 4 = some c ∧ flashFree s = true ∧ s.boot.jobs = [] ∧ c.u32 8 % 4 = 1 ∧ c.u32 8 < 16 ∧ c.u32 0 + c.u32 4 ≤ flashSize ∧ ((accept s fn c.id).fn fn).bme = true ∧ (∀ i, i < c.u32 4 → (flashRead s (c.u32 0) (c.u32 4)).getD i 0 = b.getD i 0) :=
  ⟨0, asking 13 4 2 255 (le 4 0x20000 ++ le 4 2 ++ le 4 1 ++ le 4 0), [0xFF, 0xFF], asked ready 0 (asking 13 4 2 255 (le 4 0x20000 ++ le 4 2 ++ le 4 1 ++ le 4 0)), by decide⟩

theorem test_meets_FlashCommandsRunInTurn_verifyImage : ∃ (fn : Fn) (c : Consumed) (s : State),
    startable s fn 13 4 = some c ∧ flashFree s = true ∧ s.boot.jobs = [] ∧ c.u32 8 % 4 = 2 ∧ c.u32 8 < 16 :=
  ⟨0, asking 13 4 2 255 (le 4 0 ++ le 4 0 ++ le 4 2 ++ le 4 0), asked ready 0 (asking 13 4 2 255 (le 4 0 ++ le 4 0 ++ le 4 2 ++ le 4 0)), by decide⟩

theorem test_meets_FlashCommandsRunInTurn_unlock : ∃ (fn : Fn) (c : Consumed) (s : State),
    startable s fn 13 5 = some c ∧ c.u32 0 ≠ 0 ∧ c.u32 0 ≤ 60 ∧ s.boot.goldWe = true :=
  ⟨0, asking 13 5 0 255 (le 4 30), asked { ready with boot := { ready.boot with goldWe := true } } 0 (asking 13 5 0 255 (le 4 30)), by decide⟩

theorem test_meets_FlashCommandsRunInTurn_lock : ∃ (fn : Fn) (c : Consumed) (s : State),
    startable s fn 13 6 = some c :=
  ⟨0, asking 13 6 0 255 [], asked ready 0 (asking 13 6 0 255 []), by decide⟩

theorem test_meets_FlashCommandsRunInTurn_mapStoreWriteComplete : ∃ (rg : Fin 16) (r : List FlashJob) (s : State),
    s.boot.jobs = { fn := rg.val, id := 0 } :: r ∧ flashFree s = true ∧ s.serving = true :=
  ⟨3, [], { ready with boot := { ready.boot with jobs := [{ fn := 3, id := 0 }] } }, by decide⟩

theorem test_meets_MailboxRingsCarryRequestsAndEvents_mailboxEnable : ∃ (fn : Fn) (s : State),
    hostLive s = true ∧ s.serving = true ∧ (s.mb fn).enabled = false ∧ (s.mb fn).stopping = false ∧ (s.mb fn).ringError = false ∧ (s.fn fn).bme = true ∧ s.boot.fallback = false ∧ ((s.mb fn).reqBase ≠ 0 ∧ (s.mb fn).rspBase ≠ 0 ∧ (s.mb fn).evtBase ≠ 0) ∧ ((s.mb fn).reqBase &&& 0xFFF = 0 ∧ (s.mb fn).rspBase &&& 0xFFF = 0 ∧ (s.mb fn).evtBase &&& 0xFFF = 0) ∧ (s.mb fn).pend = [] :=
  ⟨0, { ready with host := { ready.host with fn := [(0, { FnRegs.init with bme := true })], mb := [(0, { Mailbox.init with reqBase := 0x1000, rspBase := 0x2000, evtBase := 0x3000 })] } }, by decide⟩

theorem test_meets_MailboxRingsCarryRequestsAndEvents_mailboxDisable : ∃ (fn : Fn) (s : State),
    hostLive s = true :=
  ⟨0, ready, by decide⟩

theorem test_meets_MailboxRingsCarryRequestsAndEvents_mailboxStopped : ∃ (fn : Fn) (s : State),
    s.serving = true ∧ (s.mb fn).stopping = true ∧ (s.mb fn).enablePending = false :=
  ⟨0, { ready with host := { ready.host with mb := [(0, { Mailbox.init with stopping := true, enabled := true })] } }, by decide⟩

theorem test_meets_MailboxRingsCarryRequestsAndEvents_requestDoorbell : ∃ (fn : Fn) (pi : W16) (s : State),
    hostLive s = true ∧ (pi - (s.mb fn).reqCi).toNat ≤ 64 :=
  ⟨0, 1, ready, by decide⟩

theorem test_meets_MailboxRingsCarryRequestsAndEvents_doorbellOutOfRange : ∃ (fn : Fn) (pi : W16) (s : State),
    hostLive s = true ∧ (s.mb fn).enabled = true ∧ (s.mb fn).ringError = false ∧ (s.mb fn).stopping = false ∧ 64 < (pi - (s.mb fn).reqCi).toNat :=
  ⟨0, 80, asked ready 0 (asking 1 5 0 255 []), by decide⟩

theorem test_meets_MailboxRingsCarryRequestsAndEvents_responseCiWrite : ∃ (fn : Fn) (ci : W16) (s : State),
    hostLive s = true ∧ ci - (s.mb fn).rspCi ≤ (s.mb fn).rspPi - (s.mb fn).rspCi :=
  ⟨0, 0, ready, by decide⟩

theorem test_meets_MailboxRingsCarryRequestsAndEvents_eventCiWrite : ∃ (fn : Fn) (ci : W16) (s : State),
    hostLive s = true ∧ ci - (s.mb fn).evtCi ≤ (s.mb fn).evtPi - (s.mb fn).evtCi :=
  ⟨0, 0, ready, by decide⟩

theorem test_meets_MailboxRingsCarryRequestsAndEvents_requestConsume : ∃ (fn : Fn) (r : Req) (s : State),
    s.serving = true ∧ consumable s fn 2 = true ∧ turnAllows s fn = true ∧ genericCheck s fn r = none ∧ (s.mb fn).consumed = [] :=
  ⟨0, (asking 1 5 0 255 (List.replicate 48 0)).req, { asked ready 0 (asking 1 5 0 255 []) with host := { ready.host with mb := [(0, { Mailbox.init with enable := true, enabled := true, reqPi := 1 })], fn := [(0, { FnRegs.init with bme := true })] } }, by decide⟩

theorem test_meets_MailboxRingsCarryRequestsAndEvents_pendingEventPost : ∃ (fn : Fn) (s : State),
    s.serving = true ∧ s.chans.chan = [] :=
  ⟨0, ready, by decide⟩

theorem test_meets_MailboxRingsCarryRequestsAndEvents_ringAccessFail : ∃ (fn : Fn) (s : State),
    (s.mb fn).enabled = true ∧ (s.mb fn).ringError = false ∧ (s.mb fn).stopping = false :=
  ⟨0, asked ready 0 (asking 1 5 0 255 []), by decide⟩

theorem test_meets_MailboxRingsCarryRequestsAndEvents_responseHoldoff : ∃ (fn : Fn) (s : State),
    (s.mb fn).rspHold = true ∧ (s.mb fn).rspPi = (s.mb fn).rspCi :=
  ⟨0, { ready with host := { ready.host with mb := [(0, { Mailbox.init with rspHold := true })] } }, by decide⟩

theorem test_meets_MailboxRingsCarryRequestsAndEvents_eventHoldoff : ∃ (fn : Fn) (s : State),
    (s.mb fn).evtHold = true ∧ (s.mb fn).evtPi ≠ (s.mb fn).evtCi :=
  ⟨0, { ready with host := { ready.host with mb := [(0, { Mailbox.init with evtHold := true, evtPi := 1 })] } }, by decide⟩

theorem test_meets_MailboxRingsCarryRequestsAndEvents_progressReport : ∃ (fn : Fn) (id : Nat) (a b : W32) (c : Consumed) (s : State),
    cmdOf s fn id = some c ∧ c.timing = 2 ∧ c.started = true ∧ c.result = none ∧ c.orphan = false ∧ s.serving = true ∧ ringUsable s fn = true ∧ evtRoom (s.mb fn) = true :=
  ⟨0, 1, 1, 2, { asking 13 1 2 255 [] with started := true }, asked ready 0 { asking 13 1 2 255 [] with started := true }, by decide⟩

theorem test_meets_MailboxRingsCarryRequestsAndEvents_longCommandComplete : ∃ (fn : Fn) (id : Nat) (c : Consumed) (r : Result) (s : State),
    cmdOf s fn id = some c ∧ c.result = some r ∧ s.serving = true :=
  ⟨0, 1, { asking 13 1 2 255 [] with started := true, result := some ⟨0, 0, []⟩ }, ⟨0, 0, []⟩, asked ready 0 { asking 13 1 2 255 [] with started := true, result := some ⟨0, 0, []⟩ }, by decide⟩

theorem test_meets_SysCommandsAnswerAndReset_sysInfo : ∃ (fn : Fn) (c : Consumed) (s : State),
    startable s fn 1 1 = some c :=
  ⟨0, asking 1 1 0 255 [], asked ready 0 (asking 1 1 0 255 []), by decide⟩

theorem test_meets_SysCommandsAnswerAndReset_sysReset : ∃ (fn : Fn) (c : Consumed) (s : State),
    startable s fn 1 2 = some c ∧ c.u32 0 = 0 ∧ s.rst.warmReq = 0 :=
  ⟨0, asking 1 2 0 255 [0, 0, 0, 0], asked ready 0 (asking 1 2 0 255 [0, 0, 0, 0]), by decide⟩

theorem test_meets_SysCommandsAnswerAndReset_sysEventMask : ∃ (fn : Fn) (c : Consumed) (s : State),
    startable s fn 1 4 = some c :=
  ⟨0, asking 1 4 0 255 [6, 0], asked ready 0 (asking 1 4 0 255 [6, 0]), by decide⟩

theorem test_meets_SysCommandsAnswerAndReset_sysEcho : ∃ (fn : Fn) (c : Consumed) (s : State),
    startable s fn 1 5 = some c :=
  ⟨0, asking 1 5 0 255 [6, 0], asked ready 0 (asking 1 5 0 255 [6, 0]), by decide⟩

theorem test_meets_SysCommandsAnswerAndReset_wakeInRecognised : ∃ (s : State),
    s.comp.running = true ∧ s.pow.state = .off ∧ anyOn s = true :=
  ⟨{ bothOn with pow := { bothOn.pow with state := .off } }, by decide⟩

theorem test_meets_SysCommandsAnswerAndReset_wakeInSleep : ∃ (s : State),
    s.comp.running = true ∧ s.pow.state = .sleep :=
  ⟨{ live with pow := { live.pow with state := .sleep } }, by decide⟩

theorem test_meets_SysCommandsAnswerAndReset_companionUpdateEnd : ∃ (pass : Bool) (s : State),
    s.comp.updating = true ∧ s.host.upd.phase ≠ 3 :=
  ⟨true, { live with comp := { live.comp with updating := true } }, by decide⟩

theorem test_meets_SysCommandsAnswerAndReset_withCommand : ∃ (pass : Bool) (s : State),
    s.comp.updating = true ∧ s.host.upd.phase = 3 :=
  ⟨true, { live with comp := { live.comp with updating := true }, host := { live.host with upd := { Update.init with phase := 3 } } }, by decide⟩

theorem test_meets_LiveUpdateSwitchesOrFallsBack_sysUpdateBad : ∃ (fn : Fn) (buf : Option (List Byte)) (c : Consumed) (s : State),
    startable s fn 1 3 = some c ∧ c.u32 0 ≤ 1 ∧ c.u32 4 ≤ 3 ∧ c.u32 12 = 0 ∧ s.host.upd.phase = 0 :=
  ⟨0, none, asking 1 3 2 255 (le 4 0 ++ le 4 1 ++ le 4 0 ++ le 4 0), asked ready 0 (asking 1 3 2 255 (le 4 0 ++ le 4 1 ++ le 4 0 ++ le 4 0)), by decide⟩

theorem test_meets_LiveUpdateSwitchesOrFallsBack_updateSwitch : ∃ (s : State),
    s.host.upd.phase = 1 :=
  ⟨{ ready with host := { ready.host with upd := { Update.init with phase := 1 } } }, by decide⟩

theorem test_meets_LiveUpdateSwitchesOrFallsBack_updateSelfcheckPass : ∃ (s : State),
    s.host.upd.phase = 2 ∧ s.host.upd.companion = none :=
  ⟨{ ready with host := { ready.host with upd := { Update.init with phase := 2 } } }, by decide⟩

theorem test_meets_LiveUpdateSwitchesOrFallsBack_updateSelfcheckTimeout : ∃ (s : State),
    s.host.upd.phase = 2 :=
  ⟨{ ready with host := { ready.host with upd := { Update.init with phase := 2 } } }, by decide⟩

theorem test_meets_RegionsMapsAndPods_regionQuery : ∃ (fn : Fn) (c : Consumed) (s : State),
    startable s fn 4 1 = some c ∧ fn.val = 0 ∧ c.u8 0 < 16 :=
  ⟨0, asking 4 1 0 255 [3], asked ready 0 (asking 4 1 0 255 [3]), by decide⟩

theorem test_meets_RegionsMapsAndPods_regionApplyMap : ∃ (fn : Fn) (c : Consumed) (s : State),
    startable s fn 4 2 = some c ∧ flashFree s = true ∧ s.boot.jobs = [] ∧ applyMapRefusal c s = none :=
  ⟨0, asking 4 2 2 255 (le 8 3), asked ready 0 (asking 4 2 2 255 (le 8 3)), by decide⟩

theorem test_meets_RegionsMapsAndPods_podQuarantine : ∃ (fn : Fn) (c : Consumed) (s : State),
    startable s fn 4 3 = some c ∧ c.u8 0 < 16 ∧ c.u8 1 < 42 ∧ c.u8 2 ≤ 1 ∧ regionBusy s (c.u8 0) = false ∧ usable (slotState (s.rgn (c.u8 0)).pods (c.u8 1)) = true ∧ s.regionPart (c.u8 0) = none :=
  ⟨0, asking 4 3 1 255 [3, 5, 0], asked ready 0 (asking 4 3 1 255 [3, 5, 0]), by decide⟩

theorem test_meets_RegionsMapsAndPods_podReturn : ∃ (fn : Fn) (c : Consumed) (s : State),
    startable s fn 4 4 = some c ∧ c.u8 0 < 16 ∧ c.u8 1 < 42 ∧ regionBusy s (c.u8 0) = false ∧ usable (slotState (s.rgn (c.u8 0)).pods (c.u8 1)) = false ∧ s.pow.gated.contains (c.u8 0) = false ∧ s.boot.sections.contains 5 = true :=
  ⟨0, asking 4 4 2 255 [3, 5], { asked ready 0 (asking 4 4 2 255 [3, 5]) with boot := { ready.boot with sections := [5] }, fab := { ready.fab with regions := [(3, { Region.init with pods := [(5, .quarantined)] })] } }, by decide⟩

theorem test_meets_RegionsMapsAndPods_eccWriteBack : ∃ (k : Fin 640) (m : Fin 2) (a : Fin 8192) (s : State),
    s.fab.writeBack.contains (cellWord k m a) = true :=
  ⟨0, 0, 3, { ready with fab := { ready.fab with writeBack := [3] } }, by decide⟩

theorem test_meets_RegionsMapsAndPods_cellRead : ∃ (k : Fin 640) (m : Fin 2) (a : Fin 8192) (p : Nat) (s : State),
    podOn s k = some p :=
  ⟨0, 0, 3, 0, running1, by decide⟩

theorem test_meets_RegionsMapsAndPods_cellWrite : ∃ (k : Fin 640) (m : Fin 2) (a : Fin 8192) (p : Nat) (l : PLine) (s : State),
    podOn s k = some p ∧ (s.pod k).arriving (s.pt p).run.advanced m = some l :=
  ⟨0, 0, 3, 0, ⟨5, false⟩, running1.setPod 0 { Pod.init with flights := [{ due := 0, dest := .cell 0, word := 5, poison := false }] }, ⟨by decide, rfl⟩⟩

theorem test_meets_VectorArithmeticAndLogic_vNop : ∃ (k : Fin 640) (p : Nat) (v : VInstr) (s : State),
    podOn s k = some p ∧ vecValid 0 v = true :=
  ⟨0, 0, ⟨0, false, 0, false, 0, 0, 0, 0, 0⟩, running1, by decide⟩

theorem test_meets_VectorArithmeticAndLogic_vAdd : ∃ (k : Fin 640) (p : Nat) (v : VInstr) (s : State),
    podOn s k = some p ∧ vecValid 0x1 v = true :=
  ⟨0, 0, ⟨3, false, 0, false, 4, 1, 2, 0, 0⟩, running1, by decide⟩

theorem test_meets_VectorArithmeticAndLogic_vSub : ∃ (k : Fin 640) (p : Nat) (v : VInstr) (s : State),
    podOn s k = some p ∧ vecValid 0x2 v = true :=
  ⟨0, 0, ⟨0, false, 0, false, 4, 1, 2, 0, 0⟩, running1, by decide⟩

theorem test_meets_VectorArithmeticAndLogic_vMul : ∃ (k : Fin 640) (p : Nat) (v : VInstr) (s : State),
    podOn s k = some p ∧ vecValid 0x3 v = true :=
  ⟨0, 0, ⟨0, false, 0, false, 4, 1, 2, 0, 0⟩, running1, by decide⟩

theorem test_meets_VectorArithmeticAndLogic_vFma : ∃ (k : Fin 640) (p : Nat) (v : VInstr) (s : State),
    podOn s k = some p ∧ vecValid 0x4 v = true :=
  ⟨0, 0, ⟨0, false, 0, false, 4, 1, 2, 3, 0⟩, running1, by decide⟩

theorem test_meets_VectorArithmeticAndLogic_vFms : ∃ (k : Fin 640) (p : Nat) (v : VInstr) (s : State),
    podOn s k = some p ∧ vecValid 0x5 v = true :=
  ⟨0, 0, ⟨0, false, 0, false, 4, 1, 2, 3, 0⟩, running1, by decide⟩

theorem test_meets_VectorArithmeticAndLogic_vMax : ∃ (k : Fin 640) (p : Nat) (v : VInstr) (s : State),
    podOn s k = some p ∧ vecValid 0x6 v = true :=
  ⟨0, 0, ⟨0, false, 0, false, 4, 1, 2, 0, 0⟩, running1, by decide⟩

theorem test_meets_VectorArithmeticAndLogic_vMin : ∃ (k : Fin 640) (p : Nat) (v : VInstr) (s : State),
    podOn s k = some p ∧ vecValid 0x7 v = true :=
  ⟨0, 0, ⟨0, false, 0, false, 4, 1, 2, 0, 0⟩, running1, by decide⟩

theorem test_meets_VectorArithmeticAndLogic_vAbs : ∃ (k : Fin 640) (p : Nat) (v : VInstr) (s : State),
    podOn s k = some p ∧ vecValid 0x8 v = true :=
  ⟨0, 0, ⟨0, false, 0, false, 4, 1, 0, 0, 0⟩, running1, by decide⟩

theorem test_meets_VectorArithmeticAndLogic_vScaleb : ∃ (k : Fin 640) (p : Nat) (v : VInstr) (s : State),
    podOn s k = some p ∧ vecValid 0x9 v = true :=
  ⟨0, 0, ⟨0, false, 0, false, 4, 1, 0, 0, 0⟩, running1, by decide⟩

theorem test_meets_VectorArithmeticAndLogic_vAnd : ∃ (k : Fin 640) (p : Nat) (v : VInstr) (s : State),
    podOn s k = some p ∧ vecValid 0xa v = true :=
  ⟨0, 0, ⟨0, false, 0, false, 4, 1, 2, 0, 0⟩, running1, by decide⟩

theorem test_meets_VectorArithmeticAndLogic_vOr : ∃ (k : Fin 640) (p : Nat) (v : VInstr) (s : State),
    podOn s k = some p ∧ vecValid 0xb v = true :=
  ⟨0, 0, ⟨0, false, 0, false, 4, 1, 2, 0, 0⟩, running1, by decide⟩

theorem test_meets_VectorArithmeticAndLogic_vXor : ∃ (k : Fin 640) (p : Nat) (v : VInstr) (s : State),
    podOn s k = some p ∧ vecValid 0xc v = true :=
  ⟨0, 0, ⟨0, false, 0, false, 4, 1, 2, 0, 0⟩, running1, by decide⟩

theorem test_meets_VectorArithmeticAndLogic_vShl : ∃ (k : Fin 640) (p : Nat) (v : VInstr) (s : State),
    podOn s k = some p ∧ vecValid 0xd v = true :=
  ⟨0, 0, ⟨3, false, 0, false, 4, 1, 0, 0, 0⟩, running1, by decide⟩

theorem test_meets_VectorArithmeticAndLogic_vShr : ∃ (k : Fin 640) (p : Nat) (v : VInstr) (s : State),
    podOn s k = some p ∧ vecValid 0xe v = true :=
  ⟨0, 0, ⟨3, false, 0, false, 4, 1, 0, 0, 0⟩, running1, by decide⟩

theorem test_meets_VectorArithmeticAndLogic_vSra : ∃ (k : Fin 640) (p : Nat) (v : VInstr) (s : State),
    podOn s k = some p ∧ vecValid 0xf v = true :=
  ⟨0, 0, ⟨3, false, 0, false, 4, 1, 0, 0, 0⟩, running1, by decide⟩

theorem test_meets_VectorArithmeticAndLogic_vMovi : ∃ (k : Fin 640) (p : Nat) (v : VInstr) (s : State),
    podOn s k = some p ∧ vecValid 0x10 v = true :=
  ⟨0, 0, ⟨3, false, 0, false, 4, 0, 0, 0, 0⟩, running1, by decide⟩

theorem test_meets_VectorArithmeticAndLogic_vSplat : ∃ (k : Fin 640) (p : Nat) (v : VInstr) (s : State),
    podOn s k = some p ∧ vecValid 0x11 v = true :=
  ⟨0, 0, ⟨0, false, 0, false, 4, 1, 0, 0, 0⟩, running1, by decide⟩

theorem test_meets_VectorArithmeticAndLogic_vSel : ∃ (k : Fin 640) (p : Nat) (v : VInstr) (s : State),
    podOn s k = some p ∧ vecValid 0x21 v = true :=
  ⟨0, 0, ⟨0, false, 0, false, 4, 1, 2, 0, 1⟩, running1, by decide⟩

theorem test_meets_VectorReductionsFunctionsAndPermutes_vUnpack : ∃ (k : Fin 640) (p : Nat) (v : VInstr) (s : State),
    podOn s k = some p ∧ vecValid 0x31 v = true :=
  ⟨0, 0, ⟨1, false, 0, false, 4, 1, 0, 0, 0⟩, running1, by decide⟩

theorem test_meets_VectorReductionsFunctionsAndPermutes_vRsum : ∃ (k : Fin 640) (p : Nat) (v : VInstr) (s : State),
    podOn s k = some p ∧ vecValid 0x40 v = true :=
  ⟨0, 0, ⟨0, false, 0, false, 4, 1, 0, 0, 0⟩, running1, by decide⟩

theorem test_meets_VectorReductionsFunctionsAndPermutes_vRmax : ∃ (k : Fin 640) (p : Nat) (v : VInstr) (s : State),
    podOn s k = some p ∧ vecValid 0x41 v = true :=
  ⟨0, 0, ⟨0, false, 0, false, 4, 1, 0, 0, 0⟩, running1, by decide⟩

theorem test_meets_VectorReductionsFunctionsAndPermutes_vRmin : ∃ (k : Fin 640) (p : Nat) (v : VInstr) (s : State),
    podOn s k = some p ∧ vecValid 0x42 v = true :=
  ⟨0, 0, ⟨0, false, 0, false, 4, 1, 0, 0, 0⟩, running1, by decide⟩

theorem test_meets_VectorReductionsFunctionsAndPermutes_vRargmax : ∃ (k : Fin 640) (p : Nat) (v : VInstr) (s : State),
    podOn s k = some p ∧ vecValid 0x43 v = true :=
  ⟨0, 0, ⟨0, false, 0, false, 4, 1, 0, 0, 0⟩, running1, by decide⟩

theorem test_meets_VectorReductionsFunctionsAndPermutes_vExp2 : ∃ (k : Fin 640) (p : Nat) (v : VInstr) (s : State),
    podOn s k = some p ∧ vecValid 0x50 v = true :=
  ⟨0, 0, ⟨0, false, 0, false, 4, 1, 0, 0, 0⟩, running1, by decide⟩

theorem test_meets_VectorReductionsFunctionsAndPermutes_vLog2 : ∃ (k : Fin 640) (p : Nat) (v : VInstr) (s : State),
    podOn s k = some p ∧ vecValid 0x51 v = true :=
  ⟨0, 0, ⟨0, false, 0, false, 4, 1, 0, 0, 0⟩, running1, by decide⟩

theorem test_meets_VectorReductionsFunctionsAndPermutes_vRcp : ∃ (k : Fin 640) (p : Nat) (v : VInstr) (s : State),
    podOn s k = some p ∧ vecValid 0x52 v = true :=
  ⟨0, 0, ⟨0, false, 0, false, 4, 1, 0, 0, 0⟩, running1, by decide⟩

theorem test_meets_VectorReductionsFunctionsAndPermutes_vRsqrt : ∃ (k : Fin 640) (p : Nat) (v : VInstr) (s : State),
    podOn s k = some p ∧ vecValid 0x53 v = true :=
  ⟨0, 0, ⟨0, false, 0, false, 4, 1, 0, 0, 0⟩, running1, by decide⟩

theorem test_meets_VectorReductionsFunctionsAndPermutes_vTanh : ∃ (k : Fin 640) (p : Nat) (v : VInstr) (s : State),
    podOn s k = some p ∧ vecValid 0x54 v = true :=
  ⟨0, 0, ⟨0, false, 0, false, 4, 1, 0, 0, 0⟩, running1, by decide⟩

theorem test_meets_VectorReductionsFunctionsAndPermutes_vErf : ∃ (k : Fin 640) (p : Nat) (v : VInstr) (s : State),
    podOn s k = some p ∧ vecValid 0x55 v = true :=
  ⟨0, 0, ⟨0, false, 0, false, 4, 1, 0, 0, 0⟩, running1, by decide⟩

theorem test_meets_VectorReductionsFunctionsAndPermutes_vPerm : ∃ (k : Fin 640) (p : Nat) (v : VInstr) (s : State),
    podOn s k = some p ∧ vecValid 0x60 v = true :=
  ⟨0, 0, ⟨0, false, 0, false, 4, 1, 2, 0, 0⟩, running1, by decide⟩

theorem test_meets_VectorReductionsFunctionsAndPermutes_vRot : ∃ (k : Fin 640) (p : Nat) (v : VInstr) (s : State),
    podOn s k = some p ∧ vecValid 0x61 v = true :=
  ⟨0, 0, ⟨0, false, 0, false, 4, 1, 0, 0, 0⟩, running1, by decide⟩

theorem test_meets_VectorReductionsFunctionsAndPermutes_vFunnel : ∃ (k : Fin 640) (p : Nat) (v : VInstr) (s : State),
    podOn s k = some p ∧ vecValid 0x62 v = true :=
  ⟨0, 0, ⟨0, false, 0, false, 4, 1, 2, 0, 0⟩, running1, by decide⟩

theorem test_meets_VectorReductionsFunctionsAndPermutes_vZip : ∃ (k : Fin 640) (p : Nat) (v : VInstr) (s : State),
    podOn s k = some p ∧ vecValid 0x63 v = true :=
  ⟨0, 0, ⟨0, false, 0, false, 4, 1, 2, 0, 0⟩, running1, by decide⟩

theorem test_meets_VectorReductionsFunctionsAndPermutes_vUnzip : ∃ (k : Fin 640) (p : Nat) (v : VInstr) (s : State),
    podOn s k = some p ∧ vecValid 0x64 v = true :=
  ⟨0, 0, ⟨0, false, 0, false, 4, 1, 2, 0, 0⟩, running1, by decide⟩

theorem test_meets_VectorReductionsFunctionsAndPermutes_vCmp : ∃ (k : Fin 640) (p : Nat) (v : VInstr) (s : State),
    podOn s k = some p ∧ vecValid 0x20 v = true :=
  ⟨0, 0, ⟨3, false, 0, false, 0, 1, 2, 0, 1⟩, running1, by decide⟩

theorem test_meets_VectorReductionsFunctionsAndPermutes_vCvt : ∃ (k : Fin 640) (p : Nat) (v : VInstr) (s : State),
    podOn s k = some p ∧ vecValid 0x30 v = true :=
  ⟨0, 0, ⟨0, false, 0, false, 4, 1, 0, 0, 1⟩, running1, by decide⟩

theorem test_meets_VectorReductionsFunctionsAndPermutes_vRecv : ∃ (k : Fin 640) (p : Nat) (v : VInstr) (l : PLine) (s : State),
    podOn s k = some p ∧ vecValid 0x70 v = true ∧ (s.pod k).arriving (s.pt p).run.advanced 3 = some l :=
  ⟨0, 0, ⟨0, false, 0, false, 4, 0, 0, 0, 1⟩, ⟨5, false⟩, running1.setPod 0 { Pod.init with flights := [{ due := 0, dest := .cell 3, word := 5, poison := false }] }, ⟨by decide, by decide, rfl⟩⟩

theorem test_meets_VectorReductionsFunctionsAndPermutes_vSend : ∃ (k : Fin 640) (p : Nat) (v : VInstr) (s : State),
    podOn s k = some p ∧ vecValid 0x71 v = true :=
  ⟨0, 0, ⟨0, false, 0, false, 0, 4, 0, 0, 1⟩, running1, by decide⟩

theorem test_meets_VectorReductionsFunctionsAndPermutes_vEmit : ∃ (k : Fin 640) (p : Nat) (v : VInstr) (s : State),
    podOn s k = some p ∧ vecValid 0x7F v = true :=
  ⟨0, 0, ⟨0, false, 0, false, 0, 4, 0, 0, 1⟩, running1, by decide⟩

theorem test_meets_VectorReductionsFunctionsAndPermutes_invalid : ∃ (k : Fin 640) (v : VInstr) (s : State),
    vecValid 0x01 v = false :=
  ⟨0, ⟨7, false, 0, false, 4, 1, 2, 0, 0⟩, running1, by decide⟩

theorem test_meets_MatrixOperationsOfAPod_macNew : ∃ (k : Fin 640) (bank : Fin 2) (row : Fin 32) (half : Bool) (p : Nat) (s : State),
    podOn s k = some p ∧ (activeCfg s p k).mode' ≠ 0 ∧ (half = true → wideMode (activeCfg s p k).mode' = false) :=
  ⟨0, 0, 3, false, 0, mac1, by decide⟩

theorem test_meets_MatrixOperationsOfAPod_macAcc : ∃ (k : Fin 640) (bank : Fin 2) (row : Fin 32) (half : Bool) (p : Nat) (s : State),
    podOn s k = some p ∧ (activeCfg s p k).mode' ≠ 0 ∧ (half = true → wideMode (activeCfg s p k).mode' = false) :=
  ⟨0, 0, 3, false, 0, mac1, by decide⟩

theorem test_meets_MatrixOperationsOfAPod_matClear : ∃ (k : Fin 640) (bank : Fin 2) (p : Nat) (s : State),
    podOn s k = some p :=
  ⟨0, 0, 0, mac1, by decide⟩

theorem test_meets_MatrixOperationsOfAPod_wload : ∃ (k : Fin 640) (row : Fin 32) (half : Bool) (p : Nat) (s : State),
    podOn s k = some p ∧ (half = true → wideMode (activeCfg s p k).mode' = false) :=
  ⟨0, 3, false, 0, mac1, by decide⟩

theorem test_meets_MatrixOperationsOfAPod_wswap : ∃ (k : Fin 640) (p : Nat) (s : State),
    podOn s k = some p :=
  ⟨0, 0, mac1, by decide⟩

theorem test_meets_MatrixOperationsOfAPod_matDrain : ∃ (k : Fin 640) (bank : Fin 2) (row : Fin 32) (p : Nat) (s : State),
    podOn s k = some p :=
  ⟨0, 0, 3, 0, mac1, by decide⟩

theorem test_meets_MatrixOperationsOfAPod_badHalf : ∃ (k : Fin 640) (bank : Fin 2) (row : Fin 32) (p : Nat) (s : State),
    podOn s k = some p ∧ wideMode (activeCfg s p k).mode' = true :=
  ⟨0, 0, 3, 0, mac1w, by decide⟩

theorem test_meets_SequencersStepStallAndFold_sequencerStepIssue : ∃ (k : Fin 640) (c : Fin 4) (p : Nat) (b : List Byte) (st : StepRec) (s : State),
    podOn s k = some p ∧ foldDue s p = false ∧ seqDue s p k c = true ∧ stallNow s p = none ∧ b = blockOf s p k c ∧ st = stepOf b (seqOf s k c).step ∧ stepIssues b (seqOf s k c) (s.pt p).run.flags st = true ∧ st.decide = false ∧ (s.pt p).inRun = true :=
  ⟨0, 0, 0, _, _, seq1 (List.replicate 16 0), ⟨by decide, by decide, by decide, by decide, rfl, rfl, by decide, by decide, by decide⟩⟩

theorem test_meets_SequencersStepStallAndFold_skipped : ∃ (k : Fin 640) (c : Fin 4) (p : Nat) (b : List Byte) (st : StepRec) (s : State),
    podOn s k = some p ∧ foldDue s p = false ∧ seqDue s p k c = true ∧ stallNow s p = none ∧ b = blockOf s p k c ∧ st = stepOf b (seqOf s k c).step ∧ stepIssues b (seqOf s k c) (s.pt p).run.flags st = false :=
  ⟨0, 0, 0, _, _, seq1 ([0, 0, 4, 0, 0, 8] ++ List.replicate 10 0), ⟨by decide, by decide, by decide, by decide, rfl, rfl, by decide⟩⟩

theorem test_meets_SequencersStepStallAndFold_stalls : ∃ (k : Fin 640) (c : Fin 4) (p : Nat) (d : StallCause) (s : State),
    podOn s k = some p ∧ foldDue s p = false ∧ seqDue s p k c = true ∧ stallNow s p = some d :=
  ⟨0, 0, 0, .await, seq1 ([0, 0, 1] ++ List.replicate 13 0), by decide⟩

theorem test_meets_SequencersStepStallAndFold_awaitStallEnd : ∃ (p : Fin 16) (s : State),
    (s.pt p).inRun = true ∧ (s.pt p).run.stall = some .await ∧ stallNow s p = none :=
  ⟨0, running1.setPt 0 { running1.pt 0 with run := { (running1.pt 0).run with stall := some .await } }, by decide⟩

theorem test_meets_SequencersStepStallAndFold_decideStallEnd : ∃ (p : Fin 16) (s : State),
    (s.pt p).inRun = true ∧ (s.pt p).run.stall = some .decide ∧ stallNow s p = none :=
  ⟨0, running1.setPt 0 { running1.pt 0 with run := { (running1.pt 0).run with stall := some .decide } }, by decide⟩

theorem test_meets_SequencersStepStallAndFold_decisionPoint : ∃ (p : Fin 16) (k c : Nat) (st : StepRec) (g rest : List W32) (s : State),
    partOn s p = true ∧ paceOf s p = some (k, c) ∧ dueStep s p k c = some st ∧ st.decide = true ∧ foldDue s p = false ∧ stallNow s p = none ∧ steerGroup (s.pt p).run.steers = some (g, rest) ∧ badSteer g false = none ∧ st.await = false :=
  ⟨0, 0, 0, _, _, _, (let x := seq1 ([0, 0, 2] ++ List.replicate 13 0); x.setPt 0 { x.pt 0 with run := { (x.pt 0).run with steers := [0x80000000] } }), ⟨by decide, by decide, rfl, by decide, by decide, by decide, rfl, by decide, by decide⟩⟩

theorem test_meets_SequencersStepStallAndFold_naturalFold : ∃ (p : Fin 16) (s : State),
    partOn s p = true ∧ foldDue s p = true :=
  ⟨0, running1.setPt 0 { running1.pt 0 with run := { (running1.pt 0).run with foldNow := some 4 } }, by decide⟩

theorem test_meets_SequencersStepStallAndFold_foldWaitEnd : ∃ (p : Fin 16) (t : Nat) (s : State),
    (s.pt p).inRun = true ∧ (s.pt p).run.stall = some .foldWait ∧ (s.pt p).run.target = some t ∧ (tget Slot.init (s.pt p).slots t).state = .committed :=
  ⟨0, 0, running1.setPt 0 { running1.pt 0 with run := { (running1.pt 0).run with active := none, stall := some .foldWait, target := some 0 } }, by decide⟩

theorem test_meets_SequencersStepStallAndFold_steerDelivery : ∃ (p : Fin 16) (s : State),
    (s.pt p).inRun = true :=
  ⟨0, running1, by decide⟩

theorem test_meets_SequencersStepStallAndFold_summaryArrival : ∃ (p : Fin 16) (w : W64) (d : Nat) (s : State),
    (s.pt p).inRun = true ∧ (s.pt p).run.summaryFlights = [{ word := w, due := d }] ∧ d ≤ (s.pt p).run.elapsed ∧ (s.pt p).run.inbox.length < 256 :=
  ⟨0, 7, 0, running1.setPt 0 { running1.pt 0 with run := { (running1.pt 0).run with summaryFlights := [{ word := 7, due := 0 }] } }, by decide⟩

theorem test_meets_SproutInstructionsAndQueues_sproutInstruction : ∃ (rg : Fin 16) (p rd rs1 : Nat) (imm : Nat) (s : State),
    coreOf s rg = some p ∧ (s.sprout rg).run = .running ∧ (s.sprout rg).ecc = [] ∧ (s.sprout rg).pc.toNat + 4 ≤ 0x20000 ∧ rd < 32 ∧ rs1 < 32 ∧ imm < 4096 ∧ leNat (mread 0 (s.sprout rg).mem (s.sprout rg).pc.toNat 4) = imm * 2 ^ 20 + rs1 * 2 ^ 15 + rd * 2 ^ 7 + 0x13 ∧ leNat (mread 0 (s.sprout rg).mem (s.sprout rg).pc.toNat 2) = (imm * 2 ^ 20 + rs1 * 2 ^ 15 + rd * 2 ^ 7 + 0x13) % 2 ^ 16 :=
  ⟨0, 0, 1, 0, 5, core1.setSprout 0 { core1.sprout 0 with mem := [(0, 0x93), (2, 0x50)] }, by decide⟩

theorem test_meets_SproutInstructionsAndQueues_sproutAdd : ∃ (rg : Fin 16) (p rd rs1 rs2 : Nat) (s : State),
    coreOf s rg = some p ∧ (s.sprout rg).run = .running ∧ (s.sprout rg).ecc = [] ∧ (s.sprout rg).pc.toNat + 4 ≤ 0x20000 ∧ rd < 32 ∧ rs1 < 32 ∧ rs2 < 32 ∧ leNat (mread 0 (s.sprout rg).mem (s.sprout rg).pc.toNat 4) = rs2 * 2 ^ 20 + rs1 * 2 ^ 15 + rd * 2 ^ 7 + 0x33 ∧ leNat (mread 0 (s.sprout rg).mem (s.sprout rg).pc.toNat 2) = (rs1 * 2 ^ 15 + rd * 2 ^ 7 + 0x33) % 2 ^ 16 :=
  ⟨0, 0, 1, 0, 5, core1.setSprout 0 { core1.sprout 0 with mem := [(0, 0xB3), (2, 0x50)] }, by decide⟩

theorem test_meets_SproutInstructionsAndQueues_spSteer : ∃ (rg : Fin 16) (p : Nat) (w : W32) (s : State),
    coreOf s rg = some p ∧ (s.sprout rg).run = .running ∧ 0 < steerFree s p :=
  ⟨0, 0, 7, core1, by decide⟩

theorem test_meets_SproutInstructionsAndQueues_spSteerBlocks : ∃ (rg : Fin 16) (p : Nat) (w : W32) (s : State),
    coreOf s rg = some p ∧ (s.sprout rg).run = .running ∧ steerFree s p = 0 :=
  ⟨0, 0, 7, core1.setPt 0 { core1.pt 0 with run := { (core1.pt 0).run with steers := List.replicate 16 0 } }, by decide⟩

theorem test_meets_SproutInstructionsAndQueues_spSteerUnblock : ∃ (rg : Fin 16) (p rd : Nat) (w : W32) (s : State),
    coreOf s rg = some p ∧ (s.sprout rg).run = .blockedSteer w rd ∧ 0 < steerFree s p :=
  ⟨0, 0, 5, 7, core1.setSprout 0 { Sprout.init with run := .blockedSteer 7 5 }, by decide⟩

theorem test_meets_SproutInstructionsAndQueues_spInboxLo : ∃ (rg : Fin 16) (rd : Fin 32) (p : Nat) (w : W64) (r : List W64) (s : State),
    coreOf s rg = some p ∧ (s.sprout rg).run = .running ∧ (s.pt p).run.inbox = w :: r :=
  ⟨0, 5, 0, 9, [], core1.setPt 0 { core1.pt 0 with run := { (core1.pt 0).run with inbox := [9] } }, by decide⟩

theorem test_meets_SproutInstructionsAndQueues_spInboxLoBlocks : ∃ (rg : Fin 16) (rd : Fin 32) (p : Nat) (s : State),
    coreOf s rg = some p ∧ (s.sprout rg).run = .running ∧ (s.pt p).run.inbox = [] :=
  ⟨0, 5, 0, core1, by decide⟩

theorem test_meets_SproutInstructionsAndQueues_spInboxCtrl : ∃ (rg : Fin 16) (p : Nat) (v : W32) (s : State),
    coreOf s rg = some p ∧ (s.sprout rg).run = .running ∧ v.getLsbD 0 = true :=
  ⟨0, 0, 1, core1, by decide⟩

theorem test_meets_SproutInstructionsAndQueues_spSchedFcLo : ∃ (rg : Fin 16) (rd : Fin 32) (p : Nat) (s : State),
    coreOf s rg = some p ∧ (s.sprout rg).run = .running :=
  ⟨0, 5, 0, core1, by decide⟩

theorem test_meets_SproutInstructionsAndQueues_wfiWake : ∃ (rg : Fin 16) (p : Nat) (s : State),
    coreOf s rg = some p ∧ (s.sprout rg).run = .waiting ∧ wfiReady s rg p = true :=
  ⟨0, 0, core1.setSprout 0 { Sprout.init with run := .waiting }, by decide⟩

theorem test_meets_ImagesAreStagedLoadedAndRun_imageStage : ∃ (fn : Fn) (buf : Option (List Byte)) (c : Consumed) (p : Nat) (ps : List (Nat × Nat)) (b : List Byte) (s : State),
    forPart s fn 2 1 p c = true ∧ c.u32 12 = 0 ∧ c.u64 16 % 4096 = 0 ∧ 0 < c.u32 8 ∧ windowPieces (s.pt p).windows (c.u64 16) (c.u32 8) = some ps ∧ (s.pt p).state ≠ .faulted ∧ ps.any (fun r => (s.pt p).pinned r.1 r.2) = false ∧ (s.pt p).handles.length < 8 ∧ hostBuf s fn buf = some b :=
  ⟨0, some [1, 2, 3, 4], asking 2 1 2 0 (le 8 0 ++ le 4 4096), 0, _, _, asked (part0 .assigned) 0 (asking 2 1 2 0 (le 8 0 ++ le 4 4096)), ⟨by decide, by decide, by decide, by decide, rfl, by decide, by decide, by decide, rfl⟩⟩

theorem test_meets_ImagesAreStagedLoadedAndRun_imageCheck : ∃ (fn : Fn) (c : Consumed) (p : Nat) (h : Handle) (s : State),
    forPart s fn 2 2 p c = true ∧ tfind (s.pt p).handles (c.u16 0) = some h ∧ h.image.w = (s.pt p).w ∧ h.image.h = (s.pt p).h ∧ h.image.fingerprints = activePrints s (s.pt p).regions :=
  ⟨0, asking 2 2 0 0 [1, 0], 0, _, asked (image1 .loaded .queued false) 0 (asking 2 2 0 0 [1, 0]), ⟨by decide, rfl, by decide, by decide, by decide⟩⟩

theorem test_meets_ImagesAreStagedLoadedAndRun_imageCheckShape : ∃ (fn : Fn) (c : Consumed) (p : Nat) (h : Handle) (s : State),
    forPart s fn 2 2 p c = true ∧ tfind (s.pt p).handles (c.u16 0) = some h ∧ h.image.w ≠ (s.pt p).w :=
  ⟨0, asking 2 2 0 0 [1, 0], 0, _, (let x := asked (image1 .loaded .queued false) 0 (asking 2 2 0 0 [1, 0]); x.setPt 0 { x.pt 0 with w := 2 }), ⟨by decide, rfl, by decide⟩⟩

theorem test_meets_ImagesAreStagedLoadedAndRun_imageDrop : ∃ (fn : Fn) (c : Consumed) (p : Nat) (h : Handle) (s : State),
    forPart s fn 2 3 p c = true ∧ tfind (s.pt p).handles (c.u16 0) = some h ∧ (s.pt p).bound ≠ some (c.u16 0) :=
  ⟨0, asking 2 3 0 0 [1, 0], 0, _, (let x := asked (image1 .loaded .queued false) 0 (asking 2 3 0 0 [1, 0]); x.setPt 0 { x.pt 0 with bound := none }), ⟨by decide, rfl, by decide⟩⟩

theorem test_meets_ImagesAreStagedLoadedAndRun_partLoad : ∃ (fn : Fn) (c : Consumed) (p : Nat) (h : Handle) (ct : Ctx) (s : State),
    forPart s fn 3 5 p c = true ∧ loadRefusal s p (c.u16 0) (c.u8 2) = none ∧ tfind (s.pt p).handles (c.u16 0) = some h ∧ h.image.ctxs[c.u8 2]? = some ct :=
  ⟨0, asking 3 5 2 0 [1, 0, 0], 0, _, _, asked (image1 .loaded .queued false) 0 (asking 3 5 2 0 [1, 0, 0]), ⟨by decide, by decide, rfl, rfl⟩⟩

theorem test_meets_ImagesAreStagedLoadedAndRun_partLoadCancel : ∃ (fn : Fn) (c : Consumed) (p : Nat) (s : State),
    forPart s fn 3 6 p c = true ∧ c.u8 0 ≤ 3 ∧ (s.pt p).state ≠ .saved ∧ (s.pt p).activeSlot ≠ some (c.u8 0) :=
  ⟨0, asking 3 6 0 0 [0], 0, asked (image1 .loaded .queued false) 0 (asking 3 6 0 0 [0]), by decide⟩

theorem test_meets_ImagesAreStagedLoadedAndRun_partStart : ∃ (fn : Fn) (c : Consumed) (p : Nat) (h : Handle) (ct : Ctx) (hd : Nat) (s : State),
    forPart s fn 3 7 p c = true ∧ mayRun s = true ∧ (s.pt p).state = .loaded ∧ (s.pt p).run.active = none ∧ (s.pt p).powered = true ∧ (s.pt p).saveJob = none ∧ (s.pt p).abortJob = none ∧ (s.pt p).bound = some hd ∧ tfind (s.pt p).handles hd = some h ∧ h.image.ctxs[h.image.initial]? = some ct ∧ (tget Slot.init (s.pt p).slots ct.slot).state = .committed ∧ (tget Slot.init (s.pt p).slots ct.slot).ctx = h.image.initial ∧ stagedPoison s p h [h.image.sproutAt] = false :=
  ⟨0, asking 3 7 0 0 [], 0, _, _, _, asked (image1 .loaded .committed false) 0 (asking 3 7 0 0 []), ⟨by decide, by decide, by decide, by decide, by decide, by decide, by decide, rfl, rfl, rfl, by decide, by decide, by decide⟩⟩

theorem test_meets_ImagesAreStagedLoadedAndRun_partAbort : ∃ (fn : Fn) (c : Consumed) (p : Nat) (s : State),
    forPart s fn 3 8 p c = true ∧ (∀ q, q < 16 → (s.pt q).abortJob = none) ∧ ((s.pt p).state = .running ∨ (s.pt p).state = .stalled) ∧ copying s p = false :=
  ⟨0, asking 3 8 0 0 [], 0, asked running1 0 (asking 3 8 0 0 []), ⟨by decide, by decide, by decide, by decide⟩⟩

theorem test_meets_ImagesAreStagedLoadedAndRun_partAbortLoaded : ∃ (fn : Fn) (c : Consumed) (p : Nat) (s : State),
    forPart s fn 3 8 p c = true ∧ (∀ q, q < 16 → (s.pt q).abortJob = none) ∧ (s.pt p).state = .loaded :=
  ⟨0, asking 3 8 0 0 [], 0, asked (part0 .loaded) 0 (asking 3 8 0 0 []), ⟨by decide, by decide, by decide⟩⟩

theorem test_meets_ImagesAreStagedLoadedAndRun_slotShiftStart : ∃ (p : Fin 16) (l : Load) (r : List Load) (s : State),
    (s.pt p).loads = l :: r ∧ [PartState.loaded, .running, .stalled].contains (s.pt p).state = true ∧ (s.pt p).powered = true ∧ (s.pt p).shifting = false :=
  ⟨0, _, _, image1 .loaded .queued false, ⟨rfl, by decide, by decide, by decide⟩⟩

theorem test_meets_ImagesAreStagedLoadedAndRun_slotShiftComplete : ∃ (p : Fin 16) (first second : List Nat) (l : Load) (rest : List Load) (h : Handle) (r : Shift) (s : State),
    (s.pt p).shifting = true ∧ [PartState.loaded, .running, .stalled].contains (s.pt p).state = true ∧ (s.pt p).loads = l :: rest ∧ tfind (s.pt p).handles l.handle = some h ∧ r = shiftRecords s p h (((h.image.ctxs[l.ctx]?).map (fun c => c.records)).getD []) first second ∧ r.bad = none ∧ rest.all (fun m => m.slot ≠ l.slot) = true :=
  ⟨0, [], [], _, _, handle1, _, image1 .loaded .shifting true, ⟨by decide, by decide, rfl, by decide, rfl, by decide, by decide⟩⟩

theorem test_meets_ImagesAreStagedLoadedAndRun_moverScheduleIssue : ∃ (p : Fin 16) (k : Nat) (s : State),
    podOn s (s.pt p).northWest = some p.val ∧ entryDue s p k = true ∧ entryHeld s p k = false :=
  ⟨0, 0, (let x := image1 .running .committed false; x.setPt 0 { x.pt 0 with run := { Run.init with active := some 0, movers := [{ entry := { ctx := 0, trigger := 0, first := 0, every := 1, count := 0, srcAdvance := 0, dstAdvance := 0, desc := [] }, index := 0, issued := 0 }] } }), by decide⟩

theorem test_meets_PartitionsFormQueryAndShare_partCreate : ∃ (fn : Fn) (c : Consumed) (s : State),
    startable s fn 3 1 = some c ∧ c.req.partition ≤ 15 ∧ rectFits (c.u8 0) (c.u8 1) (c.u8 2) = true ∧ c.u8 3 ≤ 1 ∧ (s.pt c.req.partition).state = .free ∧ rectRefusal s (c.u8 0) (c.u8 1) (c.u8 2) = none ∧ mapDue s (rectRegions (c.u8 0) (c.u8 1) (c.u8 2)) = false :=
  ⟨0, asking 3 1 1 2 [3, 1, 1, 0], asked fabUp 0 (asking 3 1 1 2 [3, 1, 1, 0]), by decide⟩

theorem test_meets_PartitionsFormQueryAndShare_partAssign : ∃ (fn : Fn) (c : Consumed) (p : Nat) (s : State),
    forPart s fn 3 3 p c = true ∧ c.u8 0 ≤ 1 :=
  ⟨0, asking 3 3 0 0 [1], 0, asked (part0 .loaded) 0 (asking 3 3 0 0 [1]), by decide⟩

theorem test_meets_PartitionsFormQueryAndShare_partQuery : ∃ (fn : Fn) (c : Consumed) (s : State),
    startable s fn 3 4 = some c :=
  ⟨0, asking 3 4 0 0 [], asked (part0 .loaded) 0 (asking 3 4 0 0 []), by decide⟩

theorem test_meets_PartitionsFormQueryAndShare_partSetShare : ∃ (fn : Fn) (c : Consumed) (s : State),
    startable s fn 3 13 = some c ∧ c.req.partition < 16 ∧ (s.pt c.req.partition).state ≠ .free ∧ (s.pt c.req.partition).state ≠ .draining ∧ rd 3 c.req.payload 5 = 0 ∧ c.u16 0x12 = 0 ∧ (∀ i, i < 5 → c.u64 (0x20 + 16 * i) = 0) ∧ (∀ e, e < 5 → 1 ≤ c.u8 e ∧ 16 ≤ c.u16 (8 + 2 * e) ∧ c.u16 (8 + 2 * e) ≤ 1024) ∧ (10 ≤ c.u32 0x14 ∧ c.u32 0x14 ≤ 10000) ∧ (∀ i, i < 5 → 64 ≤ c.u32 (0x1C + 16 * i) ∧ c.u32 (0x1C + 16 * i) ≤ 1048576) ∧ (∀ e, e < 5 → c.u16 (8 + 2 * e) + (((List.range 17).filter (· ≠ c.req.partition)).map (fun q => quotaOf s q e)).foldl (· + ·) 0 ≤ 1024) :=
  ⟨0, asking 3 13 0 0 sharePayload, asked (part0 .loaded) 0 (asking 3 13 0 0 sharePayload), ⟨by decide, by decide, by decide, by decide, by decide, by decide, by decide, by decide, by decide, by decide, by decide⟩⟩

theorem test_meets_PartitionsFormQueryAndShare_regulatorRefillTick : ∃ (p e : Nat) (s : State),
    (tget Regulator.init (s.pt p).regs e).rate ≠ 0 :=
  ⟨0, 2, (part0 .running).setPt 0 { (part0 .running).pt 0 with regs := [(2, { rate := 5, burst := 64, level := 0 })] }, by decide⟩

theorem test_meets_PartitionsSaveResumeResetAndPower_partSave : ∃ (fn : Fn) (c : Consumed) (p : Nat) (s : State),
    forPart s fn 3 9 p c = true ∧ (∀ q, q < 16 → (s.pt q).saveJob = none) ∧ (s.pt p).state = .loaded ∧ c.u64 0 % 4096 = 0 ∧ c.u8 8 ≤ 1 ∧ (s.pt p).ownsHbm (c.u64 0) (saveSize (s.pt p).w (s.pt p).h) = true ∧ (s.pt p).pinned (c.u64 0) (saveSize (s.pt p).w (s.pt p).h) = false ∧ (s.pt p).abortJob = none :=
  ⟨0, asking 3 9 2 0 (le 8 0), 0, asked (part0 .loaded) 0 (asking 3 9 2 0 (le 8 0)), ⟨by decide, by decide, by decide, by decide, by decide, by decide, by decide, by decide⟩⟩

theorem test_meets_PartitionsSaveResumeResetAndPower_saved : ∃ (p : Nat) (j : SaveJob) (s : State),
    (s.pt p).saveJob = some j ∧ (s.pt p).run.paused = false ∧ s.fab.cellEcc = [] :=
  ⟨0, { fn := 0, id := 1, addr := 0, release := false }, (part0 .loaded).setPt 0 { (part0 .loaded).pt 0 with saveJob := some { fn := 0, id := 1, addr := 0, release := false } }, by decide⟩

theorem test_meets_PartitionsSaveResumeResetAndPower_partResume : ∃ (fn : Fn) (c : Consumed) (p : Nat) (v : Saved) (s : State),
    forPart s fn 3 10 p c = true ∧ (∀ q, q < 16 → (s.pt q).resumeJob = none) ∧ (s.pt p).state = .saved ∧ (s.pt p).saved = some v ∧ resumeRefusal s (s.pt p) v (c.u8 0) = none ∧ (s.pt p).w ≠ 0 :=
  ⟨0, asking 3 10 2 0 [255], 0, _, asked ((part0 .saved).setPt 0 { (part0 .saved).pt 0 with saved := some (savedOf (part0 .loaded) 0 (some 0)) }) 0 (asking 3 10 2 0 [255]), ⟨by decide, by decide, by decide, rfl, by decide, by decide⟩⟩

theorem test_meets_PartitionsSaveResumeResetAndPower_partReset : ∃ (fn : Fn) (c : Consumed) (p : Nat) (s : State),
    forPart s fn 3 11 p c = true :=
  ⟨0, asking 3 11 0 0 [], 0, asked running1 0 (asking 3 11 0 0 []), by decide⟩

theorem test_meets_PartitionsSaveResumeResetAndPower_partDestroy : ∃ (fn : Fn) (c : Consumed) (p : Nat) (s : State),
    forPart s fn 3 2 p c = true ∧ c.u8 0 ≤ 1 ∧ (snapBusy s p = false ∨ c.u8 0 = 1) :=
  ⟨0, asking 3 2 0 0 [0], 0, asked running1 0 (asking 3 2 0 0 [0]), by decide⟩

theorem test_meets_PartitionsSaveResumeResetAndPower_partPowerOff : ∃ (fn : Fn) (c : Consumed) (p : Nat) (s : State),
    forPart s fn 3 12 p c = true ∧ c.u8 0 = 0 ∧ c.u8 1 ≤ 1 ∧ c.u16 2 = 0 ∧ (c.u32 4 = 0 ∨ (10 ≤ c.u32 4 ∧ c.u32 4 ≤ 10000)) ∧ (s.pt p).state ≠ .saved ∧ snapBusy s p = false ∧ (s.pt p).powered = true :=
  ⟨0, asking 3 12 0 0 (le 8 0), 0, asked running1 0 (asking 3 12 0 0 (le 8 0)), by decide⟩

theorem test_meets_PartitionsSaveResumeResetAndPower_draining : ∃ (p fn id : Nat) (s : State),
    restoring s p = false ∧ (s.pt p).saveJob = none :=
  ⟨0, 0, 1, running1, by decide⟩

theorem test_meets_PartitionsSaveResumeResetAndPower_drainWindowExpiry : ∃ (p : Fin 16) (d : Drain) (s : State),
    (s.pt p).fence.state = .draining ∧ (s.pt p).drain = some d ∧ d.finish = .power .assigned :=
  ⟨0, _, powerDrain running1 0 0 1, ⟨by decide, rfl, by decide⟩⟩

theorem test_meets_PartitionsSaveResumeResetAndPower_partPowerOn : ∃ (fn : Fn) (c : Consumed) (p : Nat) (s : State),
    forPart s fn 3 12 p c = true ∧ c.u8 0 = 1 ∧ c.u8 1 ≤ 1 ∧ c.u16 2 = 0 ∧ (s.pt p).powered = false :=
  ⟨0, asking 3 12 0 0 [1, 0, 0, 0], 0, (let x := asked (part0 .assigned) 0 (asking 3 12 0 0 [1, 0, 0, 0]); x.setPt 0 { x.pt 0 with powered := false }), by decide⟩

theorem test_meets_WindowsAreGrantedAndRevoked_memWindowGrant : ∃ (fn : Fn) (c : Consumed) (p : Nat) (us : List Nat) (s : State),
    forPart s fn 6 1 p c = true ∧ us = span (c.u16 0) (c.u16 2) ∧ 0 < c.u16 2 ∧ c.u16 0 + c.u16 2 ≤ 575 ∧ (s.pt p).windows.length < 16 ∧ us.any (fun u => unitGranted s u || s.hbm.reserved.contains u) = false ∧ us.any s.hbm.zeroing.contains = false :=
  ⟨0, asking 6 1 0 0 [4, 0, 2, 0], 0, _, asked (part0 .assigned) 0 (asking 6 1 0 0 [4, 0, 2, 0]), ⟨by decide, rfl, by decide, by decide, by decide, by decide, by decide⟩⟩

theorem test_meets_WindowsAreGrantedAndRevoked_memWindowRevoke : ∃ (fn : Fn) (c : Consumed) (p f n : Nat) (s : State),
    forPart s fn 6 2 p c = true ∧ (s.pt p).windows.getLast? = some (f, n) ∧ c.u8 0 + 1 = (s.pt p).windows.length ∧ ((s.pt p).state = .assigned ∨ (s.pt p).state = .faulted) ∧ (s.pt p).pinned (f * 0x10000000) (n * 0x10000000) = false ∧ windowWork s p (span f n) = false ∧ s.husk.current = none :=
  ⟨0, asking 6 2 0 0 [0], 0, 0, 1, asked (part0 .assigned) 0 (asking 6 2 0 0 [0]), by decide⟩

theorem test_meets_WindowsAreGrantedAndRevoked_windowZeroingComplete : ∃ (u : Fin 576) (s : State),
    s.hbm.zeroing.contains u.val = true ∧ s.hbm.ready = true :=
  ⟨3, { ready with hbm := { ready.hbm with zeroing := [3] } }, by decide⟩

theorem test_meets_WindowsAreGrantedAndRevoked_fenceStuck : ∃ (f : Fin 40) (s : State),
    fenceTerminating s f = true :=
  ⟨0, running1.setPt 0 { running1.pt 0 with fence := { state := .terminating, reason := 1 } }, by decide⟩

theorem test_meets_ChannelsOpenCloseAndPair_chanOpen : ∃ (fn : Fn) (c : Consumed) (ch : Chan) (k : Nat) (s : State),
    startable s fn 5 1 = some c ∧ chanOpenCheck s fn c.req.payload = .inr ch ∧ freeNumber s = some k ∧ ch.cross = false :=
  ⟨0, asking 5 1 0 255 openPayload, _, 0, asked ready 0 (asking 5 1 0 255 openPayload), ⟨by decide, rfl, by decide, by decide⟩⟩

theorem test_meets_ChannelsOpenCloseAndPair_chanOpenRemote : ∃ (fn : Fn) (c : Consumed) (ch : Chan) (k : Nat) (s : State),
    startable s fn 5 1 = some c ∧ chanOpenCheck s fn c.req.payload = .inr ch ∧ freeNumber s = some k ∧ ch.cross = true :=
  ⟨0, asking 5 1 0 255 openFarPayload, _, 0, asked ready 0 (asking 5 1 0 255 openFarPayload), ⟨by decide, rfl, by decide, by decide⟩⟩

theorem test_meets_ChannelsOpenCloseAndPair_chanClose : ∃ (fn : Fn) (c : Consumed) (s : State),
    startable s fn 5 2 = some c ∧ (s.chan (c.u8 0)).state ≠ .free ∧ entitled (s.chan (c.u8 0)) fn = true ∧ (s.chan (c.u8 0)).cross = false :=
  ⟨0, asking 5 2 0 255 [3], asked (withChan id) 0 (asking 5 2 0 255 [3]), by decide⟩

theorem test_meets_ChannelsOpenCloseAndPair_chanQuery : ∃ (fn : Fn) (c : Consumed) (s : State),
    startable s fn 5 3 = some c ∧ (s.chan (c.u8 0)).state ≠ .free ∧ entitled (s.chan (c.u8 0)) fn = true :=
  ⟨0, asking 5 3 0 255 [3], asked (withChan id) 0 (asking 5 3 0 255 [3]), by decide⟩

theorem test_meets_ChannelsOpenCloseAndPair_pairRecordRepeat : ∃ (k : Fin 256) (s : State),
    (s.chan k).state = .pending :=
  ⟨3, withChan (fun c => { fromFar c with state := .pending }), by decide⟩

theorem test_meets_ChannelsOpenCloseAndPair_pairRecordReceive : ∃ (m : MsgRec) (k : Nat) (c : Chan) (s : State),
    s.faults.stopped = false ∧ peerAdmits s m.dstPart m.src m.srcPart = true ∧ s.chans.chan = [(k, c)] ∧ c.state = .pending ∧ bitOf m.c 0 = true ∧ c.sender = { kind := .remote, owner := m.srcPart, port := m.a, linkId := m.src } ∧ c.receiver.kind = .sprout ∧ c.receiver.owner = m.dstPart ∧ c.receiver.port = m.b :=
  ⟨{ src := 9, srcPart := 1, dstPart := 0, chan := 255, peer := 7, tag := 0, a := 6, b := 5, c := 1025, seq := 0, words := [] }, 3, fromFar { chan3 false with state := .pending }, (let x := withChan (fun c => { fromFar c with state := .pending }); { x with link := { x.link with peers := [(0, [(9, 2)])] } }), by decide⟩

theorem test_meets_ChannelsOpenCloseAndPair_closeRecordReceive : ∃ (m : MsgRec) (s : State),
    s.faults.stopped = false ∧ (s.chan m.chan).state ≠ .free ∧ (s.chan m.chan).sender = { kind := .remote, owner := m.srcPart, port := m.b, linkId := m.src } ∧ (s.chan m.chan).receiver.kind = .sprout :=
  ⟨{ src := 9, srcPart := 1, dstPart := 0, chan := 3, peer := 7, tag := 0, a := 2, b := 6, c := 0, seq := 0, words := [] }, withChan fromFar, by decide⟩

theorem test_meets_ChannelsOpenCloseAndPair_channelRouteTimeout : ∃ (k : Fin 256) (s : State),
    (s.chan k).state ≠ .free ∧ (s.chan k).sender.kind = .remote ∧ (s.chan k).receiver.kind = .sprout ∧ routePort s (s.chan k).sender.linkId k = none :=
  ⟨3, withChan fromFar, by decide⟩

theorem test_meets_ChannelsOpenCloseAndPair_msgGapTimeout : ∃ (k : Fin 256) (s : State),
    (s.chan k).state = .open ∧ (s.chan k).early.isEmpty = false :=
  ⟨3, withChan (fun c => { fromFar c with early := [(2, { words := [], tag := 0 })] }), by decide⟩

theorem test_meets_ChannelsOpenCloseAndPair_endLost : ∃ (k : Nat) (cause : Nat) (s : State),
    (s.chan k).state = .open ∧ (s.chan k).sender.kind = .remote ∧ (s.chan k).receiver.kind = .sprout ∧ (s.chan k).senderGone = false ∧ (s.chan k).receiverGone = false :=
  ⟨3, 4, withChan fromFar, by decide⟩

theorem test_meets_ChannelsCarryMessages_chTxSend : ∃ (fn : Fn) (port : Fin 16) (v : W32) (k : Nat) (s : State),
    boundTo s .host fn port = some (k, false) ∧ (s.chan k).state = .open ∧ (s.chan k).nack = false ∧ 0 < (s.chan k).credits ∧ (s.chan k).receiver.kind ≠ .remote :=
  ⟨0, 2, 0x10007, 3, withChan id, by decide⟩

theorem test_meets_ChannelsCarryMessages_dropped : ∃ (fn : Fn) (port : Fin 16) (v : W32) (k : Nat) (s : State),
    boundTo s .host fn port = some (k, false) ∧ (s.chan k).state = .open ∧ (s.chan k).nack = false ∧ (s.chan k).credits = 0 :=
  ⟨0, 2, 7, 3, withChan (fun c => { c with credits := 0 }), by decide⟩

theorem test_meets_ChannelsCarryMessages_messageDelivery : ∃ (k : Fin 256) (m : Message) (r : List Message) (s : State),
    (s.chan k).transit = m :: r ∧ ((s.chan k).nack = false ∨ (s.chan k).queue.length < (s.chan k).depth) ∧ (s.chan k).receiver.kind ≠ .hazel :=
  ⟨3, { words := [5], tag := 1 }, [], withChan (fun c => { c with transit := [{ words := [5], tag := 1 }] }), by decide⟩

theorem test_meets_ChannelsCarryMessages_nacked : ∃ (k : Fin 256) (m : Message) (r : List Message) (s : State),
    (s.chan k).transit = m :: r ∧ (s.chan k).nack = true ∧ (s.chan k).depth ≤ (s.chan k).queue.length :=
  ⟨3, { words := [5], tag := 1 }, [], withChan (fun c => { c with nack := true, depth := 0, transit := [{ words := [5], tag := 1 }] }), by decide⟩

theorem test_meets_ChannelsCarryMessages_chRxPop : ∃ (fn : Fn) (port : Fin 16) (k : Nat) (m : Message) (r : List Message) (s : State),
    boundTo s .host fn port = some (k, true) ∧ (s.chan k).queue = m :: r :=
  ⟨2, 5, 3, { words := [5], tag := 1 }, [], withChan (fun c => { c with queue := [{ words := [5], tag := 1 }] }), by decide⟩

theorem test_meets_ChannelsCarryMessages_chNackPop : ∃ (fn : Fn) (e : Nack) (r : List Nack) (l : Bool) (s : State),
    tget NackQueue.init s.chans.fnNack fn = { entries := e :: r, lost := l } :=
  ⟨2, { tag := 4, port := 5, lost := false }, [], false, { ready with chans := { ready.chans with fnNack := [(2, { entries := [{ tag := 4, port := 5, lost := false }], lost := false })] } }, by decide⟩

theorem test_meets_ChannelsCarryMessages_creditReturn : ∃ (k : Fin 256) (s : State),
    (s.chan k).creditTransit ≠ 0 ∧ (s.chan k).credits ≠ 0 :=
  ⟨3, withChan (fun c => { c with creditTransit := 2 }), by decide⟩

theorem test_meets_ChannelsCarryMessages_spChSend : ∃ (rg : Fin 16) (v : W32) (p k : Nat) (s : State),
    ledBy s rg = some p ∧ (s.sprout rg).run = .running ∧ boundTo s .sprout p (s.sprout rg).chPort = some (k, false) ∧ (s.chan k).state = .open ∧ canSend s k = true :=
  ⟨0, 7, 0, 3, coreChan true, by decide⟩

theorem test_meets_ChannelsCarryMessages_blocks : ∃ (rg : Fin 16) (v : W32) (p k : Nat) (s : State),
    ledBy s rg = some p ∧ (s.sprout rg).run = .running ∧ boundTo s .sprout p (s.sprout rg).chPort = some (k, false) ∧ (s.chan k).state = .open ∧ canSend s k = false :=
  ⟨0, 7, 0, 3, (coreChan true).setChan 3 { (coreChan true).chan 3 with credits := 0 }, by decide⟩

theorem test_meets_ChannelsCarryMessages_spChSendUnblock : ∃ (rg : Fin 16) (v : W32) (rd p k : Nat) (s : State),
    ledBy s rg = some p ∧ (s.sprout rg).run = .blockedSend v rd ∧ boundTo s .sprout p (s.sprout rg).chPort = some (k, false) ∧ (s.chan k).state = .open ∧ canSend s k = true :=
  ⟨0, 7, 5, 0, 3, (coreChan true).setSprout 0 { (coreChan true).sprout 0 with run := .blockedSend 7 5 }, by decide⟩

theorem test_meets_ChannelsCarryMessages_spChRx : ∃ (rg : Fin 16) (rd : Fin 32) (p k : Nat) (m : Message) (r : List Message) (s : State),
    ledBy s rg = some p ∧ (s.sprout rg).run = .running ∧ boundTo s .sprout p (s.sprout rg).chPort = some (k, true) ∧ (s.chan k).queue = m :: r :=
  ⟨0, 5, 0, 3, { words := [5], tag := 1 }, [], (coreChan false).setChan 3 { (coreChan false).chan 3 with queue := [{ words := [5], tag := 1 }] }, by decide⟩

theorem test_meets_ChannelsCarryMessages_spChNack : ∃ (rg : Fin 16) (rd : Fin 32) (p : Nat) (e : Nack) (r : List Nack) (l : Bool) (s : State),
    ledBy s rg = some p ∧ (s.sprout rg).run = .running ∧ tget NackQueue.init s.chans.partNack p = { entries := e :: r, lost := l } :=
  ⟨0, 5, 0, { tag := 4, port := 5, lost := false }, [], false, { core1 with chans := { core1.chans with partNack := [(0, { entries := [{ tag := 4, port := 5, lost := false }], lost := false })] } }, by decide⟩

theorem test_meets_ChannelsCarryMessages_messageRecordReceive : ∃ (m : MsgRec) (s : State),
    s.faults.stopped = false ∧ (s.chan m.chan).state = .open ∧ (s.chan m.chan).sender.kind = .remote ∧ (s.chan m.chan).sender.linkId = m.src ∧ (s.chan m.chan).peerChan = m.peer ∧ m.seq = (s.chan m.chan).rxSeq ∧ (s.chan m.chan).nack = false ∧ (s.chan m.chan).early = [] :=
  ⟨{ src := 9, srcPart := 1, dstPart := 0, chan := 3, peer := 255, tag := 0, a := 1, b := 0, c := 0, seq := 0, words := [8] }, withChan fromFar, by decide⟩

theorem test_meets_ChannelsCarryMessages_early : ∃ (m : MsgRec) (s : State),
    s.faults.stopped = false ∧ (s.chan m.chan).state = .open ∧ (s.chan m.chan).sender.kind = .remote ∧ (s.chan m.chan).sender.linkId = m.src ∧ (s.chan m.chan).peerChan = m.peer ∧ m.seq = (s.chan m.chan).rxSeq + 1 ∧ (s.chan m.chan).early = [] ∧ (s.chan m.chan).queue.length < (s.chan m.chan).depth :=
  ⟨{ src := 9, srcPart := 1, dstPart := 0, chan := 3, peer := 255, tag := 0, a := 1, b := 0, c := 0, seq := 1, words := [8] }, withChan fromFar, by decide⟩

theorem test_meets_ChannelsCarryMessages_creditRecordReceive : ∃ (m : MsgRec) (s : State),
    s.faults.stopped = false ∧ (s.chan m.chan).state = .open ∧ (s.chan m.chan).receiver.kind = .remote ∧ (s.chan m.chan).receiver.linkId = m.src ∧ (s.chan m.chan).peerChan = m.peer ∧ (s.chan m.chan).nack = false :=
  ⟨{ src := 9, srcPart := 1, dstPart := 0, chan := 3, peer := 255, tag := 0, a := 1, b := 0, c := 0, seq := 1, words := [] }, withChan toFar, by decide⟩

theorem test_meets_ChannelsCarryMessages_nackFullReceive : ∃ (m : MsgRec) (s : State),
    s.faults.stopped = false ∧ (s.chan m.chan).state = .open ∧ (s.chan m.chan).receiver.kind = .remote ∧ (s.chan m.chan).receiver.linkId = m.src ∧ (s.chan m.chan).peerChan = m.peer :=
  ⟨{ src := 9, srcPart := 1, dstPart := 0, chan := 3, peer := 255, tag := 0, a := 1, b := 0, c := 0, seq := 1, words := [] }, withChan toFar, by decide⟩

theorem test_meets_ChannelsCarryMessages_creditRecordTimer : ∃ (k : Fin 256) (s : State),
    (s.chan k).uncredited ≠ 0 ∧ (s.chan k).state = .open :=
  ⟨3, withChan (fun c => { fromFar c with uncredited := 8 }), by decide⟩

theorem test_meets_ChannelsCarryMessages_msgRecordTransmit : ∃ (port : Fin 16) (m : OutMsg) (r : List OutMsg) (s : State),
    (s.port port).msgQueue = m :: r ∧ m.part = 255 ∧ m.bytes.length ≤ (s.port port).msgBucket ∧ (s.port port).state = .up ∧ s.faults.stopped = false :=
  ⟨2, _, [], (let x := ready.setPort 2 { Port.init with state := .up, msgBucket := 100 }; x.setPort 2 { x.port 2 with msgQueue := [{ part := 255, bytes := [1, 2] }] }), ⟨rfl, by decide, by decide, by decide, by decide⟩⟩

theorem test_meets_MemCommandsQueueDescriptors_memCopy : ∃ (fn : Fn) (c : Consumed) (p : Nat) (l : List (Bool × List Byte)) (t : State) (s : State),
    startable s fn 6 3 = some c ∧ p = reqPart fn c.req ∧ c.u32 4 = 0 ∧ c.u32 0 ≤ 65536 ∧ c.u64 8 % 64 = 0 ∧ ((c.u64 8 = 0 ∧ c.u32 0 = 1) ∨ (c.u64 8 ≠ 0 ∧ 0 < c.u32 0 ∧ rangeRefusal s fn p (c.u64 8) (64 * c.u32 0) false = none)) ∧ partRefusal s p = none ∧ copyList s c = (l, t) :=
  ⟨0, asking 6 3 2 255 (le 8 1 ++ le 8 0), 255, _, _, asked ready 0 (asking 6 3 2 255 (le 8 1 ++ le 8 0)), ⟨by decide, by decide, by decide, by decide, by decide, by decide, by decide, rfl⟩⟩

theorem test_meets_MemCommandsQueueDescriptors_memFill : ∃ (fn : Fn) (c : Consumed) (p : Nat) (s : State),
    startable s fn 6 4 = some c ∧ p = reqPart fn c.req ∧ 64 ≤ c.u64 8 ∧ c.u64 8 % 64 = 0 ∧ (c.u64 0 < cellBase ∨ c.u64 0 % 64 = 0) ∧ partRefusal s p = none ∧ rangeRefusal s fn p (c.u64 0) (c.u64 8) true = none :=
  ⟨0, asking 6 4 2 255 (le 8 0 ++ le 8 64 ++ le 8 5), 255, asked ready 0 (asking 6 4 2 255 (le 8 0 ++ le 8 64 ++ le 8 5)), by decide⟩

theorem test_meets_MemCommandsQueueDescriptors_memQuery : ∃ (fn : Fn) (c : Consumed) (s : State),
    startable s fn 6 5 = some c ∧ c.u8 0 = 0 ∧ reqPart fn c.req ≤ 15 :=
  ⟨0, asking 6 5 0 0 [0, 0], asked (part0 .assigned) 0 (asking 6 5 0 0 [0, 0]), by decide⟩

theorem test_meets_MemCommandsQueueDescriptors_stack : ∃ (fn : Fn) (c : Consumed) (s : State),
    startable s fn 6 5 = some c ∧ c.u8 0 = 1 ∧ fn.val = 0 ∧ c.u8 1 ≤ 5 :=
  ⟨0, asking 6 5 0 0 [1, 2], asked ready 0 (asking 6 5 0 0 [1, 2]), by decide⟩

theorem test_meets_MemCommandsQueueDescriptors_moverCopy : ∃ (id : Nat) (j : Job) (s : State),
    jobOf s id = some j ∧ j.desc.fill = false ∧ jobStartable s j = true :=
  ⟨_, _, queued1 false (fun j => j), ⟨show jobOf (queued1 false (fun j => j)) (fabUp.eng.nextId + 1) = some _ from rfl, by decide, by decide⟩⟩

theorem test_meets_MemCommandsQueueDescriptors_moverFill : ∃ (id : Nat) (j : Job) (s : State),
    jobOf s id = some j ∧ j.desc.fill = true ∧ jobStartable s j = true :=
  ⟨_, _, queued1 true (fun j => j), ⟨show jobOf (queued1 true (fun j => j)) (fabUp.eng.nextId + 1) = some _ from rfl, by decide, by decide⟩⟩

theorem test_meets_EnginesArbitrateAndDescriptorsEnd_engineSegmentComplete : ∃ (e : Fin 5) (buf : Option (List Byte)) (m : Nat) (h : Head) (a : Arb) (s : State),
    tget .open s.eng.fences e = FenceState.open ∧ e.val < 4 ∧ nextTurn s e 120 (arbOf s e) false = (some (m, h), a) :=
  ⟨0, none, _, _, _, queued1 true (fun j => { j with started := true }), ⟨by decide, by decide, rfl⟩⟩

theorem test_meets_EnginesArbitrateAndDescriptorsEnd_noneWaits : ∃ (e : Fin 5) (buf : Option (List Byte)) (a : Arb) (s : State),
    tget .open s.eng.fences e = FenceState.open ∧ e.val < 4 ∧ nextTurn s e 120 (arbOf s e) false = (none, a) :=
  ⟨0, none, _, ready, ⟨by decide, by decide, rfl⟩⟩

theorem test_meets_EnginesArbitrateAndDescriptorsEnd_roundRobin : ∃ (e n m : Nat) (h : Head) (a : Arb) (s : State),
    m = a.turn ∧ headOf s e m = some h ∧ bucketsAdmit (s.pt m) h.charges = true ∧ h.size ≤ tget 0 a.deficit m + tget 16 (s.pt m).weight e * 16384 :=
  ⟨0, 0, 16, _, { turn := 16, deficit := [] }, queued1 true (fun j => { j with started := true }), ⟨rfl, rfl, by decide, by decide⟩⟩

theorem test_meets_EnginesArbitrateAndDescriptorsEnd_moverDescriptorComplete : ∃ (id : Nat) (j : Job) (s : State),
    jobOf s id = some j ∧ j.ended = true ∧ j.fail = none ∧ j.desc.dstRanges.any (fun r => r.1 < cellBase && writeHeld s r.1 r.2) = false :=
  ⟨_, _, queued1 true (fun j => { j with ended := true }), ⟨show jobOf (queued1 true (fun j => { j with ended := true })) (fabUp.eng.nextId + 1) = some _ from rfl, by decide, by decide, by decide⟩⟩

theorem test_meets_EnginesArbitrateAndDescriptorsEnd_moverDescriptorFail : ∃ (id : Nat) (j : Job) (st cause : Nat) (s : State),
    jobOf s id = some j ∧ j.fail = some (st, cause) ∧ j.desc.setFlag = false ∧ st ≠ 0x0604 :=
  ⟨_, _, 0x000C, 1, queued1 true (fun j => { j with fail := some (0x000C, 1) }), ⟨show jobOf (queued1 true (fun j => { j with fail := some (0x000C, 1) })) (fabUp.eng.nextId + 1) = some _ from rfl, by decide, by decide, by decide⟩⟩

theorem test_meets_EnginesArbitrateAndDescriptorsEnd_patrolScrub : ∃ (w : Fin 2415919104) (s : State),
    s.hbm.ready = true ∧ s.hbm.poison.contains w.val = false ∧ lastOfStack w = false :=
  ⟨5, ready, by decide⟩

theorem test_meets_EnginesArbitrateAndDescriptorsEnd_patrolPoisoned : ∃ (w : Fin 2415919104) (s : State),
    s.hbm.ready = true ∧ s.hbm.poison.contains w.val = true ∧ lastOfStack w = false :=
  ⟨5, { ready with hbm := { ready.hbm with poison := [5] } }, by decide⟩

theorem test_meets_EnginesArbitrateAndDescriptorsEnd_passEnds : ∃ (w : Fin 2415919104) (s : State),
    s.hbm.ready = true ∧ s.hbm.poison.contains w.val = true ∧ lastOfStack w = true :=
  ⟨2415919103, { ready with hbm := { ready.hbm with poison := [2415919103] } }, by decide⟩

theorem test_meets_EnginesArbitrateAndDescriptorsEnd_copyOnWrite : ∃ (part : Fin 17) (a : Nat) (d : List Byte) (po : Bool) (s : State),
    inHbm a d.length = true ∧ s.hbm.ready = true ∧ (granules a d.length).any (frozenLeft s) = true :=
  ⟨0, 0x20000, [7], false, { ready with husk := { ready.husk with frozenMarks := [2] } }, by decide⟩

theorem test_meets_EnginesArbitrateAndDescriptorsEnd_claims : ∃ (part g e : Nat) (s : State),
    s.husk.reserve.any (fun r => r.granule = g) = false ∧ reserveFree s = some e :=
  ⟨0, 2, 0, huskOn, by decide⟩

theorem test_meets_EnginesArbitrateAndDescriptorsEnd_cowCopyComplete : ∃ (entry : Nat) (r : Reserve) (c : HuskCfg) (s : State),
    s.husk.reserve.find? (fun r => r.entry = entry && !r.copied) = some r ∧ s.husk.cfg = some c :=
  ⟨0, _, _, { huskOn with husk := { huskOn.husk with reserve := [{ entry := 0, granule := 2, part := 0, copied := false, seq := none, written := false, order := 0 }] } }, ⟨rfl, rfl⟩⟩

theorem test_meets_EnginesArbitrateAndDescriptorsEnd_reserveEntryFreed : ∃ (entry : Nat) (s : State),
    s.husk.reserve.any (fun r => r.entry = entry && r.copied && r.written) = true ∧ s.husk.heldWrites = [] ∧ (∀ p, p < 16 → (s.pt p).run.stall ≠ some .husk) :=
  ⟨0, { huskOn with husk := { huskOn.husk with reserve := [{ entry := 0, granule := 2, part := 0, copied := true, seq := none, written := true, order := 0 }] } }, by decide⟩

theorem test_meets_EmbeddingTablesAndCommands_embTableCreate : ∃ (fn : Fn) (c : Consumed) (p : Nat) (r : List Byte × List Nat × State) (ms : List (Nat × Nat)) (s : State),
    forPart s fn 7 1 p c = true ∧ tableBad c = false ∧ (s.pt p).owns (c.u64 72) (2 * c.u8 12) = true ∧ r = engineRead s (c.u64 72) (2 * c.u8 12) ∧ ms = (List.range (c.u8 12)).map (fun i => (rd 1 r.1 (2 * i), rd 1 r.1 (2 * i + 1))) ∧ r.2.1 = [] ∧ ms.any (fun m => 127 < m.1 || 15 < m.2) = false ∧ (ms.filter (fun m => some m = s.link.linkId.map (fun l => (l, p)))).length = 1 ∧ areasOwned (s.pt p) (embTable c) = true ∧ tableOf s (p * 64 + c.u8 0) = none :=
  ⟨0, asking 7 1 0 0 tablePayload, 0, _, _, asked { part0 .assigned with link := { (part0 .assigned).link with linkId := some 0 } } 0 (asking 7 1 0 0 tablePayload), ⟨by decide, by decide, by decide, rfl, rfl, by decide, by decide, by decide, by decide, by decide⟩⟩

theorem test_meets_EmbeddingTablesAndCommands_embTableDestroy : ∃ (fn : Fn) (c : Consumed) (p : Nat) (t : EmbTable) (s : State),
    forPart s fn 7 2 p c = true ∧ c.u8 0 ≤ 63 ∧ tableOf s (p * 64 + c.u8 0) = some t ∧ t.fence = none ∧ t.migration = none ∧ s.eng.emb.any (fun j => j.key = p * 64 + c.u8 0) = false :=
  ⟨0, asking 7 2 0 0 [0], 0, table1, asked (embOn .assigned) 0 (asking 7 2 0 0 [0]), by decide⟩

theorem test_meets_EmbeddingTablesAndCommands_embCounters : ∃ (fn : Fn) (c : Consumed) (p : Nat) (t : EmbTable) (s : State),
    forPart s fn 7 3 p c = true ∧ c.u8 0 ≤ 63 ∧ c.u8 1 ≤ 3 ∧ tableOf s (p * 64 + c.u8 0) = some t :=
  ⟨0, asking 7 3 0 0 [0, 3], 0, table1, asked (embOn .assigned) 0 (asking 7 3 0 0 [0, 3]), by decide⟩

theorem test_meets_EmbeddingTablesAndCommands_embMigrate : ∃ (fn : Fn) (c : Consumed) (p : Nat) (t : EmbTable) (r : List Byte × List Nat × State) (ms : List (Nat × W32)) (s : State),
    forPart s fn 7 4 p c = true ∧ c.u8 0 ≤ 63 ∧ rd 3 c.req.payload 1 = 0 ∧ 0 < c.u32 4 ∧ c.u32 4 ≤ 65536 ∧ tableOf s (p * 64 + c.u8 0) = some t ∧ partRefusal s p = none ∧ rangeRefusal s fn p (c.u64 8) (8 * c.u32 4) false = none ∧ r = engineRead s (c.u64 8) (8 * c.u32 4) ∧ ms = (List.range (c.u32 4)).map (fun i => (rd 4 r.1 (8 * i), BitVec.ofNat 32 (rd 4 r.1 (8 * i + 4)))) ∧ r.2.1 = [] ∧ ms.any (fun m => t.blocks ≤ m.1 || t.members.length ≤ m.2.toNat % 256) = false ∧ t.lastStep = none ∧ t.migration = none :=
  ⟨0, asking 7 4 2 0 (le 4 0 ++ le 4 1 ++ le 8 0x10000000 ++ le 4 7), 0, table1, _, _, asked (embOn .assigned) 0 (asking 7 4 2 0 (le 4 0 ++ le 4 1 ++ le 8 0x10000000 ++ le 4 7)), ⟨by decide, by decide, by decide, by decide, by decide, by decide, by decide, by decide, rfl, rfl, by decide, by decide, by decide, by decide⟩⟩

theorem test_meets_EmbeddingTablesAndCommands_embReplicateAdd : ∃ (fn : Fn) (c : Consumed) (p : Nat) (t : EmbTable) (r : List Byte × List Nat × State) (rows : List Nat) (s : State),
    forPart s fn 7 5 p c = true ∧ c.u8 0 ≤ 63 ∧ c.u8 1 = 0 ∧ c.u16 2 = 0 ∧ (0 < c.u32 4 ∧ c.u32 4 ≤ 65536) ∧ tableOf s (p * 64 + c.u8 0) = some t ∧ rangeRefusal s fn p (c.u64 8) (4 * c.u32 4) false = none ∧ r = engineRead s (c.u64 8) (4 * c.u32 4) ∧ rows = (List.range (c.u32 4)).map (fun i => rd 4 r.1 (4 * i)) ∧ r.2.1 = [] ∧ rows.any (fun i => t.rows ≤ i) = false ∧ replicasFit r.2.2 (p * 64 + c.u8 0) t (rows.foldl sins t.wanted) = true :=
  ⟨0, asking 7 5 0 0 (le 4 0 ++ le 4 2 ++ le 8 0x10000000), 0, table1, _, _, asked (embOn .assigned) 0 (asking 7 5 0 0 (le 4 0 ++ le 4 2 ++ le 8 0x10000000)), ⟨by decide, by decide, by decide, by decide, by decide, by decide, by decide, rfl, rfl, by decide, by decide, by decide⟩⟩

theorem test_meets_EmbeddingTablesAndCommands_embReplicateRemove : ∃ (fn : Fn) (c : Consumed) (p : Nat) (t : EmbTable) (r : List Byte × List Nat × State) (rows : List Nat) (s : State),
    forPart s fn 7 5 p c = true ∧ c.u8 0 ≤ 63 ∧ c.u8 1 = 1 ∧ c.u16 2 = 0 ∧ (0 < c.u32 4 ∧ c.u32 4 ≤ 65536) ∧ tableOf s (p * 64 + c.u8 0) = some t ∧ rangeRefusal s fn p (c.u64 8) (4 * c.u32 4) false = none ∧ r = engineRead s (c.u64 8) (4 * c.u32 4) ∧ rows = (List.range (c.u32 4)).map (fun i => rd 4 r.1 (4 * i)) ∧ r.2.1 = [] ∧ rows.any (fun i => t.rows ≤ i) = false ∧ replicasFit r.2.2 (p * 64 + c.u8 0) t (rows.foldl sdel t.wanted) = true :=
  ⟨0, asking 7 5 0 0 (le 1 0 ++ le 3 1 ++ le 4 2 ++ le 8 0x10000000), 0, table1, _, _, asked (embOn .assigned) 0 (asking 7 5 0 0 (le 1 0 ++ le 3 1 ++ le 4 2 ++ le 8 0x10000000)), ⟨by decide, by decide, by decide, by decide, by decide, by decide, by decide, rfl, rfl, by decide, by decide, by decide⟩⟩

theorem test_meets_EmbeddingTablesAndCommands_embReplicateClear : ∃ (fn : Fn) (c : Consumed) (p : Nat) (t : EmbTable) (s : State),
    forPart s fn 7 5 p c = true ∧ c.u8 0 ≤ 63 ∧ c.u8 1 = 2 ∧ c.u16 2 = 0 ∧ c.u32 4 ≤ 65536 ∧ tableOf s (p * 64 + c.u8 0) = some t ∧ replicasFit s (p * 64 + c.u8 0) t [] = true :=
  ⟨0, asking 7 5 0 0 (le 1 0 ++ le 3 2 ++ le 4 0 ++ le 8 0), 0, table1, asked (embOn .assigned) 0 (asking 7 5 0 0 (le 1 0 ++ le 3 2 ++ le 4 0 ++ le 8 0)), by decide⟩

theorem test_meets_EmbeddingTablesAndCommands_embFenceTimeout : ∃ (p : Fin 16) (table : Fin 64) (t : EmbTable) (f : StepFence) (s : State),
    tableOf s (p.val * 64 + table.val) = some t ∧ t.fence = some f :=
  ⟨0, 0, { table1 with fence := some { job := 1, step := 1, phase := 2, moves := [], wait := [], subs := [] } }, _, (let s := embOn .running; { s with eng := { s.eng with tables := [(0, { table1 with fence := some { job := 1, step := 1, phase := 2, moves := [], wait := [], subs := [] } })] } }), ⟨rfl, rfl⟩⟩

theorem test_meets_EmbeddingDescriptorsAndBundles_embGather : ∃ (id : Nat) (j y : EmbJob) (t : EmbTable) (u : State) (s : State),
    embJobOf s id = some j ∧ j.desc.op = 0 ∧ embStartable s j = true ∧ u = startBags s j ∧ embJobOf u id = some y ∧ tableOf u j.key = some t ∧ y.fail = none :=
  ⟨_, _, _, table1, _, embJob1 0, ⟨show embJobOf (embJob1 0) ((embOn .running).eng.nextId + 1) = some _ from rfl, by decide, by decide, rfl, rfl, by decide, by decide⟩⟩

theorem test_meets_EmbeddingDescriptorsAndBundles_embScatter : ∃ (id : Nat) (j : EmbJob) (s : State),
    embJobOf s id = some j ∧ j.desc.op = 1 ∧ embStartable s j = true :=
  ⟨_, _, embJob1 1, ⟨show embJobOf (embJob1 1) ((embOn .running).eng.nextId + 1) = some _ from rfl, by decide, by decide⟩⟩

theorem test_meets_EmbeddingDescriptorsAndBundles_embStep : ∃ (id : Nat) (subs : List (Nat × Nat)) (j : EmbJob) (t : EmbTable) (s : State),
    embJobOf s id = some j ∧ j.desc.op = 2 ∧ embStartable s j = true ∧ tableOf s j.key = some t ∧ t.migration = none :=
  ⟨_, [], _, table1, embJob1 2, ⟨show embJobOf (embJob1 2) ((embOn .running).eng.nextId + 1) = some _ from rfl, by decide, by decide, by decide, by decide⟩⟩

theorem test_meets_EmbeddingDescriptorsAndBundles_pooled : ∃ (t : EmbTable) (d : EmbDesc) (len : Nat) (rows : List (List Byte × W32)),
    d.weighted = false ∧ d.mean = false :=
  ⟨table1, embDesc1 0, 1, [], by decide⟩

theorem test_meets_EmbeddingDescriptorsAndBundles_updated : ∃ (key row : Nat) (t : EmbTable) (x : List Nat) (po : Bool) (r : List Byte × List Nat × State) (s : State),
    row < t.rows ∧ (ownerEntry s t (row / 4096)).1 = t.self ∧ r = engineRead s (t.gradAt (ownerEntry s t (row / 4096)).2 row) t.gradBytes :=
  ⟨0, 5, table1, [], false, _, embOn .running, ⟨by decide, by decide, rfl⟩⟩

theorem test_meets_EmbeddingDescriptorsAndBundles_bundleRequestReceive : ∃ (b : Bulk) (s : State),
    b.engine = 1 ∧ bdlKind b = 0 ∧ rd 4 b.content 0 = 0x42455256 ∧ bulkAdmission s b = .take :=
  ⟨bundle1 0, embOn .running, ⟨by decide, by decide, by decide, bundle1_taken 0⟩⟩

theorem test_meets_EmbeddingDescriptorsAndBundles_bundleReplyReceive : ∃ (b : Bulk) (s : State),
    b.engine = 1 ∧ bdlKind b = 1 ∧ rd 4 b.content 0 = 0x42455256 ∧ bulkAdmission s b = .take :=
  ⟨bundle1 1, embOn .running, ⟨by decide, by decide, by decide, bundle1_taken 1⟩⟩

theorem test_meets_EmbeddingDescriptorsAndBundles_bundleUpdateReceive : ∃ (b : Bulk) (s : State),
    b.engine = 1 ∧ bdlKind b = 2 ∧ rd 4 b.content 0 = 0x42455256 ∧ bulkAdmission s b = .take :=
  ⟨bundle1 2, embOn .running, ⟨by decide, by decide, by decide, bundle1_taken 2⟩⟩

theorem test_meets_EmbeddingDescriptorsAndBundles_bundleUpdateAckReceive : ∃ (b : Bulk) (key : Nat) (t : EmbTable) (j : EmbJob) (s : State),
    b.engine = 1 ∧ bdlKind b = 3 ∧ rd 4 b.content 0 = 0x42455256 ∧ bulkAdmission s b = .take ∧ bundleTable s b = some (key, t) ∧ waiterOf s key (bdlSeq b) (senderIndex t b) = some j :=
  ⟨bundle1 3, _, _, _, embWait, ⟨by decide, by decide, by decide, embWait_taken, rfl, rfl⟩⟩

theorem test_meets_EmbeddingDescriptorsAndBundles_bundleRowsPushReceive : ∃ (b : Bulk) (s : State),
    b.engine = 1 ∧ bdlKind b = 4 ∧ rd 4 b.content 0 = 0x42455256 ∧ bulkAdmission s b = .take :=
  ⟨bundle1 4, embOn .running, ⟨by decide, by decide, by decide, bundle1_taken 4⟩⟩

theorem test_meets_EmbeddingDescriptorsAndBundles_installs : ∃ (key row k : Nat) (data : List Byte) (bad : Nat → Nat → Bool) (t : EmbTable) (s : State),
    tableOf s key = some t ∧ t.replicas.contains row = true ∧ tfind t.directory row = some k :=
  ⟨0, 5, 1, [], clean, { table1 with replicas := [5], directory := [(5, 1)] }, (let s := embOn .running; { s with eng := { s.eng with tables := [(0, { table1 with replicas := [5], directory := [(5, 1)] })] } }), by decide⟩

theorem test_meets_EmbeddingDescriptorsAndBundles_bundleBlockMoveReceive : ∃ (b : Bulk) (s : State),
    b.engine = 1 ∧ bdlKind b = 5 ∧ rd 4 b.content 0 = 0x42455256 ∧ bulkAdmission s b = .take :=
  ⟨bundle1 5, embOn .running, ⟨by decide, by decide, by decide, bundle1_taken 5⟩⟩

theorem test_meets_LinkPortsFlitsAndLanes_flitReceive : ∃ (port : Fin 16) (f : Flit) (s : State),
    (s.port port).state = .up ∧ f.kind = 1 ∧ f.seq = (s.port port).rxSeq ∧ f.ackValid = false ∧ f.nak = false :=
  ⟨2, flit1 0, linkUp id, by decide⟩

theorem test_meets_LinkPortsFlitsAndLanes_nak : ∃ (port : Fin 16) (f : Flit) (s : State),
    (s.port port).state = .up ∧ f.kind = 1 ∧ f.seq ≠ (s.port port).rxSeq :=
  ⟨2, flit1 5, linkUp id, by decide⟩

theorem test_meets_LinkPortsFlitsAndLanes_badCrc : ∃ (port : Fin 16) (f : Flit) (s : State),
    (s.port port).state = .up ∧ f.kind ≠ 0 :=
  ⟨2, flit1 0, linkUp id, by decide⟩

theorem test_meets_LinkPortsFlitsAndLanes_acked : ∃ (p : Port) (i ack : Nat),
    p.replay.findIdx? (fun f => f.seq = ack) = some i :=
  ⟨{ Port.init with replay := [flit1 3] }, 0, 3, by decide⟩

theorem test_meets_LinkPortsFlitsAndLanes_markerBlockReceive : ∃ (port : Fin 16) (m : Marker) (s : State),
    (s.port port).state = .up ∧ m.echoTime = 0 ∧ m.txLanes = (s.port port).rxLanes :=
  ⟨2, marker1 0xFF 0x0F, linkUp id, by decide⟩

theorem test_meets_LinkPortsFlitsAndLanes_laneEpochMarker : ∃ (port : Fin 16) (new : Byte) (s : State),
    (s.port port).state = .up ∧ new = usableSet ((s.port port).peerReq &&& ~~~(s.port port).disabledLanes) ∧ laneCount (s.port port).txLanes < laneCount new :=
  ⟨2, _, linkUp (fun p => { p with txLanes := 0x0F }), ⟨by decide, rfl, by decide⟩⟩

theorem test_meets_LinkPortsFlitsAndLanes_laneFailure : ∃ (port : Fin 16) (lane : Fin 8) (s : State),
    (s.port port).state = .up ∧ (s.port port).rxReq.getLsbD lane = true :=
  ⟨2, 3, linkUp id, by decide⟩

theorem test_meets_LinkPortsFlitsAndLanes_laneSetApply : ∃ (port : Fin 16) (v : Byte) (s : State),
    (s.port port).state = .up ∧ (s.port port).announced = some v ∧ v ≠ 0 :=
  ⟨2, 0x0F, linkUp (fun p => { p with announced := some 0x0F }), by decide⟩

theorem test_meets_LinkPortsFlitsAndLanes_laneSetNone : ∃ (port : Fin 16) (s : State),
    (s.port port).state = .up ∧ (s.port port).announced = some 0 :=
  ⟨2, linkUp (fun p => { p with announced := some 0 }), by decide⟩

theorem test_meets_LinkPortsFlitsAndLanes_laneRetrainComplete : ∃ (port : Fin 16) (lane : Fin 8) (ok : Bool) (s : State),
    (s.port port).state = .up ∧ (s.port port).rxReq.getLsbD lane = false ∧ (s.port port).disabledLanes.getLsbD lane = false :=
  ⟨2, 3, true, linkUp (fun p => { p with rxReq := 0xF7 }), by decide⟩

theorem test_meets_LinkPortsFlitsAndLanes_portTrainingComplete : ∃ (port : Fin 16) (tx rx a b : Byte) (s : State),
    (s.port port).state = .training ∧ a = usableSet (tx &&& ~~~(s.port port).disabledLanes) ∧ b = usableSet (rx &&& ~~~(s.port port).disabledLanes) ∧ a ≠ 0 ∧ b ≠ 0 :=
  ⟨2, 0xFF, 0xFF, _, _, linkUp (fun p => { p with state := .training }), ⟨by decide, rfl, rfl, by decide, by decide⟩⟩

theorem test_meets_LinkPortsFlitsAndLanes_trainingFails : ∃ (port : Fin 16) (rx : Byte) (s : State),
    (s.port port).state = .training :=
  ⟨2, 0xFF, linkUp (fun p => { p with state := .training }), by decide⟩

theorem test_meets_LinkPortsFlitsAndLanes_portRetryTimer : ∃ (port : Fin 16) (s : State),
    (s.port port).state = .down ∧ mayTrain s port = true :=
  ⟨2, linkUp (fun p => { p with state := .down }), by decide⟩

theorem test_meets_LinkPortsFlitsAndLanes_portLoss : ∃ (port : Fin 16) (reset : Bool) (s : State),
    (s.port port).state = .up :=
  ⟨2, false, linkUp id, by decide⟩

theorem test_meets_LinkTimeRoutingAndCommands_helloTransmit : ∃ (port : Fin 16) (s : State),
    (s.port port).state = .up :=
  ⟨2, linkUp id, by decide⟩

theorem test_meets_LinkTimeRoutingAndCommands_helloReceive : ∃ (port np : Fin 16) (id : Byte) (s : State),
    (s.port port).state = .up :=
  ⟨2, 3, 10, linkUp id, by decide⟩

theorem test_meets_LinkTimeRoutingAndCommands_timeRecordTransmit : ∃ (port : Fin 16) (l : Nat) (s : State),
    (s.port port).state = .up ∧ s.link.linkId = some l :=
  ⟨2, 9, linkUp id, by decide⟩

theorem test_meets_LinkTimeRoutingAndCommands_timeRecordReceive : ∃ (port : Fin 16) (r : TimeRec) (t : State) (s : State),
    routable s port = true ∧ t = adoptMaster { s with link := { s.link with heard := tset s.link.heard port r } } :=
  ⟨2, { time := 5000, master := 1, hops := 0 }, _, linkUp id, ⟨by decide, rfl⟩⟩

theorem test_meets_LinkTimeRoutingAndCommands_timeMasterTimeout : ∃ (q : Nat) (t : State) (s : State),
    s.link.masterPort = some q ∧ t = adoptMaster { s with link := { s.link with heard := s.link.heard.filter (fun e => some e.2.master ≠ s.link.master), half := false, lead := 0 } } :=
  ⟨2, _, { linkUp id with link := { (linkUp id).link with masterPort := some 2, master := some 1 } }, ⟨by decide, rfl⟩⟩

theorem test_meets_LinkTimeRoutingAndCommands_transitForward : ∃ (port : Fin 16) (vc : Fin 4) (cls : Fin 2) (b : List Byte) (q l : Nat) (s : State),
    s.faults.stopped = false ∧ routable s port = true ∧ s.link.linkId = some l ∧ l ≠ rd 1 b 0 ∧ rd 1 b 0 ≠ 255 ∧ rd 1 b 3 ≠ 0 ∧ routePort s (rd 1 b 0) (transitSel vc b) = some q ∧ vc.val ≠ 0 ∧ bitOf (tget 0 s.link.attrs q).toNat 2 = false ∧ bitsOf (tget 0 s.link.attrs q).toNat 1 0 = bitsOf (tget 0 s.link.attrs port).toNat 1 0 :=
  ⟨2, 3, 0, [10, 8, 3, 15], 2, 9, linkUp id, by decide⟩

theorem test_meets_LinkTimeRoutingAndCommands_ttl : ∃ (port : Fin 16) (vc : Fin 4) (cls : Fin 2) (b : List Byte) (l : Nat) (s : State),
    s.faults.stopped = false ∧ routable s port = true ∧ s.link.linkId = some l ∧ l ≠ rd 1 b 0 ∧ rd 1 b 0 ≠ 255 ∧ rd 1 b 3 = 0 :=
  ⟨2, 3, 0, [10, 8, 3, 0], 9, linkUp id, by decide⟩

theorem test_meets_LinkTimeRoutingAndCommands_linkQuery : ∃ (fn : Fn) (c : Consumed) (s : State),
    startable s fn 8 1 = some c ∧ c.u8 0 < 16 :=
  ⟨0, asking 8 1 0 255 [2], asked (linkUp id) 0 (asking 8 1 0 255 [2]), by decide⟩

theorem test_meets_LinkTimeRoutingAndCommands_device : ∃ (fn : Fn) (c : Consumed) (s : State),
    startable s fn 8 1 = some c ∧ c.u8 0 = 255 :=
  ⟨0, asking 8 1 0 255 [255], asked (linkUp id) 0 (asking 8 1 0 255 [255]), by decide⟩

theorem test_meets_LinkTimeRoutingAndCommands_linkTrain : ∃ (fn : Fn) (c : Consumed) (s : State),
    startable s fn 8 2 = some c ∧ c.u16 0 = 2 ^ 2 ∧ c.u8 2 = 0 ∧ s.link.started = true ∧ s.link.trainJob = none ∧ (s.port 2).state = .down ∧ mayTrain s 2 = true :=
  ⟨0, asking 8 2 2 255 [4, 0, 0], asked (linkUp (fun p => { p with state := .down })) 0 (asking 8 2 2 255 [4, 0, 0]), by decide⟩

theorem test_meets_LinkTimeRoutingAndCommands_linkReset : ∃ (fn : Fn) (c : Consumed) (s : State),
    startable s fn 8 3 = some c ∧ c.u8 0 ≤ 15 ∧ c.u8 1 = 1 :=
  ⟨0, asking 8 3 0 255 [2, 1], asked (linkUp id) 0 (asking 8 3 0 255 [2, 1]), by decide⟩

theorem test_meets_LinkTimeRoutingAndCommands_routeSetRoutingImage : ∃ (fn : Fn) (buf : Option (List Byte)) (c : Consumed) (b0 : List Byte) (s : State),
    startable s fn 8 4 = some c ∧ c.u8 0 = 0 ∧ rd 6 c.req.payload 2 = 0 ∧ hostBuf s fn buf = some b0 ∧ routeImageOk (bytesAt b0 0 768) = true ∧ (linkBusy s = false ∨ s.link.linkId = some (rd 1 (bytesAt b0 0 768) 0)) :=
  ⟨0, some [], asking 8 4 0 255 [0], [], asked (linkUp id) 0 (asking 8 4 0 255 [0]), ⟨by decide, by decide, by decide, by decide, by set_option maxRecDepth 20000 in decide, by decide⟩⟩

theorem test_meets_LinkTimeRoutingAndCommands_routeSetPeerTable : ∃ (fn : Fn) (buf : Option (List Byte)) (c : Consumed) (b : List Byte) (s : State),
    startable s fn 8 4 = some c ∧ c.u8 0 = 1 ∧ c.u8 1 ≤ 15 ∧ rd 6 c.req.payload 2 = 0 ∧ (s.pt (c.u8 1)).state ≠ .free ∧ hostBuf s fn buf = some b :=
  ⟨0, some [1, 2], asking 8 4 0 255 [1, 0], [1, 2], asked (linkUp id) 0 (asking 8 4 0 255 [1, 0]), by decide⟩

theorem test_meets_LinkTransfersBarriersAndCollectives_bulkWriteReceive : ∃ (b : Bulk) (ps : List (Nat × Nat)) (s : State),
    b.engine = 0 ∧ b.dstPart < 16 ∧ bulkAdmission s b = .take ∧ bulkPieces s b = some ps ∧ rangesFrozen s ps = false ∧ ps.any (fun r => snapHolds s b.dstPart false && 0 < r.2) = false :=
  ⟨bulk1 0, _, linkUp id, ⟨rfl, by decide, taken bulk1_length rfl (show admits (linkUp id) 0 10 1 = true by decide) (by decide) (by decide), bulk1_pieces, by decide, by decide⟩⟩

theorem test_meets_LinkTransfersBarriersAndCollectives_bulkEngineReceive : ∃ (b : Bulk) (s : State),
    b.engine = 2 ∧ bulkAdmission s b = .take :=
  ⟨bulk1 2, linkUp id, ⟨rfl, taken bulk1_length rfl (show admits (linkUp id) 0 10 1 = true by decide) (by decide) (by decide)⟩⟩

theorem test_meets_LinkTransfersBarriersAndCollectives_bulkCompleteReceive : ∃ (id status job : Nat) (x : Xfer) (s : State),
    s.faults.stopped = false ∧ s.link.xfers.find? (fun x => x.id = id) = some x ∧ x.use = .mover job ∧ status ≠ 0 :=
  ⟨3, 0x0604, 1, { id := 3, use := .mover 1, dst := 10, dstPart := 1, part := 0, length := 4096 }, { linkUp id with link := { (linkUp id).link with xfers := [{ id := 3, use := .mover 1, dst := 10, dstPart := 1, part := 0, length := 4096 }] } }, by decide⟩

theorem test_meets_LinkTransfersBarriersAndCollectives_bulkCompleteTimeout : ∃ (id : Nat) (x : Xfer) (s : State),
    s.link.xfers.find? (fun x => x.id = id) = some x :=
  ⟨3, { id := 3, use := .mover 1, dst := 10, dstPart := 1, part := 0, length := 4096 }, { linkUp id with link := { (linkUp id).link with xfers := [{ id := 3, use := .mover 1, dst := 10, dstPart := 1, part := 0, length := 4096 }] } }, by decide⟩

theorem test_meets_LinkTransfersBarriersAndCollectives_barrierArrive : ∃ (r : SyncRec) (s : State),
    admits s r.dstPart r.src r.srcPart = true ∧ s.link.barriers = [] ∧ (∃ i, i < 128 ∧ r.members.getLsbD i = true ∧ i ≠ r.src) :=
  ⟨{ src := 10, srcPart := 1, dstPart := 0, barrier := 5, members := 0x600, v0 := 0, v1 := 0, result := 0 }, linkUp id, ⟨by decide, by decide, 9, by decide, by decide, by decide⟩⟩

theorem test_meets_LinkTransfersBarriersAndCollectives_lastArrival : ∃ (r : SyncRec) (a : Arrival) (s : State),
    admits s r.dstPart r.src r.srcPart = true ∧ s.link.barriers = [{ id := r.barrier, arrivals := [a] }] ∧ a.src ≠ r.src ∧ (∀ i, i < 128 → a.members.getLsbD i = true → i = a.src ∨ i = r.src) ∧ r.members = a.members ∧ r.v0 = a.v0 ∧ r.v1 = a.v1 :=
  ⟨{ src := 10, srcPart := 1, dstPart := 0, barrier := 5, members := 0x600, v0 := 0, v1 := 0, result := 0 }, { src := 9, srcPart := 0, members := 0x600, v0 := 0, v1 := 0 }, { linkUp id with link := { (linkUp id).link with barriers := [{ id := 5, arrivals := [{ src := 9, srcPart := 0, members := 0x600, v0 := 0, v1 := 0 }] }] } }, ⟨by decide, by decide, by decide, by decide, by decide, by decide, by decide⟩⟩

theorem test_meets_LinkTransfersBarriersAndCollectives_agree : ∃ (s : State) (b : Barrier) (a : Arrival) (r : List Arrival),
    b.arrivals = a :: r ∧ r.any (fun x => x.members ≠ a.members) = false ∧ r.any (fun x => x.v0 ≠ a.v0) = true :=
  ⟨ready, { id := 5, arrivals := [{ src := 9, srcPart := 0, members := 0x600, v0 := 0, v1 := 0 }, { src := 10, srcPart := 1, members := 0x600, v0 := 1, v1 := 0 }] }, { src := 9, srcPart := 0, members := 0x600, v0 := 0, v1 := 0 }, [{ src := 10, srcPart := 1, members := 0x600, v0 := 1, v1 := 0 }], by decide⟩

theorem test_meets_LinkTransfersBarriersAndCollectives_barrierRelease : ∃ (r : SyncRec) (s : State),
    0x80000000 ≤ r.barrier.toNat % 2 ^ 32 :=
  ⟨{ src := 10, srcPart := 1, dstPart := 0, barrier := 0x580000000, members := 0x600, v0 := 0, v1 := 0, result := 0 }, linkUp id, by decide⟩

theorem test_meets_LinkTransfersBarriersAndCollectives_own : ∃ (r : SyncRec) (rest : List SyncRec) (s : State),
    s.link.releases = r :: rest :=
  ⟨{ src := 10, srcPart := 1, dstPart := 0, barrier := 0x580000000, members := 0x600, v0 := 0, v1 := 0, result := 0 }, [], { linkUp id with link := { (linkUp id).link with releases := [{ src := 10, srcPart := 1, dstPart := 0, barrier := 0x580000000, members := 0x600, v0 := 0, v1 := 0, result := 0 }] } }, by decide⟩

theorem test_meets_LinkTransfersBarriersAndCollectives_linkCollective : ∃ (fn : Fn) (c : Consumed) (p n : Nat) (r : List Byte × List Nat × State) (ms : List (Nat × Nat)) (x : Coll) (s : State),
    forPart s fn 8 5 p c = true ∧ n = c.u8 4 ∧ collBad c = false ∧ partRefusal s p = none ∧ rangeRefusal s fn p (c.u64 40) (2 * n) false = none ∧ r = engineRead s (c.u64 40) (2 * n) ∧ ms = (List.range n).map (fun i => (rd 1 r.1 (2 * i), rd 1 r.1 (2 * i + 1))) ∧ x = collRequest c p fn ms ∧ r.2.1 = [] ∧ ms.any (fun m => 127 < m.1 || 15 < m.2) = false ∧ r.2.2.link.linkId = some (ms.getD x.rank (255, 255)).1 ∧ (ms.getD x.rank (255, 255)).2 = p ∧ 4096 ≤ x.chunk ∧ rangeRefusal r.2.2 fn p x.buf (x.count * x.elem) true = none ∧ (x.op = 1 ∨ rangeRefusal r.2.2 fn p x.scratch (2 * x.chunk) true = none) ∧ ms.any (fun m => r.2.2.link.linkId ≠ some m.1 && (routePort r.2.2 m.1 0).isNone) = false ∧ collOf r.2.2 p x.key = none :=
  ⟨0, asking 8 5 2 0 collPayload1, 0, 2, _, _, _, collState, ⟨by decide, by decide, by decide, by decide, by decide, rfl, rfl, rfl, by decide, by decide, by decide, by decide, by decide, by decide, by decide, by decide, by decide⟩⟩

theorem test_meets_LinkTransfersBarriersAndCollectives_collectiveStepComplete : ∃ (p : Fin 16) (key : W32) (c : Coll) (s : State),
    collOf s p key = some c ∧ c.stepDone = true ∧ c.step + 1 < c.steps :=
  ⟨0, 7, _, { linkUp id with link := { (linkUp id).link with colls := [coll1 0] } }, ⟨rfl, by decide, by decide⟩⟩

theorem test_meets_LinkTransfersBarriersAndCollectives_lastStep : ∃ (p : Fin 16) (key : W32) (c : Coll) (s : State),
    collOf s p key = some c ∧ c.stepDone = true ∧ c.steps = c.step + 1 :=
  ⟨0, 7, _, { linkUp id with link := { (linkUp id).link with colls := [coll1 1] } }, ⟨rfl, by decide, by decide⟩⟩

theorem test_meets_LinkTransfersBarriersAndCollectives_collectiveTimeoutExpiry : ∃ (p : Fin 16) (key : W32) (c : Coll) (s : State),
    collOf s p key = some c :=
  ⟨0, 7, _, { linkUp id with link := { (linkUp id).link with colls := [coll1 0] } }, rfl⟩

theorem test_meets_LinkTransfersBarriersAndCollectives_ring : ∃ (n r k : Nat),
    2 ≤ n ∧ r < n ∧ k < n - 1 :=
  ⟨4, 1, 2, by decide⟩

theorem test_meets_SlotsAndCaptiveDrives_powerControllerControlWrite : ∃ (n : Fin 8) (s : State),
    hubLive s n = true ∧ (s.dp n).passthrough = true ∧ (s.dp n).powerOff = true :=
  ⟨2, withDrive .hostOwned (fun p => { p with passthrough := true, powerOff := true }), by decide⟩

theorem test_meets_SlotsAndCaptiveDrives_switchesOff : ∃ (n : Fin 8) (s : State),
    hubLive s n = true ∧ (s.dp n).passthrough = true ∧ (s.dp n).powerOff = false :=
  ⟨2, withDrive .hostOwned (fun p => { p with passthrough := true, powerOff := false }), by decide⟩

theorem test_meets_SlotsAndCaptiveDrives_presenceChange : ∃ (n : Fin 8) (s : State),
    engineLive s n = true ∧ (s.dp n).present = false ∧ (s.dp n).drive.state = .absent ∧ (s.dp n).autoPower = true ∧ s.boot.deployed = true :=
  ⟨2, ready.setDp 2 { DPort.init with autoPower := true }, by decide⟩

theorem test_meets_SlotsAndCaptiveDrives_driveSurpriseRemoval : ∃ (n : Fin 8) (s : State),
    engineLive s n = true ∧ (s.dp n).present = true ∧ s.comp.slotCtrl.getLsbD n = true :=
  ⟨2, withDrive .ready id, by decide⟩

theorem test_meets_SlotsAndCaptiveDrives_dpPerstRelease : ∃ (n : Fin 8) (s : State),
    engineLive s n = true ∧ (s.dp n).rising = true ∧ (s.dp n).refclk = true ∧ (s.bay n).state = .on ∧ (s.dp n).drive.state = .powering :=
  ⟨2, withDrive .powering (fun p => { p with perst := true, rising := true }), by decide⟩

theorem test_meets_SlotsAndCaptiveDrives_downstreamLinkUp : ∃ (n : Fin 8) (speed : Fin 7) (width : Fin 16) (flit : Bool) (s : State),
    engineLive s n = true ∧ (s.dp n).perst = false ∧ (s.dp n).linkUp = false ∧ (s.bay n).state = .on ∧ speed.val ≠ 0 ∧ (s.dp n).drive.state = .initialising :=
  ⟨2, 5, 4, false, withDrive .initialising (fun p => { p with linkUp := false }), by decide⟩

theorem test_meets_SlotsAndCaptiveDrives_controllerReady : ∃ (n : Fin 8) (s : State),
    engineLive s n = true ∧ (s.dp n).linkUp = true ∧ (s.dp n).drive.enabling = true :=
  ⟨2, withDrive .initialising (fun p => { p with drive := { p.drive with enabling := true } }), by decide⟩

theorem test_meets_SlotsAndCaptiveDrives_controllerReadyTimeout : ∃ (n : Fin 8) (s : State),
    engineLive s n = true ∧ (s.dp n).drive.enabling = true ∧ (s.dp n).drive.state ≠ .resetting :=
  ⟨2, withDrive .initialising (fun p => { p with drive := { p.drive with enabling := true } }), by decide⟩

theorem test_meets_SlotsAndCaptiveDrives_clkreqAssert : ∃ (n : Fin 8) (s : State),
    hubLive s n = true ∧ (s.dp n).l12 = true :=
  ⟨2, withDrive .ready (fun p => { p with l12 := true }), by decide⟩

theorem test_meets_SlotsAndCaptiveDrives_clkreqRelease : ∃ (n : Fin 8) (s : State),
    hubLive s n = true ∧ (s.dp n).linkUp = true ∧ (s.dp n).l12 = false ∧ ((s.dp n).passthrough = true ∨ ((s.dp n).l12Enable = true ∧ (s.dp n).drive.l1ss = true ∧ (s.dp n).drive.state = .ready)) :=
  ⟨2, withDrive .ready (fun p => { p with l12Enable := true, drive := { p.drive with l1ss := true } }), by decide⟩

theorem test_meets_SlotsAndCaptiveDrives_driveIdleTimeout : ∃ (n : Fin 8) (s : State),
    engineLive s n = true ∧ (s.dp n).drive.state = .ready ∧ (s.dp n).suspendS ≠ 0 ∧ (s.dp n).drive.idle = true :=
  ⟨2, withDrive .ready (fun p => { p with suspendS := 60 }), by decide⟩

theorem test_meets_SlotsAndCaptiveDrives_shutdownComplete : ∃ (n : Fin 8) (s : State),
    engineLive s n = true ∧ (s.dp n).drive.state = .suspending ∧ (s.dp n).perst = false :=
  ⟨2, withDrive .suspending id, by decide⟩

theorem test_meets_SlotsAndCaptiveDrives_shutdownTimeout : ∃ (n : Fin 8) (s : State),
    engineLive s n = true ∧ (s.dp n).drive.state = .suspending ∧ (s.dp n).perst = false :=
  ⟨2, withDrive .suspending id, by decide⟩

theorem test_meets_SlotsAndCaptiveDrives_driveWake : ∃ (n : Fin 8) (s : State),
    engineLive s n = true ∧ (s.dp n).drive.state = .suspended ∧ (s.dp n).drive.queued ≠ [] ∧ s.pow.state = .run :=
  ⟨2, withDrive .suspended (fun p => { p with drive := { p.drive with queued := [read1] } }), by decide⟩

theorem test_meets_SlotsAndCaptiveDrives_driveWakeTimeout : ∃ (n : Fin 8) (s : State),
    engineLive s n = true ∧ (s.dp n).drive.state = .waking :=
  ⟨2, withDrive .waking id, by decide⟩

theorem test_meets_DriveCommandsPacketsAndErrors_tlpForward : ∃ (i e : Fin 9) (t : Tlp) (s : State),
    carries s i = true ∧ carries s e = true ∧ e ≠ i ∧ poolRoom s i t = true ∧ tget [] s.hub.held i = [] :=
  ⟨8, 2, { kind := 0, length := 64, poisoned := false }, withDrive .hostOwned (fun p => { p with passthrough := true }), by decide⟩

theorem test_meets_DriveCommandsPacketsAndErrors_badPacket : ∃ (i e : Fin 9) (t : Tlp) (s : State),
    carries s i = true ∧ tget [] s.hub.held i = [] :=
  ⟨8, 2, { kind := 0, length := 64, poisoned := false }, withDrive .hostOwned (fun p => { p with passthrough := true }), by decide⟩

theorem test_meets_DriveCommandsPacketsAndErrors_dpcTrigger : ∃ (n : Fin 8) (s : State),
    hubLive s n = true ∧ (s.dp n).passthrough = true ∧ (s.dp n).linkUp = true :=
  ⟨2, withDrive .hostOwned (fun p => { p with passthrough := true }), by decide⟩

theorem test_meets_DriveCommandsPacketsAndErrors_nvmeCompletionReceive : ∃ (n : Fin 8) (cid dw0 dw1 : Nat) (info : DriveInfo) (c : NvmeCmd) (s : State),
    engineLive s n = true ∧ ((s.dp n).drive.aer = false ∨ cid < 0xFF00) ∧ (s.dp n).drive.sent.find? (fun c => c.cid = cid) = some c ∧ c.qid ≠ 0 ∧ c.opcode = 2 ∧ (s.dp n).drive.step = 0 :=
  ⟨2, 7, 0, 0, noInfo, read1, withDrive .ready (fun p => { p with drive := { p.drive with sent := [read1] } }), by decide⟩

theorem test_meets_DriveCommandsPacketsAndErrors_nvmeCommandTimeout : ∃ (n : Fin 8) (cid : Nat) (c : NvmeCmd) (s : State),
    engineLive s n = true ∧ (s.dp n).drive.state = .ready ∧ (s.dp n).drive.step = 0 ∧ (s.dp n).drive.sent.find? (fun c => c.cid = cid) = some c :=
  ⟨2, 7, read1, withDrive .ready (fun p => { p with drive := { p.drive with sent := [read1] } }), by decide⟩

theorem test_meets_DriveCommandsPacketsAndErrors_nextStep : ∃ (n : Fin 8) (cid : Nat) (s : State),
    engineLive s n = true ∧ (s.dp n).drive.state = .resetting ∧ (s.dp n).drive.step = 2 :=
  ⟨2, 7, withDrive .resetting (fun p => { p with drive := { p.drive with step := 2 } }), by decide⟩

theorem test_meets_DriveCommandsPacketsAndErrors_nvmeAdminTimeout : ∃ (n : Fin 8) (cid fn id host : Nat) (c : NvmeCmd) (s : State),
    ((s.dp n).drive.queued ++ (s.dp n).drive.sent).find? (fun c => c.cid = cid) = some c ∧ c.use = .admin fn id host :=
  ⟨2, 7, 0, 1, 0, { read1 with use := .admin 0 1 0 }, withDrive .ready (fun p => { p with drive := { p.drive with sent := [{ read1 with use := .admin 0 1 0 }] } }), by decide⟩

theorem test_meets_DriveCommandsPacketsAndErrors_driveMemoryRequest : ∃ (n : Fin 8) (a k : Nat) (who : Option Nat) (c : NvmeCmd) (s : State),
    engineLive s n = true ∧ (s.dp n).linkUp = true ∧ inHbm a k = true ∧ bufferCmd s n a k = some c ∧ (engineRead s a k).2.1 = [] :=
  ⟨2, 0x1000, 64, none, read1, withDrive .ready (fun p => { p with drive := { p.drive with sent := [read1] } }), by decide⟩

theorem test_meets_DriveCommandsPacketsAndErrors_writes : ∃ (n : Fin 8) (a : Nat) (d : List Byte) (po : Bool) (who : Option Nat) (c : NvmeCmd) (s : State),
    engineLive s n = true ∧ (s.dp n).linkUp = true ∧ inHbm a d.length = true ∧ bufferCmd s n a d.length = some c :=
  ⟨2, 0x1000, [5, 6], false, none, read1, withDrive .ready (fun p => { p with drive := { p.drive with sent := [read1] } }), by decide⟩

theorem test_meets_DriveCommandsPacketsAndErrors_violation : ∃ (n : Fin 8) (a k : Nat) (s : State),
    engineLive s n = true ∧ (s.dp n).linkUp = true ∧ inHbm a k = true ∧ bufferCmd s n a k = none :=
  ⟨2, 0x9000, 64, withDrive .ready id, by decide⟩

theorem test_meets_DriveCommandsPacketsAndErrors_captiveLinkError : ∃ (n : Fin 8) (st : W32) (s : State),
    engineLive s n = true ∧ (s.dp n).linkUp = true ∧ (s.dp n).drive.state = .ready :=
  ⟨2, 5, withDrive .ready id, by decide⟩

theorem test_meets_HubCommandsSetPortsSlotsAndOwners_hubQuery : ∃ (fn : Fn) (c : Consumed) (s : State),
    startable s fn 9 1 = some c ∧ fn.val = 0 ∧ c.u8 0 = 0 ∧ rd 2 c.req.payload 2 = 0 ∧ dpExists s (c.u8 1) = true :=
  ⟨0, asking 9 1 0 255 [0, 2], asked (withDrive .ready id) 0 (asking 9 1 0 255 [0, 2]), by decide⟩

theorem test_meets_HubCommandsSetPortsSlotsAndOwners_hubPortMode : ∃ (fn : Fn) (c : Consumed) (s : State),
    startable s fn 9 2 = some c ∧ dpExists s (c.u8 0) = true ∧ c.u8 1 = b2n (s.dp (c.u8 0)).passthrough ∧ c.u8 2 ≤ 3 ∧ c.u8 3 = 0 ∧ c.u32 4 = 0 ∧ (s.dp (c.u8 0)).mse = false ∧ (s.dp (c.u8 0)).bme = false :=
  ⟨0, asking 9 2 1 255 [2, 0, 3, 0], asked (withDrive .ready id) 0 (asking 9 2 1 255 [2, 0, 3, 0]), by decide⟩

theorem test_meets_HubCommandsSetPortsSlotsAndOwners_modeChange : ∃ (fn : Fn) (c : Consumed) (s : State),
    startable s fn 9 2 = some c ∧ dpExists s (c.u8 0) = true ∧ c.u8 1 = 1 ∧ c.u8 2 ≤ 3 ∧ c.u8 3 = 0 ∧ c.u32 4 = 0 ∧ (s.dp (c.u8 0)).passthrough = false ∧ slotCode s (c.u8 0) = 0 ∧ driveOwned s (c.u8 0) = false :=
  ⟨0, asking 9 2 1 255 [2, 1, 0, 0], asked (ready.setDp 2 { DPort.init with present := true, drive := { Drive.init with state := .off } }) 0 (asking 9 2 1 255 [2, 1, 0, 0]), by decide⟩

theorem test_meets_HubCommandsSetPortsSlotsAndOwners_hubSlotPowerOn : ∃ (fn : Fn) (c : Consumed) (s : State),
    startable s fn 9 3 = some c ∧ c.u8 1 = 1 ∧ slotRefusal s c = none ∧ (s.dp (c.u8 0)).passthrough = false ∧ (s.dp (c.u8 0)).drive.state = .off ∧ slotCode s (c.u8 0) ≠ 2 :=
  ⟨0, asking 9 3 1 255 [2, 1, 0, 0], asked (ready.setDp 2 { DPort.init with present := true, drive := { Drive.init with state := .off } }) 0 (asking 9 3 1 255 [2, 1, 0, 0]), by decide⟩

theorem test_meets_HubCommandsSetPortsSlotsAndOwners_hubSlotPowerOff : ∃ (fn : Fn) (c : Consumed) (s : State),
    startable s fn 9 3 = some c ∧ (∀ n, n < 8 → (s.dp n).offJob = none) ∧ c.u8 1 = 0 ∧ slotRefusal s c = none ∧ (s.dp (c.u8 0)).passthrough = false :=
  ⟨0, asking 9 3 1 255 [2, 0, 0, 0], asked (withDrive .ready id) 0 (asking 9 3 1 255 [2, 0, 0, 0]), ⟨by decide, by decide, by decide, by decide, by decide⟩⟩

theorem test_meets_HubCommandsSetPortsSlotsAndOwners_hubNsAssign : ∃ (fn : Fn) (c : Consumed) (s : State),
    startable s fn 9 4 = some c ∧ nsAssignRefusal s (c.u8 0) (c.u8 1) (c.u32 4) (c.u8 2 + 256 * c.u8 3) = none ∧ c.u8 1 ≠ 0 :=
  ⟨0, asking 9 4 1 255 [2, 1, 1, 0, 1, 0, 0, 0], asked (let s := withDrive .ready id; s.setPt 0 { s.pt 0 with state := .assigned }) 0 (asking 9 4 1 255 [2, 1, 1, 0, 1, 0, 0, 0]), by decide⟩

theorem test_meets_HubCommandsSetPortsSlotsAndOwners_hubNvmeAdmin : ∃ (fn : Fn) (buf : Option (List Byte)) (c : Consumed) (e : List Byte) (s : State),
    startable s fn 9 5 = some c ∧ e = bytesAt (c.req.payload.drop 0x20) 0 64 ∧ adminRefusal s (c.u8 0) (c.u32 0x10) e = none ∧ rd 1 e 0 % 2 = 0 ∧ (s.dp (c.u8 0)).drive.state = .ready :=
  ⟨0, none, asking 9 5 2 255 ([2] ++ List.replicate 31 0 ++ [6, 0, 0, 0, 1]), _, asked (withDrive .ready id) 0 (asking 9 5 2 255 ([2] ++ List.replicate 31 0 ++ [6, 0, 0, 0, 1])), ⟨by decide, rfl, by decide, by decide, by decide⟩⟩

theorem test_meets_SnapshotsAreTakenAndDrained_huskConfig : ∃ (fn : Fn) (c : Consumed) (g : HuskCfg) (own : List Nat) (s : State),
    startable s fn 10 1 = some c ∧ cfgOf c = some g ∧ own = (s.husk.cfg.map HuskCfg.areas).getD [] ∧ epochActive s = false ∧ (∀ u ∈ g.areas, unitGranted s u = false ∧ (s.hbm.reserved.contains u = true → own.contains u = true)) :=
  ⟨0, asking 10 1 0 255 huskPayload, _, _, asked ready 0 (asking 10 1 0 255 huskPayload), ⟨by decide, rfl, rfl, by decide, by decide⟩⟩

theorem test_meets_SnapshotsAreTakenAndDrained_configReserves : ∃ (c : Consumed) (g : HuskCfg),
    cfgOf c = some g :=
  ⟨asking 10 1 0 255 huskPayload, _, rfl⟩

theorem test_meets_SnapshotsAreTakenAndDrained_huskSnap : ∃ (fn : Fn) (c : Consumed) (q : SnapReq) (s : State),
    startable s fn 10 2 = some c ∧ q = snapReq c ∧ snapRefusal s fn c = none :=
  ⟨0, asking 10 2 2 255 snapPayload1, _, asked huskVol 0 (asking 10 2 2 255 snapPayload1), ⟨by decide, rfl, by decide⟩⟩

theorem test_meets_SnapshotsAreTakenAndDrained_huskQuery : ∃ (fn : Fn) (c : Consumed) (s : State),
    startable s fn 10 3 = some c ∧ fn.val = 0 :=
  ⟨0, asking 10 3 0 255 [], asked ready 0 (asking 10 3 0 255 []), by decide⟩

theorem test_meets_SnapshotsAreTakenAndDrained_queryOfVf : ∃ (fn : Fn) (c : Consumed) (e : Epoch) (s : State),
    startable s fn 10 3 = some c ∧ 0 < fn.val ∧ s.husk.current = some e ∧ bitOf e.partMask (fn.val - 1) = false :=
  ⟨3, asking 10 3 0 255 [], epoch1 .committed 1, asked { ready with husk := { ready.husk with current := some (epoch1 .committed 1) } } 3 (asking 10 3 0 255 []), by decide⟩

theorem test_meets_SnapshotsAreTakenAndDrained_huskFlip : ∃ (p : Fin 16) (s : State),
    inPhase s p 1 = true :=
  ⟨0, snapping 1 .open, by decide⟩

theorem test_meets_SnapshotsAreTakenAndDrained_flipMoves : ∃ (p : Nat) (e : Epoch) (x : Snap) (s : State),
    s.husk.current = some e ∧ s.husk.snap = some x :=
  ⟨0, _, _, snapping 1 .open, ⟨rfl, rfl⟩⟩

theorem test_meets_SnapshotsAreTakenAndDrained_huskPauseEnd : ∃ (p : Fin 16) (s : State),
    inPhase s p 2 = true :=
  ⟨0, snapping 2 .frozen, by decide⟩

theorem test_meets_SnapshotsAreTakenAndDrained_snapWaitTimeout : ∃ (e : Epoch) (x : Snap) (q : SnapPart) (s : State),
    s.husk.current = some e ∧ e.state = .open ∧ s.husk.snap = some x ∧ q ∈ x.parts ∧ q.phase = 0 :=
  ⟨_, _, { part := 0, phase := 0, pausedAt := 0 }, snapping 0 .open, ⟨rfl, by decide, rfl, by decide, by decide⟩⟩

theorem test_meets_SnapshotsAreTakenAndDrained_drainSegmentIssue : ∃ (e : Epoch) (x : Snap) (w : Writer) (i : DrainItem) (s : State),
    s.husk.current = some e ∧ s.husk.snap = some x ∧ tfind s.husk.writers 0 = some w ∧ e.state = .draining ∧ drainReady s x w = true ∧ drainItem s e x = some i :=
  ⟨_, _, _, _, draining1, ⟨rfl, rfl, rfl, by decide, by decide, rfl⟩⟩

theorem test_meets_SnapshotsAreTakenAndDrained_copiesFirst : ∃ (r : Reserve) (c : HuskCfg) (e : Epoch) (x : Snap) (s : State),
    oldestCopy s = some r ∧ s.husk.cfg = some c :=
  ⟨_, _, epoch1 .draining 1, snap1 3, { draining1 with husk := { draining1.husk with reserve := [{ entry := 0, granule := 2, part := 0, copied := true, seq := none, written := false, order := 0 }] } }, ⟨rfl, rfl⟩⟩

theorem test_meets_SnapshotsAreTakenAndDrained_granulesNext : ∃ (g : Nat) (e : Epoch) (x : Snap) (s : State),
    oldestCopy s = none ∧ nextGranule s e = some g :=
  ⟨0x1005, { epoch1 .draining 1 with wholeUnits := [] }, snap1 3, draining1, ⟨by decide, by decide⟩⟩

theorem test_meets_SnapshotsAreTakenAndDrained_imagesLast : ∃ (p o : Nat) (l : List (Nat × Nat)) (e : Epoch) (x : Snap) (s : State),
    oldestCopy s = none ∧ nextGranule s e = none ∧ s.husk.reserve.any (fun r => r.seq.isNone) = false ∧ x.parts.all (fun q => 3 ≤ q.phase) = true ∧ x.images = (p, o) :: l :=
  ⟨0, 0x10000, [], { epoch1 .draining 1 with wholeUnits := [] }, { snap1 3 with images := [(0, 0x10000)] }, { draining1 with husk := { draining1.husk with frozenMarks := [] } }, ⟨by decide, by decide, by decide, by decide, rfl⟩⟩

theorem test_meets_SnapshotsAreTakenAndDrained_snapOutcomeReceive : ∃ (src : Fin 128) (key : W32) (x : Snap) (s : State),
    hasEntry s src = true ∧ s.husk.snap = some x ∧ x.scope = 2 ∧ x.snapKey = key :=
  ⟨10, 7, { snap1 3 with scope := 2, snapKey := 7 }, { draining1 with husk := { draining1.husk with snap := some { snap1 3 with scope := 2, snapKey := 7 } }, link := { draining1.link with routes := [(10, 0x102)] } }, ⟨by decide, rfl, by decide, by decide⟩⟩

theorem test_meets_SnapshotsAreTakenAndDrained_outcomeOfWaiting : ∃ (src : Fin 128) (key : W32) (w : SysWait) (s : State),
    hasEntry s src = true ∧ s.husk.snap = none ∧ s.husk.waiting.find? (fun w => w.snapKey = key && !w.answered) = some w :=
  ⟨10, 7, wait1, waiting1, ⟨by decide, rfl, by decide⟩⟩

theorem test_meets_SnapshotsAreTakenAndDrained_systemWaitTimeout : ∃ (epoch : Nat) (w : SysWait) (s : State),
    s.husk.waiting.find? (fun w => w.epoch = epoch && !w.answered) = some w :=
  ⟨1, wait1, waiting1, by decide⟩

theorem test_meets_VolumesAreMountedFormattedAndCompacted_volumeMount : ∃ (k : Fin 5) (info : MountInfo) (b : Superblock) (s : State),
    s.ready = true ∧ (s.vol k).mounted = false ∧ s.husk.format.any (fun f => f.volume = k.val) = false ∧ namingBlock s k = some b :=
  ⟨0, { members := [], epochs := [] }, block1, withBlock, ⟨by decide, by decide, by decide, withBlock_names⟩⟩

theorem test_meets_VolumesAreMountedFormattedAndCompacted_huskVolumeFormatCreate : ∃ (fn : Fn) (c : Consumed) (old : Volume) (v : Volume) (t : State) (s : State),
    startable s fn 10 4 = some c ∧ c.u8 0 = 0 ∧ formatRefusal s c = none ∧ old = (accept s fn c.id).vol 0 ∧ freshVolume (accept s fn c.id) c false = (v, t) :=
  ⟨0, asking 10 4 2 255 (formatPayload 0), _, _, _, asked (withDrive .ready id) 0 (asking 10 4 2 255 (formatPayload 0)), ⟨by decide, by decide, by decide, rfl, rfl⟩⟩

theorem test_meets_VolumesAreMountedFormattedAndCompacted_huskVolumeFormatGuest : ∃ (fn : Fn) (c : Consumed) (k : Nat) (s : State),
    startable s fn 10 4 = some c ∧ c.u8 0 = 2 ∧ formatRefusal s c = none ∧ [1, 2, 3, 4].find? (fun k => (tfind (accept s fn c.id).husk.volumes k).isNone) = some k :=
  ⟨0, asking 10 4 2 255 (formatPayload 2), 1, asked cleanDrive 0 (asking 10 4 2 255 (formatPayload 2)), ⟨by decide, by decide, by decide, by decide⟩⟩

theorem test_meets_VolumesAreMountedFormattedAndCompacted_huskVolumeFormatReplace : ∃ (fn : Fn) (c : Consumed) (m : Nat) (others : List Member) (x : Member) (l : List Member) (t : State) (s : State),
    startable s fn 10 4 = some c ∧ c.u8 0 = 1 ∧ formatRefusal s c = none ∧ m = c.u8 3 ∧ t = accept s fn c.id ∧ others = ((t.vol 0).members.filter (fun x => x.1 ≠ m)).map (fun x => x.2) ∧ formatMembers t c ((others.map (fun x => x.epochHigh)).foldl max 0) = x :: l :=
  ⟨0, asking 10 4 2 255 (formatPayload 1), _, _, _, _, _, asked oneMember 0 (asking 10 4 2 255 (formatPayload 1)), ⟨by decide, by decide, by decide, rfl, rfl, rfl, rfl⟩⟩

theorem test_meets_VolumesAreMountedFormattedAndCompacted_huskVolumeFormatRelease : ∃ (fn : Fn) (c : Consumed) (k : Nat) (v : Volume) (t : State) (s : State),
    startable s fn 10 4 = some c ∧ c.u8 0 = 3 ∧ formatRefusal s c = none ∧ t = accept s fn c.id ∧ formatVolume t c = some k ∧ v = t.vol k :=
  ⟨0, asking 10 4 2 255 (formatPayload 3), 0, _, _, asked oneMember 0 (asking 10 4 2 255 (formatPayload 3)), ⟨by decide, by decide, by decide, rfl, by decide, rfl⟩⟩

theorem test_meets_VolumesAreMountedFormattedAndCompacted_huskCompact : ∃ (fn : Fn) (c : Consumed) (k : Nat) (x : Compact) (t : State) (s : State),
    t = note s (compactOn (compactFuel s) s) ∧ startable t fn 10 6 = some c ∧ c.u8 0 ≤ 1 ∧ rd 7 c.req.payload 1 = 0 ∧ (1 ≤ c.u32 0x10 ∧ c.u32 0x10 ≤ 4096) ∧ compactVolume t c = some k ∧ (t.husk.restore = none ∧ t.husk.format = none ∧ t.husk.compact = none) ∧ x = { fn := fn.val, cmdId := c.id, volume := k, left := oldSegments (t.vol k) (c.u32 0x10), ext := 0, stage := 0, freed := 0, relocated := 0 } :=
  ⟨0, asking 10 6 2 255 ([0] ++ le 7 0 ++ le 8 0 ++ le 4 1), 0, _, _, asked huskVol 0 (asking 10 6 2 255 ([0] ++ le 7 0 ++ le 8 0 ++ le 4 1)), ⟨rfl, by decide, by decide, by decide, by decide, by decide, by decide, rfl⟩⟩

theorem test_meets_VolumesAreMountedFormattedAndCompacted_compactStops : ∃ (x : Compact) (s : State),
    s.husk.compact = some x ∧ compacting s = false ∧ x.stage = 0 ∧ x.left = [] :=
  ⟨_, { huskVol with husk := { huskVol.husk with compact := some { fn := 0, cmdId := 1, volume := 0, left := [], ext := 0, stage := 0, freed := 2, relocated := 5 } } }, ⟨rfl, by decide, by decide, by decide⟩⟩

theorem test_meets_RestoresAndBuddiesReadEpochsBack_huskRestore : ∃ (fn : Fn) (c : Consumed) (e : Epoch) (r : Restore) (u : State) (s : State),
    startable s fn 10 5 = some c ∧ restoreRefusal s fn c = none ∧ c.u8 0 = 0 ∧ chosenEpoch s 0 (wishOf c) = some e ∧ r = { fn := fn.val, cmdId := c.id, jobId := c.req.jobId, buddy := none, allowPoison := bitOf (c.u8 1) 0, mask := c.u16 2, volumeId := (s.vol 0).id, epoch := none, deltas := 0, startTime := s.time, lostState := [], silent := false } ∧ u = { accept s fn c.id with husk := { (accept s fn c.id).husk with restore := some r } } :=
  ⟨0, asking 10 5 2 255 restorePayload1, epoch1 .committed 1, _, _, asked huskVol 0 (asking 10 5 2 255 restorePayload1), ⟨by decide, by decide, by decide, by decide, rfl, rfl⟩⟩

theorem test_meets_RestoresAndBuddiesReadEpochsBack_fromBuddy : ∃ (fn : Fn) (c : Consumed) (r : Restore) (u : State) (s : State),
    startable s fn 10 5 = some c ∧ restoreRefusal s fn c = none ∧ c.u8 0 = 1 ∧ r = { fn := fn.val, cmdId := c.id, jobId := c.req.jobId, buddy := some (c.u8 4), allowPoison := bitOf (c.u8 1) 0, mask := c.u16 2, volumeId := BitVec.ofNat 64 (c.u64 0x18), epoch := none, deltas := 0, startTime := s.time, lostState := [], silent := false } ∧ u = { accept s fn c.id with husk := { (accept s fn c.id).husk with restore := some r } } :=
  ⟨0, asking 10 5 2 255 buddyPayload1, _, _, asked { huskVol with link := (linkUp id).link } 0 (asking 10 5 2 255 buddyPayload1), ⟨by decide, by decide, by decide, rfl, rfl⟩⟩

theorem test_meets_RestoresAndBuddiesReadEpochsBack_restoreResume : ∃ (r : Restore) (d : Reader) (t : State) (s : State),
    s.husk.progress = some (r, d) ∧ s.ready = true ∧ s.husk.restore = none ∧ r.buddy = none ∧ volumeUsable s 0 = true ∧ t = { s with husk := { s.husk with progress := none, restore := some r, readers := tset s.husk.readers 0 { d with rebuilding := false, awaited := 0, acc := [], broken := false } } } :=
  ⟨_, _, _, { huskVol with husk := { huskVol.husk with progress := some (restore1 none, reader0 0 (epoch1 .committed 1) [] []) } }, ⟨rfl, by decide, by decide, by decide, by decide, rfl⟩⟩

theorem test_meets_RestoresAndBuddiesReadEpochsBack_resumesAtTheBuddy : ∃ (r : Restore) (d : Reader) (b : Nat) (s : State),
    s.husk.progress = some (r, d) ∧ s.ready = true ∧ s.husk.restore = none ∧ r.buddy = some b :=
  ⟨_, _, 10, { huskVol with husk := { huskVol.husk with progress := some (restore1 (some 10), reader0 0 (epoch1 .committed 1) [] []) } }, ⟨rfl, by decide, by decide, by decide⟩⟩

theorem test_meets_RestoresAndBuddiesReadEpochsBack_buddyOpen : ∃ (src : Fin 128) (volume epoch n k : Nat) (t : State) (s : State),
    guestOf s volume = some k ∧ (s.vol k).sourceLink = src.val ∧ volumeUsable s k = true ∧ t = beginWriter (dropWriter s k) k epoch (s.husk.cfg.any (fun c => c.parity)) 0 :=
  ⟨10, 5, 3, 40, 1, _, guestVol, ⟨by decide, by decide, by decide, rfl⟩⟩

theorem test_meets_RestoresAndBuddiesReadEpochsBack_opensNothing : ∃ (src : Fin 128) (volume epoch n : Nat) (s : State),
    guestOf s volume = none :=
  ⟨10, 5, 3, 40, huskOn, by decide⟩

theorem test_meets_RestoresAndBuddiesReadEpochsBack_buddyCommit : ∃ (src : Fin 128) (volume epoch k : Nat) (w : Writer) (s : State),
    guestWriter s src volume epoch = some (k, w) ∧ w.source.isSome = true :=
  ⟨10, 5, 3, 1, writer1, guestWriting, ⟨by decide, by decide⟩⟩

theorem test_meets_RestoresAndBuddiesReadEpochsBack_commitsTooFew : ∃ (src : Fin 128) (volume epoch n k : Nat) (w : Writer) (s : State),
    guestWriter s src volume epoch = some (k, w) ∧ n ≠ w.next + 1 :=
  ⟨10, 5, 3, 9, 1, writer1, guestWriting, ⟨by decide, by decide⟩⟩

theorem test_meets_RestoresAndBuddiesReadEpochsBack_buddyAck : ∃ (src : Fin 128) (step : Fin 2) (status : Nat) (x : Snap) (e : Epoch) (c : HuskCfg) (s : State),
    s.husk.snap = some x ∧ s.husk.current = some e ∧ s.husk.cfg = some c ∧ c.buddy = some src.val ∧ x.buddy = 1 + 2 * step.val :=
  ⟨10, 0, 0, _, _, _, buddying 1, ⟨rfl, rfl, rfl, by decide, by decide⟩⟩

theorem test_meets_RestoresAndBuddiesReadEpochsBack_buddyAckTimeout : ∃ (x : Snap) (s : State),
    s.husk.snap = some x ∧ (x.buddy = 1 ∨ x.buddy = 3) :=
  ⟨_, buddying 3, ⟨rfl, by decide⟩⟩

theorem test_meets_RestoresAndBuddiesReadEpochsBack_buddyFetch : ∃ (src : Fin 128) (volume epoch key mask k : Nat) (sysOnly : Bool) (e : Epoch) (b : List Byte) (t : State) (s : State),
    guestOf s volume = some k ∧ volumeUsable s k = true ∧ tfind s.husk.fetches k = none ∧ chosenEpoch s k { mask := mask, epoch := epoch, key := key, system := sysOnly } = some e ∧ b = commitBytes true e ∧ t = { s with husk := { s.husk with readers := tset s.husk.readers k (reader0 k e (planOf (s.vol k) e mask) ((chainEpochs (s.vol k) e mask).map (fun x => x.number))), fetches := tset s.husk.fetches k { dst := src.val, sent := 0 } } } :=
  ⟨10, 5, 0, 0, 1, 1, false, _, _, _, guestVol, ⟨by decide, by decide, by decide, rfl, rfl, rfl⟩⟩

theorem test_meets_RestoresAndBuddiesReadEpochsBack_fetchesNothing : ∃ (src : Fin 128) (volume epoch key mask k : Nat) (sysOnly : Bool) (s : State),
    guestOf s volume = some k ∧ volumeUsable s k = true ∧ tfind s.husk.fetches k = none ∧ chosenEpoch s k { mask := mask, epoch := epoch, key := key, system := sysOnly } = none :=
  ⟨10, 5, 9, 0, 1, 1, false, guestVol, ⟨by decide, by decide, by decide, by decide⟩⟩

theorem test_meets_RestoresAndBuddiesReadEpochsBack_buddyFetchDone : ∃ (src : Fin 128) (sent status : Nat) (r : Restore) (e : Epoch) (got : Nat) (s : State),
    s.husk.restore = some r ∧ r.buddy = some src.val ∧ r.epoch = some e ∧ got = ((tfind s.husk.readers 0).map (fun d => d.records)).getD 0 :=
  ⟨10, 1, 0, _, _, _, { huskVol with husk := { huskVol.husk with restore := some { restore1 (some 10) with epoch := some (epoch1 .committed 1) } } }, ⟨rfl, by decide, rfl, rfl⟩⟩

theorem test_meets_RestoresAndBuddiesReadEpochsBack_answersRefusal : ∃ (src : Fin 128) (epoch sent status : Nat) (r : Restore) (s : State),
    s.husk.restore = some r ∧ r.buddy = some src.val ∧ r.epoch = none ∧ r.silent = false ∧ status ≠ 0 :=
  ⟨10, 0, 0, 0x0A0A, restore1 (some 10), { huskVol with husk := { huskVol.husk with restore := some (restore1 (some 10)) } }, by decide⟩

theorem test_meets_RestoresAndBuddiesReadEpochsBack_buddyFetchTimeout : ∃ (r : Restore) (b : Nat) (s : State),
    s.husk.restore = some r ∧ r.buddy = some b :=
  ⟨_, 10, { huskVol with husk := { huskVol.husk with restore := some (restore1 (some 10)) } }, ⟨rfl, by decide⟩⟩

theorem test_meets_PowerStatesAreEnteredAndLeft_powerStateSleep : ∃ (fn : Fn) (c : Consumed) (s : State),
    s.pow.entering = none ∧ startable s fn 11 2 = some c ∧ c.u8 0 = 2 ∧ stateRefusal s c = none :=
  ⟨0, asking 11 2 2 255 ([2, 0] ++ le 2 0 ++ le 4 5), asked ready 0 (asking 11 2 2 255 ([2, 0] ++ le 2 0 ++ le 4 5)), by decide⟩

theorem test_meets_PowerStatesAreEnteredAndLeft_powerStateDeep : ∃ (fn : Fn) (c : Consumed) (s : State),
    s.pow.entering = none ∧ startable s fn 11 2 = some c ∧ c.u8 0 = 3 ∧ stateRefusal s c = none :=
  ⟨0, asking 11 2 2 255 ([3, 0] ++ le 2 0 ++ le 4 5), asked ready 0 (asking 11 2 2 255 ([3, 0] ++ le 2 0 ++ le 4 5)), by decide⟩

theorem test_meets_PowerStatesAreEnteredAndLeft_powerStateOff : ∃ (fn : Fn) (c : Consumed) (s : State),
    s.pow.entering = none ∧ startable s fn 11 2 = some c ∧ c.u8 0 = 4 ∧ stateRefusal s c = none :=
  ⟨0, asking 11 2 2 255 ([4, 0] ++ le 2 0 ++ le 4 0), asked ready 0 (asking 11 2 2 255 ([4, 0] ++ le 2 0 ++ le 4 0)), by decide⟩

theorem test_meets_PowerStatesAreEnteredAndLeft_entryEnds : ∃ (fn : Fn) (e : Entering) (s : State),
    s.pow.entering = some e ∧ e.fn = fn.val ∧ e.target = .sleep ∧ drivesBusy s = false :=
  ⟨0, { fn := 0, id := 1, target := .sleep, old := .run, drives := 0 }, { ready with pow := { ready.pow with entering := some { fn := 0, id := 1, target := .sleep, old := .run, drives := 0 } } }, by decide⟩

theorem test_meets_PowerStatesAreEnteredAndLeft_sleeps : ∃ (e : Entering) (t : State) (s : State),
    e.target = .sleep ∧ t = finishOk { s with pow := { s.pow with entering := none } } e.fn e.id (le 1 e.old.code ++ le 3 0 ++ le 4 e.drives) ∧ (asleep (idlePorts t)).pow.wakePending = none :=
  ⟨{ fn := 0, id := 1, target := .sleep, old := .run, drives := 0 }, _, ready, ⟨by decide, rfl, by set_option maxRecDepth 20000 in decide⟩⟩

theorem test_meets_PowerStatesAreEnteredAndLeft_staysOff : ∃ (e : Entering) (t : State) (s : State),
    e.target = .off ∧ t = passthroughOff (idlePorts (finishOk { s with pow := { s.pow with entering := none } } e.fn e.id (le 1 e.old.code ++ le 3 0 ++ le 4 e.drives))) :=
  ⟨{ fn := 0, id := 1, target := .off, old := .run, drives := 0 }, _, ready, ⟨by decide, rfl⟩⟩

theorem test_meets_PowerStatesAreEnteredAndLeft_pmeTurnOff : ∃ (t : State) (s : State),
    s.pow.state = .sleep ∧ s.pow.deepWait = true ∧ t = passthroughOff s :=
  ⟨_, asleep1, ⟨by decide, by decide, rfl⟩⟩

theorem test_meets_PowerStatesAreEnteredAndLeft_pmeWaitTimeout : ∃ (s : State),
    s.pow.state = .sleep ∧ s.pow.deepWait = true :=
  ⟨asleep1, by decide⟩

theorem test_meets_PowerStatesAreEnteredAndLeft_offRailRemoval : ∃ (s : State),
    s.pow.offWait = true :=
  ⟨{ ready with pow := { ready.pow with offWait := true } }, by decide⟩

theorem test_meets_PowerStatesAreEnteredAndLeft_hostAccessWake : ∃ (q : BarReq) (s : State),
    s.pow.state = .sleep ∧ q.fn < 17 :=
  ⟨{ fn := 0, off := 0, bytes := 4, write := false, value := 0 }, asleep1, by decide⟩

theorem test_meets_PowerStatesAreEnteredAndLeft_perstWake : ∃ (s : State),
    s.pow.state = .deep ∧ (s.feed 0).state = .on :=
  ⟨{ asleep1 with pow := { asleep1.pow with state := .deep } }, by decide⟩

theorem test_meets_PowerStatesAreEnteredAndLeft_wakeTimerExpiry : ∃ (s : State),
    s.pow.state = .sleep ∧ 0 < s.pow.wakeAfter :=
  ⟨{ asleep1 with pow := { asleep1.pow with wakeAfter := 5 } }, by decide⟩

theorem test_meets_PowerStatesAreEnteredAndLeft_timerInDeep : ∃ (s : State),
    s.pow.state = .deep ∧ (s.feed 0).state = .on ∧ 0 < s.pow.wakeAfter :=
  ⟨{ asleep1 with pow := { asleep1.pow with state := .deep, wakeAfter := 5 } }, by decide⟩

theorem test_meets_PowerStatesAreEnteredAndLeft_timerDuringEntry : ∃ (e : Entering) (s : State),
    s.pow.state = .run ∧ s.pow.entering = some e ∧ 0 < s.pow.wakeAfter :=
  ⟨{ fn := 0, id := 1, target := .sleep, old := .run, drives := 0 }, { ready with pow := { ready.pow with wakeAfter := 5, entering := some { fn := 0, id := 1, target := .sleep, old := .run, drives := 0 } } }, by decide⟩

theorem test_meets_PowerStatesAreEnteredAndLeft_companionFaultWake : ∃ (s : State),
    s.pow.state = .sleep ∧ (s.comp.status &&& s.comp.irqMask &&& 0x3F) ≠ 0 :=
  ⟨{ asleep1 with comp := { asleep1.comp with status := 1, irqMask := 1 } }, by decide⟩

theorem test_meets_CeilingsRegionsAndEnergy_fclkCeilingEvaluation : ∃ (pFab mean : Nat) (s : State),
    pcLive s = true :=
  ⟨1000, 2000, ready, by decide⟩

theorem test_meets_CeilingsRegionsAndEnergy_thermalCeilingUpdate : ∃ (die hbm : Int) (s : State),
    pcLive s = true :=
  ⟨800, 700, ready, by decide⟩

theorem test_meets_CeilingsRegionsAndEnergy_thermalSteps : ∃ (hot cool t : Int) (ceiling since : Nat),
    cool < hot :=
  ⟨800, 776, 776, 1, 9, by decide⟩

theorem test_meets_CeilingsRegionsAndEnergy_powerQuery : ∃ (fn : Fn) (c : Consumed) (s : State),
    startable s fn 11 1 = some c :=
  ⟨0, asking 11 1 0 255 [], asked ready 0 (asking 11 1 0 255 []), by decide⟩

theorem test_meets_CeilingsRegionsAndEnergy_powerCap : ∃ (fn : Fn) (c : Consumed) (s : State),
    startable s fn 11 3 = some c ∧ (400 ≤ c.u16 0 ∧ c.u16 0 ≤ 1600) ∧ c.u8 2 ∈ [4, 5, 6, 8, 12] :=
  ⟨0, asking 11 3 0 255 (le 2 900 ++ [6]), asked ready 0 (asking 11 3 0 255 (le 2 900 ++ [6])), by decide⟩

theorem test_meets_CeilingsRegionsAndEnergy_capRefused : ∃ (fn : Fn) (c : Consumed) (s : State),
    startable s fn 11 3 = some c ∧ (c.u16 0 < 400 ∨ 1600 < c.u16 0) :=
  ⟨0, asking 11 3 0 255 (le 2 399 ++ [6]), asked ready 0 (asking 11 3 0 255 (le 2 399 ++ [6])), by decide⟩

theorem test_meets_CeilingsRegionsAndEnergy_regionClockUngate : ∃ (rg : Fin 16) (s : State),
    s.clk.run = true ∧ regionLive s rg = true ∧ (s.rgn rg).clocked = false ∧ clockNeeded s rg = true :=
  ⟨3, { ready with rst := { ready.rst with fabOut := List.range 16, zeroing := [3] } }, by decide⟩

theorem test_meets_CeilingsRegionsAndEnergy_powerRegionGateOn : ∃ (fn : Fn) (c : Consumed) (all ps rgs : List Nat) (t : State) (s : State),
    startable s fn 11 5 = some c ∧ c.u8 2 = 1 ∧ gateRefusal s c = none ∧ all = coveredParts s (c.u16 0) ∧ ps = all.filter (fun p => !(s.pt p).powered) ∧ rgs = bitsSet (c.u16 0) 16 ∧ t = ps.foldl (fun t p => t.setPt p { t.pt p with powered := true }) (powerRegions (forceEpoch s all) rgs) :=
  ⟨0, asking 11 5 0 255 (le 2 6 ++ [1, 0] ++ le 4 0), _, _, _, _, asked ready 0 (asking 11 5 0 255 (le 2 6 ++ [1, 0] ++ le 4 0)), ⟨by decide, by decide, by decide, rfl, rfl, rfl, rfl⟩⟩

theorem test_meets_CeilingsRegionsAndEnergy_powerRegionGateOff : ∃ (fn : Fn) (c : Consumed) (all ps rgs : List Nat) (j : GateJob) (t : State) (s : State),
    s.pow.gateJob = none ∧ startable s fn 11 5 = some c ∧ c.u8 2 = 0 ∧ gateRefusal s c = none ∧ all = coveredParts s (c.u16 0) ∧ ps = all.filter (fun p => (s.pt p).powered) ∧ rgs = (bitsSet (c.u16 0) 16).filter (fun g => (s.regionPart g).isNone && !s.pow.gated.contains g) ∧ j = { fn := fn, id := c.id, regions := rgs, parts := ps } ∧ t = ps.foldl (fun t p => powerDrain t p 0 0) (forceEpoch (begun s fn c.id) all) :=
  ⟨0, asking 11 5 0 255 (le 2 6 ++ [0, 0] ++ le 4 0), _, _, _, _, _, asked ready 0 (asking 11 5 0 255 (le 2 6 ++ [0, 0] ++ le 4 0)), ⟨by decide, by decide, by decide, by decide, rfl, rfl, rfl, rfl, rfl⟩⟩

theorem test_meets_CeilingsRegionsAndEnergy_gateGoesOn : ∃ (fn : Fn) (j : GateJob) (s : State),
    s.pow.gateJob = some j ∧ j.fn = fn.val ∧ j.parts.all (fun p => (s.pt p).fence.state ≠ .draining) = true :=
  ⟨0, { fn := 0, id := 1, regions := [3], parts := [] }, { ready with pow := { ready.pow with gateJob := some { fn := 0, id := 1, regions := [3], parts := [] } } }, by decide⟩

theorem test_meets_CeilingsRegionsAndEnergy_energyAttribution : ∃ (slice : EnergySlice) (s : State),
    pcLive s = true :=
  ⟨{ regions := [], segments := [] }, ready, by decide⟩

theorem test_meets_CeilingsRegionsAndEnergy_powerEnergy : ∃ (fn : Fn) (c : Consumed) (p : Nat) (s : State),
    startable s fn 11 6 = some c ∧ (c.u8 0 = 0 ∧ c.u8 1 ≤ 1 ∧ rd 6 c.req.payload 2 = 0) ∧ p = (if fn.val = 0 then c.req.partition else fn.val - 1) :=
  ⟨3, asking 11 6 0 2 ([0, 0] ++ le 6 0 ++ le 8 0), 2, asked ready 3 (asking 11 6 0 2 ([0, 0] ++ le 6 0 ++ le 8 0)), by decide⟩

theorem test_meets_CeilingsRegionsAndEnergy_jobTableCopied : ∃ (fn : Fn) (c : Consumed) (p : Nat) (s : State),
    startable s fn 11 6 = some c ∧ (c.u8 0 = 1 ∧ c.u8 1 ≤ 1 ∧ rd 6 c.req.payload 2 = 0) ∧ p = (if fn.val = 0 then c.req.partition else fn.val - 1) ∧ p ≠ 255 ∧ (s.fn fn).bme = true :=
  ⟨3, asking 11 6 0 2 ([1, 1] ++ le 6 0 ++ le 8 0), 2, asked ready 3 (asking 11 6 0 2 ([1, 1] ++ le 6 0 ++ le 8 0)), by decide⟩

theorem test_meets_RackBudgetAndSteward_rackBudgetTake : ∃ (s : State),
    pcLive s = true ∧ s.comp.running = true ∧ s.comp.status.getLsbD 9 = true ∧ s.comp.updating = false :=
  ⟨{ ready with comp := { ready.comp with status := 0x200 } }, by decide⟩

theorem test_meets_RackBudgetAndSteward_budgetReceive : ∃ (src : Fin 128) (value stamp : Nat) (s : State),
    pcLive s = true ∧ s.comp.updating = false :=
  ⟨5, 100, 9, ready, by decide⟩

theorem test_meets_RackBudgetAndSteward_demandTransmit : ∃ (pFab mean other : Nat) (s : State),
    pcLive s = true ∧ s.comp.updating = false ∧ other = slowestCeiling { s with pow := { s.pow with budgetFit := 0 } } :=
  ⟨1000, 2000, _, ready, ⟨by decide, by decide, rfl⟩⟩

theorem test_meets_RackBudgetAndSteward_demandReceive : ∃ (d : Demand) (l : Nat) (s : State),
    pcLive s = true ∧ s.link.linkId = some l ∧ d.src < 128 :=
  ⟨demand1, 9, { ready with link := { ready.link with linkId := some 9 } }, by decide⟩

theorem test_meets_RackBudgetAndSteward_grantCompute : ∃ (ms : Tab Heard) (far : Nat) (g : Bool × List (Nat × Nat)) (t : State) (s : State),
    pcLive s = true ∧ t = noteSteward s ∧ isStewardNow t = true ∧ ms = heardNow t ∧ far = (t.pow.heard.filter (fun h => h.2.demand.leaving && h.2.demand.domain = t.pow.domain && !ms.any (fun m => m.1 = h.1))).length ∧ g = grantsOf (10 * t.pow.budget.value) t.pow.expected far (ms.map (fun m => (m.1, m.2.demand))) :=
  ⟨_, _, _, _, { ready with link := { ready.link with linkId := some 9 }, pow := { ready.pow with heard := [(9, { at_ := 0, demand := { demand1 with src := 9 } })] } }, ⟨by decide, rfl, by decide, rfl, rfl, rfl⟩⟩

theorem test_meets_RackBudgetAndSteward_short : ∃ (budget expected far fixed : Nat) (rest : List (Nat × Demand)) (ms : List (Nat × Demand)),
    0 < budget ∧ rest = ms.filter (fun m => !m.2.hold && !m.2.leaving) ∧ fixed = 70 * (ms.filter (fun m => m.2.leaving)).length + total ((ms.filter (fun m => m.2.hold && !m.2.leaving)).map (fun m => (m.1, m.2.demand))) ∧ budget < fixed + (70 * far + 1600 * (expected - ms.length - far)) + 400 * rest.length :=
  ⟨300, 0, 0, _, _, [(9, demand1)], ⟨by decide, rfl, rfl, by decide⟩⟩

theorem test_meets_RackBudgetAndSteward_grantReceive : ∃ (src : Fin 128) (g : Grant) (l : Nat) (s : State),
    pcLive s = true ∧ s.link.linkId = some l ∧ src.val ≠ l ∧ g.domain = s.pow.domain ∧ s.comp.updating = false :=
  ⟨5, { domain := 0, short := false, watts := 900, round := 3, budget := 0, heard := 2 }, 9, { ready with link := { ready.link with linkId := some 9 } }, by decide⟩

theorem test_meets_RackBudgetAndSteward_grantRaiseApply : ∃ (w r : Nat) (s : State),
    pcLive s = true ∧ s.pow.raise = some (w, r) ∧ s.comp.fastcap = false ∧ s.comp.updating = false :=
  ⟨1000, 4, { ready with pow := { ready.pow with raise := some (1000, 4) } }, by decide⟩

theorem test_meets_RackBudgetAndSteward_grantSilenceTimeout : ∃ (s : State),
    pcLive s = true ∧ s.comp.updating = false ∧ s.pow.floorMode = false :=
  ⟨{ ready with pow := { ready.pow with floorMode := false } }, by decide⟩

theorem test_meets_RackBudgetAndSteward_powerBudgetConfig : ∃ (fn : Fn) (c : Consumed) (f : Nat) (u : State) (s : State),
    startable s fn 11 4 = some c ∧ budgetConfigBad c = false ∧ s.comp.running = true ∧ s.comp.updating = false ∧ f = c.u8 0 ∧ u = { s with pow := { s.pow with eligible := bitOf f 0, domain := c.u8 1, expected := c.u8 2, fastcapDiv := c.u8 3 }, comp := { s.comp with floorShare := if bitOf f 2 then c.u16 6 else s.comp.floorShare, fastcapLimit := if bitOf f 3 then c.u16 8 else s.comp.fastcapLimit } } :=
  ⟨0, asking 11 4 0 255 ([1, 0, 2, 6] ++ le 2 0 ++ le 2 0 ++ le 2 0), _, _, asked ready 0 (asking 11 4 0 255 ([1, 0, 2, 6] ++ le 2 0 ++ le 2 0 ++ le 2 0)), ⟨by decide, by decide, by decide, by decide, rfl, rfl⟩⟩

theorem test_meets_EnergyCountersBalance_balance : ∃ (slice : EnergySlice) (s : State),
    pcLive s = true ∧ s.pow.module = s.pow.device + (List.range 16).foldl (fun a p => a + tget 0 s.pow.parts p) 0 :=
  ⟨{ regions := [(0, 5)], segments := [] }, ready, by decide⟩

theorem test_meets_TraceSessionsAndGrants_traceConfig : ∃ (fn : Fn) (c : Consumed) (x : Session) (old : Session) (t : State) (s : State),
    startable s fn 12 1 = some c ∧ sessionOf fn c = some x ∧ configRefusal s fn x = none ∧ old = s.ses fn ∧ t = releaseSink s old :=
  ⟨0, asking 12 1 0 255 tracePayload, _, _, _, asked ready 0 (asking 12 1 0 255 tracePayload), ⟨by decide, rfl, by decide, rfl, rfl⟩⟩

theorem test_meets_TraceSessionsAndGrants_vfHasNoUnits : ∃ (fn : Nat) (x : Session) (s : State),
    0 < fn ∧ x.sink = 0 :=
  ⟨3, { Session.init with units := 1 }, ready, by decide⟩

theorem test_meets_TraceSessionsAndGrants_traceStart : ∃ (fn : Fn) (c : Consumed) (x : Session) (s : State),
    startable s fn 12 2 = some c ∧ x = s.ses fn ∧ (x.state = .configured ∨ x.state = .full) :=
  ⟨0, asking 12 2 0 255 [], _, asked (tracing .configured) 0 (asking 12 2 0 255 []), ⟨by decide, rfl, by decide⟩⟩

theorem test_meets_TraceSessionsAndGrants_startRefused : ∃ (fn : Fn) (c : Consumed) (s : State),
    startable s fn 12 2 = some c ∧ ((s.ses fn).state = .unconfigured ∨ (s.ses fn).state = .running ∨ (s.ses fn).state = .sinkLost) :=
  ⟨0, asking 12 2 0 255 [], asked (tracing .running) 0 (asking 12 2 0 255 []), by decide⟩

theorem test_meets_TraceSessionsAndGrants_traceStop : ∃ (fn : Fn) (c : Consumed) (x : Session) (s : State),
    startable s fn 12 3 = some c ∧ c.u8 0 ≤ 1 ∧ x = s.ses fn ∧ (x.state = .running ∨ x.state = .full) :=
  ⟨0, asking 12 3 0 255 [0], _, asked (tracing .running) 0 (asking 12 3 0 255 [0]), ⟨by decide, by decide, rfl, by decide⟩⟩

theorem test_meets_TraceSessionsAndGrants_stopEnds : ∃ (fn f id : Nat) (t : State) (s : State),
    (s.ses fn).stopping = some (f, id, false) ∧ t = finishOk (s.setSes fn { s.ses fn with stopping := none }) f id (le 8 (s.ses fn).written.toNat ++ le 8 (s.ses fn).lost.toNat) :=
  ⟨0, 0, 1, _, { tracing .running with trace := { (tracing .running).trace with sessions := [(0, { traceSes .running with stopping := some (0, 1, false) })] } }, ⟨by decide, rfl⟩⟩

theorem test_meets_TraceSessionsAndGrants_stopsNothing : ∃ (fn : Fn) (c : Consumed) (s : State),
    startable s fn 12 3 = some c ∧ c.u8 0 = 0 ∧ ((s.ses fn).state = .configured ∨ (s.ses fn).state = .unconfigured ∨ (s.ses fn).state = .sinkLost) :=
  ⟨0, asking 12 3 0 255 [0], asked (tracing .configured) 0 (asking 12 3 0 255 [0]), by decide⟩

theorem test_meets_TraceSessionsAndGrants_traceAuthorise : ∃ (fn : Fn) (c : Consumed) (id : Nat) (g : TraceGrant) (s : State),
    startable s fn 12 4 = some c ∧ (c.u8 0 ≤ 16 ∧ c.u8 1 = 0 ∧ c.u16 4 ≤ 0xFF ∧ c.u16 6 = 0 ∧ 1 ≤ c.u32 8 ∧ c.u32 8 ≤ 86400) ∧ (List.range 32).find? (fun i => (tfind s.trace.grants i).isNone) = some id ∧ g = { requester := c.u8 0, scope := c.u16 2, sources := c.u16 4, expiry := s.time + BitVec.ofNat 64 (1000000000 * c.u32 8) } :=
  ⟨0, asking 12 4 0 255 ([3, 0] ++ le 2 1 ++ le 2 1 ++ le 2 0 ++ le 4 60), 0, _, asked ready 0 (asking 12 4 0 255 ([3, 0] ++ le 2 1 ++ le 2 1 ++ le 2 0 ++ le 4 60)), ⟨by decide, by decide, by decide, rfl⟩⟩

theorem test_meets_TraceSessionsAndGrants_grantsFull : ∃ (fn : Fn) (c : Consumed) (s : State),
    startable s fn 12 4 = some c ∧ (c.u8 0 ≤ 16 ∧ c.u8 1 = 0 ∧ c.u16 4 ≤ 0xFF ∧ c.u16 6 = 0 ∧ 1 ≤ c.u32 8 ∧ c.u32 8 ≤ 86400) ∧ (∀ i < 32, (tfind s.trace.grants i).isSome = true) :=
  ⟨0, asking 12 4 0 255 ([3, 0] ++ le 2 1 ++ le 2 1 ++ le 2 0 ++ le 4 60), asked fullGrants 0 (asking 12 4 0 255 ([3, 0] ++ le 2 1 ++ le 2 1 ++ le 2 0 ++ le 4 60)), ⟨by decide, by decide, grants32⟩⟩

theorem test_meets_TraceSessionsAndGrants_traceRevoke : ∃ (fn : Fn) (c : Consumed) (g : TraceGrant) (s : State),
    startable s fn 12 5 = some c ∧ tfind s.trace.grants (c.u8 0) = some g :=
  ⟨0, asking 12 5 0 255 [4], grant1, asked { ready with trace := { ready.trace with grants := [(4, grant1)] } } 0 (asking 12 5 0 255 [4]), by decide⟩

theorem test_meets_TraceSessionsAndGrants_traceGrantExpiry : ∃ (id : Fin 32) (g : TraceGrant) (s : State),
    tfind s.trace.grants id = some g ∧ g.expiry ≤ s.time :=
  ⟨4, grant1, { ready with time := 9, trace := { ready.trace with grants := [(4, grant1)] } }, by decide⟩

theorem test_meets_TraceSessionsAndGrants_branchBufferTimeout : ∃ (fn : Fn) (p : Fin 16) (l : List Bool) (first last : Nat) (s : State),
    (s.ses fn).state = .running ∧ (s.ses fn).stopping = none ∧ tfind (s.ses fn).branches p = some (l, first, last) ∧ first + 4096 ≤ s.trace.lc :=
  ⟨0, 2, [true], 0, 5, { tracing .running with trace := { (tracing .running).trace with lc := 5000, sessions := [(0, { traceSes .running with branches := [(2, [true], 0, 5)] })] } }, by decide⟩

theorem test_meets_TraceSessionsAndGrants_traceOverflowRecovery : ∃ (fn : Fn) (a b : Nat) (s : State),
    (s.ses fn).dropping = some (a, b) ∧ (s.ses fn).buffer.length ≤ 61440 ∧ (s.ses fn).state = .running :=
  ⟨0, 10, 20, { tracing .running with trace := { (tracing .running).trace with sessions := [(0, { traceSes .running with dropping := some (10, 20) })] } }, by decide⟩

theorem test_meets_FaultsAreReadClearedAndInjected_faultReadLog : ∃ (fn : Fn) (c : Consumed) (l : List Rec) (next : W32) (s : State),
    startable s fn 14 1 = some c ∧ (c.u8 0 = 0 ∧ c.u8 1 ≤ 3 ∧ 1 ≤ c.u32 8 ∧ c.u32 8 ≤ 4096 ∧ rd 2 c.req.payload 2 = 0 ∧ rd 4 c.req.payload 12 = 0) ∧ (s.fn fn).bme = true ∧ l = (s.faults.ring.filter (fun r => (BitVec.ofNat 32 (c.u32 4)).toNat ≤ r.seq.toNat && c.u8 1 ≤ r.cls && (fn.val = 0 || r.partition = fn.val - 1))).take (c.u32 8) ∧ next = (if l.length = c.u32 8 then ((s.faults.ring.find? (fun r => ((l.getLast?.map (fun r => r.seq)).getD (BitVec.ofNat 32 (c.u32 4))).toNat < r.seq.toNat)).map (fun r => r.seq)).getD s.faults.nextSeq else s.faults.nextSeq) :=
  ⟨0, asking 14 1 0 255 ([0, 0] ++ le 2 0 ++ le 4 0 ++ le 4 16 ++ le 4 0 ++ le 8 0), _, _, asked ready 0 (asking 14 1 0 255 ([0, 0] ++ le 2 0 ++ le 4 0 ++ le 4 16 ++ le 4 0 ++ le 8 0)), ⟨by decide, by decide, by decide, rfl, rfl⟩⟩

theorem test_meets_FaultsAreReadClearedAndInjected_companionLogRead : ∃ (fn : Fn) (c : Consumed) (l : List (List Byte)) (s : State),
    startable s fn 14 1 = some c ∧ fn.val = 0 ∧ (c.u8 0 = 1 ∧ c.u8 1 ≤ 3 ∧ 1 ≤ c.u32 8 ∧ c.u32 8 ≤ 4096 ∧ rd 2 c.req.payload 2 = 0 ∧ rd 4 c.req.payload 12 = 0) ∧ (s.fn fn).bme = true ∧ l = ((List.range 64).filterMap (fun i => (tfind s.comp.aon.log i).filter (fun b => c.u8 1 ≤ (recOf b).cls))).take (c.u32 8) :=
  ⟨0, asking 14 1 0 255 ([1, 0] ++ le 2 0 ++ le 4 0 ++ le 4 16 ++ le 4 0 ++ le 8 0), _, asked ready 0 (asking 14 1 0 255 ([1, 0] ++ le 2 0 ++ le 4 0 ++ le 4 16 ++ le 4 0 ++ le 8 0)), ⟨by decide, by decide, by decide, by decide, rfl⟩⟩

theorem test_meets_FaultsAreReadClearedAndInjected_companionLogDenied : ∃ (fn : Fn) (c : Consumed) (s : State),
    startable s fn 14 1 = some c ∧ 0 < fn.val ∧ (c.u8 0 = 1 ∧ c.u8 1 ≤ 3 ∧ 1 ≤ c.u32 8 ∧ c.u32 8 ≤ 4096 ∧ rd 2 c.req.payload 2 = 0 ∧ rd 4 c.req.payload 12 = 0) :=
  ⟨3, asking 14 1 0 255 ([1, 0] ++ le 2 0 ++ le 4 0 ++ le 4 16 ++ le 4 0 ++ le 8 0), asked ready 3 (asking 14 1 0 255 ([1, 0] ++ le 2 0 ++ le 4 0 ++ le 4 16 ++ le 4 0 ++ le 8 0)), by decide⟩

theorem test_meets_FaultsAreReadClearedAndInjected_faultClear : ∃ (fn : Fn) (c : Consumed) (s : State),
    startable s fn 14 2 = some c :=
  ⟨0, asking 14 2 0 255 [], asked ready 0 (asking 14 2 0 255 []), by decide⟩

theorem test_meets_FaultsAreReadClearedAndInjected_faultPolicy : ∃ (fn : Fn) (c : Consumed) (s : State),
    startable s fn 14 3 = some c ∧ (c.u8 0 ≤ 1 ∧ 1 ≤ c.u8 1 ∧ c.u8 1 ≤ 15 ∧ c.u8 2 ≤ 1 ∧ c.u8 3 = 0) :=
  ⟨0, asking 14 3 0 255 ([1, 5, 1, 0] ++ le 2 9), asked ready 0 (asking 14 3 0 255 ([1, 5, 1, 0] ++ le 2 9)), by decide⟩

theorem test_meets_FaultsAreReadClearedAndInjected_faultInjectRecord : ∃ (fn : Fn) (c : Consumed) (t : State) (s : State),
    startable s fn 14 4 = some c ∧ (c.u8 0 = 0 ∧ c.u8 1 ≤ 1 ∧ c.u8 4 ≤ 3 ∧ rd 3 c.req.payload 5 = 0) ∧ (c.u8 4 = 2 → c.req.partition ≠ 255 ∧ (s.pt c.req.partition).state ≠ .free) ∧ t = fault s { code := 0x0E01, cls := c.u8 4, partition := c.req.partition, jobId := c.req.jobId, detail := le 2 (c.u16 2), injected := true } :=
  ⟨0, asking 14 4 0 255 ([0, 0] ++ le 2 7 ++ [1, 0, 0, 0] ++ le 8 0), _, asked ready 0 (asking 14 4 0 255 ([0, 0] ++ le 2 7 ++ [1, 0, 0, 0] ++ le 8 0)), ⟨by decide, by decide, by decide, rfl⟩⟩

theorem test_meets_FaultsAreReadClearedAndInjected_faultInjectCellEcc : ∃ (fn : Fn) (c : Consumed) (w : Nat) (s : State),
    startable s fn 14 4 = some c ∧ (c.u8 0 = 1 ∧ c.u8 1 ≤ 1) ∧ inCells (c.u64 8) 1 = true ∧ cellReachable s (c.u64 8) = true ∧ w = (c.u64 8 - cellBase) / 64 :=
  ⟨0, asking 14 4 0 255 ([1, 1] ++ le 2 0 ++ le 4 0 ++ le 8 0x800000000000), _, asked (part0 .assigned) 0 (asking 14 4 0 255 ([1, 1] ++ le 2 0 ++ le 4 0 ++ le 8 0x800000000000)), ⟨by decide, by decide, by decide, by decide, rfl⟩⟩

theorem test_meets_FaultsAreReadClearedAndInjected_faultInjectHbmEcc : ∃ (fn : Fn) (c : Consumed) (s : State),
    startable s fn 14 4 = some c ∧ (c.u8 0 = 2 ∧ c.u8 1 ≤ 1) ∧ inHbm (c.u64 8) 1 = true ∧ s.hbm.ready = true :=
  ⟨0, asking 14 4 0 255 ([2, 0] ++ le 2 0 ++ le 4 0 ++ le 8 0x40), asked ready 0 (asking 14 4 0 255 ([2, 0] ++ le 2 0 ++ le 4 0 ++ le 8 0x40)), by decide⟩

theorem test_meets_FaultsAreReadClearedAndInjected_faultInjectLinkCrc : ∃ (fn : Fn) (c : Consumed) (p : Nat) (s : State),
    startable s fn 14 4 = some c ∧ (c.u8 0 = 3 ∧ c.u8 1 ≤ 1) ∧ p = c.u64 8 ∧ p < 16 ∧ portUp s p = true :=
  ⟨0, asking 14 4 0 255 ([3, 0] ++ le 2 0 ++ le 4 0 ++ le 8 2), 2, asked (linkUp id) 0 (asking 14 4 0 255 ([3, 0] ++ le 2 0 ++ le 4 0 ++ le 8 2)), by decide⟩

theorem test_meets_FaultsAreReadClearedAndInjected_errlogCommitDrain : ∃ (r : Rec) (q : List Rec) (s : State),
    s.faults.queue = r :: q ∧ s.ready = true ∧ s.comp.running = true ∧ s.comp.updating = false :=
  ⟨recOf (zeros 64), [], { ready with faults := { ready.faults with queue := [recOf (zeros 64)] } }, by decide⟩

theorem test_meets_FaultsAreReadClearedAndInjected_companionLogPoll : ∃ (s : State),
    s.ready = true ∧ s.comp.running = true :=
  ⟨ready, by decide⟩

theorem test_meets_FaultsAreReadClearedAndInjected_errorRecordedHoldoff : ∃ (fn : Fn) (s : State),
    (s.fn fn).erHold = true :=
  ⟨2, ready.setFn 2 { ready.fn 2 with erHold := true, erCount := 3 }, by decide⟩

theorem test_meets_FaultsAreReadClearedAndInjected_readFailsAShortCommand : ∃ (fn id : Nat) (c : Consumed) (s : State),
    cmdOf s fn id = some c ∧ c.started = true ∧ s.eng.lists = [] :=
  ⟨0, 1, { asking 6 2 2 255 [] with started := true }, asked ready 0 { asking 6 2 2 255 [] with started := true }, by decide⟩

theorem test_meets_JtagShiftsItsRegisters_jtagBypass : ∃ (dev : Fin 2) (pins tdi : List Bool) (s : State),
    jtagLive s dev = true :=
  ⟨0, [], [true, false], ready, by decide⟩

theorem test_meets_JtagShiftsItsRegisters_jtagSamplePreload : ∃ (dev : Fin 2) (pins tdi : List Bool) (s : State),
    jtagLive s dev = true :=
  ⟨0, [true], [true, false], ready, by decide⟩

theorem test_meets_JtagShiftsItsRegisters_jtagExtest : ∃ (dev : Fin 2) (pins tdi : List Bool) (s : State),
    jtagLive s dev = true ∧ (dev.val = 1 ∨ s.rst.perst = true) :=
  ⟨0, [true], [true, false], { ready with rst := { ready.rst with perst := true } }, by decide⟩

theorem test_meets_JtagShiftsItsRegisters_jtagIdcode : ∃ (dev : Fin 2) (pins tdi : List Bool) (s : State),
    jtagLive s dev = true :=
  ⟨0, [], [true, false], ready, by decide⟩

theorem test_meets_JtagShiftsItsRegisters_jtagClamp : ∃ (dev : Fin 2) (pins tdi : List Bool) (s : State),
    jtagLive s dev = true ∧ (dev.val = 1 ∨ s.rst.perst = true) :=
  ⟨0, [], [true, false], { ready with rst := { ready.rst with perst := true } }, by decide⟩

theorem test_meets_JtagShiftsItsRegisters_jtagHighz : ∃ (dev : Fin 2) (pins tdi : List Bool) (s : State),
    jtagLive s dev = true ∧ (dev.val = 1 ∨ s.rst.perst = true) :=
  ⟨0, [], [true, false], { ready with rst := { ready.rst with perst := true } }, by decide⟩

theorem test_meets_JtagShiftsItsRegisters_dieOutOfReset : ∃ (pins tdi : List Bool) (s : State),
    jtagLive s 0 = true ∧ s.rst.perst = false :=
  ⟨[], [true, false], ready, by decide⟩

theorem test_meets_RestoreOfAVfNamesItsOwnPartition_otherMask : ∃ (fn : Fn) (c : Consumed) (s : State),
    startable s fn 10 5 = some c ∧ 0 < fn.val ∧ c.u16 2 ≠ 2 ^ (fn.val - 1) :=
  ⟨3, asking 10 5 2 255 restorePayload1, asked huskVol 3 (asking 10 5 2 255 restorePayload1), by decide⟩

theorem test_meets_RestoreOfAVfNamesItsOwnPartition_ownMask : ∃ (fn : Fn) (c : Consumed) (s : State),
    startable s fn 10 5 = some c ∧ 0 < fn.val ∧ c.u16 2 = 2 ^ (fn.val - 1) :=
  ⟨1, asking 10 5 2 255 restorePayload1, asked huskVol 1 (asking 10 5 2 255 restorePayload1), by decide⟩

theorem test_meets_BoundaryScanActsOnlyWhilePerstIsLow_high : ∃ (pins tdi : List Bool) (s : State),
    s.rst.powered = true ∧ s.rst.perst = false :=
  ⟨[], [true, false], ready, by decide⟩

theorem test_meets_BoundaryScanActsOnlyWhilePerstIsLow_low : ∃ (pins tdi : List Bool) (s : State),
    s.rst.powered = true ∧ s.rst.perst = true :=
  ⟨[], [true, false], { ready with rst := { ready.rst with perst := true } }, by decide⟩

theorem test_meets_FaultClearClearsCountsOnly_faultClear : ∃ (fn : Fn) (c : Consumed) (s : State),
    startable s fn 14 2 = some c :=
  ⟨2, asking 14 2 0 255 [], asked ready 2 (asking 14 2 0 255 []), by decide⟩

theorem test_meets_PartCreateIsRefusedInOrder_badParam : ∃ (fn : Fn) (c : Consumed) (s : State),
    startable s fn 3 1 = some c ∧ (c.req.partition = 255 ∨ 4 < c.u8 0 % 4 + c.u8 1 ∨ 4 < c.u8 0 / 4 + c.u8 2) :=
  ⟨0, asking 3 1 1 0 [2, 3, 1, 0], asked ready 0 (asking 3 1 1 0 [2, 3, 1, 0]), by decide⟩

theorem test_meets_PartCreateIsRefusedInOrder_badState : ∃ (fn : Fn) (c : Consumed) (s : State),
    startable s fn 3 1 = some c ∧ c.req.partition ≤ 15 ∧ (c.u8 0 ≤ 15 ∧ 1 ≤ c.u8 1 ∧ 1 ≤ c.u8 2 ∧ c.u8 3 ≤ 1) ∧ (c.u8 0 % 4 + c.u8 1 ≤ 4 ∧ c.u8 0 / 4 + c.u8 2 ≤ 4) ∧ (s.pt c.req.partition).state ≠ .free :=
  ⟨0, asking 3 1 1 0 [2, 2, 1, 0], asked (part0 .assigned) 0 (asking 3 1 1 0 [2, 2, 1, 0]), by decide⟩

theorem test_meets_PartCreateIsRefusedInOrder_regionAssigned : ∃ (fn : Fn) (c : Consumed) (g : Nat) (q : Fin 16) (s : State),
    startable s fn 3 1 = some c ∧ c.req.partition ≤ 15 ∧ (c.u8 0 ≤ 15 ∧ 1 ≤ c.u8 1 ∧ 1 ≤ c.u8 2 ∧ c.u8 3 ≤ 1) ∧ (c.u8 0 % 4 + c.u8 1 ≤ 4 ∧ c.u8 0 / 4 + c.u8 2 ≤ 4) ∧ (s.pt c.req.partition).state = .free ∧ g ∈ rectRegions (c.u8 0) (c.u8 1) (c.u8 2) ∧ (s.pt q).state ≠ .free ∧ g ∈ (s.pt q).regions :=
  ⟨0, asking 3 1 1 1 [0, 2, 1, 0], 0, 0, asked (part0 .saved) 0 (asking 3 1 1 1 [0, 2, 1, 0]), by decide⟩

theorem test_meets_PartCreateIsRefusedInOrder_unserviceable : ∃ (fn : Fn) (c : Consumed) (g : Nat) (s : State),
    startable s fn 3 1 = some c ∧ c.req.partition ≤ 15 ∧ (c.u8 0 ≤ 15 ∧ 1 ≤ c.u8 1 ∧ 1 ≤ c.u8 2 ∧ c.u8 3 ≤ 1) ∧ (c.u8 0 % 4 + c.u8 1 ≤ 4 ∧ c.u8 0 / 4 + c.u8 2 ≤ 4) ∧ (s.pt c.req.partition).state = .free ∧ (∀ r ∈ rectRegions (c.u8 0) (c.u8 1) (c.u8 2), s.regionPart r = none) ∧ g ∈ rectRegions (c.u8 0) (c.u8 1) (c.u8 2) ∧ serviceability (s.rgn g) ≠ 0 ∧ mapDue s (rectRegions (c.u8 0) (c.u8 1) (c.u8 2)) = false :=
  ⟨0, asking 3 1 1 1 [0, 2, 1, 0], 1, asked unserviceable1 0 (asking 3 1 1 1 [0, 2, 1, 0]), by decide⟩

theorem test_meets_GrantsNeverExceedTheBudget_fits : ∃ (budget expected far : Nat) (ms l : List (Nat × Demand)) (g : List (Nat × Nat)),
    0 < budget ∧ l = ms.filter (fun m => m.2.hold && !m.2.leaving) ∧ grantsOf budget expected far ms = (false, g) :=
  ⟨1000, 0, 0, [(9, demand1)], _, _, ⟨by decide, rfl, rfl⟩⟩

theorem test_meets_QueriesLeaveTheModule_queries : ∃ (fn : Fn) (i : Instr) (s : State),
    i ∈ [Instr.sysInfo fn, .sysEcho fn, .regionQuery fn, .partQuery fn, .chanQuery fn, .memQuery fn, .linkQuery fn, .hubQuery fn, .huskQuery fn, .powerQuery fn] :=
  ⟨0, .sysInfo 0, State.reset, by decide⟩

namespace Sys2Proof.Tests

/-! Ill-formed terms: one for each check of WellFormed, which refuses it. -/

def vec0 : VInstr := { ty := 0, sat := false, pred := 0, pinv := false, dst := 0, a := 0, b := 0, c := 0, imm := 0 }
def sync0 : SyncRec := { src := 1, srcPart := 0, dstPart := 0, barrier := 0, members := 0, v0 := 0, v1 := 0, result := 0 }
def msg0 : MsgRec := { src := 1, srcPart := 0, dstPart := 0, chan := 0, peer := 0, tag := 0, a := 0, b := 0, c := 0, seq := 0, words := [] }
def req0 : Req := (asking 1 1 0 255 (zeros 224)).req

theorem test_wf_good : (Instr.vAdd 0 vec0).wf = true ∧ (Instr.requestConsume 0 req0).wf = true ∧ (Instr.barrierArrive sync0).wf = true := by set_option maxRecDepth 20000 in decide
theorem test_wf_access : (Instr.rlLowHalfRead 0 0 9).wf = false ∧ (Instr.registerWrite 0 0 0 0).wf = false ∧ (Instr.rcFieldRead 0 (2 ^ 32) 4).wf = false := by decide
theorem test_wf_request : (Instr.requestConsume 0 { req0 with cls := 256 }).wf = false ∧ (Instr.requestConsume 0 { req0 with payload := [] }).wf = false := by set_option maxRecDepth 20000 in decide
theorem test_wf_telemetry :
    (Instr.telemetryRefresh { vinA := 65536, vinB := 0, iinA := 0, iinB := 0, pin := 0, board := 0, inlet := 0, einA := 0, einB := 0 }).wf = false := by decide
theorem test_wf_pmbus : (Instr.pmPage (.write (2 ^ 32) true)).wf = false := by decide
theorem test_wf_vector : (Instr.vAdd 0 { vec0 with dst := 512 }).wf = false ∧ (Instr.vMul 0 { vec0 with ty := 8 }).wf = false := by decide
theorem test_wf_bar : (Instr.hostAccessWake { fn := 17, off := 0, bytes := 4, write := false, value := 0 }).wf = false := by decide
theorem test_wf_flit : (Instr.flitReceive 2 { flit1 0 with kind := 3 } true).wf = false ∧ (Instr.flitReceive 2 (flit1 256) true).wf = false := by decide
theorem test_wf_marker : (Instr.markerBlockReceive 2 { marker1 0 0 with epoch := 65536 } true).wf = false := by decide
theorem test_wf_bulk : (Instr.bulkWriteReceive { bulk1 0 with src := 128 }).wf = false := by decide
theorem test_wf_sync : (Instr.barrierArrive { sync0 with src := 128 }).wf = false ∧ (Instr.barrierRelease (some { sync0 with result := 256 })).wf = false := by decide
theorem test_wf_time : (Instr.timeRecordReceive 2 { time := 0, master := 256, hops := 0 }).wf = false := by decide
theorem test_wf_message : (Instr.messageRecordReceive { msg0 with words := [0, 0, 0, 0, 0] }).wf = false := by decide
theorem test_wf_packet : (Tlp.wf { kind := 3, length := 0, poisoned := false }) = false ∧ (Tlp.wf { kind := 0, length := 4097, poisoned := false }) = false := by decide
theorem test_wf_drive : (DriveReq.wf (.read (2 ^ 64) 4)) = false ∧ (DriveInfo.wf { serial := [], suitable := true, l1ss := true, nss := [] }) = false := by decide
theorem test_wf_demand : (Instr.demandReceive { demand1 with src := 128 }).wf = false ∧ (Instr.demandReceive { demand1 with demand := 65536 }).wf = false := by decide
theorem test_wf_grant :
    (Instr.grantReceive 1 { domain := 256, short := false, watts := 0, round := 0, budget := 0, heard := 0 }).wf = false := by decide
theorem test_wf_energy : (Instr.energyAttribution { regions := [(16, 1)], segments := [] }).wf = false := by decide
theorem test_wf_voltage : (Instr.feedQualify 0 65536).wf = false := by decide
theorem test_wf_burst : (Instr.companionSpiRead 65536 1).wf = false := by decide

/-! The manual's tables and formulas, by hand. -/

/-- The table gives no row any bits, so no word spells a command. -/
theorem test_no_word_decodes (n w : Nat) : decodeTableWord n w = none := rfl
/-- The check value of CRC-32C. -/
theorem test_crc32c : crc32c [0x31, 0x32, 0x33, 0x34, 0x35, 0x36, 0x37, 0x38, 0x39] = 0xE3069283#32 := by set_option maxRecDepth 20000 in decide
/-- LEB128 of 300 (R823). -/
theorem test_leb : leb 300 = [0xAC, 0x02] := by set_option maxRecDepth 20000 in decide
/-- Regions of a rectangle of 2 by 2 at region 5 (R416). -/
theorem test_rect : rectRegions 5 2 2 = [5, 6, 9, 10] := by decide
/-- Two modules that ask for 1,200 W and 900 W of 2,000 W: both rise from their floors together until one has what it asks for (R791). -/
theorem test_shares_raise :
    shares [(1, { demand1 with demand := 1200, floor := 800 }), (2, { demand1 with demand := 900, floor := 800 })] 2000 = [(1, 1100), (2, 900)] := by set_option maxRecDepth 20000 in decide
/-- The same modules with 1,000 W: what is above 400 W each is scaled alike (R791). -/
theorem test_shares_scale :
    shares [(1, { demand1 with demand := 1200, floor := 800 }), (2, { demand1 with demand := 900, floor := 800 })] 1000 = [(1, 500), (2, 500)] := by set_option maxRecDepth 20000 in decide
/-- One half and a quarter add to three quarters in FP16, and the largest number overflows to infinity (R310). -/
theorem test_fp16 : fp16.code .rne false ((fp16.value 0x3800).add (fp16.value 0x3400)) = 0x3A00
    ∧ fp16.code .rne false ((fp16.value 0x7BFF).add (fp16.value 0x7BFF)) = 0x7C00 := by set_option maxRecDepth 20000 in decide
/-- The most negative byte saturates (R310). -/
theorem test_saturate : satInt 8 (-200) = -128 ∧ satInt 8 200 = 127 := by decide
/-- IDCODE of the die comes out low bit first (R908). -/
theorem test_idcode : ((shiftThrough ((List.range 32).map (fun k => (idcodeOf 0).getLsbD k)) (List.replicate 8 false)).1)
    = [true, true, true, true, false, false, true, false] := by decide
/-- C.ADDI a0, 1 is ADDI a0, a0, 1. -/
theorem test_compressed : expandC 0x0505 = some 0x00150513 := by decide
/-- Signed and unsigned division by zero, and the overflow of signed division (RV32M). -/
theorem test_division : rvMul 4 7#32 0#32 = 0xFFFFFFFF#32 ∧ rvMul 6 7#32 0#32 = 7#32 ∧ rvMul 4 0x80000000#32 0xFFFFFFFF#32 = 0x80000000#32 := by decide

/-! One step each, on small states. -/

/-- POWER.CAP below 400 W is refused, and the cap stays. -/
theorem test_cap_refused : (match exec (.powerCap 0) (asked ready 0 (asking 11 3 0 255 (le 2 399 ++ [6]))) with
    | .next t => t.pow.localCap | _ => 0) = 1600 := by decide
/-- A second after POWER.STATE OFF the rails are off, and the power state is OFF (R761). -/
theorem test_off_takes_the_rails : (match exec .offRailRemoval { ready with pow := { ready.pow with offWait := true } } with
    | .next t => (t.pow.state, t.comp.modpwr) | _ => (.run, true)) = (.off, false) := by decide
/-- TRST_N selects IDCODE in a device that had another instruction. -/
theorem test_trst : (match exec .trstNAssert { ready with jtag := { dev := [(0, { JtagDev.init with instr := .extest, drive := .boundary })], tdo := [true] } } with
    | .next t => ((tget JtagDev.init t.jtag.dev 0).instr, t.jtag.tdo) | _ => (.bypass, [])) = (.idcode, []) := by decide
/-- A step takes the command at the front and leaves the rest in the queue. -/
theorem test_front : (match step { ready with pending := [.trstNAssert, .pmeWaitTimeout] } with | .next t => t.pending | _ => []) = [.pmeWaitTimeout] := by decide

end Sys2Proof.Tests
end

section
/-! SUPPORT. Reading a block of bytes after it was written: what HBM gives back (log entry 1, R9, R423). -/

namespace Sys2Proof.Machine

/-- A block write leaves every byte outside the block as it was. -/
theorem mget_mwrite_outside {d : Byte} {c : Nat} : ∀ {bs : List Byte} {m : List Host.Cell} {a : Nat}, Memory.wf d m = true →
    (c < a ∨ a + bs.length ≤ c) → mget d (mwrite d m a bs) c = mget d m c
  | [], _, _, _, _ => rfl
  | b :: bs, m, a, hm, hc => by
    rw [List.length_cons] at hc
    calc mget d (mwrite d (mset d m a b) (a + 1) bs) c
      _ = mget d (mset d m a b) c := mget_mwrite_outside (mset_wf hm) (by omega)
      _ = mget d m c := mget_mset_other (by omega) hm

/-- Each byte of a block that was written reads back at its place: the first is not touched by the rest of the block. -/
theorem mget_mwrite_inside {d : Byte} : ∀ {bs : List Byte} {m : List Host.Cell} {a i : Nat}, Memory.wf d m = true →
    i < bs.length → mget d (mwrite d m a bs) (a + i) = bs.getD i 0
  | b :: bs, m, a, 0, hm, _ =>
    calc mget d (mwrite d (mset d m a b) (a + 1) bs) a
      _ = mget d (mset d m a b) a := mget_mwrite_outside (mset_wf hm) (.inl (Nat.lt_succ_self a))
      _ = b := mget_mset_self hm
  | b :: bs, m, a, i + 1, hm, hi => by
    rw [Nat.add_comm i 1, ← Nat.add_assoc, Nat.add_comm 1 i, List.getD_cons_succ]
    exact mget_mwrite_inside (mset_wf hm) (Nat.lt_of_succ_lt_succ hi)

/-- Settles O5: `hbmPut` writes its bytes with `mwrite`, which reads back within the block and leaves the rest. -/
theorem hbmReadsBackWhatWasWritten : Obligations.HbmReadsBackWhatWasWritten := by
  unfold Obligations.HbmReadsBackWhatWasWritten
  simp only [hbmPut_mem]
  exact ⟨fun _ _ _ _ _ hm hi => mget_mwrite_inside hm hi,
    fun _ _ _ _ _ hm hb => ⟨mget_mwrite_outside hm hb, mwrite_wf hm⟩⟩

end Sys2Proof.Machine
end

section
/-! SUPPORT. What a PMBus read puts on the bus (R77): the answer of a running companion, with PAGE 0 that of feed A. -/

namespace Sys2Proof.Machine

/-- A running companion answers a read with the command's value and changes nothing else. -/
theorem pmRun_read {s : State} {code : Nat} {r b : List Byte} {w : Nat → State → State} (hrun : s.comp.running = true) (hr : r = b) :
    pmRun .read code s r w = .next (pmAnswer s b) := by
  simp [pmRun, hrun, hr]

theorem pmReadOnly_read {s : State} {code : Nat} {r b : List Byte} (hrun : s.comp.running = true) (hr : r = b) :
    pmReadOnly .read code s r = .next (pmAnswer s b) := pmRun_read hrun hr

theorem pages_of_page_zero {s : State} (hpage : s.comp.pmb.page = 0) : pages s = [0] := if_pos hpage

theorem pagedWord_of_page_zero {s : State} {code : Nat} {v : Nat → Nat} (hpage : s.comp.pmb.page = 0) :
    pagedWord s code v = le 2 (v 0) := by
  rw [pagedWord, pages_of_page_zero hpage]

/-- The bits of the paged feeds together are those of feed A with PAGE 0. -/
theorem foldl_or_pages_of_page_zero {s : State} {v : Nat → Byte} (hpage : s.comp.pmb.page = 0) :
    (pages s).foldl (fun x f => x ||| v f) 0 = v 0 := by
  rw [pages_of_page_zero hpage]; exact BitVec.zero_or

/-- The total over the paged feeds is feed A's with PAGE 0. -/
theorem foldl_add_pages_of_page_zero {s : State} {v : Nat → Nat} (hpage : s.comp.pmb.page = 0) :
    (pages s).foldl (fun x f => x + v f) 0 = v 0 := by
  rw [pages_of_page_zero hpage]; exact Nat.zero_add _

theorem execPmOperation_read_of_page_zero {s : State} (hrun : s.comp.running = true) (hpage : s.comp.pmb.page = 0) :
    execPmOperation .read s = .next (pmAnswer s (le 1 (if (s.feed 0).operation then 0x80 else 0))) := by
  unfold execPmOperation
  dsimp only
  exact pmRun_read hrun (by rw [pages_of_page_zero hpage])

/-- Settles O12: every arm is a transaction of `pmRun`, and a paged value is feed A's with PAGE 0. -/
theorem pmbusReadsAnswer : Obligations.PmbusReadsAnswer := by
  unfold Obligations.PmbusReadsAnswer
  exact ⟨fun s hrun => show execPmPage .read s = _ from pmRun_read hrun rfl,
    fun s hrun => show execPmOnOffConfig .read s = _ from pmReadOnly_read hrun rfl,
    fun s hrun => show execPmWriteProtect .read s = _ from pmRun_read hrun rfl,
    fun s hrun => show execPmCapability .read s = _ from pmReadOnly_read hrun rfl,
    fun s hrun hpage => execPmOperation_read_of_page_zero hrun hpage,
    fun s hrun hpage => show execPmStatusByte .read s = _ from pmReadOnly_read hrun (by rw [pages_of_page_zero hpage]),
    fun s hrun hpage => show execPmStatusWord .read s = _ from pmReadOnly_read hrun (by rw [pages_of_page_zero hpage]),
    fun s hrun hpage => show execPmStatusInput .read s = _ from pmRun_read hrun (by rw [foldl_or_pages_of_page_zero hpage]),
    fun s hrun => show execPmStatusTemperature .read s = _ from pmRun_read hrun rfl,
    fun s hrun => show execPmStatusCml .read s = _ from pmRun_read hrun rfl,
    fun s hrun => show execPmStatusMfrSpecific .read s = _ from pmRun_read hrun rfl,
    fun s hrun hpage => show execPmReadEin .read s = _ from pmReadOnly_read hrun (by rw [foldl_add_pages_of_page_zero hpage]),
    fun s hrun hpage => show execPmReadVin .read s = _ from pmReadOnly_read hrun (pagedWord_of_page_zero hpage),
    fun s hrun hpage => show execPmReadIin .read s = _ from pmReadOnly_read hrun (pagedWord_of_page_zero hpage),
    fun s hrun => show execPmReadTemperature1 .read s = _ from pmReadOnly_read hrun rfl,
    fun s hrun => show execPmReadTemperature2 .read s = _ from pmReadOnly_read hrun rfl,
    fun s hrun hpage => show execPmReadPin .read s = _ from pmReadOnly_read hrun (by rw [pages_of_page_zero hpage]),
    fun s hrun => show execPmPmbusRevision .read s = _ from pmReadOnly_read hrun rfl,
    fun s hrun => show execPmMfrId .read s = _ from pmReadOnly_read hrun rfl,
    fun s hrun => show execPmMfrModel .read s = _ from pmReadOnly_read hrun rfl,
    fun s hrun => show execPmMfrRevision .read s = _ from pmReadOnly_read hrun rfl,
    fun s hrun => show execPmMfrSerial .read s = _ from pmReadOnly_read hrun rfl,
    fun s hrun => show execPmMfrRackBudget .read s = _ from pmRun_read hrun rfl,
    fun s hrun => show execPmMfrFloorShare .read s = _ from pmRun_read hrun rfl,
    fun s hrun => show execPmMfrModuleCap .read s = _ from pmReadOnly_read hrun rfl,
    fun s hrun => show execPmMfrDemand .read s = _ from pmReadOnly_read hrun rfl,
    fun s hrun => show execPmMfrSteward .read s = _ from pmReadOnly_read hrun rfl,
    fun s hrun => show execPmMfrResetCount .read s = _ from pmReadOnly_read hrun rfl,
    fun s hrun => show execPmMfrLastResetCause .read s = _ from pmReadOnly_read hrun rfl⟩

end Sys2Proof.Machine
end

section
/-! SUPPORT. What function-level resets and hot resets leave as it was, and the answers to configuration requests (R106–R111, R123, R456). -/

namespace Sys2Proof.Machine

/-- `t` is `s` but for the mailboxes, the functions' registers, the channels, the link, the trace unit and the HBM units reserved: what the
end of one function's registration, channel ends and traces can change. -/
def Severed (s t : State) : Prop :=
  t = { s with
    host := { s.host with mb := t.host.mb, fn := t.host.fn }
    hbm := { s.hbm with reserved := t.hbm.reserved }
    chans := t.chans, link := t.link, trace := t.trace }
theorem Severed.refl (s : State) : Severed s s := rfl
theorem Severed.trans {s t u : State} (a : Severed s t) (b : Severed t u) : Severed s u := by
  unfold Severed at *; rw [b, a]
theorem Parted.severed {s t : State} (a : Parted s t) : Severed s t := by
  unfold Parted at a; unfold Severed; rw [a]
theorem Told.severed {s t : State} (a : Told s t) : Severed s t := a.parted.severed
theorem severed_foldl {α : Type} {f : State → α → State} (h : ∀ s a, Severed s (f s a)) : ∀ (l : List α) (s : State), Severed s (l.foldl f s)
  | [], s => Severed.refl s
  | a :: r, s => (h s a).trans (severed_foldl h r (f s a))

theorem Severed.comp_eq {s t : State} (h : Severed s t) : t.comp = s.comp := (congrArg State.comp h :)
theorem Severed.rst_eq {s t : State} (h : Severed s t) : t.rst = s.rst := (congrArg State.rst h :)
theorem Severed.boot_eq {s t : State} (h : Severed s t) : t.boot = s.boot := (congrArg State.boot h :)
theorem Severed.fab_eq {s t : State} (h : Severed s t) : t.fab = s.fab := (congrArg State.fab h :)
theorem Severed.part_eq {s t : State} (h : Severed s t) : t.part = s.part := (congrArg State.part h :)
theorem Severed.eng_eq {s t : State} (h : Severed s t) : t.eng = s.eng := (congrArg State.eng h :)
theorem Severed.hub_eq {s t : State} (h : Severed s t) : t.hub = s.hub := (congrArg State.hub h :)
theorem Severed.husk_eq {s t : State} (h : Severed s t) : t.husk = s.husk := (congrArg State.husk h :)
theorem Severed.mem_eq {s t : State} (h : Severed s t) : t.hbm.mem = s.hbm.mem := (congrArg (fun u : State => u.hbm.mem) h :)

theorem sesState_severed (s : State) (fn : Nat) (x : Session) (new : TraceState) (cause : Nat) : Severed s (sesState s fn x new cause) := by
  have set : Severed s (s.setSes fn { x with state := new }) := rfl
  unfold sesState; dsimp only
  split
  · exact set
  · exact set.trans (raiseAt_told _ fn _).severed
theorem clearSession_severed (s : State) (fn cause status : Nat) : Severed s (clearSession s fn cause status) := by
  have clear (t : State) (x : Session) (h : Severed s t) :
      Severed s ((sesState (releaseSink t x) fn x .unconfigured cause).setSes fn Session.init) :=
    h.trans ((show Severed t (releaseSink t x) from rfl).trans ((sesState_severed _ fn x _ cause).trans rfl))
  unfold clearSession; dsimp only
  split
  · exact clear _ _ (finishSt_told s _ _ status).severed
  · exact clear _ _ (Severed.refl s)
theorem endGrant_severed (s : State) (id what : Nat) : Severed s (endGrant s id what) := by
  unfold endGrant
  split
  · exact Severed.refl s
  · exact (show Severed s { s with trace := _ } from rfl).trans (told_foldl (fun t fn => raiseAt_told t fn _) _ _).severed
theorem endGrants_severed (s : State) (p : TraceGrant → Bool) : Severed s (endGrants s p) :=
  severed_foldl (fun t g => by split; exacts [endGrant_severed t g.1 1, Severed.refl t]) _ s

/-- The state of an FLR of PF0 before the end of the VFs: PF0's mailbox, registers, channel ends and traces are cleared, and every
function's interrupts. -/
def pf0Severed (s : State) : State :=
  let s1 := s.setMb 0 (flrMb (s.mb 0))
  let s2 := loseWhere (s1.setFn 0 (flrFn (s1.fn 0))) (fun e => e.kind = .host && e.owner = 0) 2
  let s2 := endGrants (clearSession s2 0 3 0x000E) (fun g => g.requester = 0)
  forFns s2 (List.range 17) (fun t fn => t.setFn fn { t.fn fn with intStatus := 0, intEnable := 0 })

theorem pf0Severed_severed (s : State) : Severed s (pf0Severed s) := by
  unfold pf0Severed; dsimp only
  exact ((setMb_told s 0 _).trans (setFn_flagged _ 0 _).told).severed.trans ((loseWhere_parted _ _ 2).severed.trans
    ((clearSession_severed _ 0 3 _).trans ((endGrants_severed _ _).trans
      (flagged_foldl (fun t fn => setFn_flagged t fn _) _ _).told.severed)))

/-- An FLR of PF0 that finds no VFs ends nothing but PF0's own use of the device. -/
theorem execFlrPf0_of_no_vfs {s : State} (hlive : hostLive s = true) (hvf : s.hub.vfEnable = false) :
    execFlrPf0 s = .next (note s { pf0Severed s with
      boot := { (pf0Severed s).boot with unlocked := false }, hub := { (pf0Severed s).hub with numVfs := 0, ari := false } }) := by
  simp only [execFlrPf0, hlive, hvf, Bool.not_true, Bool.false_eq_true, if_false]
  rfl

/-- An FLR of a VF whose partition is FREE ends its mailbox, registers and channel ends, and no partition's work (R456). -/
theorem flrVf_parted_of_free {s : State} {vf : Nat} (hfree : (s.pt vf).state = .free) : Parted s (flrVf s vf) := by
  unfold flrVf; dsimp only
  generalize hs1 : s.setMb (vf + 1) _ = s1
  generalize hs2 : loseWhere (s1.setFn _ _) _ 2 = s2
  have h1 : Parted s s1 := hs1 ▸ (setMb_told s _ _).parted
  have h2 : Parted s s2 := h1.trans (hs2 ▸ (setFn_flagged s1 _ _).told.parted.trans (loseWhere_parted _ _ 2))
  have hkeep : resetFrom s2 vf 3 2 = s2 := by
    have : (s2.pt vf).state = .free := by unfold State.pt at *; rw [h2.part_eq]; exact hfree
    simp only [resetFrom, this, if_true]
  rw [hkeep]
  exact h2.trans (setMb_told s2 _ _).parted

@[simp] theorem hotClears_rst (s : State) : (hotClears s).rst = s.rst := loseWhere_rst _ _ 2
@[simp] theorem hotClears_fab (s : State) : (hotClears s).fab = s.fab := loseWhere_fab _ _ 2
@[simp] theorem hotClears_part (s : State) : (hotClears s).part = s.part := loseWhere_part _ _ 2
@[simp] theorem hotClears_hbm (s : State) : (hotClears s).hbm = s.hbm := loseWhere_hbm _ _ 2
@[simp] theorem hotClears_eng (s : State) : (hotClears s).eng = s.eng := loseWhere_eng _ _ 2
@[simp] theorem hotClears_husk (s : State) : (hotClears s).husk = s.husk := loseWhere_husk _ _ 2
@[simp] theorem hotClears_clk (s : State) : (hotClears s).clk = s.clk := loseWhere_clk _ _ 2
@[simp] theorem hotClears_pow (s : State) : (hotClears s).pow = s.pow := loseWhere_pow _ _ 2
@[simp] theorem hotClears_comp (s : State) : (hotClears s).comp = s.comp := loseWhere_comp _ _ 2
@[simp] theorem hotClears_trace (s : State) : (hotClears s).trace = s.trace := loseWhere_trace _ _ 2
@[simp] theorem hotClears_boot (s : State) : (hotClears s).boot = { s.boot with unlocked := false } := loseWhere_boot _ _ 2
@[simp] theorem hotClears_faults (s : State) : (hotClears s).faults = { s.faults with stopped := false, fatalReset := false, firsts := [] } :=
  loseWhere_faults _ _ 2
@[simp] theorem hotClears_vfEnable (s : State) : (hotClears s).hub.vfEnable = false := congrArg Hub.vfEnable (loseWhere_hub _ _ 2)
@[simp] theorem hotClears_numVfs (s : State) : (hotClears s).hub.numVfs = 0 := congrArg Hub.numVfs (loseWhere_hub _ _ 2)

/-- The state of a hot reset of its own (R111, R135): what it clears, and its record of sources. -/
def hotResetAlone (s : State) : State :=
  hotSources { hotClears s with rst := { (hotClears s).rst with kind := .hot, rstoutLow := true, sampled := false } }

theorem execHotReset_of_running {s : State} (hpow : s.rst.powered = true) (hdeep : s.pow.state ≠ .deep) (hoff : s.pow.state ≠ .off)
    (hidle : s.rst.active = false) (hep : s.rst.epReady = true) :
    execHotReset s = .next (note s (noteStatusAll s (hotResetAlone s))) := by
  simp [execHotReset, hotResetAlone, nextN, hpow, hdeep, hoff, hidle, hep]

/-- A hot reset merges into a reset in progress, whose kind stays (R117). -/
theorem execHotReset_of_active {s : State} (hpow : s.rst.powered = true) (hdeep : s.pow.state ≠ .deep) (hoff : s.pow.state ≠ .off)
    (hactive : s.rst.active = true) :
    execHotReset s = .next { hotClears s with rst := { s.rst with sources := addKind s.rst.sources .hot } } := by
  simp [execHotReset, hpow, hdeep, hoff, hactive]

theorem endZeroWaits_of_none {s : State} (hwaits : s.rst.zeroWaits = []) : endZeroWaits s = s := by
  simp only [endZeroWaits, hwaits, List.filter_nil, List.foldl_nil]
  rw [← hwaits]

theorem execConfigRequest_of_absent {s : State} {k : Fin 27} {q : CfgReq} (hhub : s.rst.hubOut = true) (hrun : s.pow.state = .run)
    (hex : cfgExists s k = false) : execConfigRequest k q s = .next { s with rst := { s.rst with cfg := .ur } } := by
  simp [execConfigRequest, hhub, hrun, hex]

theorem execConfigRequest_of_not_ready {s : State} {k : Fin 27} {q : CfgReq} (hhub : s.rst.hubOut = true) (hrun : s.pow.state = .run)
    (hex : cfgExists s k = true) (hk : k.val < 17) (hep : s.rst.epReady = false) :
    execConfigRequest k q s = .next { s with rst := { s.rst with cfg := .crs } } := by
  simp [execConfigRequest, hhub, hrun, hex, hk, hep]

theorem execConfigRequest_of_ready {s : State} {k : Fin 27} {q : CfgReq} (hhub : s.rst.hubOut = true) (hrun : s.pow.state = .run)
    (hex : cfgExists s k = true) (hep : s.rst.epReady = true) :
    execConfigRequest k q s =
      .next (note s { cfgEffect s k q with rst := { (cfgEffect s k q).rst with cfg := .normal } }) := by
  simp [execConfigRequest, nextN, hhub, hrun, hex, hep]

/-- A write of Command sets MSE and BME; a mailbox that is not enabled has no ring to fail by it. -/
theorem cfgEffect_command {s : State} {k : Nat} {mse bme : Bool} (hk : k < 17) (hmb : (s.mb k).enabled = false) :
    cfgEffect s k (.command mse bme) = s.setFn k { s.fn k with mse := mse, bme := bme } := by
  simp [cfgEffect, hk, hmb]

theorem execConfigRequest_command {s : State} {k : Fin 27} {mse bme : Bool} (hk : k.val < 17) (hhub : s.rst.hubOut = true)
    (hrun : s.pow.state = .run) (hex : cfgExists s k = true) (hep : s.rst.epReady = true) (hmb : (s.mb k).enabled = false) :
    execConfigRequest k (.command mse bme) s =
      .next (note s { s.setFn k { s.fn k with mse := mse, bme := bme } with rst := { s.rst with cfg := .normal } }) := by
  rw [execConfigRequest_of_ready hhub hrun hex hep, cfgEffect_command hk hmb]
  rfl

/-- A Secondary Bus Reset takes down the link of a passthrough port, whose drive stays (R106). -/
theorem execSecondaryBusReset_of_passthrough {s : State} {n : Fin 8} (hhub : s.rst.hubOut = true) (hex : dpExists s n = true)
    (hpass : (s.dp n).passthrough = true) :
    execSecondaryBusReset n s =
      .next (note s (s.setDp n { retrainDp (s.dp n) with mse := (s.dp n).mse, bme := (s.dp n).bme })) := by
  unfold State.dp at hpass
  simp only [execSecondaryBusReset, hhub, hex, hpass, Bool.and_self, if_true]
  rfl

/-- The end of zeroing of a region that no partition holds (R109): nothing waits for it. -/
theorem execCellZeroingDone_of_unheld {s : State} {rg : Fin 16} (hz : s.rst.zeroing.contains rg.val = true) (hclk : s.clk.run = true)
    (hfree : s.regionPart rg = none) (hwaits : s.rst.zeroWaits = []) :
    execCellZeroingDone rg s = .next (note s { clearRegion s rg with rst := { s.rst with zeroing := sdel s.rst.zeroing rg } }) := by
  simp only [execCellZeroingDone, hz, hclk, hfree, Bool.and_self, if_true]
  exact congrArg (nextN s) (endZeroWaits_of_none hwaits)

/-- Settles O16: each reset's end state is what `Parted` or `Severed` leaves of the state, or the fields of `hotClears`. -/
theorem endpointResetsAndConfiguration : Obligations.EndpointResetsAndConfiguration := by
  unfold Obligations.EndpointResetsAndConfiguration
  refine ⟨?hotReset, ?hotResetMerged, ?flrPf0, ?flrVf, ?secondaryBusReset, ?cellZeroingDone, ?crs, ?ur, ?command⟩
  case hotReset =>
    intro s hpow hdeep hoff hidle hep
    refine ⟨_, execHotReset_of_running hpow hdeep hoff hidle hep, ?_⟩
    simp [hotResetAlone, hotSources]
  case hotResetMerged =>
    intro s hpow hdeep hoff hactive
    refine ⟨_, execHotReset_of_active hpow hdeep hoff hactive, ?_⟩
    simp [hactive]
  case flrPf0 =>
    intro s hlive hvf _ _
    have h := pf0Severed_severed s
    refine ⟨_, execFlrPf0_of_no_vfs hlive hvf, ?_⟩
    simp [h.part_eq, h.mem_eq, h.rst_eq, h.fab_eq, h.eng_eq, h.boot_eq, h.hub_eq, h.comp_eq, h.husk_eq]
  case flrVf =>
    intro vf s hlive hvf hlt hfree
    have h := flrVf_parted_of_free hfree
    refine ⟨note s (flrVf s vf), ?_, ?_⟩
    · show execFlrVf vf s = _
      simp [execFlrVf, nextN, hlive, hvf, hlt]
    · simp [h.part_eq, h.hbm_eq, h.fab_eq, h.rst_eq, h.hub_eq, h.eng_eq]
  case secondaryBusReset =>
    intro dp s hhub hex hpass
    refine ⟨s.setDp dp { retrainDp (s.dp dp) with mse := (s.dp dp).mse, bme := (s.dp dp).bme }, ?_, ?_⟩
    · exact execSecondaryBusReset_of_passthrough hhub hex hpass
    · rw [State.setDp_self]
      exact ⟨rfl, rfl, rfl⟩
  case cellZeroingDone =>
    intro rg s hz hclk hfree hwaits
    exact execCellZeroingDone_of_unheld hz hclk hfree hwaits
  case crs =>
    intro k q s hhub hrun hex hk hep
    exact execConfigRequest_of_not_ready hhub hrun hex hk hep
  case ur =>
    intro k q s hhub hrun hex
    exact execConfigRequest_of_absent hhub hrun hex
  case command =>
    intro k mse bme s hhub hep hrun hex hmb
    refine ⟨_, execConfigRequest_command (k := k.castLE (by omega)) k.isLt hhub hrun hex hep hmb, ?_⟩
    have hfn := s.setFn_self k { s.fn k with mse := mse, bme := bme }
    exact ⟨congrArg FnRegs.mse hfn, congrArg FnRegs.bme hfn, rfl⟩

end Sys2Proof.Machine
end

section
/-! SUPPORT. Every command and every tick keeps the queue and the invariant (Keep), and what that says of a step; the state at reset. -/

namespace Sys2Proof.Machine

theorem Keep.refl (s : State) : Keep s s := keep_eta.1 ⟨rfl, id⟩
theorem Keep.pending_eq {z s : State} (h : Keep z s) : s.pending = z.pending := (keep_eta.2 h).1
theorem Keep.moduleInv {z s : State} (h : Keep z s) (hz : ModuleInv z) : ModuleInv s := (keep_eta.2 h).2 hz

/-- The law of each meaning, by constructor: no command touches the queue or leaves the invariant. -/
theorem exec_keep {z s : State} (hz : Keep z s) : ∀ c : Instr, KeepOut z (exec c s)
  | .rlLowHalfRead .. => execRlLowHalfRead_keep hz
  | .rcFieldRead .. => execRcFieldRead_keep hz
  | .registerWrite .. => execRegisterWrite_keep hz
  | .feedQualify .. => execFeedQualify_keep hz
  | .qualifyWindowExpiry .. => execQualifyWindowExpiry_keep hz
  | .vinOutOfWindow .. => execVinOutOfWindow_keep hz
  | .feedPowerGood .. => execFeedPowerGood_keep hz
  | .rampTimeout .. => execRampTimeout_keep hz
  | .vinUvFall .. => execVinUvFall_keep hz
  | .ovTrip .. => execOvTrip_keep hz
  | .ocTimerTrip .. => execOcTimerTrip_keep hz
  | .ocFastTrip .. => execOcFastTrip_keep hz
  | .ocWarn .. => execOcWarn_keep hz
  | .retryTimerExpiry .. => execRetryTimerExpiry_keep hz
  | .retryCountRestore .. => execRetryCountRestore_keep hz
  | .inrushSlewAdjust .. => execInrushSlewAdjust_keep hz
  | .reverseCurrentTrip .. => execReverseCurrentTrip_keep hz
  | .oringModeApply => execOringModeApply_keep hz
  | .slotOnRequest .. => execSlotOnRequest_keep hz
  | .slotOffRequest .. => execSlotOffRequest_keep hz
  | .bayRampStart => execBayRampStart_keep hz
  | .bayPowerGood .. => execBayPowerGood_keep hz
  | .bayRampTimeout .. => execBayRampTimeout_keep hz
  | .bayOvercurrentTrip .. => execBayOvercurrentTrip_keep hz
  | .bayDischarged .. => execBayDischarged_keep hz
  | .auxLoss => execAuxLoss_keep hz
  | .companionStart .. => execCompanionStart_keep hz
  | .dieRstoutFall .. => execDieRstoutFall_keep hz
  | .dieRstoutRise => execDieRstoutRise_keep hz
  | .wakeInRecognised => execWakeInRecognised_keep hz
  | .errlogCommit => execErrlogCommit_keep hz
  | .companionSpiRead .. => execCompanionSpiRead_keep hz
  | .companionSpiWrite .. => execCompanionSpiWrite_keep hz
  | .vregRequest .. => execVregRequest_keep hz
  | .vregSettled .. => execVregSettled_keep hz
  | .regFaultDetected .. => execRegFaultDetected_keep hz
  | .telemetryRefresh .. => execTelemetryRefresh_keep hz
  | .fastcapThresholdReload => execFastcapThresholdReload_keep hz
  | .fastcapAssert .. => execFastcapAssert_keep hz
  | .fastcapRelease .. => execFastcapRelease_keep hz
  | .companionIrq => execCompanionIrq_keep hz
  | .pmPage .. => execPmPage_keep hz
  | .pmOperation .. => execPmOperation_keep hz
  | .pmOnOffConfig .. => execPmOnOffConfig_keep hz
  | .pmClearFaults .. => execPmClearFaults_keep hz
  | .pmWriteProtect .. => execPmWriteProtect_keep hz
  | .pmCapability .. => execPmCapability_keep hz
  | .pmVinOvFaultLimit .. => execPmVinOvFaultLimit_keep hz
  | .pmVinUvFaultLimit .. => execPmVinUvFaultLimit_keep hz
  | .pmIinOcFaultLimit .. => execPmIinOcFaultLimit_keep hz
  | .pmIinOcWarnLimit .. => execPmIinOcWarnLimit_keep hz
  | .pmStatusByte .. => execPmStatusByte_keep hz
  | .pmStatusWord .. => execPmStatusWord_keep hz
  | .pmStatusInput .. => execPmStatusInput_keep hz
  | .pmStatusTemperature .. => execPmStatusTemperature_keep hz
  | .pmStatusCml .. => execPmStatusCml_keep hz
  | .pmStatusMfrSpecific .. => execPmStatusMfrSpecific_keep hz
  | .pmReadEin .. => execPmReadEin_keep hz
  | .pmReadVin .. => execPmReadVin_keep hz
  | .pmReadIin .. => execPmReadIin_keep hz
  | .pmReadTemperature1 .. => execPmReadTemperature1_keep hz
  | .pmReadTemperature2 .. => execPmReadTemperature2_keep hz
  | .pmReadPin .. => execPmReadPin_keep hz
  | .pmPmbusRevision .. => execPmPmbusRevision_keep hz
  | .pmMfrId .. => execPmMfrId_keep hz
  | .pmMfrModel .. => execPmMfrModel_keep hz
  | .pmMfrRevision .. => execPmMfrRevision_keep hz
  | .pmMfrSerial .. => execPmMfrSerial_keep hz
  | .pmMfrRackBudget .. => execPmMfrRackBudget_keep hz
  | .pmMfrFloorShare .. => execPmMfrFloorShare_keep hz
  | .pmMfrModuleCap .. => execPmMfrModuleCap_keep hz
  | .pmMfrDemand .. => execPmMfrDemand_keep hz
  | .pmMfrSteward .. => execPmMfrSteward_keep hz
  | .pmMfrOringMode .. => execPmMfrOringMode_keep hz
  | .pmMfrInrushSlew .. => execPmMfrInrushSlew_keep hz
  | .pmMfrBreakerTime .. => execPmMfrBreakerTime_keep hz
  | .pmMfrRetryPolicy .. => execPmMfrRetryPolicy_keep hz
  | .pmMfrResetCount .. => execPmMfrResetCount_keep hz
  | .pmMfrLastResetCause .. => execPmMfrLastResetCause_keep hz
  | .pmMfrFastcapLimit .. => execPmMfrFastcapLimit_keep hz
  | .companionUpdateEnd .. => execCompanionUpdateEnd_keep hz
  | .pllLockAchieved => execPllLockAchieved_keep hz
  | .clockLossDetected .. => execClockLossDetected_keep hz
  | .fclkDividerChange => execFclkDividerChange_keep hz
  | .droopStretchStart => execDroopStretchStart_keep hz
  | .droopStretchEnd => execDroopStretchEnd_keep hz
  | .droopHold => execDroopHold_keep hz
  | .droopHoldExpiry => execDroopHoldExpiry_keep hz
  | .powerOnReset => execPowerOnReset_keep hz
  | .coldReset .. => execColdReset_keep hz
  | .perstDeassert => execPerstDeassert_keep hz
  | .hotReset => execHotReset_keep hz
  | .warmReset .. => execWarmReset_keep hz
  | .watchdogExpiry .. => execWatchdogExpiry_keep hz
  | .thermalTrip .. => execThermalTrip_keep hz
  | .thermalHoldEnd => execThermalHoldEnd_keep hz
  | .flrPf0 => execFlrPf0_keep hz
  | .flrVf .. => execFlrVf_keep hz
  | .secondaryBusReset .. => execSecondaryBusReset_keep hz
  | .resetReleasePhase1 .. => execResetReleasePhase1_keep hz
  | .cellZeroingDone .. => execCellZeroingDone_keep hz
  | .configRequest .. => execConfigRequest_keep hz
  | .wdogStreakClear => execWdogStreakClear_keep hz
  | .flashReadTimeout => execFlashReadTimeout_keep hz
  | .pllLock => execPllLock_keep hz
  | .outputRelease => execOutputRelease_keep hz
  | .srRelease .. => execSrRelease_keep hz
  | .writeEnable => execWriteEnable_keep hz
  | .sectionDeployment => execSectionDeployment_keep hz
  | .moduleReady => execModuleReady_keep hz
  | .doneHigh => execDoneHigh_keep hz
  | .doneTimeout => execDoneTimeout_keep hz
  | .flashErase .. => execFlashErase_keep hz
  | .flashProgram .. => execFlashProgram_keep hz
  | .flashRead .. => execFlashRead_keep hz
  | .flashVerifyCrc .. => execFlashVerifyCrc_keep hz
  | .flashVerifyCompare .. => execFlashVerifyCompare_keep hz
  | .flashVerifyImage .. => execFlashVerifyImage_keep hz
  | .flashUnlock .. => execFlashUnlock_keep hz
  | .flashLock .. => execFlashLock_keep hz
  | .goldenUnlockExpiry => execGoldenUnlockExpiry_keep hz
  | .mailboxEnable .. => execMailboxEnable_keep hz
  | .mailboxDisable .. => execMailboxDisable_keep hz
  | .mailboxStopped .. => execMailboxStopped_keep hz
  | .requestDoorbell .. => execRequestDoorbell_keep hz
  | .requestConsume .. => execRequestConsume_keep hz
  | .responseCiWrite .. => execResponseCiWrite_keep hz
  | .eventCiWrite .. => execEventCiWrite_keep hz
  | .pendingEventPost .. => execPendingEventPost_keep hz
  | .ringAccessFail .. => execRingAccessFail_keep hz
  | .interruptHoldoffExpiry .. => execInterruptHoldoffExpiry_keep hz
  | .progressReport .. => execProgressReport_keep hz
  | .longCommandComplete .. => execLongCommandComplete_keep hz
  | .sysInfo .. => execSysInfo_keep hz
  | .sysReset .. => execSysReset_keep hz
  | .sysUpdate .. => execSysUpdate_keep hz
  | .sysEventMask .. => execSysEventMask_keep hz
  | .sysEcho .. => execSysEcho_keep hz
  | .updateSwitch => execUpdateSwitch_keep hz
  | .updateSelfcheckPass => execUpdateSelfcheckPass_keep hz
  | .updateSelfcheckTimeout => execUpdateSelfcheckTimeout_keep hz
  | .regionQuery .. => execRegionQuery_keep hz
  | .regionApplyMap .. => execRegionApplyMap_keep hz
  | .podQuarantine .. => execPodQuarantine_keep hz
  | .podReturn .. => execPodReturn_keep hz
  | .mapStoreWriteComplete .. => execMapStoreWriteComplete_keep hz
  | .cellRead .. => execCellRead_keep hz
  | .cellWrite .. => execCellWrite_keep hz
  | .eccWriteBack .. => execEccWriteBack_keep hz
  | .macNew .. => execMacNew_keep hz
  | .macAcc .. => execMacAcc_keep hz
  | .matClear .. => execMatClear_keep hz
  | .wload .. => execWload_keep hz
  | .wswap .. => execWswap_keep hz
  | .matDrain .. => execMatDrain_keep hz
  | .vNop .. => execVNop_keep hz
  | .vAdd .. => execVAdd_keep hz
  | .vSub .. => execVSub_keep hz
  | .vMul .. => execVMul_keep hz
  | .vFma .. => execVFma_keep hz
  | .vFms .. => execVFms_keep hz
  | .vMax .. => execVMax_keep hz
  | .vMin .. => execVMin_keep hz
  | .vAbs .. => execVAbs_keep hz
  | .vScaleb .. => execVScaleb_keep hz
  | .vAnd .. => execVAnd_keep hz
  | .vOr .. => execVOr_keep hz
  | .vXor .. => execVXor_keep hz
  | .vShl .. => execVShl_keep hz
  | .vShr .. => execVShr_keep hz
  | .vSra .. => execVSra_keep hz
  | .vMovi .. => execVMovi_keep hz
  | .vSplat .. => execVSplat_keep hz
  | .vCmp .. => execVCmp_keep hz
  | .vSel .. => execVSel_keep hz
  | .vCvt .. => execVCvt_keep hz
  | .vUnpack .. => execVUnpack_keep hz
  | .vRsum .. => execVRsum_keep hz
  | .vRmax .. => execVRmax_keep hz
  | .vRmin .. => execVRmin_keep hz
  | .vRargmax .. => execVRargmax_keep hz
  | .vExp2 .. => execVExp2_keep hz
  | .vLog2 .. => execVLog2_keep hz
  | .vRcp .. => execVRcp_keep hz
  | .vRsqrt .. => execVRsqrt_keep hz
  | .vTanh .. => execVTanh_keep hz
  | .vErf .. => execVErf_keep hz
  | .vPerm .. => execVPerm_keep hz
  | .vRot .. => execVRot_keep hz
  | .vFunnel .. => execVFunnel_keep hz
  | .vZip .. => execVZip_keep hz
  | .vUnzip .. => execVUnzip_keep hz
  | .vRecv .. => execVRecv_keep hz
  | .vSend .. => execVSend_keep hz
  | .vEmit .. => execVEmit_keep hz
  | .sequencerStepIssue .. => execSequencerStepIssue_keep hz
  | .awaitStallEnd .. => execAwaitStallEnd_keep hz
  | .naturalFold .. => execNaturalFold_keep hz
  | .decisionPoint .. => execDecisionPoint_keep hz
  | .decideStallEnd .. => execDecideStallEnd_keep hz
  | .foldWaitEnd .. => execFoldWaitEnd_keep hz
  | .steerDelivery .. => execSteerDelivery_keep hz
  | .summaryArrival .. => execSummaryArrival_keep hz
  | .sproutInstruction .. => execSproutInstruction_keep hz
  | .spSteer .. => execSpSteer_keep hz
  | .spSteerUnblock .. => execSpSteerUnblock_keep hz
  | .spInboxLo .. => execSpInboxLo_keep hz
  | .spInboxCtrl .. => execSpInboxCtrl_keep hz
  | .spSchedFcLo .. => execSpSchedFcLo_keep hz
  | .wfiWake .. => execWfiWake_keep hz
  | .imageStage .. => execImageStage_keep hz
  | .imageCheck .. => execImageCheck_keep hz
  | .imageDrop .. => execImageDrop_keep hz
  | .partLoad .. => execPartLoad_keep hz
  | .partLoadCancel .. => execPartLoadCancel_keep hz
  | .partStart .. => execPartStart_keep hz
  | .partAbort .. => execPartAbort_keep hz
  | .slotShiftStart .. => execSlotShiftStart_keep hz
  | .slotShiftComplete .. => execSlotShiftComplete_keep hz
  | .moverScheduleIssue .. => execMoverScheduleIssue_keep hz
  | .partCreate .. => execPartCreate_keep hz
  | .partDestroy .. => execPartDestroy_keep hz
  | .partAssign .. => execPartAssign_keep hz
  | .partQuery .. => execPartQuery_keep hz
  | .partSetShare .. => execPartSetShare_keep hz
  | .partSave .. => execPartSave_keep hz
  | .partResume .. => execPartResume_keep hz
  | .partReset .. => execPartReset_keep hz
  | .partPowerOff .. => execPartPowerOff_keep hz
  | .partPowerOn .. => execPartPowerOn_keep hz
  | .memWindowGrant .. => execMemWindowGrant_keep hz
  | .memWindowRevoke .. => execMemWindowRevoke_keep hz
  | .windowZeroingComplete .. => execWindowZeroingComplete_keep hz
  | .drainWindowExpiry .. => execDrainWindowExpiry_keep hz
  | .fenceStuck .. => execFenceStuck_keep hz
  | .regulatorRefillTick => execRegulatorRefillTick_keep hz
  | .engineSegmentComplete .. => execEngineSegmentComplete_keep hz
  | .chanOpen .. => execChanOpen_keep hz
  | .chanClose .. => execChanClose_keep hz
  | .chanQuery .. => execChanQuery_keep hz
  | .pairRecordRepeat .. => execPairRecordRepeat_keep hz
  | .pairRecordReceive .. => execPairRecordReceive_keep hz
  | .messageRecordReceive .. => execMessageRecordReceive_keep hz
  | .creditRecordReceive .. => execCreditRecordReceive_keep hz
  | .nackFullReceive .. => execNackFullReceive_keep hz
  | .closeRecordReceive .. => execCloseRecordReceive_keep hz
  | .chTxSend .. => execChTxSend_keep hz
  | .chRxPop .. => execChRxPop_keep hz
  | .chNackPop .. => execChNackPop_keep hz
  | .spChSend .. => execSpChSend_keep hz
  | .spChSendUnblock .. => execSpChSendUnblock_keep hz
  | .spChRx .. => execSpChRx_keep hz
  | .spChNack .. => execSpChNack_keep hz
  | .messageDelivery .. => execMessageDelivery_keep hz
  | .creditReturn .. => execCreditReturn_keep hz
  | .msgRecordTransmit .. => execMsgRecordTransmit_keep hz
  | .creditRecordTimer .. => execCreditRecordTimer_keep hz
  | .channelRouteTimeout .. => execChannelRouteTimeout_keep hz
  | .msgGapTimeout .. => execMsgGapTimeout_keep hz
  | .memCopy .. => execMemCopy_keep hz
  | .memFill .. => execMemFill_keep hz
  | .memQuery .. => execMemQuery_keep hz
  | .moverCopy .. => execMoverCopy_keep hz
  | .moverFill .. => execMoverFill_keep hz
  | .moverDescriptorComplete .. => execMoverDescriptorComplete_keep hz
  | .moverDescriptorFail .. => execMoverDescriptorFail_keep hz
  | .patrolScrub .. => execPatrolScrub_keep hz
  | .copyOnWrite .. => execCopyOnWrite_keep hz
  | .cowCopyComplete .. => execCowCopyComplete_keep hz
  | .reserveEntryFreed .. => execReserveEntryFreed_keep hz
  | .embTableCreate .. => execEmbTableCreate_keep hz
  | .embTableDestroy .. => execEmbTableDestroy_keep hz
  | .embCounters .. => execEmbCounters_keep hz
  | .embMigrate .. => execEmbMigrate_keep hz
  | .embReplicateAdd .. => execEmbReplicateAdd_keep hz
  | .embReplicateRemove .. => execEmbReplicateRemove_keep hz
  | .embReplicateClear .. => execEmbReplicateClear_keep hz
  | .embGather .. => execEmbGather_keep hz
  | .embScatter .. => execEmbScatter_keep hz
  | .embStep .. => execEmbStep_keep hz
  | .bundleRequestReceive .. => execBundleRequestReceive_keep hz
  | .bundleReplyReceive .. => execBundleReplyReceive_keep hz
  | .bundleUpdateReceive .. => execBundleUpdateReceive_keep hz
  | .bundleUpdateAckReceive .. => execBundleUpdateAckReceive_keep hz
  | .bundleRowsPushReceive .. => execBundleRowsPushReceive_keep hz
  | .bundleBlockMoveReceive .. => execBundleBlockMoveReceive_keep hz
  | .embFenceTimeout .. => execEmbFenceTimeout_keep hz
  | .flitReceive .. => execFlitReceive_keep hz
  | .markerBlockReceive .. => execMarkerBlockReceive_keep hz
  | .laneEpochMarker .. => execLaneEpochMarker_keep hz
  | .laneFailure .. => execLaneFailure_keep hz
  | .laneSetApply .. => execLaneSetApply_keep hz
  | .laneRetrainComplete .. => execLaneRetrainComplete_keep hz
  | .bulkWriteReceive .. => execBulkWriteReceive_keep hz
  | .bulkEngineReceive .. => execBulkEngineReceive_keep hz
  | .bulkCompleteReceive .. => execBulkCompleteReceive_keep hz
  | .bulkCompleteTimeout .. => execBulkCompleteTimeout_keep hz
  | .helloTransmit .. => execHelloTransmit_keep hz
  | .helloReceive .. => execHelloReceive_keep hz
  | .timeRecordTransmit .. => execTimeRecordTransmit_keep hz
  | .timeRecordReceive .. => execTimeRecordReceive_keep hz
  | .timeMasterTimeout => execTimeMasterTimeout_keep hz
  | .barrierArrive .. => execBarrierArrive_keep hz
  | .barrierRelease .. => execBarrierRelease_keep hz
  | .transitForward .. => execTransitForward_keep hz
  | .portTrainingComplete .. => execPortTrainingComplete_keep hz
  | .portRetryTimer .. => execPortRetryTimer_keep hz
  | .portLoss .. => execPortLoss_keep hz
  | .linkQuery .. => execLinkQuery_keep hz
  | .linkTrain .. => execLinkTrain_keep hz
  | .linkReset .. => execLinkReset_keep hz
  | .routeSetRoutingImage .. => execRouteSetRoutingImage_keep hz
  | .routeSetPeerTable .. => execRouteSetPeerTable_keep hz
  | .linkCollective .. => execLinkCollective_keep hz
  | .collectiveStepComplete .. => execCollectiveStepComplete_keep hz
  | .collectiveTimeoutExpiry .. => execCollectiveTimeoutExpiry_keep hz
  | .tlpForward .. => execTlpForward_keep hz
  | .powerControllerControlWrite .. => execPowerControllerControlWrite_keep hz
  | .presenceChange .. => execPresenceChange_keep hz
  | .driveSurpriseRemoval .. => execDriveSurpriseRemoval_keep hz
  | .dpPerstRelease .. => execDpPerstRelease_keep hz
  | .downstreamLinkUp .. => execDownstreamLinkUp_keep hz
  | .nvmeCompletionReceive .. => execNvmeCompletionReceive_keep hz
  | .clkreqAssert .. => execClkreqAssert_keep hz
  | .driveIdleTimeout .. => execDriveIdleTimeout_keep hz
  | .driveWake .. => execDriveWake_keep hz
  | .driveWakeTimeout .. => execDriveWakeTimeout_keep hz
  | .nvmeCommandTimeout .. => execNvmeCommandTimeout_keep hz
  | .driveMemoryRequest .. => execDriveMemoryRequest_keep hz
  | .dpcTrigger .. => execDpcTrigger_keep hz
  | .captiveLinkError .. => execCaptiveLinkError_keep hz
  | .hubQuery .. => execHubQuery_keep hz
  | .hubPortMode .. => execHubPortMode_keep hz
  | .hubSlotPowerOn .. => execHubSlotPowerOn_keep hz
  | .hubSlotPowerOff .. => execHubSlotPowerOff_keep hz
  | .hubNsAssign .. => execHubNsAssign_keep hz
  | .hubNvmeAdmin .. => execHubNvmeAdmin_keep hz
  | .huskConfig .. => execHuskConfig_keep hz
  | .huskSnap .. => execHuskSnap_keep hz
  | .huskQuery .. => execHuskQuery_keep hz
  | .huskFlip .. => execHuskFlip_keep hz
  | .huskPauseEnd .. => execHuskPauseEnd_keep hz
  | .snapWaitTimeout => execSnapWaitTimeout_keep hz
  | .drainSegmentIssue => execDrainSegmentIssue_keep hz
  | .snapOutcomeReceive .. => execSnapOutcomeReceive_keep hz
  | .systemWaitTimeout .. => execSystemWaitTimeout_keep hz
  | .volumeMount .. => execVolumeMount_keep hz
  | .huskVolumeFormatCreate .. => execHuskVolumeFormatCreate_keep hz
  | .huskVolumeFormatGuest .. => execHuskVolumeFormatGuest_keep hz
  | .huskVolumeFormatReplace .. => execHuskVolumeFormatReplace_keep hz
  | .huskVolumeFormatRelease .. => execHuskVolumeFormatRelease_keep hz
  | .huskCompact .. => execHuskCompact_keep hz
  | .huskRestore .. => execHuskRestore_keep hz
  | .restoreResume => execRestoreResume_keep hz
  | .buddyOpen _ _ _ n => execBuddyOpen_keep (_n := n) hz
  | .buddyCommit .. => execBuddyCommit_keep hz
  | .buddyAck .. => execBuddyAck_keep hz
  | .buddyFetch .. => execBuddyFetch_keep hz
  | .buddyFetchDone .. => execBuddyFetchDone_keep hz
  | .buddyAckTimeout => execBuddyAckTimeout_keep hz
  | .buddyFetchTimeout => execBuddyFetchTimeout_keep hz
  | .powerQuery .. => execPowerQuery_keep hz
  | .powerStateSleep .. => execPowerStateSleep_keep hz
  | .powerStateDeep .. => execPowerStateDeep_keep hz
  | .powerStateOff .. => execPowerStateOff_keep hz
  | .powerCap .. => execPowerCap_keep hz
  | .powerBudgetConfig .. => execPowerBudgetConfig_keep hz
  | .powerRegionGateOn .. => execPowerRegionGateOn_keep hz
  | .powerRegionGateOff .. => execPowerRegionGateOff_keep hz
  | .powerEnergy .. => execPowerEnergy_keep hz
  | .regionClockUngate .. => execRegionClockUngate_keep hz
  | .pmeTurnOff => execPmeTurnOff_keep hz
  | .pmeWaitTimeout => execPmeWaitTimeout_keep hz
  | .offRailRemoval => execOffRailRemoval_keep hz
  | .hostAccessWake .. => execHostAccessWake_keep hz
  | .perstWake => execPerstWake_keep hz
  | .wakeTimerExpiry => execWakeTimerExpiry_keep hz
  | .companionFaultWake => execCompanionFaultWake_keep hz
  | .fclkCeilingEvaluation .. => execFclkCeilingEvaluation_keep hz
  | .thermalCeilingUpdate .. => execThermalCeilingUpdate_keep hz
  | .rackBudgetTake => execRackBudgetTake_keep hz
  | .budgetReceive .. => execBudgetReceive_keep hz
  | .demandTransmit .. => execDemandTransmit_keep hz
  | .demandReceive .. => execDemandReceive_keep hz
  | .grantCompute => execGrantCompute_keep hz
  | .grantReceive .. => execGrantReceive_keep hz
  | .grantRaiseApply => execGrantRaiseApply_keep hz
  | .grantSilenceTimeout => execGrantSilenceTimeout_keep hz
  | .energyAttribution .. => execEnergyAttribution_keep hz
  | .traceConfig .. => execTraceConfig_keep hz
  | .traceStart .. => execTraceStart_keep hz
  | .traceStop .. => execTraceStop_keep hz
  | .traceAuthorise .. => execTraceAuthorise_keep hz
  | .traceRevoke .. => execTraceRevoke_keep hz
  | .traceGrantExpiry .. => execTraceGrantExpiry_keep hz
  | .branchBufferTimeout .. => execBranchBufferTimeout_keep hz
  | .traceOverflowRecovery .. => execTraceOverflowRecovery_keep hz
  | .faultReadLog .. => execFaultReadLog_keep hz
  | .faultClear .. => execFaultClear_keep hz
  | .faultPolicy .. => execFaultPolicy_keep hz
  | .faultInjectRecord .. => execFaultInjectRecord_keep hz
  | .faultInjectCellEcc .. => execFaultInjectCellEcc_keep hz
  | .faultInjectHbmEcc .. => execFaultInjectHbmEcc_keep hz
  | .faultInjectLinkCrc .. => execFaultInjectLinkCrc_keep hz
  | .errlogCommitDrain => execErrlogCommitDrain_keep hz
  | .companionLogPoll => execCompanionLogPoll_keep hz
  | .errorRecordedHoldoff .. => execErrorRecordedHoldoff_keep hz
  | .poisonedTlpReceive .. => execPoisonedTlpReceive_keep hz
  | .hostCompletionTimeout .. => execHostCompletionTimeout_keep hz
  | .hzIntEnableWrite .. => execHzIntEnableWrite_keep hz
  | .hzResetReq .. => execHzResetReq_keep hz
  | .dieRailGood => execDieRailGood_keep hz
  | .dieRailTimeout => execDieRailTimeout_keep hz
  | .feedsLost => execFeedsLost_keep hz
  | .jtagBypass .. => execJtagBypass_keep hz
  | .jtagSamplePreload .. => execJtagSamplePreload_keep hz
  | .jtagExtest .. => execJtagExtest_keep hz
  | .jtagIdcode .. => execJtagIdcode_keep hz
  | .jtagClamp .. => execJtagClamp_keep hz
  | .jtagHighz .. => execJtagHighz_keep hz
  | .hazelSramUe .. => execHazelSramUe_keep hz
  | .pllLockTimeout => execPllLockTimeout_keep hz
  | .clkreqRelease .. => execClkreqRelease_keep hz
  | .controllerReady .. => execControllerReady_keep hz
  | .controllerReadyTimeout .. => execControllerReadyTimeout_keep hz
  | .shutdownComplete .. => execShutdownComplete_keep hz
  | .shutdownTimeout .. => execShutdownTimeout_keep hz
  | .nvmeAdminTimeout .. => execNvmeAdminTimeout_keep hz
  | .trstNAssert => execTrstNAssert_keep hz

/-- A step is the front command or a tick on the state with the rest of the queue, and goes on from a state that keeps both. -/
theorem step_keep (s : State) : KeepOut { s with pending := s.pending.tail } (step s) := by
  unfold step
  split
  case h_1 hnil =>
    have hs : { s with pending := s.pending.tail } = s := by rw [hnil, List.tail_nil, ← hnil]
    rw [hs]
    exact tick_keep (Keep.refl s)
  case h_2 c r hcons =>
    rw [hcons, List.tail_cons]
    exact exec_keep (Keep.refl _) c

/-- Settles O3: the state before the step, with the front taken off, has the invariant, and the step keeps it. -/
theorem stepKeepsInvariant : Obligations.StepKeepsInvariant :=
  fun s t hinv hstep => (step_keep s t hstep).moduleInv (show ModuleInv { s with pending := s.pending.tail } from hinv)

theorem reset_feed (f : Nat) : State.reset.feed f = Feed.init := rfl
theorem reset_mb (fn : Nat) : State.reset.mb fn = Mailbox.init := rfl
theorem reset_fn (fn : Nat) : State.reset.fn fn = FnRegs.init := rfl

/-- The invariant holds at reset: memories are empty and every setting has its default. -/
theorem reset_moduleInv : ModuleInv State.reset := by
  refine ⟨⟨by decide, fun d hd => ?divReq⟩, ?memories, by decide⟩
  case divReq => cases hd
  case memories => exact ⟨rfl, rfl, rfl⟩

/-- Settles O4: feeds, mailboxes and functions stand at their initial values, and the fields read off the reset state. -/
theorem resetState : Obligations.ResetState := by
  unfold Obligations.ResetState
  simp only [reset_feed, reset_mb, reset_fn]
  have hinv := reset_moduleInv
  exact ⟨rfl, fun _ => ⟨rfl, rfl, rfl, rfl, rfl⟩, rfl, rfl, rfl, rfl, rfl, rfl, fun _ => ⟨rfl, rfl, rfl⟩,
    rfl, rfl, rfl, rfl, rfl, rfl, rfl, rfl, fun _ => ⟨rfl, rfl⟩, hinv⟩

end Sys2Proof.Machine
end

section
/-! SUPPORT. A feed's way from OFF to ON, and what is adjusted or warned on it (R35–R51, R897). -/

namespace Sys2Proof.Machine

theorem feedLive_of_on {x : Feed} (hon : x.state = .on) : feedLive x = true := by simp [feedLive, hon]

/-- The state once feed `f` is in ON with its node at `node`: a first feed enables the die rails (R41, R897). -/
def feedOn (s : State) (f node : Nat) : State := s.setFeed f { s.feed f with state := .on, node := node, oring := true }

theorem execFeedPowerGood_of_ramp {f : Fin 2} {node vin : Nat} {s : State} (hramp : (s.feed f).state = .ramp) (hlow : vin ≤ node + 1000)
    (hhigh : node ≤ vin + 1000) :
    execFeedPowerGood f node vin s = .next (if anyOn s then feedOn s f node else
      { feedOn s f node with
        comp := { (feedOn s f node).comp with railsOn := true, railsGood := 0, railWait := false, railRetries := s.comp.retryPolicy }
        boot := { s.boot with compDone := true } }) := by
  simp only [execFeedPowerGood, hramp, hlow, hhigh, decide_true, Bool.and_self, if_true]
  cases anyOn s <;> rfl

/-- The state once the stored ORing mode is in force with both transistors on (R51). -/
def oringApplied (s : State) : State :=
  let t := (s.setFeed 0 { s.feed 0 with oring := true }).setFeed 1 { s.feed 1 with oring := true }
  { t with comp := { t.comp with oringInForce := s.comp.oringStored } }

theorem execOringModeApply_of_on {s : State} (ha : (s.feed 0).state = .on) (hb : (s.feed 1).state = .on)
    (hmode : s.comp.oringStored = !s.comp.oringInForce) : execOringModeApply s = .next (oringApplied s) := by
  simp [execOringModeApply, oringApplied, ha, hb, hmode]

theorem oringApplied_feed_zero (s : State) : (oringApplied s).feed 0 = { s.feed 0 with oring := true } :=
  (State.setFeed_other _ 1 _ (by decide)).trans (State.setFeed_self s 0 _)
theorem oringApplied_feed_one (s : State) : (oringApplied s).feed 1 = { s.feed 1 with oring := true } :=
  State.setFeed_self _ 1 _

/-- Settles O7: each meaning's guard holds, and the feed's record is what it writes. -/
theorem feedsQualifyRampAndTurnOn : Obligations.FeedsQualifyRampAndTurnOn := by
  unfold Obligations.FeedsQualifyRampAndTurnOn
  refine ⟨?qualify, ?windowExpiry, ?outOfWindow, ?powerGoodFirst, ?powerGoodSecond, ?uvFall, ?retryTimer, ?retryCount, ?slewAdjust, ?ocWarn,
    ?oringMode⟩
  case qualify =>
    intro f vin s hrun hoff hop hvin
    show execFeedQualify f vin s = _
    simp [execFeedQualify, hrun, hoff, hop, hvin]
  case windowExpiry =>
    intro f s hqual
    show execQualifyWindowExpiry f s = _
    simp [execQualifyWindowExpiry, hqual]
  case outOfWindow =>
    intro f vin s hqual hvin
    show execVinOutOfWindow f vin s = _
    simp [execVinOutOfWindow, hqual, hvin]
  case powerGoodFirst =>
    intro f node vin s hramp hlow hhigh hnone
    refine ⟨_, execFeedPowerGood_of_ramp hramp hlow hhigh, ?_⟩
    rw [hnone]
    exact ⟨State.setFeed_self s f _, rfl, rfl, fun g hg => State.setFeed_other s f _ hg, rfl⟩
  case powerGoodSecond =>
    intro f node vin s hramp hlow hhigh hany
    show execFeedPowerGood f node vin s = _
    rw [execFeedPowerGood_of_ramp hramp hlow hhigh, hany]
    rfl
  case uvFall =>
    intro f vin s hon hvin
    show execVinUvFall f vin s = _
    simp [execVinUvFall, hon, hvin]
  case retryTimer =>
    intro f s htrip
    show execRetryTimerExpiry ⟨f.val, _⟩ s = _
    have hfeed : f.val ≠ 2 := by omega
    simp only [execRetryTimerExpiry, hfeed, htrip, if_true, if_false]
    split <;> rfl
  case retryCount =>
    intro f s hon
    show execRetryCountRestore f s = _
    simp [execRetryCountRestore, hon]
  case slewAdjust =>
    intro f slew s hramp
    refine ⟨Config.gateLevel (500 * s.comp.inrushSlew) slew (s.feed f).gate, ?_⟩
    show execInrushSlewAdjust f slew s = _
    simp [execInrushSlewAdjust, hramp]
  case ocWarn =>
    intro f iin s hon hiin
    show execOcWarn f iin s = _
    simp [execOcWarn, feedLive_of_on hon, hiin]
  case oringMode =>
    intro s ha hb hmode
    exact ⟨_, execOringModeApply_of_on ha hb hmode, rfl, congrArg Feed.oring (oringApplied_feed_zero s),
      congrArg Feed.oring (oringApplied_feed_one s), rfl⟩

end Sys2Proof.Machine
end

section
/-! SUPPORT. A trip of one feed: what the companion writes of it, and when the die loses its power (R37–R48, R901). -/

namespace Sys2Proof.Machine

/-- Feed `x` as a trip with `cause` leaves it: its transistors are off. -/
def Feed.tripped (x : Feed) (cause : TripCause) : Feed :=
  { x with state := .tripped, cause := cause, node := 0, gate := 0, oring := false, statusInput := x.statusInput ||| tripStatus cause }

theorem anyOn_of_other_not_on {s : State} (f : Fin 2) (hf : (s.feed f).state ≠ .on) (ho : (s.feed (otherFeed f)).state ≠ .on) :
    anyOn s = false := by
  match f with
  | 0 => simp_all [anyOn, otherFeed]
  | 1 => simp_all [anyOn, otherFeed]

theorem otherFeed_ne (f : Nat) : otherFeed f ≠ f := by unfold otherFeed; omega

/-- The companion after a trip of feed `f`, before the die's power is looked at: the feed's record, CP_STATUS and STATUS_MFR_SPECIFIC. -/
def tripNoted (s : State) (f : Nat) (cause : TripCause) : State :=
  let t := cpRaise (s.setFeed f ((s.feed f).tripped cause)) (BitVec.ofNat 32 (2 ^ f + 4 * b2n ((s.feed f).state = .on) + 32 * b2n (cause = .ov)))
  if cause = .rampTimeout then { t with comp := { t.comp with pmb := { t.comp.pmb with statusMfr := t.comp.pmb.statusMfr ||| 2 } } } else t

theorem tripNoted_feeds (s : State) (f : Nat) (cause : TripCause) :
    (tripNoted s f cause).comp.feeds = tset s.comp.feeds f ((s.feed f).tripped cause) := by
  unfold tripNoted; dsimp only; split <;> rfl

theorem tripNoted_frame (s : State) (f : Nat) (cause : TripCause) : ∃ c, tripNoted s f cause = { s with comp := c } := by
  unfold tripNoted; dsimp only; split <;> exact ⟨_, rfl⟩

theorem tripNoted_feed_self (s : State) (f : Nat) (cause : TripCause) : (tripNoted s f cause).feed f = (s.feed f).tripped cause := by
  unfold State.feed; rw [tripNoted_feeds]; exact tget_tset_self _ _ _ _

theorem tripNoted_feed_other (s : State) (f : Nat) (cause : TripCause) :
    (tripNoted s f cause).feed (otherFeed f) = s.feed (otherFeed f) := by
  unfold State.feed; rw [tripNoted_feeds]; exact tget_tset_other _ _ _ (otherFeed_ne f)

/-- A trip's record, of class 3 when no feed stays in ON; then the die loses its power (R41, R47, R67). -/
def tripEnd (t : State) (f : Nat) (cause : TripCause) : State :=
  let stays := (t.feed (otherFeed f)).state = .on
  let u := companionAppend t 0x0B01 (if stays then 0 else 3) f (fields 20 [(0, le 1 4), (1, le 1 cause.code)])
  if stays then u else removePower { u with comp := { u.comp with efuse := true } }

theorem tripFeed_eq (s : State) (f : Nat) (cause : TripCause) : tripFeed s f cause = tripEnd (tripNoted s f cause) f cause := rfl

theorem tripEnd_of_stays {t : State} {f : Nat} (cause : TripCause) (ho : (t.feed (otherFeed f)).state = .on) :
    tripEnd t f cause = companionAppend t 0x0B01 0 f (fields 20 [(0, le 1 4), (1, le 1 cause.code)]) := by
  simp [tripEnd, ho]

theorem tripEnd_of_lost {t : State} {f : Nat} (cause : TripCause) (ho : (t.feed (otherFeed f)).state ≠ .on) :
    ∃ u : State, tripEnd t f cause = removePower u ∧ u.comp.feeds = t.comp.feeds ∧ u.comp.efuse = true :=
  ⟨_, if_neg ho, rfl, rfl⟩

/-- With the other feed in ON a trip is the companion's alone: its feed, its record and one open value. -/
theorem tripFeed_of_other_on {s : State} (f : Nat) (cause : TripCause) (ho : (s.feed (otherFeed f)).state = .on) :
    (tripFeed s f cause).feed f = (s.feed f).tripped cause ∧ (tripFeed s f cause).feed (otherFeed f) = s.feed (otherFeed f) ∧
    tripFeed s f cause = { s with free := s.free + 1, comp := (tripFeed s f cause).comp } := by
  have hother := tripNoted_feed_other s f cause
  obtain ⟨c, hc⟩ := tripNoted_frame s f cause
  rw [tripFeed_eq, tripEnd_of_stays cause (by rw [hother]; exact ho)]
  refine ⟨tripNoted_feed_self s f cause, hother, ?_⟩
  rw [hc]
  rfl

/-- What a trip that leaves its feed TRIPPED says of that feed, of the other and of the rest of the module. -/
theorem tripFeed_alone {s : State} (f : Nat) (cause : TripCause) (ho : (s.feed (otherFeed f)).state = .on) :
    ((tripFeed s f cause).feed f).state = .tripped ∧ ((tripFeed s f cause).feed f).cause = cause ∧ ((tripFeed s f cause).feed f).node = 0 ∧
    ((tripFeed s f cause).feed f).oring = false ∧ (tripFeed s f cause).feed (otherFeed f) = s.feed (otherFeed f) ∧
    tripFeed s f cause = { s with free := s.free + 1, comp := (tripFeed s f cause).comp } := by
  obtain ⟨hself, hother, hframe⟩ := tripFeed_of_other_on f cause ho
  rw [hself]
  exact ⟨rfl, rfl, rfl, rfl, hother, hframe⟩

theorem removePower_of_none_on {s : State} (hnone : anyOn s = false) :
    removePower s = { dieUnpowered s with
      comp := railsOff s.comp, boot := { (dieUnpowered s).boot with compDone := false, dieDone := false } } := by
  simp [removePower, hnone]

/-- A trip of the last feed in ON takes the die's power, and the next start carries EFUSE_TRIP (R47). -/
theorem tripFeed_of_other_not_on {s : State} (f : Fin 2) (cause : TripCause) (ho : (s.feed (otherFeed f)).state ≠ .on) :
    ((tripFeed s f cause).feed f).state = .tripped ∧ (tripFeed s f cause).comp.efuse = true ∧ (tripFeed s f cause).comp.modpwr = false ∧
    (tripFeed s f cause).comp.railsOn = false ∧ (tripFeed s f cause).rst.powered = false := by
  have hself : ((tripNoted s f cause).feed f).state = .tripped := congrArg Feed.state (tripNoted_feed_self s f cause)
  have hother : ((tripNoted s f cause).feed (otherFeed f)).state ≠ .on := by rw [tripNoted_feed_other]; exact ho
  have hnone : anyOn (tripNoted s f cause) = false := anyOn_of_other_not_on f (by rw [hself]; exact FeedState.noConfusion) hother
  obtain ⟨u, hu, hfeeds, hefuse⟩ := tripEnd_of_lost cause hother
  have hnone' : anyOn u = false := by unfold anyOn State.feed at *; rw [hfeeds]; exact hnone
  rw [tripFeed_eq, hu, removePower_of_none_on hnone']
  exact ⟨(congrArg (fun l => (tget Feed.init l f).state) hfeeds).trans hself, hefuse, rfl, rfl, rfl⟩

/-- The state after a reverse-current trip of feed `f` (R48, R50): its ORing transistor is off, and its state stays. -/
def reverseTripped (s : State) (f : Nat) : State :=
  let t := s.setFeed f { s.feed f with oring := false, cause := .reverse }
  { t with comp := { t.comp with pmb := { t.comp.pmb with statusMfr := t.comp.pmb.statusMfr ||| 1 } } }

/-- Settles O8: five meanings are a trip of one feed; the other two clear the ORing transistor, or the die's power. -/
theorem feedsTrip : Obligations.FeedsTrip := by
  unfold Obligations.FeedsTrip
  refine ⟨?rampTimeout, ?ov, ?ocTimer, ?ocFast, ?lastFeed, ?reverse, ?feedsLost⟩
  case rampTimeout =>
    intro f s hramp ho
    refine ⟨tripFeed s f .rampTimeout, ?_, tripFeed_alone f _ ho⟩
    show execRampTimeout f s = _
    simp [execRampTimeout, hramp]
  case ov =>
    intro f vin s hon hvin ho
    refine ⟨tripFeed s f .ov, ?_, tripFeed_alone f _ ho⟩
    show execOvTrip f vin false s = _
    simp [execOvTrip, hon, hvin]
  case ocTimer =>
    intro f iin s hon hiin ho
    refine ⟨tripFeed s f .ocTimer, ?_, tripFeed_alone f _ ho⟩
    show execOcTimerTrip f iin s = _
    simp [execOcTimerTrip, feedLive_of_on hon, hiin]
  case ocFast =>
    intro f iin s hon hiin ho
    refine ⟨tripFeed s f .ocFast, ?_, tripFeed_alone f _ ho⟩
    show execOcFastTrip f iin s = _
    rw [execOcFastTrip, if_pos (by simpa [feedLive_of_on hon] using hiin)]
  case lastFeed =>
    intro f iin s hon hiin ho
    refine ⟨tripFeed s f .ocTimer, ?_, tripFeed_of_other_not_on f _ (fun h => FeedState.noConfusion (ho.symm.trans h))⟩
    show execOcTimerTrip f iin s = _
    simp [execOcTimerTrip, feedLive_of_on hon, hiin]
  case reverse =>
    intro f iin s horing hiin
    refine ⟨reverseTripped s f, ?_, State.setFeed_self s f _, fun g hg => State.setFeed_other s f _ hg, rfl⟩
    show execReverseCurrentTrip f iin s = _
    simp [execReverseCurrentTrip, reverseTripped, horing, hiin]
  case feedsLost =>
    intro s hrun hnone hpow
    refine ⟨removePower s, ?_, ?_⟩
    · show execFeedsLost s = _
      simp [execFeedsLost, hrun, hnone, hpow]
    · rw [removePower_of_none_on hnone]
      exact ⟨rfl, rfl, rfl, rfl, rfl, rfl, rfl⟩

end Sys2Proof.Machine
end

section
/-! SUPPORT. The drive bays' switches: ramp places, discharge and faults, seen from the companion (R53–R57, R71). -/

namespace Sys2Proof.Machine

/-- A request for a bay in OFF ramps it where a place is free, and else waits (R53, R55). -/
theorem execSlotOnRequest_of_off {bay : Fin 8} {s : State} (hrun : s.comp.running = true) (hupd : s.comp.updating = false)
    (hany : anyOn s = true) (hctrl : s.comp.slotCtrl.getLsbD bay = true) (hbay : tget Bay.init s.comp.bays bay = Bay.init) :
    execSlotOnRequest bay s = .next (if ramping s < 2 && (queuedBay s).isNone then setBay s bay { state := .ramping, queued := false }
      else setBay s bay { state := .off, queued := true }) := by
  have hstate : (tget Bay.init s.comp.bays bay).state = .off := congrArg Bay.state hbay
  have hqueued : (tget Bay.init s.comp.bays bay).queued = false := congrArg Bay.queued hbay
  simp only [execSlotOnRequest, hrun, hupd, hany, hctrl, hstate, hqueued, decide_true, Bool.not_false, Bool.true_or, Bool.and_self, if_true]
  split <;> rfl

/-- A bay's fault where no drive port is live: the bay, CP_STATUS, STATUS_MFR_SPECIFIC and the companion's record (R54, R56). -/
theorem bayFault_of_not_live {s : State} {n : Nat} (hhub : hubLive s n = false) :
    (tget Bay.init (bayFault s n).comp.bays n).state = .slotFault ∧ (bayFault s n).comp.status = s.comp.status ||| 8 ∧
    (bayFault s n).comp.aon.logCount = min 64 (s.comp.aon.logCount + 1) ∧
    bayFault s n = { s with free := s.free + 1, comp := (bayFault s n).comp } := by
  have hskip : ∃ c, bayFault s n = { s with free := s.free + 1, comp := c } ∧
      c.bays = tset s.comp.bays n { state := .slotFault, queued := false } ∧ c.status = s.comp.status ||| 8 ∧
      c.aon.logCount = min 64 (s.comp.aon.logCount + 1) :=
    ⟨_, if_pos (congrArg (!·) hhub), rfl, rfl, rfl⟩
  obtain ⟨c, hc, hbays, hstatus, hlog⟩ := hskip
  rw [hc]
  exact ⟨by rw [hbays, tget_tset_self], hstatus, hlog, rfl⟩

/-- The state once bay `n` has its voltage (R53, R71). -/
def bayPowered (s : State) (n : Nat) : State :=
  modDp (cpRaise (s.setBay n .on) 0x400) n (fun p => { p with commandDone := p.commandDone || (p.passthrough && p.rising) })

/-- The state once bay `n` has discharged, where its port does not wait for that (R57, R71). -/
def bayEmptied (s : State) (n : Nat) : State :=
  modDp (cpRaise (s.setBay n .off) 0x400) n (fun p => { p with falling := false, commandDone := p.commandDone || (p.passthrough && p.falling) })

theorem execBayDischarged_of_not_falling {bay : Fin 8} {s : State} (hrun : s.comp.running = true)
    (hdis : (s.bay bay).state = .discharging) (hfall : (s.dp bay).falling = false) :
    execBayDischarged bay s = .next (note s (bayEmptied s bay)) := by
  have hdone : ((cpRaise (s.setBay bay .off) 0x400).dp bay).falling = false := hfall
  simp only [execBayDischarged, hrun, hdis, hdone, decide_true, Bool.and_self, Bool.and_false, if_true]
  rfl

/-- Settles O9: a bay's state is what its meaning writes there, and the rest of the module is as it was. -/
theorem driveBaysSwitchAndFault : Obligations.DriveBaysSwitchAndFault := by
  unfold Obligations.DriveBaysSwitchAndFault
  refine ⟨?onRequest, ?onRequestWaits, ?offRequest, ?rampStart, ?powerGood, ?rampTimeout, ?overcurrent, ?discharged⟩
  case onRequest =>
    intro bay s hrun hupd hany hctrl hbay hramp hqueue
    show execSlotOnRequest bay s = _
    rw [execSlotOnRequest_of_off hrun hupd hany hctrl hbay, if_pos (by simp [hramp, hqueue])]
    rfl
  case onRequestWaits =>
    intro bay s hrun hupd hany hctrl hbay hramp
    show execSlotOnRequest bay s = _
    rw [execSlotOnRequest_of_off hrun hupd hany hctrl hbay, if_neg (by simp [Nat.not_lt.2 hramp])]
    rfl
  case offRequest =>
    intro bay s hrun hupd hctrl hon
    show execSlotOffRequest bay s = _
    unfold execSlotOffRequest
    dsimp only
    rw [if_pos (by simp only [hrun, hupd, hctrl, hon]; rfl), if_neg (by rw [hon]; exact BayState.noConfusion)]
    rfl
  case rampStart =>
    intro n s hqueue hramp
    show execBayRampStart s = _
    simp [execBayRampStart, setBay, hqueue, hramp]
  case powerGood =>
    intro bay s hrun hramp
    refine ⟨bayPowered s bay, ?_, tget_tset_self _ _ _ _, rfl, rfl⟩
    show execBayPowerGood bay s = _
    simp only [execBayPowerGood, State.bay, hrun, hramp, decide_true, Bool.and_self, if_true]
    rfl
  case rampTimeout =>
    intro bay s hrun hramp hhub
    refine ⟨bayFault s bay, ?_, bayFault_of_not_live hhub⟩
    show execBayRampTimeout bay s = _
    simp [execBayRampTimeout, State.bay, nextN, hrun, hramp]
  case overcurrent =>
    intro bay s hrun hon hhub
    refine ⟨bayFault s bay, ?_, bayFault_of_not_live hhub⟩
    show execBayOvercurrentTrip bay s = _
    simp [execBayOvercurrentTrip, State.bay, nextN, hrun, hon]
  case discharged =>
    intro bay s hrun hdis hfall
    exact ⟨bayEmptied s bay, execBayDischarged_of_not_falling hrun hdis hfall, tget_tset_self _ _ _ _, rfl⟩

end Sys2Proof.Machine
end

section
/-! SUPPORT. The companion's start, the reset counter's increments and the sequence of the die's rails (R60–R64, R897–R902). -/

namespace Sys2Proof.Machine

/-- A copy of the reset counter of which all four cells have been written. -/
theorem partCopy_whole (old new : W32) : partCopy old new 4 = new := by
  have hmask : BitVec.ofNat 32 (256 ^ 4 - 1) = BitVec.allOnes 32 := by decide
  show (old &&& ~~~BitVec.ofNat 32 (256 ^ 4 - 1)) ||| (new &&& BitVec.ofNat 32 (256 ^ 4 - 1)) = new
  rw [hmask, BitVec.not_allOnes, BitVec.and_zero, BitVec.and_allOnes, BitVec.zero_or]

/-- A whole increment leaves both copies at the next value and the state cell IDLE (R61). -/
theorem increment_eq (a : Aon) : a.increment = { a with rcState := 0, cntA := cntNext a.cntA, cntB := cntNext a.cntA } := by
  simp [Aon.increment, cntWrite, partCopy_whole]

theorem recoverCounter_of_idle {s : State} (hidle : s.comp.aon.rcState = 0) (hsame : s.comp.aon.cntA = s.comp.aon.cntB) :
    recoverCounter s = s := by
  simp [recoverCounter, hidle, hsame]

/-- A counted reset in the retained cells: the counter, and the cause record with its low byte and the feeds' states (R61, R64). -/
theorem countReset_eq (s : State) (cause : Nat) : ∃ low : Byte,
    countReset s cause = { s with comp := { s.comp with aon := { s.comp.aon with
      rcState := 0, cntA := cntNext s.comp.aon.cntA, cntB := cntNext s.comp.aon.cntA
      cntLow := low, cause := cause, feedA := (s.feed 0).state.code, feedB := (s.feed 1).state.code } } } := by
  unfold countReset
  rw [increment_eq]
  exact ⟨_, rfl⟩

/-- The state of a companion's start (R60, R62), before the power-on reset is counted. -/
def companionAwake (s : State) (addr : Nat) : State := { s with comp := { s.comp with aux := true, running := true, addr := addr } }

theorem execCompanionStart_of_idle {addr : Fin 8} {s : State} (hrun : s.comp.running = false) (hidle : s.comp.aon.rcState = 0)
    (hsame : s.comp.aon.cntA = s.comp.aon.cntB) :
    execCompanionStart addr s = .next { countReset (companionAwake s addr) 0 with
      comp := { (countReset (companionAwake s addr) 0).comp with porCounted := true } } := by
  have hrec : recoverCounter (companionAwake s addr) = companionAwake s addr := recoverCounter_of_idle hidle hsame
  unfold companionAwake at *
  simp only [execCompanionStart, hrun, Bool.false_eq_true, if_false, hrec]

theorem execDieRstoutFall_of_warm {s : State} (hrun : s.comp.running = true) (hpow : s.rst.powered = true) (hlow : s.rst.rstoutLow = true)
    (hsamp : s.rst.sampled = false) (hkind : s.rst.kind = .warm) :
    execDieRstoutFall none s = .next (countReset { s with rst := { s.rst with sampled := true } } 3) := by
  simp [execDieRstoutFall, ResetKind.code, hrun, hpow, hlow, hsamp, hkind]

/-- The state after a rail that timed out (R898): the record is appended, the rails are off and the sequence waits. -/
def railTimedOut (s : State) : State :=
  let t := companionAppend s 0x0B03 1 255 (fields 20 [(0, le 2 s.comp.vreg.statusWord.toNat), (2, le 1 2), (3, le 1 (s.comp.railsGood + 1))])
  { t with comp := { t.comp with railsGood := 0, railsOn := false, railWait := true } }

/-- Settles O10: a start and a falling reset line each count once; a rail or a timer moves the sequence alone. -/
theorem companionStartsCountsAndSequences : Obligations.CompanionStartsCountsAndSequences := by
  unfold Obligations.CompanionStartsCountsAndSequences
  refine ⟨?start, ?rstoutFall, ?rstoutRise, ?railGood, ?railTimeout, ?railRetry, ?auxLoss⟩
  case start =>
    intro addr s hrun hidle hsame
    obtain ⟨low, hcount⟩ := countReset_eq (companionAwake s addr) 0
    refine ⟨_, execCompanionStart_of_idle hrun hidle hsame, ?_⟩
    rw [hcount]
    exact ⟨rfl, rfl, rfl, rfl, rfl, rfl, rfl, rfl, rfl⟩
  case rstoutFall =>
    intro s hrun hpow hlow hsamp hkind
    obtain ⟨low, hcount⟩ := countReset_eq { s with rst := { s.rst with sampled := true } } 3
    refine ⟨_, execDieRstoutFall_of_warm hrun hpow hlow hsamp hkind, ?_⟩
    rw [hcount]
    exact ⟨rfl, rfl, rfl, rfl⟩
  case rstoutRise =>
    intro s hrun hpow hlow hsamp hout hcause
    show execDieRstoutRise s = _
    unfold execDieRstoutRise
    dsimp only
    rw [if_pos (by simp [hrun, hpow, hlow, hsamp, hout]), if_pos hcause]
  case railGood =>
    intro s hon hany hgood
    show execDieRailGood s = _
    simp [execDieRailGood, hon, hany, hgood]
  case railTimeout =>
    intro s hon hany hgood
    refine ⟨railTimedOut s, ?_, rfl, rfl⟩
    show execDieRailTimeout s = _
    simp only [execDieRailTimeout, hon, hany, hgood, decide_true, Bool.and_self, if_true]
    rfl
  case railRetry =>
    intro s hwait hany
    show execRetryTimerExpiry 2 s = _
    simp only [execRetryTimerExpiry, show (2 : Fin 3).val = 2 from rfl, hwait, hany, Bool.and_self, if_true]
    split <;> rfl
  case auxLoss =>
    intro s haux
    exact ⟨auxGone s, if_pos haux, rfl, rfl, rfl, rfl⟩

end Sys2Proof.Machine
end

section
/-! SUPPORT. How a reset of the die begins, holds its domains and is released (R106–R117, R131, R151, R154, R899). -/

namespace Sys2Proof.Machine

/-- A reset of kind `k` that finds none in progress and every stack in self-refresh, before the host is told (R108, R115). -/
def resetBegun (s : State) (k : ResetKind) : State :=
  { dieReset k false s with
    rst := { s.rst with
      active := true, kind := k, sources := [k], rstoutLow := true, sampled := false, padHold := true
      socOut := false, hubOut := !k.full && s.rst.hubOut, hbmOut := false, linkOut := false, fabOut := [], zeroing := [], zeroWaits := []
      hbmKept := !k.full, stateRestored := !(k.full || !stateRecordGood s), hotPending := false, fillDue := false
      warmReq := 0, epReady := false, wdogRunning := false
      wdogTimeout := if k.full then Resets.init.wdogTimeout else s.rst.wdogTimeout
      wdogHalt := !k.full && s.rst.wdogHalt, wdogExpired := !k.full && s.rst.wdogExpired } }

/-- Telling the host of a reset changes the functions' registers alone. -/
theorem startReset_flagged {s : State} (k : ResetKind) (hidle : s.rst.active = false) : Flagged (resetBegun s k) (startReset s k []) := by
  have heq : startReset s k [] = noteStatusAll s (resetBegun s k) := by
    simp only [startReset, resetBegun, hidle, List.isEmpty_nil, Bool.not_true, Bool.not_false, Bool.false_and, Bool.true_or, Bool.and_true,
      Bool.false_eq_true, Bool.not_not, if_false]
  exact heq ▸ noteStatusAll_flagged s _

theorem full_of_powerOn_or_efuse (e : Bool) : (if e then ResetKind.efuse else .powerOn).full = true := by
  cases e <;> rfl

/-- HBM and device time after a power-on, e-fuse-trip or cold reset (R108). -/
theorem resetBegun_hbm_of_full (s : State) {k : ResetKind} (hfull : k.full = true) : (resetBegun s k).hbm = Hbm.init := by
  simp [resetBegun, dieReset, hfull]
theorem resetBegun_time_of_full (s : State) {k : ResetKind} (hfull : k.full = true) : (resetBegun s k).time = 0 := by
  simp [resetBegun, dieReset, hfull]

/-- A power-on reset's work on the companion: the reset is counted, or its cause alone written where the companion's start counted it. -/
def porRecorded (s t : State) (k : ResetKind) : State :=
  if s.comp.porCounted && k = .powerOn then writeCause t 0 else countReset t k.code

theorem porRecorded_frame (s t : State) (k : ResetKind) : ∃ c, porRecorded s t k = { t with comp := c } := by
  unfold porRecorded; split <;> exact ⟨_, rfl⟩

theorem execPowerOnReset_of_off {s : State} (hmod : s.comp.modpwr = true) (hoff : s.rst.powered = false) :
    execPowerOnReset s =
      let k : ResetKind := if s.comp.efuse then .efuse else .powerOn
      let c := porRecorded s (startReset { s with rst := { s.rst with powered := true, active := false } } k []) k
      .next { c with
        rst := { c.rst with sampled := true }
        comp := { c.comp with efuse := false, porCounted := false }
        boot := { c.boot with dieDone := true } } := by
  unfold execPowerOnReset
  rw [if_pos (by rw [hmod, hoff]; rfl)]
  rfl

theorem execColdReset_of_long {n : Nat} {taken : Bool} {s : State} (hpow : s.rst.powered = true) (hdeep : s.pow.state ≠ .deep) (hn : 100 ≤ n) :
    execColdReset n taken s =
      let u := startReset { s with rst := { s.rst with perst := true } } .cold []
      .next { u with boot := { u.boot with dieDone := true } } := by
  simp [execColdReset, hpow, hdeep, hn]

theorem execWarmReset_of_asked {s : State} (hasked : s.rst.warmReq = 1 ∨ s.rst.warmReq = 2 ∨ s.rst.warmReq = 4) (hpow : s.rst.powered = true) :
    execWarmReset [] s = .next (startReset s .warm []) := by
  have hzero : s.rst.warmReq ≠ 0 := by omega
  have hthree : s.rst.warmReq ≠ 3 := by omega
  simp [execWarmReset, hzero, hthree, hpow]

theorem execWatchdogExpiry_of_warm {s : State} (hrun : s.rst.wdogRunning = true) (hact : s.rst.wdogHalt = false) :
    execWatchdogExpiry [] s =
      .next (startReset { s with boot := { s.boot with wdogStreak := sat 15 (s.boot.wdogStreak + 1) } } .watchdog []) := by
  simp [execWatchdogExpiry, hrun, hact]

/-- The state of a watchdog that halts Hazel (R134), before the host is told. -/
def wdogHalted (s : State) : State :=
  ({ s with boot := { s.boot with hazel := .halted }, rst := { s.rst with wdogRunning := false, wdogExpired := true } }).setFn 0
    { s.fn 0 with aerInternal := true }

theorem execWatchdogExpiry_of_halt {s : State} (l : List (Fin 6)) (hrun : s.rst.wdogRunning = true) (hact : s.rst.wdogHalt = true) :
    execWatchdogExpiry l s = .next (noteStatusAll s (wdogHalted s)) := by
  unfold execWatchdogExpiry
  rw [if_neg (by simp [hrun]), if_pos hact]
  rfl

/-- The state that a thermal trip's reset finds: from DEEP, with the rails restored (R764). -/
def thermalFinds (s : State) : State := if s.pow.state = .deep then { s with comp := railsBack s.comp } else s

theorem thermalFinds_frame (s : State) : ∃ c, thermalFinds s = { s with comp := c } := by
  unfold thermalFinds; split <;> exact ⟨_, rfl⟩

theorem execThermalTrip_of_hot {x : Fin 4} {peak : Int} {s : State} (hpow : s.rst.powered = true) (hpeak : 920 ≤ peak) :
    execThermalTrip x peak [] s =
      let t := startReset (thermalFinds s) .thermal []
      .next { t with rst := { t.rst with thermalHold := true, sensor := x.val, peak := peak } } := by
  simp [execThermalTrip, thermalFinds, hpow, not_lt.2 hpeak]

/-- The state at the release of phase 1 (R115, R151), before the settings record is read. -/
def phase1Released (s : State) (goldWe dpw flash : Bool) : State :=
  { s with
    rst := { s.rst with active := false, socOut := true, hubOut := true }
    boot := { s.boot with
      hazel := .rom 0, flashFitted := flash, primaryResult := 15, goldenResult := 15
      goldWe := if s.rst.sources.any (fun k => k.full) then goldWe else s.boot.goldWe
      dpw := if s.rst.sources.any (fun k => k.full) then dpw else s.boot.dpw } }

theorem execResetReleasePhase1_of_ready {g d f : Bool} {s : State} (hactive : s.rst.active = true) (hpow : s.rst.powered = true)
    (hhold : s.rst.thermalHold = false) (hperst : s.rst.perst = false) :
    execResetReleasePhase1 g d f s = .next (readSettings (phase1Released s g d f)) := by
  unfold execResetReleasePhase1
  dsimp only
  rw [if_neg (by simp [hactive, hpow, hhold, hperst])]
  rfl

/-- A setting outside 1 to `hi` acts as its default, so that the value in force lies there (R144). -/
theorem settingInForce_bounds (n : Nat) {hi dflt : Nat} (hlow : 1 ≤ dflt) (hhigh : dflt ≤ hi) :
    1 ≤ (if 1 ≤ n && n ≤ hi then n else dflt) ∧ (if 1 ≤ n && n ≤ hi then n else dflt) ≤ hi := by
  split
  next hin => simpa using hin
  next => exact ⟨hlow, hhigh⟩

theorem readSettings_boot (s : State) : ∃ d w i, (1 ≤ d ∧ d ≤ 600) ∧ (1 ≤ w ∧ w ≤ 7) ∧
    readSettings s = { s with boot := { s.boot with doneTimeout := d, doneIgnore := i, wdogLimit := w } } :=
  ⟨_, _, _, settingInForce_bounds _ (by decide) (by decide), settingInForce_bounds _ (by decide) (by decide), rfl⟩

/-- Settles O15: each source starts one reset, `resetBegun` gives what it holds, and phase 1 releases the host interface and hub. -/
theorem dieResetsBeginHoldAndRelease : Obligations.DieResetsBeginHoldAndRelease := by
  unfold Obligations.DieResetsBeginHoldAndRelease
  refine ⟨?powerOn, ?cold, ?warm, ?watchdog, ?watchdogHalts, ?thermal, ?holdEnd, ?perstDeassert, ?phase1, ?streakClear, ?sramError⟩
  case powerOn =>
    intro s hmod hoff
    refine ⟨_, execPowerOnReset_of_off hmod hoff, ?_⟩
    generalize hk : (if s.comp.efuse then ResetKind.efuse else .powerOn) = k
    have hfull : k.full = true := hk ▸ full_of_powerOn_or_efuse s.comp.efuse
    have h := startReset_flagged (s := { s with rst := { s.rst with powered := true, active := false } }) k rfl
    obtain ⟨c, hc⟩ := porRecorded_frame s (startReset { s with rst := { s.rst with powered := true, active := false } } k []) k
    dsimp only
    rw [hc]
    dsimp only
    rw [h.rst_eq, h.boot_eq, h.time_eq, h.hbm_eq, resetBegun_hbm_of_full _ hfull, resetBegun_time_of_full _ hfull]
    simp [resetBegun, dieReset, hfull]
  case cold =>
    intro n taken s hpow hdeep hn hidle
    have h := startReset_flagged (s := { s with rst := { s.rst with perst := true } }) .cold hidle
    refine ⟨_, execColdReset_of_long hpow hdeep hn, ?_⟩
    dsimp only
    rw [h.rst_eq, h.boot_eq, h.hbm_eq, h.comp_eq, h.pending_eq]
    exact ⟨rfl, rfl, rfl, hpow, rfl, rfl, rfl, rfl, rfl, rfl, rfl, rfl, rfl, rfl⟩
  case warm =>
    intro s hasked hpow hidle
    have h := startReset_flagged (s := s) .warm hidle
    refine ⟨_, execWarmReset_of_asked hasked hpow, ?_⟩
    rw [h.rst_eq, h.boot_eq, h.hbm_eq, h.comp_eq, h.time_eq]
    exact ⟨rfl, rfl, rfl, rfl, rfl, rfl, rfl, rfl, rfl, rfl, rfl, rfl, rfl, rfl, rfl⟩
  case watchdog =>
    intro s hrun hact hidle
    have h := startReset_flagged (s := { s with boot := { s.boot with wdogStreak := sat 15 (s.boot.wdogStreak + 1) } }) .watchdog hidle
    refine ⟨_, execWatchdogExpiry_of_warm hrun hact, ?_⟩
    rw [h.rst_eq, h.boot_eq, h.hbm_eq, h.comp_eq]
    exact ⟨rfl, rfl, rfl, rfl, rfl, rfl, rfl, rfl, rfl⟩
  case watchdogHalts =>
    intro l s hrun hact
    have h := noteStatusAll_flagged s (wdogHalted s)
    refine ⟨_, execWatchdogExpiry_of_halt l hrun hact, ?_⟩
    rw [h.boot_eq, h.rst_eq, h.fab_eq, h.eng_eq, h.hbm_eq, h.part_eq]
    exact ⟨rfl, rfl, rfl, rfl, rfl, rfl⟩
  case thermal =>
    intro x peak s hpow hpeak hidle
    obtain ⟨c, hc⟩ := thermalFinds_frame s
    have h := startReset_flagged (s := { s with comp := c }) .thermal hidle
    refine ⟨_, execThermalTrip_of_hot hpow hpeak, ?_⟩
    rw [hc]
    dsimp only
    rw [h.rst_eq, h.boot_eq, h.hbm_eq]
    exact ⟨rfl, rfl, rfl, rfl, rfl, rfl, rfl, rfl, rfl⟩
  case holdEnd =>
    intro s
    show execThermalHoldEnd s = _
    rfl
  case perstDeassert =>
    intro s hdeep
    exact if_neg hdeep
  case phase1 =>
    intro g d f s hactive hpow hhold hperst
    obtain ⟨done, limit, ignore, ⟨hdone1, hdone2⟩, ⟨hlimit1, hlimit2⟩, hread⟩ := readSettings_boot (phase1Released s g d f)
    refine ⟨_, execResetReleasePhase1_of_ready hactive hpow hhold hperst, ?_⟩
    rw [hread]
    exact ⟨rfl, rfl, rfl, rfl, rfl, hdone1, hdone2, hlimit1, hlimit2, rfl⟩
  case streakClear =>
    intro s hrun
    exact if_pos hrun
  case sramError =>
    intro off s hon
    exact if_neg hon

end Sys2Proof.Machine
end

section
/-! SUPPORT. The PLL's attempts and phase 2, a requested divider, and the guards of a droop (R94–R99, R115, R164, R778). -/

namespace Sys2Proof.Machine

@[simp] theorem phase2_clk (s : State) : (phase2 s).clk = { s.clk with run := true } := rfl
@[simp] theorem phase2_hbmOut (s : State) : (phase2 s).rst.hbmOut = true := rfl
@[simp] theorem phase2_linkOut (s : State) : (phase2 s).rst.linkOut = true := rfl

theorem execPllLockAchieved_of_waiting {s : State} (hstep : nextStep s = some 0) (hon : s.clk.pllEnabled = true) (hunlocked : s.clk.pllLocked = false) :
    execPllLockAchieved s = .next (stepDone (phase2 { s with clk := { s.clk with pllLocked := true, root := true } })) := by
  simp [execPllLockAchieved, hstep, hon, hunlocked]

/-- A failed attempt is counted; the third one fails the step (R94, R164). -/
theorem execPllLockTimeout_of_waiting {s : State} (hstep : nextStep s = some 0) (hon : s.clk.pllEnabled = true) (hunlocked : s.clk.pllLocked = false) :
    execPllLockTimeout s =
      let t := { s with clk := { s.clk with attempts := s.clk.attempts + 1 } }
      .next (if s.clk.attempts + 1 = 3 then stepFails t 0 else t) := by
  simp [execPllLockTimeout, hstep, hon, hunlocked]

/-- The state in which the divider `d` that was asked for is in force: a frame starts (R98). -/
def dividerTaken (s : State) (d : Nat) : State := { s with clk := { s.clk with div := d, divReq := none, phase := 0 } }

/-- A request to the fabric regulator touches the companion alone (R74). -/
theorem vregWrite_frame (s : State) (mv : Nat) (seq : W16) : ∃ c, vregWrite s mv seq = { s with comp := c } := by
  unfold vregWrite
  split <;> exact ⟨_, rfl⟩

theorem execFclkDividerChange_of_requested {s : State} {d : Nat} (hreq : s.clk.divReq = some d) (hrun : s.clk.run = true) :
    execFclkDividerChange s =
      let u := if d < s.clk.div then { dividerTaken s d with pow := { s.pow with lastRise := s.time } } else dividerTaken s d
      nextPow s (if s.clk.div < d && setpointOf (divIdx d) < s.comp.vreg.setpoint
        then vregWrite u (setpointOf (divIdx d)) (s.comp.vreg.requestSeq + 1) else u) := by
  unfold execFclkDividerChange
  rw [hreq]
  dsimp only
  rw [if_neg (by simp [hrun])]
  rfl

/-- A rise of FCLK needs no lower setpoint: its time is noted, and nothing else moves (R775, R776). -/
theorem execFclkDividerChange_of_faster {s : State} {d : Nat} (hreq : s.clk.divReq = some d) (hrun : s.clk.run = true) (hfast : d < s.clk.div) :
    execFclkDividerChange s = nextPow s { dividerTaken s d with pow := { s.pow with lastRise := s.time } } := by
  rw [execFclkDividerChange_of_requested hreq hrun]
  dsimp only
  rw [if_pos hfast, if_neg (by simp [hfast.not_gt])]

/-- After a fall of FCLK the regulator may be asked for a lower setpoint, which is the companion's (R75). -/
theorem execFclkDividerChange_of_slower {s : State} {d : Nat} (hreq : s.clk.divReq = some d) (hrun : s.clk.run = true) (hslow : s.clk.div < d) :
    ∃ c, execFclkDividerChange s = nextPow s { dividerTaken s d with comp := c } := by
  obtain ⟨c, hc⟩ := vregWrite_frame (dividerTaken s d) (setpointOf (divIdx d)) (s.comp.vreg.requestSeq + 1)
  rw [execFclkDividerChange_of_requested hreq hrun]
  dsimp only
  rw [if_neg hslow.not_gt]
  split
  · exact ⟨c, congrArg (nextPow s) hc⟩
  · exact ⟨s.comp, rfl⟩

/-- The state at a loss of clock, before the fault is raised: no root PLL, no FCLK, and HBM in self-refresh (R96). -/
def clockLost (s : State) : State :=
  { s with
    clk := { s.clk with root := false, pllLocked := false, pllEnabled := false, run := false, divReq := none }
    hbm := { s.hbm with ready := false, selfRefresh := true } }

theorem execClockLossDetected_of_root {s : State} (pll : Bool) (hroot : s.clk.root = true) :
    execClockLossDetected pll s =
      nextN s (fault (clockLost s) { code := 0x0101, cls := 3, detail := [BitVec.ofNat 8 (b2n pll)] }) := by
  rw [execClockLossDetected, if_neg (by simp [hroot])]
  rfl

/-- Settles O14: each guard holds; phase 2 starts FCLK and its domains, and a divider's change leaves what `dividerTaken` says. -/
theorem clocksLockLoseDivideAndStretch : Obligations.ClocksLockLoseDivideAndStretch := by
  unfold Obligations.ClocksLockLoseDivideAndStretch
  refine ⟨?lock, ?attemptFails, ?thirdFails, ?clockLoss, ?faster, ?slower, ?stretchStart, ?stretchEnd, ?droopHold, ?holdExpiry⟩
  case lock =>
    intro s hstep hon hunlocked
    exact ⟨execPllLockAchieved_of_waiting hstep hon hunlocked, phase2_clk _, phase2_hbmOut _, phase2_linkOut _⟩
  case attemptFails =>
    intro s hstep hon hunlocked hfew
    refine (execPllLockTimeout_of_waiting hstep hon hunlocked).trans ?_
    dsimp only
    rw [if_neg (by omega)]
  case thirdFails =>
    intro s hstep hon hunlocked htwo
    refine (execPllLockTimeout_of_waiting hstep hon hunlocked).trans ?_
    dsimp only
    rw [if_pos (by omega), htwo]
  case clockLoss =>
    intro pll s hroot
    exact ⟨clockLost s, rfl, rfl, rfl, execClockLossDetected_of_root pll hroot⟩
  case faster =>
    intro d s hreq hrun hfast
    exact ⟨_, rfl, execFclkDividerChange_of_faster hreq hrun hfast⟩
  case slower =>
    intro d s hreq hrun hslow
    obtain ⟨c, hc⟩ := execFclkDividerChange_of_slower hreq hrun hslow
    exact ⟨{ dividerTaken s d with comp := c }, rfl, rfl, rfl, rfl, hc⟩
  case stretchStart =>
    intro s hrun
    exact if_pos hrun
  case stretchEnd =>
    intro s
    show execDroopStretchEnd s = _
    rfl
  case droopHold =>
    intro s hrun hstretch
    exact if_pos (by rw [hrun, hstretch]; rfl)
  case holdExpiry =>
    intro s hheld
    exact if_pos hheld

end Sys2Proof.Machine
end

section
/-! SUPPORT. How a start-up step counts, and the boot ROM's record of the primary slot (R151, R153, R155, R165). -/

namespace Sys2Proof.Machine

/-- A step that is not the last one is counted, and nothing else follows it. -/
theorem stepDone_of_early {s : State} (hmore : s.boot.stepsDone < 3) :
    stepDone s = { s with boot := { s.boot with stepsDone := s.boot.stepsDone + 1 } } := by
  have hne : s.boot.stepsDone + 1 ≠ 4 := by omega
  simp [stepDone, hne]

theorem stepDone_of_last {s : State} (hlast : s.boot.stepsDone = 3) :
    stepDone s = startupDone { s with boot := { s.boot with stepsDone := 4 } } := by
  simp [stepDone, hlast]

theorem romFails_primary (s : State) (code : Nat) : romFails s 0 code =
    { s with boot := { s.boot with primaryResult := code, nextGolden := s.boot.nextGolden && code ≠ 11, hazel := .rom 1 } } := rfl

theorem execOutputRelease_of_next {s : State} (hstep : nextStep s = some 1) :
    execOutputRelease s = .next (stepDone { s with rst := { s.rst with padHold := false } }) := if_pos hstep

theorem execSrRelease_of_next {s : State} (hstep : nextStep s = some 2) (hout : s.rst.hbmOut = true) :
    execSrRelease [] s = .next (stepDone { s with hbm := { s.hbm with ready := true, selfRefresh := false } }) := by
  simp [execSrRelease, hstep, hout]

theorem execWriteEnable_of_next {s : State} (hstep : nextStep s = some 3) :
    execWriteEnable s = .next (stepDone { s with boot := { s.boot with writeEnable := true } }) := if_pos hstep

theorem execSectionDeployment_of_agreeing {s : State} {ty off len : Nat} {digest : List Byte} {r : List (Nat × Nat × Nat × List Byte)}
    (hrun : s.boot.hazel = .running) (hep : s.rst.epReady = true) (hnext : s.boot.toDeploy = (ty, off, len, digest) :: r)
    (hdigest : Config.sha384 (flashRead s off len) = digest) :
    execSectionDeployment s = .next { s with boot := { s.boot with toDeploy := r, sections := sins s.boot.sections ty } } := by
  simp [execSectionDeployment, hrun, hep, hnext, hdigest]

/-- The state once nothing is left to deploy: DEPLOYED is set, the die lets go of DONE, and drives get their automatic power (R168, R623). -/
def moduleDeployed (s : State) : State := autoPowerAll { s with boot := { s.boot with deployed := true, dieDone := false } }

theorem execModuleReady_of_holding {s : State} (hrun : s.boot.hazel = .running) (hep : s.rst.epReady = true) (hnone : s.boot.toDeploy = [])
    (hnot : s.boot.deployed = false) (hwarm : s.rst.warmReq = 0) (hdone : s.boot.done = .holding) (hwaits : s.boot.doneIgnore = false) :
    execModuleReady s = nextN s { moduleDeployed s with boot := { (moduleDeployed s).boot with done := .waiting } } := by
  simp [execModuleReady, moduleDeployed, hrun, hep, hnone, hnot, hwarm, hdone, hwaits]

theorem execDoneHigh_of_waiting {s : State} (hdie : s.boot.dieDone = false) (hcomp : s.boot.compDone = false) (hdep : s.boot.deployed = true)
    (hdone : s.boot.done = .waiting) : execDoneHigh s = nextN s (proceed s .passed) := by
  simp [execDoneHigh, hdie, hcomp, hdep, hdone]

theorem execDoneHigh_of_timedOut {s : State} (hdie : s.boot.dieDone = false) (hcomp : s.boot.compDone = false) (hdep : s.boot.deployed = true)
    (hdone : s.boot.done = .timedOut) (hfirst : s.boot.doneLate = false) :
    execDoneHigh s = .next (eventDev { s with boot := { s.boot with doneLate := true } } 0x0103 []) := by
  simp [execDoneHigh, hdie, hcomp, hdep, hdone, hfirst]

/-- Settles O17: a step's meaning ends in `stepDone`, which counts it, and each guard of the DONE handshake holds. -/
theorem bootStepsAndTheDoneHandshake : Obligations.BootStepsAndTheDoneHandshake := by
  unfold Obligations.BootStepsAndTheDoneHandshake
  refine ⟨?readTimeout, ?pllLock, ?outputRelease, ?srRelease, ?writeEnable, ?lastStep, ?deployment, ?ready, ?doneHigh, ?doneLate, ?doneTimeout⟩
  case readTimeout =>
    intro s hrom
    show execFlashReadTimeout s = _
    simp [execFlashReadTimeout, hrom, romFails_primary]
  case pllLock =>
    intro s hstep hunlocked hoff
    show execPllLock s = _
    simp [execPllLock, hstep, hunlocked, hoff]
  case outputRelease =>
    intro s hstep hmore
    exact (execOutputRelease_of_next hstep).trans (congrArg _ (stepDone_of_early hmore))
  case srRelease =>
    intro s hstep hout hmore
    exact (execSrRelease_of_next hstep hout).trans (congrArg _ (stepDone_of_early hmore))
  case writeEnable =>
    intro s hstep hmore
    exact (execWriteEnable_of_next hstep).trans (congrArg _ (stepDone_of_early hmore))
  case lastStep =>
    intro s hstep hlast
    exact (execWriteEnable_of_next hstep).trans (congrArg _ (stepDone_of_last hlast))
  case deployment =>
    intro ty off len digest r s hrun hep hnext hdigest
    exact execSectionDeployment_of_agreeing hrun hep hnext hdigest
  case ready =>
    intro s hrun hep hnone hnot hwarm hdone hwaits
    exact ⟨moduleDeployed s, execModuleReady_of_holding hrun hep hnone hnot hwarm hdone hwaits, rfl⟩
  case doneHigh =>
    intro s hdie hcomp hdep hdone
    exact execDoneHigh_of_waiting hdie hcomp hdep hdone
  case doneLate =>
    intro s hdie hcomp hdep hdone hfirst
    exact execDoneHigh_of_timedOut hdie hcomp hdep hdone hfirst
  case doneTimeout =>
    intro s hdone hdep
    exact if_pos (by rw [hdone, hdep]; rfl)

end Sys2Proof.Machine
end

section
/-! SUPPORT. Shares within their ranges, partitions on free regions, and the refill of a table of buckets (R416–R419, R442, R447). -/

namespace Sys2Proof.Machine

/-- An entry of a table whose entries have all been mapped, where the default maps to the default. -/
theorem tget_map_of_default {α β : Type} {d : α} {e : β} {g : α → β} (hd : g d = e) (k : Nat) :
    ∀ t : Tab α, tget e (t.map (fun x => (x.1, g x.2))) k = g (tget d t k)
  | [] => hd.symm
  | (j, v) :: r => by
    simp only [List.map_cons, tget]
    split
    · rfl
    · exact tget_map_of_default hd k r

/-- A partition at a refill tick (R447). -/
def Part.refilled (x : Part) : Part := { x with regs := x.regs.map (fun r => (r.1, r.2.refill)) }

/-- The state after a refill tick. -/
def refilled (s : State) : State := { s with part := s.part.map (fun x => (x.1, x.2.refilled)) }

theorem refilled_pt (s : State) (p : Nat) : (refilled s).pt p = (s.pt p).refilled :=
  tget_map_of_default (d := Part.init) (g := Part.refilled) rfl p s.part

theorem refilled_regulator (x : Part) (e : Nat) : tget Regulator.init x.refilled.regs e = (tget Regulator.init x.regs e).refill :=
  tget_map_of_default (d := Regulator.init) (g := Regulator.refill) rfl e x.regs

theorem getD_map_range {n e : Nat} {f : Nat → Nat} (he : e < n) : ((List.range n).map f).getD e 0 = f e := by
  simp [he]

theorem map_getD_map_range (n : Nat) (f : Nat → Nat) :
    (List.range n).map (fun e => (e, ((List.range n).map f).getD e 0)) = (List.range n).map (fun e => (e, f e)) :=
  List.map_congr_left fun e he => by rw [getD_map_range (List.mem_range.1 he)]

/-- A partition on a rectangle, as PART.CREATE makes it (R416–R419). -/
def partFormed (s : State) (p : Nat) (c : Consumed) : State :=
  partState ((powerRegions s (rectRegions (c.u8 0) (c.u8 1) (c.u8 2))).setPt p
    { Part.init with
      origin := c.u8 0, w := c.u8 1, h := c.u8 2, tenant := bitOf (c.u8 3) 0, powered := true
      fence := { state := .closed, reason := 0 } }) p .assigned 0

theorem execPartCreate_of_free {fn : Fn} {c : Consumed} {s : State} (hcmd : startable s fn 3 1 = some c) (hp : c.req.partition ≤ 15)
    (hfits : rectFits (c.u8 0) (c.u8 1) (c.u8 2) = true) (htenant : c.u8 3 ≤ 1) (hfree : (s.pt c.req.partition).state = .free)
    (hrect : rectRefusal s (c.u8 0) (c.u8 1) (c.u8 2) = none) (hmap : mapDue s (rectRegions (c.u8 0) (c.u8 1) (c.u8 2)) = false) :
    execPartCreate fn s =
      let rgs := rectRegions (c.u8 0) (c.u8 1) (c.u8 2)
      .next (whenZeroed (partFormed s c.req.partition c) fn c.id rgs [c.req.partition] (le 2 (maskOf rgs))) := by
  unfold execPartCreate
  rw [withCmd_some hcmd]
  dsimp only
  rw [if_neg (by simp [hp, hfits, htenant]), if_neg (not_not_intro hfree), if_neg (by simp [hmap]), hrect]
  rfl

/-- The share of a partition that PART.SET_SHARE writes: weights, quotas, the drain window and regulators with full buckets (R442, R447). -/
def Part.withShare (x : Part) (c : Consumed) : Part :=
  { x with
    weight := (List.range 5).map (fun e => (e, c.u8 e))
    quota := (List.range 5).map (fun e => (e, c.u16 (8 + 2 * e)))
    drainUs := c.u32 0x14
    regs := (List.range 5).map (fun i =>
      (i, { rate := c.u32 (0x18 + 16 * i), burst := c.u32 (0x1C + 16 * i), level := ((c.u32 (0x1C + 16 * i) * 1024 : Nat) : Int) })) }

/-- The payload of a PART.SET_SHARE that names a partition: its reserved bytes are zero, and every field lies in its range (R442, R447). -/
structure ShareInRange (c : Consumed) : Prop where
  pad5 : rd 3 c.req.payload 5 = 0
  pad12 : c.u16 0x12 = 0
  padRegs : ∀ i, i < 5 → c.u64 (0x20 + 16 * i) = 0
  weight : ∀ e, e < 5 → 1 ≤ c.u8 e
  quota : ∀ e, e < 5 → 16 ≤ c.u16 (8 + 2 * e) ∧ c.u16 (8 + 2 * e) ≤ 1024
  window : 10 ≤ c.u32 0x14 ∧ c.u32 0x14 ≤ 10000
  burst : ∀ i, i < 5 → 64 ≤ c.u32 (0x1C + 16 * i) ∧ c.u32 (0x1C + 16 * i) ≤ 1048576

/-- With the quotas that the payload gives partition `p`, no engine's quotas exceed its 1024 entries (R442). -/
def QuotasFit (s : State) (p : Nat) (c : Consumed) : Prop :=
  ∀ e, e < 5 → c.u16 (8 + 2 * e) + (((List.range 17).filter (· ≠ p)).map (fun q => quotaOf s q e)).foldl (· + ·) 0 ≤ 1024

theorem execPartSetShare_of_ranged {fn : Fn} {c : Consumed} {s : State} (hcmd : startable s fn 3 13 = some c) (hp : c.req.partition < 16)
    (hfree : (s.pt c.req.partition).state ≠ .free) (hdrain : (s.pt c.req.partition).state ≠ .draining) (hrange : ShareInRange c)
    (hfit : QuotasFit s c.req.partition c) :
    execPartSetShare fn s =
      .next (finishOk (s.setPt c.req.partition ((s.pt c.req.partition).withShare c)) fn c.id []) := by
  have hdev : c.req.partition ≠ 255 := by omega
  unfold execPartSetShare
  rw [withCmd_some hcmd]
  simp only [hdev, if_false, map_getD_map_range]
  rw [if_neg ?state, if_neg ?range, if_neg ?total]
  · rfl
  case state => simp [hfree, hdrain]
  case range =>
    obtain ⟨hpad5, hpad12, hpadRegs, hweight, hquota, ⟨hlow, hhigh⟩, hburst⟩ := hrange
    simp only [hpad5, hpad12, hlow, hhigh, Bool.not_eq_true', Bool.not_eq_false, Bool.and_eq_true, List.all_eq_true, List.mem_range,
      List.mem_map, decide_eq_true_eq, forall_exists_index, and_imp, forall_apply_eq_imp_iff₂, true_and]
    exact ⟨⟨hpadRegs, hweight, hquota⟩, hburst⟩
  case total =>
    simp only [List.any_eq_true, List.mem_range, decide_eq_true_eq, not_exists, not_and, not_lt]
    intro e he
    rw [getD_map_range he]
    exact hfit e he

/-- Settles O29: each command's checks pass and its effect is the one written; a refill maps every bucket of the table of partitions. -/
theorem partitionsFormQueryAndShare : Obligations.PartitionsFormQueryAndShare := by
  unfold Obligations.PartitionsFormQueryAndShare
  refine ⟨?create, ?assign, ?query, ?setShare, ?refill⟩
  case create =>
    intro fn c s hcmd hp hfits htenant hfree hrect hmap
    exact ⟨_, _, rfl, rfl, execPartCreate_of_free hcmd hp hfits htenant hfree hrect hmap⟩
  case assign =>
    intro fn c p s hcmd htenant
    show execPartAssign fn s = _
    unfold execPartAssign
    rw [forPart_run hcmd]
    dsimp only
    rw [if_neg (by omega)]
  case query =>
    intro fn c s hcmd
    exact ⟨_, rfl, withCmd_some (k := fun c s => finishOk s fn c.id (partQuery (s.pt (target fn c)))) hcmd⟩
  case setShare =>
    intro fn c s hcmd hp hfree hdrain hpad hpad2 hpads hshare hwindow hburst htotal
    have hrange : ShareInRange c :=
      ⟨hpad, hpad2, hpads, fun e he => (hshare e he).1, fun e he => (hshare e he).2, hwindow, hburst⟩
    exact execPartSetShare_of_ranged hcmd hp hfree hdrain hrange htotal
  case refill =>
    intro p e s hrate
    refine ⟨_, refilled s, rfl, rfl, ?_⟩
    rw [refilled_pt, refilled_regulator, Regulator.refill, if_neg hrate]

end Sys2Proof.Machine
end

section
/-! SUPPORT. A query's whole work is its final response, which writes mailboxes and interrupt state alone (R202, R205, R213). -/

namespace Sys2Proof.Machine

/-- The outcome is a next state, which differs from `s` only in the mailboxes and in the functions' interrupt state. -/
def TellsOnly (s : State) (o : Out) : Prop := ∃ t, o = .next t ∧ Told s t ∧ Rung s t

/-- `t` is `s` with a final response to the request numbered `id`. -/
def Answers (s : State) (fn id : Nat) (t : State) : Prop := ∃ r, t = finish s fn id r

theorem finishSt_answers (s : State) (fn id status : Nat) : Answers s fn id (finishSt s fn id status) := ⟨_, rfl⟩
theorem finishOk_answers (s : State) (fn id : Nat) (payload : List Byte) : Answers s fn id (finishOk s fn id payload) := ⟨_, rfl⟩
theorem ite_answers {q : Prop} [Decidable q] {s t u : State} {fn id : Nat} (ht : Answers s fn id t) (hu : Answers s fn id u) :
    Answers s fn id (if q then t else u) := by
  split; exacts [ht, hu]
theorem refusal_answers {q : Prop} [Decidable q] {s u : State} {fn id status : Nat} (hu : Answers s fn id u) :
    Answers s fn id (if q then finishSt s fn id status else u) :=
  ite_answers (finishSt_answers s fn id status) hu

/-- A row whose effect on its request is to answer it tells the host only; with no request to start, nothing happens. -/
theorem withCmd_tellsOnly {s : State} {fn cls verb : Nat} {k : Consumed → State → State} (hk : ∀ c, Answers s fn c.id (k c s)) :
    TellsOnly s (withCmd s fn cls verb k) := by
  cases hstart : startable s fn cls verb with
  | none => exact ⟨s, by rw [withCmd, hstart], Told.refl s, Rung.refl s⟩
  | some c =>
    obtain ⟨r, hr⟩ := hk c
    exact ⟨finish s fn c.id r, (withCmd_some hstart).trans (congrArg _ hr), finish_told s fn c.id r, finish_rung s fn c.id r⟩

theorem execSysInfo_tellsOnly (fn : Fn) (s : State) : TellsOnly s (execSysInfo fn s) :=
  withCmd_tellsOnly fun c => finishOk_answers s fn c.id _

theorem execSysEcho_tellsOnly (fn : Fn) (s : State) : TellsOnly s (execSysEcho fn s) :=
  withCmd_tellsOnly fun c => finishOk_answers s fn c.id _

theorem execRegionQuery_tellsOnly (fn : Fn) (s : State) : TellsOnly s (execRegionQuery fn s) :=
  withCmd_tellsOnly fun c => refusal_answers (refusal_answers (finishOk_answers s fn c.id _))

theorem execPartQuery_tellsOnly (fn : Fn) (s : State) : TellsOnly s (execPartQuery fn s) :=
  withCmd_tellsOnly fun c => finishOk_answers s fn c.id _

/-- A FREE number is answered to PF0 only, another channel to the functions entitled to it (R471). -/
theorem execChanQuery_tellsOnly (fn : Fn) (s : State) : TellsOnly s (execChanQuery fn s) :=
  withCmd_tellsOnly fun c =>
    ite_answers (ite_answers (finishOk_answers s fn c.id _) (finishSt_answers s fn c.id _))
      (refusal_answers (finishOk_answers s fn c.id _))

/-- MODE 0 gives a partition's windows, MODE 1 a stack's counters (R518). -/
theorem execMemQuery_tellsOnly (fn : Fn) (s : State) : TellsOnly s (execMemQuery fn s) :=
  withCmd_tellsOnly fun c =>
    have windows := refusal_answers (finishOk_answers s fn c.id _)
    have stack := refusal_answers (refusal_answers (finishOk_answers s fn c.id _))
    refusal_answers (ite_answers windows stack)

theorem execLinkQuery_tellsOnly (fn : Fn) (s : State) : TellsOnly s (execLinkQuery fn s) :=
  withCmd_tellsOnly fun c => ite_answers (finishOk_answers s fn c.id _) (refusal_answers (finishOk_answers s fn c.id _))

/-- SELECT 1 lists namespaces, SELECT 0 gives a drive port if it exists (R650, R606). -/
theorem execHubQuery_tellsOnly (fn : Fn) (s : State) : TellsOnly s (execHubQuery fn s) :=
  withCmd_tellsOnly fun c =>
    have namespaces := finishOk_answers s fn c.id _
    have port := refusal_answers (finishOk_answers s fn c.id _)
    refusal_answers (refusal_answers (ite_answers namespaces port))

theorem execHuskQuery_tellsOnly (fn : Fn) (s : State) : TellsOnly s (execHuskQuery fn s) :=
  withCmd_tellsOnly fun c => finishOk_answers s fn c.id _

theorem execPowerQuery_tellsOnly (fn : Fn) (s : State) : TellsOnly s (execPowerQuery fn s) :=
  withCmd_tellsOnly fun c => finishOk_answers s fn c.id _

/-- Settles O59: each of the ten rows answers its request or does nothing, and an answer writes only mailboxes and interrupt state. -/
theorem queriesLeaveTheModule : Obligations.QueriesLeaveTheModule := by
  unfold Obligations.QueriesLeaveTheModule
  intro fn i s hquery
  show TellsOnly s (exec i s)
  simp only [List.mem_cons, List.not_mem_nil, or_false] at hquery
  obtain rfl | rfl | rfl | rfl | rfl | rfl | rfl | rfl | rfl | rfl := hquery
  · exact execSysInfo_tellsOnly fn s
  · exact execSysEcho_tellsOnly fn s
  · exact execRegionQuery_tellsOnly fn s
  · exact execPartQuery_tellsOnly fn s
  · exact execChanQuery_tellsOnly fn s
  · exact execMemQuery_tellsOnly fn s
  · exact execLinkQuery_tellsOnly fn s
  · exact execHubQuery_tellsOnly fn s
  · exact execHuskQuery_tellsOnly fn s
  · exact execPowerQuery_tellsOnly fn s

end Sys2Proof.Machine
end

section
/-! SUPPORT. What a cell operation's command answers on the coming fc of its pod, and the HALF that a mode refuses (R294, R320, R336). -/

namespace Sys2Proof.Machine

theorem onPod_of_on {s : State} {k p : Nat} {f : Nat → Nat → State → State} (hon : podOn s k = some p) :
    onPod k s f = .next (note s (f p (s.pt p).run.advanced s)) := by
  simp only [onPod, hon, nextN]

theorem halfValid_of_on {s : State} {k p : Nat} {half : Bool} (hon : podOn s k = some p) :
    halfValid s k half = !(half && wideMode (activeCfg s p k).mode') := by
  simp only [halfValid, hon]

/-- HALF clear, or a mode whose rows are 32 bytes, is a valid encoding (R294). -/
theorem halfValid_of_narrow {s : State} {k p : Nat} {half : Bool} (hon : podOn s k = some p)
    (hhalf : half = true → wideMode (activeCfg s p k).mode' = false) : halfValid s k half = true := by
  rw [halfValid_of_on hon]
  cases half with
  | false => rfl
  | true => rw [hhalf rfl]; rfl

theorem halfValid_of_wide {s : State} {k p : Nat} (hon : podOn s k = some p)
    (hwide : wideMode (activeCfg s p k).mode' = true) : halfValid s k true = false := by
  rw [halfValid_of_on hon, hwide]; rfl

/-- The wave that a row makes as it enters the array; MAC_NEW takes no old row (R297, R298, R305). -/
theorem macAt_new {s : State} {k mode bank row a : Nat} {half : Bool} (hmode : mode ≠ 0) :
    macAt s k mode bank row half false a = s.setPod k { s.pod k with waves := (s.pod k).waves ++
      [{ entry := a, mode := mode, bank := bank, row := row, old := none, input := latchRow mode ((s.pod k).latchAt a).data half,
         half := b2n half, tile := (s.pod k).active, met := [], poison := ((s.pod k).latchAt a).poison }] } := by
  simp [macAt, hmode]

theorem macAt_acc {s : State} {k mode bank row a : Nat} {half : Bool} (hmode : mode ≠ 0) :
    macAt s k mode bank row half true a = s.setPod k { s.pod k with waves := (s.pod k).waves ++
      [{ entry := a, mode := mode, bank := bank, row := row, old := some (tget (⟨0, false⟩ : PRow) (s.pod k).acc (bank * 32 + row)).data
         input := latchRow mode ((s.pod k).latchAt a).data half, half := b2n half, tile := (s.pod k).active, met := []
         poison := ((s.pod k).latchAt a).poison || (tget (⟨0, false⟩ : PRow) (s.pod k).acc (bank * 32 + row)).poison }] } := by
  simp [macAt, hmode]

theorem execMacNew_of_valid {s : State} {k : Fin 640} {bank : Fin 2} {row : Fin 32} {half : Bool} {p : Nat} (hon : podOn s k = some p)
    (hvalid : halfValid s k half = true) : execMacNew k bank row half s =
      .next (note s (macAt s k (activeCfg s p k).mode' bank row half false (s.pt p).run.advanced)) := by
  simp only [execMacNew, hvalid, Bool.not_true, Bool.false_eq_true, if_false, onPod_of_on hon]

theorem execMacAcc_of_valid {s : State} {k : Fin 640} {bank : Fin 2} {row : Fin 32} {half : Bool} {p : Nat} (hon : podOn s k = some p)
    (hvalid : halfValid s k half = true) : execMacAcc k bank row half s =
      .next (note s (macAt s k (activeCfg s p k).mode' bank row half true (s.pt p).run.advanced)) := by
  simp only [execMacAcc, hvalid, Bool.not_true, Bool.false_eq_true, if_false, onPod_of_on hon]

theorem execWload_of_valid {s : State} {k : Fin 640} {row : Fin 32} {half : Bool} {p : Nat} (hon : podOn s k = some p)
    (hvalid : halfValid s k half = true) : execWload k row half s =
      .next (note s (wloadAt s k (activeCfg s p k).mode' row half (s.pt p).run.advanced)) := by
  simp only [execWload, hvalid, Bool.not_true, Bool.false_eq_true, if_false, onPod_of_on hon]

/-- Settles O25: each operation acts once on the coming fc of its pod, and an invalid HALF faults before that. -/
theorem matrixOperationsOfAPod : Obligations.MatrixOperationsOfAPod := by
  unfold Obligations.MatrixOperationsOfAPod
  refine ⟨?macNew, ?macAcc, ?clear, ?wload, ?wswap, ?drain, ?badHalf⟩
  case macNew =>
    intro k bank row half p s hon hmode hhalf
    refine ⟨_, rfl, ?_⟩
    show execMacNew k bank row half s = _
    rw [execMacNew_of_valid hon (halfValid_of_narrow hon hhalf), macAt_new hmode]
  case macAcc =>
    intro k bank row half p s hon hmode hhalf
    refine ⟨_, _, rfl, rfl, ?_⟩
    show execMacAcc k bank row half s = _
    rw [execMacAcc_of_valid hon (halfValid_of_narrow hon hhalf), macAt_acc hmode]
  case clear =>
    intro k bank p s hon
    show execMatClear k bank s = _
    simp only [execMatClear, onPod_of_on hon, clearAt]
  case wload =>
    intro k row half p s hon hhalf
    refine ⟨_, rfl, ?_⟩
    show execWload k row half s = _
    rw [execWload_of_valid hon (halfValid_of_narrow hon hhalf), wloadAt]
  case wswap =>
    intro k p s hon
    show execWswap k s = _
    simp only [execWswap, onPod_of_on hon, wswapAt]
  case drain =>
    intro k bank row p s hon
    refine ⟨_, _, rfl, rfl, ?_⟩
    show execMatDrain k bank row s = _
    simp only [execMatDrain, onPod_of_on hon, drainAt]
  case badHalf =>
    intro k bank row p s hon hwide
    have hinvalid : (!halfValid s k true) = true := by rw [halfValid_of_wide hon hwide]; rfl
    exact ⟨if_pos hinvalid, if_pos hinvalid, if_pos hinvalid⟩

end Sys2Proof.Machine
end

section
/-! SUPPORT. What a vector instruction that issues leaves in its pod, in terms of the lanes that it computes (R306–R317). -/

namespace Sys2Proof.Machine

theorem vecRun_of_valid {s : State} {op k p : Nat} {v : VInstr} (hon : podOn s k = some p) (hvalid : vecValid op v = true) :
    vecRun op k v s = .next (note s (vecIssue s p k op v (s.pt p).run.advanced)) := by
  simp only [vecRun, hvalid, Bool.not_true, Bool.false_eq_true, if_false, onPod_of_on hon]

theorem vecRun_of_invalid {s : State} {op k : Nat} {v : VInstr} (hinvalid : vecValid op v = false) :
    vecRun op k v s = .fault .invalidEncoding := by
  simp only [vecRun, hinvalid, Bool.not_false, if_true]

/-- Each TYPE that the operation allows has at most 64 lanes (R306, R312). -/
def opNarrow (op : Nat) : Bool := (vecRow op).all fun r => r.types.all (· ≤ 3)

theorem lanesOf_le_of_narrow {op : Nat} {v : VInstr} (hvalid : vecValid op v = true) (hnarrow : opNarrow op = true) :
    lanesOf v.ty ≤ 64 := by
  have hty : v.ty ≤ 3 := by
    unfold vecValid at hvalid
    unfold opNarrow at hnarrow
    cases hrow : vecRow op with
    | none => simp [hrow] at hvalid
    | some r =>
      simp only [hrow, Bool.and_eq_true, List.contains_iff_mem] at hvalid
      simp only [hrow, Option.all_some, List.all_eq_true, decide_eq_true_eq] at hnarrow
      exact hnarrow _ (by tauto)
  unfold lanesOf
  split
  · exact le_rfl
  · rw [if_neg (by omega)]; decide

theorem lanesOf_pos (ty : Nat) : 0 < lanesOf ty := by
  unfold lanesOf
  split
  · decide
  · split <;> decide

/-- What operation `op` computes from the operand cache and the masks of pod `k`. -/
def podResult (s : State) (k op : Nat) (v : VInstr) : VecOut :=
  vecResult op v ((s.pod k).oc v.a).data.toNat ((s.pod k).oc v.b).data.toNat ((s.pod k).oc v.c).data.toNat (s.pod k).qMask
    (fun i => Config.freeValue (s.free + i))

/-- Latency of an operation (R312). -/
def opLatency (op : Nat) : Nat := ((vecRow op).map (fun r => r.latency)).getD 0

/-- Under a predicate, lane `i` of `n` has no mask bit: such a lane is open (R310, R311). -/
def maskless (v : VInstr) (n i : Nat) : Bool := v.pred ≠ 0 && 64 < n && 64 ≤ i

theorem maskless_of_masked {v : VInstr} {n i : Nat} (h : n ≤ 64 ∨ i < 64 ∨ v.pred = 0) : maskless v n i = false := by
  unfold maskless
  obtain h | h | h := h
  · simp [h.not_gt]
  · simp [h.not_ge]
  · simp [h]

/-- Lane `i` as it is written: what was computed, or an open value where the lane has no mask bit. -/
def laneWritten (s : State) (v : VInstr) (n : Nat) (val : Nat → Nat) (i : Nat) : Nat :=
  if maskless v n i then Config.freeValue (s.free + i) else val i

/-- Lanes without a mask bit occur only where a predicate stands over more than 64 lanes. -/
theorem map_laneWritten (s : State) (v : VInstr) (n : Nat) (val : Nat → Nat) :
    (if (v.pred ≠ 0 && 64 < n : Bool) then
      (List.range n).map (fun i => if 64 ≤ i then Config.freeValue (s.free + i) else ((List.range n).map val).getD i 0)
    else (List.range n).map val) = (List.range n).map (laneWritten s v n val) := by
  split
  case isTrue hwide =>
    refine List.map_congr_left fun i hi => ?_
    rw [getD_map_range (List.mem_range.1 hi), laneWritten, maskless, hwide]
    simp only [Bool.true_and, decide_eq_true_eq]
  case isFalse hmasked =>
    refine List.map_congr_left fun i _ => ?_
    rw [laneWritten, maskless, Bool.eq_false_of_not_eq_true hmasked]
    rfl

/-- A result of lanes is one pending write of DST (R306, R310, R311, R317). -/
theorem vecIssue_of_lanes {s : State} {p k op a w base n : Nat} {v : VInstr} {val : Nat → Nat} (hop : op < 0x70)
    (hout : podResult s k op v = .lanes w base ((List.range n).map val)) :
    vecIssue s p k op v a = addResult { s with free := s.free + 128 } k a (a + opLatency op)
      (.entry v.dst (BitVec.ofNat 1024 (packLanes w ((List.range n).map (laneWritten s v n val)) * 2 ^ (8 * base)))
        (laneBytes w base ((List.range n).map fun i => maskless v n i || laneOn v (s.pod k).qMask i)) (vecPoison (s.pod k) op v)) := by
  have hrecv : op ≠ 0x70 := by omega
  have hsend : op ≠ 0x71 := by omega
  have hemit : op ≠ 0x7F := by omega
  unfold podResult at hout
  simp only [vecIssue, hrecv, hsend, hemit, if_false, hout, List.length_map, List.length_range, map_laneWritten]
  rfl

/-- Where every lane has a mask bit, exactly the computed lanes are left. -/
theorem vecRun_leaves {s : State} {p k op lat w n : Nat} {v : VInstr} {val : Nat → Nat} (hon : podOn s k = some p)
    (hvalid : vecValid op v = true) (hout : podResult s k op v = .lanes w 0 ((List.range n).map val)) (hn : n ≤ 64)
    (hop : op < 0x70 := by decide) (hlat : opLatency op = lat := by rfl) :
    vecRun op k v s = .next (note s (vecLeaves s p k op v lat w n val)) := by
  have hwritten : laneWritten s v n val = val := funext fun i => by rw [laneWritten, maskless_of_masked (.inl hn)]; rfl
  rw [vecRun_of_valid hon hvalid, vecIssue_of_lanes hop hout, hwritten, hlat, Nat.mul_zero, pow_zero, Nat.mul_one]
  simp only [maskless_of_masked (.inl hn), Bool.false_or]
  rfl

/-- The lanes of a narrow operation, at the width of its TYPE. -/
theorem vecRun_leaves_of_narrow {s : State} {p k op lat : Nat} {v : VInstr} {val : Nat → Nat} (hon : podOn s k = some p)
    (hvalid : vecValid op v = true) (hout : podResult s k op v = .lanes (widthOf v.ty) 0 ((List.range (lanesOf v.ty)).map val))
    (hnarrow : opNarrow op = true := by rfl) (hop : op < 0x70 := by decide) (hlat : opLatency op = lat := by rfl) :
    vecRun op k v s = .next (note s (vecLeaves s p k op v lat (widthOf v.ty) (lanesOf v.ty) val)) :=
  vecRun_leaves hon hvalid hout (lanesOf_le_of_narrow hvalid hnarrow) hop hlat

/-- Lanes of which the first is `x`, and lane `i + 1` is `f i`. -/
def headLane (x : Nat) (f : Nat → Nat) (i : Nat) : Nat := if i = 0 then x else f (i - 1)

theorem cons_map_range {n : Nat} (hn : 0 < n) (x : Nat) (f : Nat → Nat) :
    x :: (List.range (n - 1)).map f = (List.range n).map (headLane x f) := by
  obtain ⟨m, rfl⟩ := Nat.exists_eq_add_of_lt hn
  rw [Nat.zero_add, Nat.add_sub_cancel, List.range_succ_eq_map, List.map_cons, List.map_map]
  rfl

theorem podResult_rsum (s : State) (k : Nat) (v : VInstr) : podResult s k 0x40 v = .lanes (widthOf v.ty) 0 ((List.range (lanesOf v.ty)).map
    (headLane (sumTree 7 v.ty v.sat (lanesOf v.ty / 2) ((List.range (lanesOf v.ty)).map (vecSrc s k v.ty v.a))) fun _ => 0)) := by
  rw [← cons_map_range (lanesOf_pos v.ty), List.map_const', List.length_range]
  rfl

/-- RMAX and RMIN leave the extremum in lane 0 and open values above it (R312). -/
theorem podResult_extremum {op kind : Nat} (hop : op = 0x41 ∧ kind = 6 ∨ op = 0x42 ∧ kind = 7) (s : State) (k : Nat) (v : VInstr) :
    podResult s k op v = .lanes (widthOf v.ty) 0 ((List.range (lanesOf v.ty)).map
      (headLane (extremum kind v.ty ((List.range (lanesOf v.ty)).map (vecSrc s k v.ty v.a)) 0) fun i => Config.freeValue (s.free + i))) := by
  rw [← cons_map_range (lanesOf_pos v.ty)]
  obtain ⟨rfl, rfl⟩ | ⟨rfl, rfl⟩ := hop <;> rfl

theorem podResult_rargmax (s : State) (k : Nat) (v : VInstr) : podResult s k 0x43 v = .lanes 32 0 ((List.range 32).map
    (headLane (argMax v.ty ((List.range (lanesOf v.ty)).map (vecSrc s k v.ty v.a))) fun i => Config.freeValue (s.free + i))) := by
  rw [← cons_map_range (by decide : 0 < 32)]
  rfl

/-- EXP2 to ERF compute each lane from the same lane of a (R312, R314). -/
theorem podResult_special {op : Nat} (hlo : 0x50 ≤ op) (hhi : op ≤ 0x55) (s : State) (k : Nat) (v : VInstr) :
    podResult s k op v = .lanes (widthOf v.ty) 0
      ((List.range (lanesOf v.ty)).map fun i => specialLane op v.ty v.sat (vecSrc s k v.ty v.a i)) := by
  obtain rfl | rfl | rfl | rfl | rfl | rfl : op = 0x50 ∨ op = 0x51 ∨ op = 0x52 ∨ op = 0x53 ∨ op = 0x54 ∨ op = 0x55 := by omega
  all_goals rfl

/-- The lanes that FUNNEL leaves; beyond both sources they are open (R312). -/
def funnelLane (s : State) (k : Nat) (v : VInstr) (i : Nat) : Nat :=
  if i + v.imm < lanesOf v.ty then vecSrc s k v.ty v.a (i + v.imm)
  else if i + v.imm < 2 * lanesOf v.ty then vecSrc s k v.ty v.b (i + v.imm - lanesOf v.ty)
  else Config.freeValue (s.free + i)

theorem podResult_funnel (s : State) (k : Nat) (v : VInstr) :
    podResult s k 0x62 v = .lanes (widthOf v.ty) 0 ((List.range (lanesOf v.ty)).map (funnelLane s k v)) := rfl

theorem podResult_cmp (s : State) (k : Nat) (v : VInstr) : podResult s k 0x20 v = .mask (v.imm % 4)
    ((List.range (lanesOf v.ty)).map fun i => cmpLane v.ty (v.imm / 4) (vecSrc s k v.ty v.a i) (vecSrc s k v.ty v.b i)) := rfl

/-- CVT packs its lanes at the place that IMM gives (R312). -/
theorem podResult_cvt (s : State) (k : Nat) (v : VInstr) : podResult s k 0x30 v =
    .lanes (widthOf (v.imm % 8)) (v.imm / 16 * lanesOf v.ty * (widthOf (v.imm % 8) / 8))
      ((List.range (lanesOf v.ty)).map fun i => cvtLane v.ty (v.imm % 8) v.sat (bitOf v.imm 3) (vecSrc s k v.ty v.a i)) := rfl

theorem testBit_foldl_or_two_pow (i : Nat) : ∀ (l : List Nat) (m : Nat),
    (l.foldl (fun m j => m ||| 2 ^ j) m).testBit i = (m.testBit i || decide (i ∈ l))
  | [], m => by simp
  | j :: r, m => by
    rw [List.foldl_cons, testBit_foldl_or_two_pow i r, Nat.testBit_or, Nat.testBit_two_pow]
    simp [Bool.or_assoc, eq_comm]

theorem testBit_maskOf (l : List Nat) (i : Nat) : (maskOf l).testBit i = decide (i ∈ l) := by
  rw [maskOf, testBit_foldl_or_two_pow, Nat.zero_testBit, Bool.false_or]

/-- A lane mask of the lanes of `n` for which `c` holds has their bits. -/
theorem getLsbD_maskOf_filter {n i : Nat} (c : Nat → Bool) (hn : n ≤ 64) (hi : i < n) :
    (BitVec.ofNat 64 (maskOf ((List.range n).filter c))).getLsbD i = c i := by
  have hmask : i < 64 := by omega
  rw [BitVec.getLsbD_ofNat, testBit_maskOf]
  simp [hmask, hi]

/-- A comparison is one pending write of a lane mask (R310, R312). -/
theorem vecIssue_of_mask {s : State} {p k op a q n : Nat} {v : VInstr} {c : Nat → Bool} (hop : op < 0x70)
    (hout : podResult s k op v = .mask q ((List.range n).map c)) :
    vecIssue s p k op v a = addResult { s with free := s.free + 128 } k a (a + opLatency op)
      (.mask q (BitVec.ofNat 64 (maskOf ((List.range n).filter c)))
        (BitVec.ofNat 64 (maskOf ((List.range n).filter (laneOn v (s.pod k).qMask))))) := by
  have hrecv : op ≠ 0x70 := by omega
  have hsend : op ≠ 0x71 := by omega
  have hemit : op ≠ 0x7F := by omega
  have hbits : (List.range n).filter (fun i => ((List.range n).map c).getD i false) = (List.range n).filter c :=
    List.filter_congr fun i hi => by simp [List.mem_range.1 hi]
  unfold podResult at hout
  simp only [vecIssue, hrecv, hsend, hemit, if_false, hout, List.length_map, List.length_range, hbits]
  rfl

/-- Settles O24: an operation's lanes or mask are one pending write, and RECV, SEND and EMIT act by themselves. -/
theorem vectorReductionsFunctionsAndPermutes : Obligations.VectorReductionsFunctionsAndPermutes := by
  unfold Obligations.VectorReductionsFunctionsAndPermutes
  refine ⟨?unpack, ?rsum, ?rmax, ?rmin, ?rargmax, ?exp2, ?log2, ?rcp, ?rsqrt, ?tanh, ?erf, ?perm, ?rot, ?funnel, ?zip, ?unzip, ?cmp, ?cvt,
    ?recv, ?send, ?emit, ?invalid⟩
  case unpack =>
    intro k p v s hon hvalid
    exact ⟨_, fun _ => rfl, vecRun_leaves hon hvalid rfl (by decide)⟩
  case rsum =>
    intro k p v s hon hvalid
    exact ⟨_, fun _ => rfl, vecRun_leaves_of_narrow hon hvalid (podResult_rsum s k v)⟩
  case rmax =>
    intro k p v s hon hvalid
    refine ⟨_, ?_, vecRun_leaves_of_narrow hon hvalid (podResult_extremum (.inl ⟨rfl, rfl⟩) s k v)⟩
    rfl
  case rmin =>
    intro k p v s hon hvalid
    refine ⟨_, ?_, vecRun_leaves_of_narrow hon hvalid (podResult_extremum (.inr ⟨rfl, rfl⟩) s k v)⟩
    rfl
  case rargmax =>
    intro k p v s hon hvalid
    exact ⟨_, rfl, vecRun_leaves hon hvalid (podResult_rargmax s k v) (by decide)⟩
  case exp2 =>
    intro k p v s hon hvalid
    exact ⟨_, fun _ => rfl, vecRun_leaves_of_narrow hon hvalid (podResult_special (by decide) (by decide) s k v)⟩
  case log2 =>
    intro k p v s hon hvalid
    exact ⟨_, fun _ => rfl, vecRun_leaves_of_narrow hon hvalid (podResult_special (by decide) (by decide) s k v)⟩
  case rcp =>
    intro k p v s hon hvalid
    exact ⟨_, fun _ => rfl, vecRun_leaves_of_narrow hon hvalid (podResult_special (by decide) (by decide) s k v)⟩
  case rsqrt =>
    intro k p v s hon hvalid
    exact ⟨_, fun _ => rfl, vecRun_leaves_of_narrow hon hvalid (podResult_special (by decide) (by decide) s k v)⟩
  case tanh =>
    intro k p v s hon hvalid
    exact ⟨_, fun _ => rfl, vecRun_leaves_of_narrow hon hvalid (podResult_special (by decide) (by decide) s k v)⟩
  case erf =>
    intro k p v s hon hvalid
    exact ⟨_, fun _ => rfl, vecRun_leaves_of_narrow hon hvalid (podResult_special (by decide) (by decide) s k v)⟩
  case perm =>
    intro k p v s hon hvalid
    exact ⟨_, fun _ => rfl, vecRun_leaves_of_narrow hon hvalid rfl⟩
  case rot =>
    intro k p v s hon hvalid
    exact ⟨_, fun _ => rfl, vecRun_leaves_of_narrow hon hvalid rfl⟩
  case funnel =>
    intro k p v s hon hvalid
    refine ⟨funnelLane s k v, fun i hi => ?_, vecRun_leaves_of_narrow hon hvalid (podResult_funnel s k v)⟩
    simp only [funnelLane, hi, if_true]
  case zip =>
    intro k p v s hon hvalid
    exact ⟨_, fun _ => rfl, vecRun_leaves_of_narrow hon hvalid rfl⟩
  case unzip =>
    intro k p v s hon hvalid
    exact ⟨_, fun _ => rfl, vecRun_leaves_of_narrow hon hvalid rfl⟩
  case cmp =>
    intro k p v s hon hvalid
    have hn : lanesOf v.ty ≤ 64 := lanesOf_le_of_narrow hvalid rfl
    refine ⟨_, _, fun i hi => getLsbD_maskOf_filter (fun i => cmpLane v.ty (v.imm / 4) (vecSrc s k v.ty v.a i) (vecSrc s k v.ty v.b i)) hn hi,
      fun i hi => getLsbD_maskOf_filter _ hn hi, ?_⟩
    show vecRun 0x20 k v s = _
    rw [vecRun_of_valid hon hvalid, vecIssue_of_mask (by decide) (podResult_cmp s k v)]
    rfl
  case cvt =>
    intro k p v s hon hvalid
    refine ⟨laneWritten s v (lanesOf v.ty) fun i => cvtLane v.ty (v.imm % 8) v.sat (bitOf v.imm 3) (vecSrc s k v.ty v.a i),
      fun i => maskless v (lanesOf v.ty) i || laneOn v (s.pod k).qMask i, _, _, rfl, rfl, fun i hi => ?_, ?_⟩
    · simp only [laneWritten, maskless_of_masked (.inr hi), Bool.false_or, Bool.false_eq_true, if_false, and_self]
    · show vecRun 0x30 k v s = _
      rw [vecRun_of_valid hon hvalid, vecIssue_of_lanes (by decide) (podResult_cvt s k v)]
      rfl
  case recv =>
    intro k p v l s hon hvalid harrives
    show vecRun 0x70 k v s = _
    rw [vecRun_of_valid hon hvalid]
    simp [vecIssue, harrives]
  case send =>
    intro k p v s hon hvalid
    exact vecRun_of_valid hon hvalid
  case emit =>
    intro k p v s hon hvalid
    exact ⟨_, rfl, vecRun_of_valid hon hvalid⟩
  case invalid =>
    intro k v s hinvalid
    exact vecRun_of_invalid hinvalid

end Sys2Proof.Machine
end

section
/-! SUPPORT. How a Sprout core takes a full instruction whose memory has no ECC error, and what an SP_ access leaves (R357, R358, R361, R363). -/

namespace Sys2Proof.Machine

theorem onCore_of_running {s : State} {rg p : Nat} {f : Nat → State → State} (hcore : coreOf s rg = some p)
    (hrun : (s.sprout rg).run = .running) : onCore rg s f = .next (note s (f p s)) := by
  simp only [onCore, hcore, hrun, if_true, nextN]

theorem touchMem_of_no_ecc {s : State} {rg p a n : Nat} (hecc : (s.sprout rg).ecc = []) : touchMem s rg p a n = (true, s) := by
  simp [touchMem, hecc, tfind]

/-- Two low bits set mark a full instruction, which is executed as its four bytes spell it. -/
theorem coreStep_of_full {s : State} {rg p word : Nat} (hecc : (s.sprout rg).ecc = []) (hpc : (s.sprout rg).pc.toNat + 4 ≤ 0x20000)
    (hfull : leNat (mread 0 (s.sprout rg).mem (s.sprout rg).pc.toNat 2) % 4 = 3)
    (hword : leNat (mread 0 (s.sprout rg).mem (s.sprout rg).pc.toNat 4) = word) : coreStep s rg p = coreExec s rg p word 4 word := by
  have hhalf : ¬ coreMem < (s.sprout rg).pc.toNat + 2 := by unfold coreMem; omega
  have hwhole : ¬ coreMem < (s.sprout rg).pc.toNat + 4 := by unfold coreMem; omega
  simp only [coreStep, touchMem_of_no_ecc hecc, hhalf, hwhole, hfull, hword, ne_eq, not_true_eq_false, Bool.not_true, Bool.false_eq_true, if_false]

/-- The word with `u` in bits 31:20, registers `rs1` and `rd`, funct3 0 and opcode `op`. -/
def wordOf (u rs1 rd op : Nat) : Nat := u * 2 ^ 20 + rs1 * 2 ^ 15 + rd * 2 ^ 7 + op

section
variable {u rs1 rd op : Nat} (hrs1 : rs1 < 32) (hrd : rd < 32) (hop : op < 128)
include hop
theorem wordOf_opcode : wordOf u rs1 rd op % 128 = op := by unfold wordOf; omega
include hrd
theorem wordOf_rd : bitsOf (wordOf u rs1 rd op) 11 7 = rd := by unfold wordOf bitsOf; omega
theorem wordOf_funct3 : bitsOf (wordOf u rs1 rd op) 14 12 = 0 := by unfold wordOf bitsOf; omega
include hrs1
theorem wordOf_rs1 : bitsOf (wordOf u rs1 rd op) 19 15 = rs1 := by unfold wordOf bitsOf; omega
theorem wordOf_imm (hu : u < 4096) : bitsOf (wordOf u rs1 rd op) 31 20 = u := by unfold wordOf bitsOf; omega
theorem wordOf_rs2 (hu : u < 32) : bitsOf (wordOf u rs1 rd op) 24 20 = u := by unfold wordOf bitsOf; omega
theorem wordOf_funct7 (hu : u < 32) : bitsOf (wordOf u rs1 rd op) 31 25 = 0 := by unfold wordOf bitsOf; omega
end

theorem coreExec_addi {s : State} {rg p imm rs1 rd raw : Nat} (himm : imm < 4096) (hrs1 : rs1 < 32) (hrd : rd < 32) :
    coreExec s rg p (wordOf imm rs1 rd 0x13) 4 raw =
      retireTo (setX s rg rd (getX s rg rs1 + BitVec.ofInt 32 (sext 12 imm))) rg ((s.sprout rg).pc + 4) 1 := by
  have hop : 0x13 < 128 := by decide
  simp [coreExec, rvAlu, wordOf_opcode hop, wordOf_rd hrd hop, wordOf_funct3 hrd hop, wordOf_rs1 hrs1 hrd hop, wordOf_imm hrs1 hrd hop himm]

theorem coreExec_add {s : State} {rg p rs2 rs1 rd raw : Nat} (hrs2 : rs2 < 32) (hrs1 : rs1 < 32) (hrd : rd < 32) :
    coreExec s rg p (wordOf rs2 rs1 rd 0x33) 4 raw =
      retireTo (setX s rg rd (getX s rg rs1 + getX s rg rs2)) rg ((s.sprout rg).pc + 4) 1 := by
  have hop : 0x33 < 128 := by decide
  simp [coreExec, rvAlu, wordOf_opcode hop, wordOf_rd hrd hop, wordOf_funct3 hrd hop, wordOf_rs1 hrs1 hrd hop, wordOf_rs2 hrs1 hrd hop hrs2,
    wordOf_funct7 hrs1 hrd hop hrs2]

theorem popInbox_cons {s : State} {rg p : Nat} {w : W64} {r : List W64} (hinbox : (s.pt p).run.inbox = w :: r) :
    popInbox s rg p = some (BitVec.ofNat 32 w.toNat, (s.setPt p { s.pt p with run := { (s.pt p).run with inbox := r } }).setSprout rg
      { s.sprout rg with inboxHi := BitVec.ofNat 32 (w.toNat / 2 ^ 32) }) := by
  simp only [popInbox, hinbox, State.setPt_get_sprout]

theorem popInbox_nil {s : State} {rg p : Nat} (hinbox : (s.pt p).run.inbox = []) : popInbox s rg p = none := by
  simp only [popInbox, hinbox]

/-- Settles O27: a full instruction is executed as its fields say, and each SP_ access finishes or blocks on what its queue holds. -/
theorem sproutInstructionsAndQueues : Obligations.SproutInstructionsAndQueues := by
  unfold Obligations.SproutInstructionsAndQueues
  refine ⟨?addi, ?add, ?steer, ?steerBlocks, ?steerUnblock, ?inboxLo, ?inboxLoBlocks, ?inboxCtrl, ?schedFcLo, ?wfiWake⟩
  case addi =>
    intro rg p rd rs1 imm s hcore hrun hecc hpc hrd hrs1 himm hword hlow
    have hstep := coreStep_of_full (p := p) (word := wordOf imm rs1 rd 0x13) hecc hpc (by omega) hword
    show execSproutInstruction rg s = _
    rw [execSproutInstruction, onCore_of_running hcore hrun, hstep, coreExec_addi himm hrs1 hrd]
  case add =>
    intro rg p rd rs1 rs2 s hcore hrun hecc hpc hrd hrs1 hrs2 hword hlow
    have hstep := coreStep_of_full (p := p) (word := wordOf rs2 rs1 rd 0x33) hecc hpc (by omega) hword
    show execSproutInstruction rg s = _
    rw [execSproutInstruction, onCore_of_running hcore hrun, hstep, coreExec_add hrs2 hrs1 hrd]
  case steer =>
    intro rg p w s hcore hrun hfree
    refine ⟨_, _, rfl, rfl, ?_⟩
    show execSpSteer rg w s = _
    rw [execSpSteer, onCore_of_running hcore hrun, if_neg hfree.ne', pushSteer]
  case steerBlocks =>
    intro rg p w s hcore hrun hfull
    show execSpSteer rg w s = _
    rw [execSpSteer, onCore_of_running hcore hrun, if_pos hfull]
  case steerUnblock =>
    intro rg p rd w s hcore hrun hfree
    show execSpSteerUnblock rg s = _
    simp only [execSpSteerUnblock, hcore, hrun, hfree.ne', if_false]
  case inboxLo =>
    intro rg rd p w r s hcore hrun hinbox
    refine ⟨_, rfl, ?_⟩
    show execSpInboxLo rg rd s = _
    simp only [execSpInboxLo, hcore, hrun, popInbox_cons hinbox, State.setPt_get_sprout]
  case inboxLoBlocks =>
    intro rg rd p s hcore hrun hinbox
    show execSpInboxLo rg rd s = _
    simp only [execSpInboxLo, hcore, hrun, popInbox_nil hinbox]
  case inboxCtrl =>
    intro rg p v s hcore hrun hclear
    show execSpInboxCtrl rg v s = _
    rw [execSpInboxCtrl, onCore_of_running hcore hrun, clearOverrun, if_pos hclear]
  case schedFcLo =>
    intro rg rd p s hcore hrun
    refine ⟨_, rfl, ?_⟩
    show execSpSchedFcLo rg rd s = _
    simp only [execSpSchedFcLo, onCore_of_running hcore hrun, readSched]
  case wfiWake =>
    intro rg p s hcore hrun hready
    show execWfiWake rg s = _
    simp only [execWfiWake, hcore, hrun, hready, decide_true, Bool.and_self, if_true]

end Sys2Proof.Machine
end

section
/-! SUPPORT. What keeps PART.CREATE from forming its partition, in the order of R418: its fields, the partition's state, the rectangle. -/

namespace Sys2Proof.Machine

theorem rectFits_iff {o w h : Nat} :
    rectFits o w h = true ↔ (o ≤ 15 ∧ 1 ≤ w ∧ 1 ≤ h) ∧ o % 4 + w ≤ 4 ∧ o / 4 + h ≤ 4 := by
  simp only [rectFits, Bool.and_eq_true, decide_eq_true_eq, Nat.lt_succ_iff, and_assoc]

/-- A region is carried exactly where one of the sixteen partitions that are not FREE holds it. -/
theorem regionPart_isSome_iff {s : State} {g : Nat} :
    (s.regionPart g).isSome = true ↔ ∃ q < 16, (s.pt q).state ≠ .free ∧ g ∈ (s.pt q).regions := by
  simp [State.regionPart, List.find?_isSome]

section
variable {s : State} {o w h g : Nat}

theorem rectRefusal_of_carried (hg : g ∈ rectRegions o w h) (hcarried : (s.regionPart g).isSome = true) :
    rectRefusal s o w h = some 0x0401 :=
  if_pos (List.any_eq_true.2 ⟨g, hg, hcarried⟩)

theorem rectRefusal_of_unserviceable (hnone : ∀ r ∈ rectRegions o w h, s.regionPart r = none) (hg : g ∈ rectRegions o w h)
    (hserv : serviceability (s.rgn g) ≠ 0) : rectRefusal s o w h = some 0x030A := by
  have hfree : ¬ (rectRegions o w h).any (fun r => (s.regionPart r).isSome) = true := by
    rw [List.any_eq_true]
    rintro ⟨r, hr, hcarried⟩
    rw [hnone r hr] at hcarried
    cases hcarried
  have hbad : (rectRegions o w h).any (fun r => serviceability (s.rgn r) ≠ 0) = true :=
    List.any_eq_true.2 ⟨g, hg, decide_eq_true hserv⟩
  exact (if_neg hfree).trans (if_pos hbad)
end

section
variable {fn : Fn} {c : Consumed} {s : State} (hcmd : startable s fn 3 1 = some c)
include hcmd

theorem execPartCreate_of_badParam (hbad : 15 < c.req.partition ∨ rectFits (c.u8 0) (c.u8 1) (c.u8 2) ≠ true) :
    execPartCreate fn s = .next (finishSt s fn c.id 0x0005) := by
  rw [execPartCreate, withCmd_some hcmd]
  dsimp only
  rw [if_pos (by simpa using Or.inl hbad)]

variable (hp : c.req.partition ≤ 15) (hfits : rectFits (c.u8 0) (c.u8 1) (c.u8 2) = true) (htenant : c.u8 3 ≤ 1)
include hp hfits htenant

theorem execPartCreate_of_badState (hstate : (s.pt c.req.partition).state ≠ .free) :
    execPartCreate fn s = .next (finishSt s fn c.id 0x0008) := by
  rw [execPartCreate, withCmd_some hcmd]
  dsimp only
  rw [if_neg (by simp [hp, hfits, htenant]), if_pos hstate]

/-- A rectangle that is refused is answered so at once, unless the refusal is one that a region map under way may still lift (R278). -/
theorem execPartCreate_of_rectRefusal {v : Nat} (hfree : (s.pt c.req.partition).state = .free)
    (hrect : rectRefusal s (c.u8 0) (c.u8 1) (c.u8 2) = some v)
    (hnow : v = 0x0401 ∨ mapDue s (rectRegions (c.u8 0) (c.u8 1) (c.u8 2)) = false) :
    execPartCreate fn s = .next (finishSt s fn c.id v) := by
  rw [execPartCreate, withCmd_some hcmd]
  dsimp only
  rw [if_neg (by simp [hp, hfits, htenant]), if_neg (not_not_intro hfree), hrect, if_neg]
  obtain rfl | hmap := hnow
  · simp
  · simp [hmap]
end

/-- Settles O57: each refusal's hypotheses fail every check before it, and a carried region precedes one that is not SERVICEABLE. -/
theorem partCreateIsRefusedInOrder : Obligations.PartCreateIsRefusedInOrder := by
  unfold Obligations.PartCreateIsRefusedInOrder
  refine ⟨?badParam, ?badState, ?assigned, ?unserviceable⟩
  case badParam =>
    intro fn c s hcmd hbad
    have hout : 15 < c.req.partition ∨ rectFits (c.u8 0) (c.u8 1) (c.u8 2) ≠ true := by
      rw [Ne, rectFits_iff]; omega
    exact execPartCreate_of_badParam hcmd hout
  case badState =>
    intro fn c s hcmd hp ⟨ho, hw, hh, htenant⟩ hgrid hstate
    exact execPartCreate_of_badState hcmd hp (rectFits_iff.2 ⟨⟨ho, hw, hh⟩, hgrid⟩) htenant hstate
  case assigned =>
    intro fn c g q s hcmd hp ⟨ho, hw, hh, htenant⟩ hgrid hfree hg hq hheld
    have hcarried : (s.regionPart g).isSome = true := regionPart_isSome_iff.2 ⟨q, q.isLt, hq, hheld⟩
    exact execPartCreate_of_rectRefusal hcmd hp (rectFits_iff.2 ⟨⟨ho, hw, hh⟩, hgrid⟩) htenant hfree
      (rectRefusal_of_carried hg hcarried) (.inl rfl)
  case unserviceable =>
    intro fn c g s hcmd hp ⟨ho, hw, hh, htenant⟩ hgrid hfree hnone hg hserv hmap
    exact execPartCreate_of_rectRefusal hcmd hp (rectFits_iff.2 ⟨⟨ho, hw, hh⟩, hgrid⟩) htenant hfree
      (rectRefusal_of_unserviceable hnone hg hserv) (.inr hmap)

end Sys2Proof.Machine
end

section
/-! SUPPORT. Commands that open, close and query a channel; halves of a cross-device one, paired, mismatched or lost (R471–R477, R483, R491). -/

namespace Sys2Proof.Machine

theorem execChanOpen_of_local {fn : Fn} {c : Consumed} {ch : Chan} {k : Nat} {s : State} (hcmd : startable s fn 5 1 = some c)
    (hcheck : chanOpenCheck s fn c.req.payload = .inr ch) (hfree : freeNumber s = some k) (hlocal : ch.cross = false) :
    execChanOpen fn s = .next (finishOk (chanEvent (s.setChan k ch) k 0x0501 ch []) fn c.id (le 1 k ++ le 1 2)) := by
  rw [execChanOpen, withCmd_some hcmd]
  simp [hcheck, hfree, hlocal]

/-- The half stays PENDING until its peer's record arrives (R475). -/
theorem execChanOpen_of_cross {fn : Fn} {c : Consumed} {ch : Chan} {k : Nat} {s : State} (hcmd : startable s fn 5 1 = some c)
    (hcheck : chanOpenCheck s fn c.req.payload = .inr ch) (hfree : freeNumber s = some k) (hcross : ch.cross = true) :
    execChanOpen fn s = .next (finishOk (sendPair (s.setChan k { ch with state := .pending }) k { ch with state := .pending }) fn c.id
      (le 1 k ++ le 1 1)) := by
  rw [execChanOpen, withCmd_some hcmd]
  simp [hcheck, hfree, hcross]

/-- With both ends on this device no CLOSE record is due: the number is freed and PF0 or the VF told (R477). -/
theorem execChanClose_of_local {fn : Fn} {c : Consumed} {s : State} (hcmd : startable s fn 5 2 = some c)
    (hopen : (s.chan (c.u8 0)).state ≠ .free) (hentitled : entitled (s.chan (c.u8 0)) fn = true)
    (hlocal : (s.chan (c.u8 0)).cross = false) :
    execChanClose fn s =
      let k := c.u8 0
      let ch := s.chan k
      .next (finishOk (raiseAt (s.freeChan k) fn
          { partition := ownPart fn, code := 0x0502, tag := 0, time := s.time
            payload := fields 40 [(0, le 1 k), (1, le 1 ch.closeCause), (4, le 1 0)] })
        fn c.id (le 1 (sat 255 (ch.queue.length + ch.transit.length + ch.early.length)))) := by
  rw [execChanClose, withCmd_some hcmd]
  simp [hopen, hentitled, hlocal]

theorem execChanQuery_of_entitled {fn : Fn} {c : Consumed} {s : State} (hcmd : startable s fn 5 3 = some c)
    (hopen : (s.chan (c.u8 0)).state ≠ .free) (hentitled : entitled (s.chan (c.u8 0)) fn = true) :
    execChanQuery fn s = .next (finishOk s fn c.id (chanQueryBytes (c.u8 0) (s.chan (c.u8 0)))) := by
  rw [execChanQuery, withCmd_some hcmd]
  simp [hopen, hentitled]

/-- A PENDING half that a peer's pairing record names: each of its ends is the one that the record says (R476). -/
def pairFits (m : MsgRec) (c : Chan) : Bool :=
  let l := if bitOf m.c 0 then c.receiver else c.sender
  let r := if bitOf m.c 0 then c.sender else c.receiver
  c.state = .pending && r.kind = .remote && r.linkId = m.src && r.owner = m.srcPart && r.port = m.a && l.kind = .sprout
    && l.owner = m.dstPart && l.port = m.b

/-- Half `k` opens where the record's MODE and DEPTH are its own, and otherwise closes with cause 3 (R476). -/
def pairTaken (s : State) (m : MsgRec) (k : Nat) (c : Chan) : State :=
  let s1 := sendPair s k { c with peerChan := m.peer }
  if c.nack = bitOf m.c 1 ∧ c.depth = bitsOf m.c 15 8 then
    let c1 := { c with state := .open, peerChan := m.peer }
    chanEvent (s1.setChan k c1) k 0x0501 c1 []
  else
    let c1 := { c with state := .closed, peerChan := m.peer, closeCause := 3, senderGone := c.sender.kind = .remote
                       receiverGone := c.receiver.kind = .remote }
    closedEvent (s1.setChan k c1) k c1 3 0x0501

/-- A record that the peer table admits is taken by the first half that it fits (R476, R574). -/
theorem execPairRecordReceive_of_fits {m : MsgRec} {k : Nat} {c : Chan} {s : State} (hrun : s.faults.stopped = false)
    (hadmit : peerAdmits s m.dstPart m.src m.srcPart = true) (hfirst : s.chans.chan.find? (fun e => pairFits m e.2) = some (k, c)) :
    execPairRecordReceive m s = .next (pairTaken s m k c) := by
  unfold pairFits at hfirst
  rw [execPairRecordReceive, if_neg (by simp [hrun, hadmit])]
  dsimp only at hfirst ⊢
  rw [hfirst]
  simp only [pairTaken, Bool.and_eq_true, decide_eq_true_eq, apply_ite Host.Outcome.next]

section
variable {s : State} {m : MsgRec} {k : Nat} {c : Chan}

theorem pairTaken_of_agreeing (hmode : c.nack = bitOf m.c 1) (hdepth : c.depth = bitsOf m.c 15 8) :
    pairTaken s m k c =
      let c1 := { c with state := .open, peerChan := m.peer }
      chanEvent ((sendPair s k { c with peerChan := m.peer }).setChan k c1) k 0x0501 c1 [] :=
  if_pos ⟨hmode, hdepth⟩

/-- Of a half that does not match, the far end counts as gone and the end on this device survives (R476). -/
theorem pairTaken_of_depth_mismatch (hdepth : c.depth ≠ bitsOf m.c 15 8) (hsender : c.sender.kind = .remote)
    (hreceiver : c.receiver.kind = .sprout) :
    pairTaken s m k c =
      let c1 := { c with state := .closed, peerChan := m.peer, closeCause := 3, senderGone := true, receiverGone := false }
      closedEvent ((sendPair s k { c with peerChan := m.peer }).setChan k c1) k c1 3 0x0501 := by
  rw [pairTaken, if_neg fun h => hdepth h.2]
  simp [hsender, hreceiver]
end

theorem cross_of_remote_sender {c : Chan} (hsender : c.sender.kind = .remote) : c.cross = true := by
  simp [Chan.cross, hsender]

theorem execCloseRecordReceive_of_sender {m : MsgRec} {s : State} (hrun : s.faults.stopped = false)
    (hopen : (s.chan m.chan).state ≠ .free)
    (hsender : (s.chan m.chan).sender = { kind := .remote, owner := m.srcPart, port := m.b, linkId := m.src })
    (hreceiver : (s.chan m.chan).receiver.kind = .sprout) :
    execCloseRecordReceive m s = .next (loseEnds s m.chan true false m.a) := by
  have hcross : (s.chan m.chan).cross = true := cross_of_remote_sender (by rw [hsender])
  simp [execCloseRecordReceive, hrun, hopen, hcross, hsender, hreceiver]

theorem execChannelRouteTimeout_of_sender {k : Fin 256} {s : State} (hopen : (s.chan k).state ≠ .free)
    (hsender : (s.chan k).sender.kind = .remote) (hreceiver : (s.chan k).receiver.kind = .sprout)
    (hroute : routePort s (s.chan k).sender.linkId k = none) :
    execChannelRouteTimeout k s = .next (loseEnds s k true false 4) := by
  simp [execChannelRouteTimeout, hopen, cross_of_remote_sender hsender, hsender, hreceiver, hroute]

/-- An OPEN half loses its far sender: no CLOSE goes back, and the surviving end, a Sprout core's, has no vector to raise (R491). -/
theorem loseEnds_of_remote_sender {s : State} {k : Nat} (cause : Nat) (hopen : (s.chan k).state = .open)
    (hsender : (s.chan k).sender.kind = .remote) (hreceiver : (s.chan k).receiver.kind = .sprout)
    (hsenderStays : (s.chan k).senderGone = false) (hreceiverStays : (s.chan k).receiverGone = false) :
    loseEnds s k true false cause =
      let c1 := { s.chan k with state := .closed, closeCause := cause, senderGone := true, credits := 0, creditTransit := 0 }
      closedEvent (s.setChan k c1) k c1 cause 0x0501 := by
  simp [loseEnds, portIrq, Endpoint.isLocal, hopen, hsender, hreceiver, hsenderStays, hreceiverStays]

/-- Settles O32: each command passes its checks, and a record, a lost route or a gap finds its half and ends or opens it. -/
theorem channelsOpenCloseAndPair : Obligations.ChannelsOpenCloseAndPair := by
  unfold Obligations.ChannelsOpenCloseAndPair
  refine ⟨?openLocal, ?openCross, ?close, ?query, ?repeats, ?pairs, ?peerCloses, ?noRoute, ?gap, ?farEndLost⟩
  case openLocal => exact fun fn c ch k s => execChanOpen_of_local
  case openCross => exact fun fn c ch k s => execChanOpen_of_cross
  case close =>
    intro fn c s hcmd hopen hentitled hlocal
    exact ⟨_, _, _, rfl, rfl, rfl, execChanClose_of_local hcmd hopen hentitled hlocal⟩
  case query =>
    intro fn c s hcmd hopen hentitled
    exact ⟨_, rfl, execChanQuery_of_entitled hcmd hopen hentitled⟩
  case repeats =>
    intro k s hpending
    show execPairRecordRepeat k s = _
    rw [execPairRecordRepeat, if_pos hpending]
  case pairs =>
    intro m k c s hrun hadmit honly hpending hsends hsender hreceiver howner hport
    have hfits : pairFits m c = true := by
      simp [pairFits, hpending, hsends, hsender, hreceiver, howner, hport]
    have htaken : exec (.pairRecordReceive m) s = .next (pairTaken s m k c) :=
      execPairRecordReceive_of_fits hrun hadmit (by rw [honly]; exact List.find?_cons_of_pos hfits)
    refine ⟨_, rfl, fun hmode hdepth => ⟨_, rfl, ?_⟩, fun hdepth => ⟨_, rfl, ?_⟩⟩
    · rw [htaken, pairTaken_of_agreeing hmode hdepth]
    · rw [htaken, pairTaken_of_depth_mismatch hdepth (by rw [hsender]) hreceiver]
  case peerCloses => exact fun m s => execCloseRecordReceive_of_sender
  case noRoute => exact fun k s => execChannelRouteTimeout_of_sender
  case gap =>
    intro k s hopen hearly
    show execMsgGapTimeout k s = _
    rw [execMsgGapTimeout, if_neg (by simp [hopen, hearly])]
  case farEndLost =>
    intro k cause s hopen hsender hreceiver hsenderStays hreceiverStays
    exact ⟨_, rfl, loseEnds_of_remote_sender cause hopen hsender hreceiver hsenderStays hreceiverStays⟩

end Sys2Proof.Machine
end

section
/-! SUPPORT. HUSK.RESTORE of a VF: DENIED is the answer exactly where PART_MASK is not the bit of its own partition (R738). -/

namespace Sys2Proof.Machine

theorem ite_some_ne {p : Prop} [Decidable p] {o : Option Nat} {a v : Nat} (hcode : a ≠ v) (hrest : o ≠ some v) :
    (if p then some a else o) ≠ some v := by
  split
  · simpa using hcode
  · exact hrest

/-- The mask of a VF is the first check, and each of the nine after it has a status other than DENIED. -/
theorem restoreRefusal_eq_denied_iff {s : State} {fn : Nat} {c : Consumed} :
    restoreRefusal s fn c = some 0x0006 ↔ fn ≠ 0 ∧ c.u16 2 ≠ 2 ^ (fn - 1) := by
  by_cases hmask : fn ≠ 0 ∧ c.u16 2 ≠ 2 ^ (fn - 1)
  · have hdenied : restoreRefusal s fn c = some 0x0006 := if_pos (by simpa using hmask)
    exact iff_of_true hdenied hmask
  · refine iff_of_false ?_ hmask
    rw [restoreRefusal, if_neg (by simpa using hmask)]
    iterate 9 refine ite_some_ne (by decide) ?_
    exact (Option.some_ne_none _).symm

theorem execHuskRestore_of_refusal {fn : Fn} {c : Consumed} {s : State} {st : Nat} (hcmd : startable s fn 10 5 = some c)
    (hrefusal : restoreRefusal s fn c = some st) : execHuskRestore fn s = .next (finishSt s fn c.id st) := by
  rw [execHuskRestore, withCmd_some hcmd]
  simp only [hrefusal]

/-- Settles O54: a refusal ends the command with its status, and DENIED is the one for a mask not the VF's own. -/
theorem restoreOfAVfNamesItsOwnPartition : Obligations.RestoreOfAVfNamesItsOwnPartition := by
  unfold Obligations.RestoreOfAVfNamesItsOwnPartition
  refine ⟨?otherMask, ?ownMask⟩
  case otherMask =>
    intro fn c s hcmd hvf hmask
    exact execHuskRestore_of_refusal hcmd (restoreRefusal_eq_denied_iff.2 ⟨hvf.ne', hmask⟩)
  case ownMask =>
    intro fn c s hcmd _ hmask
    exact ⟨fun hdenied => (restoreRefusal_eq_denied_iff.1 hdenied).2 hmask, fun st => execHuskRestore_of_refusal hcmd⟩

end Sys2Proof.Machine
end

section
/-! SUPPORT. The counters of P0 to P15 and DEVICE against the module's: what an estimate moves between them (R801). -/

namespace Sys2Proof.Machine

/-- What the first `n` partitions' counters hold together. -/
def memberSum (t : Tab W64) (n : Nat) : W64 := (List.range n).foldl (fun a p => a + tget 0 t p) 0

theorem memberSum_succ (t : Tab W64) (n : Nat) : memberSum t (n + 1) = memberSum t n + tget 0 t n := by
  simp [memberSum, List.range_succ]

theorem memberSum_tset_of_le {t : Tab W64} {k : Nat} (v : W64) : ∀ {n : Nat}, n ≤ k → memberSum (tset t k v) n = memberSum t n
  | 0, _ => rfl
  | n + 1, hn => by
    rw [memberSum_succ, memberSum_succ, memberSum_tset_of_le v (by omega), tget_tset_other 0 t v (by omega)]

/-- A counter that grows by `v` raises the sum by `v`. -/
theorem memberSum_tset_add {t : Tab W64} {k : Nat} (v : W64) : ∀ {n : Nat}, k < n →
    memberSum (tset t k (tget 0 t k + v)) n = memberSum t n + v
  | n + 1, hn => by
    rw [memberSum_succ, memberSum_succ]
    obtain hlt | rfl := Nat.lt_succ_iff_lt_or_eq.1 hn
    · rw [memberSum_tset_add v hlt, tget_tset_other 0 t _ (by omega), add_right_comm]
    · rw [memberSum_tset_of_le _ le_rfl, tget_tset_self, BitVec.add_assoc]

/-- The members' counters sum to the module's. -/
def Power.Balanced (w : Power) : Prop := w.module = w.device + memberSum w.parts 16

theorem addJob_counters (w : Power) (p : Nat) (job : W32) (n : Nat) :
    (addJob w p job n).module = w.module ∧ (addJob w p job n).device = w.device ∧ (addJob w p job n).parts = w.parts := by
  unfold addJob
  dsimp only
  split_ifs <;> exact ⟨rfl, rfl, rfl⟩

/-- An estimate of DEVICE's own energy is counted for its engine alone. -/
theorem addEstimate_of_device (num den : Nat) (w : Power) {x : Estimate} (hx : 16 ≤ x.member) :
    (addEstimate num den w x).module = w.module ∧ (addEstimate num den w x).device = w.device ∧
      (addEstimate num den w x).parts = w.parts := by
  rw [addEstimate, if_pos hx]
  cases x.engine <;> exact ⟨rfl, rfl, rfl⟩

/-- An estimate of a partition's energy moves it from DEVICE to that partition. -/
theorem addEstimate_of_partition (num den : Nat) (w : Power) {x : Estimate} (hx : x.member < 16) :
    (addEstimate num den w x).module = w.module ∧
      (addEstimate num den w x).device = w.device - BitVec.ofNat 64 (x.energy * num / den) ∧
      (addEstimate num den w x).parts =
        tset w.parts x.member (tget 0 w.parts x.member + BitVec.ofNat 64 (x.energy * num / den)) := by
  rw [addEstimate, if_neg hx.not_ge]
  cases x.engine <;> exact addJob_counters _ _ _ _

theorem addEstimate_balanced (num den : Nat) (w : Power) (x : Estimate) (hw : w.Balanced) : (addEstimate num den w x).Balanced := by
  unfold Power.Balanced at *
  obtain hx | hx := Nat.lt_or_ge x.member 16
  · obtain ⟨hmodule, hdevice, hparts⟩ := addEstimate_of_partition num den w hx
    rw [hmodule, hdevice, hparts, memberSum_tset_add _ hx, hw, ← BitVec.add_assoc, add_right_comm, BitVec.sub_add_cancel]
  · obtain ⟨hmodule, hdevice, hparts⟩ := addEstimate_of_device num den w hx
    rw [hmodule, hdevice, hparts, hw]

/-- The input energy enters the module's counter and DEVICE's alike, and each estimate keeps the balance. -/
theorem drawEnergy_balanced {s : State} (l : List Estimate) (hs : s.pow.Balanced) : (drawEnergy s l).Balanced := by
  have hinput : Power.Balanced { s.pow with
      module := s.pow.module + (einNow s - s.pow.lastEin)
      device := s.pow.device + (einNow s - s.pow.lastEin), lastEin := einNow s } := by
    unfold Power.Balanced at *
    rw [hs, add_right_comm]
  rw [drawEnergy]
  split <;> exact foldl_pred Power.Balanced (addEstimate_balanced _ _) l _ hinput

theorem execEnergyAttribution_of_live {s : State} (slice : EnergySlice) (hlive : pcLive s = true) :
    execEnergyAttribution slice s = .next { s with pow := drawEnergy s (estimates s slice) } :=
  if_pos hlive

/-- Settles O50: the input energy keeps the balance, and so does each estimate, by induction over them. -/
theorem energyCountersBalance : Obligations.EnergyCountersBalance := by
  unfold Obligations.EnergyCountersBalance
  intro slice s hlive hs
  exact ⟨_, execEnergyAttribution_of_live slice hlive, drawEnergy_balanced _ hs⟩

end Sys2Proof.Machine
end

section
/-! SUPPORT. The steward's shares: none of the steps that set them gives out more than there is (R791). -/

namespace Sys2Proof.Machine

theorem total_eq_sum (l : List (Nat × Nat)) : total l = (l.map (fun x => x.2)).sum := List.sum_eq_foldl.symm

theorem total_cons (x : Nat × Nat) (l : List (Nat × Nat)) : total (x :: l) = x.2 + total l := by
  rw [total_eq_sum, total_eq_sum, List.map_cons, List.sum_cons]

/-- What each module is given before anything above 400 W is scaled or raised (R791). -/
def baseShares (ms : List (Nat × Demand)) : List (Nat × Nat) := ms.map fun m => (m.1, max 400 (min m.2.demand m.2.floor))

/-- What each module demands; up to this its share is raised first (R791). -/
def demandOfId (ms : List (Nat × Demand)) (i : Nat) : Nat := ((ms.find? (fun m => m.1 = i)).map (fun m => m.2.demand)).getD 0

/-- Shares with what is above 400 W scaled by `num` ÷ `den`. -/
def scaleAbove400 (num den : Nat) (l : List (Nat × Nat)) : List (Nat × Nat) :=
  l.map fun x => (x.1, 400 + (x.2 - 400) * num / den)

/-- Shares that rise by `e`, each stopping at its limit. -/
def raiseBy (l : List (Nat × Nat)) (limit : Nat → Nat) (e : Nat) : List (Nat × Nat) :=
  l.map fun x => (x.1, max x.2 (min (x.2 + e) (limit x.1)))

/-- The shares before the watts that remain are handed out. -/
def wholeShares (ms : List (Nat × Demand)) (a : Nat) : List (Nat × Nat) :=
  if a < total (baseShares ms) then scaleAbove400 (a - 400 * ms.length) (total (baseShares ms) - 400 * ms.length) (baseShares ms)
  else raiseTo (raiseTo (baseShares ms) (demandOfId ms) a) (fun _ => 1600) a

theorem shares_eq (ms : List (Nat × Demand)) (a : Nat) : shares ms a = handOut (wholeShares ms a) (a - total (wholeShares ms a)) := rfl

theorem raiseTo_eq (l : List (Nat × Nat)) (limit : Nat → Nat) (a : Nat) :
    raiseTo l limit a = raiseBy l limit (largest 17 0 (fun e => total (raiseBy l limit e) ≤ a)) := rfl

theorem baseShares_ge (ms : List (Nat × Demand)) : ∀ x ∈ baseShares ms, 400 ≤ x.2 :=
  List.forall_mem_map.2 fun _ _ => le_max_left _ _

theorem length_baseShares (ms : List (Nat × Demand)) : (baseShares ms).length = ms.length := List.length_map _

theorem length_mul_le_total {l : List (Nat × Nat)} (hl : ∀ x ∈ l, 400 ≤ x.2) : 400 * l.length ≤ total l := by
  have hsum := List.card_nsmul_le_sum (l.map (fun x => x.2)) 400 (List.forall_mem_map.2 hl)
  rwa [List.length_map, smul_eq_mul, Nat.mul_comm, ← total_eq_sum] at hsum

/-- Rounding each share down gives out no more than the scaled sum. -/
theorem total_scaleAbove400_le (num den : Nat) : ∀ {l : List (Nat × Nat)}, (∀ x ∈ l, 400 ≤ x.2) →
    total (scaleAbove400 num den l) ≤ 400 * l.length + (total l - 400 * l.length) * num / den
  | [], _ => Nat.zero_le _
  | x :: r, hl => by
    have hx : 400 ≤ x.2 := hl x List.mem_cons_self
    have hr : ∀ y ∈ r, 400 ≤ y.2 := fun y hy => hl y (List.mem_cons_of_mem x hy)
    have hlen := length_mul_le_total hr
    have hsplit : total (x :: r) - 400 * (x :: r).length = (x.2 - 400) + (total r - 400 * r.length) := by
      rw [List.length_cons, total_cons]; omega
    calc total (scaleAbove400 num den (x :: r))
      _ = 400 + (x.2 - 400) * num / den + total (scaleAbove400 num den r) := total_cons _ _
      _ ≤ 400 + (x.2 - 400) * num / den + (400 * r.length + (total r - 400 * r.length) * num / den) :=
        Nat.add_le_add_left (total_scaleAbove400_le num den hr) _
      _ = 400 * (x :: r).length + ((x.2 - 400) * num / den + (total r - 400 * r.length) * num / den) := by
        rw [List.length_cons]; omega
      _ ≤ 400 * (x :: r).length + (total (x :: r) - 400 * (x :: r).length) * num / den := by
        rw [hsplit, Nat.add_mul]
        exact Nat.add_le_add_left Nat.div_add_div_le_add_div _

/-- The search answers a number for which the test holds, where it holds of the number that it starts from. -/
theorem largest_meets {ok : Nat → Bool} : ∀ (n : Nat) {lo : Nat}, ok lo = true → ok (largest n lo ok) = true
  | 0, _, hlo => hlo
  | n + 1, lo, hlo => by
    rw [largest]
    split
    · exact largest_meets n ‹_›
    · exact largest_meets n hlo

theorem raiseBy_zero (l : List (Nat × Nat)) (limit : Nat → Nat) : raiseBy l limit 0 = l := by simp [raiseBy]

theorem total_raiseTo_le {l : List (Nat × Nat)} {a : Nat} (limit : Nat → Nat) (hl : total l ≤ a) : total (raiseTo l limit a) ≤ a := by
  have hstart : decide (total (raiseBy l limit 0) ≤ a) = true := by rw [raiseBy_zero]; exact decide_eq_true hl
  rw [raiseTo_eq]
  exact of_decide_eq_true (largest_meets (ok := fun e => decide (total (raiseBy l limit e) ≤ a)) 17 hstart)

theorem total_handOut_le : ∀ (l : List (Nat × Nat)) (n : Nat), total (handOut l n) ≤ total l + n
  | [], _ => Nat.zero_le _
  | x :: r, n => by
    rw [handOut, total_cons]
    split
    case isTrue hmore =>
      have hr := total_handOut_le r (n - 1)
      simp only [Bool.and_eq_true, decide_eq_true_eq] at hmore
      rw [total_cons]
      omega
    case isFalse =>
      have hr := total_handOut_le r n
      rw [total_cons]
      omega

theorem total_wholeShares_le {ms : List (Nat × Demand)} {a : Nat} (ha : 400 * ms.length ≤ a) : total (wholeShares ms a) ≤ a := by
  rw [wholeShares]
  split
  case isTrue =>
    have hscaled := total_scaleAbove400_le (a - 400 * ms.length) (total (baseShares ms) - 400 * ms.length) (baseShares_ge ms)
    have hcancel : (total (baseShares ms) - 400 * ms.length) * (a - 400 * ms.length) / (total (baseShares ms) - 400 * ms.length) ≤
        a - 400 * ms.length := Nat.div_le_of_le_mul le_rfl
    rw [length_baseShares] at hscaled
    omega
  case isFalse hbase => exact total_raiseTo_le _ (total_raiseTo_le _ (Nat.le_of_not_lt hbase))

theorem total_shares_le {ms : List (Nat × Demand)} {a : Nat} (ha : 400 * ms.length ≤ a) : total (shares ms a) ≤ a := by
  have hwhole := total_wholeShares_le ha
  have hout := total_handOut_le (wholeShares ms a) (a - total (wholeShares ms a))
  rw [shares_eq]
  omega

/-- What the steward holds back for modules that leave, hold or have not been heard (R791). -/
def heldBack (expected far : Nat) (ms : List (Nat × Demand)) : Nat :=
  70 * (ms.filter (fun m => m.2.leaving)).length + total ((ms.filter (fun m => m.2.hold && !m.2.leaving)).map (fun m => (m.1, m.2.demand)))
    + (70 * far + 1600 * (expected - ms.length - far))

/-- The heard modules among which the rest is shared. -/
def sharers (ms : List (Nat × Demand)) : List (Nat × Demand) := ms.filter (fun m => !m.2.hold && !m.2.leaving)

theorem grantsOf_of_no_budget (expected far : Nat) (ms : List (Nat × Demand)) :
    grantsOf 0 expected far ms = (false, ms.map (fun m => (m.1, 1600))) := if_pos rfl

section
variable {budget expected far : Nat} {ms : List (Nat × Demand)} (hbudget : 0 < budget)
include hbudget

theorem grantsOf_of_short (hshort : budget < heldBack expected far ms + 400 * (sharers ms).length) :
    grantsOf budget expected far ms = (true, (sharers ms).map (fun m => (m.1, 400))) := by
  rw [grantsOf, if_neg hbudget.ne']
  exact if_pos hshort

theorem grantsOf_of_enough (henough : heldBack expected far ms + 400 * (sharers ms).length ≤ budget) :
    grantsOf budget expected far ms = (false, shares (sharers ms) (budget - heldBack expected far ms)) := by
  rw [grantsOf, if_neg hbudget.ne', heldBack, ← Nat.sub_sub]
  exact if_neg henough.not_gt
end

/-- Settles O58: grants that are not SHORT are shares of what is left of the budget, and shares never sum to more than that. -/
theorem grantsNeverExceedTheBudget : Obligations.GrantsNeverExceedTheBudget := by
  unfold Obligations.GrantsNeverExceedTheBudget
  rintro budget expected far ms _ g hbudget rfl hgrants
  obtain hshort | henough := Nat.lt_or_ge budget (heldBack expected far ms + 400 * (sharers ms).length)
  · rw [grantsOf_of_short hbudget hshort] at hgrants
    cases hgrants
  · rw [grantsOf_of_enough hbudget henough] at hgrants
    cases hgrants
    have hshares : total (shares (sharers ms) (budget - heldBack expected far ms)) ≤ budget - heldBack expected far ms :=
      total_shares_le (by omega)
    unfold heldBack at *
    omega

end Sys2Proof.Machine
end

section
/-! SUPPORT. The rack budget and the steward protocol: what each step does once its guard holds (R784–R797). -/

namespace Sys2Proof.Machine

theorem newer_iff {a b : Budget} : newer a b = true ↔ b.stamp < a.stamp ∨ (a.stamp = b.stamp ∧ a.link < b.link) := by
  simp [newer]

theorem adoptBudget_of_open {s : State} (b : Budget) (hopen : s.comp.updating = false) :
    adoptBudget s b = if newer b s.pow.budget = true then { s with pow := { s.pow with budget := b } } else s := by
  simp [adoptBudget, hopen]

/-- A grant up to the one in force takes effect at once; a higher one waits to be applied (R792). -/
theorem takeGrant_of_open {s : State} {g : Grant} (hdomain : g.domain = s.pow.domain) (hopen : s.comp.updating = false) :
    takeGrant s g = tellCap
      (if g.watts ≤ grantInForce s then
        { s with pow := { s.pow with floorMode := false, grant := g.watts, raise := none, round := BitVec.ofNat 32 g.round } }
       else { s with pow := { s.pow with floorMode := false, grant := grantInForce s, raise := some (g.watts, g.round) } }) := by
  rw [takeGrant, if_neg (by simp [hdomain, hopen]), apply_ite tellCap]

section
variable {s : State} (hlive : pcLive s = true)
include hlive

theorem execRackBudgetTake_of_written (hrun : s.comp.running = true) (hset : s.comp.status.getLsbD 9 = true)
    (hopen : s.comp.updating = false) :
    execRackBudgetTake s = .next (note s (takeBudget { s with comp := { s.comp with status := s.comp.status &&& ~~~0x200#32 } }
      s.comp.rackBudget.toNat 0)) :=
  if_pos (by simp [hlive, hrun, hset, hopen])

theorem execBudgetReceive_of_own_domain (src : Fin 128) (value stamp : Nat) :
    execBudgetReceive src s.pow.domain value stamp s =
      .next (adoptBudget s { value := value % 65536, stamp := stamp, link := src.val }) :=
  if_pos (by simp [hlive])

theorem execDemandTransmit_of_open (pFab mean : Nat) (hopen : s.comp.updating = false) :
    execDemandTransmit pFab mean s =
      let w := min s.pow.localCap (predict s (slowestCeiling { s with pow := { s.pow with budgetFit := 0 } }) pFab (mean - pFab) / 1000)
      .next (note s (sendDemand { s with pow := { s.pow with demandW := w, powerW := sat 65535 (mean / 1000) } } w false)) := by
  rw [execDemandTransmit, if_pos hlive]
  simp only [hopen, Bool.false_eq_true, if_false, nextN]

theorem execDemandReceive_of_linked {d : Demand} {l : Nat} (hlink : s.link.linkId = some l) (hsrc : d.src < 128) :
    execDemandReceive d s = .next (note s (hearDemand s d)) :=
  if_pos (by simp [hlive, hlink, hsrc])

theorem execGrantReceive_of_other {src : Fin 128} (g : Grant) {l : Nat} (hlink : s.link.linkId = some l) (hother : src.val ≠ l) :
    execGrantReceive src g s = .next (note s (noteThrottle s (takeGrant s g))) :=
  if_pos (by simp [hlive, hlink, hother.symm])

theorem execGrantRaiseApply_of_waiting {w r : Nat} (hraise : s.pow.raise = some (w, r)) (hcap : s.comp.fastcap = false)
    (hopen : s.comp.updating = false) :
    execGrantRaiseApply s =
      .next (note s (noteThrottle s (tellCap { s with pow := { s.pow with grant := w, raise := none, round := BitVec.ofNat 32 r } }))) := by
  simp only [execGrantRaiseApply, hraise]
  exact if_pos (by simp [hlive, hcap, hopen])

theorem execGrantSilenceTimeout_of_heard (hopen : s.comp.updating = false) (hheard : s.pow.floorMode = false) :
    execGrantSilenceTimeout s = .next (note s (noteThrottle s
      (tellCap { s with pow := { s.pow with floorMode := true, grant := s.comp.floorShare, raise := none } }))) :=
  if_pos (by simp [hlive, hopen, hheard])

/-- The module that sees itself as the steward after determining it anew grants; another one does not (R789, R791). -/
theorem execGrantCompute_of_steward (hsteward : isStewardNow (noteSteward s) = true) :
    execGrantCompute s =
      let t := noteSteward s
      let ms := heardNow t
      let far := (t.pow.heard.filter (fun h => h.2.demand.leaving && h.2.demand.domain = t.pow.domain && !ms.any (fun m => m.1 = h.1))).length
      let g := grantsOf (10 * t.pow.budget.value) t.pow.expected far (ms.map (fun m => (m.1, m.2.demand)))
      let body (w : Nat) : Grant :=
        { domain := t.pow.domain, short := g.1, watts := w, round := (t.pow.round.toNat + 1) % 2 ^ 32, budget := t.pow.budget.value
          heard := ms.length }
      .next (note s (noteThrottle s (g.2.foldl
        (fun v m => if m.1 = selfId v then takeGrant v (body m.2) else sendMgmt v m.1 255 255 0x0002 (grantBody (body m.2)))
        (if g.1 then eventDev t 0x0B05 (le 2 t.pow.budget.value ++ le 1 ms.length) else t)))) := by
  rw [execGrantCompute, if_neg (by simp [hlive]), if_neg (by simp [hsteward])]
  rfl
end

/-- What a valid POWER.BUDGET_CONFIG sets besides the budget: every field on the die, and each companion setting that its flags name (R796). -/
def budgetSettings (s : State) (c : Consumed) : State :=
  { s with
    pow := { s.pow with eligible := bitOf (c.u8 0) 0, domain := c.u8 1, expected := c.u8 2, fastcapDiv := c.u8 3 }
    comp := { s.comp with
      floorShare := if bitOf (c.u8 0) 2 then c.u16 6 else s.comp.floorShare
      fastcapLimit := if bitOf (c.u8 0) 3 then c.u16 8 else s.comp.fastcapLimit } }

theorem execPowerBudgetConfig_of_open {fn : Fn} {c : Consumed} {s : State} (hcmd : startable s fn 11 4 = some c)
    (hvalid : budgetConfigBad c = false) (hrun : s.comp.running = true) (hopen : s.comp.updating = false) :
    execPowerBudgetConfig fn s =
      let u := budgetSettings s c
      let v := tellCap (noteSteward (if bitOf (c.u8 0) 1 then takeBudget u (c.u16 4) 1 else u))
      .next (note s (noteThrottle s (finishOk v fn c.id (le 2 v.pow.budget.value ++ le 2 (capInForce v))))) := by
  simp only [execPowerBudgetConfig, hcmd, hvalid, hrun, hopen, Bool.false_eq_true, if_false, Bool.not_false, Bool.and_true, nextPow, nextN,
    budgetSettings]

/-- Settles O49: each guard holds, and the grants of a budget are 1,600 W each, SHORT, or shares of what is not held back. -/
theorem rackBudgetAndSteward : Obligations.RackBudgetAndSteward := by
  unfold Obligations.RackBudgetAndSteward
  refine ⟨?take, ?receive, ?newer, ?demandTransmit, ?demandReceive, ?grantCompute, ?noBudget, ?short, ?grantReceive, ?raiseApply,
    ?silence, ?config⟩
  case take =>
    intro s hlive hrun hset hopen
    exact ⟨_, rfl, execRackBudgetTake_of_written hlive hrun hset hopen⟩
  case receive =>
    intro src value stamp s hlive hopen
    refine ⟨_, rfl, ?_⟩
    show execBudgetReceive src s.pow.domain value stamp s = _
    rw [execBudgetReceive_of_own_domain hlive, adoptBudget_of_open _ hopen]
  case newer => exact fun _ _ => newer_iff
  case demandTransmit =>
    rintro pFab mean _ s hlive hopen rfl
    exact ⟨_, rfl, execDemandTransmit_of_open hlive pFab mean hopen⟩
  case demandReceive =>
    intro d l s hlive hlink hsrc
    exact execDemandReceive_of_linked hlive hlink hsrc
  case grantCompute =>
    rintro _ _ _ _ s hlive rfl hsteward rfl rfl rfl
    exact ⟨_, _, rfl, fun _ => rfl, execGrantCompute_of_steward hlive hsteward⟩
  case noBudget => exact grantsOf_of_no_budget
  case short =>
    rintro budget expected far _ _ ms hbudget rfl rfl hshort
    exact grantsOf_of_short hbudget hshort
  case grantReceive =>
    intro src g l s hlive hlink hother hdomain hopen
    refine ⟨_, _, rfl, rfl, ?_⟩
    show execGrantReceive src g s = _
    rw [execGrantReceive_of_other hlive g hlink hother, takeGrant_of_open hdomain hopen]
  case raiseApply =>
    intro w r s hlive hraise hcap hopen
    exact execGrantRaiseApply_of_waiting hlive hraise hcap hopen
  case silence =>
    intro s hlive hopen hheard
    exact execGrantSilenceTimeout_of_heard hlive hopen hheard
  case config =>
    rintro fn c _ _ s hcmd hvalid hrun hopen rfl rfl
    exact ⟨_, rfl, execPowerBudgetConfig_of_open hcmd hvalid hrun hopen⟩

end Sys2Proof.Machine
end

section
/-! SUPPORT. Trace sessions and grants: what each TRACE command and each event of the trace unit does once its guard holds (R815–R833).
The lowest free GRANT_ID, the answer of a STOP that finds nothing running, and OVERFLOWED after CONFIG are log entry 64's readings. -/

namespace Sys2Proof.Machine

/-- The units of the old session's sink are given back, and then those of a new UNITS sink reserved (R830). -/
def sinkReplaced (s : State) (old x : Session) : State :=
  let t := releaseSink s old
  if x.sink = 0 then { t with hbm := { t.hbm with reserved := (span x.firstUnit x.units).foldl sins t.hbm.reserved } } else t

theorem execTraceConfig_of_accepted {fn : Fn} {c : Consumed} {x : Session} {s : State} (hcmd : startable s fn 12 1 = some c)
    (hranged : sessionOf fn c = some x) (haccept : configRefusal s fn x = none) :
    execTraceConfig fn s =
      let old := s.ses fn
      .next (finishOk (sesState (sinkReplaced s old x) fn { x with state := old.state, overflowed := old.overflowed } .configured 0)
        fn c.id (le 8 x.size)) := by
  rw [execTraceConfig, withCmd_some hcmd]
  simp only [hranged, haccept, sinkReplaced]

/-- A UNITS sink is PF0's alone (R816, R830). -/
theorem configRefusal_of_vf_units {fn : Nat} {x : Session} (s : State) (hvf : 0 < fn) (hunits : x.sink = 0) :
    configRefusal s fn x = some 0x0006 :=
  if_pos (by simp [hvf.ne', hunits])

section
variable {fn : Fn} {c : Consumed} {s : State}

/-- Session `x` numbered `id`, with nothing captured, written or lost since lc position `lc` (R831). -/
def Session.fresh (x : Session) (id : W32) (lc : Nat) : Session :=
  { x with
    id := id, block := 0, made := 0, written := 0, lost := 0, wrapped := false, buffer := [], dropping := none, gap := none
    context := 255, lastLc := lc, branches := [], staged := [], stopping := none }

theorem execTraceStart_of_configured (hcmd : startable s fn 12 2 = some c)
    (hstate : (s.ses fn).state = .configured ∨ (s.ses fn).state = .full) :
    execTraceStart fn s =
      let y := (s.ses fn).fresh s.trace.nextSession s.trace.lc
      let t := { s with trace := { s.trace with nextSession := s.trace.nextSession + 1 } }
      .next (finishOk (sesState t fn (openBlock t y s.trace.lc) .running 0) fn c.id (le 8 s.time.toNat ++ le 4 y.id.toNat)) := by
  rw [execTraceStart, withCmd_some hcmd]
  dsimp only
  rw [if_neg (by simpa [or_iff_not_imp_left] using hstate)]
  rfl

theorem execTraceStart_of_other (hcmd : startable s fn 12 2 = some c)
    (hstate : ¬((s.ses fn).state = .configured ∨ (s.ses fn).state = .full)) :
    execTraceStart fn s = .next (finishSt s fn c.id 0x0008) := by
  rw [execTraceStart, withCmd_some hcmd]
  dsimp only
  rw [if_pos (by simpa using hstate)]

/-- The stream is closed where packets are still taken; the command then waits for the sink to hold them (R832). -/
theorem execTraceStop_of_started (hcmd : startable s fn 12 3 = some c) (hflags : c.u8 0 ≤ 1)
    (hstate : (s.ses fn).state = .running ∨ (s.ses fn).state = .full) :
    execTraceStop fn s =
      let x := s.ses fn
      let y := if x.state = .running then closeStream s x else x
      .next (stopOn (begun (s.setSes fn { y with stopping := some (fn.val, c.id, bitOf (c.u8 0) 0) }) fn c.id) fn) := by
  rw [execTraceStop, withCmd_some hcmd]
  dsimp only
  rw [if_neg hflags.not_gt, if_pos (by simpa using hstate)]

theorem execTraceStop_of_idle (hcmd : startable s fn 12 3 = some c) (hkeep : c.u8 0 = 0)
    (hstate : ¬((s.ses fn).state = .running ∨ (s.ses fn).state = .full)) :
    execTraceStop fn s = .next (finishOk s fn c.id (le 8 (s.ses fn).written.toNat ++ le 8 (s.ses fn).lost.toNat)) := by
  rw [execTraceStop, withCmd_some hcmd]
  dsimp only
  rw [if_neg (by simp [hkeep]), if_neg (by simpa using hstate), if_neg (by simp [hkeep, bitOf])]
end

/-- Without RELEASE the session goes back to CONFIGURED once TRACE.STOP has its response (R832). -/
theorem stopEnd_of_kept {s : State} {fn f id : Nat} (hwaits : (s.ses fn).stopping = some (f, id, false)) :
    stopEnd s fn =
      let t := finishOk (s.setSes fn { s.ses fn with stopping := none }) f id (le 8 (s.ses fn).written.toNat ++ le 8 (s.ses fn).lost.toNat)
      sesState t fn (t.ses fn) .configured 0 := by
  simp only [stopEnd, hwaits, Bool.false_eq_true, if_false]

/-- The payload of TRACE.AUTHORISE: its reserved bytes are zero, and every field lies in its range (R815). -/
def GrantInRange (c : Consumed) : Prop :=
  c.u8 0 ≤ 16 ∧ c.u8 1 = 0 ∧ c.u16 4 ≤ 0xFF ∧ c.u16 6 = 0 ∧ 1 ≤ c.u32 8 ∧ c.u32 8 ≤ 86400

/-- The number that the next grant gets. -/
def freeGrant (s : State) : Option Nat := (List.range 32).find? (fun i => (tfind s.trace.grants i).isNone)

/-- The grant that TRACE.AUTHORISE asks for, from now on. -/
def grantAsked (s : State) (c : Consumed) : TraceGrant :=
  { requester := c.u8 0, scope := c.u16 2, sources := c.u16 4, expiry := s.time + BitVec.ofNat 64 (1000000000 * c.u32 8) }

/-- The grant asked for is held as number `id`, told to those concerned, and answered (R833). -/
def grantBegun (s : State) (fn : Nat) (c : Consumed) (id : Nat) : State :=
  let g := grantAsked s c
  finishOk (grantEvent { s with trace := { s.trace with grants := tset s.trace.grants id g } } id 0 g) fn c.id
    (le 8 id ++ le 8 g.expiry.toNat)

theorem freeGrant_eq_none_of_full {s : State} (hfull : ∀ i < 32, (tfind s.trace.grants i).isSome = true) : freeGrant s = none := by
  rw [freeGrant, List.find?_eq_none]
  intro i hi
  rw [Option.isNone_iff_eq_none, ← Option.not_isSome_iff_eq_none, not_not]
  exact hfull i (List.mem_range.1 hi)

theorem execTraceAuthorise_of_ranged {fn : Fn} {c : Consumed} {s : State} (hcmd : startable s fn 12 4 = some c)
    (hrange : GrantInRange c) :
    execTraceAuthorise fn s = .next ((freeGrant s).elim (finishSt s fn c.id 0x000A) (grantBegun s fn c)) := by
  obtain ⟨hrequester, hpad1, hsources, hpad6, hmin, hmax⟩ := hrange
  rw [execTraceAuthorise, withCmd_some hcmd]
  dsimp only
  rw [if_neg (by simp [hrequester, hpad1, hsources, hpad6, Nat.one_le_iff_ne_zero.1 hmin, hmax]), ← freeGrant]
  cases freeGrant s <;> rfl

theorem endGrant_of_held {s : State} {id : Nat} {g : TraceGrant} (what : Nat) (hheld : tfind s.trace.grants id = some g) :
    endGrant s id what = grantEvent { s with trace := { s.trace with grants := tdel s.trace.grants id } } id what g := by
  simp only [endGrant, hheld]

theorem execTraceRevoke_of_held {fn : Fn} {c : Consumed} {g : TraceGrant} {s : State} (hcmd : startable s fn 12 5 = some c)
    (hheld : tfind s.trace.grants (c.u8 0) = some g) :
    execTraceRevoke fn s = .next (finishOk (endGrant s (c.u8 0) 1) fn c.id []) := by
  rw [execTraceRevoke, withCmd_some hcmd, if_neg (by simp [hheld])]

theorem execTraceGrantExpiry_of_due {id : Fin 32} {g : TraceGrant} {s : State} (hheld : tfind s.trace.grants id = some g)
    (hdue : g.expiry ≤ s.time) : execTraceGrantExpiry id s = .next (endGrant s id 2) := by
  simp only [execTraceGrantExpiry, hheld, hdue, if_true]

section
variable {s : State} {x : Session} {p first last : Nat} {l : List Bool} (hheld : tfind x.branches p = some (l, first, last))
include hheld

theorem branchDue_of_old (hold : first + 4096 ≤ s.trace.lc) : branchDue s x p = true := by
  simp only [branchDue, hheld, hold, decide_true]

/-- A BR packet stands at the position of its last branch (R828). -/
theorem flushBr_of_held :
    flushBr s x p = putPacket s { x with branches := tdel x.branches p } (some p) last 0x10
      (le 1 l.length ++ le ((l.length + 7) / 8) (maskOf ((List.range l.length).filter (fun i => l.getD i false)))) := by
  simp only [flushBr, hheld]
end

theorem execBranchBufferTimeout_of_due {fn : Fn} {p : Fin 16} {s : State} (hrun : (s.ses fn).state = .running)
    (hopen : (s.ses fn).stopping = none) (hdue : branchDue s (s.ses fn) p = true) :
    execBranchBufferTimeout fn p s = .next (s.setSes fn (flushBr s (s.ses fn) p)) :=
  if_pos (by simp [hrun, hopen, hdue])

/-- With 4 KiB of the capture buffer free, the GAP has REASON OVERFLOW and no partition (R819, R829). -/
theorem overflowEnd_of_room {s : State} {fn a b : Nat} (hdrops : (s.ses fn).dropping = some (a, b))
    (hroom : (s.ses fn).buffer.length ≤ 61440) (hrun : (s.ses fn).state = .running) :
    overflowEnd s fn =
      let x := s.ses fn
      let y := place s { x with dropping := none } a b (stamped 0x60 a (leb (b - a) ++ [2, 255]))
      s.setSes fn { padBlock y with overflowed := true, lost := x.lost + BitVec.ofNat 64 (b - a) } := by
  simp only [overflowEnd, hdrops]
  rw [if_neg (by simp [hroom, hrun])]

/-- Settles O51: each guard holds, and a grant's end, a flush or a recovery leaves what its own lemma says of it. -/
theorem traceSessionsAndGrants : Obligations.TraceSessionsAndGrants := by
  unfold Obligations.TraceSessionsAndGrants
  refine ⟨?config, ?vfUnits, ?start, ?startRefused, ?stop, ?stopEnds, ?stopIdle, ?authorise, ?grantsFull, ?revoke, ?expiry,
    ?branches, ?overflow⟩
  case config =>
    rintro fn c x _ _ s hcmd hranged haccept rfl rfl
    exact ⟨_, rfl, execTraceConfig_of_accepted hcmd hranged haccept⟩
  case vfUnits => exact fun fn x s => configRefusal_of_vf_units s
  case start =>
    rintro fn c _ s hcmd rfl hstate
    exact ⟨_, rfl, _, rfl, execTraceStart_of_configured hcmd hstate⟩
  case startRefused =>
    intro fn c s hcmd hstate
    exact execTraceStart_of_other hcmd (by rcases hstate with h | h | h <;> simp [h])
  case stop =>
    rintro fn c _ s hcmd hflags rfl hstate
    exact ⟨_, rfl, execTraceStop_of_started hcmd hflags hstate⟩
  case stopEnds =>
    rintro fn f id _ s hwaits rfl
    exact stopEnd_of_kept hwaits
  case stopIdle =>
    intro fn c s hcmd hkeep hstate
    exact execTraceStop_of_idle hcmd hkeep (by rcases hstate with h | h | h <;> simp [h])
  case authorise =>
    rintro fn c id _ s hcmd hrange hfree rfl
    refine ⟨_, rfl, (execTraceAuthorise_of_ranged hcmd hrange).trans ?_⟩
    rw [show freeGrant s = some id from hfree]
    rfl
  case grantsFull =>
    intro fn c s hcmd hrange hfull
    refine (execTraceAuthorise_of_ranged hcmd hrange).trans ?_
    rw [freeGrant_eq_none_of_full hfull]
    rfl
  case revoke =>
    intro fn c g s hcmd hheld
    exact ⟨_, endGrant_of_held 1 hheld, execTraceRevoke_of_held hcmd hheld⟩
  case expiry =>
    intro id g s hheld hdue
    rw [← endGrant_of_held 2 hheld]
    exact execTraceGrantExpiry_of_due hheld hdue
  case branches =>
    intro fn p l first last s hrun hopen hheld hold
    rw [← flushBr_of_held hheld]
    exact execBranchBufferTimeout_of_due hrun hopen (branchDue_of_old hheld hold)
  case overflow =>
    intro fn a b s hdrops hroom hrun
    exact ⟨_, _, rfl, rfl, congrArg Host.Outcome.next (overflowEnd_of_room hdrops hroom hrun)⟩

end Sys2Proof.Machine
end

section
/-! SUPPORT. What each FAULT command answers, what an injection leaves, and what a drained record or a failed host read does (R844–R847, R855,
R857–R860). -/

namespace Sys2Proof.Machine

section
variable {fn : Fn} {c : Consumed} {s : State}

/-- Function `fn` has no faults counted, and no code and class of a last one (R858). -/
def countsCleared (s : State) (fn : Nat) : State := s.setFn fn { s.fn fn with counts := [], lastCode := 0, lastClass := 0 }

@[simp] theorem countsCleared_fn (s : State) (fn : Nat) :
    (countsCleared s fn).fn fn = { s.fn fn with counts := [], lastCode := 0, lastClass := 0 } := State.setFn_self s fn _

theorem execFaultClear_of_started (hcmd : startable s fn 14 2 = some c) :
    execFaultClear fn s =
      let n := (s.fn fn).counts
      .next (finishOk (countsCleared s fn) fn c.id (le 1 (tget 0 n 0) ++ le 1 (tget 0 n 1) ++ le 1 (tget 0 n 2) ++ le 1 (tget 0 n 3))) := by
  rw [execFaultClear, withCmd_some hcmd]
  simp [countsCleared, List.range_succ]

/-- Settles O56: the response that ends FAULT.CLEAR tells the host only, so the cleared registers and the rest of the module stay. -/
theorem faultClearClearsCountsOnly : Obligations.FaultClearClearsCountsOnly := by
  unfold Obligations.FaultClearClearsCountsOnly
  intro fn c s hcmd
  refine ⟨_, execFaultClear_of_started hcmd, ?_⟩
  have hrung (b : List Byte) : Rung (countsCleared s fn) (finishOk (countsCleared s fn) fn c.id b) := finish_rung _ _ _ _
  refine ⟨fun k => ?counts, ?lastCode, ?lastClass, ?rest⟩
  case counts => rw [(hrung _).counts, countsCleared_fn]; rfl
  case lastCode => rw [(hrung _).lastCode, countsCleared_fn]
  case lastClass => rw [(hrung _).lastClass, countsCleared_fn]
  case rest => simp [countsCleared]

/-- The payload of FAULT.READ_LOG for ring `log`: its reserved bytes are zero, and every field lies in its range (R857). -/
def ReadLogInRange (c : Consumed) (log : Nat) : Prop :=
  c.u8 0 = log ∧ c.u8 1 ≤ 3 ∧ 1 ≤ c.u32 8 ∧ c.u32 8 ≤ 4096 ∧ rd 2 c.req.payload 2 = 0 ∧ rd 4 c.req.payload 12 = 0

theorem ReadLogInRange.not_refused {log : Nat} (hrange : ReadLogInRange c log) (hlog : log ≤ 1) :
    ¬(1 < c.u8 0 || 3 < c.u8 1 || c.u32 8 = 0 || 4096 < c.u32 8 || rd 2 c.req.payload 2 ≠ 0 || rd 4 c.req.payload 12 ≠ 0) = true := by
  obtain ⟨rfl, hmin, hpos, hmax, hpad2, hpad12⟩ := hrange
  simp [hlog, hmin, hmax, hpad2, hpad12, Nat.one_le_iff_ne_zero.1 hpos]

/-- The next SEQ to ask for after `l`, read from `start` on: that of the next record held where `l` is as long as was asked (R857). -/
def seqAfter (s : State) (start : W32) (max : Nat) (l : List Rec) : W32 :=
  if l.length = max then
    ((s.faults.ring.find? (fun r => ((l.getLast?.map (fun r => r.seq)).getD start).toNat < r.seq.toNat)).map (fun r => r.seq)).getD
      s.faults.nextSeq
  else s.faults.nextSeq

/-- The companion's records of class `min` on (R857). -/
def companionView (s : State) (min : Nat) : List (List Byte) :=
  (List.range 64).filterMap (fun i => (tfind s.comp.aon.log i).filter (fun b => min ≤ (recOf b).cls))

section
variable (hcmd : startable s fn 14 1 = some c)
include hcmd

theorem execFaultReadLog_of_hbm (hrange : ReadLogInRange c 0) (hbme : (s.fn fn).bme = true) :
    execFaultReadLog fn none s =
      let start := BitVec.ofNat 32 (c.u32 4)
      let l := (ringView s fn start (c.u8 1)).take (c.u32 8)
      .next (finish { s with hostOut := recordWrites (c.u64 16) (l.map Rec.bytes) } fn c.id
        ⟨0, 0, le 4 l.length ++ le 4 (seqAfter s start (c.u32 8) l).toNat ++ le 4 (oldestSeq s).toNat
          ++ le 4 ((oldestSeq s).toNat - start.toNat)⟩) := by
  rw [execFaultReadLog, withCmd_some hcmd]
  dsimp only
  rw [if_neg (hrange.not_refused (by decide)), if_neg (by simp [hrange.1]), if_neg (by simp [hrange.1]), if_pos hbme]
  rfl

theorem execFaultReadLog_of_companion (hrange : ReadLogInRange c 1) (hpf : fn.val = 0) (hbme : (s.fn fn).bme = true) :
    execFaultReadLog fn none s =
      let l := (companionView s (c.u8 1)).take (c.u32 8)
      .next (finish { s with hostOut := recordWrites (c.u64 16) l } fn c.id ⟨0, 0, le 4 l.length⟩) := by
  rw [execFaultReadLog, withCmd_some hcmd]
  dsimp only
  rw [if_neg (hrange.not_refused (by decide)), if_neg (by simp [hpf]), if_pos hrange.1, if_pos hbme]
  rfl

/-- The companion's ring is PF0's alone (R857). -/
theorem execFaultReadLog_of_vf_companion (hrange : ReadLogInRange c 1) (hvf : 0 < fn.val) :
    execFaultReadLog fn none s = .next (finishSt s fn c.id 0x0006) := by
  rw [execFaultReadLog, withCmd_some hcmd]
  dsimp only
  rw [if_neg (hrange.not_refused (by decide)), if_pos (by simp [hrange.1, hvf.ne'])]
end

theorem execFaultPolicy_of_ranged (hcmd : startable s fn 14 3 = some c)
    (hrange : c.u8 0 ≤ 1 ∧ 1 ≤ c.u8 1 ∧ c.u8 1 ≤ 15 ∧ c.u8 2 ≤ 1 ∧ c.u8 3 = 0) :
    execFaultPolicy fn s =
      let f := s.faults
      .next (finishOk
        { s with faults := { f with stop := c.u8 0 = 1, resetLimit := c.u8 1, autoQuarantine := c.u8 2 = 1, ceThreshold := c.u16 4 } } fn c.id
        (le 1 (b2n f.stop) ++ le 1 f.resetLimit ++ le 1 (b2n f.autoQuarantine) ++ le 1 0 ++ le 2 f.ceThreshold)) := by
  obtain ⟨hstop, hmin, hmax, hquarantine, hpad⟩ := hrange
  rw [execFaultPolicy, withCmd_some hcmd]
  dsimp only
  rw [if_neg (by simp [hstop, hmax, hquarantine, hpad, Nat.one_le_iff_ne_zero.1 hmin])]

section
variable (hcmd : startable s fn 14 4 = some c)
include hcmd

/-- A FAULT.INJECT with its TYPE and FLAGS in range is acted on by the row of its TYPE (R860). -/
theorem withInject_of_type {ty : Nat} {k : Consumed → State → State} (hty : ty ≤ 3) (htype : c.u8 0 = ty ∧ c.u8 1 ≤ 1) :
    withInject fn ty s k = .next (note s (k c s)) := by
  obtain ⟨rfl, hflags⟩ := htype
  simp [withInject, hcmd, hty, hflags, nextN]

/-- The fault that FAULT.INJECT of TYPE 0 makes (R860). -/
def injectedFlaw (c : Consumed) : Flaw :=
  { code := 0x0E01, cls := c.u8 4, partition := c.req.partition, jobId := c.req.jobId, detail := le 2 (c.u16 2), injected := true }

theorem execFaultInjectRecord_of_ranged (htype : c.u8 0 = 0 ∧ c.u8 1 ≤ 1) (hcls : c.u8 4 ≤ 3) (hpad : rd 3 c.req.payload 5 = 0)
    (hpart : c.u8 4 = 2 → c.req.partition ≠ 255 ∧ (s.pt c.req.partition).state ≠ .free) :
    execFaultInjectRecord fn s =
      let t := fault s (injectedFlaw c)
      .next (note s (finishOk t fn c.id
        (le 4 (if t.faults.nextSeq = s.faults.nextSeq then 0xFFFFFFFF#32 else s.faults.nextSeq).toNat))) := by
  rw [execFaultInjectRecord, withInject_of_type hcmd (by decide) htype]
  dsimp only
  rw [if_neg (by simp [hcls, hpad]), if_neg (by simpa using fun h => (hpart h).1), if_neg (by simpa using fun h => (hpart h).2)]
  rfl

/-- An error injected into a word that has one is a multi-bit one where either is (R860). -/
theorem execFaultInjectCellEcc_of_reachable (htype : c.u8 0 = 1 ∧ c.u8 1 ≤ 1) (hin : inCells (c.u64 8) 1 = true)
    (hreach : cellReachable s (c.u64 8) = true) :
    execFaultInjectCellEcc fn s =
      let w := (c.u64 8 - cellBase) / 64
      let e := ⟨bitOf (c.u8 1) 0 || (tfind s.fab.cellEcc w).any (fun e => e.multi), true⟩
      .next (note s (finishOk { s with fab := { s.fab with cellEcc := tset s.fab.cellEcc w e } } fn c.id (le 4 0xFFFFFFFF))) := by
  rw [execFaultInjectCellEcc, withInject_of_type hcmd (by decide) htype]
  dsimp only
  rw [if_neg (by simp [hin]), if_neg (by simp [hreach])]
  rfl

theorem execFaultInjectHbmEcc_of_ready (htype : c.u8 0 = 2 ∧ c.u8 1 ≤ 1) (hin : inHbm (c.u64 8) 1 = true) (hready : s.hbm.ready = true) :
    execFaultInjectHbmEcc fn s =
      let w := c.u64 8 / 64
      let e := (bitOf (c.u8 1) 0 || (tfind s.hbm.ecc w).any (fun e => e.1), true)
      .next (note s (finishOk { s with hbm := { s.hbm with ecc := tset s.hbm.ecc w e } } fn c.id (le 4 0xFFFFFFFF))) := by
  rw [execFaultInjectHbmEcc, withInject_of_type hcmd (by decide) htype]
  dsimp only
  rw [if_neg (by simp [hin]), if_neg (by simp [hready])]
  rfl

theorem execFaultInjectLinkCrc_of_up (htype : c.u8 0 = 3 ∧ c.u8 1 ≤ 1) (hport : c.u64 8 < 16) (hup : portUp s (c.u64 8) = true) :
    execFaultInjectLinkCrc fn s =
      let p := c.u64 8
      .next (note s (finishOk (s.setPort p { s.port p with corruptNext := true }) fn c.id (le 4 0xFFFFFFFF))) := by
  rw [execFaultInjectLinkCrc, withInject_of_type hcmd (by decide) htype]
  dsimp only
  rw [if_neg hport.not_ge, if_neg (by simp [hup])]
  rfl
end
end

theorem execErrlogCommitDrain_of_open {r : Rec} {q : List Rec} {s : State} (hqueue : s.faults.queue = r :: q) (hready : s.ready = true)
    (hrun : s.comp.running = true) (hopen : s.comp.updating = false) :
    execErrlogCommitDrain s = .next { s with
      faults := { s.faults with
        queue := q, ring := s.faults.ring.map (fun y => if y.seq = r.seq then { y with committed := true } else y) }
      comp := { s.comp with aon := s.comp.aon.append { r with committed := true }.bytes } } := by
  simp only [execErrlogCommitDrain, hqueue]
  rw [if_neg (by simp [hready, hrun, hopen])]

theorem execCompanionLogPoll_of_running {s : State} (hready : s.ready = true) (hrun : s.comp.running = true) :
    execCompanionLogPoll s = .next (note s (takeCompanionLog s true)) :=
  if_pos (by simp [hready, hrun])

section
variable {fn : Fn} {s : State} (hhold : (s.fn fn).erHold = true)
include hhold

theorem execErrorRecordedHoldoff_of_none (hnone : (s.fn fn).erCount = 0) :
    execErrorRecordedHoldoff fn s = .next (s.setFn fn { s.fn fn with erHold := false }) := by
  simp [execErrorRecordedHoldoff, hhold, hnone]

/-- What came in the interval is told in one event, and the next interval begins (R847). -/
theorem execErrorRecordedHoldoff_of_some (hsome : (s.fn fn).erCount ≠ 0) :
    execErrorRecordedHoldoff fn s =
      let r := s.fn fn
      .next (raiseAt (s.setFn fn { r with erCount := 0, erClass := 0 }) fn
        { partition := ownPart fn, code := 0x0E02, tag := 0, time := s.time
          payload := fields 40 [(0, le 4 r.erFirst.toNat), (4, le 4 r.erCount), (8, le 1 r.erClass)] }) := by
  simp [execErrorRecordedHoldoff, hhold, hsome]
end

/-- With no descriptor list to fail in its place, the command itself ends with DMA_ERROR (R855). -/
theorem hostReadFails_of_no_lists {s : State} {fn id : Nat} {c : Consumed} (hcmd : cmdOf s fn id = some c) (hstarted : c.started = true)
    (hlists : s.eng.lists = []) :
    hostReadFails s fn id = if c.timing = 2 then workDone s fn id ⟨0x000C, 0, []⟩ else finishSt s fn id 0x000C := by
  simp [hostReadFails, hcmd, hstarted, hlists]

/-- Settles O52: each command's checks pass and its effect is the one written; the other events take the branch that their hypotheses choose. -/
theorem faultsAreReadClearedAndInjected : Obligations.FaultsAreReadClearedAndInjected := by
  unfold Obligations.FaultsAreReadClearedAndInjected
  refine ⟨?readHbm, ?readCompanion, ?readDenied, ?clear, ?policy, ?injectRecord, ?injectCell, ?injectHbm, ?injectLink, ?drain, ?poll,
    ?holdoff, ?poisoned, ?timeout, ?readFails⟩
  case readHbm =>
    rintro fn c _ _ s hcmd hrange hbme rfl rfl
    exact ⟨_, _, rfl, rfl, execFaultReadLog_of_hbm hcmd hrange hbme⟩
  case readCompanion =>
    rintro fn c _ s hcmd hpf hrange hbme rfl
    exact execFaultReadLog_of_companion hcmd hrange hpf hbme
  case readDenied =>
    intro fn c s hcmd hvf hrange
    exact execFaultReadLog_of_vf_companion hcmd hrange hvf
  case clear =>
    intro fn c s hcmd
    exact ⟨_, rfl, execFaultClear_of_started hcmd⟩
  case policy =>
    intro fn c s hcmd hrange
    exact ⟨_, rfl, execFaultPolicy_of_ranged hcmd hrange⟩
  case injectRecord =>
    rintro fn c _ s hcmd ⟨hty, hflags, hcls, hpad⟩ hpart rfl
    exact execFaultInjectRecord_of_ranged hcmd ⟨hty, hflags⟩ hcls hpad hpart
  case injectCell =>
    rintro fn c _ s hcmd htype hin hreach rfl
    exact execFaultInjectCellEcc_of_reachable hcmd htype hin hreach
  case injectHbm =>
    intro fn c s hcmd htype hin hready
    exact execFaultInjectHbmEcc_of_ready hcmd htype hin hready
  case injectLink =>
    rintro fn c _ s hcmd htype rfl hport hup
    exact execFaultInjectLinkCrc_of_up hcmd htype hport hup
  case drain => exact fun r q s => execErrlogCommitDrain_of_open
  case poll => exact fun s => execCompanionLogPoll_of_running
  case holdoff =>
    intro fn s hhold
    exact ⟨_, rfl, execErrorRecordedHoldoff_of_none hhold, execErrorRecordedHoldoff_of_some hhold⟩
  case poisoned => exact fun fn s => ⟨rfl, fun id => rfl⟩
  case timeout => exact fun fn s => ⟨rfl, fun id => rfl⟩
  case readFails => exact fun fn id c s => hostReadFails_of_no_lists

end Sys2Proof.Machine
end

section
/-! SUPPORT. A step by its queue: the front command on the rest of it, or a tick (log entry 5); what a step takes off it. -/

namespace Sys2Proof.Machine

theorem step_of_cons {c : Instr} {r : List Instr} {s : State} (hcons : s.pending = c :: r) : step s = exec c { s with pending := r } := by
  rw [step, hcons]

theorem step_of_nil {s : State} (hnil : s.pending = []) : step s = tick s := by
  rw [step, hnil]

/-- Settles O1: `step` matches on the queue. -/
theorem frontCommandIsExecuted : Obligations.FrontCommandIsExecuted :=
  ⟨fun _ _ _ => step_of_cons, fun _ => step_of_nil⟩

/-- Settles O2: every meaning keeps the queue it is given (`exec_keep`), and a step is given the queue without its front. -/
theorem queueIsFirstInFirstOut : Obligations.QueueIsFirstInFirstOut :=
  ⟨fun c s t hexec => (exec_keep (Keep.refl s) c t hexec).pending_eq, fun s t hstep => (step_keep s t hstep).pending_eq⟩

end Sys2Proof.Machine
end

section
/-! SUPPORT. A JTAG instruction by the one that it acts as: the register shifted, what stays of it, and who drives the pins (R908, R909). -/

namespace Sys2Proof.Machine

/-- The instructions that act on the pins, which PERST# makes BYPASS on the die (R909). -/
def JtagInstr.actsOnPins (i : JtagInstr) : Bool := i = .extest || i = .clamp || i = .highz

/-- What a device takes instruction `i` for: BYPASS where it acts on the pins of a die out of PERST# (R909). -/
def actingInstr (i : JtagInstr) (dev : Fin 2) (s : State) : JtagInstr := if i.actsOnPins && dev.val = 0 && !s.rst.perst then .bypass else i

/-- What the data register of an instruction holds as its shift begins (R908). -/
def capturedBits (j : JtagInstr) (dev : Fin 2) (pins : List Bool) : List Bool :=
  match j with
  | .samplePreload | .extest => pins
  | .idcode => (List.range 32).map (fun k => (idcodeOf dev).getLsbD k)
  | .bypass | .clamp | .highz => [false]

/-- What drives the pins under an instruction (R908, R909). -/
def drivenBy (j : JtagInstr) : PinDrive :=
  match j with
  | .extest | .clamp => .boundary
  | .highz => .highz
  | .bypass | .samplePreload | .idcode => .functional

/-- The device with `i` loaded, acting as `j`, and `left` in its data register after the shift; the identifier keeps nothing. -/
def JtagDev.shifted (d : JtagDev) (i j : JtagInstr) (left : List Bool) : JtagDev :=
  match j with
  | .samplePreload | .extest => { d with instr := i, boundary := left, drive := drivenBy j }
  | .idcode => { d with instr := i, drive := drivenBy j }
  | .bypass | .clamp | .highz => { d with instr := i, bypassBit := left.getLastD false, drive := drivenBy j }

@[simp] theorem JtagDev.shifted_drive (d : JtagDev) (i j : JtagInstr) (left : List Bool) : (d.shifted i j left).drive = drivenBy j := by
  cases j <;> rfl

/-- The state after the shift of `tdi` in a device that acts on `i` as `j`. -/
def State.jtagShifted (s : State) (i j : JtagInstr) (dev : Fin 2) (pins tdi : List Bool) : State :=
  { s with jtag := {
    dev := tset s.jtag.dev dev ((tget JtagDev.init s.jtag.dev dev).shifted i j ((capturedBits j dev pins ++ tdi).drop tdi.length))
    tdo := (capturedBits j dev pins ++ tdi).take tdi.length } }

theorem State.jtagShifted_drive (s : State) (i j : JtagInstr) (dev : Fin 2) (pins tdi : List Bool) :
    (tget JtagDev.init (s.jtagShifted i j dev pins tdi).jtag.dev dev).drive = drivenBy j := by
  simp [State.jtagShifted, tget_tset_self]

section
variable {i : JtagInstr} {dev : Fin 2} {pins tdi : List Bool} {s : State}

theorem actingInstr_of_not_on_pins (hpins : i.actsOnPins = false) : actingInstr i dev s = i := by
  simp [actingInstr, hpins]

theorem actingInstr_of_companion_or_perst (hfree : dev.val = 1 ∨ s.rst.perst = true) : actingInstr i dev s = i := by
  obtain hdev | hperst := hfree
  · simp [actingInstr, hdev]
  · simp [actingInstr, hperst]

theorem actingInstr_of_die_out_of_perst (hpins : i.actsOnPins = true) (hperst : s.rst.perst = false) : actingInstr i 0 s = .bypass := by
  simp [actingInstr, hpins, hperst]

/-- Loading and shifting, once for all six instructions: the one that is acted as chooses the register and the drive. -/
theorem jtagRun_of_live (hlive : jtagLive s dev = true) :
    jtagRun i dev pins tdi s = .next (s.jtagShifted i (actingInstr i dev s) dev pins tdi) := by
  have hacting : (if (i = .extest || i = .clamp || i = .highz) && dev.val = 0 && !s.rst.perst then JtagInstr.bypass else i) =
      actingInstr i dev s := rfl
  rw [jtagRun, if_neg (by simp [hlive])]
  dsimp only
  rw [hacting]
  cases actingInstr i dev s <;> rfl

variable (i pins) in
theorem jtagRun_of_not_on_pins (hlive : jtagLive s dev = true) (hpins : i.actsOnPins = false) :
    jtagRun i dev pins tdi s = .next (s.jtagShifted i i dev pins tdi) := by
  rw [jtagRun_of_live hlive, actingInstr_of_not_on_pins hpins]

theorem jtagRun_of_companion_or_perst (hlive : jtagLive s dev = true) (hfree : dev.val = 1 ∨ s.rst.perst = true) :
    jtagRun i dev pins tdi s = .next (s.jtagShifted i i dev pins tdi) := by
  rw [jtagRun_of_live hlive, actingInstr_of_companion_or_perst hfree]

theorem jtagRun_of_die_out_of_perst (hlive : jtagLive s 0 = true) (hpins : i.actsOnPins = true) (hperst : s.rst.perst = false) :
    jtagRun i 0 pins tdi s = .next (s.jtagShifted i .bypass 0 pins tdi) := by
  rw [jtagRun_of_live hlive, actingInstr_of_die_out_of_perst hpins hperst]
end

/-- Settles O53: the state that each clause writes out is `jtagShifted` for the instruction that is acted as. -/
theorem jtagShiftsItsRegisters : Obligations.JtagShiftsItsRegisters := by
  unfold Obligations.JtagShiftsItsRegisters
  refine ⟨?bypass, ?samplePreload, ?extest, ?idcode, ?clamp, ?highz, ?dieOutOfPerst, ?trst⟩
  case bypass => exact fun dev pins tdi s hlive => ⟨_, rfl, jtagRun_of_not_on_pins .bypass pins hlive rfl⟩
  case samplePreload => exact fun dev pins tdi s hlive => ⟨_, rfl, jtagRun_of_not_on_pins .samplePreload pins hlive rfl⟩
  case extest => exact fun dev pins tdi s hlive hfree => ⟨_, rfl, jtagRun_of_companion_or_perst hlive hfree⟩
  case idcode => exact fun dev pins tdi s hlive => ⟨_, _, rfl, rfl, jtagRun_of_not_on_pins .idcode pins hlive rfl⟩
  case clamp => exact fun dev pins tdi s hlive hfree => ⟨_, rfl, jtagRun_of_companion_or_perst hlive hfree⟩
  case highz => exact fun dev pins tdi s hlive hfree => ⟨_, rfl, jtagRun_of_companion_or_perst hlive hfree⟩
  case dieOutOfPerst =>
    intro pins tdi s hlive hperst
    exact ⟨_, fun i => s.jtagShifted i .bypass 0 pins tdi, rfl, fun _ => rfl, jtagRun_of_die_out_of_perst hlive rfl hperst,
      jtagRun_of_die_out_of_perst hlive rfl hperst, jtagRun_of_die_out_of_perst hlive rfl hperst⟩
  case trst => exact fun s => rfl

/-- Settles O55: out of PERST# the three shift as BYPASS does; under PERST# each drives the pins as `drivenBy` says. -/
theorem boundaryScanActsOnlyWhilePerstIsLow : Obligations.BoundaryScanActsOnlyWhilePerstIsLow := by
  unfold Obligations.BoundaryScanActsOnlyWhilePerstIsLow
  refine ⟨?high, ?low⟩
  case high =>
    intro pins tdi s (hlive : jtagLive s 0 = true) hperst
    exact ⟨_, _, fun i => s.jtagShifted i .bypass 0 pins tdi, rfl, rfl, fun _ => rfl, jtagRun_of_not_on_pins .bypass pins hlive rfl,
      jtagRun_of_die_out_of_perst hlive rfl hperst, jtagRun_of_die_out_of_perst hlive rfl hperst,
      jtagRun_of_die_out_of_perst hlive rfl hperst⟩
  case low =>
    intro pins tdi s (hlive : jtagLive s 0 = true) hperst
    exact ⟨_, _, _, jtagRun_of_companion_or_perst hlive (.inr hperst), s.jtagShifted_drive _ _ 0 pins tdi,
      jtagRun_of_companion_or_perst hlive (.inr hperst), s.jtagShifted_drive _ _ 0 pins tdi,
      jtagRun_of_companion_or_perst hlive (.inr hperst), s.jtagShifted_drive _ _ 0 pins tdi⟩

end Sys2Proof.Machine
end
